-- ==== Sys2Proof/Word.lean ====
section
/-! DEFINITION. The word types of the machine: 64-bit words (R12), 32-bit instruction words (R71), bytes (R5),
and `Tab`, the one canonical sparse table in which every register file and memory is held. -/

namespace Sys2Proof

/-- A 64-bit general value (R12, R26). -/
abbrev Word := BitVec 64
/-- A 32-bit instruction word (R71) or lane, cell or element (R23, R24). -/
abbrev Half := BitVec 32
/-- A byte of memory (R249). -/
abbrev Byte := BitVec 8
/-- A predicate register (R13). -/
abbrev Pred := BitVec 128
/-- A vector register (R14). -/
abbrev Vec := BitVec 1024
/-- A G or V register number (R74). -/
abbrev Reg5 := BitVec 5
/-- A P, A or T register number, a queue port (R74). -/
abbrev Reg3 := BitVec 3

/-- A table from keys to values: strictly rising keys, no entry equal to what an unlisted key reads as. -/
abbrev Tab (α : Type) := List (Nat × α)

end Sys2Proof
end

