-- ==== Sys2Proof/Config.lean ====
section
/-! DEFINITION. What an implementation fixes, and the free values: constants with no body, so that nothing can be proved
of the number behind them. Each one is named in the assumption log. -/

namespace Sys2Proof.Config

/-- FREE VALUE (R151, log 10): which FP32 value within its error bound q gives for VLOG, by FP32 operand: the neighbour below or above
the exact result, or one further. -/
opaque qPick : Half → BitVec 8
/-- FREE VALUE (R151, log 10): the operand from which on a monotonic q gives at least an FP32 result, by function (VRCP 0 to VTANH 5) and
result. -/
opaque qFrom : Nat → Half → Half

/-- FREE VALUE (R57, log 11): the 16-bit draw of a core's generator, by core, count of reseedings and count of draws since. -/
opaque draw16 : Nat → Nat → Nat → BitVec 16

/-- FREE VALUE (R329, log 12): bytes of the seizure save area after a seizure, by the free-value counter and offset. -/
opaque saveAreaByte : Nat → Nat → Byte
/-- FREE VALUE (R309, log 13): bytes of a pre-emption save area, whose layout is not architectural. -/
opaque preemptSaveByte : Nat → Nat → Byte
/-- FREE VALUE (R276, log 14): which entry of a disagreeing page group translates an access, by chip time and entry. -/
opaque groupPick : Nat → Nat → Nat
/-- FREE VALUE (R262, log 15): what a byte of the row in progress holds when its engine stops, by the free-value counter. -/
opaque stoppedByte : Nat → Nat → Byte
/-- FREE VALUE (R379, log 16): what the sensor of a row of reasoning cores reads in degrees Celsius, by chip time and row. -/
opaque rowSensor : Nat → Nat → BitVec 8
/-- FREE VALUE (R379, log 16): the module's measured draw over the last 1 ms in watts, by chip time. -/
opaque measuredDraw : Nat → BitVec 16
/-- FREE VALUE (R368, log 17): what a read completed with Unsupported Request returns to the host. -/
opaque unsupportedRead : Nat → Word
/-- FREE VALUE (R375, log 18): whether a staged image's ML-DSA-87 signature verifies under the fused key. -/
opaque signatureValid : List Byte → Bool
/-- FREE VALUE (R375, log 18): the fused minimum security version. -/
opaque fusedMinSvn : Nat
/-- FREE VALUE (R375, log 18): the security version that an image's header holds; the header's layout is not given. -/
opaque imageSvn : List Byte → Nat
/-- FREE VALUE (R375, log 18): LEN as an image's header holds it. -/
opaque imageLen : List Byte → Nat
/-- FREE VALUE (R84, log 83): whether a fetch of a word that the instruction cache holds takes the cached word, by the free-value
counter. -/
opaque fetchPick : Nat → Bool
/-- FREE VALUE (R363, log 32): where the translator puts the stubs of a function's program, in units of 64 bytes. -/
opaque stubBase : Nat → Nat
/-- FREE VALUE (R358, log 31): the address of the firmware library's routine for a feature bit. -/
opaque libraryAt : Nat → Word
/-- FREE VALUE (R376, log 18): the EMUBASE value of a firmware bank, by bank. -/
opaque bankEmubase : Bool → Word
/-- FREE VALUE (R354, log 19): contents of memory written by a refused load. -/
opaque refusedLoadByte : Nat → Nat → Byte
/-- FREE VALUE (R362, log 20): the number that the fault service gives a record as its token, by post count. -/
opaque tokenOf : Nat → Word

/-- FREE VALUE (R268, R343, log 28): the channel, bank, row and column of a DRAM sector, which are not architectural. -/
opaque dramSite : Nat → Nat × Nat × Nat × Nat
/-- FREE VALUE (R343, log 28): the DQ lane of a corrected error, by the free-value counter. -/
opaque errorLane : Nat → Nat

/-- FREE VALUE (R343, R345, log 28): how DETAIL holds bank, row, column and lane of a DRAM error. -/
opaque dramDetail : Nat → Nat → Nat → Nat → Word
/-- FREE VALUE (R381, log 29): whether the DRAM row of a sector lies wholly within a range of base and length. -/
opaque rowWithin : Nat → Nat → Nat → Bool
/-- FREE VALUE (R381, log 29): bytes of rows declared in use again without a write, by the free-value counter and address. -/
opaque staleByte : Nat → Nat → Byte
/-- FREE VALUE: core memory outside the resident range after a pre-emption (R309, log 13), and bytes that were dirty in L2 at a device
reset (R384, log 103), by the free-value counter and offset or address. -/
opaque lostByte : Nat → Nat → Byte
/-- FREE VALUE (R348, log 30): whether a relaxed store in flight at a function-level reset is performed, by the free-value
counter. -/
opaque flrPerforms : Nat → Bool
/-- FREE VALUE (R354, log 31): whether the firmware library holds a routine for a feature bit. -/
opaque libraryHas : Nat → Bool
/-- FREE VALUE (R363, log 32): what a Yilyan stub leaves in G28 and G29, by the free-value counter. -/
opaque stubScratch : Nat → Word
/-- FREE VALUE (R359, log 32): messages that a Yilyan channel's carrier has room for, by channel. -/
opaque channelRoom : Nat → Nat

/-- The 512-bit feature mask of the T2: bits 0 to 14 (R357). -/
def featMask : BitVec 512 := 0x7FFF

/-- Cores 0-63 are reasoning cores, 64-95 reflex cores (R1). -/
def isReflex (core : Nat) : Bool := 64 ≤ core

/-- Contexts of a core: 11 on a reasoning core, 4 banks on a reflex core (R1). -/
def numContexts (core : Nat) : Nat := if isReflex core then 4 else 11

end Sys2Proof.Config
end

