-- ==== Sys2Proof/Syntax.lean ====
section
/-! DEFINITION. The instructions and device events: one constructor per row of the opcode table. Register fields are the
register numbers of R74; enumerated fields are inductive types with their codes (R78, R80). -/

namespace Sys2Proof

/-- A register or a literal in its place (R76). -/
inductive Src where
  | reg (r : Reg5)
  | lit (v : Word)
deriving DecidableEq, Repr

/-- A short immediate of n bits, or the 64-bit literal in its place (R76, R94). -/
inductive Imm (n : Nat) where
  | short (v : BitVec n)
  | lit (v : Word)
deriving DecidableEq, Repr

/-- ORD of R78. -/
inductive Order where
  | rlx | acq | rel | ar | sc
deriving DecidableEq, Repr

/-- SCOPE of R78. -/
inductive Scope where
  | ctx | core | cluster | array | device | system
deriving DecidableEq, Repr

/-- SPACE of R78. -/
inductive Space where
  | glob | loc | dist
deriving DecidableEq, Repr

/-- Condition codes of R105. -/
inductive Cc where
  | eq | ne | lt | le | ltu | leu
deriving DecidableEq, Repr

/-- Operations 0 to 9 of the AT format (R80). -/
inductive AmoOp where
  | add | and | or | xor | min | max | minu | maxu | swap | fadd
deriving DecidableEq, Repr

/-- Failure orders of CAS: OP 10, 11, 12 (R80). -/
inductive CasFail where
  | rlx | acq | sc
deriving DecidableEq, Repr

/-- Vector floating-point lane formats: majors 0x20-0x22 and FI 0-2. -/
inductive VF where
  | f32 | bf16 | f16
deriving DecidableEq, Repr

/-- Vector integer lane formats: majors 0x23-0x25 and FI 3-5. -/
inductive VI where
  | i32 | i16 | i8
deriving DecidableEq, Repr

/-- FI of R78. -/
inductive FI where
  | f (x : VF)
  | i (x : VI)
deriving DecidableEq, Repr

/-- ES of R78. -/
inductive ES where
  | b | h | w | d
deriving DecidableEq, Repr

/-- Element format codes 0x01 to 0x0E of R21. -/
inductive Fmt where
  | fp32 | bf16 | fp16 | e4m3 | e5m2 | e3m2 | e2m3 | e2m1 | int32 | int16 | int8 | int4 | sp32 | blk
deriving DecidableEq, Repr

/-- The VEC extension of R80: lane predicate and zeroing. -/
structure VExt where
  lp : Reg3
  zm : Bool
deriving DecidableEq, Repr

/-- The ACC extension's E1 of R80. -/
structure Region where
  row : BitVec 8
  col : BitVec 7
  nr1 : BitVec 5
  nc1 : BitVec 7
deriving DecidableEq, Repr

/-- ACT of MXEPI (R80). -/
inductive Act where
  | none | relu | sigmoid | tanh
deriving DecidableEq, Repr

/-- GKIND of MXGATE (R80). -/
inductive Gate where
  | lstm | gru | mgu
deriving DecidableEq, Repr

/-- The pass count of REP: a G register other than G0, or an immediate (R80). -/
inductive Count where
  | reg (r : Reg5)
  | imm (v : BitVec 14)
deriving DecidableEq, Repr

/-- Engine codes of PUSH (R80). -/
inductive Engine where
  | copy | walk | dispenser
deriving DecidableEq, Repr

/-- The four tile memory operations of major 0x2C (R166). -/
inductive TileOp where
  | tld | tst | tldb | tldt
deriving DecidableEq, Repr

/-- The step fields of REP's extension words (R80). -/
structure RepSteps where
  d : BitVec 4
  a : BitVec 4
  b : BitVec 4
  o : BitVec 16
  apply : BitVec 32
deriving DecidableEq, Repr

/-- A tree-form operand set of the sum-product engine: SHAPE and XB of E1 (R203). -/
structure SpeExt where
  shape : BitVec 8
  xb : BitVec 8
deriving DecidableEq, Repr

/-- One constructor per row of the opcode table: encoded instructions first, then device events. -/
inductive Instr where
  -- scalar ALU, major 0x01 (R99)
  | add (d a : Reg5) (b : Src) (g : Reg3)
  | sub (d a : Reg5) (b : Src) (g : Reg3)
  | mul (d a : Reg5) (b : Src) (g : Reg3)
  | mulh (d a : Reg5) (b : Src) (g : Reg3)
  | mulhu (d a : Reg5) (b : Src) (g : Reg3)
  | div (d a : Reg5) (b : Src) (g : Reg3)
  | divu (d a : Reg5) (b : Src) (g : Reg3)
  | rem (d a : Reg5) (b : Src) (g : Reg3)
  | remu (d a : Reg5) (b : Src) (g : Reg3)
  | and (d a : Reg5) (b : Src) (g : Reg3)
  | or (d a : Reg5) (b : Src) (g : Reg3)
  | xor (d a : Reg5) (b : Src) (g : Reg3)
  | andn (d a : Reg5) (b : Src) (g : Reg3)
  | orn (d a : Reg5) (b : Src) (g : Reg3)
  | shl (d a : Reg5) (b : Src) (g : Reg3)
  | shr (d a : Reg5) (b : Src) (g : Reg3)
  | sra (d a : Reg5) (b : Src) (g : Reg3)
  | rotl (d a : Reg5) (b : Src) (g : Reg3)
  | min (d a : Reg5) (b : Src) (g : Reg3)
  | max (d a : Reg5) (b : Src) (g : Reg3)
  | minu (d a : Reg5) (b : Src) (g : Reg3)
  | maxu (d a : Reg5) (b : Src) (g : Reg3)
  -- bit operations, major 0x02 (R103)
  | clz (d a : Reg5) (g : Reg3)
  | ctz (d a : Reg5) (g : Reg3)
  | popc (d a : Reg5) (g : Reg3)
  | brev (d a : Reg5) (g : Reg3)
  | bswap (d a : Reg5) (g : Reg3)
  | sextB (d a : Reg5) (g : Reg3)
  | sextH (d a : Reg5) (g : Reg3)
  | sextW (d a : Reg5) (g : Reg3)
  | zextB (d a : Reg5) (g : Reg3)
  | zextH (d a : Reg5) (g : Reg3)
  | zextW (d a : Reg5) (g : Reg3)
  | mov (d a : Reg5) (g : Reg3)
  | sel (d a : Reg5) (b : Src) (ps g : Reg3)
  -- immediates, majors 0x04-0x09 (R101, R102)
  | addi (d a : Reg5) (i : Imm 14)
  | andi (d a : Reg5) (i : Imm 14)
  | ori (d a : Reg5) (i : Imm 14)
  | xori (d a : Reg5) (i : Imm 14)
  | shli (d a : Reg5) (n : BitVec 6)
  | shri (d a : Reg5) (n : BitVec 6)
  | srai (d a : Reg5) (n : BitVec 6)
  | rotli (d a : Reg5) (n : BitVec 6)
  | movi (d : Reg5) (i : BitVec 14)
  | moviLit (d : Reg5) (v : Word)
  -- compare and predicate logic (R105, R106)
  | cmpEq (d : Reg3) (a : Reg5) (b : Src) (g : Reg3)
  | cmpNe (d : Reg3) (a : Reg5) (b : Src) (g : Reg3)
  | cmpLt (d : Reg3) (a : Reg5) (b : Src) (g : Reg3)
  | cmpLe (d : Reg3) (a : Reg5) (b : Src) (g : Reg3)
  | cmpLtu (d : Reg3) (a : Reg5) (b : Src) (g : Reg3)
  | cmpLeu (d : Reg3) (a : Reg5) (b : Src) (g : Reg3)
  | cmpiEq (d : Reg3) (a : Reg5) (i : Imm 11)
  | cmpiNe (d : Reg3) (a : Reg5) (i : Imm 11)
  | cmpiLt (d : Reg3) (a : Reg5) (i : Imm 11)
  | cmpiLe (d : Reg3) (a : Reg5) (i : Imm 11)
  | cmpiLtu (d : Reg3) (a : Reg5) (i : Imm 11)
  | cmpiLeu (d : Reg3) (a : Reg5) (i : Imm 11)
  | pand (d a b g : Reg3)
  | por (d a b g : Reg3)
  | pxor (d a b g : Reg3)
  | pnot (d a g : Reg3)
  | pmov (d a g : Reg3)
  -- pointers, major 0x0D (R107-R109)
  | aput (d : Reg3) (a : Reg5) (g : Reg3)
  | aget (d : Reg5) (a : Reg3) (g : Reg3)
  | ainc (d : Reg3) (b : Src) (g : Reg3)
  | acfg (d : Reg3) (a b : Reg5) (g : Reg3)
  -- control flow (R110-R113)
  | br (g : Reg3) (disp : BitVec 21)
  | bl (g : Reg3) (disp : BitVec 21)
  | jr (a : Reg5) (g : Reg3)
  | jlr (a : Reg5) (g : Reg3)
  | ret (g : Reg3)
  | rep (nm1 : Reg5) (n : Count)
  | repStepped (nm1 : Reg5) (n : Count) (s : RepSteps)
  | nop
  | illegal
  -- scalar memory (R122, R123)
  | ld (d a : Reg5) (loc : Bool) (z : BitVec 2) (i : BitVec 7) (g : Reg3)
  | ldExt (d a : Reg5) (loc : Bool) (z : BitVec 2) (i : Imm 7) (o : Option Order) (g : Reg3)
  | lda (d : Reg5) (a : Reg3) (z : BitVec 2) (i : BitVec 7) (o : Option Order) (g : Reg3)
  | ldS (d a : Reg5) (loc : Bool) (z : BitVec 2) (i : BitVec 7) (g : Reg3)
  | ldSExt (d a : Reg5) (loc : Bool) (z : BitVec 2) (i : Imm 7) (o : Option Order) (g : Reg3)
  | ldaS (d : Reg5) (a : Reg3) (z : BitVec 2) (i : BitVec 7) (o : Option Order) (g : Reg3)
  | st (d a : Reg5) (loc : Bool) (z : BitVec 2) (i : BitVec 7) (g : Reg3)
  | stExt (d a : Reg5) (loc : Bool) (z : BitVec 2) (i : Imm 7) (o : Option Order) (g : Reg3)
  | sta (d : Reg5) (a : Reg3) (z : BitVec 2) (i : BitVec 7) (o : Option Order) (g : Reg3)
  -- vector memory (R125)
  | vld (d a : Reg5) (s : Space) (off : Option Word) (x : Option VExt) (g : Reg3)
  | vst (d a : Reg5) (s : Space) (off : Option Word) (x : Option VExt) (g : Reg3)
  | vlds (d a b : Reg5) (s : Space) (w : Bool) (off : Option Word) (x : Option VExt) (g : Reg3)
  | vgth (d a b : Reg5) (s : Space) (w : Bool) (off : Option Word) (x : Option VExt) (g : Reg3)
  | vsct (d a b : Reg5) (s : Space) (w : Bool) (off : Option Word) (x : Option VExt) (g : Reg3)
  -- atomics (R132-R135)
  | amo (d a b : Reg5) (op : AmoOp) (o : Order) (w : Bool)
  | cas (d a b : Reg5) (f : CasFail) (o : Order) (w : Bool)
  | amoLocal (d a b : Reg5) (op : AmoOp) (o : Order) (w p : Bool)
  | casLocal (d a b : Reg5) (f : CasFail) (o : Order) (w p : Bool)
  | amof (d a : Reg3) (b : Reg5) (op : AmoOp) (o : Order) (w : Bool)
  -- fences, entry consistency, cache, streams, major 0x1F (R127-R140)
  | fence (o : Order) (s : Scope) (g : Reg3)
  | acq (a : Reg5) (g : Reg3)
  | rel (a : Reg5) (g : Reg3)
  | pref (a : Reg5) (off : Option Word) (g : Reg3)
  | clean (a : Reg5) (off : Option Word) (g : Reg3)
  | czero (a : Reg5) (off : Option Word) (g : Reg3)
  | sbind (d : BitVec 2) (a : Reg5) (g : Reg3)
  | sfree (d : BitVec 2) (g : Reg3)
  -- vector floating point (R150, R151)
  | vadd (m : VF) (d a b : Reg5) (x : Option VExt) (g : Reg3)
  | vsub (m : VF) (d a b : Reg5) (x : Option VExt) (g : Reg3)
  | vmul (m : VF) (d a b : Reg5) (x : Option VExt) (g : Reg3)
  | vfma (m : VF) (d a b : Reg5) (x : Option VExt) (g : Reg3)
  | vfms (m : VF) (d a b : Reg5) (x : Option VExt) (g : Reg3)
  | vfnma (m : VF) (d a b : Reg5) (x : Option VExt) (g : Reg3)
  | vmin (m : VF) (d a b : Reg5) (x : Option VExt) (g : Reg3)
  | vmax (m : VF) (d a b : Reg5) (x : Option VExt) (g : Reg3)
  | vabs (m : VF) (d a : Reg5) (x : Option VExt) (g : Reg3)
  | vneg (m : VF) (d a : Reg5) (x : Option VExt) (g : Reg3)
  | vdiv (m : VF) (d a b : Reg5) (x : Option VExt) (g : Reg3)
  | vsqrt (m : VF) (d a : Reg5) (x : Option VExt) (g : Reg3)
  | vrcp (m : VF) (d a : Reg5) (x : Option VExt) (g : Reg3)
  | vrsq (m : VF) (d a : Reg5) (x : Option VExt) (g : Reg3)
  | vexp (m : VF) (d a : Reg5) (x : Option VExt) (g : Reg3)
  | vlog (m : VF) (d a : Reg5) (x : Option VExt) (g : Reg3)
  | vsig (m : VF) (d a : Reg5) (x : Option VExt) (g : Reg3)
  | vtanh (m : VF) (d a : Reg5) (x : Option VExt) (g : Reg3)
  -- vector integer (R152)
  | viadd (m : VI) (d a b : Reg5) (x : Option VExt) (g : Reg3)
  | visub (m : VI) (d a b : Reg5) (x : Option VExt) (g : Reg3)
  | vimul (m : VI) (d a b : Reg5) (x : Option VExt) (g : Reg3)
  | vimin (m : VI) (d a b : Reg5) (x : Option VExt) (g : Reg3)
  | vimax (m : VI) (d a b : Reg5) (x : Option VExt) (g : Reg3)
  | vshl (m : VI) (d a b : Reg5) (x : Option VExt) (g : Reg3)
  | vshr (m : VI) (d a b : Reg5) (x : Option VExt) (g : Reg3)
  | vsra (m : VI) (d a b : Reg5) (x : Option VExt) (g : Reg3)
  | vand (m : VI) (d a b : Reg5) (x : Option VExt) (g : Reg3)
  | vor (m : VI) (d a b : Reg5) (x : Option VExt) (g : Reg3)
  | vxor (m : VI) (d a b : Reg5) (x : Option VExt) (g : Reg3)
  | vnot (m : VI) (d a : Reg5) (x : Option VExt) (g : Reg3)
  -- compare (R153)
  | vcmp (c : Cc) (f : VF) (d : Reg3) (a b : Reg5) (x : Option VExt) (g : Reg3)
  | vicmp (c : Cc) (f : VI) (d : Reg3) (a b : Reg5) (x : Option VExt) (g : Reg3)
  -- lane movement (R154, R155)
  | vmov (e : ES) (d a : Reg5) (x : Option VExt) (g : Reg3)
  | vbcast (e : ES) (d a : Reg5) (x : Option VExt) (g : Reg3)
  | vext (e : ES) (d a : Reg5) (b : Src) (x : Option VExt) (g : Reg3)
  | vins (e : ES) (d a : Reg5) (b : Src) (x : Option VExt) (g : Reg3)
  | vperm (e : ES) (d a b : Reg5) (x : Option VExt) (g : Reg3)
  | vslide (e : ES) (d a : Reg5) (b : Src) (x : Option VExt) (g : Reg3)
  | vzip (e : ES) (d a b : Reg5) (x : Option VExt) (g : Reg3)
  | vunzip (e : ES) (d a b : Reg5) (x : Option VExt) (g : Reg3)
  | vcomp (e : ES) (d a : Reg5) (x : Option VExt) (g : Reg3)
  | vexpd (e : ES) (d a : Reg5) (x : Option VExt) (g : Reg3)
  | viota (e : ES) (d : Reg5) (x : Option VExt) (g : Reg3)
  | vsel (e : ES) (d a b : Reg5) (x : Option VExt) (g : Reg3)
  -- conversion and reduction (R156-R160)
  | vcvt (df sf : Fmt) (sat : Bool) (d a : Reg5) (x : VExt) (g : Reg3)
  | vredAdd (f : FI) (d a : Reg5) (x : Option VExt) (g : Reg3)
  | vredMin (f : FI) (d a : Reg5) (x : Option VExt) (g : Reg3)
  | vredMax (f : FI) (d a : Reg5) (x : Option VExt) (g : Reg3)
  | vredAnd (f : VI) (d a : Reg5) (x : Option VExt) (g : Reg3)
  | vredOr (f : VI) (d a : Reg5) (x : Option VExt) (g : Reg3)
  | vredXor (f : VI) (d a : Reg5) (x : Option VExt) (g : Reg3)
  | vbtst (e : ES) (d : Reg3) (a b : Reg5) (x : Option VExt) (g : Reg3)
  | vpcnt (e : ES) (d : Reg5) (a : Reg3) (x : Option VExt) (g : Reg3)
  | vfirst (e : ES) (d : Reg5) (a : Reg3) (x : Option VExt) (g : Reg3)
  -- tiles and matrix (R166-R181)
  | tld (d : Reg3) (a b : Reg5) (s : Space) (g : Reg3)
  | tst (d : Reg3) (a b : Reg5) (s : Space) (g : Reg3)
  | tldb (d : Reg3) (a b : Reg5) (s : Space) (g : Reg3)
  | tldt (d : Reg3) (a b : Reg5) (s : Space) (g : Reg3)
  | tldLit (op : TileOp) (d : Reg3) (a b : Reg5) (s : Space) (off : Word) (g : Reg3)
  | tzero (d g : Reg3)
  | accz (r : Region) (g : Reg3)
  | accrd (d : Reg5) (r : Region) (g : Reg3)
  | accwr (a : Reg5) (r : Region) (g : Reg3)
  | accld (a : Reg5) (r : Region) (off : Option Word) (g : Reg3)
  | accst (a : Reg5) (r : Region) (off : Option Word) (g : Reg3)
  | mma (a b : Reg3) (r : Region) (g : Reg3)
  | mxepi (d : Reg3) (a : Reg5) (r : Region) (act : Act) (sat bias : Bool) (g : Reg3)
  | mxgate (d : Reg3) (r : Region) (k : Gate) (g : Reg3)
  | mxred (int : Bool) (a : Reg5) (r : Region) (off : Option Word) (g : Reg3)
  | mxsend (d a b : Reg5) (c : BitVec 2) (g : Reg3)
  -- exact geometry (R187-R192): dbl selects FP64 lanes
  | gori2 (dbl : Bool) (d a b : Reg5) (tb nf : Bool) (g : Reg3)
  | gori3 (dbl : Bool) (d a b : Reg5) (tb nf : Bool) (g : Reg3)
  | gincir (dbl : Bool) (d a b : Reg5) (tb nf : Bool) (g : Reg3)
  | ginsph (dbl : Bool) (d a b : Reg5) (tb nf : Bool) (g : Reg3)
  | gsegx (dbl : Bool) (d a b : Reg5) (tb nf : Bool) (g : Reg3)
  | gsegt (dbl : Bool) (d a b : Reg5) (tb nf : Bool) (g : Reg3)
  -- sum-product (R203)
  | spld (xd : BitVec 8) (a : Reg5) (g : Reg3)
  | spldExt (xd : BitVec 8) (a : Reg5) (nm1 : Option (BitVec 4)) (off : Option Word) (g : Reg3)
  | spst (xd : BitVec 8) (a : Reg5) (g : Reg3)
  | spstExt (xd : BitVec 8) (a : Reg5) (nm1 : Option (BitVec 4)) (off : Option Word) (g : Reg3)
  | spmov (xd xa : BitVec 8) (g : Reg3)
  | spset (xd : BitVec 8) (a : Reg5) (g : Reg3)
  | sptree (xd xa : BitVec 8) (e : SpeExt) (g : Reg3)
  | spup (xd xa : BitVec 8) (e : SpeExt) (g : Reg3)
  | spdn (xd xa : BitVec 8) (e : SpeExt) (g : Reg3)
  | spnorm (xd xa : BitVec 8) (g : Reg3)
  | spcvt (xd xa : BitVec 8) (g : Reg3)
  | spmax (xd xa : BitVec 8) (e : SpeExt) (g : Reg3)
  -- synchronisation and messaging (R219-R236)
  | bar (lvl : BitVec 2) (g : Reg3)
  | bararv (a : Reg5) (g : Reg3)
  | barwt (a : Reg5) (g : Reg3)
  | xph (g : Reg3)
  | push (d : Reg5) (e : Engine) (g : Reg3)
  | tlrd (d t : Reg5) (g : Reg3)
  | tlwt (a t : Reg5) (g : Reg3)
  | tlwtLit (v : Word) (t : Reg5) (g : Reg3)
  | send (d a b : Reg5) (g : Reg3)
  | recv (d a : Reg5) (g : Reg3)
  | rpoll (d a : Reg5) (g : Reg3)
  | qrd (d : Reg5) (q : Reg3) (g : Reg3)
  | qwr (d a : Reg5) (q : Reg3) (g : Reg3)
  | start (d a b : Reg5) (g : Reg3)
  | joinh (a : Reg5) (g : Reg3)
  | exit (g : Reg3)
  | region (g : Reg3)
  | ckpt (a : Reg5) (g : Reg3)
  -- Mirror and time (R237-R241)
  | mpub (d a b : Reg5) (len : BitVec 11) (g : Reg3)
  | mread (d a b : Reg5) (len : BitVec 11) (g : Reg3)
  | mwait (d a b : Reg5) (g : Reg3)
  | time (d : Reg5) (g : Reg3)
  | sleep (b : Reg5) (g : Reg3)
  | sleepLit (v : Word) (g : Reg3)
  | wfe (g : Reg3)
  -- system (R242-R247)
  | mfs (d : Reg5) (n : BitVec 12)
  | mts (a : Reg5) (n : BitVec 12)
  | trap (c : BitVec 12)
  | eret
  | tlbfl
  | tlbren (d a : Reg5)
  | capld (a : Reg5) (c : BitVec 2)
  | capclr (c : BitVec 2)
  -- Yilyan channel operations (R360)
  | chsend (d a b : Reg5) (g : Reg3)
  | chrecv (d a b : Reg5) (g : Reg3)
  | chclose (a : Reg5) (g : Reg3)
  | vcid (d : Reg5) (g : Reg3)
  -- DEVICE EVENTS (no encoding): translation, memory and faults
  | streamReadAhead (core ctx j : Nat)
  | sideLogReplay (core n : Nat)
  | heldAccessResume (core ctx : Nat)
  | faultRecordPost (cluster n : Nat)
  | faultAnswerMapped (token : Word)
  | faultAnswerInvalid (token : Word)
  | pageWalkComplete (core : Nat) (va : Word) (write fetch : Bool)
  | tlbEntryExpiry (core : Nat)
  | memoryRequestAtHome (n : Nat)
  | refusedRequestReissue (n : Nat)
  | accessResponse (n : Nat)
  | remoteCoreMemoryAccess (n : Nat)
  | amofArrival (n : Nat)
  | bararvArrival (n : Nat)
  | dramSectorFill (pa : Nat) (crc poison : Bool)
  | leaseRenewalWalk (cluster chan : Nat)
  | clockSkew (core : Nat) (err : Half)
  | clockSkewCleared (core : Nat)
  | scOperationComplete (n : Nat)
  | contextWake (core ctx : Nat)
  | sleepDeadline (core ctx : Nat)
  | barrierArrival (n : Nat)
  | sendArrival (n : Nat)
  | sendAnswer (n : Nat)
  -- seizure
  | seizureArrival (n : Nat)
  | seizureAccept (core : Nat)
  | seizureDrainEnd (core : Nat)
  | seizureSaveEnd (core : Nat)
  | seizureRunEnd (core : Nat)
  | seizureRestoreEnd (core : Nat)
  | seizureResultAtRing (n : Nat)
  -- Mirror
  | mirrorPublication (n : Nat)
  | mirrorFlip (slot : Nat)
  | mirrorReadArrival (n : Nat)
  | mirrorReadDone (n : Nat)
  | mirrorGrantWrite (slot word : Nat) (v : Word)
  | mirrorGrantInEffect (slot : Nat)
  -- reflex, traps and recovery
  | periodicTrigger (core bank : Nat)
  | watchdog (core bank : Nat)
  | trapDelivery (core ctx : Nat)
  | rollback (core ctx : Nat) (unit : BitVec 4)
  | timingReplay (core : Nat) (mask : BitVec 11)
  | lockstepMismatch (core : Nat)
  -- Dispenser
  | launchTake (core : Nat)
  | launchAdmit (n : Nat)
  | superstepBegin (lvl dom : Nat)
  | taskStart (core : Nat)
  | clearSequenceEnd (core : Nat)
  | q0EventPost (core : Nat)
  -- engines
  | move (cluster chan : Nat)
  | fill (cluster chan : Nat)
  | plan (core : Nat)
  | expand (cluster chan : Nat)
  | engineCommandComplete (cluster chan : Nat)
  | permitResume (core : Nat)
  | forcedPreemption (lvl dom : Nat)
  | preemptLogDrained (lvl dom : Nat)
  | preemptSaveDone (lvl dom : Nat)
  | preemptedTaskResume (lvl dom : Nat)
  | scrubEnd (core : Nat)
  -- system register writes: by a context's MTS path or the monitor complex's control path
  | regionpcWrite (core ctx : Nat) (v : Word)
  | tshapeWrite (core n : Nat) (v : Word)
  | capWordWrite (core ctx n w : Nat) (v : Word)
  | capaccWrite (core n : Nat) (v : Word)
  | segbaseWrite (core n : Nat) (v : Word)
  | seglimWrite (core n : Nat) (v : Word)
  | relcfgWrite (core n : Nat) (v : Word)
  | sysregWrite (core ctx n : Nat) (v : Word)
  -- host
  | lqtailWrite (v : Nat) (n : Word)
  | hostLaunchEntry (v : Nat)
  | completionQueueEntry (v : Nat)
  | cqheadWrite (v : Nat) (n : Word)
  | faultQueueRecord (v : Nat)
  | fqheadWrite (v : Nat) (n : Word)
  | fqanswerMapped (v : Nat)
  | fqanswerInvalid (v : Nat)
  | queueCfgWrite (v ring : Nat) (x : Word)
  | hostRegisterWrite (vf : Option Nat) (off : Nat) (x : Word)
  | bar2Access (off size : Nat) (write : Option Word)
  | pcieReadCompletion (n : Nat)
  | assignWrite (v : Nat) (x : Word)
  | rassignWrite (v : Nat) (x : Word)
  | functionLevelReset (v : Nat)
  | flrDrainEnd (v : Nat)
  | flrScrubEnd (v : Nat)
  | flrLeaseWaitEnd (v : Nat)
  | freeze
  | freezeRelease
  | deviceReset
  | heartbeat
  | containerCapture
  | peerLost
  | spareTakeover
  | fwInstall
  | fwActivate
  | pwrWrite (core : Nat) (x : Word)
  | powerSettingApply (core : Nat)
  | declareFree
  | declareInUse
  | dramRepairComplete (chan : Nat)
  | repcmdRepair (chan : Nat)
  | repcmdDecline (chan : Nat)
  | classifierEntryAgeing (chan : Nat)
  | objectLoad (v : Nat) (addr len base : Word)
  | eguCompletion (core : Nat)
  | speCompletion (core : Nat)
  | wfeWakeWithNoEvent (core ctx : Nat)
  | fwInstallComplete
  | vfEnable
deriving DecidableEq, Repr

end Sys2Proof
end

