-- ==== Sys2Proof/WellFormed.lean ====
section
/-! DEFINITION. Which instructions are well formed: what the decoder's steps 4 and 5 (R81) accept on a reasoning core, as a
check on the decoded term. Event arguments are checked against the numbers of R1. -/

namespace Sys2Proof

/-- A read's order: .rlx, .acq or .sc (R122). -/
def Order.okLoad : Order → Bool
  | .rlx | .acq | .sc => true
  | .rel | .ar => false

/-- A write's order: .rlx, .rel or .sc (R122). -/
def Order.okStore : Order → Bool
  | .rlx | .rel | .sc => true
  | .acq | .ar => false

/-- The pairings of success and failure order that R133 permits. -/
def CasFail.okWith : CasFail → Order → Bool
  | .rlx, _ => true
  | .acq, o => o == .acq || o == .ar || o == .sc
  | .sc, o => o == .sc

/-- Extended scalar memory forms carry a literal or extension words: otherwise the plain row is meant (R94). -/
def extForm (i : Imm 7) (o : Option Order) : Bool :=
  match i, o with
  | .short _, none => false
  | _, _ => true

/-- A vector memory form's literal exists in the global and core-local spaces only, and a pointer is A0 to A7 (R125). -/
def vmemOk (s : Space) (a : Reg5) (off : Option Word) : Bool :=
  s != .dist || (off.isNone && decide (a.toNat < 8))

/-- Where ZM must be zero (R125, R154, R160). -/
def zmZero (x : Option VExt) : Bool := match x with
  | some x => !x.zm
  | none => true

/-- Where LP and ZM must both be zero (R154). -/
def lpZmZero (x : Option VExt) : Bool := match x with
  | some x => !x.zm && x.lp == 0
  | none => true

/-- Element widths in bits (R21); blocks are 512-bit units. -/
def Fmt.bits : Fmt → Nat
  | .fp32 | .int32 | .sp32 => 32
  | .bf16 | .fp16 | .int16 => 16
  | .e4m3 | .e5m2 | .int8 => 8
  | .e3m2 | .e2m3 => 6
  | .e2m1 | .int4 => 4
  | .blk => 512

/-- The format pairs and saturation selectors that VCVT permits (R156). -/
def vcvtOk (df sf : Fmt) (sat : Bool) : Bool :=
  df != sf && df != .blk && sf != .blk
    && (df != .sp32 || sf == .fp32) && (sf != .sp32 || df == .fp32)
    && (!sat || df == .e4m3 || df == .e5m2)

/-- A group of geometry registers ends at V31 or before, and B is zero without TB (R187). -/
def geomOk (group : Nat) (a b : Reg5) (tb : Bool) : Bool :=
  decide (a.toNat + group ≤ 32) && (tb || b == 0)

/-- Shape codes 0x00 to 0x17 are assigned; with FM = 2 SPUP, SPDN and SPMAX name no XB (R204). -/
def SpeExt.ok (e : SpeExt) : Bool :=
  decide (e.shape.toNat < 0x18) && (decide (e.shape.toNat < 0x10) || e.xb == 0)

/-- SPTREE permits the codes 0x10 to 0x17 (R204). -/
def SpeExt.okTree (e : SpeExt) : Bool := decide (0x10 ≤ e.shape.toNat) && decide (e.shape.toNat < 0x18)

/-- Cores are 0 to 95 (R1). -/
def coreOk (core : Nat) : Bool := decide (core < 96)

/-- Contexts are 0 to 10, or banks 0 to 3 (R31). -/
def ctxOk (core ctx : Nat) : Bool := decide (core < 96) && decide (ctx < Config.numContexts core)

/-- Functions are 0 to 4 (R31). -/
def vfOk (v : Nat) : Bool := decide (v < 5)

/-- Engine channels: clusters 0-15 with copy channels 0-7; from 16 on, the tile-walk engine of core chan (R303). -/
def engOk (cluster chan : Nat) : Bool :=
  (decide (cluster < 16) && decide (chan < 8)) || (cluster == 16 && decide (chan < 64))

/-- Domains of a level (R30, R293). -/
def domOk (lvl dom : Nat) : Bool :=
  (lvl == 0 && decide (dom < 64)) || (lvl == 1 && decide (dom < 16)) || (lvl == 2 && decide (dom < 4)) || (lvl == 3 && dom == 0)

/-- What the decoder accepts (R74, R78, R80), and arguments of events that name existing parts. -/
def Instr.wf : Instr → Bool
  | .add _ _ _ _ | .sub _ _ _ _ | .mul _ _ _ _ | .mulh _ _ _ _ | .mulhu _ _ _ _ | .div _ _ _ _ | .divu _ _ _ _
  | .rem _ _ _ _ | .remu _ _ _ _ | .and _ _ _ _ | .or _ _ _ _ | .xor _ _ _ _ | .andn _ _ _ _ | .orn _ _ _ _
  | .shl _ _ _ _ | .shr _ _ _ _ | .sra _ _ _ _ | .rotl _ _ _ _ | .min _ _ _ _ | .max _ _ _ _ | .minu _ _ _ _
  | .maxu _ _ _ _ => true
  | .clz _ _ _ | .ctz _ _ _ | .popc _ _ _ | .brev _ _ _ | .bswap _ _ _ | .sextB _ _ _ | .sextH _ _ _ | .sextW _ _ _
  | .zextB _ _ _ | .zextH _ _ _ | .zextW _ _ _ | .mov _ _ _ | .sel _ _ _ _ _ => true
  | .addi _ _ _ | .andi _ _ _ | .ori _ _ _ | .xori _ _ _ | .shli _ _ _ | .shri _ _ _ | .srai _ _ _ | .rotli _ _ _
  | .movi _ _ | .moviLit _ _ => true
  | .cmpEq _ _ _ _ | .cmpNe _ _ _ _ | .cmpLt _ _ _ _ | .cmpLe _ _ _ _ | .cmpLtu _ _ _ _ | .cmpLeu _ _ _ _
  | .cmpiEq _ _ _ | .cmpiNe _ _ _ | .cmpiLt _ _ _ | .cmpiLe _ _ _ | .cmpiLtu _ _ _ | .cmpiLeu _ _ _
  | .pand _ _ _ _ | .por _ _ _ _ | .pxor _ _ _ _ | .pnot _ _ _ | .pmov _ _ _
  | .aput _ _ _ | .aget _ _ _ | .ainc _ _ _ | .acfg _ _ _ _ => true
  | .br _ _ | .bl _ _ | .jr _ _ | .jlr _ _ | .ret _ | .nop | .illegal => true
  | .rep _ n => match n with
    | .reg r => r != 0
    | .imm _ => true
  | .repStepped nm1 n s =>
    (match n with
    | .reg r => r != 0
    | .imm _ => true) && decide (s.apply.toNat < 2 ^ (nm1.toNat + 1))
  | .ld _ _ _ _ _ _ | .st _ _ _ _ _ _ => true
  | .ldS _ _ _ z _ _ => z != 3
  | .ldExt _ _ _ _ i o _ => extForm i o && (o.getD .rlx).okLoad
  | .ldSExt _ _ _ z i o _ => z != 3 && extForm i o && (o.getD .rlx).okLoad
  | .stExt _ _ _ _ i o _ => extForm i o && (o.getD .rlx).okStore
  | .lda _ _ _ _ o _ => (o.getD .rlx).okLoad
  | .ldaS _ _ z _ o _ => z != 3 && (o.getD .rlx).okLoad
  | .sta _ _ _ _ o _ => (o.getD .rlx).okStore
  | .vld _ a s off _ _ => vmemOk s a off
  | .vst _ a s off x _ => vmemOk s a off && zmZero x
  | .vlds _ _ _ s _ _ _ _ | .vgth _ _ _ s _ _ _ _ => s != .dist
  | .vsct _ _ _ s _ _ x _ => s != .dist && zmZero x
  | .amo _ _ _ op _ w => op != .fadd || !w
  | .amoLocal _ a _ op _ w p => (op != .fadd || !w) && (!p || decide (a.toNat < 8))
  | .cas _ _ _ f o _ => f.okWith o
  | .casLocal _ a _ f o _ p => f.okWith o && (!p || decide (a.toNat < 8))
  | .amof _ _ _ op _ w => op != .fadd || !w
  | .fence o s _ => o != .rlx && (o != .sc || s == .device || s == .system)
  | .acq _ _ | .rel _ _ | .pref _ _ _ | .clean _ _ _ | .czero _ _ _ | .sbind _ _ _ | .sfree _ _ => true
  | .vadd _ _ _ _ _ _ | .vsub _ _ _ _ _ _ | .vmul _ _ _ _ _ _ | .vfma _ _ _ _ _ _ | .vfms _ _ _ _ _ _
  | .vfnma _ _ _ _ _ _ | .vmin _ _ _ _ _ _ | .vmax _ _ _ _ _ _ | .vabs _ _ _ _ _ | .vneg _ _ _ _ _
  | .vdiv _ _ _ _ _ _ | .vsqrt _ _ _ _ _ | .vrcp _ _ _ _ _ | .vrsq _ _ _ _ _ | .vexp _ _ _ _ _ | .vlog _ _ _ _ _
  | .vsig _ _ _ _ _ | .vtanh _ _ _ _ _ => true
  | .viadd _ _ _ _ _ _ | .visub _ _ _ _ _ _ | .vimul _ _ _ _ _ _ | .vimin _ _ _ _ _ _ | .vimax _ _ _ _ _ _
  | .vshl _ _ _ _ _ _ | .vshr _ _ _ _ _ _ | .vsra _ _ _ _ _ _ | .vand _ _ _ _ _ _ | .vor _ _ _ _ _ _
  | .vxor _ _ _ _ _ _ | .vnot _ _ _ _ _ => true
  | .vcmp c _ _ _ _ _ _ => c != .ltu && c != .leu
  | .vicmp _ _ _ _ _ _ _ => true
  | .vmov _ _ _ _ _ | .vbcast _ _ _ _ _ | .vperm _ _ _ _ _ _ | .vslide _ _ _ _ _ _ | .vzip _ _ _ _ _ _
  | .vunzip _ _ _ _ _ _ | .vcomp _ _ _ _ _ | .vexpd _ _ _ _ _ | .viota _ _ _ _ => true
  | .vext _ _ _ _ x _ => lpZmZero x
  | .vins _ _ _ _ x _ | .vsel _ _ _ _ x _ => zmZero x
  | .vcvt df sf sat _ _ _ _ => vcvtOk df sf sat
  | .vredAdd _ _ _ x _ | .vredMin _ _ _ x _ | .vredMax _ _ _ x _ | .vredAnd _ _ _ x _ | .vredOr _ _ _ x _
  | .vredXor _ _ _ x _ => zmZero x
  | .vbtst _ _ _ _ _ _ => true
  | .vpcnt _ _ _ x _ | .vfirst _ _ _ x _ => zmZero x
  | .tld _ a _ s _ | .tst _ a _ s _ => s != .dist || decide (a.toNat < 8)
  | .tldb _ _ _ s _ | .tldt _ _ _ s _ => s != .dist
  | .tldLit _ _ _ _ s _ _ => s != .dist
  | .tzero _ _ | .accz _ _ => true
  | .accrd _ r _ | .accwr _ r _ => r.nr1 == 0 && r.nc1 == 0
  | .accld _ _ _ _ | .accst _ _ _ _ => true
  | .mma _ _ r _ => r.nr1 == 0 && r.nc1 == 0
  | .mxepi _ a _ _ _ bias _ => bias || a == 0
  | .mxgate _ _ _ _ | .mxred _ _ _ _ _ | .mxsend _ _ _ _ _ => true
  | .gori2 _ _ a b tb _ _ => geomOk 6 a b tb
  | .gori3 _ _ a b tb _ _ => geomOk 12 a b tb
  | .gincir _ _ a b tb _ _ | .gsegx _ _ a b tb _ _ => geomOk 8 a b tb
  | .ginsph _ _ a b tb _ _ | .gsegt _ _ a b tb _ _ => geomOk 15 a b tb
  | .spld _ _ _ | .spst _ _ _ | .spmov _ _ _ | .spset _ _ _ | .spnorm _ _ _ | .spcvt _ _ _ => true
  | .spldExt _ _ n o _ | .spstExt _ _ n o _ => n.isSome || o.isSome
  | .sptree _ _ e _ => e.okTree
  | .spup _ _ e _ | .spdn _ _ e _ | .spmax _ _ e _ => e.ok
  | .bar _ _ | .bararv _ _ | .barwt _ _ | .xph _ | .push _ _ _ => true
  | .tlrd _ t _ | .tlwt _ t _ | .tlwtLit _ t _ => decide (t.toNat < 10)
  | .send _ _ _ _ | .recv _ _ _ | .rpoll _ _ _ => true
  | .qrd d q _ => q != 1 && (q != 0 || decide (d.toNat ≤ 30)) && (q != 2 || decide (d.toNat ≤ 24))
  | .qwr _ _ q _ => q != 0 && q != 2 && q != 3
  | .start _ _ _ _ | .joinh _ _ | .exit _ | .region _ | .ckpt _ _ => true
  | .mpub _ _ _ len _ | .mread _ _ _ len _ => decide (1 ≤ len.toNat) && decide (len.toNat ≤ 1024)
  | .mwait _ _ _ _ | .time _ _ | .sleep _ _ | .sleepLit _ _ | .wfe _ => true
  | .mfs _ _ | .mts _ _ | .trap _ | .eret | .tlbfl | .tlbren _ _ | .capld _ _ | .capclr _ => true
  | .chsend _ _ _ _ | .chrecv _ _ _ _ | .chclose _ _ | .vcid _ _ => true
  | .streamReadAhead c k j => ctxOk c k && decide (j < 4)
  | .clockSkew n _ | .clockSkewCleared n => decide (n < 177)
  | .sideLogReplay c _ | .pageWalkComplete c _ _ _ | .tlbEntryExpiry c | .seizureAccept c | .seizureDrainEnd c | .seizureSaveEnd c | .seizureRunEnd c | .seizureRestoreEnd c
  | .timingReplay c _ | .lockstepMismatch c | .launchTake c | .taskStart c | .clearSequenceEnd c | .q0EventPost c
  | .permitResume c | .plan c | .scrubEnd c | .eguCompletion c | .speCompletion c => coreOk c
  | .heldAccessResume c k | .contextWake c k | .sleepDeadline c k | .periodicTrigger c k | .watchdog c k
  | .trapDelivery c k | .rollback c k _ | .wfeWakeWithNoEvent c k | .regionpcWrite c k _ | .capWordWrite c k _ _ _
  | .sysregWrite c k _ _ => ctxOk c k
  | .faultRecordPost cl _ => decide (cl < 16)
  | .faultAnswerMapped _ | .faultAnswerInvalid _ => true
  | .memoryRequestAtHome _ | .refusedRequestReissue _ | .accessResponse _ | .remoteCoreMemoryAccess _ | .amofArrival _
  | .bararvArrival _ | .scOperationComplete _ | .barrierArrival _ | .sendArrival _ | .sendAnswer _ | .seizureArrival _
  | .seizureResultAtRing _ | .mirrorPublication _ | .mirrorReadArrival _ | .mirrorReadDone _ | .launchAdmit _
  | .pcieReadCompletion _ => true
  | .dramSectorFill pa _ _ => decide (pa < 0x1E00000000)
  | .leaseRenewalWalk cl ch | .move cl ch | .fill cl ch | .expand cl ch | .engineCommandComplete cl ch => engOk cl ch
  | .mirrorFlip n | .mirrorGrantInEffect n => decide (n < 4096)
  | .mirrorGrantWrite n w _ => decide (n < 4096) && decide (w < 4)
  | .superstepBegin l d | .forcedPreemption l d | .preemptLogDrained l d | .preemptSaveDone l d
  | .preemptedTaskResume l d => domOk l d
  | .tshapeWrite c n _ | .capaccWrite c n _ | .segbaseWrite c n _ | .seglimWrite c n _ => coreOk c && decide (n < 8)
  | .relcfgWrite c n _ => coreOk c && decide (n < 4)
  | .lqtailWrite v _ | .hostLaunchEntry v | .completionQueueEntry v | .cqheadWrite v _ | .faultQueueRecord v
  | .fqheadWrite v _ | .fqanswerMapped v | .fqanswerInvalid v | .assignWrite v _ | .rassignWrite v _
  | .functionLevelReset v | .flrDrainEnd v | .flrScrubEnd v | .flrLeaseWaitEnd v | .objectLoad v _ _ _ => vfOk v
  | .queueCfgWrite v r _ => vfOk v && decide (r < 3)
  | .hostRegisterWrite v _ _ => vfOk (v.getD 4)
  | .bar2Access _ n _ => decide (n ≤ 8)
  | .freeze | .freezeRelease | .deviceReset | .heartbeat | .containerCapture | .peerLost | .spareTakeover | .fwInstall
  | .fwActivate | .declareFree | .declareInUse | .fwInstallComplete | .vfEnable => true
  | .pwrWrite c _ | .powerSettingApply c => decide (c < 64)
  | .dramRepairComplete c | .repcmdRepair c | .repcmdDecline c | .classifierEntryAgeing c => decide (c < 16)

/-- Device events have no encoding; the step takes them from its agenda. -/
def Instr.isEvent : Instr → Bool
  | .streamReadAhead _ _ _ | .sideLogReplay _ _ | .heldAccessResume _ _ | .faultRecordPost _ _ | .faultAnswerMapped _
  | .faultAnswerInvalid _ | .pageWalkComplete _ _ _ _ | .tlbEntryExpiry _ | .memoryRequestAtHome _
  | .refusedRequestReissue _ | .accessResponse _ | .remoteCoreMemoryAccess _ | .amofArrival _ | .bararvArrival _
  | .dramSectorFill _ _ _ | .leaseRenewalWalk _ _ | .clockSkew _ _ | .clockSkewCleared _ | .scOperationComplete _
  | .contextWake _ _ | .sleepDeadline _ _ | .barrierArrival _ | .sendArrival _ | .sendAnswer _ | .seizureArrival _
  | .seizureAccept _ | .seizureDrainEnd _ | .seizureSaveEnd _ | .seizureRunEnd _ | .seizureRestoreEnd _
  | .seizureResultAtRing _ | .mirrorPublication _ | .mirrorFlip _ | .mirrorReadArrival _ | .mirrorReadDone _
  | .mirrorGrantWrite _ _ _ | .mirrorGrantInEffect _ | .periodicTrigger _ _ | .watchdog _ _ | .trapDelivery _ _
  | .rollback _ _ _ | .timingReplay _ _ | .lockstepMismatch _ | .launchTake _ | .launchAdmit _ | .superstepBegin _ _
  | .taskStart _ | .clearSequenceEnd _ | .q0EventPost _ | .move _ _ | .fill _ _ | .plan _ | .expand _ _
  | .engineCommandComplete _ _ | .permitResume _ | .forcedPreemption _ _ | .preemptLogDrained _ _ | .preemptSaveDone _ _
  | .preemptedTaskResume _ _ | .scrubEnd _ | .regionpcWrite _ _ _ | .tshapeWrite _ _ _ | .capWordWrite _ _ _ _ _
  | .capaccWrite _ _ _ | .segbaseWrite _ _ _ | .seglimWrite _ _ _ | .relcfgWrite _ _ _ | .sysregWrite _ _ _ _
  | .lqtailWrite _ _ | .hostLaunchEntry _ | .completionQueueEntry _ | .cqheadWrite _ _ | .faultQueueRecord _
  | .fqheadWrite _ _ | .fqanswerMapped _ | .fqanswerInvalid _ | .queueCfgWrite _ _ _ | .hostRegisterWrite _ _ _
  | .bar2Access _ _ _ | .pcieReadCompletion _ | .assignWrite _ _ | .rassignWrite _ _ | .functionLevelReset _
  | .flrDrainEnd _ | .flrScrubEnd _ | .flrLeaseWaitEnd _ | .freeze | .freezeRelease | .deviceReset | .heartbeat
  | .containerCapture | .peerLost | .spareTakeover | .fwInstall | .fwActivate | .pwrWrite _ _ | .powerSettingApply _
  | .declareFree | .declareInUse | .dramRepairComplete _ | .repcmdRepair _ | .repcmdDecline _ | .classifierEntryAgeing _
  | .objectLoad _ _ _ _ | .eguCompletion _ | .speCompletion _ | .wfeWakeWithNoEvent _ _ | .fwInstallComplete
  | .vfEnable => true
  | _ => false

end Sys2Proof
end

