-- ==== Sys2Proof/Decode.lean ====
section
/-! DEFINITION. Instruction words (R71-R80): a decoder, total on any words, that refuses by name in the order of R81, and
an encoder written from the same tables. -/

namespace Sys2Proof

/-- Why the decoder refuses (R81): the cause, and the word that holds it (EINFO.WORD of R335). -/
inductive DecodeError where
  /-- steps 2 and 4 -/
  | illegalOpcode (word : Nat)
  /-- step 5 -/
  | reservedField (word : Nat)
  /-- the bytes end before the instruction does -/
  | truncated
deriving DecidableEq, Repr

/-- Bits [29:0] of the base word, split as format R (R73); the other formats are views of the same fields. -/
structure Base where
  maj : BitVec 6
  d : Reg5
  a : Reg5
  b : Reg5
  fn : BitVec 6
  pg : Reg3
deriving DecidableEq, Repr

/-- A framed instruction (R71): base fields, extension words and literal as LEN gives them. -/
structure Frame where
  base : Base
  ext : Option (Half × Half)
  lit : Option Word
deriving DecidableEq, Repr

/-- LEN: bit 1 extension words, bit 0 literal (R71). -/
def Frame.len (f : Frame) : BitVec 2 :=
  (BitVec.ofBool f.ext.isSome) ++ (BitVec.ofBool f.lit.isSome)

/-- The base word (R71, R73). -/
def Frame.word (f : Frame) : Half :=
  f.len ++ f.base.maj ++ f.base.d ++ f.base.a ++ f.base.b ++ f.base.fn ++ f.base.pg

/-- The instruction's words in address order (R71). -/
def Frame.words (f : Frame) : List Half :=
  f.word ::
    ((match f.ext with
      | some (e1, e2) => [e1, e2]
      | none => []) ++
     (match f.lit with
      | some v => [v.extractLsb' 0 32, v.extractLsb' 32 32]
      | none => []))

/-- The fields of a base word (R73). -/
def Base.ofWord (w : Half) : Base where
  maj := w.extractLsb' 24 6
  d := w.extractLsb' 19 5
  a := w.extractLsb' 14 5
  b := w.extractLsb' 9 5
  fn := w.extractLsb' 3 6
  pg := w.extractLsb' 0 3

/-- How many words a base word announces (R71). -/
def wordCount (w : Half) : Nat :=
  match (w.extractLsb' 30 2).toNat with
  | 0 => 1
  | 1 => 3
  | 2 => 3
  | _ => 5

/-- The frame of a word list, if it holds as many words as LEN announces (R71). -/
def Frame.ofWords : List Half → Option Frame
  | [] => none
  | w :: ws =>
    let base := Base.ofWord w
    match (w.extractLsb' 30 2).toNat, ws with
    | 0, _ => some ⟨base, none, none⟩
    | 1, l0 :: l1 :: _ => some ⟨base, none, some (l1 ++ l0)⟩
    | 2, e1 :: e2 :: _ => some ⟨base, some (e1, e2), none⟩
    | 3, e1 :: e2 :: l0 :: l1 :: _ => some ⟨base, some (e1, e2), some (l1 ++ l0)⟩
    | _, _ => none

/-- The lengths that each major opcode permits (R79): bit n for LEN n; zero for an unassigned major. -/
def lenMask (maj : Nat) : BitVec 4 :=
  match maj with
  | 0x01 | 0x03 | 0x04 | 0x05 | 0x06 | 0x07 | 0x09 | 0x0A | 0x0B | 0x0D | 0x1F | 0x2C | 0x39 => 0b0011
  | 0x02 | 0x08 | 0x0C | 0x10 | 0x11 | 0x12 | 0x14 | 0x1C | 0x1D | 0x1E | 0x31 | 0x34 | 0x35 | 0x38 | 0x3A | 0x3B
  | 0x3D | 0x3E => 0b0001
  | 0x13 | 0x20 | 0x21 | 0x22 | 0x23 | 0x24 | 0x25 | 0x26 | 0x29 | 0x2A => 0b0101
  | 0x18 | 0x19 | 0x1A | 0x1B | 0x27 | 0x36 | 0x3C => 0b1111
  | 0x28 | 0x2E | 0x2F => 0b0100
  | 0x2D => 0b1101
  | 0x30 => 0b1100
  | _ => 0

/-- Step 2 of R81: the major is assigned and permits the LEN. -/
def lenOk (w : Half) : Bool :=
  (lenMask (w.extractLsb' 24 6).toNat).getLsbD (w.extractLsb' 30 2).toNat

/-! Enumerated fields and their codes (R78, R80). -/

def Order.ofCode : Nat → Option Order
  | 0 => some .rlx
  | 1 => some .acq
  | 2 => some .rel
  | 3 => some .ar
  | 4 => some .sc
  | _ => none

def Order.code : Order → BitVec 3
  | .rlx => 0
  | .acq => 1
  | .rel => 2
  | .ar => 3
  | .sc => 4

def Scope.ofCode : Nat → Option Scope
  | 0 => some .ctx
  | 1 => some .core
  | 2 => some .cluster
  | 3 => some .array
  | 4 => some .device
  | 5 => some .system
  | _ => none

def Scope.code : Scope → BitVec 3
  | .ctx => 0
  | .core => 1
  | .cluster => 2
  | .array => 3
  | .device => 4
  | .system => 5

def Space.ofCode : Nat → Option Space
  | 0 => some .glob
  | 1 => some .loc
  | 2 => some .dist
  | _ => none

def Space.code : Space → BitVec 2
  | .glob => 0
  | .loc => 1
  | .dist => 2

def Cc.ofCode : Nat → Option Cc
  | 0 => some .eq
  | 1 => some .ne
  | 2 => some .lt
  | 3 => some .le
  | 4 => some .ltu
  | 5 => some .leu
  | _ => none

def Cc.code : Cc → BitVec 3
  | .eq => 0
  | .ne => 1
  | .lt => 2
  | .le => 3
  | .ltu => 4
  | .leu => 5

def AmoOp.ofCode : Nat → Option AmoOp
  | 0 => some .add
  | 1 => some .and
  | 2 => some .or
  | 3 => some .xor
  | 4 => some .min
  | 5 => some .max
  | 6 => some .minu
  | 7 => some .maxu
  | 8 => some .swap
  | 9 => some .fadd
  | _ => none

def AmoOp.code : AmoOp → BitVec 4
  | .add => 0
  | .and => 1
  | .or => 2
  | .xor => 3
  | .min => 4
  | .max => 5
  | .minu => 6
  | .maxu => 7
  | .swap => 8
  | .fadd => 9

def CasFail.ofCode : Nat → Option CasFail
  | 10 => some .rlx
  | 11 => some .acq
  | 12 => some .sc
  | _ => none

def CasFail.code : CasFail → BitVec 4
  | .rlx => 10
  | .acq => 11
  | .sc => 12

def VF.code : VF → BitVec 3
  | .f32 => 0
  | .bf16 => 1
  | .f16 => 2

def VI.code : VI → BitVec 3
  | .i32 => 3
  | .i16 => 4
  | .i8 => 5

def FI.ofCode : Nat → Option FI
  | 0 => some (.f .f32)
  | 1 => some (.f .bf16)
  | 2 => some (.f .f16)
  | 3 => some (.i .i32)
  | 4 => some (.i .i16)
  | 5 => some (.i .i8)
  | _ => none

def FI.code : FI → BitVec 3
  | .f x => x.code
  | .i x => x.code

def ES.ofCode : Nat → ES
  | 0 => .b
  | 1 => .h
  | 2 => .w
  | _ => .d

def ES.code : ES → BitVec 2
  | .b => 0
  | .h => 1
  | .w => 2
  | .d => 3

def Fmt.ofCode : Nat → Option Fmt
  | 1 => some .fp32
  | 2 => some .bf16
  | 3 => some .fp16
  | 4 => some .e4m3
  | 5 => some .e5m2
  | 6 => some .e3m2
  | 7 => some .e2m3
  | 8 => some .e2m1
  | 9 => some .int32
  | 10 => some .int16
  | 11 => some .int8
  | 12 => some .int4
  | 13 => some .sp32
  | 14 => some .blk
  | _ => none

def Fmt.code : Fmt → BitVec 5
  | .fp32 => 1
  | .bf16 => 2
  | .fp16 => 3
  | .e4m3 => 4
  | .e5m2 => 5
  | .e3m2 => 6
  | .e2m3 => 7
  | .e2m1 => 8
  | .int32 => 9
  | .int16 => 10
  | .int8 => 11
  | .int4 => 12
  | .sp32 => 13
  | .blk => 14

def Act.ofCode : Nat → Option Act
  | 0 => some .none
  | 1 => some .relu
  | 2 => some .sigmoid
  | 3 => some .tanh
  | _ => .none

def Act.code : Act → BitVec 4
  | .none => 0
  | .relu => 1
  | .sigmoid => 2
  | .tanh => 3

def Gate.ofCode : Nat → Option Gate
  | 0 => some .lstm
  | 1 => some .gru
  | 2 => some .mgu
  | _ => none

def Gate.code : Gate → BitVec 2
  | .lstm => 0
  | .gru => 1
  | .mgu => 2

def Engine.ofCode : Nat → Option Engine
  | 0 => some .copy
  | 1 => some .walk
  | 2 => some .dispenser
  | _ => none

def Engine.code : Engine → BitVec 5
  | .copy => 0
  | .walk => 1
  | .dispenser => 2

def TileOp.code : TileOp → BitVec 3
  | .tld => 0
  | .tst => 1
  | .tldb => 2
  | .tldt => 3

/-! Extension layouts (R80). -/

def VExt.word (x : VExt) : Half := (0 : BitVec 24) ++ x.lp ++ BitVec.ofBool x.zm ++ (0 : BitVec 4)

def VExt.ofWord (w : Half) : VExt := ⟨w.extractLsb' 5 3, w.getLsbD 4⟩

def Region.word (r : Region) : Half := r.row ++ r.col ++ r.nr1 ++ r.nc1 ++ (0 : BitVec 5)

def Region.ofWord (w : Half) : Region :=
  ⟨w.extractLsb' 24 8, w.extractLsb' 17 7, w.extractLsb' 12 5, w.extractLsb' 5 7⟩

def SpeExt.word (x : SpeExt) : Half := x.shape ++ x.xb ++ (0 : BitVec 16)

def SpeExt.ofWord (w : Half) : SpeExt := ⟨w.extractLsb' 24 8, w.extractLsb' 16 8⟩

def RepSteps.word (s : RepSteps) : Half := s.d ++ s.a ++ s.b ++ (0 : BitVec 4) ++ s.o

def RepSteps.ofWords (e1 e2 : Half) : RepSteps :=
  ⟨e1.extractLsb' 28 4, e1.extractLsb' 24 4, e1.extractLsb' 20 4, e1.extractLsb' 0 16, e2⟩

/-! Views of the base fields in the other formats (R73). -/

/-- IMM14 of format I. -/
def Base.imm14 (x : Base) : BitVec 14 := x.b ++ x.fn ++ x.pg
/-- IMM7 of format M. -/
def Base.imm7 (x : Base) : BitVec 7 := x.b.extractLsb' 0 1 ++ x.fn
/-- SIZE of format M. -/
def Base.size (x : Base) : BitVec 2 := x.b.extractLsb' 1 2
/-- S of format M. -/
def Base.spc (x : Base) : BitVec 2 := x.b.extractLsb' 3 2
/-- DISP21 of format B. -/
def Base.disp21 (x : Base) : BitVec 21 := x.d.extractLsb' 0 2 ++ x.a ++ x.b ++ x.fn ++ x.pg
/-- PG of format B. -/
def Base.bpg (x : Base) : Reg3 := x.d.extractLsb' 2 3
/-- The nine low bits of format AT. -/
def Base.at9 (x : Base) : BitVec 9 := x.fn ++ x.pg
/-- XD of format X. -/
def Base.xd (x : Base) : BitVec 8 := x.d ++ x.a.extractLsb' 2 3
/-- XA of format X. -/
def Base.xa (x : Base) : BitVec 8 := x.a.extractLsb' 0 2 ++ x.b ++ x.fn.extractLsb' 5 1
/-- Low three bits of a field: a P, T or A register, a port (R74). -/
def lo3 (r : Reg5) : Reg3 := r.extractLsb' 0 3
/-- The bits above a three-bit name are zero (R74). -/
def hi2 (r : Reg5) : Bool := r.extractLsb' 3 2 != 0

/-! Checks. A check is a condition that refuses, with the word that holds it. -/

/-- The conditions of steps 4 and 5 of R81 for an instruction, and the instruction. -/
structure Checked where
  ill : List (Bool × Nat)
  res : List (Bool × Nat)
  ins : Instr

/-- The lowest word among the conditions that hold (R335, WORD). -/
def firstBad : List (Bool × Nat) → Option Nat
  | [] => none
  | (true, n) :: cs =>
    match firstBad cs with
    | some m => some (Nat.min n m)
    | none => some n
  | (false, _) :: cs => firstBad cs

/-- Steps 4 and 5 of R81. -/
def Checked.run (c : Checked) : Except DecodeError Instr :=
  match firstBad c.ill with
  | some n => .error (.illegalOpcode n)
  | none =>
    match firstBad c.res with
    | some n => .error (.reservedField n)
    | none => .ok c.ins

/-- An unassigned function code (R80). -/
def unassigned : Checked := ⟨[(true, 0)], [], .illegal⟩

variable (x : Frame)

def Frame.noLit : Bool × Nat := (x.lit.isSome, 3)
def Frame.noExt : Bool × Nat := (x.ext.isSome, 0)
def Frame.needExt : Bool × Nat := (x.ext.isNone, 0)
def Frame.e1 : Half := (x.ext.getD (0, 0)).1
def Frame.e2 : Half := (x.ext.getD (0, 0)).2
/-- Register B or the literal in its place (R76). -/
def Frame.src : Src := match x.lit with
  | some v => .lit v
  | none => .reg x.base.b
/-- A literal in place of B needs B zero (R76). -/
def Frame.srcRes : Bool × Nat := (x.lit.isSome && x.base.b != 0, 0)
/-- The VEC extension, if present. -/
def Frame.vext : Option VExt := x.ext.map fun e => VExt.ofWord e.1
/-- The zero bits of the VEC extension (R80). -/
def Frame.vextRes : List (Bool × Nat) :=
  [(x.e1.extractLsb' 8 24 != 0 || x.e1.extractLsb' 0 4 != 0, 1), (x.e2 != 0, 2)]
def Frame.zm : Bool := x.e1.getLsbD 4
/-- The zero bits of the ACC extension (R80). -/
def Frame.accRes : List (Bool × Nat) := [(x.e1.extractLsb' 0 5 != 0, 1)]
/-- ORD of the M format's extension, when present. -/
def Frame.ord : Option Order := x.ext.map fun e => (Order.ofCode (e.1.extractLsb' 0 3).toNat).getD .rlx
def Frame.ordIll : Bool × Nat := (decide (5 ≤ (x.e1.extractLsb' 0 3).toNat), 1)
def Frame.ordRes (ok : Order → Bool) : List (Bool × Nat) :=
  [(x.e1.extractLsb' 3 29 != 0 || !(ok (x.ord.getD .rlx)), 1), (x.e2 != 0, 2)]

/-- Major 0x01 (R99). -/
def aluOf : Nat → Option (Reg5 → Reg5 → Src → Reg3 → Instr)
  | 0 => some .add
  | 1 => some .sub
  | 2 => some .mul
  | 3 => some .mulh
  | 4 => some .mulhu
  | 5 => some .div
  | 6 => some .divu
  | 7 => some .rem
  | 8 => some .remu
  | 9 => some .and
  | 10 => some .or
  | 11 => some .xor
  | 12 => some .andn
  | 13 => some .orn
  | 14 => some .shl
  | 15 => some .shr
  | 16 => some .sra
  | 17 => some .rotl
  | 18 => some .min
  | 19 => some .max
  | 20 => some .minu
  | 21 => some .maxu
  | _ => none

def decodeAlu : Checked :=
  match aluOf x.base.fn.toNat with
  | some f => ⟨[], [x.srcRes], f x.base.d x.base.a x.src x.base.pg⟩
  | none => unassigned

/-- Major 0x02 (R103). -/
def bitOf : Nat → Option (Reg5 → Reg5 → Reg3 → Instr)
  | 0 => some .clz
  | 1 => some .ctz
  | 2 => some .popc
  | 3 => some .brev
  | 4 => some .bswap
  | 5 => some .sextB
  | 6 => some .sextH
  | 7 => some .sextW
  | 8 => some .zextB
  | 9 => some .zextH
  | 10 => some .zextW
  | 11 => some .mov
  | _ => none

def decodeBit : Checked :=
  match bitOf x.base.fn.toNat with
  | some f => ⟨[], [(x.base.b != 0, 0)], f x.base.d x.base.a x.base.pg⟩
  | none => unassigned

def decodeSel : Checked :=
  ⟨[], [x.srcRes, (x.base.fn.extractLsb' 0 3 != 0, 0)],
    .sel x.base.d x.base.a x.src (x.base.fn.extractLsb' 3 3) x.base.pg⟩

/-- Majors 0x04-0x07 (R101). -/
def decodeImm (f : Reg5 → Reg5 → Imm 14 → Instr) : Checked :=
  match x.lit with
  | some v => ⟨[], [(x.base.imm14 != 0, 0)], f x.base.d x.base.a (.lit v)⟩
  | none => ⟨[], [], f x.base.d x.base.a (.short x.base.imm14)⟩

/-- Major 0x08 (R102). -/
def decodeShiftImm : Checked :=
  let n := x.base.imm14.extractLsb' 0 6
  let f : Reg5 → Reg5 → BitVec 6 → Instr := match (x.base.imm14.extractLsb' 12 2).toNat with
    | 0 => .shli
    | 1 => .shri
    | 2 => .srai
    | _ => .rotli
  ⟨[], [(x.base.imm14.extractLsb' 6 6 != 0, 0)], f x.base.d x.base.a n⟩

/-- Major 0x09 (R101). -/
def decodeMovi : Checked :=
  match x.lit with
  | some v => ⟨[], [(x.base.a != 0 || x.base.imm14 != 0, 0)], .moviLit x.base.d v⟩
  | none => ⟨[], [(x.base.a != 0, 0)], .movi x.base.d x.base.imm14⟩

def cmpOf : Cc → Reg3 → Reg5 → Src → Reg3 → Instr
  | .eq => .cmpEq
  | .ne => .cmpNe
  | .lt => .cmpLt
  | .le => .cmpLe
  | .ltu => .cmpLtu
  | .leu => .cmpLeu

def decodeCmp : Checked :=
  match Cc.ofCode x.base.fn.toNat with
  | some c => ⟨[], [x.srcRes, (hi2 x.base.d, 0)], cmpOf c (lo3 x.base.d) x.base.a x.src x.base.pg⟩
  | none => unassigned

def cmpiOf : Cc → Reg3 → Reg5 → Imm 11 → Instr
  | .eq => .cmpiEq
  | .ne => .cmpiNe
  | .lt => .cmpiLt
  | .le => .cmpiLe
  | .ltu => .cmpiLtu
  | .leu => .cmpiLeu

def decodeCmpi : Checked :=
  match Cc.ofCode (x.base.imm14.extractLsb' 11 3).toNat with
  | some c =>
    let i := x.base.imm14.extractLsb' 0 11
    match x.lit with
    | some v => ⟨[], [(hi2 x.base.d || i != 0, 0)], cmpiOf c (lo3 x.base.d) x.base.a (.lit v)⟩
    | none => ⟨[], [(hi2 x.base.d, 0)], cmpiOf c (lo3 x.base.d) x.base.a (.short i)⟩
  | none => unassigned

/-- Major 0x0C (R106). -/
def decodePred : Checked :=
  let d := lo3 x.base.d
  let a := lo3 x.base.a
  let b := lo3 x.base.b
  let g := x.base.pg
  let hi := (hi2 x.base.d || hi2 x.base.a || hi2 x.base.b, 0)
  match x.base.fn.toNat with
  | 0 => ⟨[], [hi], .pand d a b g⟩
  | 1 => ⟨[], [hi], .por d a b g⟩
  | 2 => ⟨[], [hi], .pxor d a b g⟩
  | 3 => ⟨[], [hi, (x.base.b != 0, 0)], .pnot d a g⟩
  | 4 => ⟨[], [hi, (x.base.b != 0, 0)], .pmov d a g⟩
  | _ => unassigned

/-- Major 0x0D (R107-R109). -/
def decodePtr : Checked :=
  match x.base.fn.toNat with
  | 0 => ⟨[x.noLit], [(hi2 x.base.d || x.base.b != 0, 0)], .aput (lo3 x.base.d) x.base.a x.base.pg⟩
  | 1 => ⟨[x.noLit], [(hi2 x.base.a || x.base.b != 0, 0)], .aget x.base.d (lo3 x.base.a) x.base.pg⟩
  | 2 => ⟨[], [(hi2 x.base.d || x.base.a != 0, 0), x.srcRes], .ainc (lo3 x.base.d) x.src x.base.pg⟩
  | 3 => ⟨[x.noLit], [(hi2 x.base.d, 0)], .acfg (lo3 x.base.d) x.base.a x.base.b x.base.pg⟩
  | _ => unassigned

/-- Major 0x12 (R111). -/
def decodeJump : Checked :=
  match x.base.fn.toNat with
  | 0 => ⟨[], [(x.base.d != 0 || x.base.b != 0, 0)], .jr x.base.a x.base.pg⟩
  | 1 => ⟨[], [(x.base.d != 0 || x.base.b != 0, 0)], .jlr x.base.a x.base.pg⟩
  | 2 => ⟨[], [(x.base.d != 0 || x.base.a != 0 || x.base.b != 0, 0)], .ret x.base.pg⟩
  | _ => unassigned

/-- Major 0x13 (R80, R113). -/
def decodeRep : Checked :=
  let n : Count := if x.base.a = 0 then .imm x.base.imm14 else .reg x.base.a
  let res0 := (x.base.a != 0 && x.base.imm14 != 0, 0)
  match x.ext with
  | none => ⟨[], [res0], .rep x.base.d n⟩
  | some (e1, e2) =>
    ⟨[], [res0, (e1.extractLsb' 16 4 != 0, 1), (decide (2 ^ (x.base.d.toNat + 1) ≤ e2.toNat), 2)],
      .repStepped x.base.d n (.ofWords e1 e2)⟩

/-- Majors 0x18 and 0x19 (R122, R123). -/
def decodeLoad (plain : Reg5 → Reg5 → Bool → BitVec 2 → BitVec 7 → Reg3 → Instr)
    (ext : Reg5 → Reg5 → Bool → BitVec 2 → Imm 7 → Option Order → Reg3 → Instr)
    (ptr : Reg5 → Reg3 → BitVec 2 → BitVec 7 → Option Order → Reg3 → Instr) (ok : Order → Bool) (noD : Bool) : Checked :=
  let b := x.base
  let ill := [(b.spc == 3 || (noD && b.size == 3), 0), x.ordIll]
  if b.spc = 2 then
    ⟨x.noLit :: ill, (hi2 b.a, 0) :: x.ordRes ok, ptr b.d (lo3 b.a) b.size b.imm7 x.ord b.pg⟩
  else
    let loc := b.spc == 1
    match x.lit with
    | some v => ⟨ill, (b.imm7 != 0, 0) :: x.ordRes ok, ext b.d b.a loc b.size (.lit v) x.ord b.pg⟩
    | none =>
      match x.ext with
      | some _ => ⟨ill, x.ordRes ok, ext b.d b.a loc b.size (.short b.imm7) x.ord b.pg⟩
      | none => ⟨ill, [], plain b.d b.a loc b.size b.imm7 b.pg⟩

/-- Major 0x1B (R125). -/
def decodeVmem : Checked :=
  let b := x.base
  let w := b.fn.getLsbD 0
  match Space.ofCode (b.fn.extractLsb' 1 2).toNat with
  | none => unassigned
  | some s =>
    let ill := [(s == .dist && x.lit.isSome, 3)]
    let ptr := (s == .dist && hi2 b.a, 0)
    let fixed := (w || b.b != 0, 0)
    let noDist := (s == .dist, 0)
    let noZm := (x.zm, 1)
    match (b.fn.extractLsb' 3 3).toNat with
    | 0 => ⟨ill, ptr :: fixed :: x.vextRes, .vld b.d b.a s x.lit x.vext b.pg⟩
    | 1 => ⟨ill, ptr :: fixed :: noZm :: x.vextRes, .vst b.d b.a s x.lit x.vext b.pg⟩
    | 2 => ⟨ill, noDist :: x.vextRes, .vlds b.d b.a b.b s w x.lit x.vext b.pg⟩
    | 3 => ⟨ill, noDist :: x.vextRes, .vgth b.d b.a b.b s w x.lit x.vext b.pg⟩
    | 4 => ⟨ill, noDist :: noZm :: x.vextRes, .vsct b.d b.a b.b s w x.lit x.vext b.pg⟩
    | _ => unassigned

/-- Majors 0x1C and 0x1D (R132, R133). -/
def decodeAmo (loc : Bool) : Checked :=
  let b := x.base
  let w := b.at9.getLsbD 1
  let p := b.at9.getLsbD 0
  let op := (b.at9.extractLsb' 5 4).toNat
  match Order.ofCode (b.at9.extractLsb' 2 3).toNat with
  | none => unassigned
  | some o =>
    let pres := (if loc then p && hi2 b.a else p, 0)
    match AmoOp.ofCode op with
    | some k =>
      ⟨[], [pres, (k == .fadd && w, 0)], if loc then .amoLocal b.d b.a b.b k o w p else .amo b.d b.a b.b k o w⟩
    | none =>
      match CasFail.ofCode op with
      | some f => ⟨[], [pres, (!(f.okWith o), 0)], if loc then .casLocal b.d b.a b.b f o w p else .cas b.d b.a b.b f o w⟩
      | none => unassigned

/-- Major 0x1E (R135). -/
def decodeAmof : Checked :=
  let b := x.base
  match Order.ofCode (b.at9.extractLsb' 2 3).toNat, AmoOp.ofCode (b.at9.extractLsb' 5 4).toNat with
  | some o, some k =>
    ⟨[], [(b.at9.getLsbD 0 || hi2 b.d || hi2 b.a, 0), (k == .fadd && b.at9.getLsbD 1, 0)],
      .amof (lo3 b.d) (lo3 b.a) b.b k o (b.at9.getLsbD 1)⟩
  | _, _ => unassigned

/-- Major 0x1F (R80, R127, R138-R140). -/
def decodeFence : Checked :=
  let b := x.base
  match b.fn.toNat with
  | 0 =>
    match Order.ofCode (lo3 b.d).toNat, Scope.ofCode (lo3 b.b).toNat with
    | some o, some s =>
      ⟨[x.noLit],
        [(hi2 b.d || hi2 b.b || b.a != 0, 0), (o == .rlx || (o == .sc && s != .device && s != .system), 0)],
        .fence o s b.pg⟩
    | _, _ => unassigned
  | 1 => ⟨[x.noLit], [(b.d != 0 || b.b != 0, 0)], .acq b.a b.pg⟩
  | 2 => ⟨[x.noLit], [(b.d != 0 || b.b != 0, 0)], .rel b.a b.pg⟩
  | 3 => ⟨[], [(b.d != 0 || b.b != 0, 0)], .pref b.a x.lit b.pg⟩
  | 4 => ⟨[], [(b.d != 0 || b.b != 0, 0)], .clean b.a x.lit b.pg⟩
  | 5 => ⟨[], [(b.d != 0 || b.b != 0, 0)], .czero b.a x.lit b.pg⟩
  | 6 => ⟨[x.noLit], [(decide (b.d.toNat < 28) || b.b != 0, 0)], .sbind (b.d.extractLsb' 0 2) b.a b.pg⟩
  | 7 => ⟨[x.noLit], [(decide (b.d.toNat < 28) || b.a != 0 || b.b != 0, 0)], .sfree (b.d.extractLsb' 0 2) b.pg⟩
  | _ => unassigned

def vf2Of : Nat → Option (VF → Reg5 → Reg5 → Reg5 → Option VExt → Reg3 → Instr)
  | 0 => some .vadd
  | 1 => some .vsub
  | 2 => some .vmul
  | 3 => some .vfma
  | 4 => some .vfms
  | 5 => some .vfnma
  | 6 => some .vmin
  | 7 => some .vmax
  | 10 => some .vdiv
  | _ => none

def vf1Of : Nat → Option (VF → Reg5 → Reg5 → Option VExt → Reg3 → Instr)
  | 8 => some .vabs
  | 9 => some .vneg
  | 11 => some .vsqrt
  | 12 => some .vrcp
  | 13 => some .vrsq
  | 14 => some .vexp
  | 15 => some .vlog
  | 16 => some .vsig
  | 17 => some .vtanh
  | _ => none

/-- Majors 0x20-0x22 (R150). -/
def decodeVf (m : VF) : Checked :=
  let b := x.base
  match vf2Of b.fn.toNat with
  | some f => ⟨[], x.vextRes, f m b.d b.a b.b x.vext b.pg⟩
  | none =>
    match vf1Of b.fn.toNat with
    | some f => ⟨[], (b.b != 0, 0) :: x.vextRes, f m b.d b.a x.vext b.pg⟩
    | none => unassigned

def vi2Of : Nat → Option (VI → Reg5 → Reg5 → Reg5 → Option VExt → Reg3 → Instr)
  | 0 => some .viadd
  | 1 => some .visub
  | 2 => some .vimul
  | 3 => some .vimin
  | 4 => some .vimax
  | 5 => some .vshl
  | 6 => some .vshr
  | 7 => some .vsra
  | 8 => some .vand
  | 9 => some .vor
  | 10 => some .vxor
  | _ => none

/-- Majors 0x23-0x25 (R152). -/
def decodeVi (m : VI) : Checked :=
  let b := x.base
  match vi2Of b.fn.toNat with
  | some f => ⟨[], x.vextRes, f m b.d b.a b.b x.vext b.pg⟩
  | none =>
    match b.fn.toNat with
    | 11 => ⟨[], (b.b != 0, 0) :: x.vextRes, .vnot m b.d b.a x.vext b.pg⟩
    | _ => unassigned

/-- Major 0x26 (R153). -/
def decodeVcmp : Checked :=
  let b := x.base
  match Cc.ofCode (b.fn.extractLsb' 3 3).toNat, FI.ofCode (b.fn.extractLsb' 0 3).toNat with
  | some c, some (.f m) =>
    ⟨[], (hi2 b.d, 0) :: (c == .ltu || c == .leu, 0) :: x.vextRes, .vcmp c m (lo3 b.d) b.a b.b x.vext b.pg⟩
  | some c, some (.i m) => ⟨[], (hi2 b.d, 0) :: x.vextRes, .vicmp c m (lo3 b.d) b.a b.b x.vext b.pg⟩
  | _, _ => unassigned

/-- Major 0x27 (R154, R155). -/
def decodeLane : Checked :=
  let b := x.base
  let e := ES.ofCode (b.fn.extractLsb' 0 2).toNat
  let b0 := (b.b != 0, 0)
  match (b.fn.extractLsb' 2 4).toNat with
  | 0 => ⟨[x.noLit], b0 :: x.vextRes, .vmov e b.d b.a x.vext b.pg⟩
  | 1 => ⟨[x.noLit], b0 :: x.vextRes, .vbcast e b.d b.a x.vext b.pg⟩
  | 2 => ⟨[], x.srcRes :: (x.e1.extractLsb' 4 4 != 0, 1) :: x.vextRes, .vext e b.d b.a x.src x.vext b.pg⟩
  | 3 => ⟨[], x.srcRes :: (x.zm, 1) :: x.vextRes, .vins e b.d b.a x.src x.vext b.pg⟩
  | 4 => ⟨[x.noLit], x.vextRes, .vperm e b.d b.a b.b x.vext b.pg⟩
  | 5 => ⟨[], x.srcRes :: x.vextRes, .vslide e b.d b.a x.src x.vext b.pg⟩
  | 6 => ⟨[x.noLit], x.vextRes, .vzip e b.d b.a b.b x.vext b.pg⟩
  | 7 => ⟨[x.noLit], x.vextRes, .vunzip e b.d b.a b.b x.vext b.pg⟩
  | 8 => ⟨[x.noLit], b0 :: x.vextRes, .vcomp e b.d b.a x.vext b.pg⟩
  | 9 => ⟨[x.noLit], b0 :: x.vextRes, .vexpd e b.d b.a x.vext b.pg⟩
  | 10 => ⟨[x.noLit], b0 :: (b.a != 0, 0) :: x.vextRes, .viota e b.d x.vext b.pg⟩
  | 11 => ⟨[x.noLit], (x.zm, 1) :: x.vextRes, .vsel e b.d b.a b.b x.vext b.pg⟩
  | _ => unassigned

/-- Major 0x28 (R156). -/
def decodeVcvt : Checked :=
  let b := x.base
  match Fmt.ofCode (x.e1.extractLsb' 14 5).toNat, Fmt.ofCode (x.e1.extractLsb' 9 5).toNat with
  | some df, some sf =>
    let sat := x.e1.getLsbD 8
    ⟨[(b.fn != 0, 0), (df == .blk || sf == .blk, 1)],
      [(b.b != 0, 0), (x.e1.extractLsb' 19 13 != 0 || x.e1.extractLsb' 0 4 != 0 || !(vcvtOk df sf sat), 1), (x.e2 != 0, 2)],
      .vcvt df sf sat b.d b.a (.ofWord x.e1) b.pg⟩
  | _, _ => ⟨[(b.fn != 0, 0), (true, 1)], [], .illegal⟩

/-- Major 0x29 (R160). -/
def decodeVred : Checked :=
  let b := x.base
  match FI.ofCode (b.fn.extractLsb' 0 3).toNat with
  | none => unassigned
  | some f =>
    let res := (b.b != 0, 0) :: (x.zm, 1) :: x.vextRes
    let bitwise (k : VI → Reg5 → Reg5 → Option VExt → Reg3 → Instr) : Checked := match f with
      | .i m => ⟨[], res, k m b.d b.a x.vext b.pg⟩
      | .f _ => ⟨[], [(true, 0)], .illegal⟩
    match (b.fn.extractLsb' 3 3).toNat with
    | 0 => ⟨[], res, .vredAdd f b.d b.a x.vext b.pg⟩
    | 1 => ⟨[], res, .vredMin f b.d b.a x.vext b.pg⟩
    | 2 => ⟨[], res, .vredMax f b.d b.a x.vext b.pg⟩
    | 3 => bitwise .vredAnd
    | 4 => bitwise .vredOr
    | 5 => bitwise .vredXor
    | _ => unassigned

/-- Major 0x2A (R161, R162). -/
def decodeVbit : Checked :=
  let b := x.base
  let e := ES.ofCode (b.fn.extractLsb' 0 2).toNat
  let res := (b.fn.getLsbD 2, 0) :: x.vextRes
  match (b.fn.extractLsb' 3 3).toNat with
  | 0 => ⟨[], (hi2 b.d, 0) :: res, .vbtst e (lo3 b.d) b.a b.b x.vext b.pg⟩
  | 1 => ⟨[], (hi2 b.a || b.b != 0, 0) :: (x.zm, 1) :: res, .vpcnt e b.d (lo3 b.a) x.vext b.pg⟩
  | 2 => ⟨[], (hi2 b.a || b.b != 0, 0) :: (x.zm, 1) :: res, .vfirst e b.d (lo3 b.a) x.vext b.pg⟩
  | _ => unassigned

/-- Major 0x2C (R166). -/
def decodeTile : Checked :=
  let b := x.base
  match Space.ofCode (b.fn.extractLsb' 1 2).toNat with
  | none => unassigned
  | some s =>
    let ill := [(s == .dist && x.lit.isSome, 3)]
    let res := (hi2 b.d || b.fn.getLsbD 0 || (s == .dist && hi2 b.a), 0)
    let noDist := (s == .dist, 0)
    let go (op : TileOp) (plain : Reg3 → Reg5 → Reg5 → Space → Reg3 → Instr) : Instr := match x.lit with
      | some v => .tldLit op (lo3 b.d) b.a b.b s v b.pg
      | none => plain (lo3 b.d) b.a b.b s b.pg
    match (b.fn.extractLsb' 3 3).toNat with
    | 0 => ⟨ill, [res], go .tld .tld⟩
    | 1 => ⟨ill, [res], go .tst .tst⟩
    | 2 => ⟨ill, [res, noDist], go .tldb .tldb⟩
    | 3 => ⟨ill, [res, noDist], go .tldt .tldt⟩
    | _ => unassigned

/-- Major 0x2D (R170, R171). -/
def decodeAcc : Checked :=
  let b := x.base
  let r := Region.ofWord x.e1
  let res := (x.e2 != 0, 2) :: x.accRes
  let one := (r.nr1 != 0 || r.nc1 != 0, 1)
  match b.fn.toNat with
  | 0 => ⟨[x.noExt, x.noLit], [(hi2 b.d || b.a != 0 || b.b != 0, 0)], .tzero (lo3 b.d) b.pg⟩
  | 1 => ⟨[x.needExt, x.noLit], (b.d != 0 || b.a != 0 || b.b != 0, 0) :: res, .accz r b.pg⟩
  | 2 => ⟨[x.needExt, x.noLit], (b.a != 0 || b.b != 0, 0) :: one :: res, .accrd b.d r b.pg⟩
  | 3 => ⟨[x.needExt, x.noLit], (b.d != 0 || b.b != 0, 0) :: one :: res, .accwr b.a r b.pg⟩
  | 4 => ⟨[x.needExt], (b.d != 0 || b.b != 0, 0) :: res, .accld b.a r x.lit b.pg⟩
  | 5 => ⟨[x.needExt], (b.d != 0 || b.b != 0, 0) :: res, .accst b.a r x.lit b.pg⟩
  | _ => unassigned

/-- Major 0x2E (R173). -/
def decodeMma : Checked :=
  let b := x.base
  let r := Region.ofWord x.e1
  ⟨[(b.fn != 0, 0)],
    (b.d != 0 || hi2 b.a || hi2 b.b, 0) :: (r.nr1 != 0 || r.nc1 != 0, 1) :: (x.e2 != 0, 2) :: x.accRes,
    .mma (lo3 b.a) (lo3 b.b) r b.pg⟩

/-- Major 0x2F (R177, R178). -/
def decodeMx : Checked :=
  let b := x.base
  let r := Region.ofWord x.e1
  match b.fn.toNat with
  | 0 =>
    let bias := x.e2.getLsbD 3
    match Act.ofCode (x.e2.extractLsb' 4 4).toNat with
    | some act =>
      ⟨[], (hi2 b.d || b.b != 0 || (!bias && b.a != 0), 0) :: (x.e2.extractLsb' 9 23 != 0 || x.e2.extractLsb' 0 3 != 0, 2)
        :: x.accRes, .mxepi (lo3 b.d) b.a r act (x.e2.getLsbD 8) bias b.pg⟩
    | none => ⟨[(true, 2)], [], .illegal⟩
  | 1 =>
    match Gate.ofCode (x.e2.extractLsb' 4 2).toNat with
    | some k =>
      ⟨[], (hi2 b.d || b.a != 0 || b.b != 0, 0) :: (x.e2.extractLsb' 6 26 != 0 || x.e2.extractLsb' 0 4 != 0, 2)
        :: x.accRes, .mxgate (lo3 b.d) r k b.pg⟩
    | none => ⟨[(true, 2)], [], .illegal⟩
  | _ => unassigned

/-- Major 0x30 (R180). -/
def decodeMxred : Checked :=
  let b := x.base
  ⟨[], (b.fn.extractLsb' 1 5 != 0 || b.d != 0 || b.b != 0, 0) :: (x.e2 != 0, 2) :: x.accRes,
    .mxred (b.fn.getLsbD 0) b.a (Region.ofWord x.e1) x.lit b.pg⟩

/-- Major 0x31 (R181). -/
def decodeMxsend : Checked :=
  let b := x.base
  ⟨[], [(b.fn.extractLsb' 2 4 != 0, 0)], .mxsend b.d b.a b.b (b.fn.extractLsb' 0 2) b.pg⟩

/-- Majors 0x34 and 0x35 (R187). -/
def decodeGeom (dbl : Bool) : Checked :=
  let b := x.base
  let tb := b.fn.getLsbD 2
  let nf := b.fn.getLsbD 1
  let go (group : Nat) (k : Bool → Reg5 → Reg5 → Reg5 → Bool → Bool → Reg3 → Instr) : Checked :=
    ⟨[], [(b.fn.getLsbD 0 || !(geomOk group b.a b.b tb), 0)], k dbl b.d b.a b.b tb nf b.pg⟩
  match (b.fn.extractLsb' 3 3).toNat with
  | 0 => go 6 .gori2
  | 1 => go 12 .gori3
  | 2 => go 8 .gincir
  | 3 => go 15 .ginsph
  | 4 => go 8 .gsegx
  | 5 => go 15 .gsegt
  | _ => unassigned

/-- Major 0x36 (R203, R204). -/
def decodeSpe : Checked :=
  let b := x.base
  let hiXa := (b.xa.extractLsb' 5 3 != 0, 0)
  let ga : Reg5 := b.xa.extractLsb' 0 5
  let e := SpeExt.ofWord x.e1
  let plain := [x.noExt, x.noLit]
  let tree := [x.needExt, x.noLit, (decide (0x18 ≤ e.shape.toNat), 1)]
  let treeRes := [(x.e1.extractLsb' 0 16 != 0, 1), (x.e2 != 0, 2)]
  let move (k : BitVec 8 → Reg5 → Reg3 → Instr)
      (kx : BitVec 8 → Reg5 → Option (BitVec 4) → Option Word → Reg3 → Instr) : Checked :=
    ⟨[], [hiXa, (x.e1.extractLsb' 4 28 != 0, 1), (x.e2 != 0, 2)],
      if x.ext.isNone && x.lit.isNone then k b.xd ga b.pg
      else kx b.xd ga (x.ext.map fun e => e.1.extractLsb' 0 4) x.lit b.pg⟩
  let sub (k : BitVec 8 → BitVec 8 → SpeExt → Reg3 → Instr) : Checked :=
    ⟨tree, (decide (0x10 ≤ e.shape.toNat) && e.xb != 0, 1) :: treeRes, k b.xd b.xa e b.pg⟩
  match (b.fn.extractLsb' 0 5).toNat with
  | 0 => move .spld .spldExt
  | 1 => move .spst .spstExt
  | 2 => ⟨plain, [], .spmov b.xd b.xa b.pg⟩
  | 3 => ⟨plain, [hiXa], .spset b.xd ga b.pg⟩
  | 4 => ⟨tree, (decide (e.shape.toNat < 0x10), 1) :: treeRes, .sptree b.xd b.xa e b.pg⟩
  | 5 => sub .spup
  | 6 => sub .spdn
  | 7 => ⟨plain, [], .spnorm b.xd b.xa b.pg⟩
  | 8 => ⟨plain, [], .spcvt b.xd b.xa b.pg⟩
  | 9 => sub .spmax
  | _ => unassigned

/-- Major 0x38 (R219-R222); BAR and XPH do not exist on a reflex core (R218). -/
def decodeBar (reflex : Bool) : Checked :=
  let b := x.base
  match b.fn.toNat with
  | 0 => ⟨[(reflex, 0)], [(b.d != 0 || b.a != 0 || b.b.extractLsb' 2 3 != 0, 0)], .bar (b.b.extractLsb' 0 2) b.pg⟩
  | 1 => ⟨[], [(b.d != 0 || b.b != 0, 0)], .bararv b.a b.pg⟩
  | 2 => ⟨[], [(b.d != 0 || b.b != 0, 0)], .barwt b.a b.pg⟩
  | 3 => ⟨[(reflex, 0)], [(b.d != 0 || b.a != 0 || b.b != 0, 0)], .xph b.pg⟩
  | _ => unassigned

/-- Major 0x39 (R223, R224). -/
def decodePush (reflex : Bool) : Checked :=
  let b := x.base
  let tl := (decide (10 ≤ b.b.toNat) || (reflex && b.b != 9), 0)
  match b.fn.toNat with
  | 0 =>
    match Engine.ofCode b.b.toNat with
    | some e => ⟨[(reflex, 0), x.noLit], [(b.a != 0, 0)], .push b.d e b.pg⟩
    | none => unassigned
  | 1 => ⟨[tl, x.noLit], [(b.a != 0, 0)], .tlrd b.d b.b b.pg⟩
  | 2 =>
    match x.lit with
    | some v => ⟨[tl], [(b.d != 0 || b.a != 0, 0)], .tlwtLit v b.b b.pg⟩
    | none => ⟨[tl], [(b.d != 0, 0)], .tlwt b.a b.b b.pg⟩
  | _ => unassigned

/-- Major 0x3A (R228-R231). -/
def decodeMsg (reflex : Bool) : Checked :=
  let b := x.base
  let q := lo3 b.b
  match b.fn.toNat with
  | 0 => ⟨[], [], .send b.d b.a b.b b.pg⟩
  | 1 => ⟨[], [(b.b != 0, 0)], .recv b.d b.a b.pg⟩
  | 2 => ⟨[], [(b.b != 0, 0)], .rpoll b.d b.a b.pg⟩
  | 3 =>
    ⟨[(q == 1 || (reflex && q == 0), 0)],
      [(hi2 b.b || b.a != 0 || (q == 0 && decide (30 < b.d.toNat)) || (q == 2 && decide (24 < b.d.toNat)), 0)],
      .qrd b.d q b.pg⟩
  | 4 => ⟨[(q == 0 || q == 2 || q == 3 || (reflex && q == 1), 0)], [(hi2 b.b, 0)], .qwr b.d b.a q b.pg⟩
  | _ => unassigned

/-- Major 0x3B (R232-R236). -/
def decodeCtx (reflex : Bool) : Checked :=
  let b := x.base
  match b.fn.toNat with
  | 0 => ⟨[(reflex, 0)], [], .start b.d b.a b.b b.pg⟩
  | 1 => ⟨[(reflex, 0)], [(b.d != 0 || b.b != 0, 0)], .joinh b.a b.pg⟩
  | 2 => ⟨[], [(b.d != 0 || b.a != 0 || b.b != 0, 0)], .exit b.pg⟩
  | 3 => ⟨[], [(b.d != 0 || b.a != 0 || b.b != 0, 0)], .region b.pg⟩
  | 4 => ⟨[], [(b.d != 0 || b.b != 0, 0)], .ckpt b.a b.pg⟩
  | _ => unassigned

/-- Major 0x3C (R237-R241). -/
def decodeMirror : Checked :=
  let b := x.base
  let len : BitVec 11 := x.e1.extractLsb' 0 11
  let res := [(len == 0 || decide (1024 < len.toNat) || x.e1.extractLsb' 11 21 != 0, 1), (x.e2 != 0, 2)]
  match b.fn.toNat with
  | 0 => ⟨[x.needExt, x.noLit], res, .mpub b.d b.a b.b len b.pg⟩
  | 1 => ⟨[x.needExt, x.noLit], res, .mread b.d b.a b.b len b.pg⟩
  | 2 => ⟨[x.noExt, x.noLit], [], .mwait b.d b.a b.b b.pg⟩
  | 3 => ⟨[x.noExt, x.noLit], [(b.a != 0 || b.b != 0, 0)], .time b.d b.pg⟩
  | 4 =>
    match x.lit with
    | some v => ⟨[x.noExt], [(b.d != 0 || b.a != 0 || b.b != 0, 0)], .sleepLit v b.pg⟩
    | none => ⟨[x.noExt], [(b.d != 0 || b.a != 0, 0)], .sleep b.b b.pg⟩
  | 5 => ⟨[x.noExt, x.noLit], [(b.d != 0 || b.a != 0 || b.b != 0, 0)], .wfe b.pg⟩
  | _ => unassigned

/-- Major 0x3D, the SYS layout (R80). -/
def decodeSys (reflex : Bool) : Checked :=
  let b := x.base
  let n : BitVec 12 := b.imm14.extractLsb' 0 12
  let low : BitVec 6 := n.extractLsb' 0 6
  match (b.imm14.extractLsb' 12 2).toNat with
  | 0 => ⟨[], [(b.a != 0, 0)], .mfs b.d n⟩
  | 1 => ⟨[], [(b.d != 0, 0)], .mts b.a n⟩
  | 2 => ⟨[], [(b.d != 0 || b.a != 0, 0)], .trap n⟩
  | _ =>
    match (n.extractLsb' 6 6).toNat with
    | 0 => ⟨[], [(b.d != 0 || b.a != 0 || low != 0, 0)], .eret⟩
    | 1 => ⟨[], [(b.d != 0 || b.a != 0 || low != 0, 0)], .tlbfl⟩
    | 2 => ⟨[(reflex, 0)], [(low != 0, 0)], .tlbren b.d b.a⟩
    | 3 => ⟨[], [(b.d != 0 || low.extractLsb' 2 4 != 0, 0)], .capld b.a (low.extractLsb' 0 2)⟩
    | 4 => ⟨[], [(b.d != 0 || b.a != 0 || low.extractLsb' 2 4 != 0, 0)], .capclr (low.extractLsb' 0 2)⟩
    | _ => unassigned

/-- Major 0x3E (R360). -/
def decodeYil : Checked :=
  let b := x.base
  match b.fn.toNat with
  | 0 => ⟨[], [], .chsend b.d b.a b.b b.pg⟩
  | 1 => ⟨[], [], .chrecv b.d b.a b.b b.pg⟩
  | 2 => ⟨[], [(b.d != 0 || b.b != 0, 0)], .chclose b.a b.pg⟩
  | 3 => ⟨[], [(b.a != 0 || b.b != 0, 0)], .vcid b.d b.pg⟩
  | _ => unassigned

/-- The major opcode map (R79). -/
def decodeMajor (reflex : Bool) : Checked :=
  match x.base.maj.toNat with
  | 0x01 => decodeAlu x
  | 0x02 => decodeBit x
  | 0x03 => decodeSel x
  | 0x04 => decodeImm x .addi
  | 0x05 => decodeImm x .andi
  | 0x06 => decodeImm x .ori
  | 0x07 => decodeImm x .xori
  | 0x08 => decodeShiftImm x
  | 0x09 => decodeMovi x
  | 0x0A => decodeCmp x
  | 0x0B => decodeCmpi x
  | 0x0C => decodePred x
  | 0x0D => decodePtr x
  | 0x10 => ⟨[], [], .br x.base.bpg x.base.disp21⟩
  | 0x11 => ⟨[], [], .bl x.base.bpg x.base.disp21⟩
  | 0x12 => decodeJump x
  | 0x13 => decodeRep x
  | 0x14 => ⟨[], [(x.base.d != 0 || x.base.a != 0 || x.base.b != 0 || x.base.fn != 0 || x.base.pg != 0, 0)], .nop⟩
  | 0x18 => decodeLoad x .ld .ldExt .lda Order.okLoad false
  | 0x19 => decodeLoad x .ldS .ldSExt .ldaS Order.okLoad true
  | 0x1A => decodeLoad x .st .stExt .sta Order.okStore false
  | 0x1B => decodeVmem x
  | 0x1C => decodeAmo x false
  | 0x1D => decodeAmo x true
  | 0x1E => decodeAmof x
  | 0x1F => decodeFence x
  | 0x20 => decodeVf x .f32
  | 0x21 => decodeVf x .bf16
  | 0x22 => decodeVf x .f16
  | 0x23 => decodeVi x .i32
  | 0x24 => decodeVi x .i16
  | 0x25 => decodeVi x .i8
  | 0x26 => decodeVcmp x
  | 0x27 => decodeLane x
  | 0x28 => decodeVcvt x
  | 0x29 => decodeVred x
  | 0x2A => decodeVbit x
  | 0x2C => decodeTile x
  | 0x2D => decodeAcc x
  | 0x2E => decodeMma x
  | 0x2F => decodeMx x
  | 0x30 => decodeMxred x
  | 0x31 => decodeMxsend x
  | 0x34 => decodeGeom x false
  | 0x35 => decodeGeom x true
  | 0x36 => decodeSpe x
  | 0x38 => decodeBar x reflex
  | 0x39 => decodePush x reflex
  | 0x3A => decodeMsg x reflex
  | 0x3B => decodeCtx x reflex
  | 0x3C => decodeMirror x
  | 0x3D => decodeSys x reflex
  | 0x3E => decodeYil x
  | _ => unassigned

/-- The decoder on words (R81, steps 2, 4 and 5). The all-zero word is the instruction ILLEGAL, whose meaning is step 2's
ILLEGAL_OPCODE; every other refused word is refused by name. -/
def decode (reflex : Bool) (ws : List Half) : Except DecodeError Instr :=
  match ws with
  | [] => .error .truncated
  | w :: _ =>
    if w = 0 then .ok .illegal
    else if !(lenOk w) then .error (.illegalOpcode 0)
    else
      match Frame.ofWords ws with
      | none => .error .truncated
      | some x => (decodeMajor x reflex).run

/-- Four bytes, the lowest first (R5, R71). -/
def wordOfBytes (b0 b1 b2 b3 : Byte) : Half := b3 ++ b2 ++ b1 ++ b0

/-- The words of a byte list. -/
def wordsOfBytes : List Byte → List Half
  | b0 :: b1 :: b2 :: b3 :: bs => wordOfBytes b0 b1 b2 b3 :: wordsOfBytes bs
  | _ => []

/-- The decoder on bytes: the instruction and the bytes after it. -/
def decodeBytes (reflex : Bool) (bs : List Byte) : Except DecodeError (Instr × List Byte) :=
  match wordsOfBytes bs with
  | [] => .error .truncated
  | w :: ws =>
    match decode reflex (w :: ws) with
    | .ok i => .ok (i, bs.drop (4 * wordCount w))
    | .error e => .error e

/-! The encoder, from the same tables. -/

/-- A frame from base fields. -/
def mkFrame (maj : BitVec 6) (d a b : Reg5) (fn : BitVec 6) (pg : Reg3) (ext : Option (Half × Half) := none)
    (lit : Option Word := none) : Frame := ⟨⟨maj, d, a, b, fn, pg⟩, ext, lit⟩

/-- A three-bit name in a five-bit field (R74). -/
def z3 (r : Reg3) : Reg5 := (0 : BitVec 2) ++ r

/-- Format R with B a register or the literal (R76). -/
def encSrc (maj : BitVec 6) (d a : Reg5) (b : Src) (fn : BitVec 6) (g : Reg3) (ext : Option (Half × Half) := none) : Frame :=
  match b with
  | .reg r => mkFrame maj d a r fn g ext
  | .lit v => mkFrame maj d a 0 fn g ext (some v)

/-- Format I fields from IMM14. -/
def encI (maj : BitVec 6) (d a : Reg5) (i : BitVec 14) (ext : Option (Half × Half) := none) (lit : Option Word := none) : Frame :=
  mkFrame maj d a (i.extractLsb' 9 5) (i.extractLsb' 3 6) (i.extractLsb' 0 3) ext lit

def encImm (maj : BitVec 6) (d a : Reg5) (i : Imm 14) : Frame :=
  match i with
  | .short v => encI maj d a v
  | .lit v => encI maj d a 0 none (some v)

def encCmpi (c : Cc) (d : Reg3) (a : Reg5) (i : Imm 11) : Frame :=
  match i with
  | .short v => encI 0x0B (z3 d) a (c.code ++ v)
  | .lit v => encI 0x0B (z3 d) a (c.code ++ (0 : BitVec 11)) none (some v)

/-- Format B. -/
def encB (maj : BitVec 6) (g : Reg3) (disp : BitVec 21) : Frame :=
  mkFrame maj (g ++ disp.extractLsb' 19 2) (disp.extractLsb' 14 5) (disp.extractLsb' 9 5) (disp.extractLsb' 3 6)
    (disp.extractLsb' 0 3)

/-- Format M. -/
def encM (maj : BitVec 6) (d a : Reg5) (s z : BitVec 2) (i : BitVec 7) (g : Reg3) (o : Option Order)
    (lit : Option Word) : Frame :=
  mkFrame maj d a (s ++ z ++ i.extractLsb' 6 1) (i.extractLsb' 0 6) g
    (o.map fun o => ((0 : BitVec 29) ++ o.code, 0)) lit

def encMext (maj : BitVec 6) (d a : Reg5) (loc : Bool) (z : BitVec 2) (i : Imm 7) (o : Option Order) (g : Reg3) : Frame :=
  match i with
  | .short v => encM maj d a ((0 : BitVec 1) ++ BitVec.ofBool loc) z v g o none
  | .lit v => encM maj d a ((0 : BitVec 1) ++ BitVec.ofBool loc) z 0 g o (some v)

/-- Format AT. -/
def encAt (maj : BitVec 6) (d a b : Reg5) (op : BitVec 4) (o : Order) (w p : Bool) : Frame :=
  let low : BitVec 9 := op ++ o.code ++ BitVec.ofBool w ++ BitVec.ofBool p
  mkFrame maj d a b (low.extractLsb' 3 6) (low.extractLsb' 0 3)

/-- The VEC extension words. -/
def encV (x : Option VExt) : Option (Half × Half) := x.map fun x => (x.word, 0)

def encVmem (op : BitVec 3) (d a b : Reg5) (s : Space) (w : Bool) (off : Option Word) (x : Option VExt) (g : Reg3) : Frame :=
  mkFrame 0x1B d a b (op ++ s.code ++ BitVec.ofBool w) g (encV x) off

def vfMajor : VF → BitVec 6
  | .f32 => 0x20
  | .bf16 => 0x21
  | .f16 => 0x22

def viMajor : VI → BitVec 6
  | .i32 => 0x23
  | .i16 => 0x24
  | .i8 => 0x25

def encVf (m : VF) (fn : BitVec 6) (d a b : Reg5) (x : Option VExt) (g : Reg3) : Frame :=
  mkFrame (vfMajor m) d a b fn g (encV x)

def encVi (m : VI) (fn : BitVec 6) (d a b : Reg5) (x : Option VExt) (g : Reg3) : Frame :=
  mkFrame (viMajor m) d a b fn g (encV x)

def encLane (op : BitVec 4) (e : ES) (d a : Reg5) (b : Src) (x : Option VExt) (g : Reg3) : Frame :=
  encSrc 0x27 d a b (op ++ e.code) g (encV x)

def encVred (op f : BitVec 3) (d a : Reg5) (x : Option VExt) (g : Reg3) : Frame :=
  mkFrame 0x29 d a 0 (op ++ f) g (encV x)

def encTile (op : TileOp) (d : Reg3) (a b : Reg5) (s : Space) (off : Option Word) (g : Reg3) : Frame :=
  mkFrame 0x2C (z3 d) a b (op.code ++ s.code ++ (0 : BitVec 1)) g none off

def encGeom (op : BitVec 3) (dbl : Bool) (d a b : Reg5) (tb nf : Bool) (g : Reg3) : Frame :=
  mkFrame (if dbl then 0x35 else 0x34) d a b (op ++ BitVec.ofBool tb ++ BitVec.ofBool nf ++ (0 : BitVec 1)) g

/-- Format X. -/
def encX (xd xa : BitVec 8) (op : BitVec 5) (g : Reg3) (ext : Option (Half × Half) := none) (lit : Option Word := none) : Frame :=
  mkFrame 0x36 (xd.extractLsb' 3 5) (xd.extractLsb' 0 3 ++ xa.extractLsb' 6 2) (xa.extractLsb' 1 5)
    (xa.extractLsb' 0 1 ++ op) g ext lit

def encSpe (xd xa : BitVec 8) (op : BitVec 5) (e : SpeExt) (g : Reg3) : Frame := encX xd xa op g (some (e.word, 0))

def encSpMove (xd : BitVec 8) (a : Reg5) (op : BitVec 5) (n : Option (BitVec 4)) (off : Option Word) (g : Reg3) : Frame :=
  encX xd ((0 : BitVec 3) ++ a) op g (n.map fun n => ((0 : BitVec 28) ++ n, 0)) off

/-- The SYS layout (R80). -/
def encSys (d a : Reg5) (cl : BitVec 2) (n : BitVec 12) : Frame := encI 0x3D d a (cl ++ n)

def encSysFn (d a : Reg5) (fn : BitVec 6) (c : BitVec 2) : Frame := encSys d a 3 (fn ++ (0 : BitVec 4) ++ c)

def countFields : Count → Reg5 × BitVec 14
  | .reg r => (r, 0)
  | .imm v => (0, v)

/-- The frame of an encoded instruction; events, which have no encoding, get the all-zero frame. -/
def Instr.frame : Instr → Frame
  | .add d a b g => encSrc 0x01 d a b 0 g
  | .sub d a b g => encSrc 0x01 d a b 1 g
  | .mul d a b g => encSrc 0x01 d a b 2 g
  | .mulh d a b g => encSrc 0x01 d a b 3 g
  | .mulhu d a b g => encSrc 0x01 d a b 4 g
  | .div d a b g => encSrc 0x01 d a b 5 g
  | .divu d a b g => encSrc 0x01 d a b 6 g
  | .rem d a b g => encSrc 0x01 d a b 7 g
  | .remu d a b g => encSrc 0x01 d a b 8 g
  | .and d a b g => encSrc 0x01 d a b 9 g
  | .or d a b g => encSrc 0x01 d a b 10 g
  | .xor d a b g => encSrc 0x01 d a b 11 g
  | .andn d a b g => encSrc 0x01 d a b 12 g
  | .orn d a b g => encSrc 0x01 d a b 13 g
  | .shl d a b g => encSrc 0x01 d a b 14 g
  | .shr d a b g => encSrc 0x01 d a b 15 g
  | .sra d a b g => encSrc 0x01 d a b 16 g
  | .rotl d a b g => encSrc 0x01 d a b 17 g
  | .min d a b g => encSrc 0x01 d a b 18 g
  | .max d a b g => encSrc 0x01 d a b 19 g
  | .minu d a b g => encSrc 0x01 d a b 20 g
  | .maxu d a b g => encSrc 0x01 d a b 21 g
  | .clz d a g => mkFrame 0x02 d a 0 0 g
  | .ctz d a g => mkFrame 0x02 d a 0 1 g
  | .popc d a g => mkFrame 0x02 d a 0 2 g
  | .brev d a g => mkFrame 0x02 d a 0 3 g
  | .bswap d a g => mkFrame 0x02 d a 0 4 g
  | .sextB d a g => mkFrame 0x02 d a 0 5 g
  | .sextH d a g => mkFrame 0x02 d a 0 6 g
  | .sextW d a g => mkFrame 0x02 d a 0 7 g
  | .zextB d a g => mkFrame 0x02 d a 0 8 g
  | .zextH d a g => mkFrame 0x02 d a 0 9 g
  | .zextW d a g => mkFrame 0x02 d a 0 10 g
  | .mov d a g => mkFrame 0x02 d a 0 11 g
  | .sel d a b ps g => encSrc 0x03 d a b (ps ++ (0 : BitVec 3)) g
  | .addi d a i => encImm 0x04 d a i
  | .andi d a i => encImm 0x05 d a i
  | .ori d a i => encImm 0x06 d a i
  | .xori d a i => encImm 0x07 d a i
  | .shli d a n => encI 0x08 d a ((0 : BitVec 2) ++ (0 : BitVec 6) ++ n)
  | .shri d a n => encI 0x08 d a ((1 : BitVec 2) ++ (0 : BitVec 6) ++ n)
  | .srai d a n => encI 0x08 d a ((2 : BitVec 2) ++ (0 : BitVec 6) ++ n)
  | .rotli d a n => encI 0x08 d a ((3 : BitVec 2) ++ (0 : BitVec 6) ++ n)
  | .movi d i => encI 0x09 d 0 i
  | .moviLit d v => encI 0x09 d 0 0 none (some v)
  | .cmpEq d a b g => encSrc 0x0A (z3 d) a b 0 g
  | .cmpNe d a b g => encSrc 0x0A (z3 d) a b 1 g
  | .cmpLt d a b g => encSrc 0x0A (z3 d) a b 2 g
  | .cmpLe d a b g => encSrc 0x0A (z3 d) a b 3 g
  | .cmpLtu d a b g => encSrc 0x0A (z3 d) a b 4 g
  | .cmpLeu d a b g => encSrc 0x0A (z3 d) a b 5 g
  | .cmpiEq d a i => encCmpi .eq d a i
  | .cmpiNe d a i => encCmpi .ne d a i
  | .cmpiLt d a i => encCmpi .lt d a i
  | .cmpiLe d a i => encCmpi .le d a i
  | .cmpiLtu d a i => encCmpi .ltu d a i
  | .cmpiLeu d a i => encCmpi .leu d a i
  | .pand d a b g => mkFrame 0x0C (z3 d) (z3 a) (z3 b) 0 g
  | .por d a b g => mkFrame 0x0C (z3 d) (z3 a) (z3 b) 1 g
  | .pxor d a b g => mkFrame 0x0C (z3 d) (z3 a) (z3 b) 2 g
  | .pnot d a g => mkFrame 0x0C (z3 d) (z3 a) 0 3 g
  | .pmov d a g => mkFrame 0x0C (z3 d) (z3 a) 0 4 g
  | .aput d a g => mkFrame 0x0D (z3 d) a 0 0 g
  | .aget d a g => mkFrame 0x0D d (z3 a) 0 1 g
  | .ainc d b g => encSrc 0x0D (z3 d) 0 b 2 g
  | .acfg d a b g => mkFrame 0x0D (z3 d) a b 3 g
  | .br g disp => encB 0x10 g disp
  | .bl g disp => encB 0x11 g disp
  | .jr a g => mkFrame 0x12 0 a 0 0 g
  | .jlr a g => mkFrame 0x12 0 a 0 1 g
  | .ret g => mkFrame 0x12 0 0 0 2 g
  | .rep nm1 n => encI 0x13 nm1 (countFields n).1 (countFields n).2
  | .repStepped nm1 n s => encI 0x13 nm1 (countFields n).1 (countFields n).2 (some (s.word, s.apply))
  | .nop => mkFrame 0x14 0 0 0 0 0
  | .illegal => mkFrame 0 0 0 0 0 0
  | .ld d a loc z i g => encM 0x18 d a ((0 : BitVec 1) ++ BitVec.ofBool loc) z i g none none
  | .ldExt d a loc z i o g => encMext 0x18 d a loc z i o g
  | .lda d a z i o g => encM 0x18 d (z3 a) 2 z i g o none
  | .ldS d a loc z i g => encM 0x19 d a ((0 : BitVec 1) ++ BitVec.ofBool loc) z i g none none
  | .ldSExt d a loc z i o g => encMext 0x19 d a loc z i o g
  | .ldaS d a z i o g => encM 0x19 d (z3 a) 2 z i g o none
  | .st d a loc z i g => encM 0x1A d a ((0 : BitVec 1) ++ BitVec.ofBool loc) z i g none none
  | .stExt d a loc z i o g => encMext 0x1A d a loc z i o g
  | .sta d a z i o g => encM 0x1A d (z3 a) 2 z i g o none
  | .vld d a s off x g => encVmem 0 d a 0 s false off x g
  | .vst d a s off x g => encVmem 1 d a 0 s false off x g
  | .vlds d a b s w off x g => encVmem 2 d a b s w off x g
  | .vgth d a b s w off x g => encVmem 3 d a b s w off x g
  | .vsct d a b s w off x g => encVmem 4 d a b s w off x g
  | .amo d a b op o w => encAt 0x1C d a b op.code o w false
  | .cas d a b f o w => encAt 0x1C d a b f.code o w false
  | .amoLocal d a b op o w p => encAt 0x1D d a b op.code o w p
  | .casLocal d a b f o w p => encAt 0x1D d a b f.code o w p
  | .amof d a b op o w => encAt 0x1E (z3 d) (z3 a) b op.code o w false
  | .fence o s g => mkFrame 0x1F (z3 o.code) 0 (z3 s.code) 0 g
  | .acq a g => mkFrame 0x1F 0 a 0 1 g
  | .rel a g => mkFrame 0x1F 0 a 0 2 g
  | .pref a off g => mkFrame 0x1F 0 a 0 3 g none off
  | .clean a off g => mkFrame 0x1F 0 a 0 4 g none off
  | .czero a off g => mkFrame 0x1F 0 a 0 5 g none off
  | .sbind d a g => mkFrame 0x1F ((7 : BitVec 3) ++ d) a 0 6 g
  | .sfree d g => mkFrame 0x1F ((7 : BitVec 3) ++ d) 0 0 7 g
  | .vadd m d a b x g => encVf m 0 d a b x g
  | .vsub m d a b x g => encVf m 1 d a b x g
  | .vmul m d a b x g => encVf m 2 d a b x g
  | .vfma m d a b x g => encVf m 3 d a b x g
  | .vfms m d a b x g => encVf m 4 d a b x g
  | .vfnma m d a b x g => encVf m 5 d a b x g
  | .vmin m d a b x g => encVf m 6 d a b x g
  | .vmax m d a b x g => encVf m 7 d a b x g
  | .vabs m d a x g => encVf m 8 d a 0 x g
  | .vneg m d a x g => encVf m 9 d a 0 x g
  | .vdiv m d a b x g => encVf m 10 d a b x g
  | .vsqrt m d a x g => encVf m 11 d a 0 x g
  | .vrcp m d a x g => encVf m 12 d a 0 x g
  | .vrsq m d a x g => encVf m 13 d a 0 x g
  | .vexp m d a x g => encVf m 14 d a 0 x g
  | .vlog m d a x g => encVf m 15 d a 0 x g
  | .vsig m d a x g => encVf m 16 d a 0 x g
  | .vtanh m d a x g => encVf m 17 d a 0 x g
  | .viadd m d a b x g => encVi m 0 d a b x g
  | .visub m d a b x g => encVi m 1 d a b x g
  | .vimul m d a b x g => encVi m 2 d a b x g
  | .vimin m d a b x g => encVi m 3 d a b x g
  | .vimax m d a b x g => encVi m 4 d a b x g
  | .vshl m d a b x g => encVi m 5 d a b x g
  | .vshr m d a b x g => encVi m 6 d a b x g
  | .vsra m d a b x g => encVi m 7 d a b x g
  | .vand m d a b x g => encVi m 8 d a b x g
  | .vor m d a b x g => encVi m 9 d a b x g
  | .vxor m d a b x g => encVi m 10 d a b x g
  | .vnot m d a x g => encVi m 11 d a 0 x g
  | .vcmp c f d a b x g => mkFrame 0x26 (z3 d) a b (c.code ++ f.code) g (encV x)
  | .vicmp c f d a b x g => mkFrame 0x26 (z3 d) a b (c.code ++ f.code) g (encV x)
  | .vmov e d a x g => encLane 0 e d a (.reg 0) x g
  | .vbcast e d a x g => encLane 1 e d a (.reg 0) x g
  | .vext e d a b x g => encLane 2 e d a b x g
  | .vins e d a b x g => encLane 3 e d a b x g
  | .vperm e d a b x g => encLane 4 e d a (.reg b) x g
  | .vslide e d a b x g => encLane 5 e d a b x g
  | .vzip e d a b x g => encLane 6 e d a (.reg b) x g
  | .vunzip e d a b x g => encLane 7 e d a (.reg b) x g
  | .vcomp e d a x g => encLane 8 e d a (.reg 0) x g
  | .vexpd e d a x g => encLane 9 e d a (.reg 0) x g
  | .viota e d x g => encLane 10 e d 0 (.reg 0) x g
  | .vsel e d a b x g => encLane 11 e d a (.reg b) x g
  | .vcvt df sf sat d a x g =>
    mkFrame 0x28 d a 0 0 g
      (some ((0 : BitVec 13) ++ df.code ++ sf.code ++ BitVec.ofBool sat ++ x.lp ++ BitVec.ofBool x.zm ++ (0 : BitVec 4), 0))
  | .vredAdd f d a x g => encVred 0 f.code d a x g
  | .vredMin f d a x g => encVred 1 f.code d a x g
  | .vredMax f d a x g => encVred 2 f.code d a x g
  | .vredAnd f d a x g => encVred 3 f.code d a x g
  | .vredOr f d a x g => encVred 4 f.code d a x g
  | .vredXor f d a x g => encVred 5 f.code d a x g
  | .vbtst e d a b x g => mkFrame 0x2A (z3 d) a b ((0 : BitVec 3) ++ (0 : BitVec 1) ++ e.code) g (encV x)
  | .vpcnt e d a x g => mkFrame 0x2A d (z3 a) 0 ((1 : BitVec 3) ++ (0 : BitVec 1) ++ e.code) g (encV x)
  | .vfirst e d a x g => mkFrame 0x2A d (z3 a) 0 ((2 : BitVec 3) ++ (0 : BitVec 1) ++ e.code) g (encV x)
  | .tld d a b s g => encTile .tld d a b s none g
  | .tst d a b s g => encTile .tst d a b s none g
  | .tldb d a b s g => encTile .tldb d a b s none g
  | .tldt d a b s g => encTile .tldt d a b s none g
  | .tldLit op d a b s off g => encTile op d a b s (some off) g
  | .tzero d g => mkFrame 0x2D (z3 d) 0 0 0 g
  | .accz r g => mkFrame 0x2D 0 0 0 1 g (some (r.word, 0))
  | .accrd d r g => mkFrame 0x2D d 0 0 2 g (some (r.word, 0))
  | .accwr a r g => mkFrame 0x2D 0 a 0 3 g (some (r.word, 0))
  | .accld a r off g => mkFrame 0x2D 0 a 0 4 g (some (r.word, 0)) off
  | .accst a r off g => mkFrame 0x2D 0 a 0 5 g (some (r.word, 0)) off
  | .mma a b r g => mkFrame 0x2E 0 (z3 a) (z3 b) 0 g (some (r.word, 0))
  | .mxepi d a r act sat bias g =>
    mkFrame 0x2F (z3 d) a 0 0 g
      (some (r.word, (0 : BitVec 23) ++ BitVec.ofBool sat ++ act.code ++ BitVec.ofBool bias ++ (0 : BitVec 3)))
  | .mxgate d r k g => mkFrame 0x2F (z3 d) 0 0 1 g (some (r.word, (0 : BitVec 26) ++ k.code ++ (0 : BitVec 4)))
  | .mxred int a r off g => mkFrame 0x30 0 a 0 ((0 : BitVec 5) ++ BitVec.ofBool int) g (some (r.word, 0)) off
  | .mxsend d a b c g => mkFrame 0x31 d a b ((0 : BitVec 4) ++ c) g
  | .gori2 k d a b tb nf g => encGeom 0 k d a b tb nf g
  | .gori3 k d a b tb nf g => encGeom 1 k d a b tb nf g
  | .gincir k d a b tb nf g => encGeom 2 k d a b tb nf g
  | .ginsph k d a b tb nf g => encGeom 3 k d a b tb nf g
  | .gsegx k d a b tb nf g => encGeom 4 k d a b tb nf g
  | .gsegt k d a b tb nf g => encGeom 5 k d a b tb nf g
  | .spld xd a g => encSpMove xd a 0 none none g
  | .spldExt xd a n off g => encSpMove xd a 0 n off g
  | .spst xd a g => encSpMove xd a 1 none none g
  | .spstExt xd a n off g => encSpMove xd a 1 n off g
  | .spmov xd xa g => encX xd xa 2 g
  | .spset xd a g => encX xd ((0 : BitVec 3) ++ a) 3 g
  | .sptree xd xa e g => encSpe xd xa 4 e g
  | .spup xd xa e g => encSpe xd xa 5 e g
  | .spdn xd xa e g => encSpe xd xa 6 e g
  | .spnorm xd xa g => encX xd xa 7 g
  | .spcvt xd xa g => encX xd xa 8 g
  | .spmax xd xa e g => encSpe xd xa 9 e g
  | .bar lvl g => mkFrame 0x38 0 0 ((0 : BitVec 3) ++ lvl) 0 g
  | .bararv a g => mkFrame 0x38 0 a 0 1 g
  | .barwt a g => mkFrame 0x38 0 a 0 2 g
  | .xph g => mkFrame 0x38 0 0 0 3 g
  | .push d e g => mkFrame 0x39 d 0 e.code 0 g
  | .tlrd d t g => mkFrame 0x39 d 0 t 1 g
  | .tlwt a t g => mkFrame 0x39 0 a t 2 g
  | .tlwtLit v t g => mkFrame 0x39 0 0 t 2 g none (some v)
  | .send d a b g => mkFrame 0x3A d a b 0 g
  | .recv d a g => mkFrame 0x3A d a 0 1 g
  | .rpoll d a g => mkFrame 0x3A d a 0 2 g
  | .qrd d q g => mkFrame 0x3A d 0 (z3 q) 3 g
  | .qwr d a q g => mkFrame 0x3A d a (z3 q) 4 g
  | .start d a b g => mkFrame 0x3B d a b 0 g
  | .joinh a g => mkFrame 0x3B 0 a 0 1 g
  | .exit g => mkFrame 0x3B 0 0 0 2 g
  | .region g => mkFrame 0x3B 0 0 0 3 g
  | .ckpt a g => mkFrame 0x3B 0 a 0 4 g
  | .mpub d a b len g => mkFrame 0x3C d a b 0 g (some ((0 : BitVec 21) ++ len, 0))
  | .mread d a b len g => mkFrame 0x3C d a b 1 g (some ((0 : BitVec 21) ++ len, 0))
  | .mwait d a b g => mkFrame 0x3C d a b 2 g
  | .time d g => mkFrame 0x3C d 0 0 3 g
  | .sleep b g => mkFrame 0x3C 0 0 b 4 g
  | .sleepLit v g => mkFrame 0x3C 0 0 0 4 g none (some v)
  | .wfe g => mkFrame 0x3C 0 0 0 5 g
  | .mfs d n => encSys d 0 0 n
  | .mts a n => encSys 0 a 1 n
  | .trap c => encSys 0 0 2 c
  | .eret => encSysFn 0 0 0 0
  | .tlbfl => encSysFn 0 0 1 0
  | .tlbren d a => encSysFn d a 2 0
  | .capld a c => encSysFn 0 a 3 c
  | .capclr c => encSysFn 0 0 4 c
  | .chsend d a b g => mkFrame 0x3E d a b 0 g
  | .chrecv d a b g => mkFrame 0x3E d a b 1 g
  | .chclose a g => mkFrame 0x3E 0 a 0 2 g
  | .vcid d g => mkFrame 0x3E d 0 0 3 g
  | _ => mkFrame 0 0 0 0 0 0

/-- The words of a well-formed instruction (R71-R80); an event has none. -/
def encode (i : Instr) : List Half := if i.isEvent then [] else i.frame.words

/-- The feature bit that an instruction needs (R357), FEAT bit 0 where no other is named. -/
def Instr.feature : Instr → Nat
  | .gori2 .. | .gori3 .. | .gincir .. | .ginsph .. | .gsegx .. | .gsegt .. => 2
  | .spld .. | .spldExt .. | .spst .. | .spstExt .. | .spmov .. | .spset .. | .sptree .. | .spup .. | .spdn ..
  | .spnorm .. | .spcvt .. | .spmax .. => 3
  | .tldb .. => 4
  | .tldLit .tldb .. => 4
  | .mxgate .. => 5
  | .mxsend .. | .capld .. | .capclr .. => 6
  | .vcvt .e3m2 _ _ _ _ _ _ | .vcvt .e2m3 _ _ _ _ _ _ | .vcvt _ .e3m2 _ _ _ _ _ | .vcvt _ .e2m3 _ _ _ _ _ => 8
  | .vcvt .e2m1 _ _ _ _ _ _ | .vcvt .int4 _ _ _ _ _ _ | .vcvt _ .e2m1 _ _ _ _ _ | .vcvt _ .int4 _ _ _ _ _ => 9
  | .mpub .. | .mread .. | .mwait .. => 10
  | _ => 0

/-- The words of w, numbered as the opcode table numbers them: bit 0 is the base word's least significant bit. -/
def tableWords (w : Nat) : List Half :=
  [BitVec.ofNat 32 w, BitVec.ofNat 32 (w / 2 ^ 32), BitVec.ofNat 32 (w / 2 ^ 64), BitVec.ofNat 32 (w / 2 ^ 96),
    BitVec.ofNat 32 (w / 2 ^ 128)]

/-- What the decoder of a reasoning core reads from a table word; every bit above nbits is zero. -/
def decodeTableWord (nbits w : Nat) : Option Instr :=
  match decode false (tableWords (w % 2 ^ nbits)) with
  | .ok i => some i
  | .error _ => none

end Sys2Proof
end

