-- ==== Sys2Proof/Machine/State.lean ====
section
/-! DEFINITION. The machine's state as plain data: contexts (R11), cores (R19, R27), clusters and engines (R271, R303), the
Mirror (R321), the Dispenser (R290), the host's registers (R368-R384), memories (R265, R266), and what is in flight. -/

namespace Sys2Proof.Machine

/-- A fault of the model: the machine of the spec answers everything else with a next state. -/
inductive Fault where
  /-- step: the agenda names a row of the table that is an instruction, not a device event. Safe. -/
  | notAnEvent
deriving DecidableEq, Repr

/-- Refusals. -/
inductive Refusal where
  /-- exec: an arm whose meaning is not written yet. Safe. -/
  | notModelled (mnemonic : String)
deriving DecidableEq, Repr

/-- Where bytes lie (R265, R266, R287, R371). -/
inductive Place where
  | dram (pa : Nat)
  | host (a : Nat)
  | peer (a : Nat)
  | core (n : Nat) (off : Nat)
  | sram (off : Nat)
  | tbuf (n : Nat) (off : Nat)
deriving DecidableEq, Repr

/-- A trap to deliver (R333, R337). -/
structure Trap where
  async : Bool := false
  code : BitVec 8
  epc : Word
  eaddr : Word
  einfo : Word
  eword : Word
deriving DecidableEq, Repr

/-! ### Contexts -/

/-- A stream generator (R128, R129): bound, the descriptor's fields, both cursors and the chunks read ahead (R130). -/
structure Stream where
  bound : Bool := false
  base : Word := 0
  count : Half := 0
  stride : Half := 0
  wrap : Half := 0
  dir : BitVec 2 := 0
  space : BitVec 2 := 0
  rc : Nat := 0
  wc : Nat := 0
  ahead : List Vec := []
deriving DecidableEq, Repr

/-- The replay state (R113, R116): block address, n, N, p, i, the step words, and the captured words, one list for each
instruction captured so far. -/
structure Replay where
  start : Word
  n : Nat
  count : Nat
  p : Nat := 0
  i : Nat := 0
  steps : Option RepSteps := none
  words : List (List Half) := []
deriving DecidableEq, Repr

/-- What the restart point records beside REGIONPC (R117, R131, R340, R341): registers, generators, replay state, the checkpoint
mark, whether a REGION recorded it, the count of returns, whether a return has just happened, whether poison was consumed since
(R342), and the G registers that loads issued before it still owe (R250). -/
structure Restart where
  g : Tab Word := []
  p : Tab Pred := []
  v : Tab Vec := []
  a : Tab Word := []
  streams : Tab Stream := []
  replay : Option Replay := none
  ckpt : Bool := false
  byRegion : Bool := false
  returns : Nat := 0
  fresh : Bool := false
  poisoned : Bool := false
  owed : List Nat := []
deriving DecidableEq, Repr

/-- Whether a context issues (R38, R216, R141, R338). -/
inductive Run where
  /-- in the pool, or a helper not started, or a bank not configured -/
  | free
  | running
  /-- a sleeping instruction at pc is tried again (R216) -/
  | sleeping
  /-- sleeping in a WFE (R241) -/
  | wfe
  /-- sleeping in a BAR or XPH that has arrived (R220) -/
  | barrier (lvl : Nat)
  /-- holding on an absent page, or for a full log or an outstanding operation (R141, R143) -/
  | holding
  /-- a reflex bank asleep until its next release (R318), or a helper whose START is not yet released (R217) -/
  | released
  /-- stopped: delivery of a trap failed, or a pair mismatched four times (R338, R313) -/
  | stopped
deriving DecidableEq, Repr

/-- A pending asynchronous cause (R337). -/
structure Async where
  code : BitVec 8
  eaddr : Word
  einfo : Word
deriving DecidableEq, Repr

/-- A context's own state (R11). System registers are kept by their numbers (R27). -/
structure Ctx where
  run : Run := .free
  pc : Word := 0
  g : Tab Word := []
  p : Tab Pred := []
  v : Tab Vec := []
  a : Tab Word := []
  sys : Tab Word := []
  streams : Tab Stream := []
  replayT : Option Replay := none
  replayM : Option Replay := none
  restart : Restart := {}
  event : Bool := false
  async : List Async := []
  asyncHeld : Bool := false
  passed : Tab Nat := []
  credit : Tab Nat := []
  holdPage : Option (Nat × Nat) := none
  invalidAt : Option Nat := none
  place : Option (Nat × Nat) := none
  dispatching : Option Trap := none
  timeSeen : Nat := 0
  cleaned : List Place := []
  -- reflex banks (R317, R318, R319)
  isReleased : Bool := false
  pend : Bool := false
  tpend : Word := 0
  tcfg : Word := 0
  fired : Bool := false
  fwPending : Bool := false
deriving DecidableEq, Repr

/-! ### Cores -/

/-- What a side-log entry does at replay (R143): a write of masked bytes, a half of a CZERO, or an AMO of a word or doubleword. -/
inductive LogOp where
  | write
  | zero
  | amo (op : AmoOp) (size : Nat)
deriving DecidableEq, Repr

/-- A side-log entry (R143): one 128-byte sector, its bytes and byte mask, the operation, tag and context; for an append the
generator, whose appends keep their order (R130); whether it is an SC store's (R259). -/
structure LogEntry where
  sector : Nat
  data : BitVec 1024
  mask : BitVec 128
  op : LogOp
  vf : Nat
  ctx : Nat
  gen : Option Nat := none
  sc : Bool := false
deriving DecidableEq, Repr

/-- A TLB entry (R271): virtual base and log2 size, frame, permissions, D at fill, tag, CMASK, L, read time f, expiry, and the bit INV of
the leaf, which its renewal compares (R282). -/
structure TlbEntry where
  base : Nat
  log2 : Nat
  frame : Nat
  r : Bool
  w : Bool
  x : Bool
  d : Bool
  vf : Nat
  cmask : BitVec 16
  lease : Nat
  filled : Nat
  expiry : Nat
  inv : Bool := false
deriving DecidableEq, Repr

/-- A queued engine command (R304): its 512 bits, tag and pushing core; a refused one holds its place with its event's STATUS
and ADDR (R303); whether its event waits behind a full Q0 (R25). -/
structure Command where
  bits : BitVec 512
  vf : Nat
  core : Nat
  refused : Option (BitVec 8)
  addr : Word := 0
  posting : Bool := false
deriving DecidableEq, Repr

/-- Why an engine does not go on (R224, R282). -/
inductive EngineStop where
  | going
  /-- at a command, for an absent page to be mapped (R282), or for a permit (R306) -/
  | waiting (page : Option Nat)
  | stopped (eaddr : Word)
deriving DecidableEq, Repr

/-- A timeline (R303): queue, counter, the last TLV placed, whether the first command is taken, what is left of it with the
row, the stop, and the translations held across it (R282). -/
structure Channel where
  queue : List Command := []
  counter : Nat := 0
  lastTlv : Option Nat := none
  taken : Bool := false
  plan : List (BitVec 512) := []
  row : Nat := 0
  stop : EngineStop := .going
  held : List TlbEntry := []
deriving DecidableEq, Repr

/-- A seizure command at its target (R181, R183): sender, its 512 bits, capability, expiry and number. -/
structure Seizure where
  core : Nat
  ctx : Nat
  vf : Nat
  bits : BitVec 512
  capid : Half
  expiry : Word
  number : Nat
  refusedEarly : Bool := false
  lost : Bool := false
deriving DecidableEq, Repr

/-- The phase of a target's sequence (R330). -/
inductive SeizPhase where
  | idle | accepted | stopped | drained | saved | ran | restored
deriving DecidableEq, Repr

/-- The save set of R184: the three tiles with their shapes, the cells and row-map bits of the rows, and their poison. -/
structure SavedSet where
  tiles : Tab (BitVec 32768) := []
  shapes : Tab Word := []
  acc : Tab Half := []
  rows : Tab Bool := []
  tileBad : Tab Byte := []
  accBad : Tab Bool := []
deriving DecidableEq, Repr

/-- A task placed on a core (R299, R300): launch, index, record bits, position. -/
structure Placed where
  launch : Nat
  index : Nat
  bits : BitVec 1024
  vf : Nat
  i : Nat := 0
  j : Nat := 0
  h : Nat := 1
  w : Nat := 1
deriving DecidableEq, Repr

/-- A submission waiting for the Dispenser (R290): a header address, or an inline header. -/
inductive Submission where
  | header (va : Word) (vf : Nat)
  | inline (bits : BitVec 512) (vf : Nat)
deriving DecidableEq, Repr

/-- A pending result of the exact geometry unit (R199): context, V register, value, and whether GNF is set. -/
structure Pending where
  ctx : Nat
  d : Nat
  v : Vec
  gnf : Bool
deriving DecidableEq, Repr

/-- An instruction in the sum-product engine (R213, R214): its context, the core-local bytes that it loads or stores, what its
results overwrote, with their poison, and the flags that come with its completion: FPFLAGS, SSAT and SUF. -/
structure SpePend where
  ctx : Nat
  mem : Option (Nat × Nat) := none
  first : Nat
  old : List (BitVec 128)
  bad : Tab Bool := []
  fl : Word
  sat : Bool
  uf : Bool
deriving DecidableEq, Repr

/-- The state of a core (R19, R27, R37). Register files, the accumulator and memories hold what differs from reset. -/
structure CoreSt where
  ctxs : Tab Ctx := []
  last : Nat := 0
  lastPoll : Nat := 0
  sys : Tab Word := []
  mem : Tab Byte := []
  memBad : Tab Byte := []
  acc : Tab Half := []
  accRows : Tab Bool := []
  accBad : Tab Bool := []
  tiles : Tab (BitVec 32768) := []
  tileBad : Tab Byte := []
  x : Tab (BitVec 128) := []
  xBad : Tab Bool := []
  q0 : List (Word × Word) := []
  q0Held : List (Word × Word) := []
  q1 : List Submission := []
  q2 : List (BitVec 512) := []
  q3 : List Word := []
  q3Ovf : Bool := false
  slog : List LogEntry := []
  icache : List (Place × Half) := []
  istale : List Place := []
  itlb : List TlbEntry := []
  dtlb : List TlbEntry := []
  arr : Tab Nat := []
  done : Tab Nat := []
  owed : Tab Bool := []
  twe : Channel := {}
  tbuf : Tab Byte := []
  tbufBad : Tab Byte := []
  c9 : Nat := 0
  c9Sent : Nat := 0
  seiz : List Seizure := []
  seizPhase : SeizPhase := .idle
  seizTacc : Word := 0
  seizTbeat : Word := 0
  seizSave : SavedSet := {}
  seizResult : List Byte := []
  seizStatus : BitVec 16 := 0
  seizPwr : Option Word := none
  seizTries : Nat := 0
  readOrder : Nat := 0
  draws : Nat := 0
  reseeds : Nat := 0
  clearing : Bool := false
  scrubbing : Bool := false
  share : List Placed := []
  taskOn : Bool := false
  inStep : Option (Nat × Nat) := none
  xph : Bool := false
  skew : Int := 0
  skewed : Bool := false
  pair : Bool := false
  preempting : Bool := false
  egu : List Pending := []
  spe : List SpePend := []
  fwBank : Bool := false
  fwPending : Bool := false
  pwr : Word := 4
  pwrNext : Option Word := none
deriving DecidableEq, Repr

/-! ### Clusters, the Mirror, the Dispenser, the host -/

/-- The first of the records that merge (R346): class, ENGID, core, time and place in the log. -/
structure Merge where
  cls : Nat
  engid : Nat
  core : Nat
  time : Nat
  seq : Nat
deriving DecidableEq, Repr

/-- A fault record (R286): page, tag, kind, core, source, time, token. -/
structure FaultRec where
  va : Nat
  vf : Nat
  kind : Nat
  core : Nat
  src : Nat
  time : Nat
  token : Word
  posted : Bool := false
deriving DecidableEq, Repr

/-- A cluster: second-level TLB, whether the replica of each of its two walkers is out of bound (R283), outstanding fault records and
the copy engine's eight channels. -/
structure Cluster where
  tlb : List TlbEntry := []
  skewed : Bool := false
  skewed2 : Bool := false
  faults : List FaultRec := []
  chans : Tab Channel := []
deriving DecidableEq, Repr

/-- A Mirror slot (R321): buffers, header, TFLIP and PLEN of the version in PREV (R326), grant words, those in effect (R322), buffers in error, 3 for
the header (R326). -/
structure Slot where
  buf0 : List Byte := []
  buf1 : List Byte := []
  buf2 : List Byte := []
  vers : Word := 0
  tflip : Word := 0
  plen : Nat := 0
  tprev : Word := 0
  pprev : Nat := 0
  cur : Nat := 0
  prev : Nat := 1
  grant : Tab Word := []
  inEffect : Tab Word := []
  bad : List Nat := []
deriving DecidableEq, Repr

/-- A launch in the tracker (R290-R296): header address (0 for inline), bits once read, tag, submitter (none for the host),
NDEP left, admitted, the records with their successor lists, the tasks' dependence counts and instances left, the tasks
completed, the successor launches, and pages declared invalid to it (R286). -/
structure Launch where
  id : Nat
  addr : Word
  bits : BitVec 512 := 0
  unread : Bool := false
  vf : Nat
  submitter : Option Nat
  ndep : Nat := 0
  admitted : Bool := false
  recs : List (BitVec 1024) := []
  succs : List (List Nat) := []
  deps : Tab Nat := []
  instancesLeft : Tab Nat := []
  completed : List Nat := []
  succ : List Word := []
  bad : List Nat := []
deriving DecidableEq, Repr

/-- A ready task in the pool (R298). -/
structure Ready where
  launch : Nat
  index : Nat
  bits : BitVec 1024
  vf : Nat
  prio : Nat
  age : Nat := 0
  due : Bool := false
  entered : Nat
deriving DecidableEq, Repr

/-- What a forced pre-emption saved of one core (R309). -/
structure SavedCore where
  core : Nat
  ctxs : Tab Ctx
  sys : Tab Word
  tiles : Tab (BitVec 32768)
  acc : Tab Half
  accRows : Tab Bool
  x : Tab (BitVec 128)
  tileBad : Tab Byte
  accBad : Tab Bool
  xBad : Tab Bool
  arr : Tab Nat
  done : Tab Nat
  owed : Tab Bool
  xph : Bool
  lbase : Nat
  mem : List Byte
  memBad : Tab Byte
  share : List Placed
  taskOn : Bool
  pair : Bool
deriving DecidableEq, Repr

/-- A forced pre-emption of a domain (R309): the phase and the saves; without a save, a stop for a container set (R374). -/
structure Preempt where
  lvl : Nat
  dom : Nat
  phase : Nat
  save : Bool
  cores : List SavedCore := []
  arrivals : Tab (BitVec 96) := []
deriving DecidableEq, Repr

/-- The queue block of a function (R370), by register offset, with what waits for its rings. -/
structure QueueBlock where
  regs : Tab Word := []
  completions : List (Word × Word) := []
  faultsWaiting : List FaultRec := []
deriving DecidableEq, Repr

/-- A reset of a function in progress (R347): the step reached, c and Lmax. -/
structure Reset where
  vf : Nat
  stage : Nat
  c : Nat
  lmax : Nat
deriving DecidableEq, Repr

/-- Where corrected errors have been: bank, row, column, the DQ lanes seen and their count. -/
structure Site where
  bank : Nat
  row : Nat
  col : Nat
  lanes : List Nat
  count : Nat
deriving DecidableEq, Repr

/-- A classifier entry: one pattern of corrected errors, and the time of the last (R343). -/
structure Pattern where
  sites : List Site
  last : Nat
deriving DecidableEq, Repr

/-- A repair of R343: of a row of a bank, or of a lane. -/
inductive Repair where
  | row (bank row : Nat)
  | lane (n : Nat)
deriving DecidableEq, Repr

/-- A channel's DRAM controller: classifier table, the request pending (REPREQ) and the repair it stands for, the repair in
progress, and the spares used (R343, R344, R382). -/
structure DramCtl where
  table : List Pattern := []
  repreq : Word := 0
  asked : Option Repair := none
  repairing : Option Repair := none
  spareRows : Tab Nat := []
  spareLane : Bool := false
deriving DecidableEq, Repr

/-- What an announced SC operation does when it completes (R259). -/
inductive ScAct where
  /-- its instruction issues again and performs it: a load, a fence, a store of the context's own -/
  | issue
  /-- its store stands in the side log (R143) -/
  | logged
  /-- an atomic or a store to another core that has been sent (R134): the bytes' place and lease, and for an AMO its register and
  operand -/
  | amo (va : Word) (p : Place) (expiry : Nat) (op : AmoOp) (size d : Nat) (b : Nat)
  /-- CAS: register, the value compared with, the new value, and the order of a failure -/
  | cas (va : Word) (p : Place) (expiry : Nat) (size d : Nat) (old new : Nat)
  | amof (target off : Nat) (op : AmoOp) (size : Nat) (b : Nat) (dst dstOff : Nat)
  | store (core off : Nat) (bytes : List Byte)
deriving DecidableEq, Repr

/-- An announced SC operation (R257-R259): window, core, issue position, context, what it does, its tag, and whether it may
complete. -/
structure ScOp where
  window : Nat
  core : Nat
  pos : Nat
  ctx : Nat
  act : ScAct := .issue
  vf : Nat := 0
  ready : Bool := false
deriving DecidableEq, Repr

/-- An operation that has been sent is never discarded (R134, R258). -/
def ScOp.sent (o : ScOp) : Bool :=
  match o.act with
  | .issue | .logged => false
  | .amo _ _ _ _ _ _ _ | .cas _ _ _ _ _ _ _ | .amof _ _ _ _ _ _ _ | .store _ _ _ => true

/-- An operation whose instruction is over: it completes by itself. -/
def ScOp.retired (o : ScOp) : Bool := o.act != .issue

/-- A Yilyan channel (R359, R361): MAXLEN, the fixed producer and consumer of a static one, messages sent with their senders,
and whether it is closed. -/
structure YChannel where
  maxlen : Nat
  prod : Option Nat := none
  cons : Option Nat := none
  msgs : List (Nat × List Byte) := []
  closed : Bool := false
deriving DecidableEq, Repr

/-- A site that the translator has rewritten (R363): the channel instruction's address and word, and where its stub lies. -/
structure Stub where
  site : Nat
  word : Half
  at_ : Nat
deriving DecidableEq, Repr

/-- A translated Yilyan program (R361-R363): its sites with their stubs, its channels, of each virtual core the context, ENTRY and ARG,
the cores whose virtual cores have begun, and the virtual cores that run. -/
structure YProgram where
  stubs : List Stub := []
  chans : List YChannel := []
  cores : List (Nat × Nat) := []
  entries : List (Word × Word) := []
  begun : List Nat := []
  live : List Nat := []
deriving DecidableEq, Repr

/-- A global access in flight (R250, R279): what it does at its home. -/
inductive MemOp where
  | load (d : Nat) (size : Nat) (signed : Bool)
  | store (size : Nat) (v : Word)
  | amo (op : AmoOp) (size : Nat) (v : Word)
deriving DecidableEq, Repr

/-- What a request keeps of its instruction (R31, R279): the tag, and for a load where the context goes back to. -/
structure Origin where
  vf : Nat
  pc : Word
  replay : Option Replay
deriving DecidableEq, Repr

/-- Where a request stands (R279). -/
inductive ReqPhase where
  | travelling | refused | answered (v : Word)
deriving DecidableEq, Repr

/-- What travels between agents. -/
inductive Flight where
  | mem (core ctx : Nat) (va : Nat) (pa : Nat) (expiry : Nat) (op : MemOp) (phase : ReqPhase) (org : Origin)
  | remote (core ctx : Nat) (target off : Nat) (bytes : List Byte)
  | amof (core ctx : Nat) (target off : Nat) (op : AmoOp) (size : Nat) (v : Word) (dst dstOff : Nat) (acq : Bool)
  | bararv (core ctx : Nat) (target off : Nat)
  | bar (core lvl dom : Nat) (xph : Bool)
  | send (core ctx : Nat) (d : Nat) (handle : Word) (payload : List Byte) (vf : Nat)
  | sendAnswer (core ctx : Nat) (d : Nat) (v : Word)
  | seizure (target : Nat) (c : Seizure)
  | result (core ctx : Nat) (ring : Nat) (tag : Nat) (msg : List Byte) (vf : Nat) (number : Nat) (src : Nat)
  | mpub (core ctx : Nat) (d : Nat) (slot : Nat) (payload : List Byte)
  | mread (core ctx : Nat) (d : Nat) (slot : Nat) (buf : Nat) (len : Nat)
  | mreadDone (core ctx : Nat) (d : Nat) (buf : Nat) (bytes : List Byte) (vers : Word)
  | pcieRead (core ctx : Nat) (va : Nat) (a : Nat) (expiry : Nat) (d : Nat) (size : Nat) (signed : Bool) (org : Origin)
  | start (core ctx helper : Nat)
deriving DecidableEq, Repr

/-- An error that a store's code detects, or a shared latch (R270, R342): where. -/
inductive Upset where
  /-- a protection unit of core memory, shared SRAM, a tile-walk buffer, or a dirty L2 sector -/
  | bytes (p : Place)
  /-- an accumulator cell: its number in row order -/
  | cell (core n : Nat)
  /-- 64 bits of a tile register -/
  | tile (core t n : Nat)
  /-- 64 bits of a scratch register -/
  | scratch (core n : Nat)
  /-- a Mirror buffer, or 3 for the header -/
  | mirror (slot buf : Nat)
  /-- a clean L2 sector -/
  | clean (pa : Nat)
  /-- entry n of an instruction cache -/
  | icache (core n : Nat)
  /-- entry n of an instruction or data TLB -/
  | tlb (core : Nat) (fetch : Bool) (n : Nat)
  /-- entry n of a second-level TLB -/
  | walker (cluster n : Nat)
  /-- poison in a pipeline latch that the contexts of the mask share -/
  | latch (core : Nat) (mask : BitVec 11)
  /-- a residue or parity mismatch in the run of a seizure command -/
  | seizure (core : Nat)
deriving DecidableEq, Repr

/-- What moves next, where the model's agenda says so (the model's own field): a core, an event, an error in a store that its
code corrects or not, or a host read of a function's register block, none for the PF's (R369). -/
inductive Turn where
  | core (n : Nat)
  | event (e : Instr)
  | upset (u : Upset) (corrected : Bool)
  | hostRead (vf : Option Nat) (off n : Nat)
deriving DecidableEq, Repr

/-- The issuing core and context, the byte step of a replay (R114) and the EWORD image (R336). -/
structure Cur where
  core : Nat := 0
  ctx : Nat := 0
  ostep : Word := 0
  eword : Word := 0
deriving DecidableEq, Repr

/-- The machine. -/
structure State where
  now : Nat := 0
  frozen : Bool := false
  -- the model's own fields: what moves next, how long steps take, whether effects are performed at issue, free values used
  agenda : List Turn := []
  elapse : List Nat := []
  eager : Bool := true
  fresh : Nat := 0
  cur : Cur := {}
  spin : Nat := 0
  issued : Nat := 0
  polled : Nat := 0
  flight : List Flight := []
  -- agents
  cores : Tab CoreSt := []
  clusters : Tab Cluster := []
  -- home slices whose replica is out of bound, 64 for the host interface's (R283)
  skewedHomes : List Nat := []
  -- memories
  dram : Tab Byte := []
  dramBad : Tab (BitVec 128) := []
  l2Bad : Tab Byte := []
  sectors : Tab Bool := []
  freeRows : Tab Bool := []
  host : Tab Byte := []
  peer : Tab Byte := []
  sram : Tab Byte := []
  sramBad : Tab Byte := []
  -- Mirror
  slots : Tab Slot := []
  mreadLast : Nat := 0
  pubs : List Flight := []
  -- order of sequentially consistent operations
  sc : List ScOp := []
  scPos : Nat := 0
  -- Dispenser
  launches : List Launch := []
  nextLaunch : Nat := 0
  pool : List Ready := []
  entered : Nat := 0
  supersteps : List (Nat × Nat) := []
  arrivals : Tab (BitVec 96) := []
  preempts : List Preempt := []
  preemptAsked : List (Nat × Nat) := []
  -- fault service
  tokens : Nat := 0
  merges : List Merge := []
  -- host interface, assignment, power, peer, firmware, service
  queues : Tab QueueBlock := []
  assign : Tab Word := []
  rassign : Tab Word := []
  assignWait : List (Nat × Bool × Word) := []
  leaving : Tab Nat := []
  resets : List Reset := []
  heldHost : List Turn := []
  powcap : Word := 120
  thot : Word := 95
  hold : Word := 0
  peerctl : Word := 0
  cperiod : Word := 0
  cring : Word := 0
  cringlen : Word := 0
  peerstat : Word := 0
  fwstat : Word := 0
  fwlen : Word := 0
  fwbank0 : List Byte := []
  fwbank1 : List Byte := []
  staging : Tab Byte := []
  freebase : Word := 0
  freelen : Word := 0
  drams : Tab DramCtl := []
  vfEnabled : Bool := false
  booted : Bool := true
  -- the debug port answers: its fuse is set, or the PF has unlocked it (R383)
  debugOpen : Bool := true
  reads : List (Nat × Word) := []
  hbSent : Nat := 0
  hbSeen : Nat := 0
  hbAt : Nat := 0
  captured : Nat := 0
  -- the loader and Yilyan, by function
  loaded : Tab Nat := []
  programs : Tab (List YProgram) := []
deriving DecidableEq, Repr

/-- The machine right after reset (R384): chip time 0, every core, the Mirror, L2 and the error log zeroed, every root
entry with V = 0; registers without a stated value at those of log 3, memories at that of log 2. -/
def State.reset : State := {}

end Sys2Proof.Machine
end

