-- ==== Sys2Proof/Machine/Tab.lean ====
section
/-! DEFINITION. Reading and writing the sparse tables: register files, memories and the tables of cores and contexts. -/

namespace Sys2Proof.Machine

/-- The entry of k, or what unlisted keys read as. -/
def tget {α : Type} (d : α) : Tab α → Nat → α
  | [], _ => d
  | (k', v) :: t, k => if k = k' then v else if k < k' then d else tget d t k

/-- The entries after key k. -/
def tdrop {α : Type} (k : Nat) : Tab α → Tab α
  | [] => []
  | (k', v) :: t => if k' ≤ k then tdrop k t else (k', v) :: t

/-- Writing an entry; the default value removes it. -/
def tset {α : Type} [DecidableEq α] (d : α) : Tab α → Nat → α → Tab α
  | [], k, v => if v = d then [] else [(k, v)]
  | (k', v') :: t, k, v =>
    if k < k' then (if v = d then (k', v') :: t else (k, v) :: (k', v') :: t)
    else if k = k' then (if v = d then tdrop k t else (k, v) :: t)
    else (k', v') :: tset d t k v

/-- Writing an entry of a table whose entries are kept whatever they hold (cores, contexts). -/
def tput {α : Type} : Tab α → Nat → α → Tab α
  | [], k, v => [(k, v)]
  | (k', v') :: t, k, v =>
    if k < k' then (k, v) :: (k', v') :: t
    else if k = k' then (k, v) :: t
    else (k', v') :: tput t k v

/-- The canonical form: keys strictly rising from lo on, no entry equal to the default. -/
def twfFrom {α : Type} [DecidableEq α] (d : α) (lo : Nat) : Tab α → Bool
  | [] => true
  | (k, v) :: t => decide (lo ≤ k) && decide (v ≠ d) && twfFrom d (k + 1) t

/-- The canonical form of a table (Memory.wf for a memory). -/
def twf {α : Type} [DecidableEq α] (d : α) (t : Tab α) : Bool := twfFrom d 0 t

/-- Bytes at consecutive keys, lowest first. -/
def treads {α : Type} (d : α) (t : Tab α) : Nat → Nat → List α
  | _, 0 => []
  | k, n + 1 => tget d t k :: treads d t (k + 1) n

/-- Writing consecutive keys, lowest first. -/
def twrites {α : Type} [DecidableEq α] (d : α) (t : Tab α) (k : Nat) : List α → Tab α
  | [] => t
  | v :: vs => twrites d (tset d t k v) (k + 1) vs

/-- Entries with keys in [lo, hi) removed. -/
def terase {α : Type} (t : Tab α) (lo hi : Nat) : Tab α := t.filter fun e => decide (e.1 < lo) || decide (hi ≤ e.1)

/-- Consecutive keys [lo, lo + n) replaced by f. -/
def tfill {α : Type} [DecidableEq α] (d : α) (t : Tab α) (lo n : Nat) (f : Nat → α) : Tab α :=
  t.filter (fun e => decide (e.1 < lo)) ++ (((List.range n).map fun i => (lo + i, f i)).filter fun e => decide (e.2 ≠ d))
    ++ t.filter (fun e => decide (lo + n ≤ e.1))

/-- The number that bytes hold, lowest first (R5). -/
def leNat : List Byte → Nat
  | [] => 0
  | b :: bs => b.toNat + 256 * leNat bs

/-- The n bytes of a number, lowest first (R5). -/
def leBytes : Nat → Nat → List Byte
  | 0, _ => []
  | n + 1, v => BitVec.ofNat 8 v :: leBytes n (v / 256)

end Sys2Proof.Machine
end

