-- ==== Sys2Proof/Machine/Access.lean ====
section
/-! DEFINITION. Reading and writing registers and the parts of the state: each register has one home and one accessor. -/

namespace Sys2Proof.Machine

/-! ### Cores and contexts -/

/-- Core n. -/
def State.core (s : State) (n : Nat) : CoreSt := tget {} s.cores n

/-- Core n replaced. -/
def State.setCore (s : State) (n : Nat) (c : CoreSt) : State := { s with cores := tput s.cores n c }

/-- The issuing core. -/
def State.me (s : State) : CoreSt := s.core s.cur.core

def State.setMe (s : State) (c : CoreSt) : State := s.setCore s.cur.core c

/-- Context k of a core. -/
def CoreSt.ctx (c : CoreSt) (k : Nat) : Ctx := tget {} c.ctxs k

def CoreSt.setCtx (c : CoreSt) (k : Nat) (x : Ctx) : CoreSt := { c with ctxs := tput c.ctxs k x }

/-- The issuing context. -/
def State.my (s : State) : Ctx := s.me.ctx s.cur.ctx

def State.setMy (s : State) (x : Ctx) : State := s.setMe (s.me.setCtx s.cur.ctx x)

/-- Context k of core n. -/
def State.ctxAt (s : State) (n k : Nat) : Ctx := (s.core n).ctx k

def State.setCtxAt (s : State) (n k : Nat) (x : Ctx) : State := s.setCore n ((s.core n).setCtx k x)

/-- The same state seen from core n and context k. -/
def State.at (s : State) (n k : Nat) : State := { s with cur := { s.cur with core := n, ctx := k } }

def State.cluster (s : State) (k : Nat) : Cluster := tget {} s.clusters k

def State.setCluster (s : State) (k : Nat) (c : Cluster) : State := { s with clusters := tput s.clusters k c }

def State.slot (s : State) (n : Nat) : Slot := tget {} s.slots n

def State.setSlot (s : State) (n : Nat) (x : Slot) : State := { s with slots := tput s.slots n x }

/-- The core is a reflex core (R1, R37). -/
def State.reflex (s : State) : Bool := Config.isReflex s.cur.core

/-! ### Places of cores (R1, R29, R30) -/

/-- Mesh row: 4 rows of 16 columns, or 4 rows of 8 columns on the reflex array. -/
def rowOf (core : Nat) : Nat := if core < 64 then core / 16 else (core - 64) / 8

/-- Mesh column. -/
def colOf (core : Nat) : Nat := if core < 64 then core % 16 else (core - 64) % 8

/-- The cluster of a reasoning core (R1). -/
def clusterOf (core : Nat) : Nat := (rowOf core / 2) * 8 + colOf core / 2

/-- Rows, columns and sizes of a domain rectangle (R30). -/
structure Rect where
  row : Nat
  col : Nat
  h : Nat
  w : Nat
deriving DecidableEq, Repr

/-- The rectangle of a level that contains a core (R30). -/
def rectOf (core lvl : Nat) : Rect :=
  match lvl with
  | 0 => ⟨rowOf core, colOf core, 1, 1⟩
  | 1 => ⟨2 * (rowOf core / 2), 2 * (colOf core / 2), 2, 2⟩
  | 2 => ⟨0, 4 * (colOf core / 4), 4, 4⟩
  | _ => ⟨0, 0, 4, 16⟩

/-- The number of the domain of a level that contains a core (R30). -/
def domOf (core lvl : Nat) : Nat :=
  match lvl with
  | 0 => core
  | 1 => clusterOf core
  | 2 => colOf core / 4
  | _ => 0

/-- The cores of a domain, ascending. -/
def domCores (lvl dom : Nat) : List Nat := (List.range 64).filter fun c => domOf c lvl == dom

/-- The core at a mesh position of the reasoning array. -/
def coreAt (row col : Nat) : Nat := row * 16 + col

/-! ### Registers (R12-R15) -/

/-- G0 reads zero (R12). -/
def Ctx.getG (x : Ctx) (r : Nat) : Word := if r = 0 then 0 else tget 0 x.g r

/-- A write to G0 is discarded (R12). -/
def Ctx.setG (x : Ctx) (r : Nat) (v : Word) : Ctx := if r = 0 then x else { x with g := tset 0 x.g r v }

/-- P0 reads all ones (R13). -/
def Ctx.getP (x : Ctx) (r : Nat) : Pred := if r = 0 then BitVec.allOnes 128 else tget 0 x.p r

/-- A write to P0 is discarded (R13). -/
def Ctx.setP (x : Ctx) (r : Nat) (v : Pred) : Ctx := if r = 0 then x else { x with p := tset 0 x.p r v }

def Ctx.getV (x : Ctx) (r : Nat) : Vec := tget 0 x.v r

def Ctx.setV (x : Ctx) (r : Nat) (v : Vec) : Ctx := { x with v := tset 0 x.v r v }

def Ctx.getA (x : Ctx) (r : Nat) : Word := tget 0 x.a r

def Ctx.setA (x : Ctx) (r : Nat) (v : Word) : Ctx := { x with a := tset 0 x.a r v }

def State.getG (s : State) (r : Reg5) : Word := s.my.getG r.toNat
def State.setG (s : State) (r : Reg5) (v : Word) : State := s.setMy (s.my.setG r.toNat v)
def State.getP (s : State) (r : Reg3) : Pred := s.my.getP r.toNat
def State.setP (s : State) (r : Reg3) (v : Pred) : State := s.setMy (s.my.setP r.toNat v)
def State.getV (s : State) (r : Reg5) : Vec := s.my.getV r.toNat
def State.setV (s : State) (r : Reg5) (v : Vec) : State := s.setMy (s.my.setV r.toNat v)
def State.getA (s : State) (r : Reg3) : Word := s.my.getA r.toNat
def State.setA (s : State) (r : Reg3) (v : Word) : State := s.setMy (s.my.setA r.toNat v)

/-- A source operand (R76). -/
def State.src (s : State) : Src → Word
  | .reg r => s.getG r
  | .lit v => v

/-- An immediate, sign-extended (R94). -/
def immVal {n : Nat} : Imm n → Word
  | .short v => v.signExtend 64
  | .lit v => v

/-- The guard: bit 0 of the predicate (R75). -/
def State.guardOn (s : State) (g : Reg3) : Bool := (s.getP g).getLsbD 0

/-! ### System registers by number (R27) -/

/-- Reset values of R27. -/
def sysReset (n : Nat) : Word :=
  if n = 0x002 then 4 else if 0x020 ≤ n ∧ n ≤ 0x027 then 0x1FF else if n = 0x100 then 1 else if n = 0x111 then 0xF else 0

/-- Registers marked ctx in R27. -/
def sysIsCtx (n : Nat) : Bool :=
  n == 0 || n == 0x010 || n == 0x011 || n == 0x030 || (decide (0x100 ≤ n) && decide (n ≤ 0x105))
    || (decide (0x120 ≤ n) && decide (n ≤ 0x12F))

def Ctx.sysr (x : Ctx) (n : Nat) : Word := tget (sysReset n) x.sys n
def Ctx.setSysr (x : Ctx) (n : Nat) (v : Word) : Ctx := { x with sys := tset (sysReset n) x.sys n v }
def CoreSt.sysr (c : CoreSt) (n : Nat) : Word := tget (sysReset n) c.sys n
def CoreSt.setSysr (c : CoreSt) (n : Nat) (v : Word) : CoreSt := { c with sys := tset (sysReset n) c.sys n v }

/-- The stored image of a system register of the issuing context or core. -/
def State.sysr (s : State) (n : Nat) : Word := if sysIsCtx n then s.my.sysr n else s.me.sysr n
def State.setSysr (s : State) (n : Nat) (v : Word) : State :=
  if sysIsCtx n then s.setMy (s.my.setSysr n v) else s.setMe (s.me.setSysr n v)

/-- Monitor level (R28, R36). -/
def Ctx.mon (x : Ctx) : Bool := (x.sysr 0x100).getLsbD 0

/-- The tag of a core's requests (R31). -/
def CoreSt.vf (c : CoreSt) : Nat := (c.sysr 0x002).toNat % 8

/-- A bit of a word replaced. -/
def setBit (v : Word) (i : Nat) (b : Bool) : Word :=
  if b then v ||| ((1 : Word) <<< i) else v &&& ~~~((1 : Word) <<< i)

/-- Bits [lo + n - 1 : lo] of a word as a number. -/
def bits (v : Word) (lo n : Nat) : Nat := v.toNat / 2 ^ lo % 2 ^ n

/-- DOMLVL.LVL (R30). -/
def CoreSt.lvl (c : CoreSt) : Nat := (c.sysr 0x003).toNat % 4

/-- The core's replica of chip time (R283). -/
def State.replica (s : State) (core : Nat) : Nat := ((s.now : Int) + (s.core core).skew).toNat

/-! ### Per-core stores -/

/-- Rows of the accumulator store: 256, or 64 on a reflex core (R23, R37). -/
def State.accHeight (s : State) : Nat := if s.reflex then 64 else 256

/-- Scratch registers: 256, or 64 on a reflex core (R24, R37). -/
def State.xCount (s : State) : Nat := if s.reflex then 64 else 256

def CoreSt.cell (c : CoreSt) (row col : Nat) : Half := tget 0 c.acc (row * 128 + col)

/-- Writing a cell marks its row in the row map (R38). -/
def CoreSt.setCell (c : CoreSt) (row col : Nat) (v : Half) : CoreSt :=
  { c with acc := tset 0 c.acc (row * 128 + col) v, accRows := tset false c.accRows row true,
           accBad := tset false c.accBad (row * 128 + col) false }

def CoreSt.tile (c : CoreSt) (t : Nat) : BitVec 32768 := tget 0 c.tiles t

def CoreSt.setTile (c : CoreSt) (t : Nat) (v : BitVec 32768) : CoreSt := { c with tiles := tset 0 c.tiles t v }

def CoreSt.getX (c : CoreSt) (r : Nat) : BitVec 128 := tget 0 c.x r

def CoreSt.setX (c : CoreSt) (r : Nat) (v : BitVec 128) : CoreSt :=
  { c with x := tset 0 c.x r v, xBad := tset false (tset false c.xBad (2 * r) false) (2 * r + 1) false }

/-- Bytes of core memory: 5 MiB, or 96 KiB of reflex local memory (R120). -/
def memSize (core : Nat) : Nat := if core < 64 then 0x500000 else 0x18000

end Sys2Proof.Machine
end

