-- ==== Sys2Proof/Machine/Flags.lean ====
section
/-! DEFINITION. The sticky flags: FPFLAGS (R32) and SPCTL's SSAT and SUF (R33). -/

namespace Sys2Proof.Machine

/-- Arithmetic flags raised by an operation (R32). -/
structure Flags where
  nv : Bool := false
  dz : Bool := false
  of : Bool := false
  uf : Bool := false
  nx : Bool := false
  gnf : Bool := false
deriving DecidableEq, Repr

/-- The bits of FPFLAGS (R32). -/
def Flags.word (f : Flags) : Word :=
  (0 : BitVec 58) ++ BitVec.ofBool f.gnf ++ BitVec.ofBool f.nx ++ BitVec.ofBool f.uf ++ BitVec.ofBool f.of ++ BitVec.ofBool f.dz
    ++ BitVec.ofBool f.nv

/-- The flags of two operations together. -/
def Flags.or (a b : Flags) : Flags :=
  { nv := a.nv || b.nv, dz := a.dz || b.dz, of := a.of || b.of, uf := a.uf || b.uf, nx := a.nx || b.nx, gnf := a.gnf || b.gnf }

/-- Flags are only set by hardware, in the FPFLAGS of the context that issued the instruction (R32). -/
def State.raise (s : State) (f : Flags) : State := s.setMy (s.my.setSysr 0x011 (s.my.sysr 0x011 ||| f.word))

/-- The flags of many operations. -/
def flagsOf : List Flags → Flags
  | [] => {}
  | f :: fs => f.or (flagsOf fs)

/-- FPCTL.RM (R32). -/
def State.rm (s : State) : BitVec 2 := (s.my.sysr 0x010).extractLsb' 0 2

/-- FPCTL.SR (R32). -/
def State.srOn (s : State) : Bool := (s.my.sysr 0x010).getLsbD 2

/-- SSAT and SUF set in SPCTL (R33). -/
def CoreSt.spFlag (c : CoreSt) (sat uf : Bool) : CoreSt :=
  let v := c.sysr 0x018
  let v := if sat then setBit v 9 true else v
  c.setSysr 0x018 (if uf then setBit v 8 true else v)

end Sys2Proof.Machine
end

