-- ==== Sys2Proof/Machine/Fp.lean ====
section
/-! DEFINITION. Number formats, exact values, rounding and conversions (R43-R63). A finite number is a sign, a natural
mantissa and an exponent, and every operation is exact until it is rounded. -/

namespace Sys2Proof.Machine

/-- A floating-point layout (R43). -/
structure FpFmt where
  ebits : Nat
  mbits : Nat
  bias : Nat
  /-- E all ones holds infinities and NaNs -/
  ieee : Bool
  /-- E4M3: the all-ones encodings alone are NaN -/
  oneNan : Bool := false
deriving DecidableEq, Repr

def fFP32 : FpFmt := { ebits := 8, mbits := 23, bias := 127, ieee := true }
def fBF16 : FpFmt := { ebits := 8, mbits := 7, bias := 127, ieee := true }
def fFP16 : FpFmt := { ebits := 5, mbits := 10, bias := 15, ieee := true }
def fE4M3 : FpFmt := { ebits := 4, mbits := 3, bias := 7, ieee := false, oneNan := true }
def fE5M2 : FpFmt := { ebits := 5, mbits := 2, bias := 15, ieee := true }
def fE3M2 : FpFmt := { ebits := 3, mbits := 2, bias := 3, ieee := false }
def fE2M3 : FpFmt := { ebits := 2, mbits := 3, bias := 1, ieee := false }
def fE2M1 : FpFmt := { ebits := 2, mbits := 1, bias := 1, ieee := false }
def fFP64 : FpFmt := { ebits := 11, mbits := 52, bias := 1023, ieee := true }

/-- The wide formats of vector lanes (R43, R78). -/
def vfFmt : VF → FpFmt
  | .f32 => fFP32
  | .bf16 => fBF16
  | .f16 => fFP16

/-- Bytes of a lane of a vector floating-point format. -/
def vfBytes : VF → Nat
  | .f32 => 4
  | .bf16 => 2
  | .f16 => 2

/-- Bytes of a lane of a vector integer format. -/
def viBytes : VI → Nat
  | .i32 => 4
  | .i16 => 2
  | .i8 => 1

/-- Element bytes of ES (R78). -/
def esBytes : ES → Nat
  | .b => 1
  | .h => 2
  | .w => 4
  | .d => 8

/-- A number (R43-R46): NaN, infinity, or (-1)^neg * m * 2^e. -/
inductive Fp where
  | nan
  | inf (neg : Bool)
  | fin (neg : Bool) (m : Nat) (e : Int)
deriving DecidableEq, Repr

def FpFmt.width (f : FpFmt) : Nat := 1 + f.ebits + f.mbits
def FpFmt.emax (f : FpFmt) : Nat := 2 ^ f.ebits - 1
def FpFmt.emin (f : FpFmt) : Int := 1 - (f.bias : Int)

/-- The value of an encoding (R43, R44). -/
def FpFmt.dec (f : FpFmt) (v : Nat) : Fp :=
  let m := v % 2 ^ f.mbits
  let e := v / 2 ^ f.mbits % 2 ^ f.ebits
  let neg := v.testBit (f.ebits + f.mbits)
  if f.ieee && e == f.emax then (if m = 0 then .inf neg else .nan)
  else if f.oneNan && e == f.emax && m == 2 ^ f.mbits - 1 then .nan
  else if e = 0 then .fin neg m (f.emin - f.mbits)
  else .fin neg (2 ^ f.mbits + m) ((e : Int) - f.bias - f.mbits)

/-- The sign bit. -/
def FpFmt.sign (f : FpFmt) (neg : Bool) : Nat := if neg then 2 ^ (f.ebits + f.mbits) else 0

/-- The canonical NaN (R45); formats without one answer +0. -/
def FpFmt.nan (f : FpFmt) : Nat :=
  if f.ieee then f.emax * 2 ^ f.mbits + 2 ^ (f.mbits - 1) else if f.oneNan then 2 ^ (f.ebits + f.mbits) - 1 else 0

/-- An infinity. -/
def FpFmt.infinity (f : FpFmt) (neg : Bool) : Nat := f.sign neg + f.emax * 2 ^ f.mbits

/-- The largest finite encoding (R43). -/
def FpFmt.maxEnc (f : FpFmt) : Nat :=
  if f.ieee then f.emax * 2 ^ f.mbits - 1 else if f.oneNan then 2 ^ (f.ebits + f.mbits) - 2 else 2 ^ (f.ebits + f.mbits) - 1

/-- How a conversion treats what does not fit (R60). -/
inductive Ovf where
  /-- wide formats, and E5M2 with SAT = 0 -/
  | byMode
  /-- E4M3 with SAT = 0 -/
  | toNan
  /-- E4M3 and E5M2 with SAT = 1 -/
  | saturate
  /-- FP6 and FP4, which always saturate -/
  | narrow
deriving DecidableEq, Repr

/-- The two's-power scaling m * 2^k for a signed k, dropping bits below 1. -/
def scaleNat (m : Nat) (k : Int) : Nat := if 0 ≤ k then m * 2 ^ k.toNat else m / 2 ^ (-k).toNat

/-- A magnitude on the target grid: y * 2^q (R55). -/
structure Grid where
  y : Nat
  q : Int
  /-- the discarded part is not zero -/
  inexact : Bool
  /-- its first 16 bits (R56) -/
  g16 : Nat
  /-- whether the nearest grid value is above; at a tie, whether y is odd -/
  up : Bool

/-- The grid position of m * 2^e, to which an amount below one unit of 2^e is added when sticky (R55). -/
def FpFmt.grid (f : FpFmt) (m : Nat) (e : Int) (sticky : Bool) : Grid :=
  let top : Int := e + m.log2
  let q : Int := (if top < f.emin then f.emin else top) - f.mbits
  let sh := q - e
  if sh ≤ 0 then { y := m * 2 ^ (-sh).toNat, q := q, inexact := sticky, g16 := 0, up := false }
  else
    let k := sh.toNat
    let y := m / 2 ^ k
    let r := m % 2 ^ k
    { y := y, q := q, inexact := r != 0 || sticky, g16 := r * 2 ^ 16 / 2 ^ k,
      up := decide (2 ^ k < 2 * r) || (2 * r == 2 ^ k && (sticky || y % 2 == 1)) }

/-- Whether a mode takes the neighbour of larger magnitude (R55). -/
def Grid.roundsUp (g : Grid) (rm : BitVec 2) (neg : Bool) : Bool :=
  if rm = 0 then g.up else if rm = 1 then false else if rm = 2 then g.inexact && !neg else g.inexact && neg

/-- The encoding of y * 2^q within range, y below 2^(mbits + 1) or equal to it. -/
def FpFmt.enc (f : FpFmt) (neg : Bool) (y : Nat) (q : Int) : Nat :=
  if y < 2 ^ f.mbits then f.sign neg + y
  else if y < 2 ^ (f.mbits + 1) then f.sign neg + (q + f.mbits + f.bias).toNat * 2 ^ f.mbits + (y - 2 ^ f.mbits)
  else f.sign neg + (q + 1 + f.mbits + f.bias).toNat * 2 ^ f.mbits

/-- y * 2^q exceeds the largest finite value (R55). -/
def FpFmt.over (f : FpFmt) (y : Nat) (q : Int) : Bool :=
  match f.dec f.maxEnc with
  | .fin _ m e => if q ≤ e then decide (m * 2 ^ (e - q).toNat < y) else decide (m < y * 2 ^ (q - e).toNat)
  | _ => false

/-- y * 2^q lies below the smallest normal (R58). -/
def FpFmt.below (f : FpFmt) (y : Nat) (_q : Int) : Bool := decide (y < 2 ^ f.mbits)

/-- What an overflow delivers (R60). -/
def FpFmt.overflow (f : FpFmt) (o : Ovf) (rm : BitVec 2) (neg : Bool) : Nat × Flags :=
  let fl : Flags := { of := true, nx := true }
  match o with
  | .byMode => (if rm = 1 ∨ (rm = 2 ∧ neg) ∨ (rm = 3 ∧ ¬ neg) then f.sign neg + f.maxEnc else f.infinity neg, fl)
  | .toNan => (f.nan, fl)
  | .saturate => (f.sign neg + f.maxEnc, fl)
  | .narrow => (f.sign neg + f.maxEnc, fl)

/-- A rounded magnitude delivered with its flags (R55, R58). -/
def FpFmt.deliver (f : FpFmt) (o : Ovf) (rm : BitVec 2) (neg : Bool) (y : Nat) (q : Int) (inexact : Bool) : Nat × Flags :=
  if f.over y q then f.overflow o rm neg
  else (f.enc neg y q, { nx := inexact, uf := inexact && f.below y q })

/-- Rounding an exact non-zero magnitude by a mode (R55, R58). -/
def FpFmt.round (f : FpFmt) (o : Ovf) (rm : BitVec 2) (neg : Bool) (m : Nat) (e : Int) (sticky : Bool := false) : Nat × Flags :=
  if m = 0 then (f.sign neg, {})
  else
    let g := f.grid m e sticky
    f.deliver o rm neg (if g.roundsUp rm neg then g.y + 1 else g.y) g.q g.inexact

/-- Stochastic rounding with a draw (R56); an overflow takes the outcome of RNE. -/
def FpFmt.roundSr (f : FpFmt) (o : Ovf) (draw : Nat) (neg : Bool) (m : Nat) (e : Int) : Nat × Flags :=
  if m = 0 then (f.sign neg, {})
  else
    let g := f.grid m e false
    f.deliver o 0 neg (if g.inexact && decide (2 ^ 16 ≤ g.g16 + draw) then g.y + 1 else g.y) g.q g.inexact

/-- How a value is rounded: by a mode, or by a draw (R54). -/
inductive Rounding where
  | mode (rm : BitVec 2)
  | draw (v : Nat)
deriving DecidableEq, Repr

/-- Conversion of a value to a format (R59, R60). -/
def FpFmt.convert (f : FpFmt) (o : Ovf) (r : Rounding) (x : Fp) : Nat × Flags :=
  match x with
  | .nan => match o with
    | .byMode => (f.nan, {})
    | .toNan => (f.nan, { nv := true })
    | .saturate => if f.ieee then (f.nan, {}) else (0, { nv := true })
    | .narrow => (0, { nv := true })
  | .inf neg => match o with
    | .byMode => (f.infinity neg, {})
    | .toNan => (f.nan, { nv := true })
    | .saturate => (f.sign neg + f.maxEnc, { of := true })
    | .narrow => (f.sign neg + f.maxEnc, { of := true })
  | .fin neg m e => match r with
    | .mode rm => f.round o rm neg m e
    | .draw d => f.roundSr o d neg m e

/-- How a conversion to a format overflows (R59, R60). -/
def FpFmt.ovf (f : FpFmt) (sat : Bool) : Ovf :=
  if f.ieee then (if f.ebits = 5 ∧ f.mbits = 2 ∧ sat then .saturate else .byMode)
  else if f.oneNan then (if sat then .saturate else .toNan) else .narrow

/-- Rounding to an integer within a signed width (R61). -/
def toIntFmt (width : Nat) (r : Rounding) (x : Fp) : Int × Flags :=
  let hi : Int := 2 ^ (width - 1) - 1
  let lo : Int := -(2 ^ (width - 1) : Int)
  match x with
  | .nan => (0, { nv := true })
  | .inf neg => (if neg then lo else hi, { nv := true })
  | .fin neg m e =>
    let k := (-e).toNat
    let y := if 0 ≤ e then m * 2 ^ e.toNat else m / 2 ^ k
    let rem := if 0 ≤ e then 0 else m % 2 ^ k
    let inexact := rem != 0
    let up := match r with
      | .mode rm => (({ y := y, q := 0, inexact := inexact, g16 := 0,
                        up := decide (2 ^ k < 2 * rem) || (inexact && 2 * rem == 2 ^ k && y % 2 == 1) } : Grid)).roundsUp rm neg
      | .draw d => inexact && decide (2 ^ 16 ≤ rem * 2 ^ 16 / 2 ^ k + d)
    let y := if up then y + 1 else y
    let v : Int := if neg then -(y : Int) else y
    if hi < v then (hi, { nv := true })
    else if v < lo then (lo, { nv := true })
    else (v, { nx := inexact })

/-- An integer as a number: zero is +0 (R62). -/
def ofIntFp (v : Int) : Fp := .fin (decide (v < 0)) v.natAbs 0

/-! ### Exact arithmetic -/

/-- The signed sum of two finite numbers at the smaller exponent. -/
def addExact (n1 : Bool) (m1 : Nat) (e1 : Int) (n2 : Bool) (m2 : Nat) (e2 : Int) : Int × Int :=
  let e := if e1 ≤ e2 then e1 else e2
  let a : Int := (m1 * 2 ^ (e1 - e).toNat : Nat)
  let b : Int := (m2 * 2 ^ (e2 - e).toNat : Nat)
  ((if n1 then -a else a) + (if n2 then -b else b), e)

/-- The sum of two numbers; NV for opposite infinities (R45, R46). -/
def Fp.add (rm : BitVec 2) (x y : Fp) : Fp × Flags :=
  match x, y with
  | .nan, _ => (.nan, {})
  | _, .nan => (.nan, {})
  | .inf a, .inf b => if a = b then (.inf a, {}) else (.nan, { nv := true })
  | .inf a, .fin _ _ _ => (.inf a, {})
  | .fin _ _ _, .inf b => (.inf b, {})
  | .fin n1 m1 e1, .fin n2 m2 e2 =>
    let (v, e) := addExact n1 m1 e1 n2 m2 e2
    if v = 0 then (.fin (if n1 = n2 then n1 else rm == 3) 0 0, {}) else (.fin (decide (v < 0)) v.natAbs e, {})

def Fp.neg : Fp → Fp
  | .nan => .nan
  | .inf n => .inf !n
  | .fin n m e => .fin (!n) m e

/-- The exact product; NV for 0 times infinity (R45). -/
def Fp.mul (x y : Fp) : Fp × Flags :=
  match x, y with
  | .nan, _ => (.nan, {})
  | _, .nan => (.nan, {})
  | .inf a, .inf b => (.inf (a != b), {})
  | .inf a, .fin n m _ => if m = 0 then (.nan, { nv := true }) else (.inf (a != n), {})
  | .fin n m _, .inf b => if m = 0 then (.nan, { nv := true }) else (.inf (n != b), {})
  | .fin n1 m1 e1, .fin n2 m2 e2 => (.fin (n1 != n2) (m1 * m2) (e1 + e2), {})

/-- An operation's result rounded by FPCTL.RM, with both sets of flags (R54). -/
def FpFmt.result (f : FpFmt) (rm : BitVec 2) (x : Fp × Flags) : Nat × Flags :=
  let (v, fl) := f.convert .byMode (.mode rm) x.1
  (v, x.2.or fl)

def FpFmt.add (f : FpFmt) (rm : BitVec 2) (a b : Nat) : Nat × Flags := f.result rm (Fp.add rm (f.dec a) (f.dec b))
def FpFmt.sub (f : FpFmt) (rm : BitVec 2) (a b : Nat) : Nat × Flags := f.result rm (Fp.add rm (f.dec a) (f.dec b).neg)
def FpFmt.mul (f : FpFmt) (rm : BitVec 2) (a b : Nat) : Nat × Flags := f.result rm (Fp.mul (f.dec a) (f.dec b))

/-- x * y + z with one rounding (R150). -/
def FpFmt.fma (f : FpFmt) (rm : BitVec 2) (x y z : Fp) : Nat × Flags :=
  match z with
  | .nan => (f.nan, {})
  | _ =>
    let p := Fp.mul x y
    let t := Fp.add rm p.1 z
    f.result rm (t.1, p.2.or t.2)

/-- Division (R45, R58). -/
def FpFmt.div (f : FpFmt) (rm : BitVec 2) (a b : Nat) : Nat × Flags :=
  match f.dec a, f.dec b with
  | .nan, _ => (f.nan, {})
  | _, .nan => (f.nan, {})
  | .inf _, .inf _ => (f.nan, { nv := true })
  | .inf n, .fin k _ _ => (f.infinity (n != k), {})
  | .fin n _ _, .inf k => (f.sign (n != k), {})
  | .fin n m1 e1, .fin k m2 e2 =>
    if m2 = 0 then (if m1 = 0 then (f.nan, { nv := true }) else (f.infinity (n != k), { dz := true }))
    else if m1 = 0 then (f.sign (n != k), {})
    else
      let sh := 2 * f.mbits + 8 + m2.log2
      f.round .byMode rm (n != k) (m1 * 2 ^ sh / m2) (e1 - e2 - sh) (m1 * 2 ^ sh % m2 != 0)

/-- The integer square root, bit by bit from bit i down. -/
def sqrtFrom (n : Nat) : Nat → Nat → Nat
  | 0, r => if (r + 1) * (r + 1) ≤ n then r + 1 else r
  | i + 1, r => sqrtFrom n i (if (r + 2 ^ (i + 1)) * (r + 2 ^ (i + 1)) ≤ n then r + 2 ^ (i + 1) else r)

def isqrt (n : Nat) : Nat := if n = 0 then 0 else sqrtFrom n (n.log2 / 2 + 1) 0

/-- Square root (R45). -/
def FpFmt.sqrt (f : FpFmt) (rm : BitVec 2) (a : Nat) : Nat × Flags :=
  match f.dec a with
  | .nan => (f.nan, {})
  | .inf n => if n then (f.nan, { nv := true }) else (f.infinity false, {})
  | .fin n m e =>
    if m = 0 then (f.sign n, {})
    else if n then (f.nan, { nv := true })
    else
      let k := 2 * f.mbits + 8
      let (m, e) := if e % 2 = 0 then (m, e) else (2 * m, e - 1)
      let big := m * 2 ^ (2 * k)
      let r := isqrt big
      f.round .byMode rm false r (e / 2 - k) (r * r != big)

/-- Order of two numbers that are not NaN; zeros are equal. -/
def Fp.lt (x y : Fp) : Bool :=
  match x, y with
  | .nan, _ => false
  | _, .nan => false
  | .inf a, .inf b => a && !b
  | .inf a, .fin _ _ _ => a
  | .fin _ _ _, .inf b => !b
  | .fin n1 m1 e1, .fin n2 m2 e2 => decide ((addExact n1 m1 e1 (!n2) m2 e2).1 < 0)

/-- Equality of two numbers that are not NaN; zeros are equal. -/
def Fp.same (x y : Fp) : Bool :=
  match x, y with
  | .nan, _ => false
  | _, .nan => false
  | .inf a, .inf b => a == b
  | .inf _, .fin _ _ _ => false
  | .fin _ _ _, .inf _ => false
  | .fin n1 m1 e1, .fin n2 m2 e2 => decide ((addExact n1 m1 e1 (!n2) m2 e2).1 = 0)

def Fp.isNan : Fp → Bool
  | .nan => true
  | _ => false

/-! ### SP32 (R49, R50, R63) -/

/-- The value of an SP32 encoding: m * 2^e. -/
def spDec (v : Half) : Nat × Int :=
  let x : Nat := v.toNat / 2 ^ 23
  if x = 0 then (0, 0) else (2 ^ 23 + v.toNat % 2 ^ 23, (x : Int) - 383 - 23)

/-- An SP32 result rounded to 24 bits with RNE: the encoding, saturated, underflowed (R50). -/
def spRound (m : Nat) (e : Int) : Half × Bool × Bool :=
  if m = 0 then (0, false, false)
  else
    let sh := m.log2 - 23
    let y := if sh = 0 then m * 2 ^ (23 - m.log2) else m / 2 ^ sh
    let q : Int := if sh = 0 then e - (23 - m.log2 : Nat) else e + sh
    let r := if sh = 0 then 0 else m % 2 ^ sh
    let y := if 2 ^ sh < 2 * r ∨ (2 * r = 2 ^ sh ∧ sh ≠ 0 ∧ y % 2 = 1) then y + 1 else y
    let (y, q) := if y = 2 ^ 24 then (2 ^ 23, q + 1) else (y, q)
    let x : Int := q + 23 + 383
    if 511 < x then (0xFFFFFFFF, true, false)
    else if x < 1 then (0, false, true)
    else (BitVec.ofNat 32 (x.toNat * 2 ^ 23 + (y - 2 ^ 23)), false, false)

/-- FP32 to SP32: the encoding, NV, and saturation (R63). -/
def spOfFp32 (v : Nat) : Half × Bool × Bool :=
  match fFP32.dec v with
  | .nan => (0, true, false)
  | .inf n => if n then (0, true, false) else (0xFFFFFFFF, false, true)
  | .fin n m e => if m ≠ 0 ∧ n then (0, true, false) else ((spRound m e).1, false, false)

/-- SP32 to FP32 (R63). -/
def fp32OfSp (v : Half) : Nat × Flags :=
  let (m, e) := spDec v
  if m = 0 then (0, {})
  else
    let g := fFP32.grid m e false
    let y := if g.up then g.y + 1 else g.y
    if fFP32.over y g.q then (fFP32.maxEnc, { of := true, nx := true })
    else (fFP32.enc false y g.q, { nx := g.inexact, uf := g.inexact && fFP32.below y g.q })

/-! ### The core's generator (R57) -/

/-- The next n draws of the core, and the state after them (log 11). -/
def State.drawn (s : State) (n : Nat) : List Nat × State :=
  let c := s.me
  ((List.range n).map fun i => (Config.draw16 s.cur.core c.reseeds (c.draws + i)).toNat, s.setMe { c with draws := c.draws + n })

end Sys2Proof.Machine
end

