-- ==== Sys2Proof/Machine/Memory.lean ====
section
/-! DEFINITION. Bytes in their places, poison (R342), translation (R271-R286), segments (R287, R288), and the checks of a
memory access in the order of R121. -/

namespace Sys2Proof.Machine

/-! ### Bytes (R249, R265, R342) -/

/-- The place k bytes on. -/
def Place.plus : Place → Nat → Place
  | .dram a, k => .dram (a + k)
  | .host a, k => .host (a + k)
  | .peer a, k => .peer (a + k)
  | .core n o, k => .core n (o + k)
  | .sram o, k => .sram (o + k)
  | .tbuf n o, k => .tbuf n (o + k)

/-- Reading one byte. Memory that nothing has written reads zero (log 2). -/
def State.byteAt (s : State) : Place → Byte
  | .dram a => tget 0 s.dram a
  | .host a => tget 0 s.host a
  | .peer a => tget 0 s.peer a
  | .core n o => tget 0 (s.core n).mem o
  | .sram o => tget 0 s.sram o
  | .tbuf n o => tget 0 (s.core n).tbuf o

/-- The unwritten-byte mask of a protection unit with one byte written (R342). -/
def clearMask {n : Nat} (t : Tab (BitVec n)) (a : Nat) : Tab (BitVec n) :=
  match t with
  | [] => []
  | _ => tset 0 t (a / n) (tget 0 t (a / n) &&& ~~~(BitVec.ofNat n (2 ^ (a % n))))

/-- Two sectors lie in one DRAM row (log 28). -/
def sameRow (a b : Nat) : Bool :=
  let x := Config.dramSite (128 * a)
  let y := Config.dramSite (128 * b)
  x.1 == y.1 && x.2.1 == y.2.1 && x.2.2.1 == y.2.2.1

/-- The rows declared free after a write to a sector (R381). -/
def endFree (t : Tab Bool) (sector : Nat) : Tab Bool :=
  match t with
  | [] => []
  | _ => t.filter fun e => !sameRow e.1 sector

/-- Writing one byte, which also takes it out of the poison of its unit (R342), and its row out of those declared free (R381). -/
def State.setByte (s : State) (p : Place) (v : Byte) : State :=
  match p with
  | .dram a => { s with dram := tset 0 s.dram a v, dramBad := clearMask s.dramBad a, l2Bad := clearMask s.l2Bad a, sectors := tset false s.sectors (a / 128) true,
                         freeRows := endFree s.freeRows (a / 128) }
  | .host a => { s with host := tset 0 s.host a v }
  | .peer a => { s with peer := tset 0 s.peer a v }
  | .core n o => s.setCore n { s.core n with mem := tset 0 (s.core n).mem o v, memBad := clearMask (s.core n).memBad o }
  | .sram o => { s with sram := tset 0 s.sram o v, sramBad := clearMask s.sramBad o }
  | .tbuf n o => s.setCore n { s.core n with tbuf := tset 0 (s.core n).tbuf o v, tbufBad := clearMask (s.core n).tbufBad o }

/-- Bytes from a place on, lowest address first. -/
def State.bytesAt (s : State) (p : Place) : Nat → List Byte
  | 0 => []
  | n + 1 => s.byteAt p :: s.bytesAt (p.plus 1) n

/-- Writing bytes from a place on, lowest address first. -/
def State.setBytes (s : State) (p : Place) : List Byte → State
  | [] => s
  | b :: bs => (s.setByte p b).setBytes (p.plus 1) bs

/-- A little-endian number of n bytes (R5). -/
def State.numAt (s : State) (p : Place) (n : Nat) : Nat := leNat (s.bytesAt p n)

/-- The byte lies in a poisoned protection unit: 64 bits of SRAM or of a dirty L2 sector, a sector of DRAM (R270, R342). -/
def State.poisonedAt (s : State) : Place → Bool
  | .dram a => tget 0 s.dramBad (a / 128) != 0 || tget 0 s.l2Bad (a / 8) != 0
  | .host _ => false
  | .peer _ => false
  | .core n o => tget 0 (s.core n).memBad (o / 8) != 0
  | .sram o => tget 0 s.sramBad (o / 8) != 0
  | .tbuf n o => tget 0 (s.core n).tbufBad (o / 8) != 0

/-- The core that answers for a core: the even one of a lockstep pair (R312). -/
def State.pairHead (s : State) (core : Nat) : Nat := if (s.core core).pair then core / 2 * 2 else core

/-- The core memories that a request from another agent reaches: both of a lockstep pair (R312). -/
def State.pairCores (s : State) (core : Nat) : List Nat :=
  if (s.core core).pair then [core / 2 * 2, core / 2 * 2 + 1] else [core]

/-- The place that answers for a place of core memory: the even core of a pair (R312). -/
def State.readPlace (s : State) : Place → Place
  | .core n o => .core (s.pairHead n) o
  | p => p

/-- Bytes that another agent writes into core memory (R266, R312). -/
def State.putCore (s : State) (core off : Nat) (bs : List Byte) : State :=
  (s.pairCores core).foldl (fun s c => s.setBytes (.core c off) bs) s

/-- Some of n bytes from a place on are poisoned. -/
def State.poisonedIn (s : State) (p : Place) : Nat → Bool
  | 0 => false
  | n + 1 => s.poisonedAt p || s.poisonedIn (p.plus 1) n

/-- Ranges of bytes from two places on have a byte in common. -/
def Place.meets (p : Place) (n : Nat) (q : Place) (m : Nat) : Bool :=
  match p, q with
  | .dram a, .dram b | .host a, .host b | .peer a, .peer b | .sram a, .sram b => decide (a < b + m) && decide (b < a + n)
  | .core c a, .core d b | .tbuf c a, .tbuf d b => c == d && decide (a < b + m) && decide (b < a + n)
  | _, _ => false

/-- Marking the protection unit of a byte poisoned (R342); a DRAM row that has been declared free has no data to poison (R381). -/
def State.poison (s : State) (p : Place) : State :=
  match p with
  | .dram a =>
    if tget false s.sectors (a / 128) then { s with l2Bad := tset 0 s.l2Bad (a / 8) (BitVec.allOnes 8) }
    else if tget false s.freeRows (a / 128) then s
    else { s with dramBad := tset 0 s.dramBad (a / 128) (BitVec.allOnes 128) }
  | .host _ => s
  | .peer _ => s
  | .core n o => s.setCore n { s.core n with memBad := tset 0 (s.core n).memBad (o / 8) (BitVec.allOnes 8) }
  | .sram o => { s with sramBad := tset 0 s.sramBad (o / 8) (BitVec.allOnes 8) }
  | .tbuf n o => s.setCore n { s.core n with tbufBad := tset 0 (s.core n).tbufBad (o / 8) (BitVec.allOnes 8) }

/-- The place of a physical address of a populated range (R265, R371). -/
def placeOf (pa : Nat) : Place :=
  if pa < 0x4000000000 then .dram pa
  else if pa < 0x6000000000 then .host (pa - 0x4000000000)
  else .peer (pa - 0x6000000000)

/-- Physical address or offset reported for a place (R334). -/
def Place.addr : Place → Nat
  | .dram a => a
  | .host a => 0x4000000000 + a
  | .peer a => 0x6000000000 + a
  | .core _ o => o
  | .sram o => o
  | .tbuf _ o => o

/-- The PCI Express window (R265). -/
def inWindow (pa : Nat) : Bool := decide (0x4000000000 ≤ pa) && decide (pa < 0x8000000000)

/-- The home slice of a physical DRAM address (R267). -/
def homeSlice (pa : Nat) : Nat :=
  let n := pa / 256
  let f (k : Nat) : Nat := n / 2 ^ (6 * k) % 64
  f 0 ^^^ f 1 ^^^ f 2 ^^^ f 3 ^^^ f 4 ^^^ f 5

/-- The replica at the home slice of a physical address, or at the host interface for the window, is out of bound (R283). -/
def State.homeSkewed (s : State) (pa : Nat) : Bool := s.skewedHomes.contains (if inWindow pa then 64 else homeSlice pa)

/-- [a, a + n) lies in one populated range (R265). -/
def populated (a n : Nat) : Bool :=
  decide (a + n ≤ 0x1E00000000) || (decide (0x4000000000 ≤ a) && decide (a + n ≤ 0x8000000000))

/-! ### Stops -/

/-- What an access needs of a leaf (R278). -/
inductive Acc where
  | load | store | rmw | fetch | hint
deriving DecidableEq, Repr

/-- One lane, row or piece of an access: the number and address reported, the address and length of the bytes, the alignment
(0: misaligned whatever its address, R167). -/
structure Item where
  lane : Nat
  rep : Word
  va : Word
  n : Nat
  al : Nat
deriving DecidableEq, Repr

/-- How an instruction ends without its effect. -/
inductive Stop where
  /-- a trap with CAUSE.CODE, EADDR and EINFO (R334, R335) -/
  | trap (code : BitVec 8) (eaddr einfo : Word)
  /-- the context holds; an absent page posts a fault record of this kind (R141, R286) -/
  | hold (absent : Option (Nat × Nat))
  /-- the context waits for the place of its operation in S (R257) -/
  | order
  /-- the context sleeps (R216) -/
  | sleep
  /-- consumption of poison: the store code of R335, the place's address, the virtual address where there is one, and whether the
  whole core returns (R342, R345) -/
  | poison (store : Nat) (addr : Word) (unit : BitVec 4) (va : Option Word := none)
  /-- the stop comes after the translation of these accesses, whose fills and marks stay (R285) -/
  | after (acc : Acc) (items : List Item) (e : Stop)
deriving DecidableEq, Repr

/-- Cause codes (R334). -/
def cIllegalOpcode : BitVec 8 := 0x01
def cReservedField : BitVec 8 := 0x02
def cFeatureAbsent : BitVec 8 := 0x03
def cPrivilege : BitVec 8 := 0x04
def cFetchFault : BitVec 8 := 0x05
def cLoadFault : BitVec 8 := 0x06
def cProtection : BitVec 8 := 0x07
def cAlign : BitVec 8 := 0x08
def cIllegalAddress : BitVec 8 := 0x09
def cRemoteInCompute : BitVec 8 := 0x0A
def cScaleInvalid : BitVec 8 := 0x0B
def cMixedBlock : BitVec 8 := 0x0C
def cGeomNonfinite : BitVec 8 := 0x0D
def cSpeShape : BitVec 8 := 0x0E
def cPipelineError : BitVec 8 := 0x0F
def cUncorrectable : BitVec 8 := 0x10
def cClockSkew : BitVec 8 := 0x11
def cWatchdog : BitVec 8 := 0x12
def cBreakpoint : BitVec 8 := 0x14
def cSwtrap : BitVec 8 := 0x15

/-- The address group of EINFO (R335). -/
structure AddrInfo where
  straddle : Bool := false
  stream : Bool := false
  write : Bool := false
  slog : Bool := false
  malformed : Bool := false
  eng : Bool := false
  space : BitVec 2 := 0
  pkind : BitVec 4 := 0
  engid : BitVec 16 := 0
  lane : Nat := 0
deriving DecidableEq, Repr

/-- The word of an address group (R335). -/
def AddrInfo.word (i : AddrInfo) : Word :=
  BitVec.ofBool i.straddle ++ BitVec.ofBool i.stream ++ BitVec.ofBool i.write ++ BitVec.ofBool i.slog ++
    BitVec.ofBool i.malformed ++ BitVec.ofBool i.eng ++ i.space ++ i.pkind ++ (0 : BitVec 4) ++ i.engid ++
    BitVec.ofNat 8 i.lane ++ (0 : BitVec 24)

/-- The decode group of EINFO (R335). -/
def decodeInfo (word : Nat) (exec yil : Bool) (fbit : Nat) : Word :=
  (0 : BitVec 51) ++ BitVec.ofNat 2 word ++ BitVec.ofBool exec ++ BitVec.ofBool yil ++ BitVec.ofNat 9 fbit

/-- RESERVED_FIELD found at execution (R335). -/
def reservedAtExec : Stop := .trap cReservedField 0 (decodeInfo 0 true false 0)

/-- ILLEGAL_OPCODE found at execution (R26, R335). -/
def illegalAtExec : Stop := .trap cIllegalOpcode 0 (decodeInfo 0 true false 0)

/-- PRIVILEGE with PRKIND and SREG (R335). -/
def privilege (kind sreg : Nat) (eaddr : Word := 0) : Stop :=
  .trap cPrivilege eaddr ((0 : BitVec 49) ++ BitVec.ofNat 3 kind ++ BitVec.ofNat 12 sreg)

/-! ### Page tables (R272-R278, R285) -/

def Acc.reads : Acc → Bool
  | .load | .rmw => true
  | _ => false

def Acc.writes : Acc → Bool
  | .store | .rmw => true
  | _ => false

/-- The leaf's permissions suffice (R278). -/
def Acc.granted (a : Acc) (r w x : Bool) : Bool :=
  match a with
  | .load => r
  | .store => w
  | .rmw => r && w
  | .fetch => x
  | .hint => true

/-- Who asks: tag, cluster for the CMASK check (none: not checked, R275), and the lease cap and replica of the user. -/
structure Asker where
  vf : Nat
  cluster : Option Nat
  lcap : Nat
  replica : Nat
deriving DecidableEq, Repr

/-- A page-table leaf that a walk reached (R274, R275): word 0, word 1, its address and level. -/
structure Leaf where
  w0 : Word
  w1 : Word
  pa : Nat
  log2 : Nat
deriving DecidableEq, Repr

/-- What a walk finds (R277). -/
inductive Walk where
  | leaf (l : Leaf)
  | absent
  | invalid
  | malformed
  | noRoot
deriving DecidableEq, Repr

/-- A doubleword of DRAM. -/
def State.dramWord (s : State) (pa : Nat) : Word := BitVec.ofNat 64 (s.numAt (.dram pa) 8)

/-- The frame of a leaf (R274). -/
def leafFrame (w0 : Word) : Nat := bits w0 16 32 * 65536

/-- Log2 of the leaf's size (R274). -/
def leafLog2 (w0 : Word) : Nat := match bits w0 2 2 with
  | 0 => 16
  | 1 => 21
  | _ => 30

/-- A malformed leaf at a level (R277). -/
def leafMalformed (w0 w1 : Word) (level : Nat) : Bool :=
  bits w0 49 15 != 0 || bits w1 16 48 != 0 || bits w0 2 2 == 3 || decide (2 ≤ level)
    || (level == 1) != (bits w0 2 2 == 2)
    || leafFrame w0 % 2 ^ leafLog2 w0 != 0 || !populated (leafFrame w0) (2 ^ leafLog2 w0)

/-- A malformed non-leaf entry (R273, R277). Two points are the model's choice (log 94). A level-0 entry with LEAF = 0 and V = 0 is
malformed, by the list of R277, where the worked example after R284 takes the word 0 for an absent page. A non-zero word 1 makes
a LEAF = 0 entry malformed, as a reserved bit of R273, where the algorithm of R277 reads word 1 of a leaf only. -/
def nodeMalformed (w0 w1 : Word) (level : Nat) : Bool :=
  bits w0 48 16 != 0 || bits w0 2 12 != 0 || w1 != 0 || level == 0
    || (w0.getLsbD 0 && decide (0x1E00000000 < bits w0 14 34 * 16384 + 16384))

/-- The entries of a leaf's group that are leaves of its size (R276). -/
def State.groupOf (s : State) (w0 : Word) (pa : Nat) : List Nat :=
  let n := match bits w0 2 2 with
    | 1 => 32
    | 2 => 16
    | _ => 1
  ((List.range n).map fun k => pa / (16 * n) * (16 * n) + 16 * k).filter fun a => bits (s.dramWord a) 1 3 == bits w0 1 3

/-- The entry that translates (R276): the one walked, where its group agrees in every bit but A and D; else any of them (log 14). -/
def State.groupEntry (s : State) (w0 w1 : Word) (pa : Nat) : Nat :=
  let g := s.groupOf w0 pa
  if g.all fun a => s.dramWord a ||| 0x180 == w0 ||| 0x180 && s.dramWord (a + 8) == w1 then pa
  else g.getD (Config.groupPick s.now pa % g.length) pa

/-- A walk from the entry at pa, which stands at level (the root entry at level 4) (R277). -/
def State.walkFrom (s : State) (va : Nat) : Nat → Nat → Walk
  | level, pa =>
    let w0 := s.dramWord pa
    let w1 := s.dramWord (pa + 8)
    if w0.getLsbD 1 then
      let pa := s.groupEntry w0 w1 pa
      let w0 := s.dramWord pa
      let w1 := s.dramWord (pa + 8)
      if leafMalformed w0 w1 level then .malformed
      else if w0.getLsbD 0 then .leaf ⟨w0, w1, pa, leafLog2 w0⟩
      else if w0.getLsbD 48 then .invalid else .absent
    else if nodeMalformed w0 w1 level then .malformed
    else if !w0.getLsbD 0 then (if level = 4 then .noRoot else .absent)
    else match level with
      | 0 => .malformed
      | l + 1 => s.walkFrom va l (bits w0 14 34 * 16384 + 16 * (va / 2 ^ (16 + 10 * l) % 1024))

/-- The root entry of a function (R272). -/
def rootOf (vf : Nat) : Nat := 0x1DFFF00000 + 16 * vf

/-- A walk of function vf's tables. -/
def State.walk (s : State) (vf va : Nat) : Walk := s.walkFrom va 4 (rootOf vf)

/-- Why a leaf refuses: function, cluster mask, permission, in that order (R278). -/
def Leaf.refusal (l : Leaf) (who : Asker) (acc : Acc) : Option (BitVec 4) :=
  if bits l.w0 9 3 != who.vf then some 2
  else if (match who.cluster with
    | some c => !l.w1.getLsbD c
    | none => false) then some 3
  else if !acc.granted (l.w0.getLsbD 4) (l.w0.getLsbD 5) (l.w0.getLsbD 6) then some 1
  else none

/-- Word 0 with A set, and D for a write (R285). -/
def Leaf.marked (l : Leaf) (acc : Acc) : Word :=
  setBit (if acc.writes then setBit l.w0 8 true else l.w0) 7 true

/-- The walker's update of word 0: one compare-and-swap that finds the word it read (R285). -/
def State.markLeaf (s : State) (l : Leaf) (acc : Acc) : State :=
  if l.marked acc = l.w0 then s else s.setBytes (.dram l.pa) (leBytes 8 (l.marked acc).toNat)

/-- The entry that a leaf fills, read at time f (R271, R279). -/
def Leaf.entry (l : Leaf) (acc : Acc) (va f : Nat) : TlbEntry :=
  let w := l.marked acc
  { base := va / 2 ^ l.log2 * 2 ^ l.log2, log2 := l.log2, frame := leafFrame w, r := w.getLsbD 4, w := w.getLsbD 5,
    x := w.getLsbD 6, d := w.getLsbD 8, vf := bits w 9 3, cmask := l.w1.setWidth 16, lease := bits w 12 4,
    filled := f, expiry := f + 2 ^ (bits w 12 4 + 10), inv := w.getLsbD 48 }

/-- The copy of an entry in a core TLB or engine (R279). -/
def TlbEntry.copyFor (e : TlbEntry) (lcap : Nat) : TlbEntry :=
  { e with expiry := Nat.min e.expiry (e.filled + 2 ^ (lcap + 10)) }

/-- The entry hits a request: tag, page, and both replicas below the expiry (R271, R279). -/
def TlbEntry.hits (e : TlbEntry) (vf va t : Nat) : Bool :=
  e.vf == vf && decide (e.base ≤ va) && decide (va < e.base + 2 ^ e.log2) && decide (t < e.expiry)

/-- A hit that needs no fresh walk: permitted, cluster allowed, and D set for a write (R278). -/
def TlbEntry.serves (e : TlbEntry) (who : Asker) (acc : Acc) : Bool :=
  acc.granted e.r e.w e.x && (!acc.writes || e.d)
    && (match who.cluster with
      | some c => e.cmask.getLsbD c
      | none => true)

/-- An entry put into a TLB of a given size: it replaces entries of its page, and the oldest one leaves a full TLB (log 21). -/
def tlbInsert (cap : Nat) (t : List TlbEntry) (e : TlbEntry) : List TlbEntry :=
  let kept := t.filter fun o => !(o.vf == e.vf && o.base == e.base && o.log2 == e.log2)
  (if cap ≤ kept.length then kept.drop 1 else kept) ++ [e]

/-- The outcome of translating one access. -/
inductive Xlate where
  | place (p : Place) (expiry : Nat)
  | absent
  | invalid
  | malformed
  | refused (pkind : BitVec 4)
  /-- the root entry has V = 0: the function has no tables (R272) -/
  | noRoot
  /-- no fill is made while the replica is out of bound (R283) -/
  | skewed
deriving DecidableEq, Repr

/-- The issuing context as an asker. -/
def State.asker (s : State) : Asker :=
  { vf := s.me.vf, cluster := some (clusterOf s.cur.core), lcap := (s.me.sysr 0x111).toNat % 16,
    replica := Nat.max s.now (s.replica s.cur.core) }

/-- No walker of a cluster makes a walk: the replicas of both are out of bound (R283). -/
def Cluster.noWalk (c : Cluster) : Bool := c.skewed && c.skewed2

/-- The walkers that translate for an agent make no walk (R283). -/
def State.noWalk (s : State) (who : Asker) : Bool := match who.cluster with
  | some c => (s.cluster c).noWalk
  | none => false

/-- No fill is made for the issuing core: its replica, or those of both its cluster's walkers, are out of bound (R283). -/
def State.noFill (s : State) : Bool := s.me.skewed || (s.cluster (clusterOf s.cur.core)).noWalk

/-- A translation by walk: the leaf decides (R277, R278); a use fills the second-level TLB of the cluster (R271). -/
def State.xlateWalk (s : State) (who : Asker) (acc : Acc) (va : Nat) : Option TlbEntry × Xlate × State :=
  match s.walk who.vf va with
  | .absent => (none, .absent, s)
  | .invalid => (none, .invalid, s)
  | .noRoot => (none, .noRoot, s)
  | .malformed => (none, .malformed, s)
  | .leaf l =>
    match l.refusal who acc with
    | some k => (none, .refused k, s)
    | none =>
      let e := l.entry acc va s.now
      let s := s.markLeaf l acc
      let s := match who.cluster with
        | some c => s.setCluster c { s.cluster c with tlb := tlbInsert 4096 (s.cluster c).tlb e }
        | none => s
      (some e, .place (placeOf (e.frame + (va - e.base))) (e.copyFor who.lcap).expiry, s)

/-- Translation without a core TLB: the second-level TLB, while the copy that its user would hold has not lapsed (R279), then a
walk. -/
def State.xlateSecond (s : State) (who : Asker) (acc : Acc) (va : Nat) : Option TlbEntry × Xlate × State :=
  let hit := match who.cluster with
    | some c => (s.cluster c).tlb.find? fun e => e.hits who.vf va who.replica && decide (who.replica < (e.copyFor who.lcap).expiry) && e.serves who acc
    | none => none
  match hit with
  | some e => (some e, .place (placeOf (e.frame + (va - e.base))) (e.copyFor who.lcap).expiry, s)
  | none => s.xlateWalk who acc va

/-- The fill of a core TLB from what a translation found (R271, R279). -/
def State.fillCore (s : State) (who : Asker) (acc : Acc) (r : Option TlbEntry × Xlate × State) : Xlate × State :=
  match r with
  | (none, x, t) => (x, t)
  | (some e, x, t) =>
    let e := e.copyFor who.lcap
    (x, if acc = .fetch then t.setCore s.cur.core { t.core s.cur.core with itlb := tlbInsert 64 (t.core s.cur.core).itlb e }
        else t.setCore s.cur.core { t.core s.cur.core with dtlb := tlbInsert 128 (t.core s.cur.core).dtlb e })

/-- Translation of an access of the issuing core through its TLB (R271, R278, R279): what the entry hit does not serve, the leaf
of a fresh walk decides; no fill is made while the core's replica, or its walker's, is out of bound (R283). -/
def State.xlateFor (s : State) (who : Asker) (acc : Acc) (va : Nat) : Xlate × State :=
  let tlb := if acc = .fetch then s.me.itlb else s.me.dtlb
  match tlb.find? fun e => e.hits who.vf va who.replica with
  | some e =>
    if e.serves who acc then (.place (placeOf (e.frame + (va - e.base))) e.expiry, s)
    else if s.noFill then (.skewed, s)
    else s.fillCore who acc (s.xlateWalk who acc va)
  | none => if s.noFill then (.skewed, s) else s.fillCore who acc (s.xlateSecond who acc va)

/-- Translation of an access of the issuing context. -/
def State.xlateCore (s : State) (acc : Acc) (va : Nat) : Xlate × State := s.xlateFor s.asker acc va

/-! ### Segments of reflex cores (R287, R288) -/

/-- A segment's bounds hold an address. -/
def segHolds (base lim : Word) (v : Nat) : Bool :=
  lim.getLsbD 63 && decide (bits base 12 44 * 4096 ≤ v) && decide (v < (bits base 12 44 + bits lim 12 13) * 4096)

/-- The lowest enabled segment of the core that holds v. -/
def CoreSt.segment (c : CoreSt) (v : Nat) : Option Nat :=
  (List.range 8).find? fun n => segHolds (c.sysr (0x180 + n)) (c.sysr (0x188 + n)) v

/-- The cause that R288 gives an access of n bytes, or its place. -/
inductive SegRes where
  | place (p : Place)
  | illegal
  | refused (pkind : BitVec 4)
deriving DecidableEq, Repr

/-- Translation by segments of the issuing core (R288). R288 checks an access against the tagged function of the reflex core and
says neither what it compares nor what a failure raises: local memory of a core whose tag is another function's is refused, as
PROTECTION with PKIND 2 of R335, after the test of the permissions (log 92). -/
def State.segXlate (s : State) (acc : Acc) (v n : Nat) : SegRes :=
  let c := s.me
  match c.segment v with
  | none => .illegal
  | some k =>
    if c.segment (v + n - 1) != some k then .illegal
    else
      let lim := c.sysr (0x188 + k)
      let t := bits lim 25 13 * 4096 + (v - bits (c.sysr (0x180 + k)) 12 44 * 4096)
      let size := if bits lim 61 2 = 0 then 0x1D00000 else 0x18000
      if size < t + n then .illegal
      else if !acc.granted (lim.getLsbD 51) (lim.getLsbD 52) (lim.getLsbD 53) then .refused 4
      else if bits lim 61 2 ≠ 0 ∧ (s.core (bits lim 54 7)).vf ≠ c.vf then .refused 2
      else .place (if bits lim 61 2 = 0 then .sram t else .core (bits lim 54 7) t)

/-! ### Pointers (R15-R17) -/

def ptrK (p : Word) : Nat := bits p 29 5
def ptrRow (p : Word) : Nat := bits p 27 2
def ptrCol (p : Word) : Nat := bits p 23 4
def ptrOff (p : Word) : Nat := bits p 0 23

/-- The increment of R16 by inc bytes over a rectangle. -/
def ptrMove (r : Rect) (p : Word) (inc : Int) : Word :=
  let k : Nat := 2 ^ ptrK p
  let blk := ptrOff p / k
  let lin : Int := ((((blk : Int) * r.h + ((ptrRow p : Int) - r.row)) * r.w + ((ptrCol p : Int) - r.col)) * k
    + (ptrOff p % k : Nat)) + inc
  if lin < 0 ∨ 2 ^ 23 ≤ lin.toNat / (k * r.w * r.h) * k then setBit p 63 true
  else
    let n := lin.toNat
    let within := n % k
    let q := n / k
    let col := r.col + q % r.w
    let q := q / r.w
    let row := r.row + q % r.h
    let blk := q / r.h
    (p.extractLsb' 29 35) ++ BitVec.ofNat 2 row ++ BitVec.ofNat 4 col ++ BitVec.ofNat 23 (blk * k + within)

/-- The pointer names a position over the rectangle: what R108 asks of a pointer before it is moved. -/
def ptrIn (r : Rect) (p : Word) : Bool :=
  bits p 34 30 == 0 && decide (6 ≤ ptrK p) && decide (ptrK p ≤ 22)
    && decide (r.row ≤ ptrRow p) && decide (ptrRow p < r.row + r.h) && decide (r.col ≤ ptrCol p)
    && decide (ptrCol p < r.col + r.w)

/-- Step 1 of R17: the pointer names size bytes of a core of the rectangle. -/
def ptrOk (r : Rect) (p : Word) (size : Nat) : Bool := ptrIn r p && decide (ptrOff p + size ≤ 0x500000)

/-- The domain rectangle of the issuing core (R30). -/
def State.rect (s : State) : Rect := rectOf s.cur.core s.me.lvl

/-! ### Accesses in the order of R121 -/

/-- Where a piece lies: none on an absent page; and the expiry that its request carries. -/
structure Loc where
  item : Item
  place : Option Place
  expiry : Nat
deriving DecidableEq, Repr

/-- The address trap of an item. -/
def Item.trap (i : Item) (code : BitVec 8) (inf : AddrInfo) : Stop := .trap code i.rep { inf with lane := i.lane }.word

/-- The first item that a test finds, as a stop. -/
def firstBad {α : Type} (l : List α) (bad : α → Option Stop) : Except Stop Unit :=
  match l.findSome? bad with
  | some e => .error e
  | none => .ok ()

/-- Translation of every item, in order, with the fills that it makes. -/
def State.xlateAll (s : State) (acc : Acc) : List Item → List (Item × Xlate) × State
  | [] => ([], s)
  | i :: is =>
    let (x, s) := s.xlateCore acc i.va.toNat
    let (xs, s) := s.xlateAll acc is
    ((i, x) :: xs, s)

/-- The decided translations. -/
def locsOf : List (Item × Xlate) → List Loc
  | [] => []
  | (i, .place p e) :: t => ⟨i, some p, e⟩ :: locsOf t
  | (i, _) :: t => ⟨i, none, 0⟩ :: locsOf t

/-- A page that the fault service has declared invalid for this waiter (R286). -/
def State.declaredInvalid (s : State) (i : Item) : Bool := s.my.invalidAt == some (i.va.toNat / 65536 * 65536)

/-- Checks 1, 2, 4, 5 and 6 of R121 for global accesses of a reasoning core; absent pages are left to the caller. The access waits
while the core's replica or that of a home is out of bound (R283). Where several lanes are refused for different reasons, R121 does
not say whether each PKIND is tested over all lanes: the lowest refused lane gives its own first failing one (log 93). -/
def State.checkGlobal (s : State) (acc : Acc) (inf : AddrInfo) (items : List Item) : Except Stop (List Loc × State) := do
  firstBad items fun i => if 2 ^ 56 < i.va.toNat + i.n then some (i.trap cIllegalAddress inf) else none
  firstBad items fun i => if i.al = 0 ∨ i.va.toNat % i.al ≠ 0 then some (i.trap cAlign inf) else none
  let (xs, s') := s.xlateAll acc items
  firstBad xs fun ix => match ix.2 with
    | .refused k => some (ix.1.trap cProtection { inf with pkind := k })
    | _ => none
  firstBad xs fun ix => match ix.2 with
    | .invalid => some (ix.1.trap cLoadFault inf)
    | .noRoot => some (ix.1.trap cLoadFault inf)
    | .malformed => some (ix.1.trap cLoadFault { inf with malformed := true })
    | .absent => if s.declaredInvalid ix.1 then some (ix.1.trap cLoadFault inf) else none
    | _ => none
  firstBad xs fun ix => match ix.2 with
    | .skewed => some (.hold none)
    | .place p _ => if s.homeSkewed p.addr then some (.hold none) else none
    | _ => none
  .ok (locsOf xs, s')

/-- The fills and marks that the translation of an access's items leaves, where its checks come as far (R121, R285). -/
def State.translated (s : State) (acc : Acc) (items : List Item) : State :=
  if items.any fun i => decide (2 ^ 56 < i.va.toNat + i.n) || i.al == 0 || i.va.toNat % i.al != 0 then s
  else (s.xlateAll acc items).2

/-- A body that translates these items first: its stop keeps their fills and marks (R285). -/
def State.keeping {α : Type} (s : State) (sp : Space) (acc : Acc) (items : List Item) (body : Except Stop α) : Except Stop α :=
  match body with
  | .ok v => .ok v
  | .error e => .error (if sp == .glob && !s.reflex then .after acc items e else e)

/-- The same on a reflex core, through its segments: no row may span two of them (R120, R288). -/
def State.checkSegments (s : State) (acc : Acc) (inf : AddrInfo) (items : List Item) : Except Stop (List Loc × State) := do
  firstBad items fun i =>
    if 2 ^ 56 < i.va.toNat + i.n ∨ s.segXlate acc i.va.toNat i.n = .illegal ∨
        s.me.segment i.va.toNat ≠ s.me.segment i.rep.toNat then some (i.trap cIllegalAddress inf) else none
  firstBad items fun i => if i.al = 0 ∨ i.va.toNat % i.al ≠ 0 then some (i.trap cAlign inf) else none
  firstBad items fun i => match s.segXlate acc i.va.toNat i.n with
    | .refused k => some (i.trap cProtection { inf with pkind := k })
    | _ => none
  .ok (items.map fun i => ⟨i, match s.segXlate acc i.va.toNat i.n with
    | .place p => some p
    | _ => none, 0⟩, s)

/-- Core-local accesses (R120). -/
def State.checkLocal (s : State) (inf : AddrInfo) (items : List Item) : Except Stop (List Loc × State) := do
  let inf := { inf with space := 1 }
  firstBad items fun i => if memSize s.cur.core < i.va.toNat + i.n then some (i.trap cIllegalAddress inf) else none
  firstBad items fun i => if i.al = 0 ∨ i.va.toNat % i.al ≠ 0 then some (i.trap cAlign inf) else none
  .ok (items.map fun i => ⟨i, some (.core s.cur.core i.va.toNat), 0⟩, s)

/-- The core that a pointer names; both cores of the issuing pair are the executing core, and the even core of another pair answers
for it (R312). -/
def State.namedCore (s : State) (p : Word) : Nat :=
  let c := coreAt (ptrRow p) (ptrCol p)
  if s.me.pair && c / 2 == s.cur.core / 2 then s.cur.core else s.pairHead c

/-- Distributed accesses: va holds the piece's pointer image (R17, R121); exempt marks AMOF and barrier cells (R121, R222). -/
def State.checkDist (s : State) (inf : AddrInfo) (items : List Item) (exempt : Bool := false) :
    Except Stop (List Loc × State) := do
  let inf := { inf with space := 2 }
  firstBad items fun i => if s.reflex ∨ ¬ ptrOk s.rect i.va i.n then some (i.trap cIllegalAddress inf) else none
  firstBad items fun i => if i.al = 0 ∨ ptrOff i.va % i.al ≠ 0 then some (i.trap cAlign inf) else none
  firstBad items fun i =>
    if !exempt && !s.me.xph && s.namedCore i.va != s.cur.core
    then some (.trap cRemoteInCompute i.va { inf with lane := i.lane }.word) else none
  .ok (items.map fun i => ⟨i, some (.core (s.namedCore i.va) (ptrOff i.va)), 0⟩, s)

/-- Bytes [a, a + n) that a side-log entry holds (R143). -/
def LogEntry.holds (e : LogEntry) (a n : Nat) : Bool :=
  (List.range 128).any fun i => e.mask.getLsbD i && decide (a ≤ e.sector + i) && decide (e.sector + i < a + n)

/-- A located access to bytes that a side-log entry of the core holds waits for its replay (R145). -/
def State.clearOfLog (s : State) (locs : List Loc) : Except Stop Unit :=
  if s.me.slog.any fun e => e.vf == s.me.vf && locs.any fun l => l.place.isSome && e.holds l.item.va.toNat l.item.n
  then .error (.hold none) else .ok ()

/-- The checks of a global access of a reasoning core, and the wait for the side log (R121, R145). -/
def State.checkLogged (s : State) (acc : Acc) (inf : AddrInfo) (items : List Item) : Except Stop (List Loc × State) := do
  let (locs, t) ← s.checkGlobal acc inf items
  t.clearOfLog locs
  .ok (locs, t)

/-- The checks of an access in its space. -/
def State.check (s : State) (sp : Space) (acc : Acc) (inf : AddrInfo) (items : List Item) : Except Stop (List Loc × State) :=
  match sp with
  | .glob => if s.reflex then s.checkSegments acc inf items else s.checkLogged acc inf items
  | .loc => s.checkLocal inf items
  | .dist => s.checkDist inf items

/-- A load, pop or atomic that meets an absent page holds there (R141). -/
def holdIfAbsent (kind : Nat) (locs : List Loc) : Except Stop Unit :=
  firstBad locs fun l => match l.place with
    | none => some (.hold (some (l.item.va.toNat / 65536 * 65536, kind)))
    | some _ => none

/-- Bytes [a, a + n) and [b, b + m) overlap. -/
def overlap (a n b m : Nat) : Bool := decide (a < b + m) && decide (b < a + n)

/-- Bytes that an access in flight touches. -/
def MemOp.size : MemOp → Nat
  | .load _ n _ => n
  | .store n _ => n
  | .amo _ n _ => n

/-- The context of an access in flight. -/
def Flight.owner : Flight → Option (Nat × Nat)
  | .mem c k _ _ _ _ _ _ | .remote c k _ _ _ | .pcieRead c k _ _ _ _ _ _ _ | .amof c k _ _ _ _ _ _ _ _ | .mread c k _ _ _ _
  | .mreadDone c k _ _ _ _ | .bararv c k _ _ => some (c, k)
  | _ => none

/-- The bytes that an access in flight reads or writes at its home. -/
def Flight.touches : Flight → List (Place × Nat)
  | .mem _ _ _ pa _ op _ _ => [(placeOf pa, op.size)]
  | .remote _ _ t off bs => [(.core t off, bs.length)]
  | .amof _ _ t off _ n _ dst dstOff _ => [(.core t off, n), (.core dst dstOff, 16)]
  | .bararv _ _ t off => [(.core t (off + 8), 8)]
  | .pcieRead _ _ _ a _ _ n _ _ => [(placeOf a, n)]
  | .mread c _ _ _ buf len => [(.core c buf, 32 + len)]
  | .mreadDone c _ _ buf bs _ => [(.core c buf, bs.length)]
  | _ => []

/-- An access in flight touches a byte of n bytes from a place on. -/
def Flight.meets (f : Flight) (p : Place) (n : Nat) : Bool := f.touches.any fun e => e.1.meets e.2 p n

/-- The same for a located piece; one on an absent page is compared by its address. -/
def Flight.meetsLoc (f : Flight) (l : Loc) : Bool :=
  (match l.place with
    | some p => f.meets p l.item.n
    | none => false)
  || (match f with
    | .mem _ _ va _ _ op _ _ => overlap va op.size l.item.va.toNat l.item.n && (match l.place with
      | some (.core _ _) => false
      | _ => true)
    | _ => false)

/-- An SPLD or SPST of the issuing context that is in the sum-product engine names some of the piece's bytes (R213). -/
def State.speMeets (s : State) (l : Loc) : Bool :=
  s.me.spe.any fun p => p.ctx == s.cur.ctx && (match p.mem, l.place with
    | some (o, n), some (.core k a) => k == s.cur.core && overlap o n a l.item.n
    | _, _ => false)

/-- The generator behind a vector register, where it is bound. -/
def Ctx.stream (x : Ctx) (r : Nat) : Option Stream :=
  if 28 ≤ r then
    let t := tget {} x.streams (r - 28)
    if t.bound then some t else none
  else none

/-- The address of chunk n (R128). -/
def Stream.chunk (t : Stream) (n : Nat) : Word :=
  t.base + BitVec.ofInt 64 (((if t.wrap = 0 then n else n % t.wrap.toNat) : Nat) * t.stride.toInt)

/-- The 32 words of a chunk as accesses (R125, R249). -/
def chunkItems (a : Word) : List Item := (List.range 32).map fun i => ⟨0, a, a + BitVec.ofNat 64 (4 * i), 4, 4⟩

/-- A word of an append that the geometry unit still owes lies in the piece (R199, R252). -/
def State.wordMeets (s : State) (t : Stream) (w : Item) (l : Loc) : Bool :=
  match l.place with
  | some (.core k a) => t.space != 0 && k == s.cur.core && overlap w.va.toNat 4 a l.item.n
  | some p => t.space == 0 && (overlap w.va.toNat 4 l.item.va.toNat l.item.n || (match (s.xlateCore .store w.va.toNat).1 with
    | .place q _ => q.meets 4 p l.item.n
    | _ => false))
  | none => t.space == 0 && overlap w.va.toNat 4 l.item.va.toNat l.item.n

/-- An append of the issuing context whose value is still to come from the geometry unit writes some of the piece's bytes. -/
def State.appendMeets (s : State) (l : Loc) : Bool :=
  s.me.egu.any fun p => p.ctx == s.cur.ctx && (match s.my.stream p.d with
    | some t => (chunkItems (t.chunk t.wc)).any fun w => s.wordMeets t w l
    | none => false)

/-- Accesses of one context to a common location keep their order (R213, R251, R252): a later one waits for those in flight, in the
sum-product engine and in the geometry unit. -/
def State.clearOf (s : State) (locs : List Loc) : Except Stop Unit :=
  if (s.flight.any fun f => f.owner == some (s.cur.core, s.cur.ctx) && locs.any f.meetsLoc)
      || locs.any s.speMeets || locs.any s.appendMeets
  then .error (.hold none) else .ok ()

/-- STORE of R335 for a place: a sector that is dirty in L2 lies there. -/
def State.storeOf (s : State) : Place → Nat
  | .core _ _ => 0
  | .tbuf _ _ => 0
  | .sram _ => 6
  | .dram a => if tget false s.sectors (a / 128) then 4 else 5
  | .host _ => 5
  | .peer _ => 5

/-- Bytes of places read for registers of one context (unit 0) or per-core state (unit 1); poison is consumed (R342). -/
def State.consume (s : State) (unit : BitVec 4) (locs : List Loc) : Except Stop Unit :=
  firstBad locs fun l => match l.place with
    | none => none
    | some p => if s.poisonedIn p l.item.n then some (.poison (s.storeOf p) (BitVec.ofNat 64 p.addr) unit (match p with
      | .dram _ => some l.item.va
      | _ => none)) else none

/-- The bytes of a located piece. -/
def State.locBytes (s : State) (l : Loc) : List Byte :=
  match l.place with
  | some p => s.bytesAt p l.item.n
  | none => []

/-- A checked read of items: their bytes in order, and the state with the fills. -/
def State.readItems (s : State) (sp : Space) (acc : Acc) (inf : AddrInfo) (kind : Nat) (unit : BitVec 4) (items : List Item) :
    Except Stop (List (List Byte) × State) := s.keeping sp acc items (do
  let (locs, s) ← s.check sp acc inf items
  holdIfAbsent kind locs
  s.clearOf locs
  s.consume unit locs
  .ok (locs.map s.locBytes, s))

end Sys2Proof.Machine
end

