-- ==== Sys2Proof/Machine/Ops.lean ====
section
/-! DEFINITION. The operations that every instruction shares: completing, error records (R345, R346), fault records (R286),
taking a trap (R337, R338) and returning from one, restart points (R117, R340, R341), poison (R342), and the settling of a
body's stop. -/

namespace Sys2Proof.Machine

/-! ### Completing an instruction (R72, R113) -/

/-- The replay state that the current level uses (R116). -/
def Ctx.replay (x : Ctx) : Option Replay := if x.mon then x.replayM else x.replayT

def Ctx.setReplay (x : Ctx) (r : Option Replay) : Ctx :=
  if x.mon then { x with replayM := r } else { x with replayT := r }

/-- Length in words of the instructions captured so far. -/
def Replay.capturedWords (r : Replay) : Nat := (r.words.map List.length).sum

/-- Moving on after captured instruction i of pass p: the next instruction, the next pass, or the address after the block. -/
def Ctx.next (x : Ctx) (len : Nat) : Ctx :=
  let pc := x.pc + BitVec.ofNat 64 (4 * len)
  match x.replay with
  | none => { x with pc := pc }
  | some r =>
    if r.i + 1 < r.n then { x with pc := pc }.setReplay (some { r with i := r.i + 1 })
    else if r.p + 1 < r.count then { x with pc := r.start }.setReplay (some { r with i := 0, p := r.p + 1 })
    else { x with pc := pc }.setReplay none

/-- The context goes on: awake, with no hold, and past any return to its restart point (R340). -/
def Ctx.awake (x : Ctx) : Ctx :=
  { x with run := .running, holdPage := none, invalidAt := none, place := none, restart := { x.restart with fresh := false } }

/-- The instruction of len words is complete. -/
def State.advance (s : State) (len : Nat) : State := s.setMy (s.my.awake.next len)

/-- The instruction is complete and continues at a target (R110, R111). -/
def State.jump (s : State) (t : Word) : State := s.setMy { s.my.awake with pc := t }

/-- The target checks of R83: bits [63:56] are zero, and the address is a multiple of 4. -/
def targetStop (t : Word) : Option Stop :=
  if bits t 56 8 ≠ 0 then some (.trap cIllegalAddress t 0)
  else if bits t 0 2 ≠ 0 then some (.trap cAlign t 0)
  else none

/-- STATUS as a program reads it (R28): the stored bits and those of the position and the core. -/
def State.status (s : State) : Word :=
  let v := s.my.sysr 0x100
  let v := setBit (setBit v 6 s.me.xph) 7 s.me.pair
  if s.reflex then v ||| BitVec.ofNat 64 (s.cur.ctx % 4 * 4096) else setBit v 8 (s.cur.ctx != 0)

/-- STATUS.REG (R28). -/
def Ctx.setReg (x : Ctx) (b : Bool) : Ctx := x.setSysr 0x100 (setBit (x.sysr 0x100) 5 b)

/-! ### Events that wake (R241) -/

/-- The event bit of every context of a core is set. -/
def State.wake (s : State) (core : Nat) : State :=
  (List.range (Config.numContexts core)).foldl (fun s k => s.setCtxAt core k { s.ctxAt core k with event := true }) s

/-- A Q0 event: into the port, or held behind it in posting order (R25). -/
def State.postQ0 (s : State) (core : Nat) (e : Word × Word) : State :=
  let c := s.core core
  if c.q0.length < 64 && c.q0Held.isEmpty then (s.setCore core { c with q0 := c.q0 ++ [e] }).wake core
  else s.setCore core { c with q0Held := c.q0Held ++ [e] }

/-! ### Error records (R345, R346) -/

/-- An error record's fields (R345). -/
structure ErrRec where
  addr : Word := 0
  taskid : Nat := 0
  core : Option Nat := none
  ctx : Nat := 0
  vf : Option Nat := none
  cls : Nat
  engid : Nat := 0
  cause : Nat := 0
  sev : Nat
  detail : Word := 0
  epc : Word := 0
  paddr : Word := 0
deriving DecidableEq, Repr

/-- The 64 bytes of a record (R345). -/
def ErrRec.bytes (r : ErrRec) (time seq : Nat) : List Byte :=
  leBytes 8 time ++ leBytes 8 r.addr.toNat ++ leBytes 4 r.taskid ++
    [BitVec.ofNat 8 (r.core.getD 0xFF), BitVec.ofNat 8 r.ctx, BitVec.ofNat 8 (r.vf.getD 0xFF), BitVec.ofNat 8 r.cls] ++
    leBytes 2 r.engid ++ [BitVec.ofNat 8 r.cause, BitVec.ofNat 8 r.sev] ++ leBytes 4 1 ++
    leBytes 8 r.detail.toNat ++ leBytes 8 r.epc.toNat ++ leBytes 8 r.paddr.toNat ++ leBytes 8 seq

def logHeader : Nat := 0x1DFFF7FFC0
def logRing : Nat := 0x1DFFF80000

/-- Adding one to a doubleword of the log's header. -/
def State.logCount (s : State) (k : Nat) : State :=
  s.setBytes (.dram (logHeader + 8 * k)) (leBytes 8 (s.numAt (.dram (logHeader + 8 * k)) 8 + 1))

/-- Q2 of the named core takes the record, or Q2LOST rises (R25, R346). -/
def State.postQ2 (s : State) (core : Nat) (b : List Byte) : State :=
  let c := s.core core
  if c.q2.length < 16 then s.setCore core { c with q2 := c.q2 ++ [BitVec.ofNat 512 (leNat b)] } else s.logCount 3

/-- Posting a record: merged into the first of its kind within 1 ms, while the log holds that one, or entered in the log and in Q2;
a full log drops it (R346). -/
def State.report (s : State) (r : ErrRec) : State :=
  let core := r.core.getD 0xFF
  let mergeable := decide (r.sev ≤ 1) && r.cause == 0
  let written := s.numAt (.dram logHeader) 8
  let live := s.merges.filter fun m => decide (s.now ≤ m.time + 1000000) && decide (written ≤ m.seq + 4096)
  match (if mergeable then live.find? fun m => m.cls == r.cls && m.engid == r.engid && m.core == core else none) with
  | some m =>
    let at28 := Place.dram (logRing + 64 * (m.seq % 4096) + 28)
    s.setBytes at28 (leBytes 4 (s.numAt at28 4 + 1))
  | none =>
    let full := decide (s.numAt (.dram (logHeader + 8)) 8 + 4096 ≤ written)
    let b := r.bytes s.now written
    let s := { s with merges := live ++ (if mergeable && !full then [({ cls := r.cls, engid := r.engid, core := core, time := s.now, seq := written } : Merge)] else []) }
    let s := if full then s.logCount 2
      else (s.setBytes (.dram (logRing + 64 * (written % 4096))) b).logCount 0
    match r.core with
    | some c => s.postQ2 c b
    | none => s

/-- The fields that name a context (R345): core, context, function and task. -/
def State.recFor (s : State) (cls sev : Nat) : ErrRec :=
  { cls := cls, sev := sev, core := some s.cur.core, ctx := s.cur.ctx, vf := some s.me.vf,
    taskid := (s.me.sysr 0x001).toNat, engid := s.cur.core }

/-! ### Fault records (R286) -/

/-- Posting a record for an absent page: merged into an outstanding one, or entered in the cluster's 32, or not yet. -/
def State.postFault (s : State) (core vf page kind src : Nat) : State :=
  if (List.range 16).any fun k => (s.cluster k).faults.any fun f => f.vf == vf && f.va == page then s
  else
    let k := clusterOf core
    let c := s.cluster k
    if 32 ≤ c.faults.length then s
    else
      let r : FaultRec := { va := page, vf := vf, kind := kind, core := core, src := src, time := s.now,
                            token := Config.tokenOf s.tokens }
      let s := { s.setCluster k { c with faults := c.faults ++ [r] } with tokens := s.tokens + 1 }
      if ((s.core core).sysr 0x112).getLsbD 0 then
        let q : QueueBlock := tget {} s.queues vf
        { s with queues := tput s.queues vf { q with faultsWaiting := q.faultsWaiting ++ [r] } }
      else s

/-! ### Sequentially consistent operations in S (R257-R259) -/

/-- Operations of the issuing context that its next issue would have performed leave S: they are announced afresh (R258). -/
def State.unannounce (s : State) : State :=
  { s with sc := s.sc.filter fun o => !(o.core == s.cur.core && o.ctx == s.cur.ctx && o.act == .issue) }

/-- Operations of the contexts k of a core that have not been sent leave S (R258); a store that stands in the side log stays there, as
one that has no place in S (R143, R341). -/
def State.dropSc (s : State) (core : Nat) (k : Nat → Bool) : State :=
  let s := { s with sc := s.sc.filter fun o => !(o.core == core && k o.ctx && !o.sent) }
  if (s.core core).slog.any fun e => e.sc && k e.ctx then
    s.setCore core { s.core core with slog := (s.core core).slog.map fun e => if k e.ctx then { e with sc := false } else e }
  else s

/-- An SC operation of the issuing context takes its place in S, or, where it has one, learns what it does (R257). -/
def State.newSc (s : State) (act : ScAct) : State :=
  let core := s.cur.core
  let mine (o : ScOp) : Bool := o.core == core && o.ctx == s.cur.ctx
  if s.sc.any mine then { s with sc := s.sc.map fun o => if mine o then { o with act := act, ready := false } else o }
  else { s with sc := s.sc ++ [{ window := s.replica core / 16, core := core, pos := s.scPos, ctx := s.cur.ctx, act := act,
                                 vf := s.me.vf }],
                scPos := s.scPos + 1 }

/-- The announcement of an operation that waits, not held, for its completion (R257): none while the replica is out of bound (R261). -/
def State.announce (s : State) : State :=
  if s.me.skewed || s.sc.any (fun o => o.core == s.cur.core && o.ctx == s.cur.ctx) then s else s.newSc .issue

/-- Logged stores whose entry has left the log leave S; their contexts go on (R259). -/
def State.sweepSc (s : State) : State :=
  { s with sc := s.sc.filter fun o => o.act != .logged || (s.core o.core).slog.any fun e => e.sc && e.ctx == o.ctx }

/-- The context holds at its instruction, as a waiter of an absent page where one is named (R141, R286): an instruction that so holds
has no place in S (R257). -/
def State.holdOn (s : State) (absent : Option (Nat × Nat)) : State :=
  let s := s.setMy { s.my with run := .holding, holdPage := absent }
  match absent with
  | some (page, kind) => s.unannounce.postFault s.cur.core s.me.vf page kind s.cur.ctx
  | none => s

/-! ### The side log (R143) -/

/-- The bytes of a piece placed in its 128-byte sector. -/
def logEntryOf (va : Nat) (bytes : List Byte) (op : LogOp) (vf ctx : Nat) (gen : Option Nat := none) : LogEntry :=
  { gen := gen, sector := va / 128 * 128, data := BitVec.ofNat 1024 (leNat bytes * 2 ^ (8 * (va % 128))),
    mask := BitVec.ofNat 128 ((2 ^ bytes.length - 1) * 2 ^ (va % 128)), op := op, vf := vf, ctx := ctx }

/-- Two write entries of one instruction on one sector become one (R126). -/
def mergeEntry (a b : LogEntry) : LogEntry :=
  { a with
    data := BitVec.ofNat 1024 (leNat ((List.range 128).map fun i =>
      if b.mask.getLsbD i then b.data.extractLsb' (8 * i) 8 else a.data.extractLsb' (8 * i) 8)),
    mask := a.mask ||| b.mask }

/-- The entries of one instruction, one per sector touched, in order of first touch. -/
def addEntry (l : List LogEntry) (e : LogEntry) : List LogEntry :=
  match l with
  | [] => [e]
  | a :: t => if a.sector = e.sector then mergeEntry a e :: t else a :: addEntry t e

/-- The write entries of the pieces that lie on absent pages. -/
def logWrites (vf ctx : Nat) (gen : Option Nat := none) (op : LogOp := .write) : List (Loc × List Byte) → List LogEntry
  | [] => []
  | w => (w.filter fun x => x.1.place.isNone).foldl
      (fun l x => addEntry l (logEntryOf x.1.item.va.toNat x.2 op vf ctx gen)) []

/-- Entries enter the log, or the context holds when they do not fit (R143); each absent page is recorded (R286). More entries
than the log has hold on their first page, so that they come to fit as pages are mapped (log 80). -/
def State.enterLog (s : State) (es : List LogEntry) : Except Stop State :=
  if es.isEmpty then .ok s
  else if 64 < es.length then .error (.hold (es.head?.map fun e => (e.sector / 65536 * 65536, 1)))
  else if 64 < s.me.slog.length + es.length then .error (.hold none)
  else .ok (es.foldl (fun s e => s.postFault s.cur.core e.vf (e.sector / 65536 * 65536) 1 s.cur.ctx)
    (s.setMe { s.me with slog := s.me.slog ++ es }))

/-- Bytes that the issuing context writes at a place: another core's memory is that of both cores of a pair (R312). -/
def State.putLoc (s : State) (p : Place) (bs : List Byte) : State :=
  match p with
  | .core n o => if n = s.cur.core then s.setBytes (.core n o) bs else s.putCore n o bs
  | p => s.setBytes p bs

/-- The bytes of located pieces written, in order: absent ones are skipped. -/
def State.writeLocs (s : State) : List (Loc × List Byte) → State
  | [] => s
  | (l, bs) :: t => (match l.place with
    | some p => s.putLoc p bs
    | none => s).writeLocs t

/-- The request of a located global access (R31, R279). -/
def State.request (s : State) (l : Loc) (op : MemOp) : Option Flight :=
  l.place.map fun p => .mem s.cur.core s.cur.ctx l.item.va.toNat p.addr l.expiry op .travelling
    { vf := s.me.vf, pc := s.my.pc, replay := s.my.replay }

/-- Things put into flight. -/
def State.fly (s : State) (l : List Flight) : State := { s with flight := s.flight ++ l }

/-- The bytes of a piece in words from an address on, in at most n steps (R249). -/
def wordsOf (va : Word) : Nat → List Byte → List (Word × List Byte)
  | 0, _ => []
  | _ + 1, [] => []
  | n + 1, bs => (va, bs.take 4) :: wordsOf (va + 4) n (bs.drop 4)

/-- The requests of a located piece of a relaxed access, one for each word: independent accesses (R249). -/
def State.wordRequests (s : State) (l : Loc) (op : Nat → Nat → MemOp) (bs : List Byte) : List Flight :=
  (wordsOf l.item.va bs.length bs).filterMap fun w =>
    s.request { l with item := { l.item with va := w.1 }, place := l.place.map fun p => p.plus (w.1 - l.item.va).toNat }
      (op w.2.length (leNat w.2))

/-- A place of global memory, whose accesses travel to a home slice or to the host (R267). -/
def Place.travels : Place → Bool
  | .dram _ | .host _ | .peer _ => true
  | .core _ _ | .sram _ | .tbuf _ _ => false

/-- Located writes that are not performed at issue: those to global memory set out, word by word (log 26). -/
def State.flyLocs (s : State) : List (Loc × List Byte) → State
  | [] => s
  | (l, bs) :: t => (match l.place with
    | some p => if p.travels then s.fly (s.wordRequests l (fun n v => .store n (BitVec.ofNat 64 v)) bs) else s.setBytes p bs
    | none => s).flyLocs t

/-- Located writes of the issuing context, after its earlier accesses to the same bytes (R251): mapped pieces are performed or
set out, the others enter the log (R126, R143). An append comes after the generator's logged ones (R130); a CZERO is performed at
issue where it is not logged (log 26). -/
def State.storeLocs (s : State) (ws : List (Loc × List Byte)) (gen : Option Nat := none) (op : LogOp := .write) :
    Except Stop State := do
  s.clearOf (ws.map (·.1))
  if gen.isSome && (s.me.slog.any fun e => e.ctx == s.cur.ctx && e.gen == gen) && (ws.any fun w => w.1.place.isSome)
  then .error (.hold none)
  else do
    let s ← s.enterLog (logWrites s.me.vf s.cur.ctx gen op ws)
    .ok (if s.eager || gen.isSome || op != .write || s.reflex then s.writeLocs ws else s.flyLocs ws)

/-- A checked write: every item has its bytes. -/
def State.writeItems (s : State) (sp : Space) (inf : AddrInfo) (items : List (Item × List Byte)) (gen : Option Nat := none) :
    Except Stop State := s.keeping sp .store (items.map (·.1)) (do
  let (locs, s) ← s.check sp .store { inf with write := true } (items.map (·.1))
  s.storeLocs (locs.zip (items.map (·.2))) gen)

/-! ### Taking a trap (R337, R338) -/

/-- What the read of a dispatch entry gives (R338). -/
inductive DispatchRead where
  | value (v : Word)
  | fails
  /-- it waits for an absent page, or for the core's replica to be within bound again (R141, R283) -/
  | holds (absent : Option (Nat × Nat))
deriving DecidableEq, Repr

/-- Reading a doubleword for the dispatch at monitor level (R338), with the walk's effects: it faults or holds as a load does. -/
def State.dispatchRead (s : State) (va : Nat) : DispatchRead × State :=
  let item : Item := ⟨0, BitVec.ofNat 64 va, BitVec.ofNat 64 va, 8, 8⟩
  match (if s.reflex then s.checkSegments .load {} [item] else s.checkGlobal .load {} [item]) with
  | .ok ([l], t) => (match l.place with
    | some p => .value (BitVec.ofNat 64 (s.numAt p 8))
    | none => .holds (some (va / 65536 * 65536, 0)), t)
  | .error (.hold a) => (.holds a, s)
  | _ => (.fails, s)

/-- EMUBASE's table address (R35). -/
def State.emubase (s : State) : Nat := (s.me.sysr 0x110).toNat

/-- The addresses of the vectors that R338 tries, in its order; the last one decides. -/
def State.vectors (s : State) (t : Trap) : List Nat :=
  let emu := !(s.me.sysr 0x112).getLsbD 1
  let yil := t.einfo.getLsbD 9
  let base := s.emubase
  let major := bits t.eword 24 6
  (if emu && t.code == cFeatureAbsent && !yil then [base + 768 + 8 * bits t.einfo 0 9] else [])
    ++ (if emu && ((t.code == cFeatureAbsent && yil) || t.code == cIllegalOpcode || t.code == cReservedField)
        then [base + 256 + 8 * major] else [])
    ++ [base + 8 * t.code.toNat]

/-- The entry chosen: its address, what its read gives, whether an emulation vector gave it, and the state. -/
def State.dispatch (s : State) : List Nat → Nat × DispatchRead × Bool × State
  | [] => (0, .fails, false, s)
  | [a] => let (v, t) := s.dispatchRead a; (a, v, false, t)
  | a :: as => match s.dispatchRead a with
    | (.value v, t) => if v = 0 then t.dispatch as else (a, .value v, true, t)
    | (r, t) => (a, r, true, t)

/-- Whether a trap record of class 0x12 is made (R346). -/
def Trap.recorded (t : Trap) (emulated : Bool) : Bool :=
  !emulated && !(t.code == cBreakpoint || t.code == cSwtrap || t.code == cPipelineError || t.code == cUncorrectable
    || t.code == cClockSkew || t.code == cWatchdog)

/-- The trap state of R337 written: cause, addresses, PMON := MON, MON := 1; a monitor-level replay is abandoned (R116). -/
def Ctx.enter (x : Ctx) (t : Trap) : Ctx :=
  let x := if x.mon then { x with replayM := none } else x
  let st := x.sysr 0x100
  ((((((x.setSysr 0x101 (BitVec.ofNat 64 ((if t.async then 256 else 0) + t.code.toNat))).setSysr 0x102 t.epc).setSysr
    0x103 t.eaddr).setSysr 0x104 t.einfo).setSysr 0x105 t.eword).setSysr 0x100
      (setBit (setBit st 1 (st.getLsbD 0)) 0 true))

/-- The delivery of a trap whose trap state is written (R338): the handler's address; the context waits where the read of the
entry holds, and stops, with a record of class 0x10, where it cannot be read, is 0 or fails R83. -/
def State.deliverTrap (s : State) (t : Trap) : State :=
  let (a, r, emulated, s) := s.dispatch (s.vectors t)
  let failed := { s.recFor 0x10 2 with cause := t.code.toNat, epc := t.epc, addr := BitVec.ofNat 64 a, detail := t.einfo }
  match r with
  | .fails => (s.setMy { s.my with run := .stopped, dispatching := none }).report failed
  | .holds absent => (s.setMy { s.my with dispatching := some t }).holdOn absent
  | .value v =>
    let s := s.setMy { s.my with run := .running, holdPage := none, invalidAt := none, dispatching := none }
    if v = 0 ∨ (targetStop v).isSome then (s.setMy { s.my with run := .stopped }).report failed
    else
      let s := s.setMy { s.my with pc := v }
      if t.recorded emulated then
        s.report { s.recFor 0x12 1 with cause := t.code.toNat, epc := t.epc, addr := t.eaddr, detail := t.einfo }
      else s

/-- Taking a trap on the issuing context (R337): the trap state, then the handler's address; after an asynchronous cause the
others stay pending until ERET. -/
def State.takeTrap (s : State) (t : Trap) : State :=
  (s.unannounce.setMy ({ s.my with run := .running, holdPage := none, invalidAt := none, place := none, dispatching := none,
                                   asyncHeld := s.my.asyncHeld || t.async }.enter t)).deliverTrap t

/-- A synchronous trap of the instruction at pc. -/
def State.trapAt (s : State) (code : BitVec 8) (eaddr einfo : Word) : State :=
  s.takeTrap { code := code, epc := s.my.pc, eaddr := eaddr, einfo := einfo, eword := s.cur.eword }

/-- The address of captured instruction j. -/
def Replay.addr (r : Replay) (j : Nat) : Word := r.start + BitVec.ofNat 64 (4 * ((r.words.take j).map List.length).sum)

/-- How a held task-level replay goes on when ERET returns to t (R116). -/
def Replay.resume (r : Replay) (t : Word) : Option Replay × Word :=
  match (List.range r.n).find? fun j => decide (j ≤ r.words.length) && r.addr j == t with
  | some j => (some { r with i := j }, t)
  | none =>
    if decide (r.words.length = r.n) && r.addr r.n == t then
      if r.p + 1 < r.count then (some { r with i := 0, p := r.p + 1 }, r.start) else (none, t)
    else (none, t)

/-- The return from a trap (R243): MON := PMON, pc := EPC, and the replay by R116. -/
def Ctx.leave (x : Ctx) : Ctx :=
  let epc := x.sysr 0x102
  let st := x.sysr 0x100
  let x := { x.setSysr 0x100 (setBit st 0 (st.getLsbD 1)) with pc := epc, run := .running, asyncHeld := false }
  if x.mon then x
  else match x.replayT with
    | none => x
    | some r => { x with replayT := (r.resume epc).1, pc := (r.resume epc).2 }

/-! ### Restart points (R34, R117, R340, R341) -/

/-- Generators with nothing read ahead (R130). -/
def dropAhead (t : Tab Stream) : Tab Stream := t.map fun e => (e.1, { e.2 with ahead := [] })

/-- The restart point recorded at pc with the registers, generators and replay state as they stand (R117, R131). -/
def Ctx.record (x : Ctx) (pc : Word) (ckpt : Bool) (returns : Nat) : Ctx :=
  { x.setSysr 0x030 pc with
    restart := { g := x.g, p := x.p, v := x.v, a := x.a, streams := dropAhead x.streams, replay := x.replay, ckpt := ckpt,
                 returns := returns },
    passed := [] }

/-- The G register that a load in flight owes a context (R250). -/
def Flight.loadFor (core ctx : Nat) : Flight → Option Nat
  | .mem c k _ _ _ (.load d _ _) _ _ => if c = core ∧ k = ctx then some d else none
  | .pcieRead c k _ _ _ d _ _ _ => if c = core ∧ k = ctx then some d else none
  | _ => none

/-- The restart point knows the loads before it that are still in flight: their results belong to it. -/
def State.owing (s : State) : State :=
  let x := s.my
  s.setMy { x with restart := { x.restart with owed := s.flight.filterMap (Flight.loadFor s.cur.core s.cur.ctx) } }

/-- A result reaches G d of a context: into the recorded registers too where its instruction lies before the restart point. -/
def State.deliver (s : State) (core ctx d : Nat) (v : Word) (closing : Bool) : State :=
  let x := s.ctxAt core ctx
  let r := x.restart
  let r := if d ≠ 0 ∧ (closing ∨ r.owed.contains d) then { r with g := tset 0 r.g d v, owed := r.owed.filter (· != d) } else r
  s.setCtxAt core ctx { x.setG d v with restart := r }

/-- Things in flight that a return to the restart point gives up: loads and Mirror reads issued after it (R341). -/
def Flight.abandoned (core ctx : Nat) (owed : List Nat) : Flight → Bool
  | .mem c k _ _ _ (.load d _ _) _ _ | .pcieRead c k _ _ _ d _ _ _ => c == core && k == ctx && !owed.contains d
  | .mread c k _ _ _ _ | .mreadDone c k _ _ _ _ => c == core && k == ctx
  | _ => false

/-- The send of a region-closing instruction: complete, with the restart point after it (R217); the region is closed (log 22). -/
def State.sent (s : State) (len : Nat) : State :=
  let s := s.advance len
  (s.setMy ((s.my.record s.my.pc false 0).setReg false)).owing

/-- The layout of the checkpoint area after its header: register class and number with its length (R236). -/
def ckptLayout (gm am pm vm tm : Nat) : List (Nat × Nat × Nat) :=
  ((List.range 32).filter fun i => i != 0 && Nat.testBit gm i).map (fun i => (0, i, 8))
    ++ ((List.range 8).filter fun i => Nat.testBit am i).map (fun i => (1, i, 8))
    ++ ((List.range 8).filter fun i => i != 0 && Nat.testBit pm i).map (fun i => (2, i, 16))
    ++ ((List.range 32).filter fun i => Nat.testBit vm i).map (fun i => (3, i, 128))
    ++ ((List.range 8).filter fun i => Nat.testBit tm i).flatMap (fun i => [(4, i, 8), (5, i, 4096)])

/-- The entries of a layout with their offsets. -/
def placeLayout (off : Nat) : List (Nat × Nat × Nat) → List (Nat × Nat × Nat × Nat)
  | [] => []
  | (c, i, n) :: t => (c, i, n, off) :: placeLayout (off + n) t

/-- The layout that a header's masks give. -/
def ckptEntries (w0 w1 : Word) : List (Nat × Nat × Nat) :=
  ckptLayout (bits w0 0 32) (bits w0 40 8) (bits w0 48 8) (bits w1 0 32) (bits w0 56 8)

/-- Reloading one entry of the checkpoint area (R236). -/
def State.ckptLoad (s : State) (e : Nat × Nat × Nat × Nat) : State :=
  let (c, i, n, off) := e
  let v := s.numAt (.core s.cur.core off) n
  match c with
  | 0 => s.setMy (s.my.setG i (BitVec.ofNat 64 v))
  | 1 => s.setMy (s.my.setA i (BitVec.ofNat 64 v))
  | 2 => s.setMy (s.my.setP i (BitVec.ofNat 128 v))
  | 3 => s.setMy (s.my.setV i (BitVec.ofNat 1024 v))
  | 4 => s.setMe (s.me.setSysr (0x020 + i) (BitVec.ofNat 64 v))
  | _ => s.setMe (s.me.setTile i (BitVec.ofNat 32768 v))

/-- The checkpoint area's offset (R34). -/
def CoreSt.ckptBase (c : CoreSt) : Nat := bits (c.sysr 0x031) 6 17 * 64

/-- Reloading the named state from the checkpoint area (R236, R310). -/
def State.ckptReload (s : State) : State :=
  let base := s.me.ckptBase
  let w0 := BitVec.ofNat 64 (s.numAt (.core s.cur.core base) 8)
  let w1 := BitVec.ofNat 64 (s.numAt (.core s.cur.core (base + 8)) 8)
  (placeLayout (base + 64) (ckptEntries w0 w1)).foldl State.ckptLoad s

/-- Bar passes made since the restart point are owed no second arrival (R220, R341, log 23). -/
def mergeCredits (credit passed : Tab Nat) : Tab Nat :=
  (List.range 4).foldl (fun t l => tset 0 t l (tget 0 t l + tget 0 passed l)) credit

/-- The recorded registers of the issuing context restored (R117, R341); what it had issued since is given up, and a sent operation
in S is not (R134). A bank that is not released stays asleep until its release (R314, R318). -/
def State.restorePoint (s : State) : State :=
  let x := s.my
  let r := x.restart
  let pc := x.sysr 0x030
  let x := { x with g := r.g, p := r.p, v := r.v, a := r.a, streams := r.streams, pc := pc,
                    run := if x.run = Run.released ∨ (s.reflex = true ∧ x.isReleased = false) then .released else .running,
                    holdPage := none, invalidAt := none, dispatching := none, credit := mergeCredits x.credit x.passed, passed := [] }
  let x := match r.replay with
    | none => x.setReplay none
    | some q => { x with pc := (q.resume pc).2 }.setReplay (q.resume pc).1
  let s := (s.setMy x).dropSc s.cur.core (· == s.cur.ctx)
  let s := s.setMe { s.me with egu := s.me.egu.filter fun e => e.ctx != s.cur.ctx }
  { s with flight := s.flight.filter fun f => !f.abandoned s.cur.core s.cur.ctx r.owed }

/-- The restart point restored whole: marked "checkpoint", it reloads the checkpoint area (R236, R310). -/
def State.restore (s : State) : State :=
  let t := s.restorePoint
  if s.my.restart.ckpt then t.ckptReload else t

/-- An asynchronous cause of a context that has gone back to its restart point, taken there at once (R334, R340, R342): it stands before
whatever its last trap interrupted, so nothing is kept pending (log 96). -/
def State.failAt (s : State) (code : BitVec 8) (eaddr einfo : Word) : State :=
  s.takeTrap { async := true, code := code, epc := s.my.sysr 0x030, eaddr := eaddr, eword := 0, einfo := einfo }

/-- EINFO of the checker group (R335). -/
def checkerInfo (engid store unit count : Nat) : Word :=
  BitVec.ofNat 64 (engid * 2 ^ 48 + store * 2 ^ 44 + unit * 2 ^ 40 + count * 2 ^ 32)

/-- The count of returns of the issuing context's restart point rises by one (R340). -/
def State.countReturn (s : State) (poisoned : Bool) : State :=
  let r := s.my.restart
  s.setMy { s.my with restart := { r with returns := r.returns + 1, fresh := true, poisoned := r.poisoned || poisoned } }

/-- A return of the issuing context to its restart point: at most three with the count unchanged; the fourth failure
delivers PIPELINE_ERROR there (R340). -/
def State.goBack (s : State) (unit : BitVec 4) (engid : Nat) : State :=
  let s := s.restore.countReturn false
  let n := s.my.restart.returns
  if n < 4 then s else s.failAt cPipelineError 0 (checkerInfo engid 0 unit.toNat n)

/-- Contexts of a core that are running a program. -/
def CoreSt.live (c : CoreSt) (core : Nat) : List Nat :=
  (List.range (Config.numContexts core)).filter fun k => (c.ctx k).run != .free && (c.ctx k).run != .stopped

/-- The kind of the unit that consumes poison (R345, log 59): the vector unit for a shared latch, the matrix unit for cells and tiles,
the SPE for scratch registers, the core's pipeline else. -/
def consumer (unit : BitVec 4) (store : Nat) : Nat :=
  if unit = 2 then 2 else if store = 1 ∨ store = 2 then 1 else if store = 3 then 4 else 0

/-- Poison consumed by a unit of contexts (R342): the record, with the cause of the traps that follow (R346), then each context's
return, or UNCORRECTABLE where one has consumed poison since its restart point, and PIPELINE_ERROR where its fourth failure is a
first consumption (R340). -/
def State.consumePoison (s : State) (store : Nat) (addr : Word) (unit : BitVec 4) (ks : List Nat) (va : Option Word := none) : State :=
  let core := s.cur.core
  let k0 := s.cur.ctx
  let again := ks.any fun k => (s.ctxAt core k).restart.poisoned
  let engid := consumer unit store * 4096 + core
  let info (n : Nat) : Word := checkerInfo engid store unit.toNat n
  let fourth := ks.any fun k => decide (3 ≤ (s.ctxAt core k).restart.returns)
  let s := s.report { s.recFor (if store = 5 then 0x04 else 0x02) 1 with
    addr := va.getD addr, paddr := if store = 4 ∨ store = 5 then addr else 0, detail := info (s.my.restart.returns + 1), engid := engid,
    cause := if again then cUncorrectable.toNat else if fourth then cPipelineError.toNat else 0, epc := s.my.sysr 0x030 }
  let s := ks.foldl (fun s k =>
    let s := (s.at core k).restore.countReturn true
    let n := s.my.restart.returns
    if again then s.failAt cUncorrectable addr (info n)
    else if n < 4 then s else s.failAt cPipelineError 0 (info n)) s
  s.at core k0

/-- The contexts that consumption by a unit returns (R342): the issuing one, or every one of the core. -/
def State.unitOf (s : State) (unit : BitVec 4) : List Nat := if unit = 0 then [s.cur.ctx] else s.me.live s.cur.core

/-! ### Settling a body -/

/-- A sent operation takes its place in S (R134, R257): its instruction is over, with the restart point after it, and its context waits
for its completion (R259). -/
def State.sendSc (s : State) (act : ScAct) (len : Nat) : State := ((s.newSc act).sent len).holdOn none

/-- What a stop makes of the state before the instruction. -/
def State.stopped (s : State) : Stop → State
  | .trap code eaddr einfo => s.trapAt code eaddr einfo
  | .hold absent => s.holdOn absent
  | .order => s.announce.holdOn none
  | .sleep => s.setMy { s.my with run := .sleeping }
  | .poison store addr unit va => s.consumePoison store addr unit (s.unitOf unit) va
  | .after acc items e => (s.translated acc items).stopped e

/-- The state after a body: its own, or what its stop makes of the state before it. -/
def State.settle (s : State) : Except Stop State → State
  | .ok t => t
  | .error e => s.stopped e

/-- An instruction's outcome from its body. -/
def State.run (s : State) (body : Except Stop State) : Host.Outcome State Fault Refusal := .next (s.settle body)

/-- The same under a guard: a false guard only completes the instruction (R75). -/
def State.guarded (s : State) (g : Reg3) (len : Nat) (body : Except Stop State) : Host.Outcome State Fault Refusal :=
  if s.guardOn g then s.run body else .next (s.advance len)

/-- An instruction that always completes with its new state (a total effect). -/
def State.done (s : State) (g : Reg3) (len : Nat) (t : State) : Host.Outcome State Fault Refusal :=
  s.guarded g len (.ok (t.advance len))

/-- A device event's outcome: it is performed where it is enabled, and changes nothing otherwise. -/
def State.event (s : State) (enabled : Bool) (t : State) : Host.Outcome State Fault Refusal :=
  .next (if enabled then t else s)

/-- Words of an instruction with a register or literal operand (R71). -/
def srcWords : Src → Nat
  | .reg _ => 1
  | .lit _ => 3

/-- Words of an instruction with an immediate or literal (R71). -/
def immWords {n : Nat} : Imm n → Nat
  | .short _ => 1
  | .lit _ => 3

/-- Words of an optional literal. -/
def litWords : Option Word → Nat
  | none => 0
  | some _ => 2

/-- Words of optional extension words. -/
def extWords {α : Type} : Option α → Nat
  | none => 0
  | some _ => 2

end Sys2Proof.Machine
end

