-- ==== Sys2Proof/Machine/Operands.lean ====
section
/-! DEFINITION. The operand forms of memory instructions (R94, R120), the orders of accesses (R122, R139, R253), sequentially
consistent operations (R257-R259), and vector operands with their streams (R14, R129, R130). -/

namespace Sys2Proof.Machine

/-! ### Addresses (R120) -/

/-- base + offset + the replay's byte step, modulo 2^64 (R114, R120). -/
def State.effective (s : State) (a : Reg5) (off : Word) : Word := s.getG a + off + s.cur.ostep

/-- The offset of the M format: sext(IMM7) scaled by the access size, or the literal as it is (R76, R120). -/
def mOffset (z : BitVec 2) : Imm 7 → Word
  | .short v => v.signExtend 64 <<< z.toNat
  | .lit v => v

/-- Bytes of a scalar access: 2^SIZE (R122). -/
def sizeBytes (z : BitVec 2) : Nat := 2 ^ z.toNat

/-- One aligned access. -/
def oneItem (va : Word) (n : Nat) : List Item := [⟨0, va, va, n, n⟩]

/-- A scalar's space (R122). -/
def locSpace (loc : Bool) : Space := if loc then .loc else .glob

/-! ### Orders -/

/-- An access of a context that is in flight. -/
def Flight.ofCtx (core ctx : Nat) (f : Flight) : Bool := f.owner == some (core, ctx)

/-- Every earlier access of the context and every side-log entry of the core is performed (R145, R217). -/
def State.performed (s : State) : Bool :=
  s.me.slog.isEmpty && !(s.flight.any fun f => f.ofCtx s.cur.core s.cur.ctx)

/-- The accesses that flight n waits for are performed: those that its context issued before it, and the core's side log (R217). -/
def State.releaseDone (s : State) (n core ctx : Nat) : Bool :=
  (s.core core).slog.isEmpty && !((s.flight.take n).any fun f => f.ofCtx core ctx)

/-- An acquire discards what the stream generators have read ahead (R130). -/
def State.discardAhead (s : State) : State :=
  if s.my.streams.isEmpty then s
  else s.setMy { s.my with streams := dropAhead s.my.streams }

/-- A place in S earlier than another (R258). -/
def ScOp.before (a b : ScOp) : Bool :=
  decide (a.window < b.window) || (a.window == b.window && (decide (a.core < b.core) || (a.core == b.core && decide (a.pos < b.pos))))

/-- The operation of the issuing context in S. -/
def State.myScOp (s : State) : Option ScOp := s.sc.find? fun o => o.core == s.cur.core && o.ctx == s.cur.ctx

/-- An SC operation of the issuing context (R257-R259): the ready one completes. Performed at issue, its step lasts until its
window + 3 has come; else it is announced, where the replica is within bound, and waits for its completion. -/
def State.scGate (s : State) : Except Stop State :=
  match s.myScOp with
  | some o => if o.ready then .ok { s with sc := s.sc.erase o } else .error .order
  | none =>
    if s.me.skewed then .error (.hold none)
    else if s.eager && s.sc.isEmpty then
      let t := s.replica s.cur.core
      .ok { s with now := s.now + ((t / 16 + 3) * 16 - t) }
    else .error .order

/-- What an order asks before the access: a release waits for the accesses before it; an SC operation takes its place in S, where
it waits for them too (R259). -/
def State.gate (s : State) (o : Order) : Except Stop State :=
  match o with
  | .rlx | .acq => .ok s
  | .rel | .ar => if s.performed then .ok s else .error (.hold none)
  | .sc => if s.performed then s.scGate else if s.me.skewed then .error (.hold none) else .error .order

/-- A region-closing SC operation that is not performed at issue: it is sent, and completes by itself in its place in S (R134, R257). -/
def State.sendsSc (s : State) (o : Order) : Bool :=
  o == .sc && !s.me.skewed && !(s.performed && s.eager && s.sc.isEmpty)

/-- The order is an acquire (R253). -/
def Order.acquires : Order → Bool
  | .acq | .ar | .sc => true
  | .rlx | .rel => false

/-- What an order does after the access. -/
def State.acquired (s : State) (o : Order) : State := if Order.acquires o then s.discardAhead else s

/-! ### Vector operands and streams (R14, R127-R131) -/

/-- The space of a generator (R128). -/
def Stream.space' (t : Stream) : Space := if t.space = 0 then .glob else .loc

/-- Trap state of a stream access (R129, R335). -/
def streamInfo (write : Bool) (t : Stream) : AddrInfo := { stream := true, write := write, space := t.space }

/-- A pop: the next chunk becomes the register's value (R129). A chunk read ahead is taken as it was read (R130). -/
def State.pop (s : State) (r : Nat) : Except Stop State :=
  match s.my.stream r with
  | none => .ok s
  | some t =>
    let a := t.chunk t.rc
    if t.dir = 2 ∨ t.count.toNat ≤ t.rc then .error (.trap cIllegalAddress a (streamInfo false t).word)
    else match t.ahead with
      | v :: rest => s.keeping t.space' .load (chunkItems a) (do
        let (locs, s) ← s.check t.space' .load (streamInfo false t) (chunkItems a)
        holdIfAbsent 0 locs
        let x := s.my.setV r v
        .ok (s.setMy { x with streams := tput x.streams (r - 28) { t with rc := t.rc + 1, ahead := rest } }))
      | [] => do
        let (bs, s) ← s.readItems t.space' .load (streamInfo false t) 0 0 (chunkItems a)
        let x := s.my.setV r (BitVec.ofNat 1024 (leNat bs.flatten))
        .ok (s.setMy { x with streams := tput x.streams (r - 28) { t with rc := t.rc + 1 } })

/-- The registers of a list, each once, in order of first naming. -/
def distinct : List Nat → List Nat
  | [] => []
  | r :: rs => r :: (distinct rs).filter (· != r)

/-- Pops in order. -/
def State.popEach (s : State) : List Nat → Except Stop State
  | [] => .ok s
  | r :: rs => do
    let s ← s.pop r
    s.popEach rs

/-- The pops of an instruction: once for each bound register that it names as a source (R14). No rule orders the pops of different
registers: where two of them would trap, the one whose operand the instruction names first does, in the order a, b, d (log 95). -/
def State.pops (s : State) (l : List Nat) : Except Stop State := s.popEach (distinct l)

/-- A result for a vector register: written, or appended where the register is bound (R14, R129). -/
def State.putV (s : State) (r : Nat) (v : Vec) : Except Stop State :=
  match s.my.stream r with
  | none => .ok (s.setMy (s.my.setV r v))
  | some t =>
    let a := t.chunk t.wc
    if t.dir = 1 ∨ t.count.toNat ≤ t.wc then .error (.trap cIllegalAddress a (streamInfo true t).word)
    else do
      let words := (List.range 32).map fun i => leBytes 4 (v.extractLsb' (32 * i) 32).toNat
      let s ← s.writeItems t.space' (streamInfo true t) ((chunkItems a).zip words) (some (r - 28))
      let x := s.my.setV r v
      .ok (s.setMy { x with streams := tput x.streams (r - 28) { t with wc := t.wc + 1 } })

end Sys2Proof.Machine
end

