-- ==== Sys2Proof/Machine/Alu.lean ====
section
/-! DEFINITION. The scalar operations (R99-R105) on 64-bit words. -/

namespace Sys2Proof.Machine

/-- Bits [127:64] of the exact product s(ga) * s(gb) (R99). -/
def aluMulh (a b : Word) : Word := BitVec.ofInt 64 (a.toInt * b.toInt / 2 ^ 64)

/-- Bits [127:64] of the exact product u(ga) * u(gb) (R99). -/
def aluMulhu (a b : Word) : Word := BitVec.ofNat 64 (a.toNat * b.toNat / 2 ^ 64)

/-- Signed division truncated towards zero; by zero -1 (R99, R100). -/
def aluDiv (a b : Word) : Word := if b = 0 then BitVec.allOnes 64 else BitVec.ofInt 64 (Int.tdiv a.toInt b.toInt)

/-- Unsigned division; by zero all ones (R99, R100). -/
def aluDivu (a b : Word) : Word := if b = 0 then BitVec.allOnes 64 else BitVec.ofNat 64 (a.toNat / b.toNat)

/-- Signed remainder with the dividend's sign; by zero the dividend (R99, R100). -/
def aluRem (a b : Word) : Word := if b = 0 then a else BitVec.ofInt 64 (a.toInt - b.toInt * Int.tdiv a.toInt b.toInt)

/-- Unsigned remainder; by zero the dividend (R99, R100). -/
def aluRemu (a b : Word) : Word := if b = 0 then a else BitVec.ofNat 64 (a.toNat % b.toNat)

/-- A shift amount: gb[5:0] (R99). -/
def shiftAmount (b : Word) : Nat := b.toNat % 64

def aluShl (a b : Word) : Word := a <<< shiftAmount b
def aluShr (a b : Word) : Word := a >>> shiftAmount b
def aluSra (a b : Word) : Word := a.sshiftRight (shiftAmount b)
def aluRotl (a b : Word) : Word := a.rotateLeft (shiftAmount b)

def aluMin (a b : Word) : Word := if a.toInt ≤ b.toInt then a else b
def aluMax (a b : Word) : Word := if a.toInt ≤ b.toInt then b else a
def aluMinu (a b : Word) : Word := if a.toNat ≤ b.toNat then a else b
def aluMaxu (a b : Word) : Word := if a.toNat ≤ b.toNat then b else a

/-- Zero bits above the highest set bit; 64 for 0 (R103). -/
def aluClz (a : Word) : Word := if a = 0 then 64 else BitVec.ofNat 64 (63 - a.toNat.log2)

/-- The lowest set bit at or above i, in n steps. -/
def lowestBit (a : Nat) : Nat → Nat → Nat
  | 0, i => i
  | n + 1, i => if a.testBit i then i else lowestBit a n (i + 1)

/-- Zero bits below the lowest set bit; 64 for 0 (R103). -/
def aluCtz (a : Word) : Word := BitVec.ofNat 64 (lowestBit a.toNat 64 0)

/-- Set bits among the lowest n. -/
def countBits (a : Nat) : Nat → Nat
  | 0 => 0
  | n + 1 => countBits a n + (if a.testBit n then 1 else 0)

/-- Set bits (R103). -/
def aluPopc (a : Word) : Word := BitVec.ofNat 64 (countBits a.toNat 64)

/-- Bit i becomes bit 63 - i (R103). -/
def aluBrev (a : Word) : Word := a.reverse

/-- Byte i becomes byte 7 - i (R103). -/
def aluBswap (a : Word) : Word :=
  a.extractLsb' 0 8 ++ a.extractLsb' 8 8 ++ a.extractLsb' 16 8 ++ a.extractLsb' 24 8 ++
    a.extractLsb' 32 8 ++ a.extractLsb' 40 8 ++ a.extractLsb' 48 8 ++ a.extractLsb' 56 8

def aluSext (n : Nat) (a : Word) : Word := (a.setWidth n).signExtend 64
def aluZext (n : Nat) (a : Word) : Word := (a.setWidth n).setWidth 64

/-- Every bit of a predicate holds the condition (R105). -/
def predOf (c : Bool) : Pred := if c then BitVec.allOnes 128 else 0

def cmpLtS (a b : Word) : Bool := decide (a.toInt < b.toInt)
def cmpLeS (a b : Word) : Bool := decide (a.toInt ≤ b.toInt)
def cmpLtU (a b : Word) : Bool := decide (a.toNat < b.toNat)
def cmpLeU (a b : Word) : Bool := decide (a.toNat ≤ b.toNat)

end Sys2Proof.Machine
end

