-- ==== Sys2Proof/Machine/Scalar.lean ====
section
/-! DEFINITION. Scalar instructions, majors 0x01-0x0D (R98-R109). -/

namespace Sys2Proof.Machine

/-- A scalar ALU instruction: gd := op(ga, gb) (R99). -/
def scalar (d a : Reg5) (b : Src) (g : Reg3) (op : Word → Word → Word) (s : State) : Host.Outcome State Fault Refusal :=
  s.done g (srcWords b) (s.setG d (op (s.getG a) (s.src b)))

/-- A bit operation: gd := op(ga) (R103). -/
def scalar1 (d a : Reg5) (g : Reg3) (op : Word → Word) (s : State) : Host.Outcome State Fault Refusal :=
  s.done g 1 (s.setG d (op (s.getG a)))

/-- An immediate form, which has no guard (R98, R101). -/
def scalarImm (d a : Reg5) (i : Imm 14) (op : Word → Word → Word) (s : State) : Host.Outcome State Fault Refusal :=
  s.done 0 (immWords i) (s.setG d (op (s.getG a) (immVal i)))

/-- A shift immediate (R102). -/
def shiftImm (d a : Reg5) (n : BitVec 6) (op : Word → Word → Word) (s : State) : Host.Outcome State Fault Refusal :=
  s.done 0 1 (s.setG d (op (s.getG a) (n.setWidth 64)))

/-- A compare: every bit of Pd receives the result (R105). -/
def compare (d : Reg3) (a : Reg5) (b : Src) (g : Reg3) (c : Word → Word → Bool) (s : State) : Host.Outcome State Fault Refusal :=
  s.done g (srcWords b) (s.setP d (predOf (c (s.getG a) (s.src b))))

/-- A compare with an immediate, which has no guard (R98, R105). -/
def compareImm (d : Reg3) (a : Reg5) (i : Imm 11) (c : Word → Word → Bool) (s : State) : Host.Outcome State Fault Refusal :=
  s.done 0 (immWords i) (s.setP d (predOf (c (s.getG a) (immVal i))))

/-- Predicate logic on all 128 bits (R106). -/
def predicate (d : Reg3) (v : Pred) (g : Reg3) (s : State) : Host.Outcome State Fault Refusal := s.done g 1 (s.setP d v)

/-- ADD (R99). -/
def execAdd (d a : Reg5) (b : Src) (g : Reg3) (s : State) : Host.Outcome State Fault Refusal := scalar d a b g (fun x y => x + y) s

/-- SUB (R99). -/
def execSub (d a : Reg5) (b : Src) (g : Reg3) (s : State) : Host.Outcome State Fault Refusal := scalar d a b g (fun x y => x - y) s

/-- MUL (R99). -/
def execMul (d a : Reg5) (b : Src) (g : Reg3) (s : State) : Host.Outcome State Fault Refusal := scalar d a b g (fun x y => x * y) s

/-- MULH (R99). -/
def execMulh (d a : Reg5) (b : Src) (g : Reg3) (s : State) : Host.Outcome State Fault Refusal := scalar d a b g aluMulh s

/-- MULHU (R99). -/
def execMulhu (d a : Reg5) (b : Src) (g : Reg3) (s : State) : Host.Outcome State Fault Refusal := scalar d a b g aluMulhu s

/-- DIV (R99). -/
def execDiv (d a : Reg5) (b : Src) (g : Reg3) (s : State) : Host.Outcome State Fault Refusal := scalar d a b g aluDiv s

/-- DIVU (R99). -/
def execDivu (d a : Reg5) (b : Src) (g : Reg3) (s : State) : Host.Outcome State Fault Refusal := scalar d a b g aluDivu s

/-- REM (R99). -/
def execRem (d a : Reg5) (b : Src) (g : Reg3) (s : State) : Host.Outcome State Fault Refusal := scalar d a b g aluRem s

/-- REMU (R99). -/
def execRemu (d a : Reg5) (b : Src) (g : Reg3) (s : State) : Host.Outcome State Fault Refusal := scalar d a b g aluRemu s

/-- AND (R99). -/
def execAnd (d a : Reg5) (b : Src) (g : Reg3) (s : State) : Host.Outcome State Fault Refusal := scalar d a b g (fun x y => x &&& y) s

/-- OR (R99). -/
def execOr (d a : Reg5) (b : Src) (g : Reg3) (s : State) : Host.Outcome State Fault Refusal := scalar d a b g (fun x y => x ||| y) s

/-- XOR (R99). -/
def execXor (d a : Reg5) (b : Src) (g : Reg3) (s : State) : Host.Outcome State Fault Refusal := scalar d a b g (fun x y => x ^^^ y) s

/-- ANDN (R99). -/
def execAndn (d a : Reg5) (b : Src) (g : Reg3) (s : State) : Host.Outcome State Fault Refusal := scalar d a b g (fun x y => x &&& ~~~y) s

/-- ORN (R99). -/
def execOrn (d a : Reg5) (b : Src) (g : Reg3) (s : State) : Host.Outcome State Fault Refusal := scalar d a b g (fun x y => x ||| ~~~y) s

/-- SHL (R99). -/
def execShl (d a : Reg5) (b : Src) (g : Reg3) (s : State) : Host.Outcome State Fault Refusal := scalar d a b g aluShl s

/-- SHR (R99). -/
def execShr (d a : Reg5) (b : Src) (g : Reg3) (s : State) : Host.Outcome State Fault Refusal := scalar d a b g aluShr s

/-- SRA (R99). -/
def execSra (d a : Reg5) (b : Src) (g : Reg3) (s : State) : Host.Outcome State Fault Refusal := scalar d a b g aluSra s

/-- ROTL (R99). -/
def execRotl (d a : Reg5) (b : Src) (g : Reg3) (s : State) : Host.Outcome State Fault Refusal := scalar d a b g aluRotl s

/-- MIN (R99). -/
def execMin (d a : Reg5) (b : Src) (g : Reg3) (s : State) : Host.Outcome State Fault Refusal := scalar d a b g aluMin s

/-- MAX (R99). -/
def execMax (d a : Reg5) (b : Src) (g : Reg3) (s : State) : Host.Outcome State Fault Refusal := scalar d a b g aluMax s

/-- MINU (R99). -/
def execMinu (d a : Reg5) (b : Src) (g : Reg3) (s : State) : Host.Outcome State Fault Refusal := scalar d a b g aluMinu s

/-- MAXU (R99). -/
def execMaxu (d a : Reg5) (b : Src) (g : Reg3) (s : State) : Host.Outcome State Fault Refusal := scalar d a b g aluMaxu s

/-- clz (R103). -/
def execClz (d a : Reg5) (g : Reg3) (s : State) : Host.Outcome State Fault Refusal := scalar1 d a g aluClz s

/-- ctz (R103). -/
def execCtz (d a : Reg5) (g : Reg3) (s : State) : Host.Outcome State Fault Refusal := scalar1 d a g aluCtz s

/-- popc (R103). -/
def execPopc (d a : Reg5) (g : Reg3) (s : State) : Host.Outcome State Fault Refusal := scalar1 d a g aluPopc s

/-- brev (R103). -/
def execBrev (d a : Reg5) (g : Reg3) (s : State) : Host.Outcome State Fault Refusal := scalar1 d a g aluBrev s

/-- bswap (R103). -/
def execBswap (d a : Reg5) (g : Reg3) (s : State) : Host.Outcome State Fault Refusal := scalar1 d a g aluBswap s

/-- sextB (R103). -/
def execSextB (d a : Reg5) (g : Reg3) (s : State) : Host.Outcome State Fault Refusal := scalar1 d a g (aluSext 8) s

/-- sextH (R103). -/
def execSextH (d a : Reg5) (g : Reg3) (s : State) : Host.Outcome State Fault Refusal := scalar1 d a g (aluSext 16) s

/-- sextW (R103). -/
def execSextW (d a : Reg5) (g : Reg3) (s : State) : Host.Outcome State Fault Refusal := scalar1 d a g (aluSext 32) s

/-- zextB (R103). -/
def execZextB (d a : Reg5) (g : Reg3) (s : State) : Host.Outcome State Fault Refusal := scalar1 d a g (aluZext 8) s

/-- zextH (R103). -/
def execZextH (d a : Reg5) (g : Reg3) (s : State) : Host.Outcome State Fault Refusal := scalar1 d a g (aluZext 16) s

/-- zextW (R103). -/
def execZextW (d a : Reg5) (g : Reg3) (s : State) : Host.Outcome State Fault Refusal := scalar1 d a g (aluZext 32) s

/-- mov (R103). -/
def execMov (d a : Reg5) (g : Reg3) (s : State) : Host.Outcome State Fault Refusal := scalar1 d a g id s

/-- SEL: bit 0 of the selector chooses (R104). -/
def execSel (d a : Reg5) (b : Src) (ps g : Reg3) (s : State) : Host.Outcome State Fault Refusal :=
  s.done g (srcWords b) (s.setG d (if s.guardOn ps then s.getG a else s.src b))

/-- ADDI (R101). -/
def execAddi (d a : Reg5) (i : Imm 14) (s : State) : Host.Outcome State Fault Refusal := scalarImm d a i (fun x y => x + y) s

/-- ANDI (R101). -/
def execAndi (d a : Reg5) (i : Imm 14) (s : State) : Host.Outcome State Fault Refusal := scalarImm d a i (fun x y => x &&& y) s

/-- ORI (R101). -/
def execOri (d a : Reg5) (i : Imm 14) (s : State) : Host.Outcome State Fault Refusal := scalarImm d a i (fun x y => x ||| y) s

/-- XORI (R101). -/
def execXori (d a : Reg5) (i : Imm 14) (s : State) : Host.Outcome State Fault Refusal := scalarImm d a i (fun x y => x ^^^ y) s

/-- SHLI (R102). -/
def execShli (d a : Reg5) (n : BitVec 6) (s : State) : Host.Outcome State Fault Refusal := shiftImm d a n aluShl s

/-- SHRI (R102). -/
def execShri (d a : Reg5) (n : BitVec 6) (s : State) : Host.Outcome State Fault Refusal := shiftImm d a n aluShr s

/-- SRAI (R102). -/
def execSrai (d a : Reg5) (n : BitVec 6) (s : State) : Host.Outcome State Fault Refusal := shiftImm d a n aluSra s

/-- ROTLI (R102). -/
def execRotli (d a : Reg5) (n : BitVec 6) (s : State) : Host.Outcome State Fault Refusal := shiftImm d a n aluRotl s

/-- MOVI (R101). -/
def execMovi (d : Reg5) (i : BitVec 14) (s : State) : Host.Outcome State Fault Refusal := s.done 0 1 (s.setG d (i.signExtend 64))

/-- MOVI with its 64-bit literal (R76, R101). -/
def execMoviLit (d : Reg5) (v : Word) (s : State) : Host.Outcome State Fault Refusal := s.done 0 3 (s.setG d v)

/-- CMP.EQ (R105). -/
def execCmpEq (d : Reg3) (a : Reg5) (b : Src) (g : Reg3) (s : State) : Host.Outcome State Fault Refusal := compare d a b g (fun x y => x == y) s

/-- CMP.NE (R105). -/
def execCmpNe (d : Reg3) (a : Reg5) (b : Src) (g : Reg3) (s : State) : Host.Outcome State Fault Refusal := compare d a b g (fun x y => x != y) s

/-- CMP.LT (R105). -/
def execCmpLt (d : Reg3) (a : Reg5) (b : Src) (g : Reg3) (s : State) : Host.Outcome State Fault Refusal := compare d a b g cmpLtS s

/-- CMP.LE (R105). -/
def execCmpLe (d : Reg3) (a : Reg5) (b : Src) (g : Reg3) (s : State) : Host.Outcome State Fault Refusal := compare d a b g cmpLeS s

/-- CMP.LTU (R105). -/
def execCmpLtu (d : Reg3) (a : Reg5) (b : Src) (g : Reg3) (s : State) : Host.Outcome State Fault Refusal := compare d a b g cmpLtU s

/-- CMP.LEU (R105). -/
def execCmpLeu (d : Reg3) (a : Reg5) (b : Src) (g : Reg3) (s : State) : Host.Outcome State Fault Refusal := compare d a b g cmpLeU s

/-- CMPI.EQ (R105). -/
def execCmpiEq (d : Reg3) (a : Reg5) (i : Imm 11) (s : State) : Host.Outcome State Fault Refusal := compareImm d a i (fun x y => x == y) s

/-- CMPI.NE (R105). -/
def execCmpiNe (d : Reg3) (a : Reg5) (i : Imm 11) (s : State) : Host.Outcome State Fault Refusal := compareImm d a i (fun x y => x != y) s

/-- CMPI.LT (R105). -/
def execCmpiLt (d : Reg3) (a : Reg5) (i : Imm 11) (s : State) : Host.Outcome State Fault Refusal := compareImm d a i cmpLtS s

/-- CMPI.LE (R105). -/
def execCmpiLe (d : Reg3) (a : Reg5) (i : Imm 11) (s : State) : Host.Outcome State Fault Refusal := compareImm d a i cmpLeS s

/-- CMPI.LTU (R105). -/
def execCmpiLtu (d : Reg3) (a : Reg5) (i : Imm 11) (s : State) : Host.Outcome State Fault Refusal := compareImm d a i cmpLtU s

/-- CMPI.LEU (R105). -/
def execCmpiLeu (d : Reg3) (a : Reg5) (i : Imm 11) (s : State) : Host.Outcome State Fault Refusal := compareImm d a i cmpLeU s

/-- PAND (R106). -/
def execPand (d a b g : Reg3) (s : State) : Host.Outcome State Fault Refusal := predicate d (s.getP a &&& s.getP b) g s

/-- POR (R106). -/
def execPor (d a b g : Reg3) (s : State) : Host.Outcome State Fault Refusal := predicate d (s.getP a ||| s.getP b) g s

/-- PXOR (R106). -/
def execPxor (d a b g : Reg3) (s : State) : Host.Outcome State Fault Refusal := predicate d (s.getP a ^^^ s.getP b) g s

/-- PNOT (R106). -/
def execPnot (d a g : Reg3) (s : State) : Host.Outcome State Fault Refusal := predicate d (~~~(s.getP a)) g s

/-- PMOV (R106). -/
def execPmov (d a g : Reg3) (s : State) : Host.Outcome State Fault Refusal := predicate d (s.getP a) g s

/-- APUT moves a word into a pointer, unchecked (R107). -/
def execAput (d : Reg3) (a : Reg5) (g : Reg3) (s : State) : Host.Outcome State Fault Refusal := s.done g 1 (s.setA d (s.getG a))

/-- AGET (R107). -/
def execAget (d : Reg5) (a : Reg3) (g : Reg3) (s : State) : Host.Outcome State Fault Refusal := s.done g 1 (s.setG d (s.getA a))

/-- AINC, and the post-increments of LDA and STA (R108): an invalid pointer only gets bit 63. -/
def ptrInc (r : Rect) (p : Word) (inc : Int) : Word := if ptrIn r p then ptrMove r p inc else setBit p 63 true

/-- AINC (R108). -/
def execAinc (d : Reg3) (b : Src) (g : Reg3) (s : State) : Host.Outcome State Fault Refusal :=
  s.done g (srcWords b) (s.setA d (ptrInc s.rect (s.getA d) (s.src b).toInt))

/-- The pointer of a linear position and interleave exponent (R109). -/
def ptrOfLin (r : Rect) (k : Nat) (lin : Int) : Word :=
  if k < 6 ∨ 22 < k then 0x8000000000000000
  else if lin < 0 ∨ 2 ^ 23 ≤ lin.toNat / (2 ^ k * r.w * r.h) * 2 ^ k then 0x8000000000000000 ||| BitVec.ofNat 64 (k * 2 ^ 29)
  else
    let n := lin.toNat
    let q := n / 2 ^ k
    let col := r.col + q % r.w
    let row := r.row + q / r.w % r.h
    let blk := q / r.w / r.h
    BitVec.ofNat 64 (k * 2 ^ 29) ||| BitVec.ofNat 64 (row * 2 ^ 27) ||| BitVec.ofNat 64 (col * 2 ^ 23) |||
      BitVec.ofNat 64 (blk * 2 ^ k + n % 2 ^ k)

/-- ACFG (R109). -/
def execAcfg (d : Reg3) (a b : Reg5) (g : Reg3) (s : State) : Host.Outcome State Fault Refusal :=
  s.done g 1 (s.setA d (ptrOfLin s.rect (s.getG b).toNat (s.getG a).toInt))

end Sys2Proof.Machine
end

