-- ==== Sys2Proof/Machine/ScalarMem.lean ====
section
/-! DEFINITION. Scalar loads and stores (R121-R124). -/

namespace Sys2Proof.Machine

/-- The loaded value: zero- or sign-extended (R122). -/
def extend (signed : Bool) (n : Nat) (v : Nat) : Word :=
  if signed then (BitVec.ofNat (8 * n) v).signExtend 64 else BitVec.ofNat 64 v

/-- A relaxed load or reduction of a reasoning core on global memory that is not performed at issue goes into flight (log 5, log 26). -/
def State.defers (s : State) (sp : Space) (o : Order) : Bool := !s.eager && sp == .glob && o == .rlx && !s.reflex

/-- A scalar load at an address (R122): the value, or the request in flight that will bring it. -/
def loadAt (s : State) (sp : Space) (va : Word) (n : Nat) (signed : Bool) (d : Reg5) (o : Order) : Except Stop State :=
  s.keeping sp .load (oneItem va n) (do
    let (locs, s) ← s.check sp .load {} (oneItem va n)
    holdIfAbsent 0 locs
    let s ← s.gate o
    s.clearOf locs
    s.consume 0 locs
    if s.defers sp o then
      .ok (s.fly (locs.filterMap fun l => s.request l (.load d.toNat n signed)))
    else .ok ((s.acquired o).setG d (extend signed n (leNat ((locs.map s.locBytes).flatten)))))

/-- An SC store on an absent page (R143, R259): it retires into the side log and takes its place in S, and its context waits until
its entry has replayed. -/
def State.logSc (s : State) (e : LogEntry) : Except Stop State :=
  if s.me.skewed then .error (.hold none)
  else do
    let t ← s.enterLog [{ e with sc := true }]
    .ok (t.newSc .logged)

/-- The issuing context waits where an operation of its own that is over has not completed in S (R259). -/
def State.awaitSc (s : State) : State :=
  if s.sc.any fun o => o.core == s.cur.core && o.ctx == s.cur.ctx && o.retired then s.holdOn none else s

/-- A store of n bytes at an address (R122). One on an absent page enters the side log (R143); an SC one discards what was read ahead,
since what follows it waits for its completion (R130, R259). -/
def storeAt (s : State) (sp : Space) (va : Word) (n : Nat) (v : Word) (o : Order) : Except Stop State :=
  s.keeping sp .store (oneItem va n) (do
    let (locs, s) ← s.check sp .store { write := true } (oneItem va n)
    if o = .sc ∧ locs.any (fun l => l.place.isNone) = true then do
      s.clearOf locs
      let t ← s.logSc (logEntryOf va.toNat (leBytes n v.toNat) .write s.me.vf s.cur.ctx)
      .ok t.discardAhead
    else do
      let s ← s.gate o
      s.clearOf locs
      let ws := locs.map fun l => (l, leBytes n v.toNat)
      if o = .sc then .ok (s.writeLocs ws).discardAhead
      else if !s.eager && locs.all (fun l => (l.place.map Place.travels).getD false) then
        .ok (s.fly (locs.filterMap fun l => s.request l (.store n v)))
      else s.storeLocs ws)

/-- LD in its spaces (R122). -/
def loadForm (d a : Reg5) (loc : Bool) (z : BitVec 2) (i : Imm 7) (o : Order) (signed : Bool) (g : Reg3) (len : Nat) (s : State) :
    Host.Outcome State Fault Refusal :=
  s.guarded g len (do
    let t ← loadAt s (locSpace loc) (s.effective a (mOffset z i)) (sizeBytes z) signed d o
    .ok (t.advance len))

/-- ST in its spaces (R122). -/
def storeForm (d a : Reg5) (loc : Bool) (z : BitVec 2) (i : Imm 7) (o : Order) (g : Reg3) (len : Nat) (s : State) :
    Host.Outcome State Fault Refusal :=
  s.guarded g len (do
    let t ← storeAt s (locSpace loc) (s.effective a (mOffset z i)) (sizeBytes z) (s.getG d) o
    .ok ((t.advance len).awaitSc))

/-- The pointer after the access of LDA and STA (R123). -/
def postInc (s : State) (a : Reg3) (z : BitVec 2) (i : BitVec 7) : Word :=
  if i = 0 then s.getA a else ptrInc s.rect (s.getA a) (i.toInt * sizeBytes z)

/-- LDA: the access at the pointer, then the post-increment (R123). -/
def loadPtr (d : Reg5) (a : Reg3) (z : BitVec 2) (i : BitVec 7) (o : Option Order) (signed : Bool) (g : Reg3) (s : State) :
    Host.Outcome State Fault Refusal :=
  let len := 1 + extWords o
  s.guarded g len (do
    let t ← loadAt s .dist (s.getA a) (sizeBytes z) signed d (o.getD .rlx)
    .ok ((t.setA a (postInc s a z i)).advance len))

/-- Bytes for another core's memory: performed, as those of an SC store always are (R259), or on their way (R124). -/
def State.sendBytes (s : State) (l : Loc) (bs : List Byte) (now : Bool := false) : State :=
  match l.place with
  | some (.core n o) =>
    if n = s.cur.core then s.setBytes (.core n o) bs
    else if s.eager || now then s.putCore n o bs
    else { s with flight := s.flight ++ [.remote s.cur.core s.cur.ctx n o bs] }
  | some p => s.setBytes p bs
  | none => s

/-- STA: a store to another core's memory is region-closing (R123, R124); an SC one is sent and completes in its place in S. -/
def storePtr (d : Reg5) (a : Reg3) (z : BitVec 2) (i : BitVec 7) (o : Option Order) (g : Reg3) (s : State) :
    Host.Outcome State Fault Refusal :=
  let len := 1 + extWords o
  let n := sizeBytes z
  let ord := o.getD .rlx
  let bs := leBytes n (s.getG d).toNat
  s.guarded g len (do
    let (locs, t) ← s.check .dist .store { write := true } (oneItem (s.getA a) n)
    let away := s.namedCore (s.getA a) != s.cur.core
    if away && t.sendsSc ord then do
      t.clearOf locs
      .ok ((t.discardAhead.setA a (postInc s a z i)).sendSc (.store (s.namedCore (s.getA a)) (ptrOff (s.getA a)) bs) len)
    else do
      let t ← t.gate ord
      t.clearOf locs
      let t := locs.foldl (fun t l => t.sendBytes l bs (o == some .sc)) t
      let t := if ord = .sc then t.discardAhead else t
      let t := t.setA a (postInc s a z i)
      .ok (if away then t.sent len else t.advance len))

/-- LD (R122). -/
def execLd (d a : Reg5) (loc : Bool) (z : BitVec 2) (i : BitVec 7) (g : Reg3) (s : State) : Host.Outcome State Fault Refusal :=
  loadForm d a loc z (.short i) .rlx false g 1 s

/-- LD with extension words or a literal offset (R122). -/
def execLdExt (d a : Reg5) (loc : Bool) (z : BitVec 2) (i : Imm 7) (o : Option Order) (g : Reg3) (s : State) :
    Host.Outcome State Fault Refusal := loadForm d a loc z i (o.getD .rlx) false g (immWords i + extWords o) s

/-- LDA (R123). -/
def execLda (d : Reg5) (a : Reg3) (z : BitVec 2) (i : BitVec 7) (o : Option Order) (g : Reg3) (s : State) :
    Host.Outcome State Fault Refusal := loadPtr d a z i o false g s

/-- LD.s (R122). -/
def execLdS (d a : Reg5) (loc : Bool) (z : BitVec 2) (i : BitVec 7) (g : Reg3) (s : State) : Host.Outcome State Fault Refusal :=
  loadForm d a loc z (.short i) .rlx true g 1 s

/-- LD.s with extension words or a literal offset (R122). -/
def execLdSExt (d a : Reg5) (loc : Bool) (z : BitVec 2) (i : Imm 7) (o : Option Order) (g : Reg3) (s : State) :
    Host.Outcome State Fault Refusal := loadForm d a loc z i (o.getD .rlx) true g (immWords i + extWords o) s

/-- LDA.s (R123). -/
def execLdaS (d : Reg5) (a : Reg3) (z : BitVec 2) (i : BitVec 7) (o : Option Order) (g : Reg3) (s : State) :
    Host.Outcome State Fault Refusal := loadPtr d a z i o true g s

/-- ST (R122). -/
def execSt (d a : Reg5) (loc : Bool) (z : BitVec 2) (i : BitVec 7) (g : Reg3) (s : State) : Host.Outcome State Fault Refusal :=
  storeForm d a loc z (.short i) .rlx g 1 s

/-- ST with extension words or a literal offset (R122). -/
def execStExt (d a : Reg5) (loc : Bool) (z : BitVec 2) (i : Imm 7) (o : Option Order) (g : Reg3) (s : State) :
    Host.Outcome State Fault Refusal := storeForm d a loc z i (o.getD .rlx) g (immWords i + extWords o) s

/-- STA (R123). -/
def execSta (d : Reg5) (a : Reg3) (z : BitVec 2) (i : BitVec 7) (o : Option Order) (g : Reg3) (s : State) :
    Host.Outcome State Fault Refusal := storePtr d a z i o g s

end Sys2Proof.Machine
end

