-- ==== Sys2Proof/Machine/VectorMem.lean ====
section
/-! DEFINITION. Vector memory instructions (R125, R126), stream bindings (R127-R131), fences, entry consistency and cache
control (R137-R140). -/

namespace Sys2Proof.Machine

/-! ### Lanes -/

/-- Bit i of the lane predicate; without extension words every lane is active (R80, R125). -/
def State.laneOn (s : State) (x : Option VExt) (i : Nat) : Bool :=
  match x with
  | none => true
  | some x => (s.getP x.lp).getLsbD i

/-- ZM (R125). -/
def zeroing : Option VExt → Bool
  | none => false
  | some x => x.zm

/-- The active lanes of a form with elements of eb bytes, ascending. -/
def State.lanes (s : State) (x : Option VExt) (eb : Nat) : List Nat := (List.range (128 / eb)).filter (s.laneOn x)

/-- Lane i of a vector at elements of eb bytes. -/
def laneNat (v : Vec) (eb i : Nat) : Nat := v.toNat / 2 ^ (8 * eb * i) % 2 ^ (8 * eb)

/-- Lane i as a signed number. -/
def laneInt (v : Vec) (eb i : Nat) : Int := (BitVec.ofNat (8 * eb) (laneNat v eb i)).toInt

/-- A vector from the values of its lanes, lane 0 first. -/
def ofLanes (eb : Nat) (l : List Nat) : Vec := BitVec.ofNat 1024 (l.foldr (fun v acc => v % 2 ^ (8 * eb) + 2 ^ (8 * eb) * acc) 0)

/-- The lanes of a result: active ones take f, masked ones keep old or become zero (R125, R147). -/
def State.merge (s : State) (x : Option VExt) (eb : Nat) (old : Vec) (f : Nat → Nat) : Vec :=
  ofLanes eb ((List.range (128 / eb)).map fun i =>
    if s.laneOn x i then f i else if zeroing x then 0 else laneNat old eb i)

/-- Element bytes of VLDS, VGTH and VSCT (R125). -/
def elemBytes (w : Bool) : Nat := if w then 2 else 4

/-- The address of lane i at a byte distance, in its space (R120, R125): a pointer moves as AINC moves it (R16, R108), since
the lane's own position is what is checked. -/
def State.laneAddr (s : State) (sp : Space) (a : Reg5) (off : Option Word) (dist : Int) : Word :=
  match sp with
  | .dist => let p := s.getA (a.extractLsb' 0 3)
    if dist = 0 then p else ptrInc s.rect p dist
  | _ => s.effective a (off.getD 0) + BitVec.ofInt 64 dist

/-- The accesses of the active lanes (R125). -/
def State.laneItems (s : State) (sp : Space) (a : Reg5) (off : Option Word) (x : Option VExt) (eb : Nat) (dist : Nat → Int) :
    List Item :=
  (s.lanes x eb).map fun i => let va := s.laneAddr sp a off (dist i); ⟨i, va, va, eb, eb⟩

/-- The value that a lane received, from the lanes' bytes. -/
def laneValue (lanes : List Nat) (bs : List (List Byte)) (i : Nat) : Nat :=
  match (lanes.zip bs).find? fun e => e.1 == i with
  | some e => leNat e.2
  | none => 0

/-- A vector load whose lane i lies at a byte distance (R125, R126). -/
def vloadForm (d a : Reg5) (sp : Space) (eb : Nat) (dist : State → Nat → Int) (srcs : List Nat) (off : Option Word)
    (x : Option VExt) (g : Reg3) (s : State) : Host.Outcome State Fault Refusal :=
  let len := 1 + extWords x + litWords off
  s.guarded g len (do
    let s ← s.pops srcs
    let items := s.laneItems sp a off x eb (dist s)
    let (bs, t) ← s.readItems sp .load {} 0 0 items
    let t ← t.putV d.toNat (t.merge x eb (t.getV d) (laneValue (s.lanes x eb) bs))
    .ok (t.advance len))

/-- The located lanes lie in another core's memory (R124). -/
def State.anyRemote (s : State) (locs : List Loc) : Bool :=
  locs.any fun l => match l.place with
    | some (.core n _) => n != s.cur.core
    | _ => false

/-- A vector store whose lane i lies at a byte distance (R124-R126). -/
def vstoreForm (d a : Reg5) (sp : Space) (eb : Nat) (dist : State → Nat → Int) (srcs : List Nat) (off : Option Word)
    (x : Option VExt) (g : Reg3) (s : State) : Host.Outcome State Fault Refusal :=
  let len := 1 + extWords x + litWords off
  s.guarded g len (do
    let s ← s.pops srcs
    let items := s.laneItems sp a off x eb (dist s)
    s.keeping sp .store items (do
      let (locs, t) ← s.check sp .store { write := true } items
      t.clearOf locs
      let ws := locs.map fun l => (l, leBytes eb (laneNat (s.getV d) eb l.item.lane))
      if sp = .dist then
        let t := ws.foldl (fun t w => t.sendBytes w.1 w.2) t
        .ok (if s.anyRemote locs then t.sent len else t.advance len)
      else do
        let t ← t.storeLocs ws
        .ok (t.advance len)))

/-- VLD (R125). -/
def execVld (d a : Reg5) (sp : Space) (off : Option Word) (x : Option VExt) (g : Reg3) (s : State) :
    Host.Outcome State Fault Refusal := vloadForm d a sp 4 (fun _ i => 4 * i) [] off x g s

/-- VST (R125). -/
def execVst (d a : Reg5) (sp : Space) (off : Option Word) (x : Option VExt) (g : Reg3) (s : State) :
    Host.Outcome State Fault Refusal := vstoreForm d a sp 4 (fun _ i => 4 * i) [d.toNat] off x g s

/-- VLDS: lane i at i * s(gb) (R125). -/
def execVlds (d a b : Reg5) (sp : Space) (w : Bool) (off : Option Word) (x : Option VExt) (g : Reg3) (s : State) :
    Host.Outcome State Fault Refusal := vloadForm d a sp (elemBytes w) (fun s i => i * (s.getG b).toInt) [] off x g s

/-- VGTH: lane i at s(vb lane i) * eb (R125). -/
def execVgth (d a b : Reg5) (sp : Space) (w : Bool) (off : Option Word) (x : Option VExt) (g : Reg3) (s : State) :
    Host.Outcome State Fault Refusal :=
  vloadForm d a sp (elemBytes w) (fun s i => laneInt (s.getV b) (elemBytes w) i * elemBytes w) [b.toNat] off x g s

/-- VSCT: lanes that overlap are written in ascending order (R125, R126). -/
def execVsct (d a b : Reg5) (sp : Space) (w : Bool) (off : Option Word) (x : Option VExt) (g : Reg3) (s : State) :
    Host.Outcome State Fault Refusal :=
  vstoreForm d a sp (elemBytes w) (fun s i => laneInt (s.getV b) (elemBytes w) i * elemBytes w) [d.toNat, b.toNat] off x g s

/-! ### Streams -/

/-- A doubleword of a byte list. -/
def wordAt (bs : List Byte) (k : Nat) : Word := BitVec.ofNat 64 (leNat ((bs.drop k).take 8))

/-- A descriptor that SBIND refuses: reserved bits, DIR, SPACE, or a BASE or STRIDE not a multiple of 4 (R128). -/
def descriptorBad (bs : List Byte) : Bool :=
  bits (wordAt bs 16) 0 32 != 0 || bits (wordAt bs 24) 4 60 != 0 || bits (wordAt bs 24) 2 2 == 0
    || decide (2 ≤ bits (wordAt bs 24) 0 2) || bits (wordAt bs 0) 0 2 != 0 || bits (wordAt bs 8) 0 2 != 0

/-- The generator that a descriptor binds (R128, R129). -/
def streamOf (bs : List Byte) : Stream :=
  { bound := true, base := wordAt bs 0, count := (wordAt bs 8).extractLsb' 32 32, stride := (wordAt bs 8).extractLsb' 0 32,
    wrap := (wordAt bs 16).extractLsb' 32 32, dir := (wordAt bs 24).extractLsb' 2 2, space := (wordAt bs 24).extractLsb' 0 2 }

/-- An append of a generator is still to come, from the geometry unit (R131, R199). -/
def State.appendPending (s : State) (d : BitVec 2) : Bool := s.me.egu.any fun e => e.ctx == s.cur.ctx && e.d == 28 + d.toNat

/-- SBIND (R127, R128). -/
def execSbind (d : BitVec 2) (a : Reg5) (g : Reg3) (s : State) : Host.Outcome State Fault Refusal :=
  s.guarded g 1 (if s.appendPending d then .error (.hold none) else do
    let va := s.getG a
    let (bs, s) ← s.readItems .loc .load {} 0 0 [⟨0, va, va, 32, 32⟩]
    if descriptorBad bs.flatten then .error reservedAtExec
    else .ok ((s.setMy { s.my with streams := tput s.my.streams d.toNat (streamOf bs.flatten) }).advance 1))

/-- SFREE: once every append of the generator is performed or logged (R131); the register keeps its value (R127, R129). -/
def execSfree (d : BitVec 2) (g : Reg3) (s : State) : Host.Outcome State Fault Refusal :=
  if s.guardOn g && s.appendPending d then .next (s.holdOn none) else
  s.done g 1 (s.setMy { s.my with streams := tput s.my.streams d.toNat { tget {} s.my.streams d.toNat with bound := false, ahead := [] } })

/-- A sector is written back (R268): it is not dirty any more, and poison in one of its units is the DRAM sector's (R270, R342). -/
def State.writeBack (s : State) (x : Nat) : State :=
  { s with sectors := terase s.sectors x (x + 1), l2Bad := terase s.l2Bad (16 * x) (16 * x + 16),
           dramBad := if s.l2Bad.any fun e => e.1 / 16 == x && e.2 != 0 then tset 0 s.dramBad x (BitVec.allOnes 128) else s.dramBad }

/-- The line's dirty sectors are written back (R268). -/
def State.cleanLine (s : State) (pa : Nat) : State := (s.writeBack (pa / 256 * 2)).writeBack (pa / 256 * 2 + 1)

/-- The 256-byte line of a place. -/
def Place.line : Place → Place
  | .dram a => .dram (a / 256 * 256)
  | .host a => .host (a / 256 * 256)
  | .peer a => .peer (a / 256 * 256)
  | .core n o => .core n (o / 256 * 256)
  | .sram o => .sram (o / 256 * 256)
  | .tbuf n o => .tbuf n (o / 256 * 256)

/-- The context has cleaned a line, which may hold code (R84). -/
def State.codeClean (s : State) (p : Place) : State :=
  if s.my.cleaned.contains p.line then s else s.setMy { s.my with cleaned := s.my.cleaned ++ [p.line] }

/-- Lines with new code: a task that starts later on any core does not fetch what the core has kept of them (R84). -/
def State.staleLines (s : State) (ls : List Place) : State :=
  { s with cores := s.cores.map fun e => (e.1, if e.2.icache.isEmpty then e.2 else { e.2 with istale := e.2.istale ++ ls }) }

/-- The instruction cache of a core whose task, or whose bank, starts: lines of code published since are not kept (R84). -/
def CoreSt.freshCode (c : CoreSt) : CoreSt :=
  { c with icache := c.icache.filter (fun e => !c.istale.contains e.1.line), istale := [] }

/-- Lines that the context has cleaned become fetchable as code (R84). -/
def State.codePublish (s : State) : State :=
  match s.my.cleaned with
  | [] => s
  | ls => (s.setMy { s.my with cleaned := [] }).staleLines ls

/-! ### Fences -/

/-- Side-log entries that a fence's scope covers have replayed, and the context's accesses are performed (R139). -/
def State.fenceReady (s : State) (o : Order) (sc : Scope) : Bool :=
  !(s.flight.any fun f => f.ofCtx s.cur.core s.cur.ctx)
    && (o == .acq || (if sc = .ctx then s.me.slog.all fun e => e.ctx != s.cur.ctx else s.me.slog.isEmpty))

/-- FENCE (R139); every fence discards what generators read ahead (R130). -/
def execFence (o : Order) (sc : Scope) (g : Reg3) (s : State) : Host.Outcome State Fault Refusal :=
  s.guarded g 1 (do
    if o = .sc ∧ s.me.skewed = false ∧ s.fenceReady o sc = false then .error .order
    else if !s.fenceReady o sc then .error (.hold none)
    else
      let t ← if o = .sc then s.scGate else .ok s
      let t := if o ≠ .acq ∧ (sc = .device ∨ sc = .system) then t.codePublish else t
      .ok (t.discardAhead.advance 1))

/-! ### Entry consistency -/

/-- The regions that an object binds: base and length (R137). -/
def boundRegions (bs : List Byte) : List (Nat × Nat) :=
  (List.range (bits (wordAt bs 8) 0 2)).map fun j => (bits (wordAt bs (16 + 16 * j)) 0 56, bits (wordAt bs (24 + 16 * j)) 0 40)

/-- Reserved bits of an object's header or of a bound slot (R137, R138). -/
def objectBad (bs : List Byte) : Bool :=
  bits (wordAt bs 8) 2 62 != 0
    || (List.range (bits (wordAt bs 8) 0 2)).any fun j =>
        bits (wordAt bs (16 + 16 * j)) 56 8 != 0 || bits (wordAt bs (24 + 16 * j)) 40 24 != 0

/-- The object of ACQ and REL, checked (R138): its bytes, its place and the state. The spec does not say how an ACQ, which needs W
and writes nothing, is reported: it marks D and has EINFO.WRITE = 1 as REL has, and its fault record is of KIND 3 (log 78). -/
def readObject (s : State) (a : Reg5) : Except Stop (List Byte × List Loc × State) :=
  let va := s.getG a
  let items : List Item := [⟨0, va, va, 64, 64⟩]
  s.keeping .glob .rmw items (do
    let (locs, t) ← s.check .glob .rmw { write := true } items
    holdIfAbsent 3 locs
    t.clearOf locs
    t.consume 0 locs
    let bs := (locs.map t.locBytes).flatten
    firstBad (boundRegions bs) fun r =>
      if 2 ^ 56 < r.1 + r.2 then some (.trap cIllegalAddress va ({ write := true } : AddrInfo).word) else none
    if objectBad bs then .error reservedAtExec else .ok (bs, locs, t))

/-- ACQ (R138): later loads see the bound bytes; nothing that was read ahead is kept. -/
def execAcq (a : Reg5) (g : Reg3) (s : State) : Host.Outcome State Fault Refusal :=
  s.guarded g 1 (do
    let (_, _, t) ← readObject s a
    .ok (t.discardAhead.advance 1))

/-- A write of the context to a bound region is not yet performed (R138). -/
def State.boundPending (s : State) (rs : List (Nat × Nat)) : Bool :=
  rs.any fun r =>
    s.me.slog.any (fun e => e.ctx == s.cur.ctx && e.holds r.1 r.2)
      || s.flight.any (fun f => match f with
        | .mem c k va _ _ op _ _ => c == s.cur.core && k == s.cur.ctx && overlap va op.size r.1 r.2
        | _ => false)

/-- REL: SEQ rises by 1 once the context's writes to the bound regions are performed; region-closing (R138). -/
def execRel (a : Reg5) (g : Reg3) (s : State) : Host.Outcome State Fault Refusal :=
  s.guarded g 1 (do
    let (bs, locs, t) ← readObject s a
    if t.boundPending (boundRegions bs) then .error (.hold none)
    else .ok ((t.writeLocs (locs.map fun l => (l, leBytes 8 ((wordAt bs 0) + 1).toNat))).sent 1))

/-! ### Cache control (R140) -/

/-- The 256-byte line that holds an address. -/
def lineOf (va : Word) : Word := BitVec.ofNat 64 (va.toNat / 256 * 256)

/-- PREF has no visible effect and no fault (R140). -/
def execPref (_a : Reg5) (off : Option Word) (g : Reg3) (s : State) : Host.Outcome State Fault Refusal :=
  s.done g (1 + litWords off) s

/-- CLEAN (R140): an absent or unreadable page does nothing; while no fill is made for the core it waits (R283). On a reflex core, whose
places no L2 holds, it only makes the line fetchable as code (R84, log 48). -/
def execClean (a : Reg5) (off : Option Word) (g : Reg3) (s : State) : Host.Outcome State Fault Refusal :=
  let va := s.effective a (off.getD 0)
  let len := 1 + litWords off
  s.guarded g len (
    if bits va 56 8 ≠ 0 then .error (.trap cIllegalAddress va 0)
    else if s.reflex then match s.segXlate .hint va.toNat 1 with
      | .place p => .ok ((s.codeClean p).advance len)
      | _ => .ok (s.advance len)
    else match s.xlateCore .load va.toNat with
      | (.place (.dram pa) _, t) => .ok (((t.cleanLine pa).codeClean (.dram pa)).advance len)
      | (.skewed, _) => .error (.hold none)
      | (_, t) => .ok (t.advance len))

/-- A frame of the PCI Express window, where atomics, MXRED and CZERO raise ILLEGAL_ADDRESS (R268). -/
def noWindow (inf : AddrInfo) (locs : List Loc) : Except Stop Unit :=
  firstBad locs fun l => match l.place with
    | some (.host _) => some (l.item.trap cIllegalAddress inf)
    | some (.peer _) => some (l.item.trap cIllegalAddress inf)
    | _ => none

/-- CZERO: a relaxed 256-byte store of zeros; on an absent page, two side-log entries (R140). -/
def execCzero (a : Reg5) (off : Option Word) (g : Reg3) (s : State) : Host.Outcome State Fault Refusal :=
  let va := s.effective a (off.getD 0)
  let len := 1 + litWords off
  let items : List Item := [⟨0, lineOf va, lineOf va, 128, 1⟩, ⟨0, lineOf va, lineOf va + 128, 128, 1⟩]
  s.guarded g len (s.keeping .glob .store items (do
    let (locs, t) ← s.check .glob .store { write := true } items
    noWindow { write := true } locs
    let t ← t.storeLocs (locs.map fun l => (l, List.replicate 128 0)) none .zero
    .ok (t.advance len)))

end Sys2Proof.Machine
end

