-- ==== Sys2Proof/Machine/Atomics.lean ====
section
/-! DEFINITION. Atomics (R132-R136), and the events of accesses in flight: requests at their home slices (R267, R279),
responses (R250), and accesses at core-memory banks (R266). -/

namespace Sys2Proof.Machine

/-- The new value of an AMO on a word of n bytes (R132); FADD rounds with RNE and sets no flag (R68, R69). -/
def amoNew (op : AmoOp) (n : Nat) (old b : Nat) : Nat :=
  let w := 8 * n
  let sold := (BitVec.ofNat w old).toInt
  let sb := (BitVec.ofNat w b).toInt
  match op with
  | .add => (old + b) % 2 ^ w
  | .and => old &&& b
  | .or => old ||| b
  | .xor => old ^^^ b
  | .min => if sold ≤ sb then old else b
  | .max => if sold ≤ sb then b else old
  | .minu => if old ≤ b then old else b
  | .maxu => if old ≤ b then b else old
  | .swap => b
  | .fadd => (fFP32.add 0 old b).1

/-- Bytes of an atomic's word (R132). -/
def atomicBytes (w : Bool) : Nat := if w then 8 else 4

/-- The operand gb[n-1:0] (R132). -/
def lowBits (v : Word) (n : Nat) : Nat := v.toNat % 2 ^ (8 * n)

/-- A reduction: an AMO whose old value is discarded, relaxed (R143). -/
def isReduction (d : Nat) (o : Order) : Bool := d == 0 && o == .rlx

/-- The checks of an atomic's word, and the wait for the context's earlier accesses to it (R121, R252, R268). -/
def atomicCheck (s : State) (sp : Space) (va : Word) (n : Nat) : Except Stop (List Loc × State) := do
  let (locs, t) ← s.check sp .rmw { write := true } (oneItem va n)
  noWindow { write := true } locs
  t.clearOf locs
  .ok (locs, t)

/-- The located word of an atomic, where it has a place. -/
def wordPlace (locs : List Loc) : Option (Place × Nat) :=
  match locs with
  | [l] => l.place.map fun p => (p, l.expiry)
  | _ => none

/-- An atomic on its word: sent, where it is an SC operation that is not performed at issue, or what performs it (R134, R257). -/
def State.sendAtomic (t : State) (ord : Order) (locs : List Loc) (act : Place → Nat → ScAct) (perform : Except Stop State) :
    Except Stop State :=
  match t.sendsSc ord, wordPlace locs with
  | true, some (p, e) => .ok (t.discardAhead.sendSc (act p e) 1)
  | _, _ => perform

/-- AMO on a word (R132-R134): region-closing; a reduction on an absent page enters the side log (R143), and one that is not
performed at issue goes into flight; every other AMO is performed where it is issued (log 5), or sent, as an SC operation. -/
def amoAt (s : State) (sp : Space) (va : Word) (d b : Reg5) (op : AmoOp) (o : Order) (w : Bool) : Except Stop State :=
  let n := atomicBytes w
  s.keeping sp .rmw (oneItem va n) (do
    let (locs, t) ← atomicCheck s sp va n
    let bv := lowBits (s.getG b) n
    let reduction := isReduction d.toNat o
    if reduction && locs.any (fun l => l.place.isNone) then do
      let t ← t.enterLog [logEntryOf va.toNat (leBytes n bv) (.amo op n) s.me.vf s.cur.ctx]
      .ok (t.sent 1)
    else do
      holdIfAbsent 3 locs
      t.consume 0 locs
      t.sendAtomic o locs (fun p e => .amo va p e op n d.toNat bv) (do
        let t ← t.gate o
        if reduction && s.defers sp o then
          let fl := locs.filterMap fun l => t.request l (.amo op n (BitVec.ofNat 64 bv))
          .ok ((t.fly fl).sent 1)
        else
          let old := leNat ((locs.map t.locBytes).flatten)
          let t := t.writeLocs (locs.map fun l => (l, leBytes n (amoNew op n old bv)))
          .ok (((t.acquired o).setG d (BitVec.ofNat 64 old)).sent 1)))

/-- The order that a CAS acts with: its own when it succeeds, the failure order else (R133). -/
def casOrder (f : CasFail) (o : Order) (hit : Bool) : Order :=
  if hit then o else match f with
    | .rlx => .rlx
    | .acq => .acq
    | .sc => .sc

/-- The word that a CAS finds, with its locations and the translated state (R132). -/
def casRead (s : State) (sp : Space) (va : Word) (n : Nat) : Except Stop (Nat × List Loc × State) := do
  let (locs, t) ← atomicCheck s sp va n
  holdIfAbsent 3 locs
  t.consume 0 locs
  .ok (leNat ((locs.map t.locBytes).flatten), locs, t)

/-- CAS on a word (R132-R134); a failed CAS makes no write. One that what it finds at its issue makes an SC operation is sent, and
finds its word afresh when it completes (R257, R259, log 41). -/
def casAt (s : State) (sp : Space) (va : Word) (d b : Reg5) (f : CasFail) (o : Order) (w : Bool) : Except Stop State :=
  let n := atomicBytes w
  s.keeping sp .rmw (oneItem va n) (do
    let (old, locs, t) ← casRead s sp va n
    let hit := old == lowBits (s.getG d) n
    let ord := casOrder f o hit
    t.sendAtomic ord locs (fun p e => .cas va p e n d.toNat (lowBits (s.getG d) n) (lowBits (s.getG b) n)) (do
      let t ← t.gate ord
      let t := if hit then t.writeLocs (locs.map fun l => (l, leBytes n (lowBits (s.getG b) n))) else t
      .ok (((t.acquired ord).setG d (BitVec.ofNat 64 old)).sent 1)))

/-- AMO, global (R132). -/
def execAmo (d a b : Reg5) (op : AmoOp) (o : Order) (w : Bool) (s : State) : Host.Outcome State Fault Refusal :=
  s.run (amoAt s .glob (s.getG a) d b op o w)

/-- CAS, global (R132). -/
def execCas (d a b : Reg5) (f : CasFail) (o : Order) (w : Bool) (s : State) : Host.Outcome State Fault Refusal :=
  s.run (casAt s .glob (s.getG a) d b f o w)

/-- The address of the core-local and pointer forms (R132). -/
def localAddr (s : State) (a : Reg5) (p : Bool) : Word := if p then s.getA (a.extractLsb' 0 3) else s.getG a

def localSpace (p : Bool) : Space := if p then .dist else .loc

/-- AMO in core memory: by offset, or through a pointer (R132). -/
def execAmoLocal (d a b : Reg5) (op : AmoOp) (o : Order) (w p : Bool) (s : State) : Host.Outcome State Fault Refusal :=
  s.run (amoAt s (localSpace p) (localAddr s a p) d b op o w)

/-- CAS in core memory (R132). -/
def execCasLocal (d a b : Reg5) (f : CasFail) (o : Order) (w p : Bool) (s : State) : Host.Outcome State Fault Refusal :=
  s.run (casAt s (localSpace p) (localAddr s a p) d b f o w)

/-! ### Forwarded atomics (R135) -/

/-- One more arrival in a barrier cell: the 64-bit word at bytes 8-15 (R135, R222). -/
def State.arriveCell (s : State) (core off : Nat) : State :=
  s.putCore core (off + 8) (leBytes 8 (s.numAt (.core (s.pairHead core) (off + 8)) 8 + 1))

/-- An AMOF at its word: the operation, then the old value and one arrival in the cell (R135). -/
def State.amofPerform (s : State) (target off : Nat) (op : AmoOp) (n : Nat) (b : Nat) (dst dstOff : Nat) : State :=
  let old := s.numAt (.core (s.pairHead target) off) n
  let s := s.putCore target off (leBytes n (amoNew op n old b))
  (s.putCore dst dstOff (leBytes 8 old)).arriveCell dst dstOff

/-- The core and offset of a located piece. -/
def Loc.bank (l : Loc) : Nat × Nat :=
  match l.place with
  | some (.core n o) => (n, o)
  | _ => (0, 0)

/-- AMOF (R135): no REMOTE_IN_COMPUTE; region-closing (R134). It is performed at issue where nothing of its context is left to
perform, since its forwarding writes are a release, and sets out otherwise; an SC one takes its place in S and is performed
there. -/
def execAmof (d a : Reg3) (b : Reg5) (op : AmoOp) (o : Order) (w : Bool) (s : State) : Host.Outcome State Fault Refusal :=
  let n := atomicBytes w
  s.run (do
    let (locs, t) ← s.checkDist { write := true } [⟨0, s.getA a, s.getA a, n, n⟩, ⟨0, s.getA d, s.getA d, 16, 16⟩] true
    let bv := lowBits (s.getG b) n
    let (c, off) := ((locs.getD 0 ⟨⟨0, 0, 0, 0, 1⟩, none, 0⟩).bank)
    let (dc, doff) := ((locs.getD 1 ⟨⟨0, 0, 0, 0, 1⟩, none, 0⟩).bank)
    t.consume 0 [⟨⟨0, s.getA a, s.getA a, n, n⟩, some (s.readPlace (.core c off)), 0⟩]
    if t.sendsSc o then .ok (t.discardAhead.sendSc (.amof c off op n bv dc doff) 1)
    else do
      let t ← t.gate o
      .ok ((if (s.eager ∧ s.performed) ∨ o = .sc then (t.acquired o).amofPerform c off op n bv dc doff
        else t.fly [.amof s.cur.core s.cur.ctx c off op n (BitVec.ofNat 64 bv) dc doff (Order.acquires o)]).sent 1))

/-! ### Accesses in flight -/

/-- The nth thing in flight taken away. -/
def State.unfly (s : State) (n : Nat) : State := { s with flight := s.flight.eraseIdx n }

/-- The nth thing in flight replaced. -/
def State.refly (s : State) (n : Nat) (f : Flight) : State := { s with flight := s.flight.set n f }

/-- An earlier access of the same context to a common location is in flight: it comes first (R251, R252). -/
def State.earlierFlight (s : State) (n : Nat) : Bool :=
  match s.flight[n]? with
  | some f => (s.flight.take n).any fun g => g.owner == f.owner && f.touches.any fun e => g.meets e.1 e.2
  | none => false

/-- A request at its home slice, or at the host interface for the window: refused once its lease has lapsed, or while the
replica there is out of bound (R283), else performed (R267, R279). A load that the host interface has accepted crosses PCI
Express (R371). -/
def execMemoryRequestAtHome (n : Nat) (s : State) : Host.Outcome State Fault Refusal :=
  .next (match s.flight[n]? with
    | some (.mem c k va pa e op .travelling org) =>
      if s.earlierFlight n then s
      else if e ≤ s.now ∨ s.homeSkewed pa = true then s.refly n (.mem c k va pa e op .refused org)
      else
        let p := placeOf pa
        match op with
        | .load d m sg =>
          if s.poisonedIn p m then
            { (s.at c k).consumePoison (s.storeOf p) (BitVec.ofNat 64 p.addr) 0 [k] (some (BitVec.ofNat 64 va)) with cur := s.cur }
          else s.refly n (if inWindow pa then .pcieRead c k va pa e d m sg org
            else .mem c k va pa e op (.answered (extend sg m (s.numAt p m))) org)
        | .store m v => (s.setBytes p (leBytes m v.toNat)).unfly n
        | .amo aop m v => (s.setBytes p (leBytes m (amoNew aop m (s.numAt p m) v.toNat))).unfly n
    | _ => s)

/-- What a request needs of its page. -/
def MemOp.acc : MemOp → Acc
  | .load _ _ _ => .load
  | .store _ _ => .store
  | .amo _ _ _ => .rmw

/-- The side-log entry of a write that has retired (R143, R279). -/
def MemOp.entry (op : MemOp) (va vf ctx : Nat) : LogEntry :=
  match op with
  | .load _ _ _ => logEntryOf va [] .write vf ctx
  | .store m v => logEntryOf va (leBytes m v.toNat) .write vf ctx
  | .amo aop m v => logEntryOf va (leBytes m v.toNat) (.amo aop m) vf ctx

/-- An asynchronous cause made pending on a context (R144, R337). -/
def State.pendAsync (s : State) (core ctx : Nat) (a : Async) : State :=
  s.setCtxAt core ctx { s.ctxAt core ctx with async := (s.ctxAt core ctx).async ++ [a] }

/-- The asynchronous trap of a write that cannot be performed (R144, R279). -/
def slogCause (code : BitVec 8) (va : Nat) (pkind : BitVec 4) (malformed : Bool) : Async :=
  { code := code, eaddr := BitVec.ofNat 64 va,
    einfo := ({ write := true, slog := true, pkind := pkind, malformed := malformed } : AddrInfo).word }

/-- A load of a context that has not been performed: its instruction may still trap. -/
def Flight.unperformed (core ctx : Nat) : Flight → Bool
  | .mem c k _ _ _ (.load _ _ _) .travelling _ | .mem c k _ _ _ (.load _ _ _) .refused _ => c == core && k == ctx
  | _ => false

/-- A context goes back to the load n that its fresh translation does not let through: no later instruction but loads has issued
(log 53), so the load and those after it leave the flight, and the load issues again, which gives its hold or its trap at the
instruction (R279). -/
def State.reissueLoad (s : State) (n c k : Nat) (org : Origin) : State :=
  let x := { s.ctxAt c k with pc := org.pc, run := .running, holdPage := none, place := none }
  let s := s.setCtxAt c k (x.setReplay org.replay)
  { s with flight := s.flight.take n ++ (s.flight.drop n).filter fun f => (f.loadFor c k).isNone }

/-- Bytes of a refused request lie in the core's side log: a load waits for their replay (R145), a write for that of its context's
entries, which come before it (R167, R251). -/
def State.loggedBefore (s : State) (c k vf va : Nat) (op : MemOp) : Bool :=
  (s.core c).slog.any fun e => e.vf == vf && (op.acc == .load || e.ctx == k) && e.holds va op.size

/-- A refused request is translated afresh, under its own tag, and issued again (R31, R279). A load that is not let through goes
back to its instruction. A write on an absent page enters the side log where it has room; one that is refused is discarded with
an asynchronous trap, and so is a reduction whose fresh leaf maps the window (R268, log 53). -/
def execRefusedRequestReissue (n : Nat) (s : State) : Host.Outcome State Fault Refusal :=
  .next (match s.flight[n]? with
    | some (.mem c k va _ _ op .refused org) =>
      let cur := s.cur
      let (x, t) := (s.at c k).xlateFor { (s.at c k).asker with vf := org.vf } op.acc va
      let t := { t with cur := cur }
      let load := op.acc == .load
      let stop (code : BitVec 8) (pk : BitVec 4) (m : Bool) : State :=
        if load then s.reissueLoad n c k org else (s.unfly n).pendAsync c k (slogCause code va pk m)
      match x with
      | .place p e =>
        if s.loggedBefore c k org.vf va op then s
        else if op.acc = .rmw ∧ inWindow p.addr = true then (t.unfly n).pendAsync c k (slogCause cIllegalAddress va 0 false)
        else t.refly n (.mem c k va p.addr e op .travelling org)
      | .invalid => stop cLoadFault 0 false
      | .noRoot => stop cLoadFault 0 false
      | .malformed => stop cLoadFault 0 true
      | .refused pk => stop cProtection pk false
      | .skewed => s
      | .absent =>
        if load then s.reissueLoad n c k org
        else if 64 ≤ (s.core c).slog.length then s
        else
          let u := s.unfly n
          (u.setCore c { u.core c with slog := (u.core c).slog ++ [op.entry va org.vf k] }).postFault c org.vf (va / 65536 * 65536) 1 k
    | _ => s)

/-- The answer of a load reaches its context, after those of the loads before it (R250). -/
def execAccessResponse (n : Nat) (s : State) : Host.Outcome State Fault Refusal :=
  .next (match s.flight[n]? with
    | some (.mem c k _ _ _ (.load d _ _) (.answered v) _) =>
      if (s.flight.take n).any (·.unperformed c k) then s else (s.unfly n).deliver c k d v false
    | _ => s)

/-- A distributed access is served at its bank, after the context's earlier ones to the same bytes (R252, R266). -/
def execRemoteCoreMemoryAccess (n : Nat) (s : State) : Host.Outcome State Fault Refusal :=
  .next (match s.flight[n]? with
    | some (.remote _ _ t off bs) => if s.earlierFlight n then s else (s.unfly n).putCore t off bs
    | _ => s)

/-- t, the state in which an access of a context that read n bytes at a place of s is over: poison that it read is consumed (R342). -/
def State.readBy (t s : State) (core ctx : Nat) (q : Place) (n : Nat) : State :=
  if s.poisonedIn q n then
    { (t.at core ctx).consumePoison (s.storeOf q) (BitVec.ofNat 64 q.addr) 0 [ctx] with cur := s.cur }
  else t

/-- An AMOF reaches its word and cell, once the accesses before it are performed: its forwarding writes carry release order
(R135). An acquiring one then lets its context go on, with nothing read ahead (R130); poison in its word is consumed (R342). -/
def execAmofArrival (n : Nat) (s : State) : Host.Outcome State Fault Refusal :=
  .next (match s.flight[n]? with
    | some (.amof c k t off op m v dc doff acq) =>
      if !s.releaseDone n c k then s
      else
        let u := (s.unfly n).amofPerform t off op m v.toNat dc doff
        let u := if acq then u.setCtxAt c k { u.ctxAt c k with streams := dropAhead (u.ctxAt c k).streams } else u
        u.readBy s c k (s.readPlace (.core t off)) m
    | _ => s)

/-- A read through the PCI Express window returns, after the loads before it (R371): it is performed then, so its lease must not have
lapsed by then; else it is refused and issued again (R279, R280). -/
def execPcieReadCompletion (n : Nat) (s : State) : Host.Outcome State Fault Refusal :=
  .next (match s.flight[n]? with
    | some (.pcieRead c k va a e d m sg org) =>
      if (s.flight.take n).any (·.unperformed c k) then s
      else if e ≤ s.now ∨ s.homeSkewed a = true then s.refly n (.mem c k va a e (.load d m sg) .refused org)
      else (s.unfly n).deliver c k d (extend sg m (s.numAt (placeOf a) m)) false
    | _ => s)

/-- The SC operation that is first in S among those announced (R258). -/
def firstSc (l : List ScOp) (o : ScOp) : Bool := l.all fun p => p == o || o.before p

/-- The operation in S whose store is a side-log entry of a core comes before o. -/
def State.scEntryBefore (s : State) (o : ScOp) (e : LogEntry) : Bool :=
  e.sc && s.sc.any fun p => p.core == o.core && p.ctx == e.ctx && p.act == .logged && p.before o

/-- A reset of a function is in progress (R347). -/
def State.closing (s : State) (vf : Nat) : Bool := s.resets.any fun r => r.vf == vf

/-- The accesses before an SC operation are performed, with the side-log entries of its core that came before it (R145, R259): those
that entered behind the store of this operation, or of a later one, came after it. A reset of its function discards the entries and
has it complete (R348). -/
def State.scPerformed (s : State) (o : ScOp) : Bool :=
  (s.closing o.vf || ((s.core o.core).slog.takeWhile fun e => !e.sc || s.scEntryBefore o e).isEmpty) && !(s.flight.any fun f => f.ofCtx o.core o.ctx)

/-- A sent operation n of S is over (R259): its context has its value, also in the registers of its restart point, keeps nothing that
was read ahead, and goes on. -/
def State.scFinish (s : State) (n : Nat) (o : ScOp) (d : Nat) (v : Word) : State :=
  let s := ({ s with sc := s.sc.eraseIdx n } : State).deliver o.core o.ctx d v true
  let x := s.ctxAt o.core o.ctx
  s.setCtxAt o.core o.ctx { x with streams := dropAhead x.streams, run := if x.run = .holding then .running else x.run, holdPage := none }

/-- A sent atomic at its word: its old value gives the new one, or none; poison that it delivers is consumed (R342). -/
def State.scWord (s : State) (n : Nat) (o : ScOp) (p : Place) (size d : Nat) (new : Nat → Option Nat) : State :=
  let q := s.readPlace p
  let old := s.numAt q size
  let t := match new old with
    | some v => (match p with
      | .core c off => s.putCore c off (leBytes size v)
      | p => s.setBytes p (leBytes size v))
    | none => s
  (t.scFinish n o d (BitVec.ofNat 64 old)).readBy s o.core o.ctx q size

/-- A sent atomic whose lease has lapsed is translated afresh (R279): it is performed next, waits for an absent page (R141), or, its
instruction being over, is discarded with an asynchronous trap (R144). -/
def State.scTranslate (s : State) (n : Nat) (o : ScOp) (va : Word) (act : Place → Nat → ScAct) : State :=
  let cur := s.cur
  let (x, t) := (s.at o.core o.ctx).xlateFor { (s.at o.core o.ctx).asker with vf := o.vf } .rmw va.toNat
  let t := { t with cur := cur }
  let gone (t : State) (code : BitVec 8) (pk : BitVec 4) (m : Bool) : State :=
    (t.scFinish n o 0 0).pendAsync o.core o.ctx (slogCause code va.toNat pk m)
  match x with
  | .place p e => if inWindow p.addr then gone t cIllegalAddress 0 false else { t with sc := t.sc.set n { o with act := act p e } }
  | .absent =>
    if (s.ctxAt o.core o.ctx).invalidAt == some (va.toNat / 65536 * 65536) then gone s cLoadFault 0 false
    else { (s.at o.core o.ctx).holdOn (some (va.toNat / 65536 * 65536, 3)) with cur := cur }
  | .invalid | .noRoot => gone s cLoadFault 0 false
  | .malformed => gone s cLoadFault 0 true
  | .refused pk => gone s cProtection pk false
  | .skewed => s

/-- A sent operation in global memory goes ahead with perform where its lease holds; a reset of its function lets it complete
before the drain ends (R261, R279, R348). -/
def State.scLeased (s : State) (n : Nat) (o : ScOp) (va : Word) (p : Place) (e : Nat) (act : Place → Nat → ScAct) (perform : State) :
    State :=
  if !p.travels then perform
  else if s.homeSkewed p.addr then s
  else if decide (e ≤ s.now) && !s.closing o.vf then s.scTranslate n o va act
  else perform

/-- A sent operation completes (R134, R259). -/
def State.scPerform (s : State) (n : Nat) (o : ScOp) : State :=
  match o.act with
  | .issue | .logged => { s with sc := s.sc.set n { o with ready := true } }
  | .amo va p e op size d b => s.scLeased n o va p e (fun p e => .amo va p e op size d b)
      (s.scWord n o p size d fun old => some (amoNew op size old b))
  | .cas va p e size d cmp new => s.scLeased n o va p e (fun p e => .cas va p e size d cmp new)
      (s.scWord n o p size d fun old => if old = cmp then some new else none)
  | .amof c off op size b dst dstOff =>
    ((s.amofPerform c off op size b dst dstOff).scFinish n o 0 0).readBy s o.core o.ctx (s.readPlace (.core c off)) size
  | .store c off bs => (s.putCore c off bs).scFinish n o 0 0

/-- An SC operation completes when the accesses before it are performed, it is first in S, and its replica has reached window
w + 3 (R259): a sent one is performed then, a logged store at its entry's replay, any other at the next issue of its context. -/
def execScOperationComplete (n : Nat) (s : State) : Host.Outcome State Fault Refusal :=
  .next (match s.sc[n]? with
    | some o =>
      if firstSc s.sc o && decide ((o.window + 3) * 16 ≤ s.replica o.core) && s.scPerformed o then s.scPerform n o else s
    | none => s)

end Sys2Proof.Machine
end

