-- ==== Sys2Proof/Machine/Geometry.lean ====
section
/-! DEFINITION. Exact geometry (R186-R199). Every quantity is an exact polynomial in the infinitesimal of R197; without
tie-breaking it has its constant term only, and its sign is that of its lowest term. -/

namespace Sys2Proof.Machine

/-! ### Polynomials in the infinitesimal -/

/-- Coefficients by exponent; no entry is zero. -/
abbrev Poly := Tab Int

/-- c * x^k added. -/
def Poly.addTerm (p : Poly) (k : Nat) (c : Int) : Poly := tset 0 p k (tget 0 p k + c)

def polyConst (c : Int) : Poly := Poly.addTerm [] 0 c
def polyAdd (p q : Poly) : Poly := q.foldl (fun p t => Poly.addTerm p t.1 t.2) p
def polyNeg (p : Poly) : Poly := p.map fun t => (t.1, -t.2)
def polySub (p q : Poly) : Poly := polyAdd p (polyNeg q)
def polyMul (p q : Poly) : Poly := p.foldl (fun r a => q.foldl (fun r b => Poly.addTerm r (a.1 + b.1) (a.2 * b.2)) r) []

/-- The sign of the lowest term (R197): +1, 0 or -1. -/
def polySign : Poly → Int
  | [] => 0
  | (_, c) :: _ => c.sign

/-- A determinant of n rows by its first column. -/
def polyDet : Nat → List (List Poly) → Poly
  | 0, _ => polyConst 1
  | n + 1, rows => (List.range (n + 1)).foldl (fun acc i =>
      let m := polyMul ((rows.getD i []).headD []) (polyDet n ((rows.eraseIdx i).map List.tail))
      if i % 2 = 0 then polyAdd acc m else polySub acc m) []

/-! ### The determinant predicates (R190) -/

/-- A point: its coordinates. -/
abbrev Point := List Poly

def pointSub (p q : Point) : Point := (p.zip q).map fun e => polySub e.1 e.2

/-- The exact sum of the squared coordinates. -/
def normSq (p : Point) : Poly := p.foldl (fun acc c => polyAdd acc (polyMul c c)) []

/-- The sign of the determinant of the differences to the last point, with the squared norms as a last column when lifted. -/
def orient (lift : Bool) (pts : List Point) : Int :=
  let last := pts.getLastD []
  let rows := pts.dropLast.map fun p => let d := pointSub p last; if lift then d ++ [normSq d] else d
  polySign (polyDet rows.length rows)

/-! ### Segments and triangles (R191, R192) -/

/-- The value of an unperturbed coordinate. -/
def coord (p : Point) (k : Nat) : Int := tget 0 (p.getD k []) 0

/-- A point lies in the box of two others, in every coordinate. -/
def inBox (p a b : Point) : Bool :=
  (List.range p.length).all fun k =>
    (decide (coord a k ≤ coord p k) && decide (coord p k ≤ coord b k)) || (decide (coord b k ≤ coord p k) && decide (coord p k ≤ coord a k))

/-- A point of the plane lies on a closed segment. -/
def onSegment (p a b : Point) : Bool := orient false [a, b, p] == 0 && inBox p a b

/-- Two segments cross at one interior point, by the four orientations (R191). -/
def crosses (o1 o2 o3 o4 : Int) : Bool := decide (o1 * o2 < 0) && decide (o3 * o4 < 0)

/-- Two closed segments of the plane have a common point. -/
def segmentsMeet (p1 p2 q1 q2 : Point) : Bool :=
  crosses (orient false [p1, p2, q1]) (orient false [p1, p2, q2]) (orient false [q1, q2, p1]) (orient false [q1, q2, p2])
    || onSegment q1 p1 p2 || onSegment q2 p1 p2 || onSegment p1 q1 q2 || onSegment p2 q1 q2

/-- A point of space without coordinate k. -/
def project (k : Nat) (p : Point) : Point := p.eraseIdx k

/-- Two closed segments of space have a common point: they are coplanar and meet in every projection. -/
def segmentsMeet3 (p1 p2 q1 q2 : Point) : Bool :=
  orient false [p1, p2, q1, q2] == 0
    && [0, 1, 2].all fun k => segmentsMeet (project k p1) (project k p2) (project k q1) (project k q2)

/-- Three signs agree, zeros apart. -/
def sameSide (a b c : Int) : Bool :=
  (decide (0 ≤ a) && decide (0 ≤ b) && decide (0 ≤ c)) || (decide (a ≤ 0) && decide (b ≤ 0) && decide (c ≤ 0))

/-- A point of the plane lies in a closed triangle that is not degenerate. -/
def inTriangle (p t1 t2 t3 : Point) : Bool :=
  sameSide (orient false [t1, t2, p]) (orient false [t2, t3, p]) (orient false [t3, t1, p])

/-- A closed segment and a closed triangle of the plane have a common point. -/
def segmentMeetsTriangle (p1 p2 t1 t2 t3 : Point) : Bool :=
  inTriangle p1 t1 t2 t3 || inTriangle p2 t1 t2 t3 || segmentsMeet p1 p2 t1 t2 || segmentsMeet p1 p2 t2 t3 || segmentsMeet p1 p2 t3 t1

/-- A closed segment and a closed triangle of space have a common point (R192). -/
def meetsTriangle (s1 s2 e1 e2 e3 : Int) (p1 p2 t1 t2 t3 : Point) : Bool :=
  if s1 ≠ 0 ∨ s2 ≠ 0 then decide (s1 * s2 ≤ 0) && sameSide e1 e2 e3
  else match [0, 1, 2].find? fun k => orient false [project k t1, project k t2, project k t3] != 0 with
    | some k => segmentMeetsTriangle (project k p1) (project k p2) (project k t1) (project k t2) (project k t3)
    | none => segmentsMeet3 p1 p2 t1 t2 || segmentsMeet3 p1 p2 t2 t3 || segmentsMeet3 p1 p2 t3 t1

/-- GSEGX (R191, R197). -/
def segx (tb : Bool) (pts : List Point) : Int :=
  match pts with
  | [p1, p2, q1, q2] =>
    if crosses (orient false [p1, p2, q1]) (orient false [p1, p2, q2]) (orient false [q1, q2, p1]) (orient false [q1, q2, p2]) then 1
    else if tb then -1
    else if segmentsMeet p1 p2 q1 q2 then 0 else -1
  | _ => 0

/-- GSEGT (R192, R197). -/
def segt (tb : Bool) (pts : List Point) : Int :=
  match pts with
  | [p1, p2, t1, t2, t3] =>
    let s1 := orient false [t1, t2, t3, p1]
    let s2 := orient false [t1, t2, t3, p2]
    let e1 := orient false [p1, p2, t1, t2]
    let e2 := orient false [p1, p2, t2, t3]
    let e3 := orient false [p1, p2, t3, t1]
    if s1 * s2 < 0 ∧ e1 = e2 ∧ e2 = e3 ∧ e1 ≠ 0 then 1
    else if tb then -1
    else if meetsTriangle s1 s2 e1 e2 e3 p1 p2 t1 t2 t3 then 0 else -1
  | _ => 0

/-! ### Lanes (R188, R189, R196-R198) -/

/-- What an instruction decides: dimension, number of points, and the decision with its TB. -/
structure GeoOp where
  dim : Nat
  points : Nat
  decide : Bool → List Point → Int

def geoOri2 : GeoOp := { dim := 2, points := 3, decide := fun _ => orient false }
def geoOri3 : GeoOp := { dim := 3, points := 4, decide := fun _ => orient false }
def geoIncir : GeoOp := { dim := 2, points := 4, decide := fun _ => orient true }
def geoInsph : GeoOp := { dim := 3, points := 5, decide := fun _ => orient true }
def geoSegx : GeoOp := { dim := 2, points := 4, decide := segx }
def geoSegt : GeoOp := { dim := 3, points := 5, decide := segt }

/-- Registers of the coordinate group (R188). -/
def GeoOp.group (o : GeoOp) : Nat := o.dim * o.points

/-- The format of the lanes (R186, R188). -/
def geoFmt (dbl : Bool) : FpFmt := if dbl then fFP64 else fFP32

def geoBytes (dbl : Bool) : Nat := if dbl then 8 else 4

/-- The coordinates of lane i in group order. -/
def geoCoords (s : State) (o : GeoOp) (dbl : Bool) (a : Reg5) (i : Nat) : List Fp :=
  (List.range o.group).map fun k => (geoFmt dbl).dec (laneNat (s.my.getV (a.toNat + k)) (geoBytes dbl) i)

/-- A number is finite. -/
def Fp.isFinite : Fp → Bool
  | .fin _ _ _ => true
  | _ => false

/-- The smallest exponent of finite numbers. -/
def minExp (l : List Fp) : Int :=
  l.foldl (fun acc x => match x with
    | .fin _ m e => if m ≠ 0 ∧ e < acc then e else acc
    | _ => acc) 0

/-- Finite numbers as integers over one power of two, and the number one over it. -/
def scaled (l : List Fp) : Int × List Int :=
  let q := minExp l
  (((2 ^ (-q).toNat : Nat) : Int), l.map fun x => match x with
    | .fin n m e => let v : Int := (m * 2 ^ (e - q).toNat : Nat); if m = 0 then 0 else if n then -v else v
    | _ => 0)

/-- Key of point j of lane i (R196). -/
def geoKey (dbl : Bool) (lane j : Nat) : Nat := if dbl then lane / 2 ^ (12 * j) % 2 ^ 12 else lane / 2 ^ (6 * j) % 2 ^ 6

/-- Ranks of the points: by ascending key, equal keys by position (R196). -/
def geoRank (keys : List Nat) (j : Nat) : Nat :=
  ((List.range keys.length).filter fun k =>
    decide (keys.getD k 0 < keys.getD j 0) || (keys.getD k 0 == keys.getD j 0 && decide (k < j))).length

/-- The points of a lane, all times one number, perturbed by their ranks where keys are given (R197). -/
def geoPoints (o : GeoOp) (v : Int × List Int) (keys : Option (List Nat)) : List Point :=
  (List.range o.points).map fun p => (List.range o.dim).map fun j =>
    let c := polyConst (v.2.getD (p * o.dim + j) 0)
    match keys with
    | none => c
    | some ks => Poly.addTerm c (2 ^ (o.dim * geoRank ks p + o.dim - 1 - j)) v.1

/-- The result byte of a sign (R189). -/
def signByte (x : Int) : Nat := if x < 0 then 0xFF else if x = 0 then 0 else 1

/-- The result byte of lane i (R189, R198). -/
def geoLane (s : State) (o : GeoOp) (dbl : Bool) (a b : Reg5) (tb : Bool) (i : Nat) : Nat :=
  let l := geoCoords s o dbl a i
  if l.all Fp.isFinite then
    let lane := laneNat (s.getV b) (geoBytes dbl) i
    let keys := if tb then some ((List.range o.points).map (geoKey dbl lane)) else none
    signByte (o.decide tb (geoPoints o (scaled l) keys))
  else 0x80

/-- The lowest non-finite lane and its lowest non-finite register (R198). -/
def nonFinite (s : State) (o : GeoOp) (dbl : Bool) (a : Reg5) : Option (Nat × Nat) :=
  (List.range (128 / geoBytes dbl)).findSome? fun i =>
    (((geoCoords s o dbl a i).zipIdx).find? fun e => !e.1.isFinite).map fun e => (i, a.toNat + e.2)

/-- Every exact-geometry instruction (R187-R199): performed at issue, or pending in the unit until its completion. -/
def geoForm (o : GeoOp) (dbl : Bool) (d a b : Reg5) (tb nf : Bool) (g : Reg3) (s : State) : Host.Outcome State Fault Refusal :=
  s.guarded g 1 (do
    let named (r : Nat) : Bool := (decide (a.toNat ≤ r) && decide (r < a.toNat + o.group)) || (tb && r == b.toNat)
    let t ← s.pops ((List.range 32).filter named)
    let bad := nonFinite t o dbl a
    match bad, nf with
    | some (i, r), false => .error (.trap cGeomNonfinite 0 (BitVec.ofNat 64 (i * 256 + r)))
    | _, _ => do
      let v := ofLanes 1 ((List.range (128 / geoBytes dbl)).map (geoLane t o dbl a b tb))
      let u ← (t.raise { gnf := bad.isSome }).putV d.toNat v
      if s.eager then .ok (u.advance 1)
      else .ok ((t.setMe { t.me with egu := t.me.egu ++ [{ ctx := t.cur.ctx, d := d.toNat, v := v, gnf := bad.isSome }] }).advance 1))

/-- GORI2 (R190). -/
def execGori2 (dbl : Bool) (d a b : Reg5) (tb nf : Bool) (g : Reg3) (s : State) : Host.Outcome State Fault Refusal :=
  geoForm geoOri2 dbl d a b tb nf g s

/-- GORI3 (R190). -/
def execGori3 (dbl : Bool) (d a b : Reg5) (tb nf : Bool) (g : Reg3) (s : State) : Host.Outcome State Fault Refusal :=
  geoForm geoOri3 dbl d a b tb nf g s

/-- GINCIR (R190). -/
def execGincir (dbl : Bool) (d a b : Reg5) (tb nf : Bool) (g : Reg3) (s : State) : Host.Outcome State Fault Refusal :=
  geoForm geoIncir dbl d a b tb nf g s

/-- GINSPH (R190). -/
def execGinsph (dbl : Bool) (d a b : Reg5) (tb nf : Bool) (g : Reg3) (s : State) : Host.Outcome State Fault Refusal :=
  geoForm geoInsph dbl d a b tb nf g s

/-- GSEGX (R191). -/
def execGsegx (dbl : Bool) (d a b : Reg5) (tb nf : Bool) (g : Reg3) (s : State) : Host.Outcome State Fault Refusal :=
  geoForm geoSegx dbl d a b tb nf g s

/-- GSEGT (R192). -/
def execGsegt (dbl : Bool) (d a b : Reg5) (tb nf : Bool) (g : Reg3) (s : State) : Host.Outcome State Fault Refusal :=
  geoForm geoSegt dbl d a b tb nf g s

/-- What the two cores of a pair do not share: their memories. Requests leave, translated, from the first one only: the second follows its
TLBs and cache, so that the fills of the two never differ (R312, log 89). -/
def CoreSt.withOwn (a b : CoreSt) : CoreSt := { a with mem := b.mem, memBad := b.memBad, tbuf := b.tbuf, tbufBad := b.tbufBad }

/-- The second core of a pair after an instruction, from its copy of the execution: queues, timelines, side log, seizure, accepted table
and power are its own, and what is still to be delivered comes through the first one (R312). -/
def CoreSt.follows (b u : CoreSt) : CoreSt :=
  let capacc := b.sys.filter fun e => decide (0x140 ≤ e.1) && decide (e.1 < 0x148)
  { u with sys := capacc.foldl (fun t e => tset 0 t e.1 e.2) (terase u.sys 0x140 0x148),
           q0 := b.q0, q0Held := b.q0Held, q1 := b.q1, q2 := b.q2, q3 := b.q3, q3Ovf := b.q3Ovf, slog := b.slog, twe := b.twe, c9 := b.c9,
           c9Sent := b.c9Sent, seiz := b.seiz, seizPhase := b.seizPhase, seizTacc := b.seizTacc, seizTbeat := b.seizTbeat,
           seizSave := b.seizSave, seizResult := b.seizResult, seizStatus := b.seizStatus, seizPwr := b.seizPwr, seizTries := b.seizTries,
           egu := [], spe := [], fwBank := b.fwBank, fwPending := b.fwPending, pwr := b.pwr, pwrNext := b.pwrNext, reseeds := b.reseeds,
           draws := b.draws, skew := b.skew, skewed := b.skewed }

/-- The unit's oldest result p becomes visible: Vd and GNF together (R199). An append is performed now, after the context's earlier
accesses to its bytes and not after those that wait for it; none where its page has gone. -/
def State.eguLands (s : State) (core : Nat) (p : Pending) (ps : List Pending) : Option State :=
  match (((s.setCore core { s.core core with egu := [] }).at core p.ctx).raise { gnf := p.gnf }).putV p.d p.v with
  | .ok u => some { u.setCore core { u.core core with egu := ps } with cur := s.cur }
  | .error _ => none

/-- The unit's oldest result becomes visible, or waits (R199). In a pair each core performs an append in its own memory (R312). -/
def execEguCompletion (core : Nat) (s : State) : Host.Outcome State Fault Refusal :=
  .next (match (s.core core).egu with
    | [] => s
    | p :: ps =>
      match s.eguLands core p ps with
      | none => s
      | some t =>
        let b := s.core (core + 1)
        if (s.core core).pair then
          match (s.setCore core ((s.core core).withOwn b)).eguLands core p ps with
          | some u => t.setCore (core + 1) (b.follows (u.core core))
          | none => s
        else t)

end Sys2Proof.Machine
end

