-- ==== Sys2Proof/Machine/Approx.lean ====
section
/-! DEFINITION. The approximated functions of R151: VRCP, VRSQ, VEXP, VLOG, VSIG and VTANH. The exact result is bracketed on
the FP32 grid by fixed-point evaluation; which result q gives within its error bound is a free value,
and the functions that the rule calls monotonic are so (log 10). -/

namespace Sys2Proof.Machine

/-- Fraction bits of the fixed-point evaluation. -/
def fxBits : Nat := 192

/-- The sum of t * z2^k / (2k + 1) for n terms (the series of atanh). -/
def atanhTerms (z2 : Nat) : Nat → Nat → Nat → Nat
  | 0, _, _ => 0
  | n + 1, t, k => t / (2 * k + 1) + atanhTerms z2 n (t * z2 / 2 ^ fxBits) (k + 1)

/-- atanh z for a fixed-point z of at most 1/3. -/
def fxAtanh (z : Nat) : Nat := atanhTerms (z * z / 2 ^ fxBits) 64 z 0

/-- ln 2 = 2 atanh(1/3). -/
def fxLn2 : Nat := 2 * fxAtanh (2 ^ fxBits / 3)

/-- The sum of t * r^k / (k (k+1) ...) for n terms (the series of exp). -/
def expTerms (r : Nat) : Nat → Nat → Nat → Nat
  | 0, _, _ => 0
  | n + 1, t, k => t + expTerms r n (t * r / 2 ^ fxBits / (k + 1)) (k + 1)

/-- e^r for a fixed-point r of at most ln 2. -/
def fxExp (r : Nat) : Nat := expTerms r 56 (2 ^ fxBits) 0

/-- |m * 2^e| in fixed point, at most 256: beyond it every function has left the grid. -/
def fxArg (m : Nat) (e : Int) : Nat :=
  if 8 ≤ e + m.log2 then 256 * 2 ^ fxBits else scaleNat m (e + fxBits)

/-- e^(±x) as M * 2^k for a fixed-point x. -/
def expParts (neg : Bool) (x : Nat) : Nat × Int :=
  let k := x / fxLn2
  if neg then (fxExp ((k + 1) * fxLn2 - x), -((k : Int) + 1) - fxBits) else (fxExp (x - k * fxLn2), (k : Int) - fxBits)

/-- |ln(m * 2^e)| in fixed point, with its sign. -/
def lnParts (m : Nat) (e : Int) : Bool × Nat :=
  let p := m.log2
  let y := m * 2 ^ fxBits / 2 ^ p
  let z := (y - 2 ^ fxBits) * 2 ^ fxBits / (y + 2 ^ fxBits)
  let v : Int := (e + p) * (fxLn2 : Int) + (2 * fxAtanh z : Nat)
  (decide (v < 0), v.natAbs)

/-- The result of q: its FP32 encoding and flags, and a lower bound of the exact magnitude on the grid, if it is not exact. -/
structure QRes where
  v : Nat
  fl : Flags := {}
  floor : Option (Nat × Int) := none
deriving DecidableEq, Repr

/-- The code of an approximated function: FN - 12 (R150). -/
inductive Approx where
  | rcp | rsq | exp | log | sig | tanh
deriving DecidableEq, Repr

def Approx.code : Approx → Nat
  | .rcp => 0
  | .rsq => 1
  | .exp => 2
  | .log => 3
  | .sig => 4
  | .tanh => 5

/-- FP32 encoding of 1.0. -/
def fp32One : Nat := 0x3F800000

/-- The place of an FP32 encoding in the order of values. -/
def fp32Key (x : Nat) : Int := if 2 ^ 31 ≤ x then -((x - 2 ^ 31 : Nat) : Int) else x

/-- The results within the error bound of an exact one between y and y + 1 units, in ascending order of value, with none left out
between them: below a power of two the grid is twice as fine (R151). -/
def Approx.candidates (fn : Approx) (neg : Bool) (y : Nat) (q : Int) : List (Nat × Flags) :=
  let ys : List (Nat × Int) := match fn with
    | .rcp | .rsq => [(y, q), (y + 1, q)]
    | _ =>
      if y = 2 ^ 23 then [(2 * y - 2, q - 1), (2 * y - 1, q - 1), (y, q), (y + 1, q), (y + 2, q)]
      else [(y - 1, q), (y, q), (y + 1, q), (y + 2, q)]
  (if neg then ys.reverse else ys).map fun r => fFP32.round .byMode 0 neg r.1 r.2

/-- q has reached result w at operand x: its monotonic functions pass it at one operand, which is a free value (R151, log 10). -/
def Approx.reaches (fn : Approx) (x : Half) (w : Nat) : Bool :=
  let t := fp32Key (Config.qFrom fn.code (BitVec.ofNat 32 w)).toNat
  match fn with
  | .rcp | .rsq => decide (fp32Key x.toNat ≤ t)
  | _ => decide (t ≤ fp32Key x.toNat)

/-- The candidate that q gives: the greatest that it has reached, or the least; for VLOG, which need not be monotonic, a free one. -/
def Approx.choose (fn : Approx) (x : Half) (cs : List (Nat × Flags)) : Nat × Flags :=
  match fn with
  | .log => cs.getD ((Config.qPick x).toNat % cs.length) (0, {})
  | _ => cs.tail.foldl (fun b c => if fn.reaches x c.1 then c else b) (cs.headD (0, {}))

/-- The bounds that monotonicity and the exact cases put on a result: VEXP passes 1 and VSIG 0.5 at ±0, and no VSIG or VTANH exceeds 1. -/
def Approx.bound (fn : Approx) (x : Half) (neg : Bool) (v : Nat) : Nat :=
  match fn with
  | .exp => if x.getLsbD 31 then Nat.min v fp32One else Nat.max v fp32One
  | .sig => if x.getLsbD 31 then Nat.min v 0x3F000000 else Nat.min (Nat.max v 0x3F000000) fp32One
  | .tanh => fFP32.sign neg + Nat.min (v % 2 ^ 31) fp32One
  | _ => v

/-- A result within the error bound of an inexact magnitude m * 2^e (R151). -/
def Approx.near (fn : Approx) (x : Half) (neg : Bool) (m : Nat) (e : Int) : QRes :=
  let g := fFP32.grid m e true
  let (v, fl) := fn.choose x (fn.candidates neg g.y g.q)
  let v := fn.bound x neg v
  { v := v, fl := { nx := true, of := fl.of, uf := fFP32.below g.y g.q }, floor := some (g.y, g.q) }

/-- A result that R151 states: exact, with the flag of its column. -/
def QRes.exact (v : Nat) (fl : Flags := {}) : QRes := { v := v, fl := fl }

/-- 1 or -1 where R151 fixes it although it is not exact. -/
def saturatedOne (neg : Bool) : QRes := { v := fFP32.sign neg + fp32One, fl := { nx := true }, floor := some (2 ^ 24 - 1, -24) }

/-- m is a power of two. -/
def isPow2 (m : Nat) : Bool := m == 2 ^ m.log2

/-- At least n/10, for m * 2^e. -/
def atLeastTenths (m : Nat) (e : Int) (n : Nat) : Bool :=
  if 0 ≤ e then decide (n ≤ 10 * m * 2 ^ e.toNat) else decide (n * 2 ^ (-e).toNat ≤ 10 * m)

/-- q on a finite non-zero operand (-1)^neg * m * 2^e with FP32 encoding x. -/
def Approx.finite (fn : Approx) (x : Half) (neg : Bool) (m : Nat) (e : Int) : QRes :=
  match fn with
  | .rcp =>
    if isPow2 m then let (v, fl) := fFP32.round .byMode 0 neg 1 (-(e + m.log2)); .exact v fl
    else fn.near x neg (2 ^ (m.log2 + 64) / m) (-e - (m.log2 + 64 : Nat))
  | .rsq =>
    if neg then .exact fFP32.nan { nv := true }
    else if isPow2 m && (e + m.log2) % 2 == 0 then .exact (fFP32.round .byMode 0 false 1 (-((e + m.log2) / 2))).1
    else
      let (m, e) := if e % 2 = 0 then (m, e) else (2 * m, e - 1)
      fn.near x false (isqrt (2 ^ 160 / m)) (-(e / 2) - 80)
  | .exp => let (v, k) := expParts neg (fxArg m e); fn.near x false v k
  | .log =>
    if neg then .exact fFP32.nan { nv := true }
    else if isPow2 m && e + m.log2 == 0 then .exact 0
    else let (n, v) := lnParts m e; fn.near x n v (-(fxBits : Int))
  | .sig =>
    if !neg && atLeastTenths m e 170 then saturatedOne false
    else
      let (v, k) := expParts true (fxArg m e)
      let d := 2 ^ fxBits + scaleNat v (k + fxBits)
      if neg then fn.near x false (v * 2 ^ fxBits / d) k else fn.near x false (2 ^ (2 * fxBits) / d) (-(fxBits : Int))
  | .tanh =>
    if atLeastTenths m e 91 then saturatedOne neg
    else if e + m.log2 < -30 then fn.near x neg (m * 2 ^ 64 - 1) (e - 64)
    else
      let (v, k) := expParts true (2 * fxArg m e)
      let w := scaleNat v (k + fxBits)
      fn.near x neg ((2 ^ fxBits - w) * 2 ^ fxBits / (2 ^ fxBits + w)) (-(fxBits : Int))

/-- q on any operand with FP32 encoding x (R151). -/
def Approx.q (fn : Approx) (x : Half) (v : Fp) : QRes :=
  match v, fn with
  | .nan, _ => .exact fFP32.nan
  | .inf n, .rcp => .exact (fFP32.sign n)
  | .inf n, .rsq => if n then .exact fFP32.nan { nv := true } else .exact 0
  | .inf n, .exp => .exact (if n then 0 else fFP32.infinity false)
  | .inf n, .log => if n then .exact fFP32.nan { nv := true } else .exact (fFP32.infinity false)
  | .inf n, .sig => .exact (if n then 0 else fp32One)
  | .inf n, .tanh => .exact (fFP32.sign n + fp32One)
  | .fin n 0 _, .rcp => .exact (fFP32.infinity n) { dz := true }
  | .fin n 0 _, .rsq => .exact (fFP32.infinity n) { dz := true }
  | .fin _ 0 _, .exp => .exact fp32One
  | .fin _ 0 _, .log => .exact (fFP32.infinity true) { dz := true }
  | .fin _ 0 _, .sig => .exact 0x3F000000
  | .fin n 0 _, .tanh => .exact (fFP32.sign n)
  | .fin n m e, fn => fn.finite x n m e

/-- m * 2^e lies below 2^k. -/
def belowPow (m : Nat) (e k : Int) : Bool := m == 0 || decide (e + m.log2 < k)

/-- An approximated function on a lane (R151): q, rounded once by FPCTL.RM in a narrower lane format. -/
def FpFmt.approx (f : FpFmt) (fn : Approx) (rm : BitVec 2) (a : Nat) : Nat × Flags :=
  let v := f.dec a
  let r := fn.q (BitVec.ofNat 32 (fFP32.convert .byMode (.mode 0) v).1) v
  if f = fFP32 then (r.v, r.fl)
  else
    let (w, fl) := f.convert .byMode (.mode rm) (fFP32.dec r.v)
    let fl := r.fl.or fl
    match r.floor with
    | none => (w, fl)
    | some (m, e) => (w, { fl with uf := fl.uf || belowPow m e f.emin })

end Sys2Proof.Machine
end

