-- ==== Sys2Proof/Machine/Vector.lean ====
section
/-! DEFINITION. Vector instructions (R147-R162): arithmetic, compares, lane movement, conversion, reduction, bitmaps. -/

namespace Sys2Proof.Machine

/-! ### Common effects (R148, R149) -/

/-- A lane-wise instruction with a V destination: the sources pop, active lanes compute, their flags are raised together, and
the result is written or appended (R148, R149). -/
def vecForm (d : Reg5) (srcs : List Reg5) (eb : Nat) (x : Option VExt) (g : Reg3) (len : Nat) (s : State)
    (f : State → Nat → Nat × Flags) : Host.Outcome State Fault Refusal :=
  s.guarded g len (do
    let t ← s.pops (srcs.map (·.toNat))
    let fl := flagsOf ((t.lanes x eb).map fun i => (f t i).2)
    let t' ← (t.raise fl).putV d.toNat (t.merge x eb (t.getV d) fun i => (f t i).1)
    .ok (t'.advance len))

/-- A unary floating-point operation on lanes. -/
def vf1 (m : VF) (d a : Reg5) (x : Option VExt) (g : Reg3) (s : State) (op : State → Nat → Nat × Flags) :
    Host.Outcome State Fault Refusal :=
  vecForm d [a] (vfBytes m) x g (1 + extWords x) s fun t i => op t (laneNat (t.getV a) (vfBytes m) i)

/-- A binary floating-point operation on lanes. -/
def vf2 (m : VF) (d a b : Reg5) (x : Option VExt) (g : Reg3) (s : State) (op : State → Nat → Nat → Nat × Flags) :
    Host.Outcome State Fault Refusal :=
  vecForm d [a, b] (vfBytes m) x g (1 + extWords x) s
    fun t i => op t (laneNat (t.getV a) (vfBytes m) i) (laneNat (t.getV b) (vfBytes m) i)

/-- A fused operation on lanes: p * q + r with its operands' signs arranged by op; Vd is a source (R149). -/
def vf3 (m : VF) (d a b : Reg5) (x : Option VExt) (g : Reg3) (s : State) (op : Fp → Fp → Fp → Fp × Fp × Fp) :
    Host.Outcome State Fault Refusal :=
  vecForm d [a, b, d] (vfBytes m) x g (1 + extWords x) s fun t i =>
    let v (r : Reg5) := (vfFmt m).dec (laneNat (t.getV r) (vfBytes m) i)
    let (p, q, r) := op (v a) (v b) (v d)
    (vfFmt m).fma t.rm p q r

/-- The order of VMIN and VMAX, with -0 below +0 (R150). -/
def FpFmt.key (f : FpFmt) (v : Nat) : Int :=
  if v.testBit (f.ebits + f.mbits) then -((v % 2 ^ (f.ebits + f.mbits) : Nat) : Int) - 1 else (v % 2 ^ (f.ebits + f.mbits) : Nat)

/-- VMIN and VMAX of two lanes (R150). -/
def FpFmt.pick (f : FpFmt) (max : Bool) (a b : Nat) : Nat :=
  if (f.dec a).isNan || (f.dec b).isNan then f.nan
  else if (decide (f.key a ≤ f.key b)) != max then a else b

/-- VABS and VNEG: exact, a NaN is canonical (R150). -/
def FpFmt.signOp (f : FpFmt) (neg : Bool) (a : Nat) : Nat :=
  if (f.dec a).isNan then f.nan
  else if neg && !a.testBit (f.ebits + f.mbits) then a + 2 ^ (f.ebits + f.mbits) else a % 2 ^ (f.ebits + f.mbits)

/-! ### Floating-point arithmetic (R150, R151) -/

/-- VADD: a + b (R150). -/
def execVadd (m : VF) (d a b : Reg5) (x : Option VExt) (g : Reg3) (s : State) :
    Host.Outcome State Fault Refusal :=
  vf2 m d a b x g s fun t => (vfFmt m).add t.rm

/-- VSUB: a - b (R150). -/
def execVsub (m : VF) (d a b : Reg5) (x : Option VExt) (g : Reg3) (s : State) :
    Host.Outcome State Fault Refusal :=
  vf2 m d a b x g s fun t => (vfFmt m).sub t.rm

/-- VMUL: a * b (R150). -/
def execVmul (m : VF) (d a b : Reg5) (x : Option VExt) (g : Reg3) (s : State) :
    Host.Outcome State Fault Refusal :=
  vf2 m d a b x g s fun t => (vfFmt m).mul t.rm

/-- VFMA: a * b + d, rounded once (R150). -/
def execVfma (m : VF) (d a b : Reg5) (x : Option VExt) (g : Reg3) (s : State) :
    Host.Outcome State Fault Refusal :=
  vf3 m d a b x g s fun p q r => (p, q, r)

/-- VFMS: a * b - d, rounded once (R150). -/
def execVfms (m : VF) (d a b : Reg5) (x : Option VExt) (g : Reg3) (s : State) :
    Host.Outcome State Fault Refusal :=
  vf3 m d a b x g s fun p q r => (p, q, r.neg)

/-- VFNMA: d - a * b, rounded once (R150). -/
def execVfnma (m : VF) (d a b : Reg5) (x : Option VExt) (g : Reg3) (s : State) :
    Host.Outcome State Fault Refusal :=
  vf3 m d a b x g s fun p q r => (p.neg, q, r)

/-- VMIN: the smaller operand, unrounded (R150). -/
def execVmin (m : VF) (d a b : Reg5) (x : Option VExt) (g : Reg3) (s : State) :
    Host.Outcome State Fault Refusal :=
  vf2 m d a b x g s fun _ p q => ((vfFmt m).pick false p q, {})

/-- VMAX: the larger operand, unrounded (R150). -/
def execVmax (m : VF) (d a b : Reg5) (x : Option VExt) (g : Reg3) (s : State) :
    Host.Outcome State Fault Refusal :=
  vf2 m d a b x g s fun _ p q => ((vfFmt m).pick true p q, {})

/-- VABS (R150). -/
def execVabs (m : VF) (d a : Reg5) (x : Option VExt) (g : Reg3) (s : State) :
    Host.Outcome State Fault Refusal :=
  vf1 m d a x g s fun _ p => ((vfFmt m).signOp false p, {})

/-- VNEG (R150). -/
def execVneg (m : VF) (d a : Reg5) (x : Option VExt) (g : Reg3) (s : State) :
    Host.Outcome State Fault Refusal :=
  vf1 m d a x g s fun _ p => ((vfFmt m).signOp true p, {})

/-- VDIV: a / b (R150). -/
def execVdiv (m : VF) (d a b : Reg5) (x : Option VExt) (g : Reg3) (s : State) :
    Host.Outcome State Fault Refusal :=
  vf2 m d a b x g s fun t => (vfFmt m).div t.rm

/-- VSQRT (R150). -/
def execVsqrt (m : VF) (d a : Reg5) (x : Option VExt) (g : Reg3) (s : State) :
    Host.Outcome State Fault Refusal :=
  vf1 m d a x g s fun t => (vfFmt m).sqrt t.rm

/-- VRCP: 1/a (R151). -/
def execVrcp (m : VF) (d a : Reg5) (x : Option VExt) (g : Reg3) (s : State) :
    Host.Outcome State Fault Refusal :=
  vf1 m d a x g s fun t => (vfFmt m).approx .rcp t.rm

/-- VRSQ: 1/sqrt a (R151). -/
def execVrsq (m : VF) (d a : Reg5) (x : Option VExt) (g : Reg3) (s : State) :
    Host.Outcome State Fault Refusal :=
  vf1 m d a x g s fun t => (vfFmt m).approx .rsq t.rm

/-- VEXP: e^a (R151). -/
def execVexp (m : VF) (d a : Reg5) (x : Option VExt) (g : Reg3) (s : State) :
    Host.Outcome State Fault Refusal :=
  vf1 m d a x g s fun t => (vfFmt m).approx .exp t.rm

/-- VLOG: ln a (R151). -/
def execVlog (m : VF) (d a : Reg5) (x : Option VExt) (g : Reg3) (s : State) :
    Host.Outcome State Fault Refusal :=
  vf1 m d a x g s fun t => (vfFmt m).approx .log t.rm

/-- VSIG: 1/(1 + e^-a) (R151). -/
def execVsig (m : VF) (d a : Reg5) (x : Option VExt) (g : Reg3) (s : State) :
    Host.Outcome State Fault Refusal :=
  vf1 m d a x g s fun t => (vfFmt m).approx .sig t.rm

/-- VTANH: tanh a (R151). -/
def execVtanh (m : VF) (d a : Reg5) (x : Option VExt) (g : Reg3) (s : State) :
    Host.Outcome State Fault Refusal :=
  vf1 m d a x g s fun t => (vfFmt m).approx .tanh t.rm

/-! ### Integer arithmetic and logic (R152) -/

/-- A binary integer operation on lanes of w bits, modulo 2^w; no flag. -/
def vi2 (m : VI) (d a b : Reg5) (x : Option VExt) (g : Reg3) (s : State) (op : (w : Nat) → BitVec w → BitVec w → BitVec w) :
    Host.Outcome State Fault Refusal :=
  vecForm d [a, b] (viBytes m) x g (1 + extWords x) s fun t i =>
    let v (r : Reg5) := BitVec.ofNat (8 * viBytes m) (laneNat (t.getV r) (viBytes m) i)
    ((op (8 * viBytes m) (v a) (v b)).toNat, {})

/-- VIADD (R152). -/
def execViadd (m : VI) (d a b : Reg5) (x : Option VExt) (g : Reg3) (s : State) :
    Host.Outcome State Fault Refusal :=
  vi2 m d a b x g s fun _ p q => p + q

/-- VISUB (R152). -/
def execVisub (m : VI) (d a b : Reg5) (x : Option VExt) (g : Reg3) (s : State) :
    Host.Outcome State Fault Refusal :=
  vi2 m d a b x g s fun _ p q => p - q

/-- VIMUL (R152). -/
def execVimul (m : VI) (d a b : Reg5) (x : Option VExt) (g : Reg3) (s : State) :
    Host.Outcome State Fault Refusal :=
  vi2 m d a b x g s fun _ p q => p * q

/-- VIMIN (R152). -/
def execVimin (m : VI) (d a b : Reg5) (x : Option VExt) (g : Reg3) (s : State) :
    Host.Outcome State Fault Refusal :=
  vi2 m d a b x g s fun _ p q => if p.toInt ≤ q.toInt then p else q

/-- VIMAX (R152). -/
def execVimax (m : VI) (d a b : Reg5) (x : Option VExt) (g : Reg3) (s : State) :
    Host.Outcome State Fault Refusal :=
  vi2 m d a b x g s fun _ p q => if p.toInt ≤ q.toInt then q else p

/-- VSHL (R152). -/
def execVshl (m : VI) (d a b : Reg5) (x : Option VExt) (g : Reg3) (s : State) :
    Host.Outcome State Fault Refusal :=
  vi2 m d a b x g s fun w p q => p <<< (q.toNat % w)

/-- VSHR (R152). -/
def execVshr (m : VI) (d a b : Reg5) (x : Option VExt) (g : Reg3) (s : State) :
    Host.Outcome State Fault Refusal :=
  vi2 m d a b x g s fun w p q => p >>> (q.toNat % w)

/-- VSRA (R152). -/
def execVsra (m : VI) (d a b : Reg5) (x : Option VExt) (g : Reg3) (s : State) :
    Host.Outcome State Fault Refusal :=
  vi2 m d a b x g s fun w p q => p.sshiftRight (q.toNat % w)

/-- VAND (R152). -/
def execVand (m : VI) (d a b : Reg5) (x : Option VExt) (g : Reg3) (s : State) :
    Host.Outcome State Fault Refusal :=
  vi2 m d a b x g s fun _ p q => p &&& q

/-- VOR (R152). -/
def execVor (m : VI) (d a b : Reg5) (x : Option VExt) (g : Reg3) (s : State) :
    Host.Outcome State Fault Refusal :=
  vi2 m d a b x g s fun _ p q => p ||| q

/-- VXOR (R152). -/
def execVxor (m : VI) (d a b : Reg5) (x : Option VExt) (g : Reg3) (s : State) :
    Host.Outcome State Fault Refusal :=
  vi2 m d a b x g s fun _ p q => p ^^^ q

/-- VNOT (R152). -/
def execVnot (m : VI) (d a : Reg5) (x : Option VExt) (g : Reg3) (s : State) :
    Host.Outcome State Fault Refusal :=
  vecForm d [a] (viBytes m) x g (1 + extWords x) s fun t i =>
    ((~~~(BitVec.ofNat (8 * viBytes m) (laneNat (t.getV a) (viBytes m) i))).toNat, {})

/-! ### Compare (R153) -/

/-- A predicate result over n lanes: active lanes take f, bits from n up are cleared (R148, R153). -/
def predLanes (s : State) (x : Option VExt) (n : Nat) (old : Pred) (f : Nat → Bool) : Pred :=
  BitVec.ofNat 128 ((List.range n).foldl (fun acc i =>
    acc + (if (if s.laneOn x i then f i else !zeroing x && old.getLsbD i) then 2 ^ i else 0)) 0)

/-- A lane-wise instruction with a P destination. -/
def predForm (d : Reg3) (a b : Reg5) (eb : Nat) (x : Option VExt) (g : Reg3) (s : State) (f : State → Nat → Bool × Flags) :
    Host.Outcome State Fault Refusal :=
  let len := 1 + extWords x
  s.guarded g len (do
    let t ← s.pops [a.toNat, b.toNat]
    let fl := flagsOf ((t.lanes x eb).map fun i => (f t i).2)
    .ok (((t.raise fl).setP d (predLanes t x (128 / eb) (t.getP d) fun i => (f t i).1)).advance len))

/-- A floating-point condition and its flag (R153). -/
def fpCond (c : Cc) (p q : Fp) : Bool × Flags :=
  let nan := p.isNan || q.isNan
  match c with
  | .eq => (p.same q, {})
  | .ne => (!p.same q, {})
  | .lt | .ltu => (p.lt q, { nv := nan })
  | .le | .leu => (p.lt q || p.same q, { nv := nan })

/-- An integer condition (R105, R153). -/
def intCond (c : Cc) {w : Nat} (p q : BitVec w) : Bool :=
  match c with
  | .eq => p == q
  | .ne => p != q
  | .lt => decide (p.toInt < q.toInt)
  | .le => decide (p.toInt ≤ q.toInt)
  | .ltu => decide (p.toNat < q.toNat)
  | .leu => decide (p.toNat ≤ q.toNat)

/-- VCMP (R153). -/
def execVcmp (c : Cc) (f : VF) (d : Reg3) (a b : Reg5) (x : Option VExt) (g : Reg3) (s : State) :
    Host.Outcome State Fault Refusal :=
  predForm d a b (vfBytes f) x g s fun t i =>
    fpCond c ((vfFmt f).dec (laneNat (t.getV a) (vfBytes f) i)) ((vfFmt f).dec (laneNat (t.getV b) (vfBytes f) i))

/-- VICMP (R153). -/
def execVicmp (c : Cc) (f : VI) (d : Reg3) (a b : Reg5) (x : Option VExt) (g : Reg3) (s : State) :
    Host.Outcome State Fault Refusal :=
  predForm d a b (viBytes f) x g s fun t i =>
    (intCond c (BitVec.ofNat (8 * viBytes f) (laneNat (t.getV a) (viBytes f) i))
      (BitVec.ofNat (8 * viBytes f) (laneNat (t.getV b) (viBytes f) i)), {})

/-! ### Lane movement (R154, R155) -/

/-- Lane i where it exists, else 0. -/
def laneOr0 (v : Vec) (eb : Nat) (i : Int) : Nat :=
  if 0 ≤ i ∧ i < ((128 / eb : Nat) : Int) then laneNat v eb i.toNat else 0

/-- A movement whose active lane i is f. -/
def moveForm (e : ES) (d : Reg5) (srcs : List Reg5) (x : Option VExt) (g : Reg3) (len : Nat) (s : State)
    (f : State → Nat → Nat) : Host.Outcome State Fault Refusal :=
  vecForm d srcs (esBytes e) x g len s fun t i => (f t i, {})

/-- Words of a movement with a B operand that may be a literal. -/
def moveWords (b : Src) (x : Option VExt) : Nat := srcWords b + extWords x

/-- VMOV (R154). -/
def execVmov (e : ES) (d a : Reg5) (x : Option VExt) (g : Reg3) (s : State) : Host.Outcome State Fault Refusal :=
  moveForm e d [a] x g (1 + extWords x) s fun t i => laneNat (t.getV a) (esBytes e) i

/-- VBCAST: the low bits of a G register in every active lane (R154). -/
def execVbcast (e : ES) (d a : Reg5) (x : Option VExt) (g : Reg3) (s : State) : Host.Outcome State Fault Refusal :=
  moveForm e d [] x g (1 + extWords x) s fun t _ => (t.getG a).toNat % 2 ^ (8 * esBytes e)

/-- VEXT: one lane to a G register, 0 beyond the last lane (R154). -/
def execVext (e : ES) (d a : Reg5) (b : Src) (x : Option VExt) (g : Reg3) (s : State) : Host.Outcome State Fault Refusal :=
  s.guarded g (moveWords b x) (do
    let t ← s.pops [a.toNat]
    .ok ((t.setG d (BitVec.ofNat 64 (laneOr0 (t.getV a) (esBytes e) (t.src b).toNat))).advance (moveWords b x)))

/-- VINS: one lane from a G register, where it exists and its predicate bit is set (R154). -/
def execVins (e : ES) (d a : Reg5) (b : Src) (x : Option VExt) (g : Reg3) (s : State) : Host.Outcome State Fault Refusal :=
  let n := 128 / esBytes e
  s.guarded g (moveWords b x) (do
    let v := ofLanes (esBytes e) ((List.range n).map fun i =>
      if i = (s.src b).toNat && s.laneOn x i then (s.getG a).toNat else laneNat (s.getV d) (esBytes e) i)
    let t ← s.putV d.toNat v
    .ok (t.advance (moveWords b x)))

/-- VPERM: unsigned indices from vb (R154). -/
def execVperm (e : ES) (d a b : Reg5) (x : Option VExt) (g : Reg3) (s : State) : Host.Outcome State Fault Refusal :=
  moveForm e d [a, b] x g (1 + extWords x) s fun t i => laneOr0 (t.getV a) (esBytes e) (laneNat (t.getV b) (esBytes e) i : Nat)

/-- VSLIDE: a signed amount, towards higher lanes when positive (R154). -/
def execVslide (e : ES) (d a : Reg5) (b : Src) (x : Option VExt) (g : Reg3) (s : State) : Host.Outcome State Fault Refusal :=
  moveForm e d [a] x g (moveWords b x) s fun t i => laneOr0 (t.getV a) (esBytes e) ((i : Int) - (t.src b).toInt)

/-- VZIP: the low halves interleaved (R154). -/
def execVzip (e : ES) (d a b : Reg5) (x : Option VExt) (g : Reg3) (s : State) : Host.Outcome State Fault Refusal :=
  moveForm e d [a, b] x g (1 + extWords x) s fun t i => laneNat (t.getV (if i % 2 = 0 then a else b)) (esBytes e) (i / 2)

/-- VUNZIP: the even lanes gathered (R154). -/
def execVunzip (e : ES) (d a b : Reg5) (x : Option VExt) (g : Reg3) (s : State) : Host.Outcome State Fault Refusal :=
  let n := 128 / esBytes e
  moveForm e d [a, b] x g (1 + extWords x) s fun t i =>
    if i < n / 2 then laneNat (t.getV a) (esBytes e) (2 * i) else laneNat (t.getV b) (esBytes e) (2 * i - n)

/-- VCOMP: active lanes packed to the front; the rest unchanged or zero (R155). -/
def execVcomp (e : ES) (d a : Reg5) (x : Option VExt) (g : Reg3) (s : State) : Host.Outcome State Fault Refusal :=
  let eb := esBytes e
  let len := 1 + extWords x
  s.guarded g len (do
    let t ← s.pops [a.toNat]
    let act := t.lanes x eb
    let v := ofLanes eb ((List.range (128 / eb)).map fun j => match act[j]? with
      | some k => laneNat (t.getV a) eb k
      | none => if zeroing x then 0 else laneNat (t.getV d) eb j)
    let t ← t.putV d.toNat v
    .ok (t.advance len))

/-- Active lanes below i (R155). -/
def State.below (s : State) (x : Option VExt) (i : Nat) : Nat := ((List.range i).filter (s.laneOn x)).length

/-- VEXPD: leading lanes spread over the active lanes (R155). -/
def execVexpd (e : ES) (d a : Reg5) (x : Option VExt) (g : Reg3) (s : State) : Host.Outcome State Fault Refusal :=
  moveForm e d [a] x g (1 + extWords x) s fun t i => laneNat (t.getV a) (esBytes e) (t.below x i)

/-- VIOTA: the number of active lanes below (R155). -/
def execViota (e : ES) (d : Reg5) (x : Option VExt) (g : Reg3) (s : State) : Host.Outcome State Fault Refusal :=
  moveForm e d [] x g (1 + extWords x) s fun t i => t.below x i

/-- VSEL: the predicate chooses the source of every lane (R154). -/
def execVsel (e : ES) (d a b : Reg5) (x : Option VExt) (g : Reg3) (s : State) : Host.Outcome State Fault Refusal :=
  moveForm e d [a, b] none g (1 + extWords x) s fun t i => laneNat (t.getV (if t.laneOn x i then a else b)) (esBytes e) i

/-! ### Conversion (R156-R159) -/

/-- Element bits (R21). -/
def fmtBits : Fmt → Nat
  | .fp32 => 32
  | .bf16 => 16
  | .fp16 => 16
  | .e4m3 => 8
  | .e5m2 => 8
  | .e3m2 => 6
  | .e2m3 => 6
  | .e2m1 => 4
  | .int32 => 32
  | .int16 => 16
  | .int8 => 8
  | .int4 => 4
  | .sp32 => 32
  | .blk => 8

/-- The layout of a floating-point element format (R43). -/
def fmtFp : Fmt → Option FpFmt
  | .fp32 => some fFP32
  | .bf16 => some fBF16
  | .fp16 => some fFP16
  | .e4m3 => some fE4M3
  | .e5m2 => some fE5M2
  | .e3m2 => some fE3M2
  | .e2m3 => some fE2M3
  | .e2m1 => some fE2M1
  | .int32 => none
  | .int16 => none
  | .int8 => none
  | .int4 => none
  | .sp32 => none
  | .blk => none

/-- FPCTL.SR governs a conversion to this format (R54). -/
def srGoverned : Fmt → Bool
  | .e4m3 | .e5m2 | .e3m2 | .e2m3 | .e2m1 | .int8 | .int4 => true
  | _ => false

/-- A number, or an integer that converts exactly. -/
inductive Elem where
  | fp (v : Fp)
  | int (v : Int)
deriving DecidableEq, Repr

/-- The value of an element (R44, R48). -/
def elemOf (f : Fmt) (v : Nat) : Elem :=
  match fmtFp f with
  | some l => .fp (l.dec v)
  | none => .int (BitVec.ofNat (fmtBits f) v).toInt

/-- An element converted to a floating-point or integer format (R59-R62, R158). -/
def convElem (df : Fmt) (sat : Bool) (r : Rounding) (v : Elem) : Nat × Flags :=
  match fmtFp df, v with
  | some l, .fp x => l.convert (l.ovf sat) r x
  | some l, .int x => l.convert (l.ovf sat) r (ofIntFp x)
  | none, .fp x => let (y, fl) := toIntFmt (fmtBits df) r x; ((BitVec.ofInt (fmtBits df) y).toNat, fl)
  | none, .int x =>
    let hi : Int := 2 ^ (fmtBits df - 1) - 1
    let lo : Int := -(2 ^ (fmtBits df - 1) : Int)
    let y := if hi < x then hi else if x < lo then lo else x
    ((BitVec.ofInt (fmtBits df) y).toNat, { nv := y != x })

/-- Field i of w bits of a packed vector (R19, R157). -/
def packed (v w i : Nat) : Nat := v / 2 ^ (w * i) % 2 ^ w

/-- Elements packed from the low bits upward (R19). -/
def packElems (w : Nat) (l : List Nat) : Nat := l.foldr (fun v acc => v % 2 ^ w + 2 ^ w * acc) 0

/-- Elements of a VCVT (R157). -/
def vcvtCount (df sf : Fmt) : Nat := 1024 / Nat.max (Nat.max (fmtBits df) (fmtBits sf)) 8

/-- One element of a VCVT: its bits, flags, and SPCTL.SSAT (R158, R159). -/
def vcvtElem (df sf : Fmt) (sat : Bool) (r : Rounding) (v : Nat) : Nat × Flags × Bool :=
  if df = .sp32 then let (w, nv, ss) := spOfFp32 v; (w.toNat, { nv := nv }, ss)
  else if sf = .sp32 then let (w, fl) := fp32OfSp (BitVec.ofNat 32 v); (w, fl, false)
  else let (w, fl) := convElem df sat r (elemOf sf v); (w, fl, false)

/-- The roundings of a conversion's elements in order: FPCTL.RM, or one draw for each (R54, R57). -/
def State.roundings (s : State) (df : Fmt) (n : Nat) : List Rounding × State :=
  if s.srOn && srGoverned df then let (ds, t) := s.drawn n; (ds.map .draw, t)
  else (List.replicate n (.mode s.rm), s)

/-- The result of element i, if it is active: its place among the active ones finds its outcome. -/
def activeResult (act : List Nat) (l : List (Nat × Flags × Bool)) (i : Nat) : Option Nat :=
  ((act.zip l).find? fun e => e.1 == i).map fun e => e.2.1

/-- VCVT (R156-R159). -/
def execVcvt (df sf : Fmt) (sat : Bool) (d a : Reg5) (x : VExt) (g : Reg3) (s : State) : Host.Outcome State Fault Refusal :=
  s.guarded g 3 (do
    let t ← s.pops [a.toNat]
    let n := vcvtCount df sf
    let act := (List.range n).filter (t.laneOn (some x))
    let (rs, u) := t.roundings df act.length
    let src := (t.getV a).toNat
    let old := (t.getV d).toNat
    let l := (act.zip rs).map fun e => vcvtElem df sf sat e.2 (packed src (fmtBits sf) e.1)
    let u := u.raise (flagsOf (l.map fun e => e.2.1))
    let u := if l.any fun e => e.2.2 then u.setMe (u.me.spFlag true false) else u
    let v := packElems (fmtBits df) ((List.range n).map fun i =>
      (activeResult act l i).getD (if x.zm then 0 else packed old (fmtBits df) i))
    let u ← u.putV d.toNat (BitVec.ofNat 1024 v)
    .ok (u.advance 3))

/-! ### Reductions (R67, R160) -/

/-- A node: EMPTY, or a value. -/
def combineNodes {α : Type} (op : α → α → α × Flags) : Option α → Option α → Option α × Flags
  | none, b => (b, {})
  | a, none => (a, {})
  | some a, some b => let (v, fl) := op a b; (some v, fl)

/-- One level of the tree (R67). -/
def treeLevel {α : Type} (op : α → α → α × Flags) : List (Option α) → List (Option α) × Flags
  | a :: b :: t =>
    let (v, fl) := combineNodes op a b
    let (vs, fls) := treeLevel op t
    (v :: vs, fl.or fls)
  | l => (l, {})

/-- The tree over k levels (R67). -/
def treeReduce {α : Type} (op : α → α → α × Flags) : Nat → List (Option α) → Option α × Flags
  | 0, l => (l.headD none, {})
  | k + 1, l =>
    let (l, fl) := treeLevel op l
    let (v, fls) := treeReduce op k l
    (v, fl.or fls)

/-- Bytes of a lane of FI (R78). -/
def fiBytes : FI → Nat
  | .f m => vfBytes m
  | .i m => viBytes m

/-- A reduction: the tree over the active lanes, the word of its value or of an empty tree, and the flags. -/
def redForm {α : Type} (f : FI) (d a : Reg5) (x : Option VExt) (g : Reg3) (s : State) (lane : Nat → α)
    (op : State → α → α → α × Flags) (word : Option α → Word) : Host.Outcome State Fault Refusal :=
  let len := 1 + extWords x
  let eb := fiBytes f
  s.guarded g len (do
    let t ← s.pops [a.toNat]
    let l := (List.range (128 / eb)).map fun i => if t.laneOn x i then some (lane (laneNat (t.getV a) eb i)) else none
    let (v, fl) := treeReduce (op t) (128 / eb).log2 l
    .ok (((t.raise fl).setG d (word v)).advance len))

/-- A lane of a floating-point reduction: a NaN is canonical from the start (R160). -/
def FpFmt.laneOf (f : FpFmt) (v : Nat) : Nat := if (f.dec v).isNan then f.nan else v

/-- A lane of an integer reduction, sign-extended. -/
def viLane (m : VI) (v : Nat) : Int := (BitVec.ofNat (8 * viBytes m) v).toInt

/-- VRED.ADD (R160). -/
def execVredAdd (f : FI) (d a : Reg5) (x : Option VExt) (g : Reg3) (s : State) : Host.Outcome State Fault Refusal :=
  match f with
  | .f m => redForm f d a x g s (vfFmt m).laneOf (fun t => (vfFmt m).add t.rm) fun v => BitVec.ofNat 64 (v.getD 0)
  | .i m => redForm f d a x g s (viLane m) (fun _ p q => (p + q, {})) fun v => BitVec.ofInt 64 (v.getD 0)

/-- VRED.MIN (R160). -/
def execVredMin (f : FI) (d a : Reg5) (x : Option VExt) (g : Reg3) (s : State) : Host.Outcome State Fault Refusal :=
  match f with
  | .f m => redForm f d a x g s (vfFmt m).laneOf (fun _ p q => ((vfFmt m).pick false p q, {}))
      fun v => BitVec.ofNat 64 (v.getD ((vfFmt m).infinity false))
  | .i m => redForm f d a x g s (viLane m) (fun _ p q => (if p ≤ q then p else q, {}))
      fun v => BitVec.ofInt 64 (v.getD (2 ^ (8 * viBytes m - 1) - 1))

/-- VRED.MAX (R160). -/
def execVredMax (f : FI) (d a : Reg5) (x : Option VExt) (g : Reg3) (s : State) : Host.Outcome State Fault Refusal :=
  match f with
  | .f m => redForm f d a x g s (vfFmt m).laneOf (fun _ p q => ((vfFmt m).pick true p q, {}))
      fun v => BitVec.ofNat 64 (v.getD ((vfFmt m).infinity true))
  | .i m => redForm f d a x g s (viLane m) (fun _ p q => (if p ≤ q then q else p, {}))
      fun v => BitVec.ofInt 64 (v.getD (-(2 ^ (8 * viBytes m - 1))))

/-- A bitwise reduction, zero-extended (R160). -/
def redBits (f : VI) (d a : Reg5) (x : Option VExt) (g : Reg3) (s : State) (op : Nat → Nat → Nat) (empty : Nat) :
    Host.Outcome State Fault Refusal :=
  redForm (.i f) d a x g s (fun v => v) (fun _ p q => (op p q, {})) fun v => BitVec.ofNat 64 (v.getD empty)

/-- VRED.AND (R160). -/
def execVredAnd (f : VI) (d a : Reg5) (x : Option VExt) (g : Reg3) (s : State) : Host.Outcome State Fault Refusal :=
  redBits f d a x g s (fun p q => p &&& q) (2 ^ (8 * viBytes f) - 1)

/-- VRED.OR (R160). -/
def execVredOr (f : VI) (d a : Reg5) (x : Option VExt) (g : Reg3) (s : State) : Host.Outcome State Fault Refusal :=
  redBits f d a x g s (fun p q => p ||| q) 0

/-- VRED.XOR (R160). -/
def execVredXor (f : VI) (d a : Reg5) (x : Option VExt) (g : Reg3) (s : State) : Host.Outcome State Fault Refusal :=
  redBits f d a x g s (fun p q => p ^^^ q) 0

/-! ### Bitmaps and counts (R161, R162) -/

/-- The byte offset of a lane of VBTST, exact (R161). -/
def bitmapByte (s : State) (eb : Nat) (a b : Reg5) (i : Nat) : Nat := (s.getG b).toNat + laneNat (s.getV a) eb i / 8

/-- VBTST: every active lane is checked before any is read, and the reads follow the context's earlier stores (R161). -/
def execVbtst (e : ES) (d : Reg3) (a b : Reg5) (x : Option VExt) (g : Reg3) (s : State) : Host.Outcome State Fault Refusal :=
  let eb := esBytes e
  let len := 1 + extWords x
  s.guarded g len (do
    let t ← s.pops [a.toNat]
    let off := bitmapByte t eb a b
    let act := t.lanes x eb
    firstBad act fun i =>
      if memSize t.cur.core ≤ off i
      then some (.trap cIllegalAddress (BitVec.ofNat 64 (off i)) ({ space := 1, lane := i } : AddrInfo).word) else none
    let locs : List Loc := act.map fun i => ⟨⟨i, BitVec.ofNat 64 (off i), BitVec.ofNat 64 (off i), 1, 1⟩, some (.core t.cur.core (off i)), 0⟩
    t.clearOf locs
    t.consume 0 locs
    let bit (i : Nat) : Bool := (t.byteAt (.core t.cur.core (off i))).getLsbD (laneNat (t.getV a) eb i % 8)
    .ok ((t.setP d (predLanes t x (128 / eb) (t.getP d) bit)).advance len))

/-- pa and LP over the lanes of ES (R162). -/
def countMask (s : State) (e : ES) (a : Reg3) (x : Option VExt) : List Nat :=
  (List.range (128 / esBytes e)).filter fun i => (s.getP a).getLsbD i && s.laneOn x i

/-- VPCNT (R162). -/
def execVpcnt (e : ES) (d : Reg5) (a : Reg3) (x : Option VExt) (g : Reg3) (s : State) : Host.Outcome State Fault Refusal :=
  s.done g (1 + extWords x) (s.setG d (BitVec.ofNat 64 (countMask s e a x).length))

/-- VFIRST (R162). -/
def execVfirst (e : ES) (d : Reg5) (a : Reg3) (x : Option VExt) (g : Reg3) (s : State) : Host.Outcome State Fault Refusal :=
  s.done g (1 + extWords x) (s.setG d (match countMask s e a x with
    | [] => BitVec.allOnes 64
    | i :: _ => BitVec.ofNat 64 i))

end Sys2Proof.Machine
end

