-- ==== Sys2Proof/Machine/Tile.lean ====
section
/-! DEFINITION. Tiles: shapes (R20-R22, R164), tile loads and stores (R166-R170), and accumulator access (R171, R172). -/

namespace Sys2Proof.Machine

/-! ### Shapes -/

/-- A tile's shape (R20, R164). -/
structure Shape where
  fmt : Fmt
  rows : Nat
  bpr : Nat
deriving DecidableEq, Repr

/-- Bytes per row are legal for a format (R21). -/
def bprOk (f : Fmt) (bpr : Nat) : Bool :=
  match f with
  | .e3m2 | .e2m3 => bpr == 48 || bpr == 96
  | .blk => bpr == 64 || bpr == 128
  | _ => true

/-- The shape of a TSHAPE image; none where R22 refuses it. -/
def shapeOf (v : Word) : Option Shape :=
  if bits v 13 51 ≠ 0 then none
  else match Fmt.ofCode (bits v 8 5) with
    | none => none
    | some f =>
      let bpr := (bits v 5 3 + 1) * 16
      if bprOk f bpr then some { fmt := f, rows := bits v 0 5 + 1, bpr := bpr } else none

/-- The shape of tile t of a core. -/
def CoreSt.shape (c : CoreSt) (t : Nat) : Option Shape := shapeOf (c.sysr (0x020 + t))

/-- Elements per row, for formats other than BLK (R164). -/
def Shape.ke (h : Shape) : Nat := h.bpr * 8 / fmtBits h.fmt

/-- The shape of a tile of the issuing core that an instruction accepts, else RESERVED_FIELD (R165). -/
def State.shapeFor (s : State) (t : Reg3) (ok : Shape → Bool) : Except Stop Shape :=
  match s.me.shape t.toNat with
  | some h => if ok h then .ok h else .error reservedAtExec
  | none => .error reservedAtExec

/-! ### Tile bytes (R19) -/

/-- n bits of a number replaced from bit lo on. -/
def setField (v lo n x : Nat) : Nat := v - v / 2 ^ lo % 2 ^ n * 2 ^ lo + x % 2 ^ n * 2 ^ lo

/-- The number in bits of row r of a tile. -/
def tileRow (v : BitVec 32768) (r : Nat) : Nat := v.toNat / 2 ^ (1024 * r) % 2 ^ 1024

/-- Bytes of row r from byte o on. -/
def tileBytes (v : BitVec 32768) (r o n : Nat) : List Byte := leBytes n (tileRow v r / 2 ^ (8 * o))

/-- Writing bytes of row r from byte o on. -/
def putTileBytes (v : Nat) (r o : Nat) (bs : List Byte) : Nat := setField v (1024 * r + 8 * o) (8 * bs.length) (leNat bs)

/-- A tile replaced, with the written bytes taken out of its poison (R342). -/
def CoreSt.writeTile (c : CoreSt) (t : Nat) (v : Nat) (written : List Nat) : CoreSt :=
  let bad := match c.tileBad with
    | [] => []
    | b => written.foldl (fun b i => clearMask b (4096 * t + i)) b
  { c.setTile t (BitVec.ofNat 32768 v) with tileBad := bad }

/-- The bytes of a shape's rows in a tile. -/
def Shape.bytes (h : Shape) : List Nat := (List.range h.rows).flatMap fun r => (List.range h.bpr).map fun b => 128 * r + b

/-- Reading a poisoned byte of a tile as an operand consumes it (R342). -/
def CoreSt.tilePoison (c : CoreSt) (t : Nat) (h : Shape) : Except Stop Unit :=
  match c.tileBad with
  | [] => .ok ()
  | b => firstBad h.bytes fun i =>
    if tget 0 b ((4096 * t + i) / 8) ≠ 0 then some (.poison 2 (BitVec.ofNat 64 (4096 * t + i)) 1) else none

/-! ### Tile loads and stores (R166-R169) -/

/-- The address of row r (R167): under SPACE 0b10 a pointer image. -/
def State.rowAddr (s : State) (sp : Space) (a : Reg5) (off : Word) (stride : Int) (r : Nat) : Word :=
  match sp with
  | .dist => let p := s.getA (a.extractLsb' 0 3)
    if r = 0 then p else ptrInc s.rect p (r * stride)
  | _ => s.effective a off + BitVec.ofInt 64 (r * stride)

/-- A row of n bytes in pieces of up to m bytes: the piece at byte j of the row. -/
def State.rowPiece (s : State) (sp : Space) (row : Word) (r n m j al : Nat) : Item :=
  let va := match sp with
    | .dist => if j = 0 then row else ptrInc s.rect row j
    | _ => row + BitVec.ofNat 64 j
  ⟨r, row, va, Nat.min m (n - j), if j = 0 then al else 1⟩

/-- The pieces of a row: 16 bytes each, or single bytes where a pointer's row is misaligned. -/
def State.rowPieces (s : State) (sp : Space) (row : Word) (r n al : Nat) : List Item :=
  let m := if sp = .dist ∧ ptrOff row % 16 ≠ 0 then 1 else 16
  (List.range ((n + m - 1) / m)).map fun k => s.rowPiece sp row r n m (m * k) al

/-- The pieces of all rows; a stride that is no multiple of the figure misaligns rows 1 and later (R167). -/
def State.rowItems (s : State) (sp : Space) (a : Reg5) (off : Word) (stride : Int) (rows n al : Nat) : List Item :=
  (List.range rows).flatMap fun r =>
    s.rowPieces sp (s.rowAddr sp a off stride r) r n (if r = 0 ∨ stride % al = 0 then al else 0)

/-- The bytes of row r among located pieces. -/
def State.rowBytes (s : State) (locs : List Loc) (r : Nat) : List Byte :=
  ((locs.filter fun l => l.item.lane == r).map s.locBytes).flatten

/-- A checked read of rows for a tile (R167): poison is delivered to per-core state. -/
def State.readRows (s : State) (sp : Space) (items : List Item) : Except Stop (List Loc × State) :=
  s.keeping sp .load items (do
    let (locs, t) ← s.check sp .load {} items
    holdIfAbsent 0 locs
    t.clearOf locs
    t.consume 1 locs
    .ok (locs, t))

/-- Block EINFO (R335). -/
def blockInfo (t r q opnd : Nat) : Word := BitVec.ofNat 64 (t * 256 + r * 8 + q * 4 + opnd * 2)

/-- A block's header is refused: FMT outside 0x04-0x08, or SCALE 0xFF (R53). -/
def blockBad (bs : List Byte) : Bool :=
  match bs with
  | f :: sc :: _ => decide (f.toNat < 4) || decide (8 < f.toNat) || sc == 0xFF
  | _ => true

/-- The (row, block) pairs of a BLK shape in order. -/
def Shape.blocks (h : Shape) : List (Nat × Nat) :=
  (List.range h.rows).flatMap fun r => (List.range (h.bpr / 64)).map fun q => (r, q)

/-- The refused block at the lowest address, the first of several there (R168). -/
def lowestBlock : List (Word × Word) → Option (Word × Word)
  | [] => none
  | e :: t => match lowestBlock t with
    | none => some e
    | some m => if m.1.toNat < e.1.toNat then some m else some e

/-- What a tile load writes: the rows, or with TLDT their transpose (R167, R169). -/
def tileLoaded (op : TileOp) (v : BitVec 32768) (h : Shape) (row : Nat → List Byte) : Nat :=
  match op with
  | .tldt =>
    let eb := fmtBits h.fmt / 8
    (List.range h.ke).foldl (fun v j =>
      let bs := row j
      (List.range h.rows).foldl (fun v i => putTileBytes v i (j * eb) ((bs.drop (i * eb)).take eb)) v) v.toNat
  | _ => (List.range h.rows).foldl (fun v r => putTileBytes v r 0 (row r)) v.toNat

/-- The formats that a tile operation accepts (R166). -/
def tileFormatOk (op : TileOp) (f : Fmt) : Bool :=
  match op with
  | .tld => f != .blk
  | .tst => true
  | .tldb => f == .blk
  | .tldt => f != .blk && (fmtBits f == 8 || fmtBits f == 16 || fmtBits f == 32)

/-- TLD, TLDB and TLDT (R167-R169). -/
def tileLoad (op : TileOp) (d : Reg3) (a b : Reg5) (sp : Space) (off : Word) (len : Nat) (s : State) : Except Stop State := do
  let h ← s.shapeFor d fun h => tileFormatOk op h.fmt
  let (n, rows) := match op with
    | .tldt => (h.rows * (fmtBits h.fmt / 8), h.ke)
    | _ => (h.bpr, h.rows)
  let al := if op = .tldb then 64 else 16
  let (locs, t) ← s.readRows sp (s.rowItems sp a off (s.getG b).toInt rows n al)
  let row := t.rowBytes locs
  if op = .tldb then
    let bad := (h.blocks.filter fun (r, q) => blockBad ((row r).drop (64 * q))).map fun (r, q) =>
      (s.rowAddr sp a off (s.getG b).toInt r + BitVec.ofNat 64 (64 * q), blockInfo d.toNat r q 0)
    if let some e := lowestBlock bad then s.keeping sp .load (s.rowItems sp a off (s.getG b).toInt rows n al) (.error (.trap cScaleInvalid e.1 e.2))
  let v := tileLoaded op (t.me.tile d.toNat) h row
  .ok ((t.setMe (t.me.writeTile d.toNat v h.bytes)).advance len)

/-- TST (R167): bytes in another core's memory close the region (R165). The model closes it under SPACE 0b10 only, as R124 has it for STA
and VST; a reflex core's TST through a segment does not (log 104). -/
def tileStore (d : Reg3) (a b : Reg5) (sp : Space) (off : Word) (len : Nat) (s : State) : Except Stop State := do
  let h ← s.shapeFor d fun _ => true
  let items := s.rowItems sp a off (s.getG b).toInt h.rows h.bpr 16
  s.keeping sp .store items (do
    let (locs, t) ← s.check sp .store { write := true } items
    t.clearOf locs
    t.me.tilePoison d.toNat h
    let v := t.me.tile d.toNat
    let ws := locs.zipIdx.map fun (l, k) => (l, tileBytes v l.item.lane (16 * (k % (h.bpr / 16))) 16)
    if sp = .dist then
      let t := ws.foldl (fun t w => t.sendBytes w.1 w.2) t
      .ok (if s.anyRemote locs then t.sent len else t.advance len)
    else do
      let t ← t.storeLocs ws
      .ok (t.advance len))

/-- The four tile memory operations. -/
def tileForm (op : TileOp) (d : Reg3) (a b : Reg5) (sp : Space) (off : Word) (len : Nat) (g : Reg3) (s : State) :
    Host.Outcome State Fault Refusal :=
  s.guarded g len (match op with
    | .tst => tileStore d a b sp off len s
    | _ => tileLoad op d a b sp off len s)

/-- TLD (R166, R167). -/
def execTld (d : Reg3) (a b : Reg5) (sp : Space) (g : Reg3) (s : State) : Host.Outcome State Fault Refusal :=
  tileForm .tld d a b sp 0 1 g s

/-- TST (R166, R167). -/
def execTst (d : Reg3) (a b : Reg5) (sp : Space) (g : Reg3) (s : State) : Host.Outcome State Fault Refusal :=
  tileForm .tst d a b sp 0 1 g s

/-- TLDB (R168). -/
def execTldb (d : Reg3) (a b : Reg5) (sp : Space) (g : Reg3) (s : State) : Host.Outcome State Fault Refusal :=
  tileForm .tldb d a b sp 0 1 g s

/-- TLDT (R169). -/
def execTldt (d : Reg3) (a b : Reg5) (sp : Space) (g : Reg3) (s : State) : Host.Outcome State Fault Refusal :=
  tileForm .tldt d a b sp 0 1 g s

/-- The forms with a literal offset (R166). -/
def execTldLit (op : TileOp) (d : Reg3) (a b : Reg5) (sp : Space) (off : Word) (g : Reg3) (s : State) :
    Host.Outcome State Fault Refusal := tileForm op d a b sp off 3 g s

/-- TZERO (R170). -/
def execTzero (d g : Reg3) (s : State) : Host.Outcome State Fault Refusal :=
  s.done g 1 (s.setMe (s.me.writeTile d.toNat 0 (List.range 4096)))

/-! ### Accumulator access (R171, R172) -/

/-- An accumulator region with its stepped row (R114, R171). -/
structure Cells where
  row : Int
  col : Nat
  nr : Nat
  nc : Nat
deriving DecidableEq, Repr

/-- The cells of an ACC extension; OSTEP moves AROW (R114). -/
def cellsOf (r : Region) (step : Word) : Cells :=
  { row := (r.row.toNat : Int) + step.toInt, col := r.col.toNat, nr := r.nr1.toNat + 1, nc := r.nc1.toNat + 1 }

/-- The first cell outside the store, in row order (R172). -/
def Cells.outside (r : Cells) (height : Nat) : Option (Int × Nat) :=
  if r.row < 0 ∨ (height : Int) ≤ r.row then some (r.row, r.col)
  else if 128 < r.col + r.nc then some (r.row, 128)
  else if (height : Int) < r.row + r.nr then some (height, r.col)
  else none

/-- The check of R172. -/
def Cells.inside (r : Cells) (height : Nat) : Except Stop Unit :=
  match r.outside height with
  | some (row, col) => .error (.trap cIllegalAddress (BitVec.ofInt 64 (row * 256 + col)) ({ space := 3 } : AddrInfo).word)
  | none => .ok ()

/-- The cells of a region in row order. -/
def Cells.list (r : Cells) : List (Nat × Nat) :=
  (List.range r.nr).flatMap fun i => (List.range r.nc).map fun j => (r.row.toNat + i, r.col + j)

/-- Reading a poisoned cell consumes it (R342). -/
def CoreSt.cellPoison (c : CoreSt) (l : List (Nat × Nat)) : Except Stop Unit :=
  match c.accBad with
  | [] => .ok ()
  | b => firstBad l fun (row, col) =>
    if tget false b (row * 128 + col) then some (.poison 1 (BitVec.ofNat 64 (row * 256 + col)) 1) else none

/-- Cells written in order. -/
def CoreSt.setCells (c : CoreSt) (l : List ((Nat × Nat) × Half)) : CoreSt := l.foldl (fun c e => c.setCell e.1.1 e.1.2 e.2) c

/-- ACCZ (R171). -/
def execAccz (r : Region) (g : Reg3) (s : State) : Host.Outcome State Fault Refusal :=
  s.guarded g 3 (do
    let k := cellsOf r s.cur.ostep
    k.inside s.accHeight
    .ok ((s.setMe (s.me.setCells (k.list.map fun p => (p, 0)))).advance 3))

/-- ACCRD (R171). -/
def execAccrd (d : Reg5) (r : Region) (g : Reg3) (s : State) : Host.Outcome State Fault Refusal :=
  s.guarded g 3 (do
    let k := cellsOf r s.cur.ostep
    k.inside s.accHeight
    s.me.cellPoison k.list
    .ok ((s.setG d ((s.me.cell k.row.toNat k.col).setWidth 64)).advance 3))

/-- ACCWR (R171). -/
def execAccwr (a : Reg5) (r : Region) (g : Reg3) (s : State) : Host.Outcome State Fault Refusal :=
  s.guarded g 3 (do
    let k := cellsOf r s.cur.ostep
    k.inside s.accHeight
    .ok ((s.setMe (s.me.setCell k.row.toNat k.col ((s.getG a).setWidth 32))).advance 3))

/-- Word i of a byte list, 32 bits. -/
def halfAt (bs : List Byte) (i : Nat) : Half := BitVec.ofNat 32 (leNat ((bs.drop (4 * i)).take 4))

/-- 32-bit words of a byte list. -/
def halves (bs : List Byte) (n : Nat) : List Half := (List.range n).map (halfAt bs)

/-- ACCLD (R171). The model checks the region before the address (log 105). -/
def execAccld (a : Reg5) (r : Region) (off : Option Word) (g : Reg3) (s : State) : Host.Outcome State Fault Refusal :=
  let len := 3 + litWords off
  s.guarded g len (do
    let k := cellsOf r 0
    k.inside s.accHeight
    let va := s.effective a (off.getD 0)
    let (bs, t) ← s.readItems .loc .load {} 0 1 [⟨0, va, va, 4 * (k.nr * k.nc), 4⟩]
    .ok ((t.setMe (t.me.setCells (k.list.zip (halves bs.flatten (k.nr * k.nc))))).advance len))

/-- ACCST (R171). The model checks the region before the address (log 105). -/
def execAccst (a : Reg5) (r : Region) (off : Option Word) (g : Reg3) (s : State) : Host.Outcome State Fault Refusal :=
  let len := 3 + litWords off
  s.guarded g len (do
    let k := cellsOf r 0
    k.inside s.accHeight
    s.me.cellPoison k.list
    let va := s.effective a (off.getD 0)
    let bs := k.list.flatMap fun p => leBytes 4 (s.me.cell p.1 p.2).toNat
    let t ← s.writeItems .loc { write := true } [(⟨0, va, va, 4 * (k.nr * k.nc), 4⟩, bs)]
    .ok (t.advance len))

end Sys2Proof.Machine
end

