-- ==== Sys2Proof/Machine/Matrix.lean ====
section
/-! DEFINITION. The matrix unit: MMA (R64, R65, R173-R176), epilogues (R177), gates (R178, R179), split-K reduction (R180),
and the sending of seizure commands (R181, R182). -/

namespace Sys2Proof.Machine

/-! ### Rows as exact numbers (R44, R51, R52, R164) -/

/-- Elements of a block by its FMT (R52). -/
def blockFmt (code : Nat) : Option (FpFmt × Nat) :=
  match code with
  | 4 => some (fE4M3, 62)
  | 5 => some (fE5M2, 62)
  | 6 => some (fE3M2, 82)
  | 7 => some (fE2M3, 82)
  | 8 => some (fE2M1, 124)
  | _ => none

/-- A number times 2^k. -/
def Fp.scale (x : Fp) (k : Int) : Fp :=
  match x with
  | .fin n m e => .fin n m (e + k)
  | y => y

/-- The elements of a 64-byte block (R51, R52). -/
def blockElems (v : Nat) : List Fp :=
  match blockFmt (v % 256) with
  | none => []
  | some (f, n) => (List.range n).map fun j =>
      (f.dec (v / 2 ^ (16 + f.width * j) % 2 ^ f.width)).scale (((v / 256 % 256 : Nat) : Int) - 127)

/-- The elements of a tile row of a floating-point or block format (R164, R175). -/
def rowElems (h : Shape) (v : BitVec 32768) (r : Nat) : List Fp :=
  match h.fmt with
  | .blk => (List.range (h.bpr / 64)).flatMap fun q => blockElems (tileRow v r / 2 ^ (512 * q) % 2 ^ 512)
  | f => match fmtFp f with
    | some l => (List.range h.ke).map fun k => l.dec (packed (tileRow v r) (fmtBits f) k)
    | none => []

/-- The elements of a tile row of an integer format. -/
def rowInts (h : Shape) (v : BitVec 32768) (r : Nat) : List Int :=
  (List.range h.ke).map fun k => (BitVec.ofNat (fmtBits h.fmt) (packed (tileRow v r) (fmtBits h.fmt) k)).toInt

/-! ### MMA (R173-R176) -/

/-- What a pair of formats accumulates (R173). -/
inductive Pairing where
  | float | block | int
deriving DecidableEq, Repr

/-- The narrow floating-point formats. -/
def narrowFp : Fmt → Bool
  | .e4m3 | .e5m2 | .e3m2 | .e2m3 | .e2m1 => true
  | _ => false

/-- The pairs of R173. -/
def pairing (a b : Fmt) : Option Pairing :=
  let half (f : Fmt) : Bool := f == .bf16 || f == .fp16
  let small (f : Fmt) : Bool := f == .int8 || f == .int4
  if (half a && half b) || (narrowFp a && narrowFp b) then some .float
  else if a = .blk ∧ b = .blk then some .block
  else if small a && small b then some .int else none

/-- The pairing of two shapes with equal KE (R173). -/
def shapePair (a b : Shape) : Option Pairing :=
  match pairing a.fmt b.fmt with
  | some .block => some .block
  | p => if a.ke = b.ke then p else none

/-- The exact signed sum of finite products; its sign where it is zero: -0 only if every product is -0 (R64). -/
def sumFinite (l : List Fp) : Fp :=
  let negZero (x : Fp) : Bool := match x with
    | .fin n m _ => n && m == 0
    | _ => false
  let (v, e) := l.foldl (fun acc x => match x with
    | .fin n m e => addExact (decide (acc.1 < 0)) acc.1.natAbs acc.2 n m e
    | _ => acc) ((0, 0) : Int × Int)
  if v = 0 then .fin (l.all negZero) 0 0 else .fin (decide (v < 0)) v.natAbs e

/-- A run sum of exact products, rounded once to FP32 with RNE (R64). A run with a NaN among its products gives NaN and takes no
flag from infinite products of both signs beside it, as R45 has it for a NaN operand: R64 does not say (log 79). -/
def runSum (l : List (Fp × Flags)) : Nat × Flags :=
  let fl := flagsOf (l.map (·.2))
  let xs := l.map (·.1)
  if xs.any (·.isNan) then (fFP32.nan, fl)
  else
    let pos := xs.any (· == .inf false)
    let neg := xs.any (· == .inf true)
    if pos && neg then (fFP32.nan, fl.or { nv := true })
    else if pos || neg then (fFP32.infinity neg, fl)
    else let (v, f) := fFP32.convert .byMode (.mode 0) (sumFinite xs); (v, fl.or f)

/-- The runs of 16 products, in n steps (R64). -/
def runsOf {α : Type} : Nat → List α → List (List α)
  | 0, _ => []
  | _ + 1, [] => []
  | n + 1, l => l.take 16 :: runsOf n (l.drop 16)

/-- One cell of a floating-point MMA: the run sums added in order, each rounded once (R64). -/
def mmaCell (cell : Nat) (a b : List Fp) : Nat × Flags :=
  (runsOf a.length ((a.zip b).map fun e => Fp.mul e.1 e.2)).foldl (fun acc run =>
    let (r, f1) := runSum run
    let (v, f2) := fFP32.add 0 acc.1 r
    (v, (acc.2.or f1).or f2)) (cell, {})

/-- One cell of an integer MMA, modulo 2^32 (R65). -/
def mmaInt (cell : Half) (a b : List Int) : Half := cell + BitVec.ofInt 32 ((a.zip b).map fun e => e.1 * e.2).sum

/-- Block q of row r of a tile. -/
def tileBlock (v : BitVec 32768) (r q : Nat) : Nat := tileRow v r / 2 ^ (512 * q) % 2 ^ 512

/-- The element count of a block. -/
def blockCount (v : Nat) : Nat := match blockFmt (v % 256) with
  | some (_, n) => n
  | none => 0

/-- The first refused block of a BLK operand (R176). -/
def badBlock (t : Nat) (h : Shape) (v : BitVec 32768) (opnd : Nat) : Option Stop :=
  h.blocks.findSome? fun (r, q) =>
    if blockBad (leBytes 2 (tileBlock v r q)) then some (.trap cScaleInvalid 0 (blockInfo t r q opnd)) else none

/-- The first mismatch of block pairs (R176). -/
def mixedBlock (ta tb : Nat) (ha hb : Shape) (va vb : BitVec 32768) : Option Stop :=
  ((List.range ha.rows).flatMap fun i => (List.range hb.rows).map fun n => (i, n)).findSome? fun (i, n) =>
    let stop (t r q o : Nat) : Option Stop := some (.trap cMixedBlock 0 (blockInfo t r q o))
    if blockCount (tileBlock va i 0) ≠ blockCount (tileBlock vb n 0) then stop ta i 0 0
    else if ha.bpr ≠ hb.bpr then (if hb.bpr < ha.bpr then stop ta i 1 0 else stop tb n 1 1)
    else if ha.bpr = 128 ∧ blockCount (tileBlock va i 1) ≠ blockCount (tileBlock vb n 1) then stop ta i 1 0
    else none

/-- The first cause of an MMA in the order of R176. -/
def mmaCheck (c : CoreSt) (height ta tb : Nat) (row : Int) (col : Nat) : Except Stop (Shape × Shape × Pairing) :=
  match c.shape ta, c.shape tb with
  | some ha, some hb =>
    match shapePair ha hb with
    | none => .error reservedAtExec
    | some p => do
      (({ row := row, col := col, nr := ha.rows, nc := hb.rows } : Cells)).inside height
      if p = .block then
        match badBlock ta ha (c.tile ta) 0, badBlock tb hb (c.tile tb) 1, mixedBlock ta tb ha hb (c.tile ta) (c.tile tb) with
        | some e, _, _ => .error e
        | none, some e, _ => .error e
        | none, none, some e => .error e
        | none, none, none => .ok (ha, hb, p)
      else .ok (ha, hb, p)
  | _, _ => .error reservedAtExec

/-- The cells that an MMA writes, with its flags (R174): every operand is read before any cell is written. -/
def mmaCells (c : CoreSt) (ta tb : Nat) (ha hb : Shape) (p : Pairing) (row col : Nat) : List ((Nat × Nat) × Half) × Flags :=
  let va := c.tile ta
  let vb := c.tile tb
  match p with
  | .int =>
    let bs := (List.range hb.rows).map (rowInts hb vb)
    (((List.range ha.rows).flatMap fun i =>
      let a := rowInts ha va i
      bs.zipIdx.map fun (b, n) => ((row + i, col + n), mmaInt (c.cell (row + i) (col + n)) a b)), {})
  | _ =>
    let bs := (List.range hb.rows).map (rowElems hb vb)
    let l := (List.range ha.rows).flatMap fun i =>
      let a := rowElems ha va i
      bs.zipIdx.map fun (b, n) => ((row + i, col + n), mmaCell (c.cell (row + i) (col + n)).toNat a b)
    (l.map fun e => (e.1, BitVec.ofNat 32 e.2.1), flagsOf (l.map fun e => e.2.2))

/-- MMA (R173-R176). -/
def execMma (a b : Reg3) (r : Region) (g : Reg3) (s : State) : Host.Outcome State Fault Refusal :=
  s.guarded g 3 (do
    let k := cellsOf r s.cur.ostep
    let (ha, hb, p) ← mmaCheck s.me s.accHeight a.toNat b.toNat k.row k.col
    s.me.tilePoison a.toNat ha
    s.me.tilePoison b.toNat hb
    s.me.cellPoison (({ k with nr := ha.rows, nc := hb.rows } : Cells).list)
    let (cells, fl) := mmaCells s.me a.toNat b.toNat ha hb p k.row.toNat k.col
    .ok (((s.raise fl).setMe ((s.raise fl).me.setCells cells)).advance 3))

/-! ### MXEPI (R177) -/

/-- A floating-point activation: an FP32 encoding and its flags (R177). -/
def activate (a : Act) (v : Nat) : Nat × Flags :=
  match a with
  | .none => (v, {})
  | .relu => (match fFP32.dec v with
    | .nan => v
    | .inf n => if n then 0 else v
    | .fin n m _ => if n || m == 0 then 0 else v, {})
  | .sigmoid => let r := Approx.sig.q (BitVec.ofNat 32 v) (fFP32.dec v); (r.v, r.fl)
  | .tanh => let r := Approx.tanh.q (BitVec.ofNat 32 v) (fFP32.dec v); (r.v, r.fl)

/-- One element of an epilogue (R177). -/
def epiElem (f : Fmt) (act : Act) (sat : Bool) (r : Rounding) (cell : Half) (bias : Option Half) : Nat × Flags :=
  match fmtFp f with
  | none =>
    let x := cell.toInt + (bias.getD 0).toInt
    convElem f sat r (.int (if act = .relu ∧ x < 0 then 0 else x))
  | some _ =>
    let (x, f1) := match bias with
      | none => (cell.toNat, ({} : Flags))
      | some b => fFP32.add 0 cell.toNat b.toNat
    let (y, f2) := activate act x
    let (z, f3) := convElem f sat r (.fp (fFP32.dec y))
    (z, (f1.or f2).or f3)

/-- MXEPI accepts a Td format with ACT and SAT (R177). -/
def epiOk (f : Fmt) (act : Act) (sat : Bool) : Bool :=
  f != .sp32 && f != .blk && ((act != .sigmoid && act != .tanh) || (fmtFp f).isSome) && (!sat || f == .e4m3 || f == .e5m2)

/-- Elements put into a tile, with the bytes that they touch. -/
def putElems (f : Fmt) (v : Nat) (l : List (Nat × Nat × Nat)) : Nat :=
  l.foldl (fun v e => setField v (1024 * e.1 + fmtBits f * e.2.1) (fmtBits f) e.2.2) v

/-- The bytes of a tile that elements (i, j) touch. -/
def elemBytesOf (f : Fmt) (l : List (Nat × Nat × Nat)) : List Nat :=
  l.flatMap fun e =>
    let lo := fmtBits f * e.2.1
    (List.range ((lo + fmtBits f - 1) / 8 - lo / 8 + 1)).map fun k => 128 * e.1 + lo / 8 + k

/-- The tile of an epilogue over a region, with its flags (R177): elements in ascending order take their roundings. -/
def epilogue (c : CoreSt) (t : Nat) (f : Fmt) (k : Cells) (act : Act) (sat : Bool) (bias : List Half) (rs : List Rounding) :
    CoreSt × Flags :=
  let l := ((k.list.zip rs).zipIdx).map fun ((p, r), n) =>
    ((p.1 - k.row.toNat, p.2 - k.col), epiElem f act sat r (c.cell p.1 p.2) (bias[n % k.nc]?))
  let es := l.map fun e => (e.1.1, e.1.2, e.2.1)
  (c.writeTile t (putElems f (c.tile t).toNat es) (elemBytesOf f es), flagsOf (l.map fun e => e.2.2))

/-- Words from a global address on as accesses, one piece for each 128-byte sector (R143): n words. -/
def sectorItems (va : Word) (n : Nat) : List Item :=
  let first := 128 - va.toNat % 128
  let total := 4 * n
  if total ≤ first then [⟨0, va, va, total, 4⟩]
  else ⟨0, va, va, first, 4⟩ :: (List.range ((total - first + 127) / 128)).map fun k =>
    let a := va + BitVec.ofNat 64 (first + 128 * k)
    ⟨0, a, a, Nat.min 128 (total - first - 128 * k), 4⟩

/-- n words from an address on lie within the space (R120, R121). -/
def wordsInRange (va : Word) (n : Nat) (inf : AddrInfo) : Except Stop Unit :=
  if 2 ^ 56 < va.toNat + 4 * n then .error (.trap cIllegalAddress va inf.word) else .ok ()

/-- The bias of MXEPI: a relaxed load of NC words; none on a reflex core (R177). -/
def readBias (s : State) (bias : Bool) (a : Reg5) (n : Nat) : Except Stop (List Half × State) :=
  if !bias then .ok ([], s)
  else if s.reflex then .error (.trap cIllegalAddress (s.getG a) 0)
  else do
    wordsInRange (s.getG a) n {}
    let (bs, t) ← s.readItems .glob .load {} 0 1 (sectorItems (s.getG a) n)
    .ok (halves bs.flatten n, t)

/-- MXEPI (R177). -/
def execMxepi (d : Reg3) (a : Reg5) (r : Region) (act : Act) (sat bias : Bool) (g : Reg3) (s : State) :
    Host.Outcome State Fault Refusal :=
  s.guarded g 3 (do
    let k := cellsOf r s.cur.ostep
    let h ← s.shapeFor d fun h => epiOk h.fmt act sat && decide (k.nr ≤ h.rows) && decide (k.nc ≤ h.ke)
    k.inside s.accHeight
    let (bs, t) ← readBias s bias a k.nc
    t.me.cellPoison k.list
    let (rs, t) := t.roundings h.fmt (k.nr * k.nc)
    let (c, fl) := epilogue t.me d.toNat h.fmt k act sat bs rs
    .ok (((t.setMe c).raise fl).advance 3))

/-! ### MXGATE (R178, R179) -/

/-- Blocks of a gate kind (R178). -/
def gateBlocks : Gate → Nat
  | .lstm => 5
  | .gru => 5
  | .mgu => 4

/-- A computation that gathers flags. -/
abbrev Flagged (α : Type) := α × Flags

/-- The result of one FP32 operation with the flags so far. -/
def lift2 (op : Nat → Nat → Nat × Flags) (x y : Flagged Nat) : Flagged Nat :=
  let r := op x.1 y.1
  (r.1, (x.2.or y.2).or r.2)

/-- The same for one operand. -/
def lift1 (op : Nat → Nat × Flags) (x : Flagged Nat) : Flagged Nat :=
  let r := op x.1
  (r.1, x.2.or r.2)

/-- One gate: h and the new state cell, with every flag (R179); b gives the cell of each block. -/
def gateCell (k : Gate) (b : Nat → Nat) : Nat × Nat × Flags :=
  let cell (i : Nat) : Flagged Nat := (b i, {})
  let sig := lift1 (activate .sigmoid)
  let th := lift1 (activate .tanh)
  let mul := lift2 (fFP32.mul 0)
  let add := lift2 (fFP32.add 0)
  let sub := lift2 (fFP32.sub 0)
  match k with
  | .lstm =>
    let c := add (mul (sig (cell 1)) (cell 4)) (mul (sig (cell 0)) (th (cell 2)))
    let h := mul (sig (cell 3)) (th c)
    (h.1, c.1, h.2)
  | .gru =>
    let z := sig (cell 0)
    let n := th (add (cell 2) (mul (sig (cell 1)) (cell 3)))
    let h := add n (mul z (sub (cell 4) n))
    (h.1, h.1, h.2)
  | .mgu =>
    let f := sig (cell 0)
    let n := th (add (cell 1) (mul f (cell 2)))
    let h := add n (mul f (sub (cell 3) n))
    (h.1, h.1, h.2)

/-- MXGATE accepts a Td format (R178). -/
def gateFmt (f : Fmt) : Bool := f == .fp32 || f == .bf16 || f == .fp16 || narrowFp f

/-- MXGATE (R178, R179): the state block is overwritten, h goes to Td with SAT = 1 for FP8. The model raises RESERVED_FIELD of R178 before
the ILLEGAL_ADDRESS of R172 (log 106). -/
def execMxgate (d : Reg3) (r : Region) (k : Gate) (g : Reg3) (s : State) : Host.Outcome State Fault Refusal :=
  s.guarded g 3 (do
    let q := cellsOf r s.cur.ostep
    let hw := q.nc / gateBlocks k
    let sh ← s.shapeFor d fun sh => decide (q.nc % gateBlocks k = 0) && decide (hw ≤ sh.ke) && decide (q.nr ≤ sh.rows) && gateFmt sh.fmt
    q.inside s.accHeight
    s.me.cellPoison q.list
    let (rs, t) := s.roundings sh.fmt (q.nr * hw)
    let at_ := (List.range q.nr).flatMap fun i => (List.range hw).map fun j => (i, j)
    let l := (at_.zip rs).map fun ((i, j), rnd) =>
      let (h, c, fl) := gateCell k fun b => (t.me.cell (q.row.toNat + i) (q.col + b * hw + j)).toNat
      let (v, f2) := convElem sh.fmt true rnd (.fp (fFP32.dec h))
      ((i, j), v, c, fl.or f2)
    let es := l.map fun e => (e.1.1, e.1.2, e.2.1)
    let c := t.me.setCells (l.map fun e =>
      ((q.row.toNat + e.1.1, q.col + (gateBlocks k - 1) * hw + e.1.2), BitVec.ofNat 32 e.2.2.1))
    let c := c.writeTile d.toNat (putElems sh.fmt (c.tile d.toNat).toNat es) (elemBytesOf sh.fmt es)
    .ok (((t.setMe c).raise (flagsOf (l.map fun e => e.2.2.2))).advance 3))

/-! ### MXRED (R180) -/

/-- The reduction of a list of words at a place (R69). -/
def State.reduceAt (s : State) (op : AmoOp) (p : Place) : List Half → State
  | [] => s
  | v :: vs => (s.setBytes p (leBytes 4 (amoNew op 4 (s.numAt p 4) v.toNat))).reduceAt op (p.plus 4) vs

/-- The updates of MXRED's mapped pieces: performed at issue, or on their way one by one (R180, R249). -/
def State.reduceParts (s : State) (op : AmoOp) (parts : List (Loc × List Half)) : State :=
  if s.eager then parts.foldl (fun (t : State) e => match e.1.place with
    | some p => t.reduceAt op p e.2
    | none => t) s
  else s.fly (parts.flatMap fun e =>
    s.wordRequests e.1 (fun n v => .amo op n (BitVec.ofNat 64 v)) (e.2.flatMap fun v => leBytes 4 v.toNat))

/-- MXRED (R180): mapped words are updated, absent ones enter the side log, one entry for each sector; region-closing. The model checks
the region before the address (log 105). -/
def execMxred (int : Bool) (a : Reg5) (r : Region) (off : Option Word) (g : Reg3) (s : State) :
    Host.Outcome State Fault Refusal :=
  let len := 3 + litWords off
  let op : AmoOp := if int then .add else .fadd
  s.guarded g len (do
    let k := cellsOf r 0
    k.inside s.accHeight
    let va := s.effective a (off.getD 0)
    if s.reflex then .error (.trap cIllegalAddress va ({ write := true } : AddrInfo).word)
    else do
      wordsInRange va (k.nr * k.nc) { write := true }
      let items := sectorItems va (k.nr * k.nc)
      s.keeping .glob .rmw items (do
        let (locs, t) ← s.check .glob .rmw { write := true } items
        noWindow { write := true } locs
        t.clearOf locs
        t.me.cellPoison k.list
        t.consume 0 locs
        let words := k.list.map fun p => t.me.cell p.1 p.2
        let parts := locs.map fun l => (l, (words.drop ((l.item.va - va).toNat / 4)).take (l.item.n / 4))
        let t ← t.enterLog ((parts.filter fun e => e.1.place.isNone).map fun e =>
          logEntryOf e.1.item.va.toNat (e.2.flatMap fun v => leBytes 4 v.toNat) (.amo op 4) t.me.vf t.cur.ctx)
        .ok ((t.reduceParts op parts).sent len)))

/-! ### MXSEND (R181, R182) -/

/-- A field of a 64-byte command: n bits from bit lo on. -/
def cmdField (v : BitVec 512) (lo n : Nat) : Nat := v.toNat / 2 ^ lo % 2 ^ n

/-- The shape image of a seizure command at a byte offset. -/
def cmdShape (v : BitVec 512) (byte : Nat) : Option Shape := shapeOf (BitVec.ofNat 64 (cmdField v (8 * byte) 16))

/-- The multiple of R182 for a format. -/
def sourceAlign (f : Fmt) : Nat := if f = .blk then 64 else 16

/-- A source descriptor obeys R182. -/
def sourceOk (v : BitVec 512) (byte : Nat) (f : Fmt) : Bool :=
  let kind := cmdField v (8 * byte + 62) 2
  kind != 3 && cmdField v (8 * byte + 32) 18 == 0 && (kind == 1 || cmdField v (8 * byte + 50) 12 == 0)
    && cmdField v (8 * byte) 32 % sourceAlign f == 0

/-- The field and consistency rules of the command layout (R182); rings are numbered below 16 (R225). -/
def seizureOk (v : BitVec 512) : Bool :=
  let ta := cmdField v 80 3
  let tb := cmdField v 84 3
  let tt := cmdField v 88 3
  cmdField v 0 8 == 1 && cmdField v 8 8 == 0 && cmdField v 83 1 == 0 && cmdField v 87 1 == 0 && cmdField v 91 5 == 0
    && cmdField v 112 3 == 0 && cmdField v 320 192 == 0 && decide (cmdField v 120 8 < 16)
    && decide (ta ≠ tb) && decide (ta ≠ tt) && decide (tb ≠ tt)
    && (match cmdShape v 4, cmdShape v 6, cmdShape v 8, Act.ofCode (cmdField v 116 4) with
      | some ha, some hb, some ho, some act =>
        (shapePair ha hb).isSome && epiOk ho.fmt act (cmdField v 115 1 == 1) && ho.rows == ha.rows && ho.ke == hb.rows
          && decide (cmdField v 96 8 + ha.rows ≤ 256) && decide (cmdField v 104 8 < 128) && decide (cmdField v 104 8 + hb.rows ≤ 128)
          && sourceOk v 16 ha.fmt && sourceOk v 32 hb.fmt && cmdField v 192 32 % sourceAlign ha.fmt == 0
      | _, _, _, _ => false)

/-- The refusal value of MXSEND (R181). -/
def mxRefusal (code reason : Nat) : Word := BitVec.ofNat 64 (2 ^ 63 + reason * 256 + code)

/-- The first failed check of MXSEND (R181). -/
def mxsendCheck (s : State) (c : BitVec 2) (target : Word) (cmd : BitVec 512) : Option Word :=
  let w (k : Nat) : Word := s.my.sysr (0x120 + 4 * c.toNat + k)
  if !(w 0).getLsbD 63 then some (mxRefusal 1 1)
  else if 63 < target.toNat ∨ target.toNat = s.cur.core ∨ !(w 1).getLsbD target.toNat then some (mxRefusal 1 2)
  else if bits (w 0) 32 3 ≠ s.me.vf then some (mxRefusal 1 3)
  else if !seizureOk cmd then some (mxRefusal 3 4) else none

/-- MXSEND (R181): a refusal, or the command on its way with the number it brings c9 to. -/
def execMxsend (d a b : Reg5) (c : BitVec 2) (g : Reg3) (s : State) : Host.Outcome State Fault Refusal :=
  s.guarded g 1 (do
    let va := s.getG a
    let (bs, t) ← s.readItems .loc .load {} 0 0 [⟨0, va, va, 64, 64⟩]
    let cmd := BitVec.ofNat 512 (leNat bs.flatten)
    match mxsendCheck s c (s.getG b) cmd with
    | some v => .ok ((t.setG d v).advance 1)
    | none =>
      let n := t.me.c9Sent + 1
      let w (k : Nat) : Word := s.my.sysr (0x120 + 4 * c.toNat + k)
      let z : Seizure := { core := s.cur.core, ctx := s.cur.ctx, vf := s.me.vf, bits := cmd, capid := (w 0).setWidth 32,
                           expiry := w 2, number := n }
      let t := t.setMe { t.me with c9Sent := n }
      .ok (((t.fly [.seizure (s.getG b).toNat z]).setG d (BitVec.ofNat 64 n)).sent 1))

end Sys2Proof.Machine
end

