-- ==== Sys2Proof/Machine/SumProduct.lean ====
section
/-! DEFINITION. The sum-product engine (R201-R214). An expression inside one rnd is a sum of exact products, rounded once. -/

namespace Sys2Proof.Machine

/-! ### Elements and expressions (R201, R208) -/

/-- SPCTL.MODE: FP32 (R33). -/
def State.speFp32 (s : State) : Bool := (s.me.sysr 0x018).getLsbD 0

/-- Element e of a scratch register (R201). -/
def xElem (v : BitVec 128) (e : Nat) : Half := v.extractLsb' (32 * e) 32

/-- A scratch register from its elements. -/
def xOf (l : List Half) : BitVec 128 := BitVec.ofNat 128 (packElems 32 (l.map BitVec.toNat))

/-- The value of an element in a mode (R201). -/
def speVal (fp : Bool) (v : Half) : Fp := if fp then fFP32.dec v.toNat else .fin false (spDec v).1 (spDec v).2

/-- A rounded element with what it raises: FPFLAGS, SSAT and SUF (R201). -/
structure SpeRes where
  v : Half
  fl : Flags := {}
  sat : Bool := false
  uf : Bool := false
deriving DecidableEq, Repr

/-- rnd of an exact value (R50, R201). -/
def speRound (fp : Bool) (x : Fp) : SpeRes :=
  if fp then let (v, fl) := fFP32.convert .byMode (.mode 0) x; { v := BitVec.ofNat 32 v, fl := fl }
  else match x with
    | .fin _ m e => let (v, sat, uf) := spRound m e; { v := v, sat := sat, uf := uf }
    | _ => { v := 0 }

/-- The exact product of values, NV for 0 times infinity (R208). -/
def product (l : List Fp) : Fp × Flags :=
  l.foldl (fun acc x => let r := Fp.mul acc.1 x; (r.1, acc.2.or r.2)) (.fin false 1 0, {})

/-- An expression: the products of its terms, and whether a NaN stands among its values (R208). -/
def terms (l : List (List Fp)) : Option (List (Fp × Flags)) :=
  if l.any fun t => t.any (·.isNan) then none
  else some (l.map fun t =>
    if (t.any fun x => x == .inf true || x == .inf false) && (t.any fun x => x.same (.fin false 0 0))
    then (.nan, { nv := true }) else product t)

/-- rnd of a sum of products (R205-R208). -/
def rndSum (fp : Bool) (l : List (List Fp)) : SpeRes :=
  match terms l with
  | none => { v := BitVec.ofNat 32 fFP32.nan }
  | some ps =>
    let xs := ps.map (·.1)
    let fl := flagsOf (ps.map (·.2))
    if xs.any (·.isNan) then { v := BitVec.ofNat 32 fFP32.nan, fl := fl }
    else
      let pos := xs.any (· == .inf false)
      let neg := xs.any (· == .inf true)
      if pos && neg then { v := BitVec.ofNat 32 fFP32.nan, fl := { nv := true } }
      else if pos || neg then { v := BitVec.ofNat 32 (fFP32.infinity neg) }
      else speRound fp (sumFinite xs)

/-- The larger of two numbers, with -0 below +0 (R208). -/
def Fp.larger (x y : Fp) : Fp :=
  if x.lt y then y
  else if x.same y then (match x with
    | .fin true 0 _ => y
    | _ => x)
  else x

/-- rnd of the maximum of products (R205, R208). -/
def rndMax (fp : Bool) (l : List (List Fp)) : SpeRes :=
  match terms l with
  | none => { v := BitVec.ofNat 32 fFP32.nan }
  | some ps =>
    if ps.any (·.1.isNan) then { v := BitVec.ofNat 32 fFP32.nan, fl := flagsOf (ps.map (·.2)) }
    else match ps.map (·.1) with
      | [] => { v := 0 }
      | x :: xs => speRound fp (xs.foldl Fp.larger x)

/-! ### Register sets (R204, R211) -/

/-- k of a shape code (R204). -/
def speK (e : SpeExt) : Nat := e.shape.toNat % 8 + 1

/-- FM of a shape code (R204). -/
def speFm (e : SpeExt) : Nat := e.shape.toNat / 8 % 4

/-- Registers of the factor run (R204). -/
def speFactors (e : SpeExt) : Nat :=
  match speFm e with
  | 0 => 4 * speK e
  | 1 => 4
  | _ => 0

/-- A run: its number in EINFO, first register and length. -/
structure XRun where
  run : Nat
  first : Nat
  n : Nat
deriving DecidableEq, Repr

/-- The checks of R211: named registers on a reflex core, then runs past the last register. -/
def speCheck (s : State) (runs : List XRun) : Except Stop Unit := do
  firstBad runs fun r =>
    if s.reflex ∧ 63 < r.first then some (.trap cIllegalAddress (BitVec.ofNat 64 r.first) 0) else none
  firstBad runs fun r =>
    if s.xCount < r.first + r.n
    then some (.trap cSpeShape 0 (BitVec.ofNat 64 ((r.first + r.n - 1) * 256 + r.run))) else none

/-- Reading a poisoned scratch register consumes it (R342). -/
def CoreSt.xPoison (c : CoreSt) (first n : Nat) : Except Stop Unit :=
  match c.xBad with
  | [] => .ok ()
  | b => firstBad (List.range (2 * n)) fun k =>
    if tget false b (2 * first + k) then some (.poison 3 (BitVec.ofNat 64 (16 * first + 8 * k)) 1) else none

/-- Registers written in order from a first one. -/
def CoreSt.setXs (c : CoreSt) (first : Nat) : List (BitVec 128) → CoreSt
  | [] => c
  | v :: vs => (c.setX first v).setXs (first + 1) vs

/-- The flags of an instruction in FPFLAGS of its context and in SPCTL (R201). -/
def State.speFlags (s : State) (p : SpePend) : State :=
  let x := s.me.ctx p.ctx
  s.setMe ((s.me.setCtx p.ctx (x.setSysr 0x011 (x.sysr 0x011 ||| p.fl))).spFlag p.sat p.uf)

/-- The results are written and the flags gathered. An instruction that does not complete at issue stays in the engine with what
it overwrote and the core-local bytes that it loaded, and its flags come with its completion (R213, R214). -/
def State.putSpe (s : State) (first : Nat) (vs : List (BitVec 128)) (rs : List SpeRes) (mem : Option (Nat × Nat) := none) : State :=
  let p : SpePend := { ctx := s.cur.ctx, mem := mem, first := first,
                       old := (List.range vs.length).map fun i => s.me.getX (first + i), bad := s.me.xBad,
                       fl := (flagsOf (rs.map (·.fl))).word,
                       sat := rs.any (·.sat), uf := rs.any (·.uf) }
  let s := s.setMe (s.me.setXs first vs)
  if s.eager then s.speFlags p else s.setMe { s.me with spe := s.me.spe ++ [p] }

/-- The elements of four results as a register. -/
def resReg (l : List SpeRes) : BitVec 128 := xOf (l.map (·.v))

/-! ### Subtrees (R205-R207) -/

/-- The operands of a subtree instruction as values by register and element. -/
def State.xVal (s : State) (r e : Nat) : Fp := speVal s.speFp32 (xElem (s.me.getX r) e)

/-- F_j[b][a] (R204). -/
def factorVal (s : State) (x : SpeExt) (j b a : Nat) : Fp :=
  s.xVal (x.xb.toNat + (if speFm x = 0 then 4 * j else 0) + b) a

/-- Message j of SPUP or SPMAX (R205): a copy with FM = 2. -/
def message (s : State) (x : SpeExt) (max : Bool) (xa j : Nat) : List SpeRes :=
  (List.range 4).map fun a =>
    if speFm x = 2 then { v := xElem (s.me.getX (xa + 1 + j)) a }
    else
      let l := (List.range 4).map fun b => [factorVal s x j b a, s.xVal (xa + 1 + j) b]
      if max then rndMax s.speFp32 l else rndSum s.speFp32 l

/-- SPUP and SPMAX (R205). -/
def speUp (max : Bool) (xd xa : BitVec 8) (x : SpeExt) (g : Reg3) (s : State) : Host.Outcome State Fault Refusal :=
  s.guarded g 3 (do
    speCheck s ([⟨0, xd.toNat, speK x + 1⟩, ⟨1, xa.toNat, speK x + 1⟩] ++ (if speFm x = 2 then [] else [⟨2, x.xb.toNat, speFactors x⟩]))
    s.me.xPoison xa.toNat (speK x + 1)
    s.me.xPoison x.xb.toNat (speFactors x)
    let ms := (List.range (speK x)).map fun j => message s x max xa.toNat j
    let p := (List.range 4).map fun a =>
      rndSum s.speFp32 [s.xVal xa.toNat a :: ms.map fun m => speVal s.speFp32 (m.getD a { v := 0 }).v]
    .ok ((s.putSpe xd.toNat (resReg p :: ms.map resReg) (p ++ ms.flatten)).advance 3))

/-- SPUP (R205). -/
def execSpup (xd xa : BitVec 8) (e : SpeExt) (g : Reg3) (s : State) : Host.Outcome State Fault Refusal := speUp false xd xa e g s

/-- SPMAX (R205). -/
def execSpmax (xd xa : BitVec 8) (e : SpeExt) (g : Reg3) (s : State) : Host.Outcome State Fault Refusal := speUp true xd xa e g s

/-- SPDN (R206). -/
def execSpdn (xd xa : BitVec 8) (e : SpeExt) (g : Reg3) (s : State) : Host.Outcome State Fault Refusal :=
  s.guarded g 3 (do
    speCheck s ([⟨0, xd.toNat, speK e + 1⟩, ⟨1, xa.toNat, speK e + 1⟩] ++ (if speFm e = 2 then [] else [⟨2, e.xb.toNat, speFactors e⟩]))
    s.me.xPoison xa.toNat (speK e + 1)
    s.me.xPoison e.xb.toNat (speFactors e)
    let out (a : Nat) (but : Nat) : List Fp :=
      s.xVal xa.toNat a :: ((List.range (speK e)).filter (· != but)).map fun i => s.xVal (xa.toNat + 1 + i) a
    let ns := (List.range (speK e)).map fun j => (List.range 4).map fun b =>
      if speFm e = 2 then rndSum s.speFp32 [out b j]
      else rndSum s.speFp32 ((List.range 4).map fun a => factorVal s e j b a :: out a j)
    let bel := (List.range 4).map fun a => rndSum s.speFp32 [out a (speK e)]
    .ok ((s.putSpe xd.toNat (resReg bel :: ns.map resReg) (bel ++ ns.flatten)).advance 3))

/-- SPTREE (R207). -/
def execSptree (xd xa : BitVec 8) (e : SpeExt) (g : Reg3) (s : State) : Host.Outcome State Fault Refusal :=
  s.guarded g 3 (do
    speCheck s [⟨0, xd.toNat, 1⟩, ⟨1, xa.toNat, 1⟩, ⟨2, e.xb.toNat, speK e⟩]
    s.me.xPoison xa.toNat 1
    s.me.xPoison e.xb.toNat (speK e)
    let p := (List.range 4).map fun a =>
      rndSum s.speFp32 [s.xVal xa.toNat a :: (List.range (speK e)).map fun j => s.xVal (e.xb.toNat + j) a]
    .ok ((s.putSpe xd.toNat [resReg p] p).advance 3))

/-! ### Data movement and normalisation (R209, R210) -/

/-- SPLD and SPST of n registers (R209); their bytes are moved at issue, and a later access to those of an SPLD waits for its completion
(R213). -/
def speMem (store : Bool) (xd : BitVec 8) (a : Reg5) (n : Nat) (off : Option Word) (len : Nat) (g : Reg3) (s : State) :
    Host.Outcome State Fault Refusal :=
  s.guarded g len (do
    speCheck s [⟨0, xd.toNat, n⟩]
    let va := s.effective a (off.getD 0)
    let item : Item := ⟨0, va, va, 16 * n, 16⟩
    if store then do
      let (locs, t) ← s.check .loc .store { write := true } [item]
      s.me.xPoison xd.toNat n
      let bs := (List.range n).flatMap fun i => leBytes 16 (s.me.getX (xd.toNat + i)).toNat
      let t ← t.storeLocs (locs.map fun l => (l, bs))
      .ok (t.advance len)
    else do
      let (bs, t) ← s.readItems .loc .load {} 0 1 [item]
      let vs := (List.range n).map fun i => BitVec.ofNat 128 (leNat ((bs.flatten.drop (16 * i)).take 16))
      .ok ((t.putSpe xd.toNat vs [] (some (va.toNat, 16 * n))).advance len))

/-- Registers of SPLD and SPST: NM1 + 1 (R203). -/
def speCount : Option (BitVec 4) → Nat
  | none => 1
  | some v => v.toNat + 1

/-- SPLD of one register (R209). -/
def execSpld (xd : BitVec 8) (a : Reg5) (g : Reg3) (s : State) : Host.Outcome State Fault Refusal := speMem false xd a 1 none 1 g s

/-- SPLD with a count or an offset (R209). -/
def execSpldExt (xd : BitVec 8) (a : Reg5) (nm1 : Option (BitVec 4)) (off : Option Word) (g : Reg3) (s : State) :
    Host.Outcome State Fault Refusal := speMem false xd a (speCount nm1) off (1 + extWords nm1 + litWords off) g s

/-- SPST of one register (R209). -/
def execSpst (xd : BitVec 8) (a : Reg5) (g : Reg3) (s : State) : Host.Outcome State Fault Refusal := speMem true xd a 1 none 1 g s

/-- SPST with a count or an offset (R209). -/
def execSpstExt (xd : BitVec 8) (a : Reg5) (nm1 : Option (BitVec 4)) (off : Option Word) (g : Reg3) (s : State) :
    Host.Outcome State Fault Refusal := speMem true xd a (speCount nm1) off (1 + extWords nm1 + litWords off) g s

/-- SPMOV: bits unchanged (R210). -/
def execSpmov (xd xa : BitVec 8) (g : Reg3) (s : State) : Host.Outcome State Fault Refusal :=
  s.guarded g 1 (do
    speCheck s [⟨0, xd.toNat, 1⟩, ⟨1, xa.toNat, 1⟩]
    s.me.xPoison xa.toNat 1
    .ok ((s.putSpe xd.toNat [s.me.getX xa.toNat] []).advance 1))

/-- SPSET: ga[31:0] in every element (R210). -/
def execSpset (xd : BitVec 8) (a : Reg5) (g : Reg3) (s : State) : Host.Outcome State Fault Refusal :=
  s.guarded g 1 (do
    speCheck s [⟨0, xd.toNat, 1⟩]
    .ok ((s.putSpe xd.toNat [xOf (List.replicate 4 ((s.getG a).setWidth 32))] []).advance 1))

/-- x / s rounded once, for finite x and a sum that is not zero (R210). -/
def speDiv (fp : Bool) (x : Fp) (sum : Fp) : SpeRes :=
  match x, sum with
  | .fin n1 m1 e1, .fin n2 m2 e2 =>
    let sh := m2.log2 + 64
    let q := m1 * 2 ^ sh / m2
    let sticky := if m1 * 2 ^ sh % m2 = 0 then 0 else 1
    speRound fp (.fin (n1 != n2) (2 * q + sticky) (e1 - e2 - sh - 1))
  | _, _ => { v := 0 }

/-- The four results of SPNORM (R210). -/
def speNorm (fp : Bool) (xs : List Fp) : List SpeRes :=
  if xs.any (·.isNan) then List.replicate 4 { v := BitVec.ofNat 32 fFP32.nan }
  else if xs.any (!·.isFinite) then List.replicate 4 { v := BitVec.ofNat 32 fFP32.nan, fl := { nv := true } }
  else
    let sum := sumFinite xs
    if sum.same (.fin false 0 0) then List.replicate 4 { v := 0 } else xs.map fun x => speDiv fp x sum

/-- SPNORM (R210). -/
def execSpnorm (xd xa : BitVec 8) (g : Reg3) (s : State) : Host.Outcome State Fault Refusal :=
  s.guarded g 1 (do
    speCheck s [⟨0, xd.toNat, 1⟩, ⟨1, xa.toNat, 1⟩]
    s.me.xPoison xa.toNat 1
    let rs := speNorm s.speFp32 ((List.range 4).map fun e => s.xVal xa.toNat e)
    .ok ((s.putSpe xd.toNat [resReg rs] rs).advance 1))

/-- One element of SPCVT: into the format that MODE selects (R63, R210). -/
def speConvert (fp : Bool) (v : Half) : SpeRes :=
  if fp then let (w, fl) := fp32OfSp v; { v := BitVec.ofNat 32 w, fl := fl }
  else let (w, nv, sat) := spOfFp32 v.toNat; { v := w, fl := { nv := nv }, sat := sat }

/-- SPCVT (R210). -/
def execSpcvt (xd xa : BitVec 8) (g : Reg3) (s : State) : Host.Outcome State Fault Refusal :=
  s.guarded g 1 (do
    speCheck s [⟨0, xd.toNat, 1⟩, ⟨1, xa.toNat, 1⟩]
    s.me.xPoison xa.toNat 1
    let rs := (List.range 4).map fun e => speConvert s.speFp32 (xElem (s.me.getX xa.toNat) e)
    .ok ((s.putSpe xd.toNat [resReg rs] rs).advance 1))

/-- The engine completes its oldest instruction (R213). -/
def execSpeCompletion (core : Nat) (s : State) : Host.Outcome State Fault Refusal :=
  .next (match (s.core core).spe with
    | [] => s
    | p :: rest =>
      let t := (s.at core p.ctx).speFlags p
      { t.setMe { t.me with spe := rest } with cur := s.cur })

end Sys2Proof.Machine
end

