-- ==== Sys2Proof/Machine/Sync.lean ====
section
/-! DEFINITION. Synchronisation and messaging (R216-R236): releases and triggers of reflex banks, domain barriers, barrier
cells, engines' queues, receive rings, queue ports, helpers, restart points. -/

namespace Sys2Proof.Machine

/-! ### Releases (R217) -/

/-- No access of the core is in flight and its side log is empty: what a queued command waits for (R217, R223). -/
def State.quiet (s : State) (core : Nat) : Bool :=
  (s.core core).slog.isEmpty && (List.range (Config.numContexts core)).all fun k => !(s.flight.any fun f => f.ofCtx core k)

/-- A thing sent by the issuing context; where effects are performed at issue and the release is done, act performs it. -/
def State.dispatchFlight (s : State) (f : Flight) (act : State → Nat → State) : State :=
  let t := s.fly [f]
  if s.eager && s.performed then act t s.flight.length else t

/-! ### Releases of reflex banks (R315, R316, R318) -/

/-- The bank record's offset in local memory (R315). -/
def bankRecord (bank : Nat) : Nat := 0x17D80 + 32 * bank

/-- RELCFG of a bank. -/
def CoreSt.relcfg (c : CoreSt) (bank : Nat) : Word := c.sysr (0x190 + bank)

/-- Adding one, modulo 2^32, to a counter of a bank record. -/
def State.countRecord (s : State) (core off : Nat) : State :=
  s.setBytes (.core core off) (leBytes 4 (s.numAt (.core core off) 4 + 1))

/-- A release begins at chip time t (R318). -/
def State.beginRelease (s : State) (core bank : Nat) (t : Word) : State :=
  let s := s.setBytes (.core core (bankRecord bank + 16)) (leBytes 8 t.toNat)
  let s := s.countRecord core (bankRecord bank + 24)
  let x := s.ctxAt core bank
  s.setCtxAt core bank { x with isReleased := true, fired := false, run := if x.run = .released then .running else x.run }

/-- A trigger of an enabled bank at chip time t (R318). -/
def State.trigger (s : State) (core bank : Nat) (t : Word) : State :=
  let x := s.ctxAt core bank
  if !((s.core core).relcfg bank).getLsbD 63 then s
  else if !x.isReleased then s.beginRelease core bank t
  else if x.pend then s.countRecord core (bankRecord bank + 28)
  else s.setCtxAt core bank { x with pend := true, tpend := t }

/-- The banks of a core whose RELCFG a test picks. -/
def CoreSt.banks (c : CoreSt) (ok : Word → Bool) : List Nat := (List.range 4).filter fun b => ok (c.relcfg b)

/-! ### Receive rings (R225-R230) -/

/-- The descriptor of ring n (R225). -/
def ringBase (core ring : Nat) : Nat := (if Config.isReflex core then 0x17E00 else 0x4FFE00) + 32 * ring

/-- A ring descriptor (R226). -/
structure Ring where
  w0 : Word
  head : Word
  tail : Word
  read : Word
deriving DecidableEq, Repr

/-- The descriptor as the ring logic reads it. -/
def State.ring (s : State) (core ring : Nat) : Ring :=
  let w (k : Nat) : Word := BitVec.ofNat 64 (s.numAt (.core (s.pairHead core) (ringBase core ring + 8 * k)) 8)
  ⟨w 0, w 1, w 2, w 3⟩

def Ring.en (r : Ring) : Bool := r.w0.getLsbD 31
/-- Buffer size in bytes. -/
def Ring.size (r : Ring) : Nat := 2 ^ bits r.w0 24 5
def Ring.base (r : Ring) : Nat := bits r.w0 0 23

/-- The ring is malformed (R226). -/
def Ring.malformed (r : Ring) (memBytes : Nat) : Bool :=
  decide (bits r.w0 24 5 < 10) || decide (20 < bits r.w0 24 5) || bits r.w0 32 32 != 0 || bits r.w0 29 2 != 0
    || bits r.w0 23 1 != 0 || r.base % 64 != 0 || decide (memBytes < r.base + r.size)
    || decide (r.read.toNat < r.head.toNat) || decide (r.size < (r.tail - r.head).toNat)

/-- The buffer offset of a byte count. -/
def Ring.at (r : Ring) (c : Word) : Nat := r.base + c.toNat % r.size

/-- Bytes of an entry with a payload of n bytes (R227). -/
def entryBytes (n : Nat) : Nat := 16 + 16 * ((n + 15) / 16)

/-- The bytes left between TAIL and the end of the buffer, skipped by a pad when the entry would cross it. -/
def Ring.pad (r : Ring) (n : Nat) : Nat :=
  let left := r.size - r.tail.toNat % r.size
  if left < entryBytes n then left else 0

/-- A message for a ring: header fields and payload (R227). -/
structure Message where
  kind : Nat
  srcctx : Nat
  src : Nat
  vf : Nat
  payload : List Byte
deriving DecidableEq, Repr

/-- The 16 header bytes (R227). -/
def Message.header (m : Message) (kind len time : Nat) : List Byte :=
  leBytes 2 len ++ [BitVec.ofNat 8 kind, BitVec.ofNat 8 (m.srcctx % 16), BitVec.ofNat 8 m.src, BitVec.ofNat 8 m.vf] ++
    leBytes 2 0 ++ leBytes 8 time

/-- The payload padded with zeros to a multiple of 16. -/
def padded (bs : List Byte) : List Byte := bs ++ List.replicate ((16 - bs.length % 16) % 16) 0

/-- The ring code of an arrival (R228): 0 where the entry is written. -/
def State.ringCode (s : State) (core ring : Nat) (m : Message) : Nat :=
  let r := s.ring core ring
  if !r.en then 2
  else if r.malformed (memSize core) then 4
  else if m.vf ≠ (s.core core).vf then 3
  else if r.size - (r.tail - r.head).toNat < r.pad m.payload.length + entryBytes m.payload.length then 1
  else 0

/-- The triggers of an advance of TAIL (R318). -/
def State.ringTriggers (s : State) (core ring : Nat) : State :=
  if Config.isReflex core then
    ((s.core core).banks fun v => bits v 61 2 == 1 && bits v 57 4 == ring).foldl
      (fun s b => s.trigger core b (BitVec.ofNat 64 s.now)) s
  else s

/-- The pad and the entry are written and TAIL moves past both (R227, R228); contexts wake and banks are triggered. -/
def State.ringWrite (s : State) (core ring : Nat) (m : Message) : State :=
  let r := s.ring core ring
  let n := m.payload.length
  let p := r.pad n
  let s := if p = 0 then s else s.putCore core (r.at r.tail) (m.header 0 (p - 16) s.now)
  let s := s.putCore core (r.at (r.tail + BitVec.ofNat 64 p)) (m.header m.kind n s.now ++ padded m.payload)
  let s := s.putCore core (ringBase core ring + 16) (leBytes 8 (r.tail + BitVec.ofNat 64 (p + entryBytes n)).toNat)
  (s.wake core).ringTriggers core ring

/-- The answer to a SEND (R228): the new TAIL, or the refusal; with the state after it. -/
def State.sendResult (s : State) (handle : Word) (m : Message) : Word × State :=
  let core := bits handle 0 7
  let ring := bits handle 8 4
  let code := if bits handle 12 52 ≠ 0 ∨ bits handle 7 1 ≠ 0 ∨ 95 < core ∨ (Config.isReflex m.src ∧ core < 64) then 5
    else s.ringCode core ring m
  if code ≠ 0 then (BitVec.ofNat 64 (2 ^ 63 + code), s)
  else let t := s.ringWrite core ring m; ((t.ring core ring).tail, t)

/-- SEND n reaches its ring, and its answer sets out. -/
def State.sendArrive (s : State) (n : Nat) : State :=
  match s.flight[n]? with
  | some (.send c k d h p vf) =>
    let (v, t) := s.sendResult h { kind := 1, srcctx := k, src := c, vf := vf, payload := p }
    t.refly n (.sendAnswer c k d v)
  | _ => s

/-- An answer reaches its context. -/
def State.answerArrive (s : State) (n : Nat) : State :=
  match s.flight[n]? with
  | some (.sendAnswer c k d v) => (s.unfly n).deliver c k d v true
  | _ => s

/-- The source block of SEND and CHSEND, checked (R228): its payload of at most maxLen bytes. -/
def State.sourceBlock (s : State) (va : Word) (maxLen : Nat) : Except Stop (List Byte) := do
  let size := memSize s.cur.core
  let trap (code : BitVec 8) : Stop := .trap code va ({ space := 1 } : AddrInfo).word
  if size < va.toNat + 16 then .error (trap cIllegalAddress)
  else
    let len := s.numAt (.core s.cur.core va.toNat) 2
    if size < va.toNat + 16 + len then .error (trap cIllegalAddress)
    else if va.toNat % 16 ≠ 0 then .error (trap cAlign)
    else do
      let locs : List Loc := [⟨⟨0, va, va, 16 + len, 16⟩, some (.core s.cur.core va.toNat), 0⟩]
      s.clearOf locs
      s.consume 0 locs
      if len = 0 ∨ maxLen < len ∨ s.numAt (.core s.cur.core (va.toNat + 2)) 14 ≠ 0 then .error reservedAtExec
      else .ok (s.bytesAt (.core s.cur.core (va.toNat + 16)) len)

/-- SEND (R228). -/
def execSend (d a b : Reg5) (g : Reg3) (s : State) : Host.Outcome State Fault Refusal :=
  s.guarded g 1 (do
    let p ← s.sourceBlock (s.getG b) 4096
    let f := Flight.send s.cur.core s.cur.ctx d.toNat (s.getG a) p s.me.vf
    .ok ((s.sent 1).dispatchFlight f fun t n => (t.sendArrive n).answerArrive n))

/-- SEND at its ring (R228), once its release is done (R217). -/
def execSendArrival (n : Nat) (s : State) : Host.Outcome State Fault Refusal :=
  .next (match s.flight[n]? with
    | some (.send c k _ _ _ _) => if s.releaseDone n c k then s.sendArrive n else s
    | _ => s)

/-- The answer of a SEND returns (R228). -/
def execSendAnswer (n : Nat) (s : State) : Host.Outcome State Fault Refusal := .next (s.answerArrive n)

/-- n bytes of the issuing core's own memory from an offset on. -/
def State.ownLoc (s : State) (off n : Nat) : Loc :=
  ⟨⟨0, BitVec.ofNat 64 off, BitVec.ofNat 64 off, n, 1⟩, some (.core s.cur.core off), 0⟩

/-- The ring that RECV and RPOLL name (R229); poison in its descriptor is consumed by the read (R342). That the ring logic itself heeds no
poison in a descriptor that it reads for an arrival is the model's choice (log 99). -/
def State.recvRing (s : State) (v : Word) : Except Stop Ring :=
  let bad : Stop := .trap cIllegalAddress v 0
  if 15 < v.toNat then .error bad
  else do
    let d := s.ownLoc (ringBase s.cur.core v.toNat) 32
    s.clearOf [d]
    s.consume 0 [d]
    let r := s.ring s.cur.core v.toNat
    if !r.en ∨ r.malformed (memSize s.cur.core) then .error bad else .ok r

/-- READ after the pad entries at it, by at most fuel steps. -/
def State.skipPads (s : State) (r : Ring) : Nat → Word → Word
  | 0, c => c
  | n + 1, c =>
    if c = r.tail then c
    else if s.byteAt (.core s.cur.core (r.at c + 2)) ≠ 0 then c
    else s.skipPads r n (c + 16 + BitVec.ofNat 64 (s.numAt (.core s.cur.core (r.at c)) 2))

/-- An instruction that reads a ring (0 to 15) or a queue port (16 and up) takes its place among the readers of it, in issue
order (R25, R229). -/
def State.joinReaders (s : State) (g : Reg3) (r : Nat) : State :=
  if !s.guardOn g || (s.my.place.map (·.1)) == some r then s
  else (s.setMe { s.me with readOrder := s.me.readOrder + 1 }).setMy { s.my with place := some (r, s.me.readOrder) }

/-- A context that waits at the same ring or port issued before this one. -/
def State.behind (s : State) (r : Nat) : Bool :=
  s.me.ctxs.any fun e => match e.2.place, s.my.place with
    | some (q, n), some (_, m) => q == r && decide (n < m)
    | _, _ => false

/-- RECV (R229): READ passes pads and one entry; the context sleeps where there is none. -/
def execRecv (d a : Reg5) (g : Reg3) (s : State) : Host.Outcome State Fault Refusal :=
  let s := s.joinReaders g (s.getG a).toNat
  s.guarded g 1 (do
    let v := s.getG a
    let r ← s.recvRing v
    let c := s.skipPads r 2 r.read
    if c = r.tail ∨ s.behind v.toNat then .error .sleep
    else do
      let h := r.at c
      s.clearOf [s.ownLoc h 16]
      s.consume 0 [s.ownLoc h 16]
      let n := entryBytes (s.numAt (.core s.cur.core h) 2)
      let t := s.setBytes (.core s.cur.core (ringBase s.cur.core v.toNat + 24)) (leBytes 8 (c + BitVec.ofNat 64 n).toNat)
      .ok ((t.discardAhead.setG d (BitVec.ofNat 64 h)).advance 1))

/-- RPOLL (R229). -/
def execRpoll (d a : Reg5) (g : Reg3) (s : State) : Host.Outcome State Fault Refusal :=
  s.guarded g 1 (do
    let r ← s.recvRing (s.getG a)
    .ok ((s.setG d (r.tail - r.read)).advance 1))

/-! ### Domain barriers (R219-R221, R300) -/

/-- The key of a barrier: level and domain number. -/
def barKey (lvl dom : Nat) : Nat := lvl * 64 + dom

/-- A core that arrives by hardware: its share in a superstep of that level or above has retired (R300). -/
def CoreSt.implicit (c : CoreSt) (lvl : Nat) : Bool :=
  (match c.inStep with
    | some (l, _) => decide (lvl ≤ l)
    | none => false) && c.share.isEmpty && !c.taskOn && !c.clearing && !c.preempting

/-- Completion of a barrier on one core (R220, R221): DONE rises, an implicit arrival counts on both sides, the phase flips at
the core's own level. -/
def CoreSt.barDone (c : CoreSt) (lvl : Nat) (explicit ph : Bool) : CoreSt :=
  let c := { c with done := tset 0 c.done lvl (tget 0 c.done lvl + 1) }
  let c := if explicit then c else { c with arr := tset 0 c.arr lvl (tget 0 c.arr lvl + 1) }
  if lvl = c.lvl then { c with xph := ph } else c

/-- The core runs no share (R298). -/
def CoreSt.idleShare (c : CoreSt) : Bool := c.share.isEmpty && !c.taskOn && !c.clearing && !c.preempting

/-- A superstep ends when every core of its domain has retired its share and has STATUS.XPH = 0 (R300). -/
def State.endStep (s : State) (d : Nat × Nat) : State :=
  let cs := domCores d.1 d.2
  if cs.all fun c => (s.core c).idleShare && !(s.core c).xph then
    cs.foldl (fun s c => s.setCore c { s.core c with inStep := none }) { s with supersteps := s.supersteps.erase d }
  else s

/-- Every superstep that is over ends. -/
def State.endSteps (s : State) : State := s.supersteps.foldl State.endStep s

/-- The bit of an arrival mask that says that some arrival was by XPH. -/
def xphBit : Nat := 64

/-- A sent operation on core memory through a pointer (R134). -/
def ScAct.crosses : ScAct → Bool
  | .amof _ _ _ _ _ _ _ | .store _ _ _ => true
  | .amo _ p _ _ _ _ _ | .cas _ p _ _ _ _ _ => !p.travels
  | .issue | .logged => false

/-- A distributed access of a core's contexts is not performed yet. -/
def State.crossing (s : State) (core : Nat) : Bool :=
  (s.flight.any fun f => match f with
    | .remote c _ _ _ _ | .amof c _ _ _ _ _ _ _ _ _ | .bararv c _ _ _ => c == core
    | _ => false)
  || s.sc.any fun o => o.core == core && o.act.crosses

/-- A barrier completes when every core of the domain has arrived, and one of them by itself (R219, R300), and the distributed accesses
that their contexts issued meanwhile are performed (R263). -/
def State.barCheck (s : State) (lvl dom : Nat) : State :=
  let m := tget 0 s.arrivals (barKey lvl dom)
  let cs := domCores lvl dom
  if m ≠ 0 ∧ cs.all (fun c => (m.getLsbD c || (s.core c).implicit lvl) && !s.crossing c) then
    (cs.foldl (fun (s : State) c => (s.setCore c ((s.core c).barDone lvl (m.getLsbD c) (m.getLsbD xphBit))).wake c)
      { s with arrivals := tset 0 s.arrivals (barKey lvl dom) 0 }).endSteps
  else s

/-- The arrival of a core, and of its pair (R220, R312). -/
def State.barArrive (s : State) (core lvl dom : Nat) (ph : Bool) : State :=
  let m := (s.pairCores core).foldl (fun m c => m ||| BitVec.ofNat 96 (2 ^ c)) (tget 0 s.arrivals (barKey lvl dom))
  let m := if ph then m ||| BitVec.ofNat 96 (2 ^ xphBit) else m
  ({ s with arrivals := tset 0 s.arrivals (barKey lvl dom) m }).barCheck lvl dom

/-- The arrival of the issuing core: counted in ARR, and on its way (R220). -/
def State.arrive (s : State) (lvl : Nat) (ph : Bool) : State :=
  let core := s.cur.core
  let dom := domOf core lvl
  let s := (s.pairCores core).foldl (fun s c =>
    let o := s.core c
    s.setCore c { o with arr := tset 0 o.arr lvl (tget 0 o.arr lvl + 1), owed := tset false o.owed lvl true }) s
  if s.eager ∨ lvl = 0 then s.barArrive core lvl dom ph else s.fly [.bar core lvl dom ph]

/-- The context passes the barrier and acquires (R219). -/
def State.passBar (s : State) (lvl : Nat) : State :=
  let x := s.my
  (s.setMy { x with passed := tset 0 x.passed lvl (tget 0 x.passed lvl + 1) }).discardAhead.advance 1

/-- The arrival of the issuing core is passed: the next BAR or XPH of the level arrives anew. -/
def State.settleBar (s : State) (lvl : Nat) : State := s.setMe { s.me with owed := tset false s.me.owed lvl false }

/-- Every access of the core is performed, its helpers' too (R219, R263): what an arrival waits for. -/
def State.coreDone (s : State) : Bool := s.quiet s.cur.core && !(s.sc.any fun o => o.core == s.cur.core && o.sent)

/-- BAR and XPH (R219-R221): one passed since the restart point is owed no second arrival after a return, nor is one that the core has
arrived at (log 23). -/
def barrierBody (s : State) (lvl : Nat) (ph : Bool) : Except Stop State := do
  let x := s.my
  if tget 0 x.credit lvl ≠ 0 then
    .ok ((s.setMy { x with credit := tset 0 x.credit lvl (tget 0 x.credit lvl - 1) }).passBar lvl)
  else do
    let t ← if tget false s.me.owed lvl then .ok (s.barCheck lvl (domOf s.cur.core lvl)) else if s.coreDone then .ok (s.arrive lvl ph)
      else .error (.hold none)
    if tget 0 t.me.arr lvl ≤ tget 0 t.me.done lvl then .ok ((t.settleBar lvl).passBar lvl)
    else .ok (t.setMy { t.my with run := .barrier lvl })

/-- BAR (R219). -/
def execBar (lvl : BitVec 2) (g : Reg3) (s : State) : Host.Outcome State Fault Refusal :=
  s.guarded g 1 (if s.cur.ctx ≠ 0 ∨ s.me.lvl < lvl.toNat then .error reservedAtExec else barrierBody s lvl.toNat false)

/-- XPH (R221). -/
def execXph (g : Reg3) (s : State) : Host.Outcome State Fault Refusal :=
  s.guarded g 1 (if s.cur.ctx ≠ 0 then .error reservedAtExec else barrierBody s s.me.lvl true)

/-- An arrival reaches its barrier (R220). -/
def execBarrierArrival (n : Nat) (s : State) : Host.Outcome State Fault Refusal :=
  .next (match s.flight[n]? with
    | some (.bar c lvl dom ph) => (s.unfly n).barArrive c lvl dom ph
    | _ => s)

/-! ### Barrier cells (R222) -/

/-- BARARV (R222): one arrival; region-closing. -/
def execBararv (a : Reg5) (g : Reg3) (s : State) : Host.Outcome State Fault Refusal :=
  s.guarded g 1 (do
    let v := s.getG a
    let (locs, t) ← s.checkDist { write := true } [⟨0, v, v, 16, 16⟩] true
    let (c, off) := (locs.getD 0 ⟨⟨0, 0, 0, 0, 1⟩, none, 0⟩).bank
    .ok ((t.sent 1).dispatchFlight (.bararv s.cur.core s.cur.ctx c off) fun t n => (t.unfly n).arriveCell c off))

/-- A BARARV at its cell, once its release is done. -/
def execBararvArrival (n : Nat) (s : State) : Host.Outcome State Fault Refusal :=
  .next (match s.flight[n]? with
    | some (.bararv c k t off) => if s.releaseDone n c k then (s.unfly n).arriveCell t off else s
    | _ => s)

/-- BARWT (R222): the cell lies in the executing core's memory. -/
def execBarwt (a : Reg5) (g : Reg3) (s : State) : Host.Outcome State Fault Refusal :=
  s.guarded g 1 (do
    let v := s.getG a
    let inf : AddrInfo := { space := 2 }
    if s.reflex ∨ ¬ ptrOk s.rect v 16 ∨ s.namedCore v ≠ s.cur.core then .error (.trap cIllegalAddress v inf.word)
    else do
      let (locs, t) ← s.checkDist inf [⟨0, v, v, 16, 16⟩] true
      t.clearOf locs
      t.consume 0 locs
      let w := BitVec.ofNat 64 (t.numAt (.core t.cur.core (ptrOff v + 8)) 8)
      if bits w 48 16 ≤ bits w 0 48 then .ok (t.discardAhead.advance 1) else .error .sleep)

/-! ### Engines' queues and timelines (R223, R224) -/

/-- The command block: G8 is bytes 0-7 (R12). -/
def Ctx.pushBlock (x : Ctx) : BitVec 512 :=
  BitVec.ofNat 512 ((List.range 8).foldr (fun k acc => (x.getG (8 + k)).toNat + 2 ^ 64 * acc) 0)

/-- Commands that a queue holds (R303), submissions of a core's Dispenser queue (R290). -/
def queueDepth : Nat := 16

/-- The core's submission whose header is being read: it is taken once the header is read (R290). -/
def State.taking (s : State) (core : Nat) : Bool := s.launches.any fun l => l.unread && l.submitter == some core

/-- Q1 of the issuing core has no room; the submission being taken still has its place (R25, R290). -/
def State.q1Full (s : State) : Bool :=
  decide (queueDepth ≤ s.me.q1.length + if s.taking s.cur.core then 1 else 0)

/-- The channel of the copy engine that serves a core's cluster, or the core's tile-walk engine. -/
def State.chan (s : State) (cluster chan : Nat) : Channel :=
  if cluster < 16 then tget {} (s.cluster cluster).chans chan else (s.core chan).twe

def State.setChan (s : State) (cluster chan : Nat) (c : Channel) : State :=
  if cluster < 16 then s.setCluster cluster { s.cluster cluster with chans := tput (s.cluster cluster).chans chan c }
  else s.setCore chan { s.core chan with twe := c }

/-- A queue takes the block, or none where it is full (R223). -/
def State.enqueue (s : State) (e : Engine) : Option State :=
  let v := s.my.pushBlock
  let core := s.cur.core
  match e with
  | .dispenser =>
    if s.q1Full then none
    else some (s.setMe { s.me with q1 := s.me.q1 ++ [.inline v s.me.vf] })
  | .copy =>
    let k := clusterOf core
    let ch := cmdField v 8 3
    let c := s.chan k ch
    if queueDepth ≤ c.queue.length then none
    else some (s.setChan k ch { c with queue := c.queue ++ [{ bits := v, vf := s.me.vf, core := core, refused := none }] })
  | .walk =>
    let c := s.me.twe
    if queueDepth ≤ c.queue.length then none
    else some (s.setMe { s.me with twe := { c with queue := c.queue ++ [{ bits := v, vf := s.me.vf, core := core, refused := none }] } })

/-- PUSH (R223): 0 and region-closing, or 1 and no more where the queue is full. -/
def execPush (d : Reg5) (e : Engine) (g : Reg3) (s : State) : Host.Outcome State Fault Refusal :=
  s.guarded g 1 (match s.enqueue e with
    | some t => .ok ((t.setG d 0).sent 1)
    | none => .ok ((s.setG d 1).advance 1))

/-- The counter of timeline c0-c9 as the issuing core sees it, with what stopped the engine behind it. -/
def State.timeline (s : State) (t : Nat) : Nat × EngineStop :=
  if t < 8 then let c := s.chan (clusterOf s.cur.core) t; (c.counter, c.stop)
  else if t = 8 then (s.me.twe.counter, s.me.twe.stop)
  else (s.me.c9, .going)

/-- The engine identifier of a timeline (R345): copy engine, or tile-walk engine. -/
def State.engineId (s : State) (t : Nat) : Nat :=
  if t < 8 then 5 * 4096 + clusterOf s.cur.core * 8 + t else 6 * 4096 + s.cur.core

/-- TLRD (R224): a relaxed value, with STOP in bit 63. -/
def execTlrd (d t : Reg5) (g : Reg3) (s : State) : Host.Outcome State Fault Refusal :=
  let (v, st) := s.timeline t.toNat
  let stop := match st with
    | .stopped _ => true
    | _ => false
  s.done g 1 (s.setG d (setBit (BitVec.ofNat 64 v) 63 stop))

/-- TLWT (R224): sleeps until the counter has come, and acquires. -/
def timelineWait (s : State) (t : Nat) (v : Word) (len : Nat) : Except Stop State :=
  let (n, st) := s.timeline t
  if v.toNat ≤ n then .ok (s.discardAhead.advance len)
  else match st with
    | .stopped a => .error (.trap cLoadFault a ({ eng := true, engid := BitVec.ofNat 16 (s.engineId t) } : AddrInfo).word)
    | _ => .error .sleep

/-- TLWT with a register (R224). -/
def execTlwt (a t : Reg5) (g : Reg3) (s : State) : Host.Outcome State Fault Refusal :=
  s.guarded g 1 (timelineWait s t.toNat (s.getG a) 1)

/-- TLWT with a literal (R224). -/
def execTlwtLit (v : Word) (t : Reg5) (g : Reg3) (s : State) : Host.Outcome State Fault Refusal :=
  s.guarded g 3 (timelineWait s t.toNat v 3)

/-! ### Queue ports (R25, R231) -/

/-- Words of an entry written to consecutive registers, lowest bytes first. -/
def Ctx.setWords (x : Ctx) (d : Nat) : List Word → Ctx
  | [] => x
  | v :: vs => (x.setG d v).setWords (d + 1) vs

/-- The port's oldest entry as words, and the core without it. -/
def CoreSt.takePort (c : CoreSt) (q : Nat) : Option (List Word × CoreSt) :=
  match q with
  | 0 => match c.q0 with
    | [] => none
    | (a, b) :: t => some ([a, b], { c with q0 := t })
  | 2 => match c.q2 with
    | [] => none
    | v :: t => some ((List.range 8).map fun k => v.extractLsb' (64 * k) 64, { c with q2 := t })
  | _ => match c.q3 with
    | [] => none
    | v :: t => some ([setBit v 63 c.q3Ovf], { c with q3 := t, q3Ovf := false })

/-- QRD (R231). -/
def execQrd (d : Reg5) (q : Reg3) (g : Reg3) (s : State) : Host.Outcome State Fault Refusal :=
  let s := s.joinReaders g (16 + q.toNat)
  s.guarded g 1 (
    if 4 ≤ q.toNat then .error reservedAtExec
    else if q = 2 ∧ !s.my.mon then .error (privilege 2 0)
    else if s.behind (16 + q.toNat) then .error .sleep
    else match s.me.takePort q.toNat with
      | none => .error .sleep
      | some (ws, c) =>
        let t := s.setMe c
        let t := t.setMy (t.my.setWords d.toNat ws)
        .ok ((if q = 0 then t.discardAhead else t).advance 1))

/-- QWR to Q1 (R231, R290). -/
def execQwr (d a : Reg5) (q : Reg3) (g : Reg3) (s : State) : Host.Outcome State Fault Refusal :=
  s.guarded g 1 (
    let v := s.getG a
    if 4 ≤ q.toNat then .error reservedAtExec
    else if v.toNat % 64 ≠ 0 then .error (.trap cAlign v 0)
    else if s.q1Full then .ok ((s.setG d 1).advance 1)
    else .ok (((s.setMe { s.me with q1 := s.me.q1 ++ [.header v s.me.vf] }).setG d 0).sent 1))

/-- Events held behind a full Q0 enter it in posting order (R25, R297). -/
def execQ0EventPost (core : Nat) (s : State) : Host.Outcome State Fault Refusal :=
  let c := s.core core
  .next (match c.q0Held with
    | [] => s
    | e :: t => if c.q0.length < 64 then (s.setCore core { c with q0 := c.q0 ++ [e], q0Held := t }).wake core else s)

/-! ### Helpers (R232, R233) -/

/-- A helper's registers after the clear sequencer (R40). R40 lists registers only: that the event bit of WFE and the pending
asynchronous causes go too is the model's choice (log 81). -/
def Ctx.cleared (x : Ctx) : Ctx :=
  { ((x.setSysr 0x010 0).setSysr 0x011 0).setSysr 0x030 0 with
    g := [], p := [], v := [], a := [], streams := [], replayT := none, replayM := none, restart := {}, event := false,
    async := [], asyncHeld := false, passed := [], credit := [], holdPage := none, invalidAt := none, place := none, dispatching := none, cleaned := [] }

/-- The capability words zeroed. -/
def Ctx.noCaps (x : Ctx) : Ctx := { x with sys := terase x.sys 0x120 0x130 }

/-- A context that begins at an address with G1 given, at a privilege level, its restart point there (R34, R117, R232). -/
def Ctx.begin (x : Ctx) (pc g1 : Word) (mon : Bool) : Ctx :=
  let x := ({ x with pc := pc }.setG 1 g1).setSysr 0x100 (if mon then 1 else 0)
  x.record pc false 0

/-- START (R232): the lowest free helper begins once the release at CORE scope is done. -/
def execStart (d a b : Reg5) (g : Reg3) (s : State) : Host.Outcome State Fault Refusal :=
  s.guarded g 1 (
    let t := s.getG a
    if s.cur.ctx ≠ 0 then .error reservedAtExec
    else match targetStop t with
      | some e => .error e
      | none =>
        match ((List.range 11).drop 1).find? fun k => (s.me.ctx k).run == .free with
        | none => .ok ((s.setG d 0).advance 1)
        | some h =>
          let x := ((s.me.ctx h).cleared.noCaps).begin t (s.getG b) s.my.mon
          let u := s.setMe (s.me.setCtx h { x with run := if s.performed then .running else .released })
          let u := if s.performed then u else u.fly [.start s.cur.core s.cur.ctx h]
          .ok ((u.setG d (BitVec.ofNat 64 h)).sent 1))

/-- The helper of START n begins, once its release is done (R217, R232). -/
def State.startArrive (s : State) (n : Nat) : State :=
  match s.flight[n]? with
  | some (.start c k h) =>
    if s.releaseDone n c k then
      let x := s.ctxAt c h
      (s.unfly n).setCtxAt c h { x with run := if x.run = .released then .running else x.run }
    else s
  | _ => s

/-- Helper k of a core is live. -/
def CoreSt.helperLive (c : CoreSt) (k : Nat) : Bool := decide (1 ≤ k) && decide (k ≤ 10) && (c.ctx k).run != .free

/-- JOINH (R233). -/
def execJoinh (a : Reg5) (g : Reg3) (s : State) : Host.Outcome State Fault Refusal :=
  s.guarded g 1 (
    let n := (s.getG a).toNat
    if s.cur.ctx ≠ 0 then .error reservedAtExec
    else if (if n = 0 then (List.range 11).any s.me.helperLive else s.me.helperLive n) then .error .sleep
    else .ok (s.discardAhead.advance 1))

/-! ### Restart points (R235, R236) -/

/-- The recording of a restart point by REGION or CKPT: where the one that recorded it records it again as the first instruction
after a return, the count and the mark of poison are kept (R340, R342). -/
def Ctx.recordKept (x : Ctx) (pc : Word) (ckpt : Bool) : Ctx :=
  let r := x.restart
  let kept := r.fresh && r.byRegion && r.ckpt == ckpt && x.sysr 0x030 == pc
  let y := x.record pc ckpt (if kept then r.returns else 0)
  { y with restart := { y.restart with byRegion := true, poisoned := kept && r.poisoned } }

/-- REGION (R235). -/
def execRegion (g : Reg3) (s : State) : Host.Outcome State Fault Refusal :=
  s.done g 1 (s.setMy ((s.my.recordKept s.my.pc false).setReg true))

/-- The bytes of one entry of the checkpoint layout (R236). -/
def State.ckptBytes (s : State) (cls i : Nat) : List Byte :=
  match cls with
  | 0 => leBytes 8 (s.my.getG i).toNat
  | 1 => leBytes 8 (s.my.getA i).toNat
  | 2 => leBytes 16 (s.my.getP i).toNat
  | 3 => leBytes 128 (s.my.getV i).toNat
  | 4 => leBytes 8 (s.me.sysr (0x020 + i)).toNat
  | _ => leBytes 4096 (s.me.tile i).toNat

/-- A poisoned byte of a tile that CKPT would save (R342). -/
def CoreSt.wholeTilePoison (c : CoreSt) (t : Nat) : Except Stop Unit :=
  match c.tileBad.find? fun e => decide (512 * t ≤ e.1) && decide (e.1 < 512 * (t + 1)) with
  | some e => .error (.poison 2 (BitVec.ofNat 64 (8 * e.1)) 1)
  | none => .ok ()

/-- CKPT (R236): no effect on a lap that is no multiple of PERIOD. It reads its header and stores after the context's earlier accesses to
those bytes (R252). -/
def execCkpt (a : Reg5) (g : Reg3) (s : State) : Host.Outcome State Fault Refusal :=
  s.guarded g 1 (
    let lap := s.getG a
    let period := bits (s.me.sysr 0x032) 0 16
    let core := s.cur.core
    let base := s.me.ckptBase
    let outside : Stop := .trap cIllegalAddress (BitVec.ofNat 64 base) ({ space := 1, write := true } : AddrInfo).word
    if period = 0 ∨ lap.toNat % period ≠ 0 then .ok (s.advance 1)
    else if memSize core < base + 64 then .error outside
    else do
      s.clearOf [s.ownLoc base 64]
      s.consume 0 [s.ownLoc base 16]
      let w (k : Nat) : Word := BitVec.ofNat 64 (s.numAt (.core core (base + 8 * k)) 8)
      if bits (w 0) 32 8 ≠ 0 ∨ bits (w 1) 32 32 ≠ 0 ∨ s.numAt (.core core (base + 32)) 32 ≠ 0 then .error reservedAtExec
      else
        let es := placeLayout (base + 64) (ckptEntries (w 0) (w 1))
        if es.any (fun e => decide (memSize core < e.2.2.2 + e.2.2.1)) then .error outside
        else do
          firstBad es fun e => if e.1 = 5 then (match s.me.wholeTilePoison e.2.1 with
            | .error p => some p
            | .ok _ => none) else none
          s.clearOf (es.map fun e => s.ownLoc e.2.2.2 e.2.2.1)
          let t := es.foldl (fun t e => t.setBytes (.core core e.2.2.2) (s.ckptBytes e.1 e.2.1)) s
          let t := t.setBytes (.core core (base + 16)) (leBytes 8 (s.my.pc + 4).toNat ++ leBytes 8 lap.toNat)
          let t := t.setMe (t.me.setSysr 0x032 (lap.extractLsb' 0 32 ++ (t.me.sysr 0x032).extractLsb' 0 32))
          let x := s.my.recordKept (s.my.pc + 4) true
          let t := t.advance 1
          .ok (t.setMy { t.my.setSysr 0x030 (s.my.pc + 4) with restart := x.restart, passed := x.passed }))

end Sys2Proof.Machine
end

