-- ==== Sys2Proof/Machine/Mirror.lean ====
section
/-! DEFINITION. The Mirror (R237-R240, R321-R326), time and events (R241), and the triggers and deadlines of reflex banks
(R318, R319). -/

namespace Sys2Proof.Machine

/-! ### Slots (R321, R322) -/

/-- Function v may publish (bit 5 + v) or read (bit v) by the grant bits in effect (R322). -/
def Slot.grants (x : Slot) (publish : Bool) (vf : Nat) : Bool :=
  (tget 0 x.inEffect 0).getLsbD (if publish then 5 + vf else vf)

/-- Bytes of buffer b. -/
def Slot.buf (x : Slot) (b : Nat) : List Byte := if b = 0 then x.buf0 else if b = 1 then x.buf1 else x.buf2

/-- Byte i of buffer b; what nothing has written is zero (R321). -/
def Slot.byte (x : Slot) (b i : Nat) : Byte := (x.buf b).getD i 0

/-- The first bytes of a list replaced. -/
def overlay (new old : List Byte) : List Byte := new ++ old.drop new.length

def Slot.setBuf (x : Slot) (b : Nat) (bs : List Byte) : Slot :=
  if b = 0 then { x with buf0 := bs } else if b = 1 then { x with buf1 := bs } else { x with buf2 := bs }

/-- The buffer that is neither CUR nor PREV (R323). -/
def Slot.freeBuf (x : Slot) : Nat := 3 - x.cur - x.prev

/-- The number by which Slot.bad names the header. -/
def headerBad : Nat := 3

/-- The checks of R237: slot number, buffer range, alignment, grant. -/
def State.mirrorCheck (s : State) (v : Word) (buf : Option (Word × Nat)) (publish : Bool) : Except Stop Nat := do
  let inf : AddrInfo := { space := 1, write := !publish }
  if 4095 < v.toNat then .error (.trap cIllegalAddress v 0)
  else do
    match buf with
    | some (a, n) =>
      if memSize s.cur.core < a.toNat + n then .error (.trap cIllegalAddress a inf.word)
      else if a.toNat % 16 ≠ 0 then .error (.trap cAlign a inf.word)
    | none => pure ()
    if (s.slot v.toNat).grants publish s.me.vf then .ok v.toNat
    else .error (.trap cProtection v ({ pkind := 5 } : AddrInfo).word)

/-! ### Publication (R238, R323) -/

/-- A publication of a slot, in flight or being written. -/
def Flight.publishes (slot : Nat) : Flight → Bool
  | .mpub _ _ _ n _ => n == slot
  | _ => false

/-- A publication by a context. -/
def Flight.publishedBy (core ctx : Nat) : Flight → Bool
  | .mpub c k _ _ _ => c == core && k == ctx
  | _ => false

/-- Publication n starts: its payload goes into the slot's free buffer (R323). -/
def State.publish (s : State) (n : Nat) : State :=
  match s.flight[n]? with
  | some (.mpub c k d slot p) =>
    let x := s.slot slot
    let b := x.freeBuf
    let s := (s.unfly n).setSlot slot { x.setBuf b (overlay p (x.buf b)) with bad := x.bad.filter (· != b) }
    { s with pubs := s.pubs ++ [.mpub c k d slot p] }
  | _ => s

/-- The notification of R25 to Q3 of a core: a new entry, one merged into its slot's, or OVF. R25 says of a merge neither which VERS
the entry then carries nor which entry it is where several of that slot are queued: every one of them gets the new version (log 98). -/
def State.postQ3 (s : State) (core slot : Nat) (vers : Word) : State :=
  let c := s.core core
  let e : Word := BitVec.ofNat 64 (vers.toNat % 2 ^ 51 * 4096 + slot)
  if c.q3.length < 32 then (s.setCore core { c with q3 := c.q3 ++ [e] }).wake core
  else if c.q3.any fun o => bits o 0 12 == slot then
    s.setCore core { c with q3 := c.q3.map fun o => if bits o 0 12 = slot then e else o }
  else s.setCore core { c with q3Ovf := true }

/-- Cores that a slot's grant entry in effect names for notifications (R322). -/
def Slot.noted (x : Slot) : List Nat :=
  (List.range 96).filter fun c =>
    if c < 64 then (tget 0 x.inEffect 1).getLsbD c else (tget 0 x.inEffect 2).getLsbD (c - 64)

/-- The flip (R323): header, publisher's gd, notifications, triggers. -/
def State.flip (s : State) (slot : Nat) : State :=
  match s.pubs.find? (·.publishes slot) with
  | some (.mpub c k d n p) =>
    let x := s.slot slot
    let b := x.freeBuf
    let t : Word := BitVec.ofNat 64 s.now
    let x' := { x with prev := x.cur, cur := b, tprev := x.tflip, pprev := x.plen, vers := x.vers + 1, tflip := t,
                       plen := p.length, bad := x.bad.filter (· != headerBad) }
    let s := { s.setSlot slot x' with pubs := s.pubs.erase (.mpub c k d n p) }
    let s := s.deliver c k d x'.vers true
    let mayRead (s : State) (core : Nat) : Bool := x'.grants false (s.core core).vf
    let s := x'.noted.foldl (fun s core => if mayRead s core then s.postQ3 core slot x'.vers else s) s
    ((List.range 96).filter Config.isReflex).foldl (fun s core =>
      if mayRead s core then
        ((s.core core).banks fun v => bits v 61 2 == 2 && bits v 49 12 == slot).foldl (fun s b => s.trigger core b t) s
      else s) s
  | _ => s

/-- MPUB (R238): region-closing; gd receives the version at the flip. -/
def execMpub (d a b : Reg5) (len : BitVec 11) (g : Reg3) (s : State) : Host.Outcome State Fault Refusal :=
  s.guarded g 3 (do
    let va := s.getG b
    let slot ← s.mirrorCheck (s.getG a) (some (va, len.toNat)) true
    let locs : List Loc := [⟨⟨0, va, va, len.toNat, 16⟩, some (.core s.cur.core va.toNat), 0⟩]
    s.clearOf locs
    s.consume 0 locs
    let p := s.bytesAt (.core s.cur.core va.toNat) len.toNat
    .ok ((s.sent 3).dispatchFlight (.mpub s.cur.core s.cur.ctx d.toNat slot p) fun t n =>
      if t.pubs.any (·.publishes slot) then t else (t.publish n).flip slot))

/-- An MPUB reaches the Mirror (R323): its release is done, and no publication of the slot is being written. -/
def execMirrorPublication (n : Nat) (s : State) : Host.Outcome State Fault Refusal :=
  .next (match s.flight[n]? with
    | some (.mpub c k _ slot _) =>
      if s.releaseDone n c k && !s.pubs.any (·.publishes slot) && !(s.flight.take n).any (·.publishedBy c k)
      then s.publish n else s
    | _ => s)

/-- The header of a slot flips (R323). -/
def execMirrorFlip (slot : Nat) (s : State) : Host.Outcome State Fault Refusal := .next (s.flip slot)

/-! ### Reading (R239, R324, R326) -/

/-- The read record before the payload (R239). -/
def readRecord (vers tflip age : Word) (plen : Nat) : List Byte :=
  leBytes 8 vers.toNat ++ leBytes 8 tflip.toNat ++ leBytes 8 age.toNat ++ leBytes 4 plen ++ leBytes 4 0

/-- Record and payload of at most len bytes of a version. -/
def Slot.record (x : Slot) (b : Nat) (vers tflip : Word) (plen len now : Nat) : List Byte :=
  readRecord vers tflip (BitVec.ofNat 64 now - tflip) plen ++ (List.range (Nat.min len plen)).map (x.byte b)

/-- The Mirror error record (R326, R345). -/
def mirrorError (slot sev : Nat) : ErrRec := { cls := 0x0C, engid := 10 * 4096, sev := sev, detail := BitVec.ofNat 64 slot }

/-- What an MREAD arriving now receives: the bytes, the version, and the state after an error record where one is due. -/
def State.mirrorRead (s : State) (slot len : Nat) : List Byte × Word × State :=
  let x := s.slot slot
  if !(x.bad.contains x.cur || x.bad.contains headerBad) then (x.record x.cur x.vers x.tflip x.plen len s.now, x.vers, s)
  else if x.vers ≠ 0 ∧ x.bad.contains x.prev = false then
    (x.record x.prev (x.vers - 1) x.tprev x.pprev len s.now, x.vers - 1, s.report (mirrorError slot 1))
  else (readRecord 0 0 (BitVec.ofNat 64 s.now) 0, 0, s.report (mirrorError slot 2))

/-- MREAD n arrives and takes its bytes (R324). -/
def State.readArrive (s : State) (n : Nat) : State :=
  match s.flight[n]? with
  | some (.mread c k d slot buf len) =>
    let (bs, v, t) := s.mirrorRead slot len
    t.refly n (.mreadDone c k d buf bs v)
  | _ => s

/-- The record is written and gd receives the version; the context acquires (R239). -/
def State.readDone (s : State) (n : Nat) : State :=
  match s.flight[n]? with
  | some (.mreadDone c k d buf bs v) =>
    let cur := s.cur
    let t := (s.unfly n).putCore c buf bs
    let t := (t.setCtxAt c k ((t.ctxAt c k).setG d v)).at c k
    { t.discardAhead with cur := cur }
  | _ => s

/-- MREAD (R239), after the context's earlier accesses to the bytes of its buffer (R252). -/
def execMread (d a b : Reg5) (len : BitVec 11) (g : Reg3) (s : State) : Host.Outcome State Fault Refusal :=
  s.guarded g 3 (do
    let va := s.getG b
    let slot ← s.mirrorCheck (s.getG a) (some (va, 32 + len.toNat)) false
    s.clearOf [⟨⟨0, va, va, 32 + len.toNat, 16⟩, some (.core s.cur.core va.toNat), 0⟩]
    let t := s.advance 3
    let u := t.fly [.mread s.cur.core s.cur.ctx d.toNat slot va.toNat len.toNat]
    .ok (if s.eager && !s.pubs.any (·.publishes slot) && !s.flight.any (·.publishedBy s.cur.core s.cur.ctx)
      then (u.readArrive s.flight.length).readDone s.flight.length else u))

/-- The MREAD in flight n waits for a read channel: the context's earlier publications have flipped (R264), and a reflex core has no
other MREAD at the Mirror (R330). -/
def State.readWaits (s : State) (n : Nat) : Option Nat :=
  match s.flight[n]? with
  | some (.mread c k _ slot _ _) =>
    let mine := (s.flight.take n ++ s.pubs).any fun f => f.publishedBy c k && f.publishes slot
    let busy := Config.isReflex c && s.flight.any fun f => match f with
      | .mreadDone c' _ _ _ _ _ => c' == c
      | _ => false
    if mine || busy then none else some c
  | _ => none

/-- MREADs of reflex cores at the Mirror. -/
def State.readChannels (s : State) : Nat :=
  (s.flight.filter fun f => match f with
    | .mreadDone c _ _ _ _ _ => Config.isReflex c
    | _ => false).length

/-- How far a core lies after the one granted last. -/
def State.readTurn (s : State) (core : Nat) : Nat := (core + 95 - s.mreadLast) % 96

/-- An MREAD is granted a read channel (R324); the eight of the reflex side go round-robin among the waiting cores (R330). -/
def execMirrorReadArrival (n : Nat) (s : State) : Host.Outcome State Fault Refusal :=
  .next (match s.readWaits n with
    | none => s
    | some c =>
      if !Config.isReflex c then s.readArrive n
      else
        let waiting := (List.range s.flight.length).filterMap s.readWaits
        if 8 ≤ s.readChannels ∨ waiting.any (fun o => Config.isReflex o && decide (s.readTurn o < s.readTurn c)) = true then s
        else { s.readArrive n with mreadLast := c })

/-- The read record is written (R324). -/
def execMirrorReadDone (n : Nat) (s : State) : Host.Outcome State Fault Refusal := .next (s.readDone n)

/-- MWAIT (R240). -/
def execMwait (d a b : Reg5) (g : Reg3) (s : State) : Host.Outcome State Fault Refusal :=
  s.guarded g 1 (do
    let slot ← s.mirrorCheck (s.getG a) none false
    let v := (s.slot slot).vers
    if (s.getG b).toNat < v.toNat then .ok ((s.setG d v).advance 1) else .error .sleep)

/-! ### Grants (R322) -/

/-- Reserved bits of a grant word (R322). -/
def grantReserved (word : Nat) (v : Word) : Bool :=
  match word with
  | 0 => bits v 10 54 != 0
  | 1 => false
  | 2 => bits v 32 32 != 0
  | _ => v != 0

/-- The monitor complex writes a grant word; one that sets a reserved bit is ignored whole (R322). -/
def execMirrorGrantWrite (slot word : Nat) (v : Word) (s : State) : Host.Outcome State Fault Refusal :=
  s.event (decide (slot ≤ 4095) && decide (word < 4) && !grantReserved word v)
    (s.setSlot slot { s.slot slot with grant := tset 0 (s.slot slot).grant word v })

/-- Requests of a slot that were checked and are not yet performed. -/
def State.slotBusy (s : State) (slot : Nat) : Bool :=
  (s.flight ++ s.pubs).any fun f => match f with
    | .mpub _ _ _ n _ => n == slot
    | .mread _ _ _ n _ _ => n == slot
    | _ => false

/-- The grant words written take effect on every core (R322). -/
def execMirrorGrantInEffect (slot : Nat) (s : State) : Host.Outcome State Fault Refusal :=
  s.event (!s.slotBusy slot) (s.setSlot slot { s.slot slot with inEffect := (s.slot slot).grant })

/-! ### Time and events (R241) -/

/-- TIME (R241): the replica's chip time; where the replica has been set back, the latest value that the context has read, until
it has come past that. -/
def execTime (d : Reg5) (g : Reg3) (s : State) : Host.Outcome State Fault Refusal :=
  let t := Nat.max (s.replica s.cur.core) s.my.timeSeen
  s.done g 1 ((s.setMy { s.my with timeSeen := t }).setG d (BitVec.ofNat 64 t))

/-- SLEEP until an absolute deadline (R241). -/
def sleepUntil (s : State) (t : Word) (len : Nat) : Except Stop State :=
  if t.toNat ≤ s.replica s.cur.core then .ok (s.advance len) else .error .sleep

/-- SLEEP with a register (R241). -/
def execSleep (b : Reg5) (g : Reg3) (s : State) : Host.Outcome State Fault Refusal := s.guarded g 1 (sleepUntil s (s.getG b) 1)

/-- SLEEP with a literal (R241). -/
def execSleepLit (v : Word) (g : Reg3) (s : State) : Host.Outcome State Fault Refusal := s.guarded g 3 (sleepUntil s v 3)

/-- WFE (R241). -/
def execWfe (g : Reg3) (s : State) : Host.Outcome State Fault Refusal :=
  s.guarded g 1 (.ok (if s.my.event then (s.setMy { s.my with event := false }).advance 1
    else s.setMy { s.my with run := .wfe }))

/-- A WFE wakes with no event (R241): it finds its bit set and passes. -/
def execWfeWakeWithNoEvent (core ctx : Nat) (s : State) : Host.Outcome State Fault Refusal :=
  s.event ((s.ctxAt core ctx).run == .wfe) (s.setCtxAt core ctx { s.ctxAt core ctx with event := true, run := .running })

/-- A sleeping context is looked at again (R216): its instruction issues and sleeps on if its condition does not hold. A helper
whose START is released begins (R232). -/
def State.wakeCtx (s : State) (core ctx : Nat) : State :=
  let x := s.ctxAt core ctx
  match x.run with
  | .sleeping | .wfe | .barrier _ => s.setCtxAt core ctx { x with run := .running }
  | .released =>
    (match s.flight.findIdx? (fun (f : Flight) => match f with
      | .start c _ h => c == core && h == ctx
      | _ => false) with
    | some n => s.startArrive n
    | none => s)
  | _ => s

/-- A sleeping instruction wakes (R216). -/
def execContextWake (core ctx : Nat) (s : State) : Host.Outcome State Fault Refusal := .next (s.wakeCtx core ctx)

/-- A SLEEP deadline comes (R241): the context issues its SLEEP again. -/
def execSleepDeadline (core ctx : Nat) (s : State) : Host.Outcome State Fault Refusal :=
  .next (if (s.ctxAt core ctx).run = .sleeping then s.wakeCtx core ctx else s)

/-! ### Triggers and deadlines (R318, R319) -/

/-- The first periodic trigger time from T on (R318). -/
def nextTrigger (v : Word) (t : Nat) : Nat :=
  let p := 16 * bits v 39 22
  let ph := 16 * bits v 17 22
  if p = 0 then t else t + (ph + p - t % p) % p

/-- A periodic trigger (R318): the next one since T_cfg, once the replica has reached it. -/
def execPeriodicTrigger (core bank : Nat) (s : State) : Host.Outcome State Fault Refusal :=
  let v := (s.core core).relcfg bank
  let x := s.ctxAt core bank
  let t := nextTrigger v x.tcfg.toNat
  s.event (Config.isReflex core && decide (bank < 4) && v.getLsbD 63 && bits v 61 2 == 0 && bits v 39 22 != 0
      && decide (t ≤ s.replica core))
    ((s.setCtxAt core bank { x with tcfg := BitVec.ofNat 64 (t + 1) }).trigger core bank (BitVec.ofNat 64 t))

/-- The chip time of a bank's deadline: TREL + 64 * DEADLINE (R319). -/
def State.deadline (s : State) (core bank : Nat) : Nat :=
  s.numAt (.core core (bankRecord bank + 16)) 8 + 64 * bits ((s.core core).relcfg bank) 0 17

/-- EINFO of WATCHDOG (R335). -/
def watchdogInfo (bank late : Nat) : Word := BitVec.ofNat 64 (bank % 4 * 2 ^ 32 + late % 2 ^ 32)

/-- WATCHDOG (R319): the trap at the bank's next instruction boundary, once per release. The record gives in DETAIL the trap's EINFO,
whose OVER is that of its delivery (R335): it is posted there (log 82). -/
def execWatchdog (core bank : Nat) (s : State) : Host.Outcome State Fault Refusal :=
  let x := s.ctxAt core bank
  let dl := s.deadline core bank
  s.event (Config.isReflex core && decide (bank < 4) && x.isReleased && !x.fired
      && bits ((s.core core).relcfg bank) 0 17 != 0 && decide (dl ≤ s.replica core))
    ((s.setCtxAt core bank { x with fired := true }).pendAsync core bank
      { code := cWatchdog, eaddr := 0, einfo := watchdogInfo bank (s.replica core - dl) })

end Sys2Proof.Machine
end

