-- ==== Sys2Proof/Machine/System.lean ====
section
/-! DEFINITION. Traps and system registers (R242-R244), translation and capabilities (R245-R247), and the writes of system
registers by the monitor's control path (R18, R22, R34, R287, R317, R327). -/

namespace Sys2Proof.Machine

/-! ### The system register map (R26, R27) -/

/-- Access codes of R26. -/
inductive SysAccess where
  | rw | tm | ro | m
deriving DecidableEq, Repr

/-- The access code of an assigned number (R27). -/
def sysAccess (n : Nat) : Option SysAccess :=
  if n = 0x000 ∨ n = 0x004 ∨ n = 0x019 ∨ (0x040 ≤ n ∧ n ≤ 0x047) then some .ro
  else if (0x001 ≤ n ∧ n ≤ 0x003) ∨ (0x005 ≤ n ∧ n ≤ 0x007) ∨ n = 0x030 then some .tm
  else if n = 0x010 ∨ n = 0x011 ∨ n = 0x018 ∨ (0x020 ≤ n ∧ n ≤ 0x027) ∨ n = 0x031 ∨ n = 0x032 then some .rw
  else if (0x100 ≤ n ∧ n ≤ 0x105) ∨ (0x110 ≤ n ∧ n ≤ 0x112) ∨ (0x120 ≤ n ∧ n ≤ 0x12F ∧ n % 4 ≠ 3)
    ∨ (0x140 ≤ n ∧ n ≤ 0x147) ∨ (0x180 ≤ n ∧ n ≤ 0x193) then some .m
  else none

/-- The checks of R26, in order. -/
def sysCheck (mon write : Bool) (n : Nat) : Except Stop Unit :=
  if !mon ∧ 0x100 ≤ n then .error (privilege 0 n)
  else match sysAccess n with
    | none => .error illegalAtExec
    | some .ro => if write then .error (privilege 0 n) else .ok ()
    | some .tm => if write ∧ !mon then .error (privilege 0 n) else .ok ()
    | some .rw => .ok ()
    | some .m => .ok ()

/-- Registers that read zero and ignore writes on this kind of core (R27, R37). -/
def sysIgnored (reflex : Bool) (n : Nat) : Bool :=
  if reflex then n == 0x001 || n == 0x003 || (decide (0x005 ≤ n) && decide (n ≤ 0x007))
  else decide (0x180 ≤ n) && decide (n ≤ 0x193)

/-- A capability word or table entry with a reserved bit set, or with VF above 4 (R18, R327). -/
def capReserved (v : Word) : Bool := bits v 35 28 != 0 || decide (4 < bits v 32 3)

/-- A value that RELCFG refuses (R316, R317). -/
def relcfgReserved (v : Word) : Bool :=
  match bits v 61 2 with
  | 0 => decide (bits v 39 22 < 64) || decide (bits v 39 22 ≤ bits v 17 22)
  | 1 => bits v 17 40 != 0
  | 2 => bits v 17 32 != 0
  | _ => true

/-- A value that SEGLIM refuses (R287). -/
def seglimReserved (v : Word) : Bool :=
  bits v 38 13 != 0 || bits v 0 12 != 0
    || (match bits v 61 2 with
      | 0 => bits v 54 7 != 0
      | 1 => decide (bits v 54 7 < 64) || decide (95 < bits v 54 7)
      | _ => true)

/-- An MTS of the value raises RESERVED_FIELD (R22, R26, R28-R35, R244). -/
def sysReserved (n : Nat) (v : Word) : Bool :=
  if n = 0x001 then bits v 32 32 != 0
  else if n = 0x002 then bits v 3 61 != 0 || decide (4 < bits v 0 3)
  else if n = 0x003 then bits v 14 50 != 0 || bits v 2 6 != 0
  else if n = 0x010 then bits v 3 61 != 0
  else if n = 0x011 then bits v 6 58 != 0
  else if n = 0x018 then bits v 10 54 != 0 || bits v 1 7 != 0
  else if 0x020 ≤ n ∧ n ≤ 0x027 then (shapeOf v).isNone
  else if n = 0x030 then bits v 56 8 != 0
  else if n = 0x031 then bits v 23 41 != 0 || bits v 0 6 != 0
  else if n = 0x032 then bits v 16 16 != 0
  else if n = 0x100 then bits v 14 50 != 0 || bits v 9 3 != 0 || bits v 2 3 != 0
  else if n = 0x101 then bits v 9 55 != 0
  else if n = 0x110 then bits v 56 8 != 0 || bits v 0 6 != 0
  else if n = 0x111 ∨ n = 0x112 then bits v 4 60 != 0
  else if 0x120 ≤ n ∧ n ≤ 0x12F ∧ n % 4 = 0 then capReserved v
  else if 0x140 ≤ n ∧ n ≤ 0x147 then capReserved v
  else if 0x180 ≤ n ∧ n ≤ 0x187 then bits v 56 8 != 0 || bits v 0 12 != 0
  else if 0x188 ≤ n ∧ n ≤ 0x18F then seglimReserved v
  else if 0x190 ≤ n ∧ n ≤ 0x193 then relcfgReserved v
  else false

/-! ### Reading (R28-R35, R244) -/

/-- IDCORE (R29); both cores of a pair read the even core's (R312). -/
def idcore (core : Nat) : Word :=
  BitVec.ofNat 64 (core + 2 ^ 8 * rowOf core + 2 ^ 12 * colOf core
    + (if Config.isReflex core then 2 ^ 20 else 2 ^ 16 * clusterOf core))

/-- SLOGSTAT (R33): an entry waits where its page is absent. -/
def State.slogstat (s : State) : Word :=
  let l := s.me.slog
  let w := l.any fun e => s.walk e.vf e.sector == .absent
  BitVec.ofNat 64 (l.length + (if l.length = 64 then 2 ^ 7 else 0) + (if w then 2 ^ 8 else 0))

/-- What MFS returns (R244). -/
def State.readSys (s : State) (n : Nat) : Word :=
  if sysIgnored s.reflex n then 0
  else if n = 0x000 then BitVec.ofNat 64 s.cur.ctx
  else if n = 0x004 then idcore (s.pairHead s.cur.core)
  else if n = 0x019 then s.slogstat
  else if 0x040 ≤ n ∧ n ≤ 0x047 then Config.featMask.extractLsb' (64 * (n - 0x040)) 64
  else if n = 0x100 then s.status
  else s.sysr n

/-- FPFLAGS and SPCTL are read and written after the flags of every earlier instruction (R199, R213, R244). -/
def State.flagsWait (s : State) (n : Nat) : Bool :=
  (n == 0x011 && (s.me.egu.any (fun e => e.ctx == s.cur.ctx) || !s.me.spe.isEmpty)) || (n == 0x018 && !s.me.spe.isEmpty)

/-- MFS (R244). -/
def execMfs (d : Reg5) (n : BitVec 12) (s : State) : Host.Outcome State Fault Refusal :=
  s.run (do
    sysCheck s.my.mon false n.toNat
    if s.flagsWait n.toNat then .error (.hold none) else .ok ((s.setG d (s.readSys n.toNat)).advance 1))

/-! ### Writing -/

/-- MTS to REGIONPC moves the restart address: it clears the replay state, the checkpoint mark and the count of returns (R34, R340). The
new point has consumed no poison: R342 keeps that mark per restart point, and R34 does not name it (log 97). -/
def Ctx.moveRestart (x : Ctx) (v : Word) : Ctx :=
  { x.setSysr 0x030 v with restart := { x.restart with replay := none, ckpt := false, byRegion := false, returns := 0, fresh := false, poisoned := false } }

/-- EMUBASE of a firmware bank: a table address (R35, R376). -/
def bankTable (b : Bool) : Word := Config.bankEmubase b &&& 0x00FFFFFFFFFFFFC0

/-- One core less has still to switch; with the last one ACTIVE flips (R376). -/
def State.fwCount (s : State) : State :=
  let n := bits s.fwstat 0 7 - 1
  let v := s.fwstat &&& ~~~(0x7F : Word) ||| BitVec.ofNat 64 n
  { s with fwstat := if n = 0 then setBit (setBit v 60 false) 63 (!v.getLsbD 63) else v }

/-- A core, or bank k of a reflex core, switches to the firmware bank made active for it (R376). The EMUBASE of the core, which its
banks share, is rewritten with the first of them (log 83). -/
def State.fwSwitch (s : State) (core k : Nat) : State :=
  let c := s.core core
  if !c.fwPending then s
  else
    let c := if Config.isReflex core then c.setCtx k { c.ctx k with fwPending := false } else c
    let old := s.fwstat.getLsbD 63
    let c := if c.fwBank == old then { c.setSysr 0x110 (bankTable (!old)) with fwBank := !old } else c
    if Config.isReflex core && c.ctxs.any (fun e => e.2.fwPending) then s.setCore core c
    else (s.setCore core { c with fwPending := false }).fwCount

/-- What of a core is not in use switches at once: a core without a share, a bank that is not enabled (R376). -/
def State.fwIdle (s : State) (core : Nat) : State :=
  if Config.isReflex core then
    ((s.core core).banks fun v => !v.getLsbD 63).foldl (fun s b => s.fwSwitch core b) s
  else if (s.core core).share.isEmpty && !(s.core core).taskOn then s.fwSwitch core 0
  else s

/-- A thing in flight whose result no register receives: its context has been configured anew (R317). -/
def Flight.unregistered (core ctx : Nat) (f : Flight) : Flight :=
  match f with
  | .send c k _ h p vf => if c = core ∧ k = ctx then .send c k 0 h p vf else f
  | .sendAnswer c k _ v => if c = core ∧ k = ctx then .sendAnswer c k 0 v else f
  | .mpub c k _ n p => if c = core ∧ k = ctx then .mpub c k 0 n p else f
  | .mread c k _ n b l => if c = core ∧ k = ctx then .mread c k 0 n b l else f
  | .mreadDone c k _ b bs v => if c = core ∧ k = ctx then .mreadDone c k 0 b bs v else f
  | _ => f

/-- Configuration of bank n of the issuing core by RELCFG (R317). What the bank has in the sum-product engine completes and sets its
flags (R214); the bank begins with code as it stands, as a task does (R84). RELCNT is 0 at any EN (log 108). -/
def State.configure (s : State) (n : Nat) (v : Word) : State :=
  let core := s.cur.core
  let s := { s with flight := s.flight.map (Flight.unregistered core n), pubs := s.pubs.map (Flight.unregistered core n) }
  let rec0 := bankRecord n
  let entry : Word := BitVec.ofNat 64 (s.numAt (.core core rec0) 8)
  let arg : Word := BitVec.ofNat 64 (s.numAt (.core core (rec0 + 8)) 8)
  let s := s.setBytes (.core core (rec0 + 16)) (List.replicate 16 0)
  let c := s.me
  let c := { c.setSysr (0x190 + n) v with egu := c.egu.filter fun e => e.ctx != n }
  let c := if v.getLsbD 63 then c.freshCode else c
  let x : Ctx := { c.ctx n with sys := [], isReleased := false, pend := false, tpend := 0, fired := false, run := .free }
  let x := x.cleared.setSysr 0x100 0
  let x := if v.getLsbD 63
    then { x.begin entry arg false with run := .released, tcfg := BitVec.ofNat 64 (s.replica core) } else x
  (s.setMe (c.setCtx n x)).fwIdle core

/-- An SC operation of a context is announced and not complete: a stop falls at the boundary after it (R261). -/
def State.scPending (s : State) (core ctx : Nat) : Bool := s.sc.any fun o => o.core == core && o.ctx == ctx

/-- The ENTRY of bank n's record is no address (R315, R317). -/
def State.entryBad (s : State) (n : Nat) : Bool :=
  (targetStop (BitVec.ofNat 64 (s.numAt (.core s.cur.core (bankRecord n)) 8))).isSome

/-- A checked write of a system register of the issuing context or core. -/
def State.writeSys (s : State) (n : Nat) (v : Word) : Except Stop State :=
  if sysIgnored s.reflex n then .ok s
  else if sysReserved n v then .error reservedAtExec
  else if 0x190 ≤ n ∧ n ≤ 0x193 then
    if v.getLsbD 63 ∧ s.entryBad (n - 0x190) then .error reservedAtExec
    else if s.scPending s.cur.core (n - 0x190) then .error (.hold none)
    else .ok (s.configure (n - 0x190) v)
  else if n = 0x030 then .ok (s.setMy (s.my.moveRestart v))
  else if n = 0x032 then .ok (s.setSysr n ((s.sysr n).extractLsb' 32 32 ++ v.extractLsb' 0 32))
  else if n = 0x100 then .ok (s.setSysr n (setBit (setBit (s.sysr n) 0 (v.getLsbD 0)) 1 (v.getLsbD 1)))
  else .ok (s.setSysr n v)

/-- MTS (R244). -/
def execMts (a : Reg5) (n : BitVec 12) (s : State) : Host.Outcome State Fault Refusal :=
  s.run (do
    sysCheck s.my.mon true n.toNat
    if s.flagsWait n.toNat then .error (.hold none)
    else if s.reflex ∧ n.toNat = 0x190 + s.cur.ctx then .error reservedAtExec
    else do
      let t ← s.writeSys n.toNat (s.getG a)
      .ok (t.advance 1))

/-! ### Writes by the monitor's control path -/

/-- A write of register n of a context of a core with the checks and effect of MTS, at monitor level; a refused one changes
nothing. -/
def State.controlWrite (s : State) (core ctx n : Nat) (v : Word) : State :=
  let cur := s.cur
  match sysCheck true true n, (s.at core ctx).writeSys n v with
  | .ok _, .ok t => { t with cur := cur }
  | _, _ => s

/-- REGIONPC (R34). -/
def execRegionpcWrite (core ctx : Nat) (v : Word) (s : State) : Host.Outcome State Fault Refusal :=
  .next (s.controlWrite core ctx 0x030 v)

/-- TSHAPE (R22). -/
def execTshapeWrite (core n : Nat) (v : Word) (s : State) : Host.Outcome State Fault Refusal :=
  s.event (decide (n < 8)) (s.controlWrite core 0 (0x020 + n) v)

/-- A capability word (R18). -/
def execCapWordWrite (core ctx n w : Nat) (v : Word) (s : State) : Host.Outcome State Fault Refusal :=
  s.event (decide (n < 4) && decide (w < 3)) (s.controlWrite core ctx (0x120 + 4 * n + w) v)

/-- CAPACC (R327). -/
def execCapaccWrite (core n : Nat) (v : Word) (s : State) : Host.Outcome State Fault Refusal :=
  s.event (decide (n < 8)) (s.controlWrite core 0 (0x140 + n) v)

/-- SEGBASE (R287). -/
def execSegbaseWrite (core n : Nat) (v : Word) (s : State) : Host.Outcome State Fault Refusal :=
  s.event (decide (n < 8)) (s.controlWrite core 0 (0x180 + n) v)

/-- SEGLIM (R287). -/
def execSeglimWrite (core n : Nat) (v : Word) (s : State) : Host.Outcome State Fault Refusal :=
  s.event (decide (n < 8)) (s.controlWrite core 0 (0x188 + n) v)

/-- Some RASSIGN register assigns a reflex core (R372). -/
def State.rassigned (s : State) (core : Nat) : Bool := (List.range 5).any fun v => (tget 0 s.rassign v).getLsbD (core - 64)

/-- RELCFG (R317); the monitor enables no bank on a core of no function (R372). -/
def execRelcfgWrite (core n : Nat) (v : Word) (s : State) : Host.Outcome State Fault Refusal :=
  s.event (decide (n < 4) && (!v.getLsbD 63 || s.rassigned core)) (s.controlWrite core 0 (0x190 + n) v)

/-- Any other system register (R26); RELCFG under the test of its own event (R372). -/
def execSysregWrite (core ctx n : Nat) (v : Word) (s : State) : Host.Outcome State Fault Refusal :=
  s.event (n / 4 != 0x64 || !v.getLsbD 63 || s.rassigned core) (s.controlWrite core ctx n v)

/-! ### Traps (R242, R243) -/

/-- TRAP (R242). -/
def execTrap (c : BitVec 12) (s : State) : Host.Outcome State Fault Refusal :=
  s.run (.error (.trap (if c = 0xFFF then cBreakpoint else cSwtrap) 0 (c.setWidth 64)))

/-- The context after ERET (R243); a bank that took its trap between releases sleeps on until the next one (R314, R318). -/
def State.leave (s : State) : State :=
  let x := s.my.leave
  s.setMy (if s.reflex && !x.isReleased then { x with run := .released } else x)

/-- ERET (R243). -/
def execEret (s : State) : Host.Outcome State Fault Refusal :=
  s.run (
    if !s.my.mon then .error (privilege 1 0)
    else match targetStop (s.my.sysr 0x102) with
      | some e => .error e
      | none => .ok s.leave)

/-! ### Translation (R245, R246) -/

/-- TLBFL (R245). -/
def execTlbfl (s : State) : Host.Outcome State Fault Refusal :=
  let vf := s.me.vf
  let keep (l : List TlbEntry) : List TlbEntry := if vf = 4 then [] else l.filter fun e => e.vf != vf
  .next ((if s.reflex then s else s.setMe { s.me with itlb := keep s.me.itlb, dtlb := keep s.me.dtlb }).advance 1)

/-- One page of TLBREN (R246): renewed where the context's own requests could use its leaf; none where it traps. -/
def State.renewPage (s : State) (va : Nat) : Option State :=
  let who := s.asker
  match s.walk who.vf va with
  | .leaf l =>
    if bits l.w0 9 3 ≠ who.vf then (if s.my.mon then some s else none)
    else if bits l.w0 4 3 = 0 then some s
    else some (s.xlateWalk who .hint va).2.2
  | _ => some s

/-- The pages of TLBREN in order; renewals made before a trap stand (R246). -/
def State.renew (s : State) : List Nat → Except (Nat × State) State
  | [] => .ok s
  | va :: t => match s.renewPage va with
    | none => .error (va, s)
    | some u => u.renew t

/-- The 64 KiB pages of [a, a + n). -/
def pagesOf (a n : Nat) : List Nat :=
  if n = 0 then [] else (List.range ((a + n - 1) / 65536 - a / 65536 + 1)).map fun k => (a / 65536 + k) * 65536

/-- TLBREN (R246): the context holds while nothing may be filled for it (R283). -/
def execTlbren (d a : Reg5) (s : State) : Host.Outcome State Fault Refusal :=
  let va := s.getG a
  let n := s.getG d
  if 2 ^ 26 < n.toNat ∨ 2 ^ 56 < va.toNat + n.toNat then s.run (.error (.trap cIllegalAddress va 0))
  else if s.noFill then s.run (.error (.hold none))
  else match s.renew (pagesOf va.toNat n.toNat) with
    | .ok t => .next (t.advance 1)
    | .error (p, t) => t.run (.error (privilege 3 0 (BitVec.ofNat 64 p)))

/-! ### Capabilities (R247) -/

/-- CAPLD (R247). -/
def execCapld (a : Reg5) (c : BitVec 2) (s : State) : Host.Outcome State Fault Refusal :=
  s.run (
    if !s.my.mon then .error (privilege 1 0)
    else do
      let va := s.getG a
      let (bs, t) ← s.readItems .loc .load {} 0 0 [⟨0, va, va, 24, 8⟩]
      let w (k : Nat) : Word := wordAt bs.flatten (8 * k)
      if capReserved (w 0) then .error reservedAtExec
      else .ok ((t.setMy ((List.range 3).foldl (fun x k => x.setSysr (0x120 + 4 * c.toNat + k) (w k)) t.my)).advance 1))

/-- CAPCLR (R247). -/
def execCapclr (c : BitVec 2) (s : State) : Host.Outcome State Fault Refusal :=
  .next ((s.setMy ((List.range 3).foldl (fun x k => x.setSysr (0x120 + 4 * c.toNat + k) 0) s.my)).advance 1)

end Sys2Proof.Machine
end

