-- ==== Sys2Proof/Machine/Recovery.lean ====
section
/-! DEFINITION. The fault service and what waits on it (R141-R144, R286), translation events (R271-R283), asynchronous causes
(R337), rollback, timing replay and lockstep mismatches (R313, R340). -/

namespace Sys2Proof.Machine

/-! ### Streams (R130) -/

/-- A generator reads the next chunk ahead, up to eight beyond its read cursor; it reads nothing that it may not (R130). -/
def execStreamReadAhead (core ctx j : Nat) (s : State) : Host.Outcome State Fault Refusal :=
  let cur := s.cur
  let t := s.at core ctx
  let g := tget {} t.my.streams j
  let n := g.rc + g.ahead.length
  .next (
    if !g.bound || g.dir == 2 || decide (g.count.toNat ≤ n) || decide (8 ≤ g.ahead.length) then s
    else match t.readItems g.space' .load (streamInfo false g) 0 0 (chunkItems (g.chunk n)) with
      | .ok (bs, u) =>
        let u := u.setMy { u.my with streams := tput u.my.streams j { g with ahead := g.ahead ++ [BitVec.ofNat 1024 (leNat bs.flatten)] } }
        { u with cur := cur }
      | .error _ => s)

/-! ### Side-log replay (R143, R144) -/

/-- Byte i of an entry is written. -/
def LogEntry.has (e : LogEntry) (i : Nat) : Bool := e.mask.getLsbD i

/-- Byte i of an entry. -/
def LogEntry.byte (e : LogEntry) (i : Nat) : Byte := e.data.extractLsb' (8 * i) 8

/-- The effect of an entry at its place: masked bytes, or the AMO on each word that it holds (R143). -/
def State.replayEntry (s : State) (e : LogEntry) (p : Place) : State :=
  match e.op with
  | .write | .zero => (List.range 128).foldl (fun s i => if e.has i then s.setByte (p.plus i) (e.byte i) else s) s
  | .amo op n =>
    ((List.range (128 / n)).filter fun k => e.has (n * k)).foldl (fun s k =>
      let q := p.plus (n * k)
      s.setBytes q (leBytes n (amoNew op n (s.numAt q n) (leNat ((List.range n).map fun i => e.byte (n * k + i)))))) s

/-- The lowest byte that an entry stores (R144). -/
def LogEntry.addr (e : LogEntry) : Nat := e.sector + ((List.range 128).find? e.has).getD 0

/-- What an entry's write needs of its page (R278). -/
def LogEntry.acc (e : LogEntry) : Acc :=
  match e.op with
  | .write | .zero => .store
  | .amo _ _ => .rmw

/-- A reduction or a CZERO on a frame of the PCI Express window (R268). -/
def LogEntry.windowed (e : LogEntry) : Place → Bool
  | .host _ | .peer _ => e.op != .write
  | _ => false

/-- Entry n of a core leaves the log, and with it its place in S (R259). -/
def State.dropEntry (s : State) (core n : Nat) : State :=
  (s.setCore core { s.core core with slog := (s.core core).slog.eraseIdx n }).sweepSc

/-- An entry that comes before another: one of its sector, or an earlier append of its generator (R130, R143). -/
def LogEntry.before (o e : LogEntry) : Bool :=
  o.vf == e.vf && (o.sector == e.sector || (o.ctx == e.ctx && e.gen.isSome && o.gen == e.gen))

/-- An SC store in the log is performed when its operation completes in S (R259). -/
def State.scDue (s : State) (core : Nat) (e : LogEntry) : Bool :=
  !e.sc || s.sc.any fun o => o.core == core && o.ctx == e.ctx && o.act == .logged && o.ready

/-- Entry n of a core's log replays once its page is mapped, no entry that comes before it is left (R143) and the replica at its home is
within bound (R283); one that cannot be performed is discarded with an asynchronous trap (R144). -/
def State.replayLog (s : State) (core n : Nat) : State :=
  match (s.core core).slog[n]? with
  | none => s
  | some e =>
    if ((s.core core).slog.take n).any (·.before e) || !s.scDue core e || (s.at core e.ctx).noFill then s
    else
      let who : Asker := { (s.at core e.ctx).asker with vf := e.vf }
      let drop (s : State) (code : BitVec 8) (pk : BitVec 4) (m : Bool) : State :=
        (s.dropEntry core n).pendAsync core e.ctx (slogCause code e.addr pk m)
      match s.xlateWalk who e.acc e.sector with
      | (_, .place p _, t) =>
        if s.homeSkewed p.addr then s
        else if e.windowed p then drop t cIllegalAddress 0 false else (t.replayEntry e p).dropEntry core n
      | (_, .absent, _) => s.postFault core e.vf (e.sector / 65536 * 65536) 1 e.ctx
      | (_, .refused pk, _) => drop s cProtection pk false
      | (_, .malformed, _) => drop s cLoadFault 0 true
      | (_, .invalid, _) => drop s cLoadFault 0 false
      | (_, .noRoot, _) => drop s cLoadFault 0 false
      | (_, .skewed, _) => s

/-- A logged entry replays (R143). -/
def execSideLogReplay (core n : Nat) (s : State) : Host.Outcome State Fault Refusal := .next (s.replayLog core n)

/-! ### Held accesses and fault records (R141, R286) -/

/-- A held instruction issues again (R141). -/
def execHeldAccessResume (core ctx : Nat) (s : State) : Host.Outcome State Fault Refusal :=
  s.event ((s.ctxAt core ctx).run == .holding) (s.setCtxAt core ctx { s.ctxAt core ctx with run := .running })

/-- The cores of a cluster (R1). -/
def clusterCores (cl : Nat) : List Nat := domCores 1 cl

/-- Who of a core waits on absent pages: function, page, kind and source of each. -/
def CoreSt.waits (c : CoreSt) : List (Nat × Nat × Nat × Nat) :=
  c.slog.map (fun e => (e.vf, e.sector / 65536 * 65536, 1, e.ctx))
    ++ (List.range 11).filterMap fun k => match (c.ctx k).run, (c.ctx k).holdPage with
      | .holding, some (page, kind) => some (c.vf, page, kind, k)
      | _, _ => none

/-- Engines behind the timelines of a cluster: its copy channels, and the tile-walk engines of its cores. -/
def clusterEngines (cl : Nat) : List (Nat × Nat) :=
  (List.range 8).map (fun ch => (cl, ch)) ++ (clusterCores cl).map fun c => (16, c)

/-- SRC of an engine's fault record: the engine code plus 1, and the channel (R286). -/
def engineSrc (cluster chan : Nat) : Nat := if cluster < 16 then 16 + chan else 32

/-- The page that an engine waits for, with the command it stands at. -/
def Channel.waitsFor (c : Channel) : Option (Command × Nat) :=
  match c.stop, c.queue with
  | .waiting (some page), cmd :: _ => some (cmd, page)
  | _, _ => none

/-- Every waiter of a cluster: core, function, page, kind, source. -/
def State.clusterWaits (s : State) (cl : Nat) : List (Nat × Nat × Nat × Nat × Nat) :=
  (clusterCores cl).flatMap (fun c => (s.core c).waits.map fun w => (c, w))
    ++ (clusterEngines cl).filterMap fun e => (s.chan e.1 e.2).waitsFor.map fun (cmd, page) => (cmd.core, cmd.vf, page, 4, engineSrc e.1 e.2)

/-- The nth waiter of a cluster posts its record, or merges it, where a place is free and its page is absent (R286). -/
def execFaultRecordPost (cluster n : Nat) (s : State) : Host.Outcome State Fault Refusal :=
  .next (match (s.clusterWaits cluster)[n]? with
    | some (core, vf, page, kind, src) => if s.walk vf page = .absent then s.postFault core vf page kind src else s
    | none => s)

/-- The outstanding record with a token, and its cluster. -/
def State.recordOf (s : State) (token : Word) : Option (Nat × FaultRec) :=
  (List.range 16).findSome? fun k => ((s.cluster k).faults.find? fun f => f.token == token).map fun f => (k, f)

/-- A record is answered and gone, from its cluster and from any queue that it still waits for. -/
def State.dropRecord (s : State) (k : Nat) (f : FaultRec) : State :=
  let q : QueueBlock := tget {} s.queues f.vf
  let s := s.setCluster k { s.cluster k with faults := (s.cluster k).faults.erase f }
  if q.faultsWaiting.contains f then { s with queues := tput s.queues f.vf { q with faultsWaiting := q.faultsWaiting.erase f } } else s

/-- A context that waits for a page of a function. -/
def CoreSt.holdsOn (c : CoreSt) (k vf page : Nat) : Bool :=
  (c.ctx k).run == .holding && c.vf == vf && (match (c.ctx k).holdPage with
    | some (p, _) => p == page
    | none => false)

/-- Contexts that wait for a page of a function go on: they issue again, told that it is invalid where it was declared so. -/
def State.releaseHolders (s : State) (vf page : Nat) (invalid : Bool) : State :=
  s.cores.foldl (fun s e => ((List.range 11).filter fun k => e.2.holdsOn k vf page).foldl (fun s k =>
    s.setCtxAt e.1 k { s.ctxAt e.1 k with run := .running, invalidAt := if invalid then some page else none }) s) s

/-! ### Engine commands (R304, R353), and what a stop leaves of a row (R262) -/

def cmdOp (v : BitVec 512) : Nat := cmdField v 0 8
def cmdEvt (v : BitVec 512) : Bool := cmdField v 15 1 == 1
def cmdTlv (v : BitVec 512) : Nat := cmdField v 64 64
def cmdSrc (v : BitVec 512) : Nat := cmdField v 128 64
def cmdDst (v : BitVec 512) : Nat := cmdField v 192 64
def cmdBpr (v : BitVec 512) : Nat := cmdField v 256 32
def cmdRows (v : BitVec 512) : Nat := cmdField v 288 32
def cmdSstr (v : BitVec 512) : Int := (BitVec.ofNat 32 (cmdField v 320 32)).toInt
def cmdDstr (v : BitVec 512) : Int := (BitVec.ofNat 32 (cmdField v 352 32)).toInt
def cmdSkind (v : BitVec 512) : Nat := cmdField v 384 2
def cmdDkind (v : BitVec 512) : Nat := cmdField v 386 2
def cmdScore (v : BitVec 512) : Nat := cmdField v 392 7
def cmdFill (v : BitVec 512) : Nat := cmdField v 416 32

/-- The cores that DMASK names. -/
def cmdDests (v : BitVec 512) : List Nat := if cmdDkind v = 1 then (List.range 64).filter fun c => v.getLsbD (448 + c) else []

/-- The cores whose memory a command names: SCORE and DMASK. -/
def cmdCores (v : BitVec 512) : List Nat :=
  (if cmdSkind v = 1 ∧ cmdOp v ≠ 2 then [cmdScore v] else []) ++ cmdDests v

/-- Fields of EXPAND (R353). -/
def xpDict (v : BitVec 512) : Nat := cmdBpr v
def xpSlen (v : BitVec 512) : Nat := cmdRows v
def xpBound (v : BitVec 512) : Nat := cmdField v 320 32

/-- The engine holds a permit for every core that it needs one for (R306). -/
def State.permitted (s : State) (cmd : Command) (v : BitVec 512) : Bool :=
  (cmdCores v).all fun c => c == cmd.core || (s.core c).xph

/-- The address of row r. -/
def engineRow (base : Nat) (stride : Int) (r : Nat) : Nat := (BitVec.ofInt 64 (base + r * stride)).toNat

/-- [va, va + n) cut at 64 KiB pages. -/
def cuts (va n : Nat) : List (Nat × Nat) :=
  if n = 0 then []
  else (List.range ((va + n - 1) / 65536 - va / 65536 + 1)).map fun k =>
    let lo := Nat.max va ((va / 65536 + k) * 65536)
    (lo, Nat.min (va + n) ((va / 65536 + k + 1) * 65536) - lo)

/-- Bytes put at places in order. -/
def State.putPieces (s : State) : List (Place × Nat) → List Byte → State
  | [], _ => s
  | (p, n) :: t, bs => (s.setBytes p (bs.take n)).putPieces t (bs.drop n)

/-- Where the row in progress goes, as far as the engine holds its translations (R282, R305). -/
def State.rowPlaces (s : State) (cluster chan : Nat) (cmd : Command) (v : BitVec 512) : List (Place × Nat) :=
  let c := s.chan cluster chan
  let n := if cmdOp cmd.bits = 4 then xpBound v else cmdBpr v
  let a := if cmdOp cmd.bits = 4 then cmdDst v else engineRow (cmdDst v) (cmdDstr v) c.row
  match cmdDkind v with
  | 0 => (cuts a n).filterMap fun x =>
      (c.held.find? fun e => decide (e.base ≤ x.1) && decide (x.1 < e.base + 2 ^ e.log2) && decide (s.now < e.expiry) && e.w && e.d).map
        fun e => (placeOf (e.frame + (x.1 - e.base)), x.2)
  | 1 => (cmdDests v).flatMap fun d => (s.pairCores d).map fun k => (.core k a, n)
  | _ => [(.tbuf chan a, n)]

/-- The bytes of the row in progress of an engine that stops hold what nothing promises (R262, log 15). -/
def State.looseRow (s : State) (cluster chan : Nat) (cmd : Command) : State :=
  let c := s.chan cluster chan
  match c.plan with
  | v :: _ =>
    if c.taken && s.permitted cmd v then
      (s.rowPlaces cluster chan cmd v).foldl (fun s e =>
        { s.putPieces [e] ((List.range e.2).map (Config.stoppedByte s.fresh)) with fresh := s.fresh + 1 }) s
    else s
  | [] => s

/-- The two words of an engine's event (R297): SRC, CHAN, STATUS, VALUE, ADDR. -/
def engineEvent (cluster chan status : Nat) (cmd : Command) (addr : Word) : Word × Word :=
  (BitVec.ofNat 64 ((if cluster < 16 then chan * 2 ^ 56 else 2 ^ 60) + status * 2 ^ 48 + cmdField cmd.bits 64 48), addr)

/-- An engine stops at its command, with STOP = 1 and a FAULT event (R224, R262, R282, R297). -/
def State.stopEngine (s : State) (cluster chan : Nat) (cmd : Command) (addr : Word) : State :=
  let s := s.looseRow cluster chan cmd
  (s.setChan cluster chan { s.chan cluster chan with stop := .stopped addr }).postQ0 cmd.core
    (engineEvent cluster chan 3 cmd addr)

/-- Engines that wait for a page of a function go on, or stop there where it is declared invalid. -/
def State.releaseEngines (s : State) (vf page : Nat) (invalid : Bool) : State :=
  ((List.range 16).flatMap clusterEngines).foldl (fun s e =>
    match (s.chan e.1 e.2).waitsFor with
    | some (cmd, p) =>
      if cmd.vf ≠ vf ∨ p ≠ page then s
      else if invalid then s.stopEngine e.1 e.2 cmd (BitVec.ofNat 64 page)
      else s.setChan e.1 e.2 { s.chan e.1 e.2 with stop := .going }
    | none => s) s

/-- Log entries on a page declared invalid are discarded, each with its trap (R144, R286). -/
def State.discardLogged (s : State) (vf page : Nat) : State :=
  s.cores.foldl (fun s e =>
    let gone (x : LogEntry) : Bool := x.vf == vf && x.sector / 65536 * 65536 == page
    (e.2.slog.filter gone).foldl (fun s x => s.pendAsync e.1 x.ctx (slogCause cLoadFault x.addr 0 false))
      (s.setCore e.1 { s.core e.1 with slog := (s.core e.1).slog.filter fun x => !gone x }).sweepSc) s

/-- The answer MAPPED (R286): every waiter walks again. -/
def State.answerMapped (s : State) (token : Word) : State :=
  match s.recordOf token with
  | none => s
  | some (k, f) => ((s.dropRecord k f).releaseHolders f.vf f.va false).releaseEngines f.vf f.va false

/-- MAPPED from the fault service (R286). -/
def execFaultAnswerMapped (token : Word) (s : State) : Host.Outcome State Fault Refusal := .next (s.answerMapped token)

/-! ### Translation events -/

/-- A walk for a core ends (R277): a leaf that permits the access fills its TLBs; anything else leaves them as they are. -/
def execPageWalkComplete (core : Nat) (va : Word) (write fetch : Bool) (s : State) : Host.Outcome State Fault Refusal :=
  let cur := s.cur
  let acc : Acc := if fetch then .fetch else if write then .store else .load
  .next (if Config.isReflex core then s
    else match (s.at core 0).xlateCore acc va.toNat with
      | (.place _ _, t) => { t with cur := cur }
      | _ => s)

/-- Entries whose expiry the replica has passed leave a core's TLBs and its cluster's (R279). -/
def execTlbEntryExpiry (core : Nat) (s : State) : Host.Outcome State Fault Refusal :=
  let live (t : Nat) (l : List TlbEntry) : List TlbEntry := l.filter fun e => decide (t < e.expiry)
  let c := s.core core
  let s := s.setCore core { c with itlb := live (s.replica core) c.itlb, dtlb := live (s.replica core) c.dtlb }
  let k := clusterOf core
  .next (if Config.isReflex core then s else s.setCluster k { s.cluster k with tlb := live s.now (s.cluster k).tlb })

/-- The context that takes CLOCK_SKEW (R337). -/
def CoreSt.skewCtx (c : CoreSt) (core : Nat) : Option Nat :=
  if Config.isReflex core then [3, 0, 1, 2].find? fun b => (c.relcfg b).getLsbD 63 else some 0

/-- A replica found more than 16 ns off (R283): its TLBs are emptied, and the machine check is pending. -/
def State.skewCore (s : State) (core : Nat) (err : Half) : State :=
  let info : Word := err.setWidth 64
  let c := s.core core
  let s := s.setCore core { c with skew := err.toInt, skewed := true, itlb := [], dtlb := [] }
  let k := (c.skewCtx core).getD 0
  let s := s.report { (s.at core k).recFor 0x09 1 with
    engid := 13 * 4096 + core, cause := cClockSkew.toNat, detail := info, epc := (c.ctx k).pc }
  match c.skewCtx core with
  | some k => s.pendAsync core k { code := cClockSkew, eaddr := 0, einfo := info }
  | none => s

/-- The replica of one of a cluster's two walkers out of bound, or within it again: that walker makes no walk meanwhile, and the
second-level TLB is invalidated (R283). -/
def State.skewWalker (s : State) (cluster walker : Nat) (skewed : Bool) : State :=
  let c := s.cluster cluster
  let c := { c with tlb := if skewed then [] else c.tlb }
  s.setCluster cluster (if walker = 0 then { c with skewed := skewed } else { c with skewed2 := skewed })

/-- The replica of a home slice, or of the host interface (64), out of bound, or within it again (R283). -/
def State.skewHome (s : State) (n : Nat) (skewed : Bool) : State :=
  let l := s.skewedHomes.filter (· != n)
  { s with skewedHomes := if skewed then n :: l else l }

/-- A replica that is not a core's, out of bound or within it again (R283): 96 to 111 are those of the clusters' first walkers, 112 to
175 of the home slices, 176 of the host interface, 177 to 192 of the clusters' second walkers (log 54). -/
def State.skewOther (s : State) (n : Nat) (skewed : Bool) : State :=
  if n < 112 then s.skewWalker (n - 96) 0 skewed
  else if n < 177 then s.skewHome (n - 112) skewed
  else s.skewWalker (n - 177) 1 skewed

/-- CLOCK_SKEW of a replica (R283): 0 to 95 are the cores' (log 54). -/
def execClockSkew (n : Nat) (err : Half) (s : State) : Host.Outcome State Fault Refusal :=
  s.event (decide (16 < err.toInt.natAbs)) (if n < 96 then s.skewCore n err else s.skewOther n true)

/-- The replica is within bound again (R261, R283). -/
def execClockSkewCleared (n : Nat) (s : State) : Host.Outcome State Fault Refusal :=
  .next (if n < 96 then s.setCore n { s.core n with skew := 0, skewed := false } else s.skewOther n false)

/-! ### Asynchronous causes (R337) -/

/-- The order in which pending causes are taken: after those of checkers, CLOCK_SKEW, WATCHDOG, then the side log's. -/
def asyncRank (a : Async) : Nat :=
  if a.code = cPipelineError then 0 else if a.code = cUncorrectable then 1 else if a.code = cClockSkew then 2
  else if a.code = cWatchdog then 3 else 4

/-- The pending cause of lowest rank, earliest first. -/
def firstAsync (l : List Async) : Option Async :=
  (List.range 5).findSome? fun r => l.find? fun a => asyncRank a == r

/-- EINFO at delivery: WATCHDOG gives the ns past the deadline then (R335). Its record, which carries that EINFO, is posted with it
(R319, log 82). -/
def State.asyncInfo (s : State) (a : Async) : Word :=
  if a.code = cWatchdog then
    watchdogInfo s.cur.ctx (s.replica s.cur.core - s.deadline s.cur.core s.cur.ctx)
  else a.einfo

/-- Taking a pending cause before the next instruction (R337): EWORD is zero, EPC the next instruction. -/
def State.takeAsync (s : State) (a : Async) : State :=
  let s := s.setMy { s.my with async := s.my.async.erase a, asyncHeld := true }
  let info := s.asyncInfo a
  let s := if a.code = cWatchdog
    then s.report { s.recFor 0x0A 2 with cause := cWatchdog.toNat, detail := info, epc := s.my.pc } else s
  s.takeTrap { async := true, code := a.code, epc := s.my.pc, eaddr := a.eaddr, einfo := info, eword := 0 }

/-- The cause that the issuing context takes at this boundary: none until ERET once one was taken. -/
def Ctx.dueAsync (x : Ctx) : Option Async := if x.asyncHeld then none else firstAsync x.async

/-- The context may be given a trap. -/
def Ctx.alive (x : Ctx) : Bool := x.run != .free && x.run != .stopped

/-- The context stands at a boundary where an asynchronous cause may be taken: its loads are performed, so that none of its
instructions may still trap (R279), no SC operation of it is announced and incomplete (R261), and no trap of it is being
dispatched. -/
def State.atBoundary (s : State) (core ctx : Nat) : Bool :=
  !s.flight.any (·.unperformed core ctx) && !s.scPending core ctx && (s.ctxAt core ctx).dispatching.isNone

/-- A pending asynchronous cause is delivered (R337). -/
def execTrapDelivery (core ctx : Nat) (s : State) : Host.Outcome State Fault Refusal :=
  let cur := s.cur
  let x := s.ctxAt core ctx
  let c := s.core core
  .next (match x.dueAsync with
    | some a => if x.alive && c.seizPhase == .idle && !c.preempting && !c.scrubbing && s.atBoundary core ctx
        then { ({ s.at core ctx with cur := { core := core, ctx := ctx } }).takeAsync a with cur := cur } else s
    | none => s)

/-! ### Checkers (R313, R340) -/

/-- The record of a checker's mismatch (R340): where it traps, it carries the cause. -/
def State.checkerRecord (s : State) (cls engid : Nat) (fourth : Bool) : ErrRec :=
  { s.recFor cls 1 with engid := engid, cause := if fourth then cPipelineError.toNat else 0, epc := s.my.sysr 0x030 }

/-- A mismatch in a unit of the given kind for a context: it returns, or takes PIPELINE_ERROR (R340). -/
def State.mismatch (s : State) (core ctx cls : Nat) (kind : BitVec 4) (unit : BitVec 4) : State :=
  let cur := s.cur
  let t := s.at core ctx
  let engid := kind.toNat * 4096 + core
  if t.my.alive then
    let t := t.report (t.checkerRecord cls engid (decide (3 ≤ t.my.restart.returns)))
    { t.goBack unit engid with cur := cur }
  else s

/-- What an instruction in the sum-product engine overwrote stands again (R214). -/
def CoreSt.takeBack (c : CoreSt) (p : SpePend) : CoreSt :=
  let c := p.old.zipIdx.foldl (fun c e => c.setX (p.first + e.2) e.1) c
  { c with xBad := (List.range (2 * p.old.length)).foldl (fun t i =>
      let k := 2 * p.first + i
      tset false t k (tget false p.bad k)) c.xBad }

/-- The instructions of a context in the sum-product engine taken back, the youngest first: one of them is at fault, and all of them
issue again (R214, R340, log 85); their flags are gone. -/
def CoreSt.undoSpe (c : CoreSt) (ctx : Nat) : CoreSt :=
  (c.spe.filter fun p => p.ctx == ctx).reverse.foldl CoreSt.takeBack { c with spe := c.spe.filter fun p => p.ctx != ctx }

/-- The record of a mismatch that its unit mends itself: an engine repeats the row of its command, the slice recomputes the update
(R340). -/
def State.mended (s : State) (kind inst : Nat) (cmd : Option Command) : State :=
  s.report { cls := 0x06, sev := 0, engid := kind * 4096 + inst, core := cmd.map (·.core), vf := cmd.map (·.vf) }

/-- The command that an engine works on. -/
def State.working (s : State) (cluster chan : Nat) : Option Command := (s.chan cluster chan).queue.head?

/-- Rollback (R340): unit is the kind of ENGID that detected the mismatch (R345). For an engine's datapath and a near-cache adder,
core and ctx give the instance: cluster or core with its channel, or slice (log 85). -/
def execRollback (core ctx : Nat) (unit : BitVec 4) (s : State) : Host.Outcome State Fault Refusal :=
  .next (match unit.toNat with
    | 4 => if (s.ctxAt core ctx).alive then (s.setCore core ((s.core core).undoSpe ctx)).mismatch core ctx 0x06 unit 0 else s
    | 5 => s.mended 5 (core % 16 * 8 + ctx % 8) (s.working (core % 16) (ctx % 8))
    | 6 => s.mended 6 core (s.working 16 core)
    | 7 => s.mended 7 (core % 64) none
    | n => if n < 4 then s.mismatch core ctx 0x06 unit 0 else s)

/-- Timing replay (R340): every context with an instruction in the flagged stage returns. -/
def execTimingReplay (core : Nat) (mask : BitVec 11) (s : State) : Host.Outcome State Fault Refusal :=
  .next (((List.range (Config.numContexts core)).filter fun k => mask.getLsbD k).foldl (fun s k => s.mismatch core k 0x07 0 0) s)

/-- Every context of a core returns to its restart point; where the pair stops, none resumes (R313). -/
def State.returnAll (s : State) (core : Nat) (stop : Bool) : State :=
  let cur := s.cur
  let t := ((s.core core).live core).foldl (fun s k =>
    let n := (s.ctxAt core k).restart.returns
    let s := (s.at core k).restore
    s.setMy { s.my with run := if stop then .stopped else s.my.run,
                        restart := { s.my.restart with returns := n + 1, fresh := true } }) s
  { t with cur := cur }

/-- A lockstep mismatch (R313): nothing is committed, both cores return; the fourth from one point stops them. -/
def State.pairMismatch (s : State) (core : Nat) : State :=
  let even := core / 2 * 2
  let fourth := ((s.core even).live even).any fun k => decide (3 ≤ (s.ctxAt even k).restart.returns)
  let info : Word := BitVec.ofNat 64 (even * 2 ^ 48 + 2 ^ 40 + 4 * 2 ^ 32 + 1)
  let r := { (s.at even 0).checkerRecord 0x08 even fourth with detail := if fourth then info else 0 }
  (((s.report r).returnAll even fourth).returnAll (even + 1) fourth)

/-- A lockstep mismatch (R313). -/
def execLockstepMismatch (core : Nat) (s : State) : Host.Outcome State Fault Refusal :=
  s.event (s.core core).pair (s.pairMismatch core)

end Sys2Proof.Machine
end

