-- ==== Sys2Proof/Machine/Seizure.lean ====
section
/-! DEFINITION. Seizure at its target (R183, R184, R329-R331) and the delivery of its result (R230). -/

namespace Sys2Proof.Machine

/-! ### The command -/

/-- STATUS and REASON of a result (R183). -/
def seizCode (status reason : Nat) : BitVec 16 := BitVec.ofNat 16 (status + 256 * reason)

/-- The 32-byte header of a result message (R183). -/
def resultHeader (tag : Nat) (code : BitVec 16) (len tacc tbeat tend : Nat) : List Byte :=
  leBytes 2 tag ++ leBytes 2 code.toNat ++ leBytes 4 len ++ leBytes 8 tacc ++ leBytes 8 tbeat ++ leBytes 8 tend

/-- The ring number of a result whose sender's function has been reset since: no ring takes it (R331, R348). -/
def noRing : Nat := 16

/-- The message of a command on its way to the sender's ring. -/
def Seizure.result (z : Seizure) (src : Nat) (msg : List Byte) : Flight :=
  .result z.core z.ctx (if z.lost then noRing else cmdField z.bits 120 8) (cmdField z.bits 16 16) msg z.vf z.number src

/-- The message of a command refused on arrival (R183). -/
def Seizure.refuse (z : Seizure) (src : Nat) (code : BitVec 16) : Flight :=
  z.result src (resultHeader (cmdField z.bits 16 16) code 0 0 0 0)

/-- Some entry of the accepted table accepts the command (R327). -/
def CoreSt.accepts (c : CoreSt) (z : Seizure) : Bool :=
  (List.range 8).any fun n =>
    let v := c.sysr (0x140 + n)
    v.getLsbD 63 && bits v 0 32 == z.capid.toNat && bits v 32 3 == z.vf

/-- A reset of the target's function has reached step 2 (R331). -/
def State.closedToSeizure (s : State) (target : Nat) : Bool :=
  s.resets.any fun r => r.vf == (s.core target).vf && decide (2 ≤ r.stage)

/-- What the target answers at once, or nothing where it accepts (R183, R331). -/
def State.seizureRefusal (s : State) (target : Nat) (z : Seizure) : Option (BitVec 16) :=
  let c := s.core target
  if s.closedToSeizure target || !c.accepts z then some (seizCode 1 5)
  else if z.expiry.toNat < s.replica target then some (seizCode 1 6)
  else if 4 ≤ c.seiz.length then some (seizCode 2 0)
  else none

/-- A command reaches its target, once its release is done (R181, R183). -/
def execSeizureArrival (n : Nat) (s : State) : Host.Outcome State Fault Refusal :=
  .next (match s.flight[n]? with
    | some (.seizure t z) =>
      if !s.releaseDone n z.core z.ctx then s
      else match s.seizureRefusal t z with
        | some code => s.refly n (z.refuse t code)
        | none => (s.unfly n).setCore t { s.core t with seiz := (s.core t).seiz ++ [z] }
    | _ => s)

/-! ### The sequence of R330 -/

/-- The contexts of a core stop: held instructions are discarded, to issue again (R142, R330). -/
def CoreSt.dropHeld (c : CoreSt) : CoreSt :=
  { c with ctxs := c.ctxs.map fun e =>
      (e.1, if e.2.run = .holding then { e.2 with run := .running, holdPage := none } else e.2) }

/-- The contexts of a core may stop: its clear sequence is over, and no SC operation of it is announced and incomplete (R39, R261,
R330); a store that stands in the side log waits there (R143). -/
def State.mayStop (s : State) (core : Nat) : Bool :=
  !(s.core core).clearing && !s.sc.any (fun o => o.core == core && o.act != .logged)

/-- The cores that a seizure stops may stop: the target and its pair (R184). -/
def State.seizMayStop (s : State) (core : Nat) : Bool := (s.pairCores core).all s.mayStop

/-- Step 2 ends: the contexts of the target, and of its pair, have stopped (R184, R330). -/
def State.seizStop (s : State) (core : Nat) : State := (s.pairCores core).foldl (fun s k => s.setCore k (s.core k).dropHeld) s

/-- Step 1, and step 2 where the contexts may stop at once: TACC, the divider (R330). -/
def execSeizureAccept (core : Nat) (s : State) : Host.Outcome State Fault Refusal :=
  let c := s.core core
  let stop := s.seizMayStop core
  let t := s.setCore core { c with seizPhase := if stop then .stopped else .accepted,
                                   seizTacc := BitVec.ofNat 64 (s.replica core), seizTbeat := 0, seizStatus := 0, seizResult := [],
                                   seizTries := 0, seizPwr := some 4 }
  s.event (c.seizPhase == .idle && !c.seiz.isEmpty) (if stop then t.seizStop core else t)

/-- The tile numbers of a command: TA, TB, TO. -/
def seizTiles (v : BitVec 512) : Nat × Nat × Nat := (cmdField v 80 3, cmdField v 84 3, cmdField v 88 3)

/-- First row and rows of the accumulator region (R182, R184). -/
def seizRows (v : BitVec 512) : Nat × Nat := (cmdField v 96 8, ((cmdShape v 4).map (·.rows)).getD 0)

/-- The save set (R184). -/
def CoreSt.saveSet (c : CoreSt) (v : BitVec 512) : SavedSet :=
  let (a, b, t) := seizTiles v
  let (row, n) := seizRows v
  let ts := [a, b, t]
  { tiles := ts.map fun k => (k, c.tile k), shapes := ts.map fun k => (k, c.sysr (0x020 + k)),
    acc := c.acc.filter fun e => decide (row * 128 ≤ e.1) && decide (e.1 < (row + n) * 128),
    rows := c.accRows.filter fun e => decide (row ≤ e.1) && decide (e.1 < row + n),
    tileBad := c.tileBad, accBad := c.accBad }

/-- Step 3 ends, after a step 2 that had to wait: the matrix unit has drained, and the save set is taken. -/
def execSeizureDrainEnd (core : Nat) (s : State) : Host.Outcome State Fault Refusal :=
  let waited := (s.core core).seizPhase == .accepted
  let t := if waited then s.seizStop core else s
  let c := t.core core
  s.event (c.seizPhase == .stopped || (waited && s.seizMayStop core))
    (t.setCore core { c with seizPhase := .drained,
                             seizSave := (c.seiz.head?.map fun z => c.saveSet z.bits).getD {} })

/-- The seizure save area (R329). -/
def saveArea : Nat := 0x4F3E00
def saveAreaSize : Nat := 0xC000

/-- The rows of an operand from its source; none where it passes the end of its memory (R182, R183). -/
def State.sourceRows (s : State) (core : Nat) (v : BitVec 512) (byte strideByte : Nat) (h : Shape) : Option (List (List Byte)) × State :=
  let kind := cmdField v (8 * byte + 62) 2
  let off : Int := cmdField v (8 * byte) 32
  let stride := (BitVec.ofNat 32 (cmdField v (8 * strideByte) 32)).toInt
  let at_ (r : Nat) : Int := off + r * stride
  let inside (n : Nat) : Bool := (List.range h.rows).all fun r => decide (0 ≤ at_ r) && decide (at_ r + h.bpr ≤ n)
  let rows (f : Nat → List Byte) : List (List Byte) := (List.range h.rows).map fun r => f (at_ r).toNat
  match kind with
  | 0 => (if inside (memSize core) then some (rows fun o => s.bytesAt (.core core o) h.bpr) else none, s)
  | 1 =>
    let (bs, _, t) := s.mirrorRead (cmdField v (8 * byte + 50) 12) 1024
    let p := bs.drop 32
    (if inside p.length then some (rows fun o => (p.drop o).take h.bpr) else none, t)
  | _ => (if inside 0x1D00000 then some (rows fun o => s.bytesAt (.sram o) h.bpr) else none, s)

/-- The first poisoned place of an operand's source in core memory or shared SRAM (R342). -/
def State.sourcePoison (s : State) (core : Nat) (v : BitVec 512) (byte strideByte : Nat) (h : Shape) : Option Place :=
  let off : Int := cmdField v (8 * byte) 32
  let stride := (BitVec.ofNat 32 (cmdField v (8 * strideByte) 32)).toInt
  let place (o : Nat) : Place := if cmdField v (8 * byte + 62) 2 = 0 then .core core o else .sram o
  if cmdField v (8 * byte + 62) 2 = 1 then none
  else ((List.range h.rows).flatMap fun (r : Nat) => (List.range h.bpr).map fun k => place ((off + r * stride).toNat + k)).find? s.poisonedAt

/-- Poison that the operand load of a command meets. -/
def State.seizPoison (s : State) (core : Nat) (v : BitVec 512) : Option Place :=
  match cmdShape v 4, cmdShape v 6 with
  | some ha, some hb => (s.sourcePoison core v 16 24 ha).or (s.sourcePoison core v 32 28 hb)
  | _, _ => none

/-- A tile with rows put into it. -/
def CoreSt.putRows (c : CoreSt) (t : Nat) (rows : List (List Byte)) (h : Shape) : CoreSt :=
  c.writeTile t (rows.zipIdx.foldl (fun v e => putTileBytes v e.2 0 e.1) (c.tile t).toNat) h.bytes

/-- Both operands and shapes loaded and the region zeroed, or the refusal (R183). -/
def State.seizLoad (s : State) (core : Nat) (z : Seizure) : State × BitVec 16 :=
  let v := z.bits
  let (a, b, t) := seizTiles v
  match cmdShape v 4, cmdShape v 6 with
  | some ha, some hb =>
    match s.sourceRows core v 16 24 ha with
    | (none, s) => (s, seizCode 4 7)
    | (some ra, s) =>
      match s.sourceRows core v 32 28 hb with
      | (none, s) => (s, seizCode 4 7)
      | (some rb, s) =>
        let shape (byte : Nat) : Word := BitVec.ofNat 64 (cmdField v (8 * byte) 16)
        let c := ((s.core core).putRows a ra ha).putRows b rb hb
        let c := ((c.setSysr (0x020 + a) (shape 4)).setSysr (0x020 + b) (shape 6)).setSysr (0x020 + t) (shape 8)
        let row := cmdField v 96 8
        let col := cmdField v 104 8
        let c := c.setCells ((({ row := row, col := col, nr := ha.rows, nc := hb.rows } : Cells)).list.map fun p => (p, 0))
        (s.setCore core c,
         match mmaCheck c 256 a b row col with
         | .ok _ => 0
         | .error (.trap code _ _) => if code = cMixedBlock then seizCode 5 9 else seizCode 5 8
         | .error _ => seizCode 5 8)
  | _, _ => (s, seizCode 5 8)

/-- A mismatch, or poison, in a command's run (R330, log 67): it is repeated from its operand load, and the third ends it with
STATUS 5, REASON 10, and a record. -/
def State.seizMismatch (s : State) (core : Nat) : State :=
  let c := s.core core
  if c.seizTries < 2 then s.setCore core { c with seizPhase := .drained, seizTries := c.seizTries + 1 }
  else
    (s.setCore core { c with seizPhase := .saved, seizTries := 3, seizStatus := seizCode 5 10 }).report
      { (s.at core 0).recFor 0x06 2 with engid := 4096 + core }

/-- The operands of a command are loaded, and its first beat follows, which a repeat does not move (R330); poison in them counts as a mismatch, with its own record
(R183, R330, R342, log 67). -/
def State.seizBegin (s : State) (core : Nat) (z : Seizure) : State :=
  let (t, code) := s.seizLoad core z
  let c := t.core core
  match (if code = 0 then s.seizPoison core z.bits else none) with
  | some p => (s.report { (s.at core 0).recFor 0x02 1 with
      engid := 4096 + core, addr := BitVec.ofNat 64 p.addr, detail := checkerInfo (4096 + core) (s.storeOf p) 0 0 }).seizMismatch core
  | none => t.setCore core { c with
      seizPhase := .saved, seizStatus := code,
      seizTbeat := if code = 0 ∧ c.seizTbeat = 0 then BitVec.ofNat 64 (s.replica core) else c.seizTbeat }

/-- Step 4 ends: the save area is written (R329), and the operands are loaded (R330); a repeated command begins here again. -/
def execSeizureSaveEnd (core : Nat) (s : State) : Host.Outcome State Fault Refusal :=
  let c := s.core core
  match c.seiz with
  | z :: _ =>
    let d := { c with mem := tfill 0 c.mem saveArea saveAreaSize (Config.saveAreaByte s.fresh),
                      memBad := tfill 0 c.memBad (saveArea / 8) (saveAreaSize / 8) fun _ => 0 }
    let t := if c.seizTries = 0 then { s.setCore core d with fresh := s.fresh + 1 } else s
    s.event (c.seizPhase == .drained) (t.seizBegin core z)
  | [] => .next s

/-- The product and the epilogue (R183): the core, and the rows of TO. -/
def CoreSt.seizProduct (c : CoreSt) (v : BitVec 512) : CoreSt × List Byte :=
  let (a, b, t) := seizTiles v
  let row := cmdField v 96 8
  let col := cmdField v 104 8
  match mmaCheck c 256 a b row col, cmdShape v 8, Act.ofCode (cmdField v 116 4) with
  | .ok (ha, hb, p), some ho, some act =>
    let c := c.setCells (mmaCells c a b ha hb p row col).1
    let k : Cells := { row := row, col := col, nr := ha.rows, nc := hb.rows }
    let rs := List.replicate (k.nr * k.nc) (Rounding.mode 0)
    let c := (epilogue c t ho.fmt k act (cmdField v 115 1 == 1) [] rs).1
    (c, (List.range ho.rows).flatMap fun r => tileBytes (c.tile t) r 0 ho.bpr)
  | _, _, _ => (c, [])

/-- Step 5 ends: the payload is formed; a refused command has none. -/
def execSeizureRunEnd (core : Nat) (s : State) : Host.Outcome State Fault Refusal :=
  let c := s.core core
  match c.seiz with
  | z :: _ =>
    let (d, bs) := if c.seizStatus = 0 then c.seizProduct z.bits else (c, [])
    s.event (c.seizPhase == .saved) (s.setCore core { d with seizPhase := .ran, seizResult := bs })
  | [] => .next s

/-- The saved set put back (R184). -/
def CoreSt.restoreSet (c : CoreSt) (v : BitVec 512) : CoreSt :=
  let k := c.seizSave
  let (row, n) := seizRows v
  let c := k.tiles.foldl (fun c e => c.setTile e.1 e.2) c
  let c := k.shapes.foldl (fun c e => c.setSysr (0x020 + e.1) e.2) c
  { c with acc := k.acc.foldl (fun t e => tset 0 t e.1 e.2) (terase c.acc (row * 128) ((row + n) * 128)),
           accRows := k.rows.foldl (fun t e => tset false t e.1 e.2) (terase c.accRows row (row + n)),
           tileBad := k.tileBad, accBad := k.accBad }

/-- Steps 6 and 7: the saved set and the divider are restored, TEND is recorded, the message leaves, and the contexts resume;
where a reset has closed the target, what is still queued is refused (R330, R331). -/
def execSeizureRestoreEnd (core : Nat) (s : State) : Host.Outcome State Fault Refusal :=
  let c := s.core core
  match c.seiz with
  | z :: rest =>
    let msg := resultHeader (cmdField z.bits 16 16) c.seizStatus c.seizResult.length c.seizTacc.toNat c.seizTbeat.toNat
      (s.replica core) ++ c.seizResult
    let shut := s.closedToSeizure core
    let d := { c.restoreSet z.bits with seiz := if shut then [] else rest, seizPhase := .idle, seizSave := {},
                                        seizResult := [], seizTries := 0, seizPwr := none }
    s.event (c.seizPhase == .ran)
      ((s.setCore core d).fly (z.result core msg :: if shut then rest.map fun y => y.refuse core (seizCode 1 5) else []))
  | [] => .next s

/-! ### The result at the sender's ring (R230) -/

/-- c9 moves past command number v, and wakes (R183, R241). -/
def State.advanceC9 (s : State) (core v : Nat) : State := (s.setCore core { s.core core with c9 := v }).wake core

/-- A result reaches the sender's ring in the order of the numbers; it waits for room, or is discarded (R230). -/
def execSeizureResultAtRing (n : Nat) (s : State) : Host.Outcome State Fault Refusal :=
  .next (match s.flight[n]? with
    | some (.result c k ring tag msg vf number src) =>
      if number ≠ (s.core c).c9 + 1 then s
      else
        let m : Message := { kind := 2, srcctx := 0, src := src, vf := vf, payload := msg }
        match (if ring = noRing then 2 else s.ringCode c ring m) with
        | 0 => ((s.unfly n).ringWrite c ring m).advanceC9 c number
        | 1 => s
        | code =>
          let r := { (s.at c k).recFor 0x0B 2 with
            vf := some vf, engid := 4096 + src, detail := BitVec.ofNat 64 (code * 2 ^ 16 + tag) }
          ((s.unfly n).report r).advanceC9 c number
    | _ => s)

end Sys2Proof.Machine
end

