-- ==== Sys2Proof/Machine/Upset.lean ====
section
/-! DEFINITION. Errors in the machine's stores, as their codes find them (R270), poison in a shared latch (R342), and a mismatch in
a seizure's run (R330). The agenda names them; log 86 gives the records. -/

namespace Sys2Proof.Machine

/-- The store's unit in ENGID, the core that it belongs to, and the address that a record names (R345, log 86). -/
def Upset.where_ : Upset → Nat × Option Nat × Nat
  | .bytes (.core n o) => (n, some n, o)
  | .bytes (.tbuf n o) => (6 * 4096 + n, some n, o)
  | .bytes (.dram a) | .clean a => (7 * 4096 + homeSlice a, none, a)
  | .bytes (.sram o) => (0, none, o)
  | .bytes (.host _) | .bytes (.peer _) => (0, none, 0)
  | .cell n i => (4096 + n, some n, i / 128 * 256 + i % 128)
  | .tile n t i => (4096 + n, some n, 4096 * t + 8 * i)
  | .scratch n i => (4 * 4096 + n, some n, 8 * i)
  | .mirror _ _ => (10 * 4096, none, 0)
  | .icache n _ | .tlb n _ _ => (n, some n, 0)
  | .walker k _ => (9 * 4096 + k, none, 0)
  | .latch n _ => (2 * 4096 + n, some n, 0)
  | .seizure n => (4096 + n, some n, 0)

/-- The record of an error that changes no value (R270). -/
def State.harmless (s : State) (u : Upset) (cls : Nat) : State :=
  let (engid, core, addr) := u.where_
  s.report { cls := cls, sev := 0, engid := engid, core := core, addr := BitVec.ofNat 64 addr }

/-- The store has what the error names. -/
def Upset.present (u : Upset) (s : State) : Bool :=
  match u with
  | .bytes (.core n o) => decide (n < 96) && decide (o < memSize n)
  | .bytes (.tbuf n o) => decide (n < 64) && decide (o < 98304)
  | .bytes (.sram o) => decide (o < 0x1D00000)
  | .bytes (.dram a) => tget false s.sectors (a / 128)
  | .bytes (.host _) | .bytes (.peer _) => false
  | .clean a => decide (a < 0x1E00000000) && !tget false s.sectors (a / 128)
  | .cell n i => decide (n < 96) && decide (i < 128 * (if Config.isReflex n then 64 else 256))
  | .tile n t i => decide (n < 96) && decide (t < 8) && decide (i < 512)
  | .scratch n i => decide (n < 96) && decide (i < 2 * (if Config.isReflex n then 64 else 256))
  | .mirror n b => decide (n < 4096) && decide (b ≤ headerBad)
  | .icache n i => decide (i < (s.core n).icache.length)
  | .tlb n fetch i => decide (i < (if fetch then (s.core n).itlb else (s.core n).dtlb).length)
  | .walker k i => decide (i < (s.cluster k).tlb.length)
  | .latch n _ => decide (n < 96)
  | .seizure n => (s.core n).seizPhase == .saved && (s.core n).seizStatus == 0

/-- An entry that parity finds wrong is dropped, to be fetched or walked for again, with its record (R270). -/
def State.refetch (s : State) (u : Upset) : State :=
  (match u with
    | .icache n i => s.setCore n { s.core n with icache := (s.core n).icache.eraseIdx i }
    | .tlb n true i => s.setCore n { s.core n with itlb := (s.core n).itlb.eraseIdx i }
    | .tlb n false i => s.setCore n { s.core n with dtlb := (s.core n).dtlb.eraseIdx i }
    | .walker k i => s.setCluster k { s.cluster k with tlb := (s.cluster k).tlb.eraseIdx i }
    | _ => s).harmless u 0x05

/-- Poison in a latch of the vector unit's operand path: the contexts of the mask with an instruction in flight are the vector
context set, which returns (R342). -/
def State.latchPoison (s : State) (core : Nat) (mask : BitVec 11) : State :=
  let ks := ((s.core core).live core).filter fun k => mask.getLsbD k
  match ks with
  | [] => s
  | k :: _ => { (s.at core k).consumePoison 0 0 2 ks with cur := s.cur }

/-- An error that a store's code finds (R270): corrected, which changes nothing; else its data is poisoned, its entry dropped, or
the Mirror's buffer set aside (R326). -/
def State.upset (s : State) (u : Upset) (corrected : Bool) : State :=
  if !u.present s then s
  else match u with
    | .clean _ | .icache _ _ | .tlb _ _ _ | .walker _ _ => s.refetch u
    | .latch n mask => s.latchPoison n mask
    | .seizure n => s.seizMismatch n
    | u =>
      if corrected then s.harmless u 0x01
      else match u with
        | .bytes p => s.poison p
        | .cell n i => s.setCore n { s.core n with accBad := tset false (s.core n).accBad i true }
        | .tile n t i => s.setCore n { s.core n with tileBad := tset 0 (s.core n).tileBad (512 * t + i) (BitVec.allOnes 8) }
        | .scratch n i => s.setCore n { s.core n with xBad := tset false (s.core n).xBad i true }
        | .mirror n b => s.setSlot n { s.slot n with bad := if (s.slot n).bad.contains b then (s.slot n).bad else b :: (s.slot n).bad }
        | _ => s

end Sys2Proof.Machine
end

