-- ==== Sys2Proof/Machine/Dispenser.lean ====
section
/-! DEFINITION. The Dispenser and the launch unit: launches, admission, dependences, supersteps, task start, retirement
(R38-R40, R290-R302), and EXIT (R234). -/

namespace Sys2Proof.Machine

/-! ### Global memory as agents reach it (R275, R277) -/

/-- Why an agent's access does not go through. -/
inductive GStop where
  | absent (page : Nat)
  | invalid (va : Nat)
  | malformed (va : Nat)
  | refused (va : Nat) (pkind : BitVec 4)
  /-- the walkers' replicas, or that of a home, are out of bound (R283) -/
  | wait
deriving DecidableEq, Repr

/-- Translation of pieces in order, by walks; a page declared invalid counts as invalid (R286). A stop leaves the marks of the walks
before it (R285). -/
def State.locate (s : State) (who : Asker) (acc : Acc) (bad : List Nat) :
    List (Nat × Nat) → Except (GStop × State) (List (Place × Nat) × State)
  | [] => .ok ([], s)
  | (va, n) :: t =>
    if 2 ^ 56 < va + n then .error (.invalid va, s)
    else if s.noWalk who then .error (.wait, s)
    else match s.xlateSecond who acc va with
      | (_, .place p _, s) =>
        if s.homeSkewed p.addr then .error (.wait, s)
        else do
          let (ps, s) ← s.locate who acc bad t
          .ok ((p, n) :: ps, s)
      | (_, .absent, _) => .error (if bad.contains (va / 65536 * 65536) then .invalid va else .absent (va / 65536 * 65536), s)
      | (_, .refused k, _) => .error (.refused va k, s)
      | (_, .malformed, _) => .error (.malformed va, s)
      | (_, .invalid, _) => .error (.invalid va, s)
      | (_, .noRoot, _) => .error (.invalid va, s)
      | (_, .skewed, _) => .error (.wait, s)

/-- Bytes read by an agent. -/
def State.readGlobal (s : State) (who : Asker) (bad : List Nat) (va n : Nat) : Except (GStop × State) (List Byte × State) := do
  let (ps, s) ← s.locate who .load bad (cuts va n)
  .ok (ps.flatMap fun e => s.bytesAt e.1 e.2, s)

/-- Bytes written by an agent. -/
def State.writeGlobal (s : State) (who : Asker) (bad : List Nat) (va : Nat) (bs : List Byte) : Except (GStop × State) State := do
  let (ps, s) ← s.locate who .store bad (cuts va bs.length)
  .ok (s.putPieces ps bs)

/-- The Dispenser as an asker for a launch: the submitter's cluster, or none for the host (R275). R271 names no TLB for the Dispenser and
the launch unit: they use and fill the second-level TLB of that cluster, and none for a host launch (log 100). -/
def State.dispAsker (s : State) (vf : Nat) (submitter : Option Nat) : Asker :=
  { vf := vf, cluster := submitter.map clusterOf, lcap := 15, replica := s.now }

/-! ### Headers and records (R291, R292) -/

/-- A field of a task record: n bits from bit lo on. -/
def recField (v : BitVec 1024) (lo n : Nat) : Nat := v.toNat / 2 ^ lo % 2 ^ n

def hdrNtask (v : BitVec 512) : Nat := cmdField v 64 16
def hdrTasks (v : BitVec 512) : Nat := cmdField v 0 64
def hdrNdep (v : BitVec 512) : Nat := cmdField v 96 32
def hdrDone (v : BitVec 512) : Nat := cmdField v 128 64
def hdrSucc (v : BitVec 512) : Nat := cmdField v 192 64
def hdrNsucc (v : BitVec 512) : Nat := cmdField v 256 16
def hdrLtag (v : BitVec 512) : Nat := cmdField v 320 48

/-- A header at fault (R293). -/
def headerFault (v : BitVec 512) (inline : Bool) : Bool :=
  cmdField v 83 13 != 0 || decide (cmdField v 80 3 < 2) || decide (5 < cmdField v 80 3) || cmdField v 272 48 != 0
    || cmdField v 368 144 != 0 || decide (4096 < hdrNtask v) || decide (256 < hdrNsucc v)
    || (hdrNtask v != 0 && hdrTasks v % 64 != 0) || hdrDone v % 8 != 0 || hdrSucc v % 8 != 0 || (inline && hdrNdep v != 0)

def recEntry (v : BitVec 1024) : Nat := recField v 0 64
def recLvl (v : BitVec 1024) : Nat := recField v 98 2
def recTile (v : BitVec 1024) : Bool := recField v 100 1 == 1
def recPair (v : BitVec 1024) : Bool := recField v 101 1 == 1
def recFixd (v : BitVec 1024) : Bool := recField v 110 1 == 1
def recDomid (v : BitVec 1024) : Nat := recField v 104 6
def recNsucc (v : BitVec 1024) : Nat := recField v 672 16
def recSave (v : BitVec 1024) : Nat := recField v 832 64

/-- Domains of a level (R30). -/
def domCount (lvl : Nat) : Nat := match lvl with
  | 0 => 64
  | 1 => 16
  | 2 => 4
  | _ => 1

/-- Every core of a domain is assigned to a function (R298, R372). -/
def State.ownedBy (s : State) (vf lvl dom : Nat) : Bool := (domCores lvl dom).all fun c => (tget 0 s.assign vf).getLsbD c

/-- A record that R293 refuses, without its successor list. -/
def State.recordFault (s : State) (vf : Nat) (v : BitVec 1024) : Bool :=
  let rows := recField v 576 32
  let cols := recField v 608 32
  recField v 103 1 != 0 || recField v 111 1 != 0 || recField v 117 3 != 0 || recField v 125 3 != 0 || recField v 688 16 != 0
    || recField v 785 15 != 0 || recField v 818 14 != 0 || recField v 896 128 != 0
    || recField v 56 8 != 0 || recField v 0 2 != 0
    || ((recTile v || recPair v) && recLvl v == 0) || (recPair v && !recTile v)
    || (recTile v && (rows == 0 || cols == 0 || decide (2 ^ 28 ≤ rows) || decide (2 ^ 28 ≤ cols)))
    || decide (16 < recField v 112 5) || decide (16 < recField v 120 5) || decide (4096 < recNsucc v)
    || (!recFixd v && recDomid v != 0) || (!recTile v && (rows != 0 || cols != 0))
    || (recFixd v && (decide (domCount (recLvl v) ≤ recDomid v) || !s.ownedBy vf (recLvl v) (recDomid v)))
    || decide (81920 < recField v 768 17 + recField v 800 18) || recField v 704 64 % 4 != 0 || recSave v % 64 != 0

/-! ### Events (R297, R373) -/

/-- The two words of a Dispenser event (R297). -/
def dispEvent (status value : Nat) (addr : Word) : Word × Word :=
  (BitVec.ofNat 64 (2 * 2 ^ 60 + status * 2 ^ 48 + value % 2 ^ 48), addr)

/-- An event of a launch: to its submitter's Q0, or to the completion queue of its function (R295, R373). -/
def State.postLaunch (s : State) (submitter : Option Nat) (vf : Nat) (e : Word × Word) : State :=
  match submitter with
  | some c => s.postQ0 c e
  | none =>
    let q : QueueBlock := tget {} s.queues vf
    { s with queues := tput s.queues vf { q with completions := q.completions ++ [e] } }

/-- BADLAUNCH (R293): the index of the first bad record, or all ones for the header. -/
def State.badLaunch (s : State) (submitter : Option Nat) (vf : Nat) (addr : Word) (value : Nat) : State :=
  s.postLaunch submitter vf (dispEvent 0x11 value addr)

/-- VALUE when the header is at fault. -/
def headerAtFault : Nat := 0xFFFFFFFFFFFF

/-! ### The tracker (R290, R294) -/

/-- A launch of the tracker by its number. -/
def State.launch (s : State) (id : Nat) : Option Launch := s.launches.find? fun l => l.id == id

/-- A launch replaced in its place. -/
def State.setLaunch (s : State) (l : Launch) : State :=
  { s with launches := s.launches.map fun o => if o.id = l.id then l else o }

def State.dropLaunch (s : State) (id : Nat) : State := { s with launches := s.launches.filter fun l => l.id != id }

/-- A task enters the ready pool (R294, R298). -/
def State.makeReady (s : State) (l : Launch) (i : Nat) : State :=
  match l.recs[i]? with
  | none => s
  | some v =>
    let r : Ready := { launch := l.id, index := i, bits := v, vf := l.vf, prio := recField v 96 2, entered := s.entered }
    { s with pool := s.pool ++ [r], entered := s.entered + 1 }

/-- A signal to a header address (R294): held launches of the function count down; one that reaches 0 queues for admission. -/
def State.signal (s : State) (vf : Nat) (addr : Word) : State :=
  let hit (l : Launch) : Bool := !l.admitted && !l.unread && l.ndep != 0 && l.addr == addr && l.vf == vf
  let ls := s.launches.map fun l => if hit l then { l with ndep := l.ndep - 1 } else l
  let now0 := (s.launches.filter fun l => hit l && l.ndep == 1).map (·.id)
  { s with launches := (ls.filter fun l => !now0.contains l.id) ++ ls.filter fun l => now0.contains l.id }

/-- The DONE update (R295): the new state, with a FAULT event where it cannot be made, or a wait, for an absent page or for a replica to
be within bound. -/
def State.doneUpdate (s : State) (l : Launch) : Except (Option Nat × State) State :=
  let va := hdrDone l.bits
  if va = 0 then .ok s
  else
    let fault (t : State) : State := t.postLaunch l.submitter l.vf (dispEvent 0x03 (hdrLtag l.bits) (BitVec.ofNat 64 va))
    match s.locate (s.dispAsker l.vf l.submitter) .rmw l.bad [(va, 8)] with
    | .ok ([(p, _)], t) => .ok (if inWindow p.addr then fault t else t.setBytes p (leBytes 8 (t.numAt p 8 + 1)))
    | .ok (_, t) => .ok (fault t)
    | .error (.absent page, t) => .error (some page, t)
    | .error (.wait, t) => .error (none, t)
    | .error (_, t) => .ok (fault t)

/-- A launch whose tasks have all completed completes (R295, R296): DONE, LDONE, signals. -/
def State.finishLaunch (s : State) (l : Launch) : State :=
  if !l.admitted || l.completed.length != l.recs.length then s
  else match s.doneUpdate l with
    | .error (some page, t) => t.postFault (l.submitter.getD 0) l.vf page 3 0
    | .error (none, t) => t
    | .ok t =>
      let t := (t.dropLaunch l.id).postLaunch l.submitter l.vf (dispEvent 0x10 (hdrLtag l.bits) l.addr)
      l.succ.foldl (fun t a => t.signal l.vf a) t

/-- Dependence counts after a task completes: once for each time an index appears (R294); with the tasks now ready. -/
def countDown (deps : Tab Nat) : List Nat → Tab Nat × List Nat
  | [] => (deps, [])
  | i :: t =>
    let n := tget 0 deps i
    let (d, r) := countDown (tset 0 deps i (n - 1)) t
    (d, if n = 1 then i :: r else r)

/-- Task i of a launch completes (R294, R297). -/
def State.taskDone (s : State) (l : Launch) (i : Nat) : State :=
  let v := (l.recs[i]?).getD 0
  let (deps, ready) := countDown l.deps ((l.succs[i]?).getD [])
  let l := { l with deps := deps, completed := l.completed ++ [i] }
  let s := s.setLaunch l
  let s := if recField v 102 1 = 1 then s.postLaunch l.submitter l.vf (dispEvent 0x12 (recField v 64 32) l.addr) else s
  (ready.foldl (fun s j => s.makeReady l j) s).finishLaunch l

/-- An instance of a task has retired (R294). -/
def State.instanceDone (s : State) (p : Placed) : State :=
  match s.launch p.launch with
  | none => s
  | some l =>
    let n := tget 0 l.instancesLeft p.index
    let l := { l with instancesLeft := tset 0 l.instancesLeft p.index (n - 1) }
    if n = 1 then (s.setLaunch l).taskDone l p.index else s.setLaunch l

/-! ### Taking and admission (R290, R293) -/

/-- A function whose reset is in progress accepts no launch (R347). -/
def State.closedTo (s : State) (vf : Nat) : Bool := s.resets.any fun r => r.vf == vf

/-- A launch whose header has been read: NDEP is known. -/
def Launch.withHeader (l : Launch) (v : BitVec 512) : Launch := { l with bits := v, ndep := hdrNdep v, unread := false }

/-- A submission enters the tracker (R290); its header is read, or waits for its page (R293). -/
def State.takeLaunch (s : State) (sub : Submission) (submitter : Option Nat) : State :=
  match sub with
  | .inline v vf =>
    if s.closedTo vf ∨ headerFault v true then s.badLaunch submitter vf 0 headerAtFault
    else
      let l : Launch := { id := s.nextLaunch, addr := 0, vf := vf, submitter := submitter }
      { s with launches := s.launches ++ [l.withHeader v], nextLaunch := s.nextLaunch + 1 }
  | .header va vf =>
    let l : Launch := { id := s.nextLaunch, addr := va, vf := vf, submitter := submitter, unread := true }
    let enter (s : State) (l : Launch) : State := { s with launches := s.launches ++ [l], nextLaunch := s.nextLaunch + 1 }
    if s.closedTo vf ∨ va.toNat % 64 ≠ 0 then s.badLaunch submitter vf va headerAtFault
    else match s.readGlobal (s.dispAsker vf submitter) [] va.toNat 64 with
      | .ok (bs, t) => enter t (l.withHeader (BitVec.ofNat 512 (leNat bs)))
      | .error (.absent page, t) => enter (t.postFault (submitter.getD 0) vf page 0 0) l
      | .error (.wait, t) => enter t l
      | .error (_, t) => t.badLaunch submitter vf va headerAtFault

/-- Launches that the tracker holds at once (R290). -/
def trackerSize : Nat := 1024
/-- Task records that pool and tracker hold together (R293). -/
def recordPlaces : Nat := 4096

/-- The Dispenser takes the oldest submission of a core's queue once it is released (R217, R290). -/
def execLaunchTake (core : Nat) (s : State) : Host.Outcome State Fault Refusal :=
  .next (match (s.core core).q1 with
    | [] => s
    | sub :: t =>
      if trackerSize ≤ s.launches.length || s.taking core || !s.quiet core then s
      else (s.setCore core { s.core core with q1 := t }).takeLaunch sub (some core))

/-- Records that hold places (R293). -/
def State.placesUsed (s : State) : Nat :=
  (s.launches.map fun l => if l.admitted then l.recs.length - l.completed.length else 0).sum

/-- Why an admission does not go through (R293): it waits, for an absent page or for a replica to be within bound, or what it reads is at
fault. -/
inductive AdmitStop where
  | wait (page : Option Nat)
  | bad
deriving DecidableEq, Repr

/-- What the stop of a read makes of an admission. -/
def GStop.stopsEntry : GStop → AdmitStop
  | .absent page => .wait (some page)
  | .wait => .wait none
  | .invalid _ | .malformed _ | .refused _ _ => .bad

/-- One record with its successor list, or its stop. -/
def State.readRecord (s : State) (l : Launch) (i : Nat) : Except (AdmitStop × State) (BitVec 1024 × List Nat × State) :=
  let who := s.dispAsker l.vf l.submitter
  match s.readGlobal who l.bad (hdrTasks l.bits + 128 * i) 128 with
  | .error (e, t) => .error (e.stopsEntry, t)
  | .ok (bs, s) =>
    let v := BitVec.ofNat 1024 (leNat bs)
    if s.recordFault l.vf v then .error (.bad, s)
    else match s.readGlobal who l.bad (recField v 704 64) (4 * recNsucc v) with
      | .error (e, t) => .error (e.stopsEntry, t)
      | .ok (bs, s) =>
        let is := (List.range (recNsucc v)).map fun k => leNat ((bs.drop (4 * k)).take 4)
        if is.any fun j => decide (hdrNtask l.bits ≤ j) then .error (.bad, s) else .ok (v, is, s)

/-- Every record from index i on: n of them; the index of the first that stops, and its stop. -/
def State.readRecords (s : State) (l : Launch) (i : Nat) : Nat →
    Except (Nat × AdmitStop × State) (List (BitVec 1024 × List Nat) × State)
  | 0 => .ok ([], s)
  | n + 1 =>
    match s.readRecord l i with
    | .error (e, t) => .error (i, e, t)
    | .ok (v, is, s) => do
      let (rs, s) ← s.readRecords l (i + 1) n
      .ok ((v, is) :: rs, s)

/-- The instances of a task (R294, R299): one for each position of a tiled task. -/
def instances (v : BitVec 1024) : Nat :=
  if recTile v then
    let r := rectOf 0 (recLvl v)
    r.h * r.w
  else 1

/-- The list of successor launches and every record of a launch (R293), or the stop with the index that a BADLAUNCH would give. -/
def State.readLaunch (s : State) (l : Launch) :
    Except (Nat × AdmitStop × State) (List Byte × List (BitVec 1024 × List Nat) × State) :=
  match s.readGlobal (s.dispAsker l.vf l.submitter) l.bad (hdrSucc l.bits) (8 * hdrNsucc l.bits) with
  | .error (e, t) => .error (headerAtFault, e.stopsEntry, t)
  | .ok (bs, t) => do
    let (rs, t) ← t.readRecords l 0 (hdrNtask l.bits)
    .ok (bs, rs, t)

/-- Pool and tracker together have room for the launch's records (R293). -/
def State.hasPlaces (s : State) (l : Launch) : Bool := decide (s.placesUsed + hdrNtask l.bits ≤ recordPlaces)

/-- Admission of a launch whose NDEP is 0 (R293): refused, held for a page or for room, or its ready tasks enter the pool. R286 does not
say what a fault record names for the Dispenser and the launch unit: CORE is that of the submitter, 0 for a host launch, KIND 0, 3
for DONE, and SRC 0 (log 101). -/
def State.letIn (s : State) (l : Launch) : State :=
  let refuse (t : State) (i : Nat) : State := (t.dropLaunch l.id).badLaunch l.submitter l.vf l.addr i
  if headerFault l.bits false then refuse s headerAtFault
  else if !s.hasPlaces l then s
  else match s.readLaunch l with
    | .error (_, .wait (some page), t) => t.postFault (l.submitter.getD 0) l.vf page 0 0
    | .error (_, .wait none, t) => t
    | .error (i, .bad, t) => refuse t i
    | .ok (bs, rs, t) =>
      let l := { l with
        admitted := true, bad := [], recs := rs.map (·.1), succs := rs.map (·.2),
        succ := (List.range (hdrNsucc l.bits)).map fun k => wordAt bs (8 * k),
        deps := (rs.zipIdx).foldl (fun d e => tset 0 d e.2 (recField e.1.1 640 32)) [],
        instancesLeft := (rs.zipIdx).foldl (fun d e => tset 0 d e.2 (instances e.1.1)) [] }
      let t := t.setLaunch l
      let ready := (List.range l.recs.length).filter fun i => tget 0 l.deps i == 0
      (ready.foldl (fun t i => t.makeReady l i) t).finishLaunch l

/-- A header read again after its page was absent (R293): NDEP is known from now on. -/
def State.readHeader (s : State) (l : Launch) : State :=
  match s.readGlobal (s.dispAsker l.vf l.submitter) l.bad l.addr.toNat 64 with
  | .ok (bs, t) =>
    { t with launches := (t.launches.filter fun o => o.id != l.id) ++ [l.withHeader (BitVec.ofNat 512 (leNat bs))] }
  | .error (.absent page, t) => t.postFault (l.submitter.getD 0) l.vf page 0 0
  | .error (.wait, t) => t
  | .error (_, t) => (t.dropLaunch l.id).badLaunch l.submitter l.vf l.addr headerAtFault

/-- The successor list of a launch lies on an absent page. -/
def State.succAbsent (s : State) (l : Launch) : Bool :=
  match s.readGlobal (s.dispAsker l.vf l.submitter) l.bad (hdrSucc l.bits) (8 * hdrNsucc l.bits) with
  | .error (.absent _, _) => true
  | _ => false

/-- Launch o, whose NDEP reached 0 earlier, is admitted before l (R290). One without tasks, which is admitted as soon as its NDEP is 0,
waits for no launch that has tasks and for none that its own page holds (R296). -/
def State.goesFirst (s : State) (l o : Launch) : Bool :=
  !o.unread && !o.admitted && o.ndep == 0 && (hdrNtask l.bits != 0 || (hdrNtask o.bits == 0 && !s.succAbsent o))

/-- The page that keeps a launch from going on: that of its header, of what its admission reads, or of its DONE word (R286, R293,
R295). -/
def State.awaitsPage (s : State) (l : Launch) : Option Nat :=
  if l.unread then some (l.addr.toNat / 65536 * 65536)
  else if l.admitted then (if l.completed.length == l.recs.length then some (hdrDone l.bits / 65536 * 65536) else none)
  else if l.ndep != 0 || (s.launches.takeWhile fun o => o.id != l.id).any (s.goesFirst l) || !s.hasPlaces l then none
  else match s.readLaunch l with
    | .error (_, .wait page, _) => page
    | _ => none

/-- Launches of a function that wait for a page learn that it is invalid (R286, R293, R295). -/
def State.releaseLaunches (s : State) (vf page : Nat) : State :=
  { s with launches := s.launches.map fun l =>
      if l.vf = vf ∧ s.awaitsPage l = some page then { l with bad := l.bad ++ [page] } else l }

/-- The answer INVALID (R286): held instructions fault, logged entries are discarded, engines stop, launches are refused. -/
def State.answerInvalid (s : State) (token : Word) : State :=
  match s.recordOf token with
  | none => s
  | some (k, f) =>
    ((((s.dropRecord k f).releaseHolders f.vf f.va true).discardLogged f.vf f.va).releaseEngines f.vf f.va true).releaseLaunches
      f.vf f.va

/-- INVALID from the fault service (R286). -/
def execFaultAnswerInvalid (token : Word) (s : State) : Host.Outcome State Fault Refusal := .next (s.answerInvalid token)

/-- The nth launch of the tracker moves (R293-R296): its header is read, it is admitted in the order in which NDEP reached 0, or
it completes after a wait for its DONE page. -/
def execLaunchAdmit (n : Nat) (s : State) : Host.Outcome State Fault Refusal :=
  .next (match s.launches[n]? with
    | none => s
    | some l =>
      if l.unread then s.readHeader l
      else if l.admitted then s.finishLaunch l
      else if l.ndep != 0 || (s.launches.take n).any (s.goesFirst l) then s
      else s.letIn l)

/-! ### Withholding and domains (R298, R301, R379) -/

/-- The power switch in effect, during a seizure too (R330, R377). -/
def CoreSt.powered (c : CoreSt) : Bool := (c.seizPwr.getD c.pwr).getLsbD 2

/-- The hottest row now, the lowest of several (R379, log 16). -/
def hottestRow (now : Nat) : Nat :=
  (List.range 4).foldl (fun best r => if (Config.rowSensor now best).toNat < (Config.rowSensor now r).toNat then r else best) 0

/-- A row's cores are withheld: its sensor reads THOT or more, or the draw exceeds POWCAP and the row is the hottest (R379). -/
def State.rowWithheld (s : State) (row : Nat) : Bool :=
  decide (s.thot.toNat ≤ (Config.rowSensor s.now row).toNat)
    || (decide (s.powcap.toNat < (Config.measuredDraw s.now).toNat) && row == hottestRow s.now)

/-- Core n is withheld now: by PWRn.ON as it was written last, too (R301, R372, R379). -/
def State.withheld (s : State) (core : Nat) : Bool :=
  s.hold.getLsbD core || !((s.core core).pwrNext.getD (s.core core).pwr).getLsbD 2 || s.rowWithheld (core / 16)
    || (s.leaving.find? fun e => e.1 == core).isSome

/-- Domains that share a core. -/
def overlapDom (a b : Nat × Nat) : Bool := (domCores a.1 a.2).any fun c => domOf c b.1 == b.2

/-- A domain is eligible for a task (R298). -/
def State.eligible (s : State) (d : Nat × Nat) (t : Ready) : Bool :=
  recLvl t.bits == d.1 && s.ownedBy t.vf d.1 d.2 && (!recFixd t.bits || recDomid t.bits == d.2)

/-- The lowest-numbered domain eligible for a task (R299). -/
def State.homeOf (s : State) (t : Ready) : Option (Nat × Nat) :=
  ((List.range (domCount (recLvl t.bits))).find? fun k => s.eligible (recLvl t.bits, k) t).map fun k => (recLvl t.bits, k)

/-- A core may begin a superstep: idle, in none, not withheld, not being scrubbed or pre-empted. -/
def State.coreFree (s : State) (c : Nat) : Bool :=
  (s.core c).idleShare && (s.core c).inStep.isNone && !(s.core c).scrubbing && !s.withheld c

/-- A due task keeps d from starting: its home is another domain that overlaps d, and d is not itself the home of a task that was
due before it (R299, log 87). -/
def State.reservedFrom (s : State) (d : Nat × Nat) (t : Ready) : Bool :=
  t.due && (match s.homeOf t with
    | some h => h != d && overlapDom h d && !(s.pool.any fun u => u.due && s.homeOf u == some d && decide (u.entered < t.entered))
    | none => false)

/-- Where a pre-emption of a domain stands: being made, saved, or waiting to resume once the interrupting work is over (R309, R310). -/
def Preempt.blocks (p : Preempt) : Bool := p.phase != 3

/-- A domain is startable (R298, R299): due tasks keep other domains off the one that they wait for, and a pre-empted domain takes
no new superstep while it is saved or once it is to resume (R309, R310). -/
def State.startable (s : State) (d : Nat × Nat) : Bool :=
  (domCores d.1 d.2).all s.coreFree && !s.supersteps.any (overlapDom d)
    && !s.preempts.any (fun p => p.blocks && overlapDom d (p.lvl, p.dom))
    && s.pool.any (s.eligible d)
    && !s.pool.any (s.reservedFrom d)

/-- A superstep of d ages a task for which d is eligible (R299). -/
def State.aged (s : State) (d : Nat × Nat) (t : Ready) : Ready :=
  if !s.eligible d t then t
  else if t.age + 1 = 64 then { t with age := 0, prio := Nat.min (t.prio + 1) 3, due := true }
  else { t with age := t.age + 1 }

/-- The place of a task in the order of R299: due tasks by time of entry, the rest by priority and then by time of entry. -/
def Ready.rank (t : Ready) : Nat × Nat × Nat := if t.due then (0, t.entered, 0) else (1, 3 - t.prio, t.entered)

def rankLe (a b : Nat × Nat × Nat) : Bool :=
  decide (a.1 < b.1) || (a.1 == b.1 && (decide (a.2.1 < b.2.1) || (a.2.1 == b.2.1 && decide (a.2.2 ≤ b.2.2))))

/-- Insertion by rank. -/
def insertReady (t : Ready) : List Ready → List Ready
  | [] => [t]
  | o :: l => if rankLe t.rank o.rank then t :: o :: l else o :: insertReady t l

/-- The order in which a superstep of d places the pool's tasks (R299). -/
def State.orderFor (s : State) (d : Nat × Nat) : List Ready :=
  ((s.pool.map (s.aged d)).filter (s.eligible d)).foldr insertReady []

/-- Every domain, level by level. -/
def allDomains : List (Nat × Nat) := (List.range 4).flatMap fun l => (List.range (domCount l)).map fun k => (l, k)

/-- The domain that starts first (R299). -/
def State.chosen (s : State) : Option (Nat × Nat) :=
  (allDomains.filter s.startable).foldl (fun best d =>
    match (s.orderFor d).head?, best with
    | some t, none => if s.eligible d t then some d else none
    | some t, some b => match (s.orderFor b).head? with
      | some u => if rankLe u.rank t.rank then some b else some d
      | none => some d
    | none, b => b) none

/-! ### Placing (R299, R302) -/

/-- Tasks that a share holds at most (R299). -/
def shareSize : Nat := 16

/-- A task on a core at a position of its domain (R302). -/
def placedAt (d : Nat × Nat) (core : Nat) (t : Ready) : Placed :=
  let r := rectOf core d.1
  let k := if recPair t.bits then 2 else 1
  { launch := t.launch, index := t.index, bits := t.bits, vf := t.vf, i := rowOf core - r.row, j := (colOf core - r.col) / k,
    h := r.h, w := r.w / k }

/-- The core of a list that holds the fewest placed tasks, the lowest on a tie (R299). -/
def State.emptiest (s : State) : List Nat → Option Nat
  | [] => none
  | c :: t => match s.emptiest t with
    | none => some c
    | some b => if (s.core c).share.length ≤ (s.core b).share.length then some c else some b

/-- A task is placed on d, or stays in the pool (R299). -/
def State.place (s : State) (d : Nat × Nat) (t : Ready) : State :=
  let cs := domCores d.1 d.2
  let put (s : State) (c : Nat) : State := s.setCore c { s.core c with share := (s.core c).share ++ [placedAt d c t] }
  let placed (s : State) : State := { s with pool := s.pool.filter fun o => o.entered != t.entered }
  if recTile t.bits then
    if cs.all fun c => decide ((s.core c).share.length < shareSize) then placed (cs.foldl put s) else s
  else match s.emptiest cs with
    | some c => if (s.core c).share.length < shareSize then placed (put s c) else s
    | none => s

/-- DOMLVL of a domain (R30, R300). -/
def domlvlOf (d : Nat × Nat) : Word := BitVec.ofNat 64 (d.2 * 256 + d.1)

/-- A superstep begins (R299, R300): DOMLVL on every core of the domain, and the shares. -/
def State.beginStep (s : State) (d : Nat × Nat) : State :=
  let order := s.orderFor d
  let s := { s with pool := s.pool.map (s.aged d), supersteps := s.supersteps ++ [d],
                    preempts := s.preempts.map fun p => if p.phase = 3 ∧ overlapDom d (p.lvl, p.dom) = true then { p with phase := 4 } else p }
  let s := (domCores d.1 d.2).foldl (fun s c =>
    let o := s.core c
    s.setCore c { o.setSysr 0x003 (domlvlOf d) with inStep := some d }) s
  order.foldl (fun s t => s.place d t) s

/-- A startable domain begins a superstep (R299). -/
def execSuperstepBegin (lvl dom : Nat) (s : State) : Host.Outcome State Fault Refusal :=
  s.event (s.chosen == some (lvl, dom)) (s.beginStep (lvl, dom))

/-- ceil(ceil(t / n) / 2^g) * 2^g (R302). -/
def granule (t n g : Nat) : Nat := ((t + n - 1) / n + 2 ^ g - 1) / 2 ^ g * 2 ^ g

/-- IDORG, IDEXT and IDGRID of an instance (R302). -/
def tiling (p : Placed) : Word × Word × Word :=
  if !recTile p.bits then (0, 0, 0)
  else
    let rows := recField p.bits 576 32
    let cols := recField p.bits 608 32
    let br := granule rows p.h (recField p.bits 112 5)
    let bc := granule cols p.w (recField p.bits 120 5)
    let row0 := p.i * br
    let col0 := p.j * bc
    let nr := Nat.min br (rows - row0)
    let nc := Nat.min bc (cols - col0)
    let (nr, nc) := if nr = 0 ∨ nc = 0 then (0, 0) else (nr, nc)
    (BitVec.ofNat 64 (col0 * 2 ^ 32 + row0), BitVec.ofNat 64 (nc * 2 ^ 32 + nr),
     BitVec.ofNat 64 (cols * 2 ^ 36 + rows * 2 ^ 8 + p.w * 2 ^ 3 + p.h))

/-! ### Task start (R38, R300) -/

/-- G1-G7 from ARG (R292). -/
def argRegs (v : BitVec 1024) : Tab Word := (List.range 7).foldl (fun t k => tset 0 t (k + 1) (BitVec.ofNat 64 (recField v (128 + 64 * k) 64))) []

/-- The state of a core whose task starts (R38, R300). -/
def CoreSt.startTask (c : CoreSt) (p : Placed) : CoreSt :=
  let c := c.freshCode
  let c := match c.inStep with
    | some d => c.setSysr 0x003 (domlvlOf d)
    | none => c
  let entry : Word := BitVec.ofNat 64 (recEntry p.bits)
  let x := { ((c.ctx 0).cleared.setSysr 0x100 0) with pc := entry, g := argRegs p.bits, run := .running }
  let (org, ext, grid) := tiling p
  let c := ((((c.setSysr 0x001 (BitVec.ofNat 64 (recField p.bits 64 32))).setSysr 0x005 org).setSysr 0x006 ext).setSysr 0x007 grid)
  { c.setCtx 0 (x.record entry false 0) with taskOn := true, pair := recPair p.bits }

/-- The core's control context may start its next task: seizures at the core come first (R39). -/
def CoreSt.canStart (c : CoreSt) : Bool :=
  !c.share.isEmpty && !c.taskOn && !c.clearing && !c.preempting && !c.scrubbing && c.seizPhase == .idle && c.seiz.isEmpty
    && (c.ctx 0).run == .free

/-- The next task of a share starts (R299, R300); the two cores of a pair start together (R312). -/
def State.startShare (s : State) (core : Nat) : State :=
  match (s.core core).share.head? with
  | none => s
  | some p =>
    if recPair p.bits then
      let a := core / 2 * 2
      let ready (k : Nat) : Bool := (s.core k).canStart && (s.core k).share.head? == some p
      if ready a && ready (a + 1) then
        (s.setCore a ((s.core a).startTask p)).setCore (a + 1) ((s.core (a + 1)).startTask p) else s
    else if (s.core core).canStart then s.setCore core ((s.core core).startTask p) else s

/-- The virtual cores of a program that the translator mapped to a core, with the contexts that they have there. -/
def YProgram.coresOn (p : YProgram) (core : Nat) : List (Nat × Nat) :=
  p.cores.zipIdx.filterMap fun e => if e.1.1 = core then some (e.2, e.1.2) else none

/-- Virtual core k of a program begins on context n of a core, at its ENTRY with its ARG in G1 (R361). -/
def State.beginVirtual (s : State) (p : YProgram) (core k n : Nat) : State :=
  let e := p.entries.getD k (0, 0)
  let x := s.ctxAt core n
  if n = 0 then s.setCtxAt core 0 (x.begin e.1 e.2 false)
  else if x.run = .free then s.setCtxAt core n { (x.cleared.noCaps).begin e.1 e.2 false with run := .running }
  else s

/-- The first task that starts on a core after the load of a program that maps virtual cores to it carries them: its control context and
the helpers begin, once for the load (R361, R362, log 32). -/
def State.startVirtual (s : State) (core : Nat) : State :=
  let v := (s.core core).vf
  let l : List YProgram := tget [] s.programs v
  match (if (s.core core).taskOn then l.findIdx? fun p => !(p.coresOn core).isEmpty && !p.begun.contains core else none) with
  | none => s
  | some i =>
    let p := l.getD i {}
    let s := (p.coresOn core).foldl (fun (s : State) e => s.beginVirtual p core e.1 e.2) s
    { s with programs := tput s.programs v (l.set i { p with begun := p.begun ++ [core], live := p.live ++ (p.coresOn core).map (·.1) }) }

/-- A context of a core is no virtual core any more: its task or its helper has ended. -/
def State.endVirtual (s : State) (core ctx : Nat) : State :=
  let v := (s.core core).vf
  match (tget [] s.programs v : List YProgram) with
  | [] => s
  | l => { s with programs := tput s.programs v (l.map fun p => { p with live := p.live.filter fun k => p.cores[k]? != some (core, ctx) }) }

/-- TASK_START (R300). -/
def execTaskStart (core : Nat) (s : State) : Host.Outcome State Fault Refusal :=
  .next (if (s.core core).taskOn then s else (s.startShare core).startVirtual core)

/-! ### Retirement (R38, R39) -/

/-- The clear sequencer's work on a core (R38). -/
def CoreSt.clearTask (c : CoreSt) : CoreSt :=
  let rows := c.accRows.map (·.1)
  { c.setCtx 0 { (c.ctx 0).cleared with run := .free } with
    x := [], xBad := [], tiles := [], tileBad := [],
    acc := c.acc.filter fun e => !rows.contains (e.1 / 128),
    accBad := c.accBad.filter fun e => !rows.contains (e.1 / 128), accRows := [],
    sys := (terase (terase (terase c.sys 0x018 0x019) 0x020 0x028) 0x031 0x033) }

/-- The clear sequence ends (R39): the control context is free; arrivals and supersteps that waited for it go on. -/
def State.clearEnd (s : State) (core : Nat) : State :=
  let s := (s.pairCores core).foldl (fun s c => s.setCore c { (s.core c).clearTask with clearing := false, pair := false }) s
  ((List.range 4).foldl (fun s l => s.barCheck l (domOf core l)) s).endSteps

/-- CLEAR_SEQUENCE_END (R39). -/
def execClearSequenceEnd (core : Nat) (s : State) : Host.Outcome State Fault Refusal :=
  s.event (s.core core).clearing (s.clearEnd core)

/-- The sum-product engine completes what it holds (R214). -/
def State.speDrain (s : State) (core : Nat) : State :=
  let cur := s.cur
  let t := (s.core core).spe.foldl (fun s p => (s.at core p.ctx).speFlags p) s
  { t.setCore core { t.core core with spe := [] } with cur := cur }

/-- A task's control context has executed EXIT and its helpers are gone (R39). -/
def State.retire (s : State) (core : Nat) : State :=
  let p := if (s.core core).taskOn then (s.core core).share.head? else none
  let s := s.endVirtual core 0
  let s := (s.pairCores core).foldl (fun s c =>
    let s := s.speDrain c
    let o := s.core c
    (s.setCore c { o.setCtx 0 { o.ctx 0 with run := .free } with
      clearing := true, taskOn := false, share := if o.taskOn then o.share.drop 1 else o.share }).fwSwitch c 0) s
  match p with
  | some p => (s.pairCores core).foldl (fun s _ => s.instanceDone p) s
  | none => s

/-! ### EXIT (R234) -/

/-- A message or publication of a context that is not done, or owes it a result (R217). -/
def Flight.messageOf (core ctx : Nat) : Flight → Bool
  | .send c k _ _ _ _ | .sendAnswer c k _ _ | .mpub c k _ _ _ => c == core && k == ctx
  | _ => false

/-- What EXIT waits for: its accesses, its log entries, its pending results; that of a task its messages and publications too, so
that its retirement releases every access of it (R234, R295). -/
def State.exitWaits (s : State) : Bool :=
  (s.flight.any fun f => f.ofCtx s.cur.core s.cur.ctx) || (s.me.slog.any fun e => e.ctx == s.cur.ctx)
    || (s.me.egu.any fun e => e.ctx == s.cur.ctx)
    || (!s.reflex && (s.flight ++ s.pubs).any (·.messageOf s.cur.core s.cur.ctx))

/-- The release of a bank ends (R318): a pending trigger, or entries left in its ring, begin the next one. -/
def State.endRelease (s : State) : State :=
  let core := s.cur.core
  let bank := s.cur.ctx
  let s := s.sent 1
  let s := (s.setMy { s.my with isReleased := false, run := .released }).fwSwitch core bank
  let x := s.my
  let v := s.me.relcfg bank
  let r := s.ring core (bits v 57 4)
  if x.pend then (s.setMy { x with pend := false }).beginRelease core bank x.tpend
  else if v.getLsbD 63 && bits v 61 2 == 1 && r.read != r.tail then s.beginRelease core bank (BitVec.ofNat 64 (s.replica core))
  else s

/-- EXIT (R234): a bank ends its release; a helper is cleared (R40); a control context retires its task (R39). -/
def execExit (g : Reg3) (s : State) : Host.Outcome State Fault Refusal :=
  s.guarded g 1 (
    if s.exitWaits then .error .sleep
    else if s.reflex then .ok s.endRelease
    else if s.cur.ctx ≠ 0 then (let t := (s.speDrain s.cur.core).endVirtual s.cur.core s.cur.ctx; .ok (t.setMy { t.my.cleared with run := .free }))
    else if (List.range 11).any s.me.helperLive then .error .sleep
    else .ok (s.retire s.cur.core))

end Sys2Proof.Machine
end

