-- ==== Sys2Proof/Machine/Engines.lean ====
section
/-! DEFINITION. Copy and tile-walk engines (R282, R303-R306, R353): commands, their checks, rows, held translations, permits,
expansion and completion. Engines of a cluster are named by cluster and channel; cluster 16 names the tile-walk engine of the
core given as channel. -/

namespace Sys2Proof.Machine

/-! ### Commands (R304) -/

/-- Reserved bits of the layout are set, or CHAN on the tile-walk engine (R304). -/
def cmdReserved (v : BitVec 512) (walk : Bool) : Bool :=
  cmdField v 11 4 != 0 || cmdField v 16 48 != 0 || cmdField v 388 4 != 0 || cmdField v 399 1 != 0 || cmdField v 400 16 != 0
    || (walk && cmdField v 8 3 != 0)

/-- Bytes of the tile-walk buffer (R305). -/
def bufferSize : Nat := 98304

/-- An operand of core memory or buffer lies outside it. -/
def extentBad (kind : Nat) (base : Nat) (stride : Int) (bpr rows : Nat) : Bool :=
  let size : Int := if kind = 1 then 0x500000 else bufferSize
  let last : Int := base + (rows - 1 : Nat) * stride
  kind != 0 && (decide (last < 0) || decide (size < base + bpr) || decide (size < last + bpr))

/-- A command's core-memory operands lie in the pushing core's cluster, and DMASK has one bit (R305). -/
def clusterBad (core : Nat) (v : BitVec 512) : Bool :=
  (cmdCores v).any (fun c => clusterOf c != clusterOf core) || (cmdDkind v == 1 && (cmdDests v).length != 1)

/-- MOVE and FILL are malformed (R305). -/
def moveBad (walk : Bool) (core : Nat) (v : BitVec 512) : Bool :=
  let bpr := cmdBpr v
  let rows := cmdRows v
  let fill := cmdOp v == 2
  bpr % 16 != 0 || decide (bpr < 16) || decide (65536 < bpr) || decide (rows < 1) || decide (65536 < rows)
    || cmdSstr v % 16 != 0 || cmdDstr v % 16 != 0 || cmdSkind v == 3 || cmdDkind v == 3
    || (fill && (cmdSkind v != 0 || cmdSrc v != 0))
    || (cmdSkind v == 1 && decide (63 < cmdScore v))
    || (!walk && (cmdSkind v == 2 || cmdDkind v == 2 || clusterBad core v))
    || extentBad (cmdDkind v) (cmdDst v) (cmdDstr v) bpr rows
    || (!fill && extentBad (cmdSkind v) (cmdSrc v) (cmdSstr v) bpr rows)

/-- EXPAND is malformed (R353). -/
def expandBad (core : Nat) (v : BitVec 512) : Bool :=
  decide (65536 < xpDict v) || xpSlen v == 0 || cmdField v 352 32 != 0 || cmdFill v != 0 || cmdSkind v != 0
    || decide (1 < cmdDkind v) || cmdField v 392 8 != 0 || clusterBad core v
    || (cmdDkind v == 1 && decide (0x500000 < cmdDst v + xpBound v))

/-- PLAN is malformed (R304, R305). -/
def planBad (v : BitVec 512) : Bool :=
  cmdSrc v % 64 != 0 || decide (cmdRows v < 1) || decide (1024 < cmdRows v) || decide (0x500000 < cmdSrc v + 64 * cmdRows v)

/-- A core that a command names belongs to another function (R305). -/
def State.foreign (s : State) (vf : Nat) (v : BitVec 512) : Bool := (cmdCores v).any fun c => (s.core c).vf != vf

/-- BADCMD (1) or VFREFUSED (2) for one command that moves rows. -/
def State.moveRefusal (s : State) (walk : Bool) (cmd : Command) (v : BitVec 512) : Option (BitVec 8) :=
  if moveBad walk cmd.core v then some 1 else if s.foreign cmd.vf v then some 2 else none

/-- The inner commands of a plan, read from the pushing core's memory (R305). -/
def State.planCommands (s : State) (cmd : Command) : List (BitVec 512) :=
  (List.range (cmdRows cmd.bits)).map fun k => BitVec.ofNat 512 (s.numAt (.core cmd.core (cmdSrc cmd.bits + 64 * k)) 64)

/-- The refusal of an inner command. -/
def State.innerRefusal (s : State) (cmd : Command) (v : BitVec 512) : Option (BitVec 8) :=
  if cmdReserved v true || cmdOp v != 1 || cmdEvt v || cmdTlv v != 0 then some 1 else s.moveRefusal true cmd v

/-- The refusal of a command on any ground but its TLV (R305, R353). -/
def State.refusal (s : State) (walk : Bool) (cmd : Command) : Option (BitVec 8) :=
  let v := cmd.bits
  if cmdReserved v walk then some 1
  else match cmdOp v, walk with
    | 1, _ => s.moveRefusal walk cmd v
    | 2, false => s.moveRefusal false cmd v
    | 3, true => if planBad v then some 1 else (s.planCommands cmd).findSome? (s.innerRefusal cmd)
    | 4, false => if expandBad cmd.core v then some 1 else if s.foreign cmd.vf v then some 2 else none
    | _, _ => some 1

/-! ### Taking a command (R303) -/

/-- An event of a command: it has entered Q0, or waits there in its turn (R25, R303). -/
def State.postCommand (s : State) (cluster chan : Nat) (cmd : Command) (status : Nat) : State × Bool :=
  let e := engineEvent cluster chan status cmd cmd.addr
  let c := s.core cmd.core
  if cmd.posting then (s, !c.q0Held.contains e)
  else
    let t := s.postQ0 cmd.core e
    if (t.core cmd.core).q0Held.contains e then
      let ch := t.chan cluster chan
      (t.setChan cluster chan { ch with queue := { cmd with posting := true } :: ch.queue.drop 1 }, false)
    else (t, true)

/-- The first command of a queue is taken once the PUSH's release is done (R223, R303): one whose TLV does not exceed an earlier
one leaves the queue with its event; another is placed, and checked. -/
def State.takeCommand (s : State) (cluster chan : Nat) : State :=
  let c := s.chan cluster chan
  let walk := decide (16 ≤ cluster)
  match c.queue with
  | [] => s
  | cmd :: rest =>
    if c.taken || !s.quiet cmd.core then s
    else if (match c.lastTlv with
      | some n => decide (cmdTlv cmd.bits ≤ n)
      | none => false) then
      let (t, entered) := s.postCommand cluster chan cmd 1
      if entered then t.setChan cluster chan { t.chan cluster chan with queue := rest } else t
    else
      let r := s.refusal walk cmd
      let plan := if r.isSome then [] else if cmdOp cmd.bits = 3 then s.planCommands cmd else [cmd.bits]
      s.setChan cluster chan { c with taken := true, plan := plan, row := 0, lastTlv := some (cmdTlv cmd.bits),
                                      queue := { cmd with refused := r } :: rest }

/-! ### Translations (R275, R282) -/

/-- The engine as an asker for a command: the pushing core's cluster and LCAP (R275, R279). -/
def State.engineAsker (s : State) (cmd : Command) : Asker :=
  { vf := cmd.vf, cluster := some (clusterOf cmd.core), lcap := ((s.core cmd.core).sysr 0x111).toNat % 16, replica := s.now }

/-- Two entries come from leaves equal in every bit but A and D (R282). -/
def sameLeaf (a b : TlbEntry) : Bool :=
  a.base == b.base && a.log2 == b.log2 && a.frame == b.frame && a.r == b.r && a.w == b.w && a.x == b.x && a.vf == b.vf
    && a.cmask == b.cmask && a.lease == b.lease && a.inv == b.inv

/-- Why an engine does not perform a row now. -/
inductive RowStop where
  /-- it waits: for a renewal walk, or for a page -/
  | wait (page : Option Nat)
  | stop (addr : Nat)
deriving DecidableEq, Repr

/-- A piece at its home, which refuses it while its replica is out of bound (R283). -/
def State.atHome {α : Type} (s : State) (p : Place) (r : α) : Except (RowStop × State) α :=
  if s.homeSkewed p.addr then .error (.wait none, s) else .ok r

/-- The translation of one piece: held and unexpired, or walked for; a held one that has changed stops the engine. A stop leaves the marks
of the walks before it (R285). -/
def State.enginePiece (s : State) (who : Asker) (acc : Acc) (held : List TlbEntry) (va : Nat) :
    Except (RowStop × State) (Place × List TlbEntry × State) :=
  let old := held.find? fun e => decide (e.base ≤ va) && decide (va < e.base + 2 ^ e.log2)
  match old with
  | some e =>
    if e.expiry ≤ s.now then .error (.wait none, s)
    else if e.serves who acc then s.atHome (placeOf (e.frame + (va - e.base))) (placeOf (e.frame + (va - e.base)), held, s)
    else if s.noWalk who then .error (.wait none, s)
    else match s.xlateWalk who acc va with
      | (some n, .place p _, t) =>
        if sameLeaf e n then t.atHome p (p, (held.filter fun o => o != e) ++ [n.copyFor who.lcap], t) else .error (.stop va, t)
      | _ => .error (.stop va, s)
  | none =>
    if s.noWalk who then .error (.wait none, s)
    else match s.xlateSecond who acc va with
    | (some n, .place p _, t) => t.atHome p (p, held ++ [n.copyFor who.lcap], t)
    | (_, .absent, _) => .error (.wait (some (va / 65536 * 65536)), s)
    | _ => .error (.stop va, s)

/-- Every piece of a range, in order. -/
def State.enginePieces (s : State) (who : Asker) (acc : Acc) (held : List TlbEntry) :
    List (Nat × Nat) → Except (RowStop × State) (List (Place × Nat) × List TlbEntry × State)
  | [] => .ok ([], held, s)
  | (va, n) :: t =>
    if 2 ^ 56 < va + n then .error (.stop va, s)
    else do
      let (p, held, s) ← s.enginePiece who acc held va
      let (ps, held, s) ← s.enginePieces who acc held t
      .ok ((p, n) :: ps, held, s)

/-- The pieces of an operand of n bytes at an address, by its kind: the places in every destination's memory for kind 1. -/
def State.operand (s : State) (cluster chan : Nat) (cmd : Command) (acc : Acc) (kind addr n : Nat) (cores : List Nat) :
    Except (RowStop × State) (List (List (Place × Nat)) × State) :=
  match kind with
  | 0 => do
    let (ps, held, t) ← s.enginePieces (s.engineAsker cmd) acc (s.chan cluster chan).held (cuts addr n)
    .ok ([ps], t.setChan cluster chan { t.chan cluster chan with held := held })
  | 1 => .ok (cores.map fun c => [(.core c addr, n)], s)
  | _ => .ok ([[(.tbuf chan addr, n)]], s)

/-- The bytes of a list of pieces, and of each whether it is poisoned (R342). -/
def State.pieceBytes (s : State) (ps : List (Place × Nat)) : List (Byte × Bool) :=
  ps.flatMap fun e => (List.range e.2).map fun k => (s.byteAt (e.1.plus k), s.poisonedAt (e.1.plus k))

/-- Poison that goes with the bytes put at a list of pieces (R342). -/
def State.poisonPieces (s : State) : List (Place × Nat) → List Bool → State
  | [], _ => s
  | (p, n) :: t, bad =>
    ((((bad.take n).zipIdx.filter (·.1)).foldl (fun s e => s.poison (p.plus e.2)) s)).poisonPieces t (bad.drop n)

/-- One copy put down, its poison with it; a lockstep pair's both memories take it (R312). -/
def State.putCopy (s : State) (bs : List (Byte × Bool)) (ps : List (Place × Nat)) : State :=
  let put (s : State) (ps : List (Place × Nat)) : State := (s.putPieces ps (bs.map (·.1))).poisonPieces ps (bs.map (·.2))
  match ps with
  | [(.core c o, n)] => (s.pairCores c).foldl (fun s k => put s [(.core k o, n)]) s
  | _ => put s ps

/-- The first poisoned byte of a list of pieces, if any: its distance from their start, its place, and STORE of it (R335). -/
def State.firstPoison (s : State) : List (Place × Nat) → Option (Nat × Place × Nat)
  | [] => none
  | (p, n) :: t => match (List.range n).find? fun k => s.poisonedAt (p.plus k) with
    | some k => some (k, p.plus k, s.storeOf (p.plus k))
    | none => (s.firstPoison t).map fun e => (n + e.1, e.2)

/-- The record of poison that an engine has moved or met in the operand at an address, if there is any (R270, R342, R345). -/
def State.engineRecord (s : State) (cluster chan : Nat) (cmd : Command) (va : Nat) (hit : Option (Nat × Place × Nat)) : State :=
  match hit with
  | none => s
  | some (k, p, store) =>
    s.report { cls := if store = 5 then 0x04 else 0x02, sev := 1, core := some cmd.core, vf := some cmd.vf,
               engid := if cluster < 16 then 5 * 4096 + cluster * 8 + chan else 6 * 4096 + chan,
               addr := BitVec.ofNat 64 (va + k), paddr := if store = 4 ∨ store = 5 then BitVec.ofNat 64 p.addr else 0 }

/-! ### Rows (R305, R306) -/

/-- A row's source bytes, with their poison. -/
def State.rowSource (s : State) (cluster chan : Nat) (cmd : Command) (v : BitVec 512) (r : Nat) :
    Except (RowStop × State) (List (Byte × Bool) × List (Place × Nat) × State) :=
  if cmdOp v = 2 then
    .ok ((List.range (cmdBpr v)).map fun k => ((BitVec.ofNat 32 (cmdFill v)).extractLsb' (8 * (k % 4)) 8, false), [], s)
  else do
    let (ps, s) ← s.operand cluster chan cmd .load (cmdSkind v) (engineRow (cmdSrc v) (cmdSstr v) r) (cmdBpr v) [cmdScore v]
    let l := ps.headD []
    .ok (s.pieceBytes l, l, s)

/-- Row r of a command: copied to every destination, or the stop (R305). -/
def State.moveRow (s : State) (cluster chan : Nat) (cmd : Command) (v : BitVec 512) (r : Nat) : Except (RowStop × State) State := do
  let (bs, from_, s) ← s.rowSource cluster chan cmd v r
  let hit := s.firstPoison from_
  if cmdSkind v = 2 ∧ hit.isSome then .error (.stop (engineRow (cmdSrc v) (cmdSstr v) r), s)
  else do
    let (ds, s) ← s.operand cluster chan cmd .store (cmdDkind v) (engineRow (cmdDst v) (cmdDstr v) r) (cmdBpr v) (cmdDests v)
    let s := ds.foldl (fun s ps => s.putCopy bs ps) s
    .ok (s.engineRecord cluster chan cmd (engineRow (cmdSrc v) (cmdSstr v) r) hit)

/-- The engine waits for a page or a permit, or stops, at its command (R224, R282, R286). -/
def State.rowStopped (s : State) (cluster chan : Nat) (cmd : Command) (v : BitVec 512) : RowStop → State
  | .wait none => s
  | .wait (some page) =>
    (s.setChan cluster chan { s.chan cluster chan with stop := .waiting (some page) }).postFault cmd.core cmd.vf page 4
      (engineSrc cluster chan)
  | .stop addr =>
    let s := s.stopEngine cluster chan cmd (BitVec.ofNat 64 addr)
    if cmdSkind v = 2 then s.engineRecord cluster chan cmd addr (s.firstPoison [(.tbuf chan addr, cmdBpr v)]) else s

/-- The next row of the command in progress (R305): rows ascend; a missing permit makes the engine wait (R306). -/
def State.stepRow (s : State) (cluster chan : Nat) : State :=
  let c := s.chan cluster chan
  match c.queue, c.plan with
  | cmd :: _, v :: rest =>
    if !c.taken || c.stop != .going then s
    else if !s.permitted cmd v then s.setChan cluster chan { c with stop := .waiting none }
    else match s.moveRow cluster chan cmd v c.row with
      | .error (e, t) => t.rowStopped cluster chan cmd v e
      | .ok t =>
        let c := t.chan cluster chan
        t.setChan cluster chan (if c.row + 1 < cmdRows v then { c with row := c.row + 1 } else { c with row := 0, plan := rest })
  | _, _ => s

/-- The command at the head of a queue has one of these OPs. -/
def Channel.headIs (c : Channel) (ops : List Nat) : Bool :=
  match c.queue with
  | cmd :: _ => ops.contains (cmdOp cmd.bits)
  | [] => false

/-- MOVE (R305): the command is taken where it is not yet, or its next row moves; an inner MOVE of a plan moves here too. -/
def execMove (cluster chan : Nat) (s : State) : Host.Outcome State Fault Refusal :=
  let c := s.chan cluster chan
  .next (if !c.taken then (if c.headIs [1] then s.takeCommand cluster chan else s)
    else if c.headIs [1, 3] then s.stepRow cluster chan else s)

/-- FILL (R305): the command is taken where it is not yet, or its next row is filled. -/
def execFill (cluster chan : Nat) (s : State) : Host.Outcome State Fault Refusal :=
  let c := s.chan cluster chan
  .next (if !c.headIs [2] then s else if c.taken then s.stepRow cluster chan else s.takeCommand cluster chan)

/-- PLAN (R305): the plan is read and checked whole; its rows move by MOVE. -/
def execPlan (core : Nat) (s : State) : Host.Outcome State Fault Refusal :=
  s.event ((s.chan 16 core).headIs [3] && !(s.chan 16 core).taken) (s.takeCommand 16 core)

/-! ### Expansion (R352, R353) -/

/-- What expanding a token stream gives: the output in order, and the offset of the token found malformed. -/
structure Expansion where
  out : List Byte
  bad : Option Nat
deriving DecidableEq, Repr

/-- Appending n bytes of the output from a distance back, byte by byte. -/
def matchBack (out : List Byte) (dist : Nat) : Nat → List Byte
  | 0 => out
  | n + 1 => matchBack (out ++ [out.getD (out.length - dist) 0]) dist n

/-- One token at the head of a stream (R352): its output appended and its length, or none where it is malformed. -/
def token (dict : List Byte) (out : List Byte) : List Byte → Option (List Byte × Nat)
  | [] => none
  | t :: rest =>
    let b := t.toNat
    if b < 128 then
      if rest.length < b + 1 then none else some (out ++ rest.take (b + 1), b + 2)
    else if rest.length < 2 then none
    else
      let len := b % 64 + 3
      let w := leNat (rest.take 2)
      if b / 64 % 2 = 1 then
        if dict.length < w + len then none else some (out ++ (dict.drop w).take len, 3)
      else if out.length < w + 1 then none
      else some (matchBack out (w + 1) len, 3)

/-- Tokens from a stream offset on, by at most fuel of them (R352). -/
def expandFrom (dict : List Byte) (bound : Nat) : Nat → List Byte → Nat → List Byte → Expansion
  | 0, _, _, out => ⟨out, none⟩
  | n + 1, stream, off, out =>
    if stream.isEmpty then ⟨out, none⟩
    else match token dict out stream with
      | none => ⟨out, some off⟩
      | some (out', len) =>
        if bound < out'.length then ⟨out, some off⟩ else expandFrom dict bound n (stream.drop len) (off + len) out'

/-- The expansion of a stored section: dictionary, then token stream. -/
def expandBytes (bytes : List Byte) (dict bound : Nat) : Expansion :=
  let stream := bytes.drop dict
  expandFrom (bytes.take dict) bound stream.length stream 0 []

/-- The output of EXPAND with zeros up to its bound; after a malformed token, what was written before it. -/
def Expansion.written (x : Expansion) (bound : Nat) : List Byte :=
  if x.bad.isSome then x.out else x.out ++ List.replicate (bound - x.out.length) 0

/-- EXPAND performed (R353). -/
def State.expandAll (s : State) (cluster chan : Nat) (cmd : Command) : Except (RowStop × State) State := do
  let v := cmd.bits
  let (ps, s) ← s.operand cluster chan cmd .load 0 (cmdSrc v) (xpDict v + xpSlen v) []
  let src := ps.headD []
  let bs := s.pieceBytes src
  let x := expandBytes (bs.map (·.1)) (xpDict v) (xpBound v)
  let out := x.written (xpBound v)
  let hit := s.firstPoison src
  let bad := hit.isSome
  let (ds, s) ← s.operand cluster chan cmd .store (cmdDkind v) (cmdDst v) out.length (cmdDests v)
  let s := ds.foldl (fun s ps => s.putCopy (out.map fun b => (b, bad)) ps) s
  let s := s.engineRecord cluster chan cmd (cmdSrc v) hit
  let c := s.chan cluster chan
  let cmd := match x.bad with
    | some off => { cmd with refused := some 1, addr := BitVec.ofNat 64 (cmdSrc v + xpDict v + off) }
    | none => cmd
  .ok (s.setChan cluster chan { c with plan := [], queue := cmd :: c.queue.drop 1 })

/-- EXPAND (R353): the command is taken where it is not yet, or performed. -/
def execExpand (cluster chan : Nat) (s : State) : Host.Outcome State Fault Refusal :=
  let c := s.chan cluster chan
  .next (if !c.headIs [4] then s
    else if !c.taken then s.takeCommand cluster chan
    else match c.queue with
      | cmd :: _ =>
        if c.plan.isEmpty || c.stop != .going then s
        else if !s.permitted cmd cmd.bits then s.setChan cluster chan { c with stop := .waiting none }
        else match s.expandAll cluster chan cmd with
          | .error (e, t) => t.rowStopped cluster chan cmd cmd.bits e
          | .ok t => t
      | [] => s)

/-! ### Completion, renewal, permits -/

/-- The cores that see a timeline of an engine (R224). -/
def timelineCores (cluster chan : Nat) : List Nat := if cluster < 16 then clusterCores cluster else [chan]

/-- A command completes (R262, R303): its event has entered Q0, and the counter is set to its TLV. -/
def State.completeCommand (s : State) (cluster chan : Nat) : State :=
  let c := s.chan cluster chan
  match c.queue with
  | [] => s
  | cmd :: rest =>
    if !c.taken || !c.plan.isEmpty then s
    else
      let status := (cmd.refused.map BitVec.toNat).getD 0
      let (t, entered) := if status != 0 || cmdEvt cmd.bits then s.postCommand cluster chan cmd status else (s, true)
      if !entered then t
      else
        (timelineCores cluster chan).foldl (fun t k => t.wake k)
          (t.setChan cluster chan { t.chan cluster chan with
            queue := rest, counter := cmdTlv cmd.bits, taken := false, plan := [], row := 0, held := [] })

/-- ENGINE_COMMAND_COMPLETE (R303); a command not yet taken, with an OP that no engine takes, is taken here. -/
def execEngineCommandComplete (cluster chan : Nat) (s : State) : Host.Outcome State Fault Refusal :=
  .next (if (s.chan cluster chan).taken then s.completeCommand cluster chan else s.takeCommand cluster chan)

/-- A held translation is due for renewal (R282). -/
def TlbEntry.due (e : TlbEntry) (t : Nat) : Bool := decide (e.expiry < t + 2 ^ (e.lease + 10) / 4)

/-- One held translation walked again: a new fill, which sets A, or none where the leaf has changed (R282, R285). -/
def State.renewHeld (s : State) (e : TlbEntry) (lcap : Nat) : Option (TlbEntry × State) :=
  match s.walk e.vf e.base with
  | .leaf l =>
    let n := l.entry .load e.base s.now
    if sameLeaf e n then some (n.copyFor lcap, s.markLeaf l .load) else none
  | _ => none

/-- Held translations walked again where they are due, in order; the first that has changed, with the marks of the walks before it. -/
def State.renewAll (s : State) (lcap : Nat) : List TlbEntry → Except (TlbEntry × State) (List TlbEntry × State)
  | [] => .ok ([], s)
  | e :: t => do
    let (n, s) ← if e.due s.now then (match s.renewHeld e lcap with
      | some r => .ok r
      | none => .error (e, s)) else .ok (e, s)
    let (ns, s) ← s.renewAll lcap t
    .ok (n :: ns, s)

/-- Held translations due are walked again; a changed leaf stops the engine at the command (R282). No walk is made while the
walker's replica is out of bound (R283). -/
def execLeaseRenewalWalk (cluster chan : Nat) (s : State) : Host.Outcome State Fault Refusal :=
  let c := s.chan cluster chan
  .next (match c.queue with
    | cmd :: _ =>
      let stopped := match c.stop with
        | .stopped _ => true
        | _ => false
      if stopped || s.noWalk (s.engineAsker cmd) then s
      else match s.renewAll (s.engineAsker cmd).lcap c.held with
        | .error (e, t) => t.stopEngine cluster chan cmd (BitVec.ofNat 64 e.base)
        | .ok (held, t) => t.setChan cluster chan { c with held := held }
    | [] => s)

/-- A core enters its exchange phase: engines that waited for its permit go on (R306). -/
def execPermitResume (core : Nat) (s : State) : Host.Outcome State Fault Refusal :=
  .next (((List.range 16).flatMap clusterEngines).foldl (fun s e =>
    let c := s.chan e.1 e.2
    match c.queue, c.plan, c.stop with
    | cmd :: _, v :: _, .waiting none =>
      if (cmdCores v).contains core && s.permitted cmd v then s.setChan e.1 e.2 { c with stop := .going } else s
    | _, _, _ => s) s)

end Sys2Proof.Machine
end

