-- ==== Sys2Proof/Machine/Preempt.lean ====
section
/-! DEFINITION. Forced pre-emption of a domain (R309-R311), and the scrub of a core that passes to another function (R41). -/

namespace Sys2Proof.Machine

/-! ### Stopping a domain (R309, steps 1 and 2) -/

/-- The task that a core runs. -/
def CoreSt.running (c : CoreSt) : Option Placed := if c.taskOn then c.share.head? else none

/-- Bytes of a pre-emption save area (R309). -/
def saveBytes (v : BitVec 1024) : Nat := 229376 + 64 * recField v 800 18

/-- Every context stops at its next boundary: held instructions and pending geometry results are discarded (R309). -/
def CoreSt.stopForSave (c : CoreSt) : CoreSt := { c.dropHeld with preempting := true, egu := [] }

/-- A pre-emption of this domain is in progress or saved. -/
def State.preemptOf (s : State) (d : Nat × Nat) : Option Preempt := s.preempts.find? fun p => p.save && p.lvl == d.1 && p.dom == d.2

/-- A domain that is stopped for a container set (R374). -/
def State.capturing (s : State) (d : Nat × Nat) : Bool := s.preempts.any fun p => !p.save && overlapDom d (p.lvl, p.dom)

/-- A domain may be pre-empted: a superstep is in progress, and no running task has SAVE = 0 (R309). -/
def State.preemptible (s : State) (d : Nat × Nat) : Bool :=
  s.supersteps.contains d && (s.preemptOf d).isNone
    && (domCores d.1 d.2).all fun c => match (s.core c).running with
      | some p => recSave p.bits != 0
      | none => true

/-- No seizure, clear sequence or capture of its cores is under way: those end first (R39, R311, R374). -/
def State.stoppable (s : State) (d : Nat × Nat) : Bool :=
  !s.capturing d && (domCores d.1 d.2).all fun c => (s.core c).seizPhase == .idle && !(s.core c).clearing

/-- Steps 1 and 2 (R309): the domain's contexts stop. An announced SC operation that has not been sent leaves S; a sent one completes
(R258). -/
def State.beginPreempt (s : State) (d : Nat × Nat) (save : Bool) : State :=
  let cs := domCores d.1 d.2
  cs.foldl (fun (s : State) c => (s.setCore c (s.core c).stopForSave).dropSc c fun _ => true)
    { s with preempts := s.preempts ++ [{ lvl := d.1, dom := d.2, phase := 1, save := save }],
             preemptAsked := if save then s.preemptAsked.erase d else s.preemptAsked }

/-- FORCED_PREEMPTION (R309): at once, or once the seizure that is under way has restored (R311). -/
def execForcedPreemption (lvl dom : Nat) (s : State) : Host.Outcome State Fault Refusal :=
  let d := (lvl, dom)
  s.event (s.preemptible d)
    (if s.stoppable d then s.beginPreempt d true
    else { s with preemptAsked := s.preemptAsked.erase d ++ [d] })

/-- A pre-emption that was asked for is tried again; it is moot once the superstep is over (R309, R311). -/
def State.retryPreempt (s : State) (d : Nat × Nat) : State :=
  if !s.preemptible d then { s with preemptAsked := s.preemptAsked.erase d }
  else if s.stoppable d then s.beginPreempt d true
  else s

/-! ### Draining and saving (steps 3 to 5) -/

/-- Something that a context of the core sent or issued is still on its way. -/
def Flight.fromCore (core : Nat) : Flight → Bool
  | .mem c _ _ _ _ _ _ _ | .remote c _ _ _ _ | .amof c _ _ _ _ _ _ _ _ _ | .bararv c _ _ _ | .bar c _ _ _ | .send c _ _ _ _ _
  | .sendAnswer c _ _ _ | .mpub c _ _ _ _ | .mread c _ _ _ _ _ | .mreadDone c _ _ _ _ _ | .pcieRead c _ _ _ _ _ _ _ _
  | .start c _ _ => c == core
  | .seizure _ z => z.core == core
  | .result _ _ _ _ _ _ _ _ => false

/-- The core's log is empty, and what its contexts sent is performed: SC operations that were sent, too (R134, R258). -/
def State.drained (s : State) (core : Nat) : Bool :=
  (s.core core).slog.isEmpty && !s.sc.any (fun o => o.core == core) && !(s.flight.any (Flight.fromCore core)) && !(s.pubs.any (Flight.fromCore core))

/-- A pre-emption's phase replaced. -/
def State.setPreempt (s : State) (p : Preempt) : State :=
  { s with preempts := s.preempts.map fun o => if o.save ∧ o.lvl = p.lvl ∧ o.dom = p.dom then p else o }

/-- PREEMPT_LOG_DRAINED (R309): every core of the domain is drained, and its sum-product instructions complete (R214). -/
def execPreemptLogDrained (lvl dom : Nat) (s : State) : Host.Outcome State Fault Refusal :=
  match s.preemptOf (lvl, dom) with
  | some p => s.event (p.phase == 1 && (domCores lvl dom).all s.drained) ((domCores lvl dom).foldl State.speDrain (s.setPreempt { p with phase := 2 }))
  | none => .next s

/-- Per-core registers of the save (R309): TASKID, DOMLVL, the tiling, SPCTL, the shapes, CKPTBASE and CKPTLAP. -/
def savedRegs : List Nat := [0x001, 0x003, 0x005, 0x006, 0x007, 0x018, 0x020, 0x021, 0x022, 0x023, 0x024, 0x025, 0x026, 0x027, 0x031, 0x032]

/-- What is saved of a core: its contexts at their restart points, and the per-core state (R309). -/
def State.saveCore (s : State) (core : Nat) : SavedCore :=
  let t := ((s.core core).live core).foldl (fun s k => (s.at core k).restorePoint) s
  let c := t.core core
  let v := ((c.running).map (·.bits)).getD 0
  let lo := 64 * recField v 768 17
  let n := 64 * recField v 800 18
  { core := core, ctxs := c.ctxs, sys := savedRegs.map fun r => (r, c.sysr r), tiles := c.tiles, acc := c.acc,
    accRows := c.accRows, x := c.x, tileBad := c.tileBad, accBad := c.accBad, xBad := c.xBad, arr := c.arr, done := c.done, owed := c.owed, xph := c.xph, lbase := lo,
    mem := s.bytesAt (.core core lo) n,
    memBad := c.memBad.filter fun e => decide (lo ≤ 8 * e.1) && decide (8 * e.1 < lo + n),
    share := c.share, taskOn := c.taskOn, pair := c.pair }

/-- The save area takes the save; its layout is not architectural (R309, log 13). An absent page is recorded and waited for (R286), and a
walker's or home's replica out of bound too (R283): the state meanwhile. -/
def State.writeSave (s : State) (p : Placed) (core : Nat) : Except State State :=
  let n := saveBytes p.bits
  let who : Asker := { vf := p.vf, cluster := some (clusterOf core), lcap := 15, replica := s.now }
  match s.locate who .store [] (cuts (recSave p.bits) n) with
  | .ok (ps, t) =>
    .ok { t.putPieces ps ((List.range n).map (Config.preemptSaveByte t.fresh)) with fresh := t.fresh + 1 }
  | .error (.absent page, t) => .error (t.postFault core p.vf page 1 0)
  | .error (.wait, t) => .error t
  | .error (_, t) => .ok t

/-- The saves of the running tasks written, core by core, up to the first that waits. -/
def State.writeSaves (s : State) : List Nat → Except State State
  | [] => .ok s
  | c :: t => match (s.core c).running with
    | none => s.writeSaves t
    | some p => do
      let s ← s.writeSave p c
      s.writeSaves t

/-- A context with the capabilities of another: they are the monitor's, and no save holds them (R38, R309). -/
def Ctx.withCaps (x y : Ctx) : Ctx :=
  let caps := y.sys.filter fun e => decide (0x120 ≤ e.1) && decide (e.1 < 0x130)
  { x with sys := caps.foldl (fun t e => tset 0 t e.1 e.2) x.noCaps.sys }

/-- The core after its save: the clear sequencer runs, and nothing of the task is left but the capabilities (R38, R39, R309). -/
def CoreSt.vacate (c : CoreSt) : CoreSt :=
  { c.clearTask with ctxs := c.clearTask.ctxs.map fun e => (e.1, if e.1 = 0 then e.2 else ({} : Ctx).withCaps e.2), clearing := true, preempting := false, taskOn := false,
                     share := [], inStep := none, arr := [], done := [], owed := [], xph := false }

/-- Barriers of a domain and of the domains inside it. -/
def barriersIn (d : Nat × Nat) (key : Nat) : Bool :=
  let l := key / 64
  decide (l ≤ d.1) && (domCores l (key % 64)).all fun c => domOf c d.1 == d.2

/-- The save is done (R309, steps 4 and 5). -/
def State.finishSave (s : State) (p : Preempt) : State :=
  let d := (p.lvl, p.dom)
  let cs := domCores p.lvl p.dom
  let saved := cs.map s.saveCore
  match s.writeSaves cs with
  | .error t => t
  | .ok t =>
    let t := t.setPreempt { p with phase := 3, cores := saved, arrivals := s.arrivals.filter fun e => barriersIn d e.1 }
    let t := cs.foldl (fun (t : State) c => (t.setCore c (t.core c).vacate).fwIdle c) t
    { t with supersteps := t.supersteps.erase d, arrivals := t.arrivals.filter fun e => !barriersIn d e.1 }

/-- PREEMPT_SAVE_DONE (R309); a seizure that is under way pauses the save (R311). -/
def execPreemptSaveDone (lvl dom : Nat) (s : State) : Host.Outcome State Fault Refusal :=
  match s.preemptOf (lvl, dom) with
  | some p =>
    s.event (p.phase == 2 && (domCores lvl dom).all fun c => (s.core c).seizPhase == .idle) (s.finishSave p)
  | none => .next s

/-! ### Resumption (R310) -/

/-- Core memory after a pre-emption: the resident range as saved, the rest not preserved (R309, log 13). -/
def CoreSt.restoreMem (c : CoreSt) (k : SavedCore) (fresh : Nat) : CoreSt :=
  let mem := tfill 0 [] 0 (memSize k.core) (Config.lostByte fresh)
  let hi := k.lbase + k.mem.length
  { c with mem := tfill 0 mem k.lbase k.mem.length fun i => k.mem.getD i 0,
           memBad := (c.memBad.filter fun e => decide (8 * e.1 < k.lbase) || decide (hi ≤ 8 * e.1)).foldl
             (fun t e => tset 0 t e.1 e.2) k.memBad }

/-- A core from its save. -/
def State.loadCore (s : State) (d : Nat × Nat) (k : SavedCore) : State :=
  let c := s.core k.core
  let c := k.sys.foldl (fun c e => c.setSysr e.1 e.2) c
  let c := if k.taskOn then c.restoreMem k s.fresh else c
  { s.setCore k.core { c with
      ctxs := k.ctxs.map fun e => (e.1, e.2.withCaps (c.ctx e.1)), tiles := k.tiles, tileBad := k.tileBad, acc := k.acc, accRows := k.accRows, accBad := k.accBad, x := k.x,
      xBad := k.xBad,
      arr := k.arr, done := k.done, owed := k.owed, xph := k.xph, share := k.share, taskOn := k.taskOn, pair := k.pair,
      inStep := some d } with fresh := s.fresh + 1 }

/-- Contexts of a core whose restart point is marked "checkpoint" are first reloaded from the checkpoint area (R236). -/
def State.reloadCkpts (s : State) (core : Nat) : State :=
  let cur := s.cur
  let t := ((s.core core).live core).foldl (fun (s : State) k =>
    if (s.ctxAt core k).restart.ckpt then (s.at core k).ckptReload else s) s
  { t with cur := cur }

/-- PREEMPTED_TASK_RESUME (R310): in a superstep of the same domain, once it is idle. -/
def execPreemptedTaskResume (lvl dom : Nat) (s : State) : Host.Outcome State Fault Refusal :=
  let d := (lvl, dom)
  match s.preemptOf d with
  | some p =>
    let t := p.cores.foldl (fun t k => (t.loadCore d k).reloadCkpts k.core)
      { s with preempts := s.preempts.erase p, supersteps := s.supersteps ++ [d],
               arrivals := p.arrivals.foldl (fun t e => tset 0 t e.1 e.2) s.arrivals }
    s.event (decide (3 ≤ p.phase) && (domCores lvl dom).all s.coreFree && !s.supersteps.any (overlapDom d)) t
  | none => .next s

/-! ### The scrub (R41) -/

/-- The scrub of a core: memory, stores and every context's registers zeroed, capabilities cleared, queues emptied, generator
reseeded (R41, R57, R220); shapes, SPCTL and the checkpoint registers are as the next task must find them (R38). R41 does not
list RELCFG0-RELCFG3: that they read zero after the scrub, so that no bank of the next function stays configured, is the model's
choice (log 81). -/
def CoreSt.scrub (c : CoreSt) : CoreSt :=
  { c with
    ctxs := c.ctxs.map fun e => (e.1, ({} : Ctx).setSysr 0x100 0),
    sys := terase (terase (terase (terase (terase c.sys 0x018 0x019) 0x020 0x028) 0x031 0x033) 0x140 0x148) 0x190 0x194,
    mem := [], memBad := [], acc := [], accRows := [], accBad := [], tiles := [], tileBad := [], x := [], xBad := [],
    q0 := [], q0Held := [], q1 := [], q2 := [], q3 := [], q3Ovf := false, arr := [], done := [], owed := [], xph := false,
    egu := [], spe := [], reseeds := c.reseeds + 1, draws := 0, scrubbing := false, clearing := false, pair := false,
    share := [], taskOn := false, inStep := none }

/-- The function that a core is assigned to; 4 where there is none (R372). -/
def State.ownerOf (s : State) (core : Nat) : Nat :=
  ((List.range 5).find? fun v =>
    if core < 64 then (tget 0 s.assign v).getLsbD core else (tget 0 s.rassign v).getLsbD (core - 64)).getD 4

/-- A core that changes its function is scrubbed once its share has retired (R41, R372). -/
def State.mayScrub (s : State) (core : Nat) : Bool :=
  s.leaving.any (fun e => e.1 == core) && (s.core core).idleShare && (s.core core).inStep.isNone
    && (s.core core).seizPhase == .idle && (s.core core).seiz.isEmpty && s.drained core
    && !s.resets.any fun r => r.vf == (s.core core).vf

/-- SCRUB_END (R41, R372): the core carries its new tag from then on. -/
def execScrubEnd (core : Nat) (s : State) : Host.Outcome State Fault Refusal :=
  s.event (s.mayScrub core)
    ({ s.setCore core ((s.core core).scrub.setSysr 0x002 (BitVec.ofNat 64 (s.ownerOf core))) with
      leaving := s.leaving.filter fun e => e.1 != core }.fwIdle core)

end Sys2Proof.Machine
end

