-- ==== Sys2Proof/Machine/Reset.lean ====
section
/-! DEFINITION. Assignment of cores (R372), function-level reset (R331, R347, R348), freeze (R383) and device reset (R384). -/

namespace Sys2Proof.Machine

/-! ### Assignment (R372) -/

/-- A core is in the assignment register of a function. -/
def State.assignedTo (s : State) (reflex : Bool) (v : Nat) : Word := if reflex then tget 0 s.rassign v else tget 0 s.assign v

/-- An assignment word leaves some core in two functions. -/
def State.overlaps (s : State) (reflex : Bool) (v : Nat) (x : Word) : Bool :=
  (List.range 5).any fun u => u != v && (s.assignedTo reflex u &&& x) != 0

/-- Cores whose assignment a write changes. -/
def changedCores (reflex : Bool) (old new : Word) : List Nat :=
  ((List.range (if reflex then 32 else 64)).filter fun n => (old ^^^ new).getLsbD n).map fun n => if reflex then 64 + n else n

/-- A write of ASSIGN or RASSIGN (R372): ignored where it overlaps, kept until the end of a reset of its function, and else
applied; each core concerned passes through the scrub. -/
def State.writeAssign (s : State) (reflex : Bool) (v : Nat) (x : Word) : State :=
  let x := if reflex then x &&& 0xFFFFFFFF else x
  if 4 < v ∨ s.overlaps reflex v x then s
  else if s.closedTo v then { s with assignWait := s.assignWait ++ [(v, reflex, x)] }
  else
    let moved := changedCores reflex (s.assignedTo reflex v) x
    let leaving := moved.foldl (fun t c => tput t c v) s.leaving
    if reflex then { s with rassign := tset 0 s.rassign v x, leaving := leaving }
    else { s with assign := tset 0 s.assign v x, leaving := leaving }

/-- ASSIGN (R372). -/
def execAssignWrite (v : Nat) (x : Word) (s : State) : Host.Outcome State Fault Refusal := .next (s.writeAssign false v x)

/-- RASSIGN (R372). -/
def execRassignWrite (v : Nat) (x : Word) (s : State) : Host.Outcome State Fault Refusal := .next (s.writeAssign true v x)

/-! ### Function-level reset (R347) -/

/-- Cores that carry a function's tag. -/
def State.coresOf (s : State) (v : Nat) : List Nat := (List.range 96).filter fun c => (s.core c).vf == v

/-- L of every valid leaf under the entry at pa, which stands at a level (R273, R274): entries that are not zero are listed in memory. -/
def State.leasesUnder (s : State) : Nat → Nat → List Nat
  | level, pa =>
    let w0 := s.dramWord pa
    if !w0.getLsbD 0 then []
    else if w0.getLsbD 1 then [bits w0 12 4]
    else match level with
      | 0 => []
      | l + 1 =>
        let base := bits w0 14 34 * 16384
        (s.dram.filter fun e => decide (base ≤ e.1) && decide (e.1 < base + 16384) && e.1 % 16 == 0).flatMap fun e => s.leasesUnder l e.1

/-- Lmax of a function (R347, R422): the largest L of its leaves, which the monitor has written and knows; 15 where it has none (log
102). -/
def State.lmaxOf (s : State) (v : Nat) : Nat := (s.leasesUnder 4 (rootOf v)).max?.getD 15

/-- Step 1 (R347): launches and ready tasks of v are discarded; root entry v has V = 0; c is read. -/
def State.closeFunction (s : State) (v : Nat) : State :=
  let p := Place.dram (rootOf v)
  let lmax := s.lmaxOf v
  let s := s.setBytes p (leBytes 8 (setBit (s.dramWord (rootOf v)) 0 false).toNat)
  { s with launches := s.launches.filter fun l => l.vf != v, pool := s.pool.filter fun t => t.vf != v,
           resets := s.resets ++ [{ vf := v, stage := 2, c := s.now, lmax := lmax }] }

/-- Step 2 (R347): the contexts of a core stop, with what they held discarded; banks are disabled. -/
def CoreSt.stopForReset (c : CoreSt) : CoreSt :=
  { c.dropHeld with
    scrubbing := true, egu := [],
    sys := (List.range 4).foldl (fun t n => tset 0 t (0x190 + n) (setBit (tget 0 t (0x190 + n)) 63 false)) c.sys }

/-- FUNCTION_LEVEL_RESET (R347, R372): steps 1 and 2. Announced SC operations that were not sent are discarded (R261), and the banks,
disabled now, switch their firmware (R376). -/
def State.resetFunction (s : State) (v : Nat) : State :=
  if 4 < v ∨ s.closedTo v then s
  else
    let cs := s.coresOf v
    let s := s.closeFunction v
    cs.foldl (fun (s : State) c => ((s.setCore c (s.core c).stopForReset).dropSc c fun _ => true).fwIdle c) s

/-- FUNCTION_LEVEL_RESET (R347). -/
def execFunctionLevelReset (v : Nat) (s : State) : Host.Outcome State Fault Refusal := .next (s.resetFunction v)

/-- The reset of a function that has reached a stage. -/
def State.resetAt (s : State) (v stage : Nat) : Option Reset := s.resets.find? fun r => r.vf == v && r.stage == stage

def State.setReset (s : State) (r : Reset) : State := { s with resets := s.resets.map fun o => if o.vf = r.vf then r else o }

/-- What becomes of the nth thing in flight, which a core of v sent (R348): sent region-closing instructions are performed,
relaxed stores performed or not, the rest discarded. -/
def State.endFlight (s : State) (n : Nat) (f : Flight) : State :=
  match f with
  | .mem _ _ _ pa e (.store m v) .travelling _ =>
    let t := (s.unfly n).setBytes (placeOf pa) (leBytes m v.toNat)
    if Config.flrPerforms s.fresh && decide (s.now < e) then { t with fresh := s.fresh + 1 }
    else { s.unfly n with fresh := s.fresh + 1 }
  | .mem _ _ _ pa _ (.amo op m v) _ _ =>
    (s.setBytes (placeOf pa) (leBytes m (amoNew op m (s.numAt (placeOf pa) m) v.toNat))).unfly n
  | .remote _ _ t off bs => (s.unfly n).putCore t off bs
  | .amof _ _ t off op m v dc doff _ => (s.unfly n).amofPerform t off op m v.toNat dc doff
  | .bararv _ _ t off => (s.unfly n).arriveCell t off
  | .send _ _ _ _ _ _ => (s.sendArrive n).unfly n
  | .mpub c k _ slot p => (s.refly n (.mpub c k 0 slot p)).publish n
  | _ => s.unfly n

/-- Things that cores sent end one after another; a seizure command sent goes on to its target, and its result to no ring. -/
def State.endFlights (s : State) (mine : Flight → Bool) : Nat → Nat → State
  | 0, _ => s
  | fuel + 1, n =>
    match s.flight[n]? with
    | none => s
    | some f =>
      let kept := match f with
        | .seizure _ _ => true
        | _ => false
      if mine f && !kept then (s.endFlight n f).endFlights mine fuel n else s.endFlights mine fuel (n + 1)

/-- A publication being written ends (R323): its flip gives no register its version. -/
def State.endPublications (s : State) (mine : Flight → Bool) : State :=
  let slots := s.pubs.filterMap fun f => match f with
    | .mpub _ _ _ n _ => if mine f then some n else none
    | _ => none
  let s := { s with pubs := s.pubs.map fun f => match f with
    | .mpub c k _ n p => if mine f then .mpub c k 0 n p else f
    | _ => f }
  slots.foldl State.flip s

/-- Commands of a function leave a timeline; the counter does not advance (R348). -/
def Channel.without (c : Channel) (v : Nat) : Channel :=
  let head := (c.queue.head?.map fun cmd => cmd.vf == v).getD false
  let c := { c with queue := c.queue.filter fun cmd => cmd.vf != v }
  if head then { c with taken := false, plan := [], row := 0, stop := .going, held := [] } else c

/-- Engine commands and fault records of a function end (R348). -/
def State.endService (s : State) (v : Nat) : State :=
  let s := ((List.range 16).flatMap clusterEngines).foldl (fun (s : State) e => s.setChan e.1 e.2 ((s.chan e.1 e.2).without v)) s
  let s := (List.range 16).foldl (fun (s : State) k =>
    s.setCluster k { s.cluster k with faults := (s.cluster k).faults.filter fun f => f.vf != v }) s
  let q : QueueBlock := tget {} s.queues v
  { s with queues := tput s.queues v { q with faultsWaiting := [] } }

/-- Commands still queued at a target that runs no sequence are refused (R331). -/
def State.refuseQueued (s : State) (core : Nat) : State :=
  let c := s.core core
  (s.setCore core { c with seiz := [] }).fly (c.seiz.map fun z => z.refuse core (seizCode 1 5))

/-- Seizure commands that cores of v sent have no ring to answer to from now on (R331, R348). -/
def State.loseResults (s : State) (cs : List Nat) : State :=
  let mark (z : Seizure) : Seizure := if cs.contains z.core then { z with lost := true } else z
  { s with
    flight := s.flight.map fun f => match f with
      | .seizure t z => .seizure t (mark z)
      | .result c k ring tag msg vf n src => .result c k (if cs.contains c then noRing else ring) tag msg vf n src
      | f => f,
    cores := s.cores.map fun e => (e.1, { e.2 with seiz := e.2.seiz.map mark }) }

/-- Step 3 (R347, R348): every request tagged v ends; none of its virtual cores runs any more. -/
def State.drainFunction (s : State) (v : Nat) : State :=
  let cs := s.coresOf v
  let mine (f : Flight) : Bool := cs.any fun c => f.fromCore c
  let gone := cs.foldl (fun (m : BitVec 96) c => m ||| BitVec.ofNat 96 (2 ^ c)) 0
  let s := ((s.endFlights mine s.flight.length 0).endPublications mine).loseResults cs
  let s := cs.foldl (fun (s : State) c => (s.setCore c { s.core c with slog := (s.core c).slog.filter fun e => e.vf != v }).refuseQueued c) s
  let s := s.endService v
  let hit (d : Nat × Nat) : Bool := (domCores d.1 d.2).any cs.contains
  { s with
    sc := s.sc.filter fun o => !cs.contains o.core,
    programs := if (tget [] s.programs v : List YProgram).isEmpty then s.programs
      else tput s.programs v ((tget [] s.programs v : List YProgram).map fun p => { p with live := [] }),
    supersteps := s.supersteps.filter fun d => !hit d,
    preempts := s.preempts.filter fun p => !hit (p.lvl, p.dom),
    arrivals := (s.arrivals.map fun e => (e.1, e.2 &&& ~~~gone)).filter fun e => e.2 != 0 }

/-- A sent SC operation of v's cores is still to complete (R261, R348). -/
def State.scOwed (s : State) (v : Nat) : Bool := s.sc.any fun o => o.sent && (s.coresOf v).contains o.core

/-- FLR_DRAIN_END (R347, R348): once no seizure is in progress on v's cores, and sent SC atomics have completed. -/
def execFlrDrainEnd (v : Nat) (s : State) : Host.Outcome State Fault Refusal :=
  match s.resetAt v 2 with
  | some r => s.event ((s.coresOf v).all fun c => (s.core c).seizPhase == .idle && !s.scOwed v) ((s.drainFunction v).setReset { r with stage := 3 })
  | none => .next s

/-- A slot without the grants of a function (R326): with none left, buffers and PLEN are zeroed; VERS and TFLIP are kept. -/
def Slot.revoke (x : Slot) (v : Nat) : Slot :=
  let mask : Word := ~~~(BitVec.ofNat 64 (2 ^ v + 2 ^ (5 + v)))
  let g := tset 0 x.grant 0 (tget 0 x.grant 0 &&& mask)
  let x := { x with grant := g, inEffect := tset 0 x.inEffect 0 (tget 0 x.inEffect 0 &&& mask) }
  if tget 0 g 0 = 0 then { x with buf0 := [], buf1 := [], buf2 := [], plen := 0, pprev := 0, bad := [] } else x

/-- CAPACC entries of a function cleared (R347). -/
def CoreSt.revoke (c : CoreSt) (v : Nat) : CoreSt :=
  { c with sys := c.sys.filter fun e => !(decide (0x140 ≤ e.1) && decide (e.1 < 0x148) && bits e.2 32 3 == v) }

/-- The scrub in a reset: the core keeps its tag and assignment (R347). -/
def State.scrubFunction (s : State) (v : Nat) : State :=
  let s := (s.coresOf v).foldl (fun (s : State) c => (s.setCore c (s.core c).scrub).fwIdle c) s
  { s with cores := s.cores.map fun e => (e.1, e.2.revoke v), slots := s.slots.map fun e => (e.1, e.2.revoke v) }

/-- FLR_SCRUB_END (R347): steps 4 and 5. -/
def execFlrScrubEnd (v : Nat) (s : State) : Host.Outcome State Fault Refusal :=
  match s.resetAt v 3 with
  | some r => .next ((s.scrubFunction v).setReset { r with stage := 4 })
  | none => .next s

/-- ERR of the three rings is cleared (R370). -/
def QueueBlock.clearErr (q : QueueBlock) : QueueBlock :=
  { q with regs := [0x008, 0x028, 0x048].foldl (fun t r => tset 0 t r (setBit (tget 0 t r) 62 false)) q.regs }

/-- The reset of v ends (R347): the record, and v is open again. -/
def State.endReset (s : State) (v : Nat) : State :=
  let s := s.report { cls := 0x11, sev := 2, vf := some v, engid := 14 * 4096 }
  { s with resets := s.resets.filter fun r => r.vf != v, assignWait := s.assignWait.filter fun w => w.1 != v,
           queues := tput s.queues v (tget {} s.queues v : QueueBlock).clearErr }

/-- FLR_LEASE_WAIT_END (R347): the monitor's replica has reached c + 2^(Lmax + 10) + 64; assignment writes that waited are
applied (R372). -/
def execFlrLeaseWaitEnd (v : Nat) (s : State) : Host.Outcome State Fault Refusal :=
  match s.resetAt v 4 with
  | some r =>
    let waiting := s.assignWait.filter fun w => w.1 == v
    s.event (decide (r.c + 2 ^ (r.lmax + 10) + 64 ≤ s.now))
      (waiting.foldl (fun s w => s.writeAssign w.2.1 w.1 w.2.2) (s.endReset v))
  | none => .next s

/-! ### Freeze (R383) -/

/-- FREEZE (R383): every clock stops. -/
def execFreeze (s : State) : Host.Outcome State Fault Refusal := .next { s with frozen := true }

/-- The debug port, unless it is refused, releases the freeze (R383): host requests held meanwhile complete now. -/
def execFreezeRelease (s : State) : Host.Outcome State Fault Refusal :=
  s.event (s.frozen && s.debugOpen) { s with frozen := false, agenda := s.heldHost ++ s.agenda, heldHost := [] }

/-! ### Device reset (R384) -/

/-- A firmware image is accepted (R375): its LEN is the header's, and no more than 16 MiB stand in a buffer or bank. -/
def imageOk (image : List Byte) : Bool :=
  Config.signatureValid image && decide (Config.fusedMinSvn ≤ Config.imageSvn image)
    && decide (Config.imageLen image ≤ 2 ^ 24) && decide (image.length ≤ 2 ^ 24)

/-- The image of a bank. -/
def State.fwBankImage (s : State) (bank : Bool) : List Byte := if bank then s.fwbank1 else s.fwbank0

/-- The bank that the complex starts from: ACTIVE, or the other one where ACTIVE fails (R384). -/
def State.bootBank (s : State) : Option Bool :=
  let a := s.fwstat.getLsbD 63
  if imageOk (s.fwBankImage a) then some a else if imageOk (s.fwBankImage (!a)) then some (!a) else none

/-- DRAM after L2 is zeroed with its dirty sectors (R384): what stood behind those is not kept (log 103). -/
def State.lostSectors (s : State) : Tab Byte :=
  (s.sectors.filter (·.2)).foldl (fun t e => tfill 0 t (128 * e.1) 128 fun i => Config.lostByte s.fresh (128 * e.1 + i)) s.dram

/-- Device reset (R384): chip time starts at 0; DRAM keeps what L2 did not hold, but for the root table and the log header (log 33);
firmware banks, spares, the debug fuse, the host and the peer are not of this reset. -/
def State.deviceReset (s : State) : State :=
  let b := s.bootBank
  let bank := b.getD (s.fwstat.getLsbD 63)
  let core (n : Nat) : CoreSt := { reseeds := (s.core n).reseeds + 1, fwBank := bank }
  let t : State := { State.reset with
    agenda := s.agenda, elapse := s.elapse, eager := s.eager, fresh := s.fresh + 1, spin := s.spin, issued := s.issued, polled := s.polled,
    dram := s.lostSectors, dramBad := s.dramBad, host := s.host, peer := s.peer, staging := [],
    fwbank0 := s.fwbank0, fwbank1 := s.fwbank1, fwstat := setBit 0 63 bank, booted := b.isSome, debugOpen := s.debugOpen, reads := s.reads,
    drams := s.drams.map fun e => (e.1, { spareRows := e.2.spareRows, spareLane := e.2.spareLane }),
    cores := (List.range 96).map fun n => (n, core n) }
  let t := (List.range 5).foldl (fun (t : State) v =>
    t.setBytes (.dram (rootOf v)) (leBytes 8 (setBit (s.dramWord (rootOf v)) 0 false).toNat)) t
  { t.setBytes (.dram logHeader) (List.replicate 64 0) with sectors := [] }

/-- DEVICE_RESET (R384). -/
def execDeviceReset (s : State) : Host.Outcome State Fault Refusal := .next s.deviceReset

/-- The host enables the virtual functions (R384). -/
def execVfEnable (s : State) : Host.Outcome State Fault Refusal := s.event s.booted { s with vfEnabled := true }

end Sys2Proof.Machine
end

