-- ==== Sys2Proof/Machine/HostPort.lean ====
section
/-! DEFINITION. The host interface (R368-R373): queue blocks, launch, completion and fault queues, registers of BAR0, module DRAM
through BAR2, and the peer's heartbeat (R374). -/

namespace Sys2Proof.Machine

/-! ### Queue blocks (R370) -/

/-- Register offsets of a ring: 0 launch, 1 completion, 2 fault. -/
def ringReg (ring off : Nat) : Nat := 32 * ring + off

def State.block (s : State) (v : Nat) : QueueBlock := tget {} s.queues v

def State.setBlock (s : State) (v : Nat) (q : QueueBlock) : State := { s with queues := tput s.queues v q }

def QueueBlock.get (q : QueueBlock) (off : Nat) : Word := tget 0 q.regs off

def QueueBlock.set (q : QueueBlock) (off : Nat) (x : Word) : QueueBlock := { q with regs := tset 0 q.regs off x }

/-- EN of a ring. -/
def QueueBlock.en (q : QueueBlock) (ring : Nat) : Bool := (q.get (ringReg ring 8)).getLsbD 63

/-- Entries of a ring. -/
def QueueBlock.size (q : QueueBlock) (ring : Nat) : Nat := 2 ^ bits (q.get (ringReg ring 8)) 0 4

/-- Where entry k of a ring lies in host memory, for entries of n bytes. -/
def QueueBlock.entry (q : QueueBlock) (ring k n : Nat) : Nat := (q.get (ringReg ring 0)).toNat + n * (k % q.size ring)

/-- ERR of a ring is set. -/
def QueueBlock.err (q : QueueBlock) (ring : Nat) : QueueBlock := q.set (ringReg ring 8) (setBit (q.get (ringReg ring 8)) 62 true)

/-- A CFG write (R370): while EN is 1, EN = 0 disables the ring and clears ERR, and nothing else of a write counts; a disabled ring
takes SZLOG, and EN where SZLOG is in range. -/
def QueueBlock.writeCfg (q : QueueBlock) (ring : Nat) (x : Word) : QueueBlock :=
  let old := q.get (ringReg ring 8)
  if old.getLsbD 63 then
    (if x.getLsbD 63 then q else q.set (ringReg ring 8) (setBit (setBit old 63 false) 62 false))
  else if !x.getLsbD 63 then q.set (ringReg ring 8) (x &&& 0xF)
  else
    let n := bits x 0 4
    let ok := decide (4 ≤ n) && decide (n ≤ 12)
    q.set (ringReg ring 8) (BitVec.ofNat 64 (n + (if old.getLsbD 62 then 2 ^ 62 else 0) + (if ok then 2 ^ 63 else 0)))

/-- A function's queue block is reachable: the PF's always, a VF's once the VFs are enabled (R384). -/
def State.reachable (s : State) (v : Nat) : Bool := s.booted && (v == 4 || (decide (v < 4) && s.vfEnabled))

/-- A write to a function's queue block. -/
def State.onBlock (s : State) (v : Nat) (f : QueueBlock → QueueBlock) : State :=
  if s.reachable v then s.setBlock v (f (s.block v)) else s

/-- QUEUE_CFG_WRITE (R370). -/
def execQueueCfgWrite (v ring : Nat) (x : Word) (s : State) : Host.Outcome State Fault Refusal :=
  .next (if ring < 3 then s.onBlock v fun q => q.writeCfg ring x else s)

/-- A count written by the host: from lo to hi, else ignored with ERR (R370). -/
def QueueBlock.writeCount (q : QueueBlock) (ring off lo hi : Nat) (n : Word) : QueueBlock :=
  if lo ≤ n.toNat ∧ n.toNat ≤ hi then q.set (ringReg ring off) n else q.err ring

/-- LQTAIL (R370): from LQHEAD to LQHEAD + 2^SZLOG. -/
def execLqtailWrite (v : Nat) (n : Word) (s : State) : Host.Outcome State Fault Refusal :=
  .next (s.onBlock v fun q =>
    let h := (q.get 0x018).toNat
    q.writeCount 0 0x010 h (h + q.size 0) n)

/-- CQHEAD (R370): from CQHEAD to CQTAIL. -/
def execCqheadWrite (v : Nat) (n : Word) (s : State) : Host.Outcome State Fault Refusal :=
  .next (s.onBlock v fun q => q.writeCount 1 0x018 (q.get 0x038).toNat (q.get 0x030).toNat n)

/-- FQHEAD (R370): from FQHEAD to FQTAIL. -/
def execFqheadWrite (v : Nat) (n : Word) (s : State) : Host.Outcome State Fault Refusal :=
  .next (s.onBlock v fun q => q.writeCount 2 0x018 (q.get 0x058).toNat (q.get 0x050).toNat n)

/-- FQANSWER := 1 (R370): the record that FQTOKEN names is answered MAPPED. -/
def execFqanswerMapped (v : Nat) (s : State) : Host.Outcome State Fault Refusal :=
  .next (if s.reachable v then s.answerMapped ((s.block v).get 0x060) else s)

/-- FQANSWER := 2 (R370): the record that FQTOKEN names is answered INVALID. -/
def execFqanswerInvalid (v : Nat) (s : State) : Host.Outcome State Fault Refusal :=
  .next (if s.reachable v then s.answerInvalid ((s.block v).get 0x060) else s)

/-! ### The device's side of the rings (R370, R373) -/

/-- HOST_LAUNCH_ENTRY (R373): the monitor takes the entry at LQHEAD and submits it; bytes 8-15 that are not zero are a BADLAUNCH. -/
def State.takeHostLaunch (s : State) (v : Nat) : State :=
  let q := s.block v
  let h := (q.get 0x018).toNat
  if !q.en 0 || decide ((q.get 0x010).toNat ≤ h) || decide (trackerSize ≤ s.launches.length) then s
  else
    let at_ := Place.host (q.entry 0 h 16)
    let va := BitVec.ofNat 64 (s.numAt at_ 8)
    let high := s.numAt (at_.plus 8) 8
    let t := s.setBlock v (q.set 0x018 (BitVec.ofNat 64 (h + 1)))
    if high ≠ 0 then t.badLaunch none v 0 headerAtFault else t.takeLaunch (.header va v) none

/-- HOST_LAUNCH_ENTRY (R373). -/
def execHostLaunchEntry (v : Nat) (s : State) : Host.Outcome State Fault Refusal := .next (s.takeHostLaunch v)

/-- An entry put at a ring's tail, where there is room: the bytes in host memory, then the tail (R373). -/
def State.putEntry (s : State) (v ring n : Nat) (bs : List Byte) : State :=
  let q := s.block v
  let tail := (q.get (ringReg ring 0x10)).toNat
  (s.setBytes (.host (q.entry ring tail n)) bs).setBlock v (q.set (ringReg ring 0x10) (BitVec.ofNat 64 (tail + 1)))

/-- A ring takes an entry: it is enabled, and TAIL - HEAD is below its size. -/
def QueueBlock.room (q : QueueBlock) (ring : Nat) : Bool :=
  q.en ring && decide ((q.get (ringReg ring 0x10)).toNat < (q.get (ringReg ring 0x18)).toNat + q.size ring)

/-- COMPLETION_QUEUE_ENTRY (R373). -/
def State.postCompletion (s : State) (v : Nat) : State :=
  let q := s.block v
  match q.completions with
  | [] => s
  | e :: rest =>
    if q.room 1 then
      (s.setBlock v { q with completions := rest }).putEntry v 1 16 (leBytes 8 e.1.toNat ++ leBytes 8 e.2.toNat)
    else s

/-- COMPLETION_QUEUE_ENTRY (R373). -/
def execCompletionQueueEntry (v : Nat) (s : State) : Host.Outcome State Fault Refusal := .next (s.postCompletion v)

/-- The 32 bytes of a fault record (R286). -/
def FaultRec.bytes (r : FaultRec) : List Byte :=
  leBytes 8 r.va ++ [BitVec.ofNat 8 r.vf, BitVec.ofNat 8 r.kind, BitVec.ofNat 8 r.core, BitVec.ofNat 8 r.src] ++ leBytes 4 0 ++
    leBytes 8 r.time ++ leBytes 8 r.token.toNat

/-- FAULT_QUEUE_RECORD (R370): the oldest record that waits enters the ring. -/
def State.postRecord (s : State) (v : Nat) : State :=
  let q := s.block v
  match q.faultsWaiting with
  | [] => s
  | r :: rest => if q.room 2 then (s.setBlock v { q with faultsWaiting := rest }).putEntry v 2 32 r.bytes else s

/-- FAULT_QUEUE_RECORD (R370). -/
def execFaultQueueRecord (v : Nat) (s : State) : Host.Outcome State Fault Refusal := .next (s.postRecord v)

/-! ### Registers without a row of their own (R369) -/

/-- A register of a queue block as the host reads it (R370): FQANSWER, which is write only, and what is not listed read zero. -/
def QueueBlock.read (q : QueueBlock) (off : Nat) : Word := if off ≤ 0x060 then q.get off else 0

/-- A register of a queue block: a BASE while its ring is disabled, and FQTOKEN (R370). -/
def QueueBlock.write (q : QueueBlock) (off : Nat) (x : Word) : QueueBlock :=
  if off = 0x060 then q.set off x
  else if off = 0x000 ∨ off = 0x020 ∨ off = 0x040 then
    (if q.en (off / 32) ∨ x.toNat % 4096 ≠ 0 then q else q.set off x)
  else q

/-- Power control: POWCAP, THOT, HOLD (R379); a value outside its range is ignored. -/
def State.writePower (s : State) (off : Nat) (x : Word) : State :=
  if off = 0x200 then (if 40 ≤ x.toNat ∧ x.toNat ≤ 120 then { s with powcap := x } else s)
  else if off = 0x208 then (if 60 ≤ x.toNat ∧ x.toNat ≤ 105 then { s with thot := x } else s)
  else if off = 0x210 then { s with hold := x }
  else s

/-- Peer control (R374); a value outside its range is ignored. -/
def State.writePeer (s : State) (off : Nat) (x : Word) : State :=
  if off = 0x000 then
    (if 100 ≤ bits x 0 32 ∧ bits x 0 32 ≤ 1000000 ∨ x = 0 then { s with peerctl := x &&& 0xC0000000FFFFFFFF, hbAt := s.now } else s)
  else if off = 0x008 then (if x.toNat ≤ 60000 then { s with cperiod := x } else s)
  else if off = 0x010 then (if x.toNat % 0x200000 = 0 then { s with cring := x } else s)
  else if off = 0x018 then (if x.toNat % 0x200000 = 0 then { s with cringlen := x } else s)
  else s

/-- The firmware window: FWLEN, and the staging buffer (R376). -/
def State.writeFirmware (s : State) (off : Nat) (x : Word) : State :=
  if off = 0x200010 then { s with fwlen := x }
  else { s with staging := twrites 0 s.staging (off - 0x1000000) (leBytes 8 x.toNat) }

/-- The DRAM service window: FREEBASE and FREELEN (R381). -/
def State.writeDramService (s : State) (off : Nat) (x : Word) : State :=
  if x.toNat % 0x200000 ≠ 0 then s
  else if off = 0x000 then { s with freebase := x }
  else if off = 0x008 then { s with freelen := x }
  else s

/-- An 8-byte write to PF BAR0 (R369); bytes not listed ignore it, and before a bank verifies only the firmware window answers
(R384). -/
def State.writePf (s : State) (off : Nat) (x : Word) : State :=
  if off = 0x200010 ∨ (0x1000000 ≤ off ∧ off < 0x2000000) then s.writeFirmware off x
  else if !s.booted then s
  else if off < 0x100 then s.setBlock 4 ((s.block 4).write off x)
  else if off / 0x100000 = 1 then s.writePower (off - 0x100000) x
  else if off / 0x100000 = 4 then s.writeDramService (off - 0x400000) x
  else if off / 0x100000 = 7 then s.writePeer (off - 0x700000) x
  else s

/-- HOST_REGISTER_WRITE (R369): only 8-byte alignment is accepted. -/
def execHostRegisterWrite (vf : Option Nat) (off : Nat) (x : Word) (s : State) : Host.Outcome State Fault Refusal :=
  .next (if off % 8 ≠ 0 then s
    else match vf with
      | none => s.writePf off x
      | some v => if v < 4 then s.onBlock v fun q => q.write off x else s)

/-! ### BAR2 (R368) -/

/-- The correction parity region (R265, R368). -/
def inParity (a : Nat) : Bool := decide (0x1E00000000 ≤ a) && decide (a < 0x2000000000)

/-- A BAR2 access (R368): performed at the home slice, with no translation; Unsupported Request in the parity region. -/
def State.bar2 (s : State) (off n : Nat) (write : Option Word) : State :=
  if !s.booted || decide (0x2000000000 < off + n) then s
  else match write with
    | some x => if inParity off || inParity (off + n - 1) then s else s.setBytes (.dram off) (leBytes n x.toNat)
    | none =>
      if inParity off || inParity (off + n - 1) then
        { s with reads := s.reads ++ [(off, Config.unsupportedRead s.fresh)], fresh := s.fresh + 1 }
      else { s with reads := s.reads ++ [(off, BitVec.ofNat 64 (s.numAt (.dram off) n))] }

/-- BAR2_ACCESS (R368). -/
def execBar2Access (off size : Nat) (write : Option Word) (s : State) : Host.Outcome State Fault Refusal :=
  .next (s.bar2 off size write)

/-! ### The peer (R374) -/

/-- EN with a role: false primary, true spare. -/
def State.peerIs (s : State) (spare : Bool) : Bool := s.peerctl.getLsbD 63 && s.peerctl.getLsbD 62 == spare

/-- HEARTBEAT (R374): every 100 µs the primary writes its chip time into the header of the spare's ring (log 34). -/
def execHeartbeat (s : State) : Host.Outcome State Fault Refusal :=
  s.event (s.peerIs false && decide (s.hbSent + 100000 ≤ s.now))
    { s.setBytes (.peer s.cring.toNat) (leBytes 8 s.now) with hbSent := s.now }

/-- PEER_LOST (R374): a heartbeat that has not advanced for HBTIMEOUT sets LOST; one that has is noted. -/
def execPeerLost (s : State) : Host.Outcome State Fault Refusal :=
  let v := s.numAt (.dram s.cring.toNat) 8
  .next (if !s.peerIs true then s
    else if v ≠ s.hbSeen then { s with hbSeen := v, hbAt := s.now }
    else if s.hbAt + bits s.peerctl 0 32 * 1000 ≤ s.now then { s with peerstat := setBit s.peerstat 63 true }
    else s)

end Sys2Proof.Machine
end

