-- ==== Sys2Proof/Machine/Service.lean ====
section
/-! DEFINITION. Service: DRAM sectors, the error classifier and repairs (R268-R270, R343, R344, R382), free rows (R381), power
(R377-R379) and firmware banks (R375, R376). -/

namespace Sys2Proof.Machine

/-! ### DRAM: errors and the classifier (R269, R343) -/

def State.dctl (s : State) (chan : Nat) : DramCtl := tget {} s.drams chan

def State.setDctl (s : State) (chan : Nat) (d : DramCtl) : State := { s with drams := tput s.drams chan d }

/-- A record of a DRAM controller (R345). -/
def dramRecord (cls sev chan : Nat) (pa : Nat) (detail : Word) : ErrRec :=
  { cls := cls, sev := sev, engid := 8 * 4096 + chan, addr := BitVec.ofNat 64 pa, paddr := BitVec.ofNat 64 pa, detail := detail }

/-- A site with one error more in a lane. -/
def Site.again (x : Site) (lane : Nat) : Site :=
  { x with count := x.count + 1, lanes := if x.lanes.contains lane then x.lanes else x.lanes ++ [lane] }

/-- An entry with a corrected error in it: at a site that it holds, or at a new one. -/
def Pattern.enter (p : Pattern) (bank row col lane now : Nat) : Pattern :=
  let here (x : Site) : Bool := x.bank == bank && x.row == row && x.col == col
  { sites := if p.sites.any here then p.sites.map fun x => if here x then x.again lane else x
      else p.sites ++ [{ bank := bank, row := row, col := col, lanes := [lane], count := 1 }],
    last := now }

/-- The values of a list without repeats. -/
def uniques (l : List Nat) : List Nat := l.eraseDups

/-- The sites of a bank's pattern: 3 or more rows and columns (R343). -/
def spreadInBank (l : List Site) : Bool :=
  decide (3 ≤ (uniques (l.map (·.row))).length) && decide (3 ≤ (uniques (l.map (·.col))).length)

/-- The sites of a lane's pattern: 4 or more banks (R343). -/
def spreadOverBanks (l : List Site) : Bool := decide (4 ≤ (uniques (l.map (·.bank))).length)

/-- What makes an error part of an entry's one pattern, the narrowest first (R343, log 35): its cell stands there; all that stands there
lies in its row, or in its column; the entry is a pattern of its bank, or of its lane. -/
def joins (bank row col lane : Nat) : List (Pattern → Bool) :=
  [fun p => p.sites.any fun x => x.bank == bank && x.row == row && x.col == col,
   fun p => p.sites.all fun x => x.bank == bank && x.row == row,
   fun p => p.sites.all fun x => x.bank == bank && x.col == col,
   fun p => p.sites.all (fun x => x.bank == bank) && spreadInBank p.sites,
   fun p => p.sites.all (fun x => x.lanes.contains lane) && spreadOverBanks p.sites]

/-- The entry whose pattern a corrected error belongs to. -/
def entryFor (t : List Pattern) (bank row col lane : Nat) : Option Nat :=
  (joins bank row col lane).findSome? fun f => t.findIdx? f

/-- An entry of one cell. -/
def Pattern.isCell (p : Pattern) : Bool := decide (p.sites.length ≤ 1)

/-- A corrected error enters the table (R343): the entry of its pattern, or a new one; a full table replaces its oldest cell entry, and
one without a cell entry takes no new one. -/
def addError (t : List Pattern) (bank row col lane now : Nat) : List Pattern :=
  let new : Pattern := ({ sites := [], last := now } : Pattern).enter bank row col lane now
  match entryFor t bank row col lane with
  | some k => t.zipIdx.map fun e => if e.2 = k then e.1.enter bank row col lane now else e.1
  | none =>
    if t.length < 256 then t ++ [new]
    else match t.findIdx? Pattern.isCell with
      | some k => t.eraseIdx k ++ [new]
      | none => t

/-- A bank's or a lane's pattern that has been found is one entry, with all that lies in it (R343, log 35). -/
def gather (t : List Pattern) (cls bank lane now : Nat) : List Pattern :=
  let mine (p : Pattern) : Bool :=
    cls == 4 && p.sites.all (fun x => x.bank == bank) || cls == 5 && p.sites.all fun x => x.lanes.contains lane
  match t.filter mine with
  | [] | [_] => t
  | l => t.filter (fun p => !mine p) ++ [{ sites := l.flatMap (·.sites), last := now }]

/-- The class of the newest error's pattern (R343): 1 cell, 2 row, 3 column, 4 bank, 5 lane; 0 none (log 35). -/
def patternClass (t : List Pattern) (bank row col lane : Nat) : Nat :=
  let t : List Site := t.flatMap (·.sites)
  let inBank := t.filter fun p => p.bank == bank
  if spreadOverBanks (t.filter fun p => p.lanes.contains lane) then 5
  else if decide (3 ≤ (uniques ((inBank.filter fun p => p.row == row).map (·.col))).length) then 2
  else if inBank.any fun (p : Site) => p.row == row && p.col == col && decide (16 ≤ p.count) then 1
  else if decide (3 ≤ (uniques ((inBank.filter fun p => p.col == col).map (·.row))).length) then 3
  else if spreadInBank inBank then 4
  else 0

/-- A spare is left for a repair: 4 rows in each bank, one lane in each channel (R343). -/
def DramCtl.spareFor (d : DramCtl) : Repair → Bool
  | .row bank _ => decide (tget 0 d.spareRows bank < 4)
  | .lane _ => !d.spareLane

/-- What follows a pattern found (R343, R344): a repair begun, or asked for where HAMODE[2] is set, or a record of severity 2. -/
def State.actOn (s : State) (chan pa cls : Nat) (r : Repair) (detail : Word) : State :=
  let d := s.dctl chan
  if cls = 3 ∨ cls = 4 then s.report (dramRecord 0x03 2 chan pa detail)
  else if d.repairing.isSome ∨ d.asked.isSome then s
  else if !d.spareFor r then s.report (dramRecord 0x0F 2 chan pa detail)
  else if ((s.core 0).sysr 0x112).getLsbD 2 then
    (s.setDctl chan { d with repreq := BitVec.ofNat 64 (2 ^ 63 + cls), asked := some r }).report (dramRecord 0x0F 0 chan pa detail)
  else s.setDctl chan { d with repairing := some r }

/-- A corrected sector (R269, R343): the record, the table, the pattern. -/
def State.corrected (s : State) (pa : Nat) : State :=
  let (chan, bank, row, col) := Config.dramSite (pa / 128 * 128)
  let chan := chan % 16
  let lane := Config.errorLane s.fresh
  let detail := Config.dramDetail bank row col lane
  let d := s.dctl chan
  let t := addError d.table bank row col lane s.now
  let cls := patternClass t bank row col lane
  let s := ({ s with fresh := s.fresh + 1 }.setDctl chan { d with table := gather t cls bank lane s.now }).report
    (dramRecord 0x03 0 chan pa detail)
  match cls with
  | 0 => s
  | 5 => s.actOn chan pa 5 (.lane lane) detail
  | k => s.actOn chan pa k (.row bank row) detail

/-- A slice gives up a sector (R1, R268): a dirty one is written back. -/
def State.evict (s : State) (pa : Nat) : State := s.writeBack (pa / 128)

/-- DRAM_SECTOR_FILL (R268, R269): a sector that L2 no longer holds is filled: with a CRC mismatch it is corrected, or delivered
poisoned. A row that has been declared free reads zeros with no error (R381). Which sector a slice of 10 MiB replaces is not given: a fill of any one says that it had been evicted (log 28). -/
def execDramSectorFill (pa : Nat) (crc poison : Bool) (s : State) : Host.Outcome State Fault Refusal :=
  .next (if 0x1E00000000 ≤ pa then s
    else
    let s := s.evict pa
    if tget false s.freeRows (pa / 128) then s
    else if poison then s.poison (.dram pa)
    else if crc then s.corrected pa
    else s)

/-- CLASSIFIER_ENTRY_AGEING (R343): entries with no error for 2^40 ns are freed. -/
def execClassifierEntryAgeing (chan : Nat) (s : State) : Host.Outcome State Fault Refusal :=
  .next (s.setDctl chan { s.dctl chan with table := (s.dctl chan).table.filter fun p => decide (s.now < p.last + 2 ^ 40) })

/-- A site that a repair leaves behind. -/
def Repair.covers (r : Repair) (x : Site) : Bool :=
  match r with
  | .row b n => x.bank == b && x.row == n
  | .lane n => x.lanes.contains n

/-- The table after a repair: what it covers is gone, and so are entries left empty. -/
def Repair.clears (r : Repair) (t : List Pattern) : List Pattern :=
  (t.map fun p => { p with sites := p.sites.filter fun x => !r.covers x }).filter fun p => !p.sites.isEmpty

/-- A repair done (R344): remapped, the spare used, its entries gone, and the record posted. -/
def State.finishRepair (s : State) (chan : Nat) : State :=
  let d := s.dctl chan
  match d.repairing with
  | none => s
  | some r =>
    let d := { d with repairing := none, table := r.clears d.table }
    match r with
    | .row bank row =>
      (s.setDctl chan { d with spareRows := tset 0 d.spareRows bank (tget 0 d.spareRows bank + 1) }).report
        (dramRecord 0x0D 0 chan 0 (Config.dramDetail bank row 0 0))
    | .lane n => (s.setDctl chan { d with spareLane := true }).report (dramRecord 0x0E 0 chan 0 (Config.dramDetail 0 0 0 n))

/-- DRAM_REPAIR_COMPLETE (R344). -/
def execDramRepairComplete (chan : Nat) (s : State) : Host.Outcome State Fault Refusal := .next (s.finishRepair chan)

/-- REPCMD := 1 (R382): the repair asked for begins; VALID is cleared. -/
def execRepcmdRepair (chan : Nat) (s : State) : Host.Outcome State Fault Refusal :=
  let d := s.dctl chan
  s.event d.asked.isSome (s.setDctl chan { d with repreq := setBit d.repreq 63 false, repairing := d.asked, asked := none })

/-- REPCMD := 2 (R382): the repair asked for is declined, with a record of severity 2. -/
def execRepcmdDecline (chan : Nat) (s : State) : Host.Outcome State Fault Refusal :=
  let d := s.dctl chan
  s.event d.asked.isSome
    ((s.setDctl chan { d with repreq := setBit d.repreq 63 false, asked := none }).report (dramRecord 0x0F 2 chan 0 0))

/-! ### Free rows (R381) -/

/-- The range of FREEBASE and FREELEN, where it touches neither the parity region nor the monitor area. -/
def State.freeRange (s : State) : Option (Nat × Nat) :=
  let b := s.freebase.toNat
  let n := s.freelen.toNat
  if n ≠ 0 ∧ b + n ≤ 0x1DFFF00000 then some (b, n) else none

/-- Sectors of a range whose rows lie wholly within it (log 29). -/
def freeSectors (base len : Nat) : List Nat :=
  ((List.range (len / 128)).map fun k => base / 128 + k).filter fun x => Config.rowWithin x base len

/-- DECLARE_FREE (R381): the rows read zeros, with no error. -/
def execDeclareFree (s : State) : Host.Outcome State Fault Refusal :=
  .next (match s.freeRange with
    | none => s
    | some (b, n) =>
      let xs := freeSectors b n
      { s with
        dram := xs.foldl (fun t x => terase t (128 * x) (128 * x + 128)) s.dram,
        dramBad := xs.foldl (fun t x => terase t x (x + 1)) s.dramBad,
        l2Bad := xs.foldl (fun t x => terase t (16 * x) (16 * x + 16)) s.l2Bad,
        sectors := xs.foldl (fun t x => terase t x (x + 1)) s.sectors,
        freeRows := xs.foldl (fun t x => tset false t x true) s.freeRows })

/-- DECLARE_IN_USE (R381): rows of the range that nothing has written since hold what the DRAM holds (log 29). -/
def execDeclareInUse (s : State) : Host.Outcome State Fault Refusal :=
  .next (match s.freeRange with
    | none => s
    | some (b, n) =>
      let xs := (s.freeRows.map (·.1)).filter fun x => decide (b ≤ 128 * x) && decide (128 * x + 128 ≤ b + n)
      { s with
        dram := xs.foldl (fun t x => tfill 0 t (128 * x) 128 fun i => Config.staleByte s.fresh (128 * x + i)) s.dram,
        freeRows := s.freeRows.filter fun e => !xs.contains e.1, fresh := s.fresh + 1 })

/-! ### Power (R377-R379) -/

/-- PWRn (R379): held pending; a value with other bits set is ignored. -/
def execPwrWrite (core : Nat) (x : Word) (s : State) : Host.Outcome State Fault Refusal :=
  s.event (decide (core < 64) && decide (x.toNat < 8)) (s.setCore core { s.core core with pwrNext := some x })

/-- The level of a row's voltage rail, as the divider that it serves (R377): that of the fastest divider of its powered cores; ÷1 where a
core of the row holds a valid CAPACC entry; none where nothing of the row is powered. -/
def State.railLevel (s : State) (row : Nat) : Option Nat :=
  let cs := ((List.range 64).filter fun n => n / 16 == row).map s.core
  if cs.any fun c => (List.range 8).any fun k => (c.sysr (0x140 + k)).getLsbD 63 then some 0
  else ((cs.filter CoreSt.powered).map fun c => bits (c.seizPwr.getD c.pwr) 0 2).min?

/-- POWER_SETTING_APPLY (R378): once the core runs no share and no seizure. -/
def execPowerSettingApply (core : Nat) (s : State) : Host.Outcome State Fault Refusal :=
  let c := s.core core
  .next (match c.pwrNext with
    | some x => if c.idleShare && c.seizPhase == .idle then s.setCore core { c with pwr := x, pwrNext := none } else s
    | none => s)

/-! ### Firmware banks (R375, R376) -/

/-- BUSY or SWITCHING. -/
def State.fwBusy (s : State) : Bool := s.fwstat.getLsbD 62 || s.fwstat.getLsbD 60

/-- FWCMD := 1 (R376). -/
def execFwInstall (s : State) : Host.Outcome State Fault Refusal := s.event (!s.fwBusy) { s with fwstat := setBit s.fwstat 62 true }

/-- The staged image: FWLEN bytes. -/
def State.stagedImage (s : State) : List Byte := treads 0 s.staging 0 s.fwlen.toNat

/-- The verification and write end (R375, R376): the idle bank takes an accepted image; ERR says otherwise. -/
def State.installDone (s : State) : State :=
  let image := s.stagedImage
  let t := { s with fwstat := setBit s.fwstat 62 false }
  if 2 ^ 24 < s.fwlen.toNat ∨ !imageOk image then { t with fwstat := setBit t.fwstat 61 true }
  else
    let t := { t with fwstat := setBit t.fwstat 61 false }
    if s.fwstat.getLsbD 63 then { t with fwbank0 := image } else { t with fwbank1 := image }

/-- FW_INSTALL_COMPLETE (R376). -/
def execFwInstallComplete (s : State) : Host.Outcome State Fault Refusal := s.event (s.fwstat.getLsbD 62) s.installDone

/-- A core that is to switch: on a reflex core, each enabled bank (R376). -/
def CoreSt.toSwitch (c : CoreSt) (core : Nat) : CoreSt :=
  let c := { c with fwPending := true }
  if Config.isReflex core then
    (c.banks fun v => v.getLsbD 63).foldl (fun c k => c.setCtx k { c.ctx k with fwPending := true }) c
  else c

/-- FWCMD := 2 (R376): SWITCHING with 96 cores to switch; what runs nothing switches at once. -/
def State.activate (s : State) : State :=
  let t : State := { s with fwstat := (s.fwstat &&& ~~~(0x7F : Word)) ||| BitVec.ofNat 64 (2 ^ 60 + 96) }
  let t := (List.range 96).foldl (fun (t : State) c => t.setCore c ((t.core c).toSwitch c)) t
  (List.range 96).foldl State.fwIdle t

/-- FW_ACTIVATE (R376). -/
def execFwActivate (s : State) : Host.Outcome State Fault Refusal := s.event (!s.fwBusy) s.activate

/-! ### Registers read by the host (R369) -/

/-- Power control (R379): a setting reads as written, pending or not. -/
def State.readPower (s : State) (off : Nat) : Word :=
  if off < 0x200 then (s.core (off / 8)).pwrNext.getD (s.core (off / 8)).pwr
  else match off with
    | 0x200 => s.powcap
    | 0x208 => s.thot
    | 0x210 => s.hold
    | 0x218 => ((List.range 64).filter s.withheld).foldl (fun w n => w ||| BitVec.ofNat 64 (2 ^ n)) 0
    | 0x220 => BitVec.ofNat 64 (2 ^ 56 * ((List.range 4).map fun r => (Config.rowSensor s.now r).toNat).foldl Nat.max 0)
    | _ => 0

/-- Function control (R372). -/
def State.readFunctions (s : State) (off : Nat) : Word :=
  if off < 0x028 then tget 0 s.assign (off / 8)
  else if off < 0x050 then tget 0 s.rassign ((off - 0x028) / 8)
  else if off = 0x058 then ((List.range 5).filter s.closedTo).foldl (fun w v => w ||| BitVec.ofNat 64 (2 ^ v)) 0
  else 0

/-- Peer control (R374): a spare finds the number of the last complete set in its ring (log 34). -/
def State.readPeer (s : State) (off : Nat) : Word :=
  match off with
  | 0x000 => s.peerctl
  | 0x008 => s.cperiod
  | 0x010 => s.cring
  | 0x018 => s.cringlen
  | 0x020 => if s.peerIs true then setBit (BitVec.ofNat 64 (s.numAt (.dram (s.cring.toNat + 8)) 8)) 63 (s.peerstat.getLsbD 63)
    else s.peerstat
  | _ => 0

/-- The DRAM service window (R381, R382). -/
def State.readDramService (s : State) (off : Nat) : Word :=
  if off = 0x000 then s.freebase
  else if off = 0x008 then s.freelen
  else if 0x1000 ≤ off ∧ off < 0x2000 ∧ off % 0x100 = 0 then (s.dctl ((off - 0x1000) / 0x100)).repreq
  else 0

/-- The firmware window and the staging buffer (R376). -/
def State.readFirmware (s : State) (off : Nat) : Word :=
  if off = 0x200000 then s.fwstat
  else if off = 0x200010 then s.fwlen
  else if 0x1000000 ≤ off ∧ off < 0x2000000 then BitVec.ofNat 64 (leNat (treads 0 s.staging (off - 0x1000000) 8))
  else 0

/-- 8 bytes of PF BAR0 (R369): bytes not listed read zero. -/
def State.readPf (s : State) (off : Nat) : Word :=
  let o := off % 0x100000
  match off / 0x100000 with
  | 0 => (s.block 4).read o
  | 1 => s.readPower o
  | 3 => if o < 0x20000 then tget 0 (s.slot (o / 32)).grant (o / 8 % 4) else 0
  | 4 => s.readDramService o
  | 6 => s.readFunctions o
  | 7 => s.readPeer o
  | _ => s.readFirmware off

/-- A read of BAR0 (R368, R369, R384): of the PF, or of the queue block of a VF. A size or alignment other than 8 bytes, and what does
not answer, completes with Unsupported Request. -/
def State.hostRead (s : State) (vf : Option Nat) (off n : Nat) : State :=
  let answers := decide (n = 8) && decide (off % 8 = 0) && (match vf with
    | none => s.booted || decide (off / 0x100000 = 2) || decide (0x1000000 ≤ off)
    | some v => decide (v < 4) && s.reachable v)
  if answers then
    { s with reads := s.reads ++ [(off, match vf with
      | none => s.readPf off
      | some v => (s.block v).read off)] }
  else { s with reads := s.reads ++ [(off, Config.unsupportedRead s.fresh)], fresh := s.fresh + 1 }

end Sys2Proof.Machine
end

