-- ==== Sys2Proof/Machine/Yilyan.lean ====
section
/-! DEFINITION. Yilyan channels in translated code (R359, R360, R363): each operation as its stub performs it. -/

namespace Sys2Proof.Machine

/-- The Yilyan programs of the issuing core's function, one for each load. -/
def State.loadedPrograms (s : State) : List YProgram := tget [] s.programs s.me.vf

/-- The program that the issuing context's channel operation belongs to: the one with that site, else the latest. -/
def State.programAt (s : State) : Nat :=
  let l := s.loadedPrograms
  (l.findIdx? fun p => p.stubs.any fun t => t.site == s.my.pc.toNat).getD (l.length - 1)

def State.program (s : State) : YProgram := s.loadedPrograms.getD s.programAt {}

def State.setProgram (s : State) (p : YProgram) : State :=
  { s with programs := tput s.programs s.me.vf (s.loadedPrograms.set s.programAt p) }

/-- The issuing context's virtual core number, where it is one (R362). -/
def State.virtualCore (s : State) : Option Nat :=
  (s.program.cores.findIdx? fun e => e == (s.cur.core, s.cur.ctx)).filter s.program.live.contains

/-- The channel that u(ga) names (R360). -/
def State.channelOf (s : State) (v : Word) : Except Stop YChannel :=
  match s.program.chans[v.toNat]? with
  | some c => .ok c
  | none => .error (.trap cIllegalAddress v 0)

/-- The executing virtual core is the fixed one of a static channel, or none is fixed (R360). -/
def State.fixedTo (s : State) (who : Option Nat) (v : Word) : Except Stop Unit :=
  match who with
  | none => .ok ()
  | some n => if s.virtualCore = some n then .ok () else .error (.trap cProtection v 0)

/-- The stub at an address (R363). -/
def State.stubAt (s : State) (pc : Nat) : Option Stub := s.loadedPrograms.findSome? fun p => p.stubs.find? fun t => t.at_ == pc

/-- The instruction that a stub performs: the site's, whose guard its B has tested (R363). -/
def Stub.instr (t : Stub) : Option Instr := (decode false [t.word &&& ~~~(7 : Half)]).toOption

/-- A stub leaves its own values in G28 and G29 (R363, log 32). -/
def State.stubbed (s : State) : State :=
  let t := s.setMy ((s.my.setG 28 (Config.stubScratch s.fresh)).setG 29 (Config.stubScratch (s.fresh + 1)))
  { t with fresh := s.fresh + 2 }

/-- Messages of a channel of a program. -/
def YProgram.setChan (p : YProgram) (n : Nat) (c : YChannel) : YProgram := { p with chans := p.chans.set n c }

/-- A channel holds as many messages as its carrier has room for, at least one (R359, log 32). -/
def YChannel.full (c : YChannel) (n : Nat) : Bool := decide (max 1 (Config.channelRoom n) ≤ c.msgs.length)

/-- gd of a CHSEND on a closed channel (R360). -/
def channelClosed : Word := 0x8000000000000006

/-- CHSEND (R359, R360): a release at DEVICE scope; it sleeps while the channel is full. -/
def execChsend (d a b : Reg5) (g : Reg3) (s : State) : Host.Outcome State Fault Refusal :=
  s.guarded g 1 (do
    let v := s.getG a
    let c ← s.channelOf v
    let p ← s.sourceBlock (s.getG b) c.maxlen
    s.fixedTo c.prod v
    if c.closed then .ok ((s.stubbed.setG d channelClosed).advance 1)
    else if c.full v.toNat then .error .sleep
    else if !s.performed then .error (.hold none)
    else
      let t := s.setProgram (s.program.setChan v.toNat { c with msgs := c.msgs ++ [((s.virtualCore).getD 0, p)] })
      .ok ((t.stubbed.setG d 0).sent 1))

/-- CHRECV (R359, R360): header and payload at gb; it acquires. -/
def execChrecv (d a b : Reg5) (g : Reg3) (s : State) : Host.Outcome State Fault Refusal :=
  s.guarded g 1 (do
    let v := s.getG a
    let va := s.getG b
    let c ← s.channelOf v
    let inf : AddrInfo := { space := 1, write := true }
    if memSize s.cur.core < va.toNat + c.maxlen + 16 then .error (.trap cIllegalAddress va inf.word)
    else if va.toNat % 16 ≠ 0 then .error (.trap cAlign va inf.word)
    else do
      s.clearOf [s.ownLoc va.toNat (c.maxlen + 16)]
      s.fixedTo c.cons v
      match c.msgs with
      | [] => if c.closed then .ok ((s.stubbed.setG d 0).advance 1) else .error .sleep
      | (_, m) :: rest =>
        let t := s.setProgram (s.program.setChan v.toNat { c with msgs := rest })
        let t := t.setBytes (.core s.cur.core va.toNat) (leBytes 16 m.length ++ m)
        .ok ((t.discardAhead.stubbed.setG d (BitVec.ofNat 64 m.length)).advance 1))

/-- CHCLOSE (R359, R360): a release at DEVICE scope. -/
def execChclose (a : Reg5) (g : Reg3) (s : State) : Host.Outcome State Fault Refusal :=
  s.guarded g 1 (do
    let v := s.getG a
    let c ← s.channelOf v
    if !s.performed then .error (.hold none)
    else .ok (((s.setProgram (s.program.setChan v.toNat { c with closed := true })).stubbed).sent 1))

/-- VCID (R360); a context that is no virtual core gets a value that the spec does not give (log 32). -/
def execVcid (d : Reg5) (g : Reg3) (s : State) : Host.Outcome State Fault Refusal :=
  let n := (s.virtualCore).getD (bits (Config.stubScratch s.fresh) 0 32)
  s.done g 1 (s.stubbed.setG d (BitVec.ofNat 64 (s.program.cores.length * 2 ^ 32 + n)))

end Sys2Proof.Machine
end

