-- ==== Sys2Proof/Machine/Loader.lean ====
section
/-! DEFINITION. The object loader (R349-R358, R361-R364): an object is read, checked in the order of R354, and placed, bound and
translated, or refused. -/

namespace Sys2Proof.Machine

/-! ### Objects (R349-R351) -/

/-- A little-endian field of n bytes at an offset. -/
def fieldAt (bs : List Byte) (off n : Nat) : Nat := leNat ((bs.drop off).take n)

/-- All of n bytes from an offset on are zero. -/
def zeros (bs : List Byte) (off n : Nat) : Bool := ((bs.drop off).take n).all (· == 0)

/-- A section table entry (R350). -/
structure Section where
  type : Nat
  comp : Bool
  required : Bool
  align : Nat
  name : Nat
  off : Nat
  fsize : Nat
  msize : Nat
  addr : Nat
  link : Nat
  dict : Nat
  reserved : Bool
deriving DecidableEq, Repr

/-- The entry at an offset. -/
def sectionAt (bs : List Byte) (o : Nat) : Section :=
  let flags := fieldAt bs (o + 1) 1
  { type := fieldAt bs o 1, comp := flags / 2 % 2 == 1, required := flags % 2 == 1, align := fieldAt bs (o + 2) 1,
    name := fieldAt bs (o + 4) 4, off := fieldAt bs (o + 8) 8, fsize := fieldAt bs (o + 16) 8, msize := fieldAt bs (o + 24) 8,
    addr := fieldAt bs (o + 32) 8, link := fieldAt bs (o + 40) 4, dict := fieldAt bs (o + 44) 4,
    reserved := decide (4 ≤ flags) || fieldAt bs (o + 3) 1 != 0 }

/-- The section table. -/
def sectionsOf (bs : List Byte) : List Section :=
  (List.range (fieldAt bs 6 2)).map fun k => sectionAt bs (fieldAt bs 8 8 + 48 * k)

/-- Step 1 (R354): the header. -/
def headerOk (bs : List Byte) : Bool :=
  decide (128 ≤ bs.length) && fieldAt bs 0 4 == 0x00464F46 && fieldAt bs 4 2 == 128 && decide (fieldAt bs 6 2 ≤ 1024)
    && fieldAt bs 8 8 % 8 == 0 && zeros bs 16 16 && zeros bs 96 32
    && decide (fieldAt bs 8 8 + 48 * fieldAt bs 6 2 ≤ bs.length)

def Section.known (x : Section) : Bool := decide (1 ≤ x.type) && decide (x.type ≤ 13)

/-- Placed in global memory: CODE, RODATA, DATA, BSS, TASKS (R351). -/
def Section.placed (x : Section) : Bool := x.type == 1 || x.type == 2 || x.type == 3 || x.type == 5 || x.type == 9

/-- Step 2 (R354): one entry, with what R350 and R351 ask of its type. -/
def Section.ok (x : Section) (len : Nat) : Bool :=
  !x.reserved && decide (x.align ≤ 16) && decide (x.off + x.fsize ≤ len) && x.addr % 2 ^ x.align == 0
    && (x.comp || x.dict == 0)
    && (x.type != 1 || decide (2 ≤ x.align)) && (x.type != 9 || decide (6 ≤ x.align)) && (x.type != 5 || x.fsize == 0)
    && (x.type != 4 || decide (x.addr + x.msize ≤ 0x500000))
    && (x.comp || !(x.placed || x.type == 4) || decide (x.fsize ≤ x.msize))

/-- Step 3 (R354): no unknown section is required. -/
def typesOk (xs : List Section) : Bool := xs.all fun x => x.known || !x.required

/-- The bytes of a section in memory, less relocation: stored bytes expanded or with zeros up to MSIZE; none where malformed, or where
EXPAND refuses the command, whose stream holds a byte at least (R352, R353). -/
def Section.content (x : Section) (bs : List Byte) : Option (List Byte) :=
  let stored := (bs.drop x.off).take x.fsize
  if x.comp then
    if decide (2 ^ 32 ≤ x.msize) || decide (65536 < x.dict) || decide (x.fsize ≤ x.dict) || decide (2 ^ 32 ≤ x.fsize - x.dict) then none
    else
      let e := expandBytes stored x.dict x.msize
      if e.bad.isSome then none else some (e.written x.msize)
  else some (stored ++ List.replicate (x.msize - stored.length) 0)

/-- Where the sections lie: at ADDR, or one after another from the loader's base, each on pages of its own (log 36). -/
def placeAll (base : Nat) : List Section → List Nat
  | [] => []
  | x :: t =>
    if x.addr ≠ 0 ∨ !x.placed then x.addr :: placeAll base t
    else
      let b := (base + 65535) / 65536 * 65536
      b :: placeAll (b + x.msize) t

/-! ### Relocation (R355) -/

/-- A symbol's placed address; none where it is undefined or its entry is malformed. -/
def symbolValue (tab : List Byte) (addrs : List Nat) (k : Nat) : Option Int :=
  let o := 24 * k
  let sect := fieldAt tab (o + 6) 2
  let v := fieldAt tab (o + 8) 8
  if tab.length < o + 24 ∨ 1 < fieldAt tab (o + 4) 1 ∨ fieldAt tab (o + 5) 1 ≠ 0 then none
  else if sect = 0xFFFF then some v
  else match addrs[sect]? with
    | some a => some (a + v)
    | none => none

/-- Bytes of a list replaced from an offset on. -/
def patch (bs : List Byte) (off : Nat) (new : List Byte) : List Byte := bs.take off ++ new ++ bs.drop (off + new.length)

/-- One relocation of a section's content placed at base (R355). -/
def relocate (bs : List Byte) (base : Nat) (off kind : Nat) (v : Int) : Option (List Byte) :=
  match kind with
  | 1 => if off + 8 ≤ bs.length then some (patch bs off (leBytes 8 (BitVec.ofInt 64 v).toNat)) else none
  | 2 =>
    if off + 4 ≤ bs.length ∧ -(2 ^ 31) ≤ v ∧ v < 2 ^ 32 then some (patch bs off (leBytes 4 (BitVec.ofInt 32 v).toNat)) else none
  | 3 =>
    let q := v - ((base + off : Nat) : Int)
    if off + 4 ≤ bs.length ∧ q % 4 = 0 ∧ -(2 ^ 20) ≤ q / 4 ∧ q / 4 < 2 ^ 20 then
      some (patch bs off (leBytes 4 (fieldAt bs off 4 / 2 ^ 21 * 2 ^ 21 + (BitVec.ofInt 21 (q / 4)).toNat)))
    else none
  | _ => none

/-- Entry k of a RELOC section applied. -/
def relocEntry (rel tab : List Byte) (addrs : List Nat) (base : Nat) (bs : List Byte) (k : Nat) : Option (List Byte) :=
  let o := 24 * k
  if !zeros rel (o + 13) 3 then none
  else match symbolValue tab addrs (fieldAt rel (o + 8) 4) with
    | none => none
    | some s => relocate bs base (fieldAt rel o 8) (fieldAt rel (o + 12) 1) (s + (BitVec.ofNat 64 (fieldAt rel (o + 16) 8)).toInt)

/-- Every entry of a RELOC section, in order. -/
def relocAll (rel tab : List Byte) (addrs : List Nat) (base : Nat) (bs : List Byte) : Option (List Byte) :=
  (List.range (rel.length / 24)).foldl (fun o k => match o with
    | some b => relocEntry rel tab addrs base b k
    | none => none) (some bs)

/-! ### Features, notes, shapes (R356-R358) -/

/-- An EMU entry: kind, key, handler. -/
structure Binding where
  kind : Nat
  key : Nat
  handler : Nat
deriving DecidableEq, Repr

/-- The entries of an EMU section. -/
def bindingsOf (bs : List Byte) : List Binding :=
  (List.range (bs.length / 16)).map fun k =>
    { kind := fieldAt bs (16 * k + 2) 1, key := fieldAt bs (16 * k) 2, handler := fieldAt bs (16 * k + 8) 8 }

/-- An EMU entry is well formed, with its handler in a CODE section (R358). -/
def bindingOk (bs : List Byte) (k : Nat) (b : Binding) (code : List (Nat × Nat)) : Bool :=
  zeros bs (16 * k + 3) 5 && (b.kind == 0 && decide (b.key < 512) || b.kind == 1 && decide (b.key < 64))
    && code.any fun e => decide (e.1 ≤ b.handler) && decide (b.handler < e.1 + e.2)

/-- A note record at an offset is accepted (R356). -/
def noteOk (s : State) (v : Nat) (bs : List Byte) (o : Nat) : Bool :=
  let kind := fieldAt bs o 2
  let flags := fieldAt bs (o + 2) 2
  let slot := fieldAt bs (o + 8) 2
  let len := fieldAt bs (o + 10) 2
  if kind = 1 then
    decide (flags < 2) && fieldAt bs (o + 4) 4 == 8 && decide (slot ≤ 4095) && decide (1 ≤ len) && decide (len ≤ 1024)
      && (let g := tget 0 (s.slot slot).grant 0
          g.getLsbD v || g.getLsbD (5 + v))
  else if kind = 2 then true
  else flags % 2 == 0

/-- Every record of a NOTE section, by at most fuel of them. -/
def notesOk (s : State) (v : Nat) (bs : List Byte) : Nat → Nat → Bool
  | 0, _ => true
  | n + 1, o =>
    if bs.length < o + 8 then true
    else noteOk s v bs o && notesOk s v bs n (o + 8 + (fieldAt bs (o + 4) 4 + 7) / 8 * 8)

/-- A SHAPES section is legal (R356). -/
def shapesOk (bs : List Byte) : Bool :=
  (List.range (bs.length / 16)).all fun k =>
    let v := fieldAt bs (16 * k + 4) 4
    decide (v < 2 ^ 13) && zeros bs (16 * k + 8) 8 && (shapeOf (BitVec.ofNat 64 v)).isSome

/-! ### Yilyan sections (R361, R362, R364) -/

/-- The channel record at an offset; none where a field is reserved or MAXLEN out of range. -/
def channelAt (bs : List Byte) (o : Nat) : Option YChannel :=
  let kind := fieldAt bs (o + 4) 1
  let maxlen := fieldAt bs (o + 6) 2
  let who (n : Nat) : Option Nat := if n = 0xFFFF then none else some n
  if 1 < kind ∨ fieldAt bs (o + 5) 1 ≠ 0 ∨ !zeros bs (o + 12) 4 ∨ maxlen < 16 ∨ 4096 < maxlen ∨ maxlen % 16 ≠ 0 then none
  else some { maxlen := maxlen, prod := if kind = 0 then who (fieldAt bs (o + 8) 2) else none,
              cons := if kind = 0 then who (fieldAt bs (o + 10) 2) else none }

/-- Instructions that a Yilyan program must not hold (R364). -/
def banned : Instr → Bool
  | .send _ _ _ _ | .recv _ _ _ | .xph _ | .bar _ _ => true
  | .mfs _ n => decide (0x003 ≤ n.toNat) && decide (n.toNat ≤ 0x007)
  | _ => false

/-- The 32-bit words of bytes. -/
def codeWords (bs : List Byte) : List Half := (List.range (bs.length / 4)).map fun k => BitVec.ofNat 32 (fieldAt bs (4 * k) 4)

/-- An instruction of a CODE section: its address, its base word, what it decodes to, and its words. -/
structure CodeLine where
  at_ : Nat
  word : Half
  instr : Option Instr
  len : Nat
deriving DecidableEq, Repr

/-- Code words read one instruction after another. -/
def listing : Nat → Nat → List Half → List CodeLine
  | 0, _, _ | _, _, [] => []
  | n + 1, a, w :: ws =>
    let len := Nat.max 1 (wordCount w)
    match decode false ((w :: ws).take len) with
    | .ok i => { at_ := a, word := w, instr := some i, len := len } :: listing n (a + 4 * len) ((w :: ws).drop len)
    | .error _ => { at_ := a, word := w, instr := none, len := 1 } :: listing n (a + 4) ws

/-- The instructions of every CODE section. -/
def listingOf (code : List (Nat × List Byte)) : List CodeLine := code.flatMap fun e => listing e.2.length e.1 (codeWords e.2)

/-- Where control may go next, as far as the words say (log 32). -/
def CodeLine.next (c : CodeLine) : List Nat :=
  let after := c.at_ + 4 * c.len
  let target (d : BitVec 21) : List Nat := [((c.at_ : Int) + 4 * d.toInt).toNat]
  let orGo (g : Reg3) : List Nat := if g = 0 then [] else [after]
  match c.instr with
  | some (.br g d) => target d ++ orGo g
  | some (.bl _ d) => after :: target d
  | some (.jr _ g) | some (.ret g) | some (.exit g) => orGo g
  | _ => [after]

/-- Addresses of instructions reachable from a list of addresses. -/
def reach (l : List CodeLine) : Nat → List Nat → List Nat → List Nat
  | 0, _, seen | _, [], seen => seen
  | n + 1, a :: t, seen =>
    if seen.contains a then reach l n t seen
    else match l.find? fun c => c.at_ == a with
      | some c => reach l n (c.next ++ t) (a :: seen)
      | none => reach l n t seen

/-- Registers whose values the words before a line fix, after the line: those of MOVI up to the next branch (log 32). -/
def CodeLine.consts (c : CodeLine) (t : List (Nat × Word)) : List (Nat × Word) :=
  let drop (d : Nat) : List (Nat × Word) := t.filter fun e => e.1 != d
  match c.instr with
  | none => []
  | some i => match i with
    | .movi d v => (d.toNat, v.signExtend 64) :: drop d.toNat
    | .moviLit d v => (d.toNat, v) :: drop d.toNat
    | .br _ _ | .bl _ _ | .jr _ _ | .jlr _ _ | .ret _ | .exit _ | .eret | .qrd _ _ _ => []
    | .chsend d _ _ _ | .chrecv d _ _ _ => (drop d.toNat).filter fun e => e.1 != 28 && e.1 != 29
    | _ => drop i.frame.base.d.toNat

/-- A use of a channel by number: where, whether it sends, and the number where it is a constant. -/
structure ChanUse where
  at_ : Nat
  send : Bool
  chan : Option Nat
deriving DecidableEq, Repr

/-- The uses of channels in a listing; control may enter at any of the targets. -/
def usesOf (targets : List Nat) : List CodeLine → List (Nat × Word) → List ChanUse
  | [], _ => []
  | c :: t, k =>
    let k := if targets.contains c.at_ then [] else k
    let val (a : Reg5) : Option Nat := if a = 0 then some 0 else (k.find? fun e => e.1 == a.toNat).map fun e => e.2.toNat
    let u : List ChanUse := match c.instr with
      | some (.chsend _ a _ _) => [{ at_ := c.at_, send := true, chan := val a }]
      | some (.chrecv _ a _ _) => [{ at_ := c.at_, send := false, chan := val a }]
      | _ => []
    u ++ usesOf targets t (c.consts k)

/-- The producer, or consumer, of a static channel (R361, R364): the one given, or the only virtual core that names the channel; none where
there are two. -/
def fixOne (given : Option Nat) (users : List Nat) : Option (Option Nat) :=
  match given, users with
  | some p, us => if us.all (· == p) then some (some p) else none
  | none, [] => some none
  | none, [k] => some (some k)
  | none, _ => none

/-- A static channel, number n, with both ends fixed (R361); none where one has two (R364). -/
def YChannel.fix (c : YChannel) (n : Nat) (uses : List (List ChanUse)) : Option YChannel :=
  let users (send : Bool) : List Nat := (uses.zipIdx.filter fun e => e.1.any fun u => u.send == send && u.chan == some n).map (·.2)
  match fixOne c.prod (users true), fixOne c.cons (users false) with
  | some p, some q => some { c with prod := p, cons := q }
  | _, _ => none

/-- The stubs of a listing, one after another from the translator's base, after those that stand there (R363, log 32). -/
def stubsOf (v taken : Nat) (l : List CodeLine) : List Stub :=
  let sites := l.filter fun c => match c.instr with
    | some (.chsend _ _ _ _) | some (.chrecv _ _ _ _) | some (.chclose _ _) | some (.vcid _ _) => true
    | _ => false
  sites.zipIdx.map fun e => { site := e.1.at_, word := e.1.word, at_ := 64 * (Config.stubBase v + taken + e.2) }

/-- The distance from a site to its stub in words. -/
def Stub.disp (t : Stub) : Int := ((t.at_ : Int) - t.site) / 4

/-- A B at the site reaches the stub (R364). -/
def Stub.reaches (t : Stub) : Bool := decide (-(2 ^ 20) ≤ t.disp) && decide (t.disp < 2 ^ 20) && t.site % 4 == 0

/-- The word that replaces the site's: a B with the same PG (R363). -/
def Stub.branch (t : Stub) : Half := (encode (.br (t.word.extractLsb' 0 3) (BitVec.ofInt 21 t.disp))).headD 0

/-- Virtual core k of n runs in the context that round robin over the function's cores gives it (R362, log 32). -/
def mapCores (cores : List Nat) (n : Nat) : List (Nat × Nat) :=
  (List.range n).map fun k => (cores.getD (k % cores.length) 0, k / cores.length)

/-- The channels with the ends of static ones fixed. -/
def fixAll (bs : List Byte) (o : Nat) (uses : List (List ChanUse)) (chans : List YChannel) : List (Option YChannel) :=
  chans.zipIdx.map fun e => if fieldAt bs (o + 16 * e.2 + 4) 1 = 0 then e.1.fix e.2 uses else some e.1

/-- The translation of a YIL section, or none (R364); a number of stubs of the function stand already. -/
def translate (v taken : Nat) (bs : List Byte) (code : List (Nat × List Byte)) (cores : List Nat) : Option YProgram :=
  let nvc := fieldAt bs 0 4
  let nch := fieldAt bs 4 4
  let o := 32 + 16 * nvc
  if !zeros bs 8 24 ∨ nvc < 1 ∨ 4096 < nvc ∨ 65536 < nch ∨ 11 * cores.length < nvc ∨ bs.length < o + 16 * nch then none
  else
    let raw := (List.range nch).map fun k => channelAt bs (o + 16 * k)
    let l := listingOf code
    let entries := (List.range nvc).map fun k =>
      (BitVec.ofNat 64 (fieldAt bs (32 + 16 * k) 8), BitVec.ofNat 64 (fieldAt bs (40 + 16 * k) 8))
    let targets := entries.map (·.1.toNat) ++ l.flatMap fun c => c.next.filter fun a => a != c.at_ + 4 * c.len
    let uses := usesOf targets l []
    let own := entries.map fun e =>
      let seen := reach l (3 * l.length + 1) [e.1.toNat] []
      uses.filter fun u => seen.contains u.at_
    let chans := fixAll bs o own (raw.filterMap id)
    let stubs := stubsOf v taken l
    if raw.any Option.isNone ∨ chans.any Option.isNone ∨ !stubs.all Stub.reaches
        ∨ (l.any fun c => (c.instr.map banned).getD false) then none
    else some { stubs := stubs, chans := chans.filterMap id, cores := mapCores cores nvc, entries := entries }

/-- A CODE section with its sites rewritten (R363). -/
def rewritten (p : YProgram) (base : Nat) (bs : List Byte) : List Byte :=
  p.stubs.foldl (fun b t => if base ≤ t.site ∧ t.site + 4 ≤ base + bs.length then patch b (t.site - base) (leBytes 4 t.branch.toNat) else b) bs

/-! ### The load (R354) -/

/-- An object made ready: sections with their addresses and relocated contents, and its bindings. -/
structure Image where
  parts : List (Section × Nat × List Byte)
  binds : List Binding
deriving DecidableEq, Repr

/-- Contents of every section of a type. -/
def partsOf (ps : List (Section × Nat × List Byte)) (t : Nat) : List (Nat × List Byte) :=
  (ps.filter fun p => p.1.type == t).map (·.2)

/-- Relocated contents: each RELOC section patches the section that LINK names (R350, R355). -/
def relocated (ps : List (Section × Nat × List Byte)) : Option (List (Section × Nat × List Byte)) :=
  let addrs := ps.map (·.2.1)
  let tab := ((partsOf ps 6).head?.map (·.2)).getD []
  (ps.filter fun p => p.1.type == 8).foldl (fun o r => match o with
    | none => none
    | some qs => match qs[r.1.link]? with
      | none => none
      | some (x, a, bs) => match relocAll r.2.2 tab addrs a bs with
        | some bs => some (qs.set r.1.link (x, a, bs))
        | none => none) (some ps)

/-- A feature bit that the device lacks is bound (R354, R358). -/
def featureBound (binds : List Binding) (b : Nat) : Bool :=
  Config.featMask.getLsbD b || (binds.any fun e => e.kind == 0 && e.key == b) || Config.libraryHas b

/-- Reasoning cores assigned to a function. -/
def State.coresAssigned (s : State) (v : Nat) : List Nat := (List.range 64).filter fun c => (tget 0 s.assign v).getLsbD c

/-- Where a binding goes in the function's dispatch table (R338, R358). -/
def State.vectorOf (s : State) (v : Nat) (b : Binding) : Nat :=
  let base := ((s.core ((s.coresAssigned v).headD 0)).sysr 0x110).toNat
  base + (if b.kind = 0 then 768 else 256) + 8 * b.key

/-- The monitor as an asker for a function: not checked against CMASK (R275). -/
def State.monitorAsker (s : State) (v : Nat) : Asker := { vf := v, cluster := none, lcap := 15, replica := s.now }

/-- The handler that a vector holds; none where the table cannot be read, an absent page apart (log 36). -/
def State.vectorHolds (s : State) (v : Nat) (b : Binding) : Option Nat :=
  match s.readGlobal (s.monitorAsker v) [] (s.vectorOf v b) 8 with
  | .ok (bs, _) => some (leNat bs)
  | .error (.absent _, _) => some 0
  | .error _ => none

/-- A binding whose vector holds a different handler, or that another entry of the object contradicts (R358). -/
def State.bindingClash (s : State) (v : Nat) (all : List Binding) (b : Binding) : Bool :=
  (match s.vectorHolds v b with
    | some h => h != 0 && h != b.handler
    | none => true)
  || all.any fun o => o.kind == b.kind && o.key == b.key && o.handler != b.handler

/-- The routines of the firmware library that an object's features need (R358). -/
def libraryBinds (bs : List Byte) (binds : List Binding) : List Binding :=
  ((List.range 512).filter fun b => (fieldAt bs 32 64).testBit b && !Config.featMask.getLsbD b && Config.libraryHas b
    && !binds.any fun e => e.kind == 0 && e.key == b).map fun b => { kind := 0, key := b, handler := (Config.libraryAt b).toNat }

/-- Steps 1 to 7 of R354: the step that refuses, or the image. Where a relocation fails, no handler of an EMU section can be judged in
step 4. -/
def State.checkObject (s : State) (v : Nat) (bs : List Byte) (base : Nat) : Except Nat Image :=
  let xs := sectionsOf bs
  if !headerOk bs then .error 1
  else if !(xs.all fun x => x.ok bs.length) then .error 2
  else if !typesOk xs then .error 3
  else
    let addrs := placeAll base xs
    let raw := (xs.zip addrs).map fun e => (e.1, e.2, if e.1.known then e.1.content bs else some [])
    let ps := raw.map fun e => (e.1, e.2.1, e.2.2.getD [])
    let rel := relocated ps
    let qs := rel.getD ps
    let code := partsOf qs 1
    let emu := (partsOf qs 11).flatMap (·.2)
    let binds := bindingsOf emu
    if !((List.range 512).all fun b => !(fieldAt bs 32 64).testBit b || featureBound binds b)
        || rel.isSome && (!(binds.zipIdx.all fun e => bindingOk emu e.2 e.1 (code.map fun c => (c.1, c.2.length)))
          || binds.any (s.bindingClash v binds)) then .error 4
    else if !((partsOf qs 13).all fun e => notesOk s v e.2 e.2.length 0) then .error 5
    else if raw.any fun e => e.2.2.isNone then .error 6
    else if rel.isNone then .error 7
    else .ok { parts := qs, binds := binds ++ libraryBinds bs binds }

/-- R, W and X of a placed section (R351). -/
def Section.perms (x : Section) : Bool × Bool × Bool :=
  if x.type = 1 then (true, false, true) else if x.type = 3 ∨ x.type = 5 then (true, true, false) else (true, false, false)

/-- A page of a range of a function that is absent, or that no leaf maps otherwise. -/
def State.unplaced (s : State) (v : Nat) (va n : Nat) : Option (Nat × Bool) :=
  (cuts va n).findSome? fun e => match s.walk v e.1 with
    | .leaf _ => none
    | .absent => some (e.1 / 65536 * 65536, true)
    | _ => some (e.1 / 65536 * 65536, false)

/-- The section's permissions in a leaf, and in every entry of its group, which must agree in them (R276, R351). -/
def State.permit (s : State) (x : Section) (l : Leaf) : State :=
  let (r, w, e) := x.perms
  (s.groupOf l.w0 l.pa).foldl (fun (t : State) a =>
    t.setBytes (.dram a) (leBytes 8 (setBit (setBit (setBit (s.dramWord a) 4 r) 5 w) 6 e).toNat)) s

/-- One page's piece written by the loader, and its leaf given the section's permissions; lines of code are cleaned (R84, R351). -/
def State.placePiece (s : State) (v : Nat) (x : Section) (va : Nat) (bs : List Byte) : State :=
  match s.walk v va with
  | .leaf l =>
    let pa := leafFrame l.w0 + va % 2 ^ l.log2
    let t := (s.permit x l).setBytes (placeOf pa) bs
    if x.type = 1 then
      let ls := (List.range ((pa % 256 + bs.length + 255) / 256)).map fun k => 256 * (pa / 256 + k)
      (ls.foldl (fun (t : State) a => t.cleanLine a) t).staleLines (ls.map placeOf)
    else t
  | _ => s

/-- Pieces of a section, page by page. -/
def State.placePieces (s : State) (v : Nat) (x : Section) : List (Nat × Nat) → List Byte → State
  | [], _ => s
  | (va, n) :: t, bs => (s.placePiece v x va (bs.take n)).placePieces v x t (bs.drop n)

/-- A section placed (R351): in global memory, or in the memory of every core of the function. -/
def State.placeSection (s : State) (v : Nat) (p : Section × Nat × List Byte) : State :=
  let (x, a, bs) := p
  if x.placed then s.placePieces v x (cuts a bs.length) bs
  else if x.type = 4 then (s.coresAssigned v).foldl (fun (s : State) c => s.setBytes (.core c a) bs) s
  else s

def State.placeParts (s : State) (v : Nat) (ps : List (Section × Nat × List Byte)) : State :=
  ps.foldl (fun (s : State) p => s.placeSection v p) s

/-- Why R293 would refuse a record of a section of n, or the page that its successor list waits for (R354). -/
def State.taskStop (s : State) (v n : Nat) (r : BitVec 1024) : Option (Option Nat) :=
  if s.recordFault v r then some none
  else match s.readGlobal (s.monitorAsker v) [] (recField r 704 64) (4 * recNsucc r) with
    | .error (.absent page, _) => some (some page)
    | .error _ => some none
    | .ok (bs, _) =>
      if (List.range (recNsucc r)).any fun k => decide (n ≤ leNat ((bs.drop (4 * k)).take 4)) then some none else none

/-- The first such stop of a TASKS section. -/
def State.tasksStop (s : State) (v : Nat) (bs : List Byte) : Option (Option Nat) :=
  let n := bs.length / 128
  (List.range n).findSome? fun k => s.taskStop v n (BitVec.ofNat 1024 (fieldAt bs (128 * k) 128))

/-- A binding written into the dispatch table (R358); a routine of the library only where no handler stands. -/
def State.bind (s : State) (v : Nat) (b : Binding) : State :=
  match s.locate (s.monitorAsker v) .hint [] (cuts (s.vectorOf v b) 8) with
  | .ok (ps, _) => if s.vectorHolds v b = some 0 then s.putPieces ps (leBytes 8 b.handler) else s
  | .error _ => s

/-- The load performed: bindings, the translated programs beside those of earlier loads, and success. -/
def State.install (s : State) (v : Nat) (im : Image) (progs : List YProgram) : State :=
  let s := im.binds.foldl (fun (s : State) b => s.bind v b) s
  let s := if progs.isEmpty then s else { s with programs := tput s.programs v ((tget [] s.programs v : List YProgram) ++ progs) }
  { s with loaded := tput s.loaded v 0 }

/-- The translation of every YIL section of an object, one after another (R361, R364): the programs, and the code with the sites of each
rewritten; none where one cannot be translated. A site belongs to the section that is translated first (log 32). -/
def translateAll (v : Nat) (cores : List Nat) : List (Nat × List Byte) → Nat → List (Nat × List Byte) →
    Option (List YProgram × List (Nat × List Byte))
  | [], _, code => some ([], code)
  | y :: ys, taken, code =>
    match translate v taken y.2 code cores with
    | none => none
    | some p =>
      (translateAll v cores ys (taken + p.stubs.length) (code.map fun c => (c.1, rewritten p c.1 c.2))).map fun r => (p :: r.1, r.2)

/-- Stubs of a function that stand. -/
def State.stubsTaken (s : State) (v : Nat) : Nat := ((tget [] s.programs v : List YProgram).map (·.stubs.length)).sum

/-- A refused load (R354): memory that it wrote holds unspecified bytes (log 19). -/
def State.refuseLoad (s : State) (v step : Nat) (bs : List Byte) (base : Nat) : State :=
  let xs := sectionsOf bs
  let ranges := ((xs.zip (placeAll base xs)).filter fun e => e.1.placed).map fun e => (e.2, e.1.msize)
  let t := if step < 6 then s else ranges.foldl (fun (s : State) e =>
    match s.locate (s.monitorAsker v) .hint [] (cuts e.1 e.2) with
    | .ok (ps, _) => { s.putPieces ps ((List.range e.2).map (Config.refusedLoadByte s.fresh)) with fresh := s.fresh + 1 }
    | .error _ => s) s
  { t with loaded := tput t.loaded v step }

/-- The absent page that a load must wait for: of a placed section, or of a vector that it binds. -/
def State.loadWaits (s : State) (v : Nat) (im : Image) : Option Nat :=
  let placed := (im.parts.filter fun p => p.1.placed).findSome? fun p => (s.unplaced v p.2.1 p.2.2.length).bind fun e => if e.2 then some e.1 else none
  match placed with
  | some page => some page
  | none => im.binds.findSome? fun b => match s.readGlobal (s.monitorAsker v) [] (s.vectorOf v b) 8 with
    | .error (.absent page, _) => some page
    | _ => none

/-- Steps 8 and 9 of R354, over the placed object, and the load performed. -/
def State.finishLoad (s : State) (v : Nat) (bs : List Byte) (base : Nat) (im : Image) : State :=
  let t := s.placeParts v im.parts
  let wait (page : Nat) : State := s.postFault ((s.coresAssigned v).headD 0) v page 0 0
  let code := partsOf im.parts 1
  if !((partsOf im.parts 10).all fun e => shapesOk e.2) then s.refuseLoad v 8 bs base
  else match (partsOf im.parts 9).findSome? fun e => t.tasksStop v e.2 with
    | some (some page) => wait page
    | some none => s.refuseLoad v 8 bs base
    | none => match translateAll v (s.coresAssigned v) (partsOf im.parts 12) (s.stubsTaken v) code with
      | none => s.refuseLoad v 9 bs base
      | some (progs, code) =>
        let parts := (im.parts.filter fun q => q.1.type == 1).zip code
        (if progs.isEmpty then t else t.placeParts v (parts.map fun q => (q.1.1, q.1.2.1, q.2.2))).install v im progs

/-- OBJECT_LOAD (R354): the object at a global address of function v; sections without an address are placed from base on. A load
that meets an absent page waits for it, with a fault record; a page that no leaf maps otherwise can take no section (log 36). -/
def State.loadObject (s : State) (v : Nat) (addr len base : Nat) : State :=
  match s.readGlobal (s.monitorAsker v) [] addr len with
  | .error (.absent page, t) => t.postFault ((s.coresAssigned v).headD 0) v page 0 0
  | .error (.wait, t) => t
  | .error (_, t) => { t with loaded := tput t.loaded v 1 }
  | .ok (bs, s) =>
    match s.checkObject v bs base with
    | .error step => s.refuseLoad v step bs base
    | .ok im =>
      match s.loadWaits v im with
      | some page => s.postFault ((s.coresAssigned v).headD 0) v page 1 0
      | none =>
        if (im.parts.filter fun p => p.1.placed).any fun p => (s.unplaced v p.2.1 p.2.2.length).isSome then s.refuseLoad v 2 bs base
        else s.finishLoad v bs base im

/-- OBJECT_LOAD (R354). -/
def execObjectLoad (v : Nat) (addr len base : Word) (s : State) : Host.Outcome State Fault Refusal :=
  .next (s.loadObject v addr.toNat len.toNat base.toNat)

end Sys2Proof.Machine
end

