-- ==== Sys2Proof/Machine/Container.lean ====
section
/-! DEFINITION. Context containers and the hot spare (R365-R367, R374): the fields that a T2 writes, the rules by which a target
restores them, capture into the spare's ring, and takeover. -/

namespace Sys2Proof.Machine

/-! ### Fields (R365-R367) -/

/-- A container field: its head and data. -/
structure CField where
  tag : Nat
  fbit : Nat
  rule : Nat
  esz : Nat
  data : List Byte
deriving DecidableEq, Repr

/-- The 16-byte head and the padded data (R365). -/
def CField.bytes (f : CField) : List Byte :=
  leBytes 2 f.tag ++ leBytes 2 f.fbit ++ [BitVec.ofNat 8 f.rule, BitVec.ofNat 8 f.esz] ++ leBytes 2 0 ++
    leBytes 4 f.data.length ++ leBytes 4 0 ++ padded f.data

/-- Words of a register file of eleven contexts. -/
def perCtx (c : CoreSt) (f : Ctx → List Byte) : List Byte := (List.range 11).flatMap fun k => f (c.ctx k)

/-- A stream descriptor as SBIND reads it (R128), with its binding in the spare bit 63 of its last word, and the cursors (R131). -/
def Stream.bytes (g : Stream) : List Byte :=
  leBytes 8 g.base.toNat ++ leBytes 4 g.stride.toNat ++ leBytes 4 g.count.toNat ++ leBytes 4 0 ++ leBytes 4 g.wrap.toNat ++
    leBytes 8 (g.space.toNat + 4 * g.dir.toNat + (if g.bound then 2 ^ 63 else 0)) ++ leBytes 8 g.rc ++ leBytes 8 g.wc

/-- A generator from its 48 bytes. -/
def Stream.ofBytes (bs : List Byte) : Stream :=
  { streamOf bs with bound := (wordAt bs 24).getLsbD 63, rc := fieldAt bs 32 8, wc := fieldAt bs 40 8 }

def bit (b : Bool) (n : Nat) : Nat := if b then 2 ^ n else 0

/-- The 32 bytes of a context's restart point with its replay state (R117): address, N, p, and i with what else the replay and
the context need (log 37). -/
def restartBytes (x : Ctx) : List Byte :=
  let r := x.restart
  let pc := x.sysr 0x030
  let live := x.run != .free && x.run != .stopped
  let flags := bit live 32 + bit r.ckpt 33 + bit x.mon 34 + bit ((x.sysr 0x100).getLsbD 1) 35 + bit r.replay.isSome 36
  match r.replay with
  | none => leBytes 8 pc.toNat ++ leBytes 16 0 ++ leBytes 8 flags
  | some p =>
    let off := (pc - p.start).toNat / 4
    leBytes 8 pc.toNat ++ leBytes 8 p.count ++ leBytes 8 p.p ++
      leBytes 8 (flags + bit p.steps.isSome 37 + p.i + 2 ^ 8 * (p.n - 1) + 2 ^ 16 * off)

/-- Data of the fields of R367, by TAG. -/
def fieldData (c : CoreSt) (lbase lsize : Nat) (mem : List Byte) (tag : Nat) : List Byte :=
  match tag with
  | 0x0001 => perCtx c fun x => (List.range 32).flatMap fun r => leBytes 8 (x.getG r).toNat
  | 0x0002 => perCtx c fun x => (List.range 8).flatMap fun r => leBytes 16 (x.getP r).toNat
  | 0x0003 => perCtx c fun x => (List.range 32).flatMap fun r => leBytes 128 (x.getV r).toNat
  | 0x0004 => perCtx c fun x => (List.range 8).flatMap fun r => leBytes 8 (x.getA r).toNat
  | 0x0005 => perCtx c fun x => (List.range 4).flatMap fun j => (tget {} x.streams j).bytes
  | 0x0006 => perCtx c fun x => leBytes 8 (x.sysr 0x010).toNat ++ leBytes 8 (x.sysr 0x011).toNat
  | 0x0007 => perCtx c restartBytes
  | 0x0010 => (List.range 8).flatMap fun t => leBytes 4096 (c.tile t).toNat ++ leBytes 8 (c.sysr (0x020 + t)).toNat
  | 0x0011 =>
    let rows := (List.range 256).filter fun r => tget false c.accRows r
    leBytes 32 ((rows.map fun r => 2 ^ r).sum) ++
      rows.flatMap fun r => (List.range 128).flatMap fun k => leBytes 4 (c.cell r k).toNat
  | 0x0012 => ((List.range 256).flatMap fun r => leBytes 16 (c.getX r).toNat) ++ leBytes 8 (c.sysr 0x018).toNat
  | 0x0013 => leBytes 8 (c.sysr 0x031).toNat ++ leBytes 8 (c.sysr 0x032).toNat
  | 0x0014 =>
    ((List.range 4).flatMap fun l => leBytes 8 (tget 0 c.arr l)) ++ ((List.range 4).flatMap fun l => leBytes 8 (tget 0 c.done l)) ++
      leBytes 8 (bit c.xph 0 + ((List.range 4).map fun l => bit (tget false c.owed l) (4 + l)).sum)
  | 0x0015 => [0x001, 0x003, 0x005, 0x006, 0x007].flatMap fun r => leBytes 8 (c.sysr r).toNat
  | 0x0016 => leBytes 8 (lbase + 2 ^ 32 * lsize) ++ mem
  | _ => []

/-- TAG, FBIT and RULE of the fields that a T2 writes, in order (R367). -/
def fieldTable : List (Nat × Nat × Nat) :=
  [(0x0001, 0xFFFF, 0), (0x0002, 0xFFFF, 2), (0x0003, 0xFFFF, 2), (0x0004, 0xFFFF, 1), (0x0005, 0xFFFF, 0), (0x0006, 7, 2),
   (0x0007, 0xFFFF, 0), (0x0010, 0xFFFF, 2), (0x0011, 0xFFFF, 2), (0x0012, 3, 2), (0x0013, 0xFFFF, 0), (0x0014, 0xFFFF, 0),
   (0x0015, 0xFFFF, 0), (0x0016, 0xFFFF, 0), (0x0020, 0xFFFF, 3), (0x0021, 6, 3)]

/-- The container of a core's task (R365, R367). -/
def containerOf (c : CoreSt) (k : SavedCore) (now : Nat) : List Byte :=
  let lsize := k.mem.length / 64
  let fs := fieldTable.map fun e =>
    ({ tag := e.1, fbit := e.2.1, rule := e.2.2, esz := if e.1 = 4 then 8 else 0,
       data := fieldData c (k.lbase / 64) lsize k.mem e.1 } : CField)
  let body := fs.flatMap CField.bytes
  leBytes 4 0x00434346 ++ leBytes 4 fs.length ++ leBytes 8 (128 + body.length) ++ leBytes 8 now ++ List.replicate 40 0 ++
    leBytes 64 Config.featMask.toNat ++ body

/-! ### Reading a container (R366) -/

/-- Fields from an offset on, n of them; none where they do not lie in the container. -/
def parseFields (bs : List Byte) : Nat → Nat → Option (List CField)
  | 0, _ => some []
  | n + 1, o =>
    let len := fieldAt bs (o + 8) 4
    if bs.length < o + 16 + len then none
    else
      let f : CField := { tag := fieldAt bs o 2, fbit := fieldAt bs (o + 2) 2, rule := fieldAt bs (o + 4) 1 % 8,
                          esz := fieldAt bs (o + 5) 1, data := (bs.drop (o + 16)).take len }
      if fieldAt bs (o + 4) 1 ≥ 8 ∨ !zeros bs (o + 6) 2 ∨ !zeros bs (o + 12) 4 then none
      else (parseFields bs n (o + 16 + (len + 15) / 16 * 16)).map fun t => f :: t

/-- The fields of a container; none where its head is malformed. -/
def parseContainer (bs : List Byte) : Option (List CField) :=
  if bs.length < 128 ∨ fieldAt bs 0 4 ≠ 0x00434346 ∨ !zeros bs 24 40 then none
  else parseFields bs (fieldAt bs 4 4) 128

/-- The length that a T2 expects for a field (R367); none for a TAG that it does not know. -/
def expectedLen (f : CField) : Option Nat :=
  match f.tag with
  | 0x0001 => some 2816
  | 0x0002 => some 1408
  | 0x0003 => some 45056
  | 0x0004 => some 704
  | 0x0005 => some 2112
  | 0x0006 => some 176
  | 0x0007 => some 352
  | 0x0010 => some 32832
  | 0x0011 => some (32 + 512 * ((List.range 256).filter fun r => (fieldAt f.data 0 32).testBit r).length)
  | 0x0012 => some 4104
  | 0x0013 => some 16
  | 0x0014 => some 72
  | 0x0015 => some 40
  | 0x0016 => some (8 + 64 * fieldAt f.data 4 4)
  | 0x0020 => some 0
  | 0x0021 => some 0
  | _ => none

/-- What the target makes of a field (R366). -/
inductive Restored where
  | reject
  | dropped
  | bytes (data : List Byte)
deriving DecidableEq, Repr

/-- Elements of esz bytes zero-extended to width bytes, n of them. -/
def widen (bs : List Byte) (esz width : Nat) : Nat → List Byte
  | 0 => []
  | n + 1 => bs.take esz ++ List.replicate (width - esz) 0 ++ widen (bs.drop esz) esz width n

/-- The rule of a field applied (R366). -/
def CField.restore (f : CField) : Restored :=
  let len := f.data.length
  let has := f.fbit == 0xFFFF || Config.featMask.getLsbD f.fbit
  let dropZero : Restored := if f.data.all (· == 0) then .dropped else .reject
  match expectedLen f with
  | none => if f.rule = 3 then .dropped else .reject
  | some m =>
    match f.rule with
    | 0 => if !has then dropZero else if m = len then .bytes f.data else .reject
    | 1 =>
      if !has then dropZero else if m = len then .bytes f.data
      else if m < len ∨ f.esz = 0 ∨ len % f.esz ≠ 0 ∨ len = 0 then .reject
      else .bytes (widen f.data f.esz (m / (len / f.esz)) (len / f.esz))
    | 2 =>
      if !has then dropZero else if len ≤ m then .bytes (f.data ++ List.replicate (m - len) 0)
      else if (f.data.drop m).all (· == 0) then .bytes (f.data.take m) else .reject
    | 3 => .dropped
    | 4 => if has && m == len then .bytes f.data else .reject
    | _ => .reject

/-- The data restored for a TAG: that of its field, or none where it is missing or dropped. -/
def dataOf (fs : List CField) (tag : Nat) : Option (List Byte) :=
  match fs.find? fun f => f.tag == tag with
  | some f => match f.restore with
    | .bytes b => some b
    | _ => none
  | none => none

/-- The container is accepted: no field rejects it, and TAG 0x0007 is there (R366). -/
def containerOk (fs : List CField) : Bool := fs.all (fun f => f.restore != .reject) && (dataOf fs 0x0007).isSome

/-! ### The target (R366, R374) -/

/-- Word k of a list of doublewords. -/
def dword (bs : List Byte) (k : Nat) : Word := BitVec.ofNat 64 (fieldAt bs (8 * k) 8)

/-- The words of instructions read one after another at an address of a function, n of them. -/
def State.codeAt (s : State) (v : Nat) (va : Nat) : Nat → Except (GStop × State) (List (List Half))
  | 0 => .ok []
  | n + 1 => do
    let (w, _) ← s.readGlobal (s.monitorAsker v) [] va 4
    let len := Nat.max 1 (wordCount (BitVec.ofNat 32 (leNat w)))
    let (bs, _) ← s.readGlobal (s.monitorAsker v) [] va (4 * len)
    let t ← s.codeAt v (va + 4 * len) n
    .ok (codeWords bs :: t)

/-- The replay state of a restart point from its 32 bytes: the block's words and steps are read again where the code lies. -/
def State.replayFrom (s : State) (v : Nat) (bs : List Byte) : Except (GStop × State) (Option Replay) :=
  let w := dword bs 3
  if !w.getLsbD 36 then .ok none
  else do
    let start := dword bs 0 - BitVec.ofNat 64 (4 * bits w 16 8)
    let n := bits w 8 5 + 1
    let p := fieldAt bs 16 8
    let i := bits w 0 8
    let words ← s.codeAt v start.toNat (if p = 0 then i else n)
    let steps ← if w.getLsbD 37 then do
        let (e, _) ← s.readGlobal (s.monitorAsker v) [] (start.toNat - 8) 8
        .ok (some (RepSteps.ofWords (BitVec.ofNat 32 (fieldAt e 0 4)) (BitVec.ofNat 32 (fieldAt e 4 4))))
      else .ok none
    .ok (some { start := start, n := n, count := fieldAt bs 8 8, p := p, i := i, steps := steps, words := words })

/-- The registers of context k from the restored fields. -/
def ctxFrom (fs : List CField) (k : Nat) (replay : Option Replay) : Ctx :=
  let d (tag n : Nat) : List Byte := (((dataOf fs tag).getD []).drop (n * k)).take n
  let st := dword (d 0x0007 32) 3
  let x : Ctx := {}
  let x := (List.range 32).foldl (fun x r => x.setG r (dword (d 0x0001 256) r)) x
  let x := (List.range 8).foldl (fun x r => x.setP r (BitVec.ofNat 128 (fieldAt (d 0x0002 128) (16 * r) 16))) x
  let x := (List.range 32).foldl (fun x r => x.setV r (BitVec.ofNat 1024 (fieldAt (d 0x0003 4096) (128 * r) 128))) x
  let x := (List.range 8).foldl (fun x r => x.setA r (dword (d 0x0004 64) r)) x
  let x := { x with streams := (List.range 4).foldl (fun t j => tput t j (Stream.ofBytes ((d 0x0005 192).drop (48 * j)))) [] }
  let x := ((x.setSysr 0x010 (dword (d 0x0006 16) 0)).setSysr 0x011 (dword (d 0x0006 16) 1)).setSysr 0x100
    (BitVec.ofNat 64 (bits st 34 1 + 2 * bits st 35 1))
  let pc := dword (d 0x0007 32) 0
  let x := { (x.setReplay replay).record pc (st.getLsbD 33) 0 with pc := pc }
  { x with run := if st.getLsbD 32 then .running else .free }

/-- A core from the restored fields, each that the container lacks at its reset value (R366); contexts are given with their replay
states. -/
def coreFrom (c : CoreSt) (fs : List CField) (replays : List (Option Replay)) : CoreSt :=
  let d (tag : Nat) : List Byte := (dataOf fs tag).getD []
  let c := { c with ctxs := (List.range 11).map fun k => (k, ctxFrom fs k ((replays[k]?).join)) }
  let c := { c with tiles := [], tileBad := [], sys := terase c.sys 0x020 0x028 }
  let c := if (d 0x0010).isEmpty then c else (List.range 8).foldl (fun (c : CoreSt) t =>
    (c.setTile t (BitVec.ofNat 32768 (fieldAt (d 0x0010) (4104 * t) 4096))).setSysr (0x020 + t)
      (BitVec.ofNat 64 (fieldAt (d 0x0010) (4104 * t + 4096) 8))) c
  let rows := (List.range 256).filter fun r => (fieldAt (d 0x0011) 0 32).testBit r
  let c := rows.zipIdx.foldl (fun (c : CoreSt) e => (List.range 128).foldl (fun (c : CoreSt) k =>
    c.setCell e.1 k (BitVec.ofNat 32 (fieldAt (d 0x0011) (32 + 512 * e.2 + 4 * k) 4))) c) c
  let c := (List.range 256).foldl (fun (c : CoreSt) r => c.setX r (BitVec.ofNat 128 (fieldAt (d 0x0012) (16 * r) 16))) c
  let c := ((c.setSysr 0x018 (dword ((d 0x0012).drop 4096) 0)).setSysr 0x031 (dword (d 0x0013) 0)).setSysr 0x032 (dword (d 0x0013) 1)
  let c := [0x001, 0x003, 0x005, 0x006, 0x007].zipIdx.foldl (fun (c : CoreSt) e => c.setSysr e.1 (dword (d 0x0015) e.2)) c
  let lbase := fieldAt (d 0x0016) 0 4
  let lsize := fieldAt (d 0x0016) 4 4
  let x := dword (d 0x0014) 8
  let v : BitVec 1024 := BitVec.ofNat 1024 ((c.sysr 0x001).toNat * 2 ^ 64 + lbase * 2 ^ 768 + lsize * 2 ^ 800)
  { c with
    mem := twrites 0 c.mem (64 * lbase) ((d 0x0016).drop 8),
    arr := (List.range 4).foldl (fun t l => tset 0 t l (fieldAt (d 0x0014) (8 * l) 8)) [],
    done := (List.range 4).foldl (fun t l => tset 0 t l (fieldAt (d 0x0014) (32 + 8 * l) 8)) [],
    owed := (List.range 4).foldl (fun t l => tset false t l (x.getLsbD (4 + l))) [], xph := x.getLsbD 0,
    taskOn := true, inStep := some ((c.sysr 0x003).toNat % 4, bits (c.sysr 0x003) 8 6),
    share := [{ launch := 2 ^ 64, index := 0, bits := v, vf := c.vf }] }

/-- Replay states of the eleven contexts. -/
def State.replaysFrom (s : State) (v : Nat) (bs : List Byte) : Nat → Except (GStop × State) (List (Option Replay))
  | 0 => .ok []
  | n + 1 => do
    let r ← s.replayFrom v (bs.take 32)
    let t ← s.replaysFrom v (bs.drop 32) n
    .ok (r :: t)

/-- A container restored on a core: rejected, it leaves the target unchanged (R366); an absent code page is recorded and waited
for, and none is the answer. -/
def State.restoreContainer (s : State) (core : Nat) (bs : List Byte) : Except State State :=
  match parseContainer bs with
  | none => .ok s
  | some fs =>
    if !containerOk fs || !s.coreFree core then .ok s
    else match s.replaysFrom (s.core core).vf ((dataOf fs 0x0007).getD []) 11 with
      | .error (.absent page, t) => .error (t.postFault core (s.core core).vf page 2 0)
      | .error _ => .ok s
      | .ok rs =>
        let t := s.setCore core (coreFrom (s.core core) fs rs)
        .ok ({ t with supersteps := match (t.core core).inStep with
          | some d => if t.supersteps.contains d then t.supersteps else t.supersteps ++ [d]
          | none => t.supersteps }.reloadCkpts core)

/-! ### Capture and takeover (R374) -/

/-- The monitor of this device builds the container of the core's task, which may be saved: HAMODE[3] is 0 (R365, R374). -/
def CoreSt.captured (c : CoreSt) : Bool :=
  !(c.sysr 0x112).getLsbD 3 && (match c.running with
    | some p => recSave p.bits != 0
    | none => false)

/-- The domains of a set: supersteps with a running task that may be saved, not themselves being pre-empted. -/
def State.captureDomains (s : State) : List (Nat × Nat) :=
  s.supersteps.filter fun d => (s.preemptOf d).isNone && (domCores d.1 d.2).any fun c => (s.core c).captured

/-- Steps 1 to 3 of R309 are done for a core: drained, with no engine command left (R367, R374). -/
def State.capturable (s : State) (core : Nat) : Bool :=
  s.drained core && (s.core core).seizPhase == .idle
    && !((List.range 16).flatMap clusterEngines).any fun e => (s.chan e.1 e.2).queue.any fun cmd => cmd.core == core

/-- Domains stopped for the set in progress. -/
def State.captures (s : State) : List (Nat × Nat) := (s.preempts.filter fun p => !p.save).map fun p => (p.lvl, p.dom)

/-- The contexts of a captured core go on at their restart points (R310, R374). -/
def State.goOn (s : State) (core : Nat) : State :=
  let cur := s.cur
  let t := s.setCore core { s.core core with preempting := false }
  let t := ((t.core core).live core).foldl (fun (s : State) k => (s.at core k).restore) t
  { t with cur := cur }

/-- The set of a primary: containers of its stopped tasks, each after the number of its core; the domains go on at once. -/
def State.captureSet (s : State) : List Byte × State :=
  let all := s.captures.flatMap fun d => domCores d.1 d.2
  let s := all.foldl State.speDrain s
  let cs := all.filter fun c => (s.core c).captured
  (cs.flatMap fun c => leBytes 16 c ++ (let k := s.saveCore c
    containerOf { s.core c with ctxs := k.ctxs } k s.now),
   all.foldl State.goOn { s with preempts := s.preempts.filter fun p => p.save })

/-- The set written from byte 4,096 of the ring on, then its number and length (R374, log 34). -/
def State.writeSet (s : State) : State :=
  let (bs, t) := s.captureSet
  let n := bits s.peerstat 0 63 + 1
  let base := s.cring.toNat
  if s.cringlen.toNat < 4096 + bs.length then t
  else
    let u := (t.setBytes (.peer (base + 4096)) bs).setBytes (.peer (base + 8)) (leBytes 8 n ++ leBytes 8 bs.length)
    { u with peerstat := setBit (BitVec.ofNat 64 n) 63 (s.peerstat.getLsbD 63) }

/-- The set in progress is written once every domain of it is drained. -/
def State.finishCapture (s : State) : State :=
  if s.captures.all fun d => (domCores d.1 d.2).all s.capturable then s.writeSet else s

/-- The domains of a set stop (R374), where every one of them can; a set without a domain is written at once. -/
def State.beginCapture (s : State) : State :=
  let ds := s.captureDomains
  if !ds.all s.stoppable then s
  else
    let t := ds.foldl (fun (t : State) d => t.beginPreempt d false) { s with captured := s.now }
    if ds.isEmpty then t.writeSet else t

/-- CONTAINER_CAPTURE (R374): a set that is due begins, or the one in progress ends. -/
def execContainerCapture (s : State) : Host.Outcome State Fault Refusal :=
  .next (if !s.captures.isEmpty then s.finishCapture
    else if s.peerIs false && s.cperiod != 0 && decide (s.captured + s.cperiod.toNat * 1000000 ≤ s.now) then s.beginCapture
    else s)

/-- Containers of a set restored one after another, by at most fuel of them. -/
def State.restoreSet (s : State) (bs : List Byte) : Nat → Except State State
  | 0 => .ok s
  | n + 1 =>
    let total := fieldAt bs 24 8
    if bs.length < 16 + 128 ∨ bs.length < 16 + total ∨ total < 128 then .ok s
    else do
      let s ← s.restoreContainer (fieldAt bs 0 8) ((bs.drop 16).take total)
      s.restoreSet (bs.drop (16 + total)) n

/-- SPARE_TAKEOVER (R374): the last complete set restored, each task at its restart point. -/
def execSpareTakeover (s : State) : Host.Outcome State Fault Refusal :=
  let base := s.cring.toNat
  let n := s.numAt (.dram (base + 8)) 8
  let bs := s.bytesAt (.dram (base + 4096)) (s.numAt (.dram (base + 16)) 8)
  let t := match s.restoreSet bs 64 with
    | .ok t => { t with peerstat := setBit (BitVec.ofNat 64 n) 63 (s.peerstat.getLsbD 63) }
    | .error t => t
  s.event (s.peerIs true && n != 0) t

end Sys2Proof.Machine
end

