-- ==== Sys2Proof/Machine/Control.lean ====
section
/-! DEFINITION. Control flow: branches, calls, NOP and REP (R110-R117), and the all-zero word (R81). -/

namespace Sys2Proof.Machine

/-- The target of B and BL: pc + sext(DISP21) * 4 (R110). -/
def branchTarget (pc : Word) (disp : BitVec 21) : Word := pc + disp.signExtend 64 * 4

/-- A jump to t, writing the link where there is one, after the checks of R83. -/
def jumpTo (s : State) (t : Word) (link : Option Word) : Except Stop State :=
  match targetStop t with
  | some e => .error e
  | none => match link with
    | some l => .ok ((s.setG 31 l).jump t)
    | none => .ok (s.jump t)

/-- B (R110). -/
def execBr (g : Reg3) (disp : BitVec 21) (s : State) : Host.Outcome State Fault Refusal :=
  s.guarded g 1 (jumpTo s (branchTarget s.my.pc disp) none)

/-- BL (R110). -/
def execBl (g : Reg3) (disp : BitVec 21) (s : State) : Host.Outcome State Fault Refusal :=
  s.guarded g 1 (jumpTo s (branchTarget s.my.pc disp) (some (s.my.pc + 4)))

/-- JR (R111). -/
def execJr (a : Reg5) (g : Reg3) (s : State) : Host.Outcome State Fault Refusal := s.guarded g 1 (jumpTo s (s.getG a) none)

/-- JLR: the target is read before the link is written (R111). -/
def execJlr (a : Reg5) (g : Reg3) (s : State) : Host.Outcome State Fault Refusal :=
  s.guarded g 1 (jumpTo s (s.getG a) (some (s.my.pc + 4)))

/-- RET (R111). -/
def execRet (g : Reg3) (s : State) : Host.Outcome State Fault Refusal := s.guarded g 1 (jumpTo s (s.getG 31) none)

/-- NOP (R112). -/
def execNop (s : State) : Host.Outcome State Fault Refusal := .next (s.advance 1)

/-- The all-zero word is ILLEGAL_OPCODE at step 2 (R81). -/
def execIllegal (s : State) : Host.Outcome State Fault Refusal :=
  s.run (.error (.trap cIllegalOpcode 0 (decodeInfo 0 false false 0)))

/-- The pass count of REP (R113). -/
def State.passes (s : State) : Count → Nat
  | .reg r => (s.getG r).toNat
  | .imm v => v.toNat

/-- REP captures the NM1 + 1 instructions that follow and replays them N times (R113). -/
def startReplay (s : State) (nm1 : Reg5) (n : Count) (steps : Option RepSteps) : State :=
  let t := s.advance (match steps with
    | none => 1
    | some _ => 3)
  t.setMy (t.my.setReplay (some { start := t.my.pc, n := nm1.toNat + 1, count := s.passes n, steps := steps }))

/-- REP without steps (R113). -/
def execRep (nm1 : Reg5) (n : Count) (s : State) : Host.Outcome State Fault Refusal := .next (startReplay s nm1 n none)

/-- REP with steps (R113, R114). -/
def execRepStepped (nm1 : Reg5) (n : Count) (st : RepSteps) (s : State) : Host.Outcome State Fault Refusal :=
  .next (startReplay s nm1 n (some st))

end Sys2Proof.Machine
end

