-- ==== Sys2Proof/Machine/Dispatch.lean ====
section
/-! DEFINITION. What each row of the opcode table does: one arm and one meaning for each. -/

namespace Sys2Proof.Machine

def exec (i : Instr) (s : State) : Host.Outcome State Fault Refusal :=
  match i with
  | .add d a b g => Sys2Proof.Machine.execAdd d a b g s
  | .sub d a b g => Sys2Proof.Machine.execSub d a b g s
  | .mul d a b g => Sys2Proof.Machine.execMul d a b g s
  | .mulh d a b g => Sys2Proof.Machine.execMulh d a b g s
  | .mulhu d a b g => Sys2Proof.Machine.execMulhu d a b g s
  | .div d a b g => Sys2Proof.Machine.execDiv d a b g s
  | .divu d a b g => Sys2Proof.Machine.execDivu d a b g s
  | .rem d a b g => Sys2Proof.Machine.execRem d a b g s
  | .remu d a b g => Sys2Proof.Machine.execRemu d a b g s
  | .and d a b g => Sys2Proof.Machine.execAnd d a b g s
  | .or d a b g => Sys2Proof.Machine.execOr d a b g s
  | .xor d a b g => Sys2Proof.Machine.execXor d a b g s
  | .andn d a b g => Sys2Proof.Machine.execAndn d a b g s
  | .orn d a b g => Sys2Proof.Machine.execOrn d a b g s
  | .shl d a b g => Sys2Proof.Machine.execShl d a b g s
  | .shr d a b g => Sys2Proof.Machine.execShr d a b g s
  | .sra d a b g => Sys2Proof.Machine.execSra d a b g s
  | .rotl d a b g => Sys2Proof.Machine.execRotl d a b g s
  | .min d a b g => Sys2Proof.Machine.execMin d a b g s
  | .max d a b g => Sys2Proof.Machine.execMax d a b g s
  | .minu d a b g => Sys2Proof.Machine.execMinu d a b g s
  | .maxu d a b g => Sys2Proof.Machine.execMaxu d a b g s
  | .clz d a g => Sys2Proof.Machine.execClz d a g s
  | .ctz d a g => Sys2Proof.Machine.execCtz d a g s
  | .popc d a g => Sys2Proof.Machine.execPopc d a g s
  | .brev d a g => Sys2Proof.Machine.execBrev d a g s
  | .bswap d a g => Sys2Proof.Machine.execBswap d a g s
  | .sextB d a g => Sys2Proof.Machine.execSextB d a g s
  | .sextH d a g => Sys2Proof.Machine.execSextH d a g s
  | .sextW d a g => Sys2Proof.Machine.execSextW d a g s
  | .zextB d a g => Sys2Proof.Machine.execZextB d a g s
  | .zextH d a g => Sys2Proof.Machine.execZextH d a g s
  | .zextW d a g => Sys2Proof.Machine.execZextW d a g s
  | .mov d a g => Sys2Proof.Machine.execMov d a g s
  | .sel d a b ps g => Sys2Proof.Machine.execSel d a b ps g s
  | .addi d a ii => Sys2Proof.Machine.execAddi d a ii s
  | .andi d a ii => Sys2Proof.Machine.execAndi d a ii s
  | .ori d a ii => Sys2Proof.Machine.execOri d a ii s
  | .xori d a ii => Sys2Proof.Machine.execXori d a ii s
  | .shli d a n => Sys2Proof.Machine.execShli d a n s
  | .shri d a n => Sys2Proof.Machine.execShri d a n s
  | .srai d a n => Sys2Proof.Machine.execSrai d a n s
  | .rotli d a n => Sys2Proof.Machine.execRotli d a n s
  | .movi d ii => Sys2Proof.Machine.execMovi d ii s
  | .moviLit d v => Sys2Proof.Machine.execMoviLit d v s
  | .cmpEq d a b g => Sys2Proof.Machine.execCmpEq d a b g s
  | .cmpNe d a b g => Sys2Proof.Machine.execCmpNe d a b g s
  | .cmpLt d a b g => Sys2Proof.Machine.execCmpLt d a b g s
  | .cmpLe d a b g => Sys2Proof.Machine.execCmpLe d a b g s
  | .cmpLtu d a b g => Sys2Proof.Machine.execCmpLtu d a b g s
  | .cmpLeu d a b g => Sys2Proof.Machine.execCmpLeu d a b g s
  | .cmpiEq d a ii => Sys2Proof.Machine.execCmpiEq d a ii s
  | .cmpiNe d a ii => Sys2Proof.Machine.execCmpiNe d a ii s
  | .cmpiLt d a ii => Sys2Proof.Machine.execCmpiLt d a ii s
  | .cmpiLe d a ii => Sys2Proof.Machine.execCmpiLe d a ii s
  | .cmpiLtu d a ii => Sys2Proof.Machine.execCmpiLtu d a ii s
  | .cmpiLeu d a ii => Sys2Proof.Machine.execCmpiLeu d a ii s
  | .pand d a b g => Sys2Proof.Machine.execPand d a b g s
  | .por d a b g => Sys2Proof.Machine.execPor d a b g s
  | .pxor d a b g => Sys2Proof.Machine.execPxor d a b g s
  | .pnot d a g => Sys2Proof.Machine.execPnot d a g s
  | .pmov d a g => Sys2Proof.Machine.execPmov d a g s
  | .aput d a g => Sys2Proof.Machine.execAput d a g s
  | .aget d a g => Sys2Proof.Machine.execAget d a g s
  | .ainc d b g => Sys2Proof.Machine.execAinc d b g s
  | .acfg d a b g => Sys2Proof.Machine.execAcfg d a b g s
  | .br g disp => Sys2Proof.Machine.execBr g disp s
  | .bl g disp => Sys2Proof.Machine.execBl g disp s
  | .jr a g => Sys2Proof.Machine.execJr a g s
  | .jlr a g => Sys2Proof.Machine.execJlr a g s
  | .ret g => Sys2Proof.Machine.execRet g s
  | .rep nm1 n => Sys2Proof.Machine.execRep nm1 n s
  | .repStepped nm1 n sp => Sys2Proof.Machine.execRepStepped nm1 n sp s
  | .nop => Sys2Proof.Machine.execNop s
  | .illegal => Sys2Proof.Machine.execIllegal s
  | .ld d a loc z ii g => Sys2Proof.Machine.execLd d a loc z ii g s
  | .ldExt d a loc z ii o g => Sys2Proof.Machine.execLdExt d a loc z ii o g s
  | .lda d a z ii o g => Sys2Proof.Machine.execLda d a z ii o g s
  | .ldS d a loc z ii g => Sys2Proof.Machine.execLdS d a loc z ii g s
  | .ldSExt d a loc z ii o g => Sys2Proof.Machine.execLdSExt d a loc z ii o g s
  | .ldaS d a z ii o g => Sys2Proof.Machine.execLdaS d a z ii o g s
  | .st d a loc z ii g => Sys2Proof.Machine.execSt d a loc z ii g s
  | .stExt d a loc z ii o g => Sys2Proof.Machine.execStExt d a loc z ii o g s
  | .sta d a z ii o g => Sys2Proof.Machine.execSta d a z ii o g s
  | .vld d a sp off x g => Sys2Proof.Machine.execVld d a sp off x g s
  | .vst d a sp off x g => Sys2Proof.Machine.execVst d a sp off x g s
  | .vlds d a b sp w off x g => Sys2Proof.Machine.execVlds d a b sp w off x g s
  | .vgth d a b sp w off x g => Sys2Proof.Machine.execVgth d a b sp w off x g s
  | .vsct d a b sp w off x g => Sys2Proof.Machine.execVsct d a b sp w off x g s
  | .amo d a b op o w => Sys2Proof.Machine.execAmo d a b op o w s
  | .cas d a b f o w => Sys2Proof.Machine.execCas d a b f o w s
  | .amoLocal d a b op o w p => Sys2Proof.Machine.execAmoLocal d a b op o w p s
  | .casLocal d a b f o w p => Sys2Proof.Machine.execCasLocal d a b f o w p s
  | .amof d a b op o w => Sys2Proof.Machine.execAmof d a b op o w s
  | .fence o sp g => Sys2Proof.Machine.execFence o sp g s
  | .acq a g => Sys2Proof.Machine.execAcq a g s
  | .rel a g => Sys2Proof.Machine.execRel a g s
  | .pref a off g => Sys2Proof.Machine.execPref a off g s
  | .clean a off g => Sys2Proof.Machine.execClean a off g s
  | .czero a off g => Sys2Proof.Machine.execCzero a off g s
  | .sbind d a g => Sys2Proof.Machine.execSbind d a g s
  | .sfree d g => Sys2Proof.Machine.execSfree d g s
  | .vadd m d a b x g => Sys2Proof.Machine.execVadd m d a b x g s
  | .vsub m d a b x g => Sys2Proof.Machine.execVsub m d a b x g s
  | .vmul m d a b x g => Sys2Proof.Machine.execVmul m d a b x g s
  | .vfma m d a b x g => Sys2Proof.Machine.execVfma m d a b x g s
  | .vfms m d a b x g => Sys2Proof.Machine.execVfms m d a b x g s
  | .vfnma m d a b x g => Sys2Proof.Machine.execVfnma m d a b x g s
  | .vmin m d a b x g => Sys2Proof.Machine.execVmin m d a b x g s
  | .vmax m d a b x g => Sys2Proof.Machine.execVmax m d a b x g s
  | .vabs m d a x g => Sys2Proof.Machine.execVabs m d a x g s
  | .vneg m d a x g => Sys2Proof.Machine.execVneg m d a x g s
  | .vdiv m d a b x g => Sys2Proof.Machine.execVdiv m d a b x g s
  | .vsqrt m d a x g => Sys2Proof.Machine.execVsqrt m d a x g s
  | .vrcp m d a x g => Sys2Proof.Machine.execVrcp m d a x g s
  | .vrsq m d a x g => Sys2Proof.Machine.execVrsq m d a x g s
  | .vexp m d a x g => Sys2Proof.Machine.execVexp m d a x g s
  | .vlog m d a x g => Sys2Proof.Machine.execVlog m d a x g s
  | .vsig m d a x g => Sys2Proof.Machine.execVsig m d a x g s
  | .vtanh m d a x g => Sys2Proof.Machine.execVtanh m d a x g s
  | .viadd m d a b x g => Sys2Proof.Machine.execViadd m d a b x g s
  | .visub m d a b x g => Sys2Proof.Machine.execVisub m d a b x g s
  | .vimul m d a b x g => Sys2Proof.Machine.execVimul m d a b x g s
  | .vimin m d a b x g => Sys2Proof.Machine.execVimin m d a b x g s
  | .vimax m d a b x g => Sys2Proof.Machine.execVimax m d a b x g s
  | .vshl m d a b x g => Sys2Proof.Machine.execVshl m d a b x g s
  | .vshr m d a b x g => Sys2Proof.Machine.execVshr m d a b x g s
  | .vsra m d a b x g => Sys2Proof.Machine.execVsra m d a b x g s
  | .vand m d a b x g => Sys2Proof.Machine.execVand m d a b x g s
  | .vor m d a b x g => Sys2Proof.Machine.execVor m d a b x g s
  | .vxor m d a b x g => Sys2Proof.Machine.execVxor m d a b x g s
  | .vnot m d a x g => Sys2Proof.Machine.execVnot m d a x g s
  | .vcmp c f d a b x g => Sys2Proof.Machine.execVcmp c f d a b x g s
  | .vicmp c f d a b x g => Sys2Proof.Machine.execVicmp c f d a b x g s
  | .vmov e d a x g => Sys2Proof.Machine.execVmov e d a x g s
  | .vbcast e d a x g => Sys2Proof.Machine.execVbcast e d a x g s
  | .vext e d a b x g => Sys2Proof.Machine.execVext e d a b x g s
  | .vins e d a b x g => Sys2Proof.Machine.execVins e d a b x g s
  | .vperm e d a b x g => Sys2Proof.Machine.execVperm e d a b x g s
  | .vslide e d a b x g => Sys2Proof.Machine.execVslide e d a b x g s
  | .vzip e d a b x g => Sys2Proof.Machine.execVzip e d a b x g s
  | .vunzip e d a b x g => Sys2Proof.Machine.execVunzip e d a b x g s
  | .vcomp e d a x g => Sys2Proof.Machine.execVcomp e d a x g s
  | .vexpd e d a x g => Sys2Proof.Machine.execVexpd e d a x g s
  | .viota e d x g => Sys2Proof.Machine.execViota e d x g s
  | .vsel e d a b x g => Sys2Proof.Machine.execVsel e d a b x g s
  | .vcvt df sf sat d a x g => Sys2Proof.Machine.execVcvt df sf sat d a x g s
  | .vredAdd f d a x g => Sys2Proof.Machine.execVredAdd f d a x g s
  | .vredMin f d a x g => Sys2Proof.Machine.execVredMin f d a x g s
  | .vredMax f d a x g => Sys2Proof.Machine.execVredMax f d a x g s
  | .vredAnd f d a x g => Sys2Proof.Machine.execVredAnd f d a x g s
  | .vredOr f d a x g => Sys2Proof.Machine.execVredOr f d a x g s
  | .vredXor f d a x g => Sys2Proof.Machine.execVredXor f d a x g s
  | .vbtst e d a b x g => Sys2Proof.Machine.execVbtst e d a b x g s
  | .vpcnt e d a x g => Sys2Proof.Machine.execVpcnt e d a x g s
  | .vfirst e d a x g => Sys2Proof.Machine.execVfirst e d a x g s
  | .tld d a b sp g => Sys2Proof.Machine.execTld d a b sp g s
  | .tst d a b sp g => Sys2Proof.Machine.execTst d a b sp g s
  | .tldb d a b sp g => Sys2Proof.Machine.execTldb d a b sp g s
  | .tldt d a b sp g => Sys2Proof.Machine.execTldt d a b sp g s
  | .tldLit op d a b sp off g => Sys2Proof.Machine.execTldLit op d a b sp off g s
  | .tzero d g => Sys2Proof.Machine.execTzero d g s
  | .accz r g => Sys2Proof.Machine.execAccz r g s
  | .accrd d r g => Sys2Proof.Machine.execAccrd d r g s
  | .accwr a r g => Sys2Proof.Machine.execAccwr a r g s
  | .accld a r off g => Sys2Proof.Machine.execAccld a r off g s
  | .accst a r off g => Sys2Proof.Machine.execAccst a r off g s
  | .mma a b r g => Sys2Proof.Machine.execMma a b r g s
  | .mxepi d a r act sat bias g => Sys2Proof.Machine.execMxepi d a r act sat bias g s
  | .mxgate d r k g => Sys2Proof.Machine.execMxgate d r k g s
  | .mxred int a r off g => Sys2Proof.Machine.execMxred int a r off g s
  | .mxsend d a b c g => Sys2Proof.Machine.execMxsend d a b c g s
  | .gori2 dbl d a b tb nf g => Sys2Proof.Machine.execGori2 dbl d a b tb nf g s
  | .gori3 dbl d a b tb nf g => Sys2Proof.Machine.execGori3 dbl d a b tb nf g s
  | .gincir dbl d a b tb nf g => Sys2Proof.Machine.execGincir dbl d a b tb nf g s
  | .ginsph dbl d a b tb nf g => Sys2Proof.Machine.execGinsph dbl d a b tb nf g s
  | .gsegx dbl d a b tb nf g => Sys2Proof.Machine.execGsegx dbl d a b tb nf g s
  | .gsegt dbl d a b tb nf g => Sys2Proof.Machine.execGsegt dbl d a b tb nf g s
  | .spld xd a g => Sys2Proof.Machine.execSpld xd a g s
  | .spldExt xd a nm1 off g => Sys2Proof.Machine.execSpldExt xd a nm1 off g s
  | .spst xd a g => Sys2Proof.Machine.execSpst xd a g s
  | .spstExt xd a nm1 off g => Sys2Proof.Machine.execSpstExt xd a nm1 off g s
  | .spmov xd xa g => Sys2Proof.Machine.execSpmov xd xa g s
  | .spset xd a g => Sys2Proof.Machine.execSpset xd a g s
  | .sptree xd xa e g => Sys2Proof.Machine.execSptree xd xa e g s
  | .spup xd xa e g => Sys2Proof.Machine.execSpup xd xa e g s
  | .spdn xd xa e g => Sys2Proof.Machine.execSpdn xd xa e g s
  | .spnorm xd xa g => Sys2Proof.Machine.execSpnorm xd xa g s
  | .spcvt xd xa g => Sys2Proof.Machine.execSpcvt xd xa g s
  | .spmax xd xa e g => Sys2Proof.Machine.execSpmax xd xa e g s
  | .bar lvl g => Sys2Proof.Machine.execBar lvl g s
  | .bararv a g => Sys2Proof.Machine.execBararv a g s
  | .barwt a g => Sys2Proof.Machine.execBarwt a g s
  | .xph g => Sys2Proof.Machine.execXph g s
  | .push d e g => Sys2Proof.Machine.execPush d e g s
  | .tlrd d t g => Sys2Proof.Machine.execTlrd d t g s
  | .tlwt a t g => Sys2Proof.Machine.execTlwt a t g s
  | .tlwtLit v t g => Sys2Proof.Machine.execTlwtLit v t g s
  | .send d a b g => Sys2Proof.Machine.execSend d a b g s
  | .recv d a g => Sys2Proof.Machine.execRecv d a g s
  | .rpoll d a g => Sys2Proof.Machine.execRpoll d a g s
  | .qrd d q g => Sys2Proof.Machine.execQrd d q g s
  | .qwr d a q g => Sys2Proof.Machine.execQwr d a q g s
  | .start d a b g => Sys2Proof.Machine.execStart d a b g s
  | .joinh a g => Sys2Proof.Machine.execJoinh a g s
  | .exit g => Sys2Proof.Machine.execExit g s
  | .region g => Sys2Proof.Machine.execRegion g s
  | .ckpt a g => Sys2Proof.Machine.execCkpt a g s
  | .mpub d a b len g => Sys2Proof.Machine.execMpub d a b len g s
  | .mread d a b len g => Sys2Proof.Machine.execMread d a b len g s
  | .mwait d a b g => Sys2Proof.Machine.execMwait d a b g s
  | .time d g => Sys2Proof.Machine.execTime d g s
  | .sleep b g => Sys2Proof.Machine.execSleep b g s
  | .sleepLit v g => Sys2Proof.Machine.execSleepLit v g s
  | .wfe g => Sys2Proof.Machine.execWfe g s
  | .mfs d n => Sys2Proof.Machine.execMfs d n s
  | .mts a n => Sys2Proof.Machine.execMts a n s
  | .trap c => Sys2Proof.Machine.execTrap c s
  | .eret => Sys2Proof.Machine.execEret s
  | .tlbfl => Sys2Proof.Machine.execTlbfl s
  | .tlbren d a => Sys2Proof.Machine.execTlbren d a s
  | .capld a c => Sys2Proof.Machine.execCapld a c s
  | .capclr c => Sys2Proof.Machine.execCapclr c s
  | .chsend d a b g => Sys2Proof.Machine.execChsend d a b g s
  | .chrecv d a b g => Sys2Proof.Machine.execChrecv d a b g s
  | .chclose a g => Sys2Proof.Machine.execChclose a g s
  | .vcid d g => Sys2Proof.Machine.execVcid d g s
  | .streamReadAhead core ctx j => Sys2Proof.Machine.execStreamReadAhead core ctx j s
  | .sideLogReplay core n => Sys2Proof.Machine.execSideLogReplay core n s
  | .heldAccessResume core ctx => Sys2Proof.Machine.execHeldAccessResume core ctx s
  | .faultRecordPost cluster n => Sys2Proof.Machine.execFaultRecordPost cluster n s
  | .faultAnswerMapped token => Sys2Proof.Machine.execFaultAnswerMapped token s
  | .faultAnswerInvalid token => Sys2Proof.Machine.execFaultAnswerInvalid token s
  | .pageWalkComplete core va write fetch => Sys2Proof.Machine.execPageWalkComplete core va write fetch s
  | .tlbEntryExpiry core => Sys2Proof.Machine.execTlbEntryExpiry core s
  | .memoryRequestAtHome n => Sys2Proof.Machine.execMemoryRequestAtHome n s
  | .refusedRequestReissue n => Sys2Proof.Machine.execRefusedRequestReissue n s
  | .accessResponse n => Sys2Proof.Machine.execAccessResponse n s
  | .remoteCoreMemoryAccess n => Sys2Proof.Machine.execRemoteCoreMemoryAccess n s
  | .amofArrival n => Sys2Proof.Machine.execAmofArrival n s
  | .bararvArrival n => Sys2Proof.Machine.execBararvArrival n s
  | .dramSectorFill pa crc poison => Sys2Proof.Machine.execDramSectorFill pa crc poison s
  | .leaseRenewalWalk cluster chan => Sys2Proof.Machine.execLeaseRenewalWalk cluster chan s
  | .clockSkew core err => Sys2Proof.Machine.execClockSkew core err s
  | .clockSkewCleared core => Sys2Proof.Machine.execClockSkewCleared core s
  | .scOperationComplete n => Sys2Proof.Machine.execScOperationComplete n s
  | .contextWake core ctx => Sys2Proof.Machine.execContextWake core ctx s
  | .sleepDeadline core ctx => Sys2Proof.Machine.execSleepDeadline core ctx s
  | .barrierArrival n => Sys2Proof.Machine.execBarrierArrival n s
  | .sendArrival n => Sys2Proof.Machine.execSendArrival n s
  | .sendAnswer n => Sys2Proof.Machine.execSendAnswer n s
  | .seizureArrival n => Sys2Proof.Machine.execSeizureArrival n s
  | .seizureAccept core => Sys2Proof.Machine.execSeizureAccept core s
  | .seizureDrainEnd core => Sys2Proof.Machine.execSeizureDrainEnd core s
  | .seizureSaveEnd core => Sys2Proof.Machine.execSeizureSaveEnd core s
  | .seizureRunEnd core => Sys2Proof.Machine.execSeizureRunEnd core s
  | .seizureRestoreEnd core => Sys2Proof.Machine.execSeizureRestoreEnd core s
  | .seizureResultAtRing n => Sys2Proof.Machine.execSeizureResultAtRing n s
  | .mirrorPublication n => Sys2Proof.Machine.execMirrorPublication n s
  | .mirrorFlip slot => Sys2Proof.Machine.execMirrorFlip slot s
  | .mirrorReadArrival n => Sys2Proof.Machine.execMirrorReadArrival n s
  | .mirrorReadDone n => Sys2Proof.Machine.execMirrorReadDone n s
  | .mirrorGrantWrite slot word v => Sys2Proof.Machine.execMirrorGrantWrite slot word v s
  | .mirrorGrantInEffect slot => Sys2Proof.Machine.execMirrorGrantInEffect slot s
  | .periodicTrigger core bank => Sys2Proof.Machine.execPeriodicTrigger core bank s
  | .watchdog core bank => Sys2Proof.Machine.execWatchdog core bank s
  | .trapDelivery core ctx => Sys2Proof.Machine.execTrapDelivery core ctx s
  | .rollback core ctx unit => Sys2Proof.Machine.execRollback core ctx unit s
  | .timingReplay core mask => Sys2Proof.Machine.execTimingReplay core mask s
  | .lockstepMismatch core => Sys2Proof.Machine.execLockstepMismatch core s
  | .launchTake core => Sys2Proof.Machine.execLaunchTake core s
  | .launchAdmit n => Sys2Proof.Machine.execLaunchAdmit n s
  | .superstepBegin lvl dom => Sys2Proof.Machine.execSuperstepBegin lvl dom s
  | .taskStart core => Sys2Proof.Machine.execTaskStart core s
  | .clearSequenceEnd core => Sys2Proof.Machine.execClearSequenceEnd core s
  | .q0EventPost core => Sys2Proof.Machine.execQ0EventPost core s
  | .move cluster chan => Sys2Proof.Machine.execMove cluster chan s
  | .fill cluster chan => Sys2Proof.Machine.execFill cluster chan s
  | .plan core => Sys2Proof.Machine.execPlan core s
  | .expand cluster chan => Sys2Proof.Machine.execExpand cluster chan s
  | .engineCommandComplete cluster chan => Sys2Proof.Machine.execEngineCommandComplete cluster chan s
  | .permitResume core => Sys2Proof.Machine.execPermitResume core s
  | .forcedPreemption lvl dom => Sys2Proof.Machine.execForcedPreemption lvl dom s
  | .preemptLogDrained lvl dom => Sys2Proof.Machine.execPreemptLogDrained lvl dom s
  | .preemptSaveDone lvl dom => Sys2Proof.Machine.execPreemptSaveDone lvl dom s
  | .preemptedTaskResume lvl dom => Sys2Proof.Machine.execPreemptedTaskResume lvl dom s
  | .scrubEnd core => Sys2Proof.Machine.execScrubEnd core s
  | .regionpcWrite core ctx v => Sys2Proof.Machine.execRegionpcWrite core ctx v s
  | .tshapeWrite core n v => Sys2Proof.Machine.execTshapeWrite core n v s
  | .capWordWrite core ctx n w v => Sys2Proof.Machine.execCapWordWrite core ctx n w v s
  | .capaccWrite core n v => Sys2Proof.Machine.execCapaccWrite core n v s
  | .segbaseWrite core n v => Sys2Proof.Machine.execSegbaseWrite core n v s
  | .seglimWrite core n v => Sys2Proof.Machine.execSeglimWrite core n v s
  | .relcfgWrite core n v => Sys2Proof.Machine.execRelcfgWrite core n v s
  | .sysregWrite core ctx n v => Sys2Proof.Machine.execSysregWrite core ctx n v s
  | .lqtailWrite v n => Sys2Proof.Machine.execLqtailWrite v n s
  | .hostLaunchEntry v => Sys2Proof.Machine.execHostLaunchEntry v s
  | .completionQueueEntry v => Sys2Proof.Machine.execCompletionQueueEntry v s
  | .cqheadWrite v n => Sys2Proof.Machine.execCqheadWrite v n s
  | .faultQueueRecord v => Sys2Proof.Machine.execFaultQueueRecord v s
  | .fqheadWrite v n => Sys2Proof.Machine.execFqheadWrite v n s
  | .fqanswerMapped v => Sys2Proof.Machine.execFqanswerMapped v s
  | .fqanswerInvalid v => Sys2Proof.Machine.execFqanswerInvalid v s
  | .queueCfgWrite v ring x => Sys2Proof.Machine.execQueueCfgWrite v ring x s
  | .hostRegisterWrite vf off x => Sys2Proof.Machine.execHostRegisterWrite vf off x s
  | .bar2Access off size write => Sys2Proof.Machine.execBar2Access off size write s
  | .pcieReadCompletion n => Sys2Proof.Machine.execPcieReadCompletion n s
  | .assignWrite v x => Sys2Proof.Machine.execAssignWrite v x s
  | .rassignWrite v x => Sys2Proof.Machine.execRassignWrite v x s
  | .functionLevelReset v => Sys2Proof.Machine.execFunctionLevelReset v s
  | .flrDrainEnd v => Sys2Proof.Machine.execFlrDrainEnd v s
  | .flrScrubEnd v => Sys2Proof.Machine.execFlrScrubEnd v s
  | .flrLeaseWaitEnd v => Sys2Proof.Machine.execFlrLeaseWaitEnd v s
  | .freeze => Sys2Proof.Machine.execFreeze s
  | .freezeRelease => Sys2Proof.Machine.execFreezeRelease s
  | .deviceReset => Sys2Proof.Machine.execDeviceReset s
  | .heartbeat => Sys2Proof.Machine.execHeartbeat s
  | .containerCapture => Sys2Proof.Machine.execContainerCapture s
  | .peerLost => Sys2Proof.Machine.execPeerLost s
  | .spareTakeover => Sys2Proof.Machine.execSpareTakeover s
  | .fwInstall => Sys2Proof.Machine.execFwInstall s
  | .fwActivate => Sys2Proof.Machine.execFwActivate s
  | .pwrWrite core x => Sys2Proof.Machine.execPwrWrite core x s
  | .powerSettingApply core => Sys2Proof.Machine.execPowerSettingApply core s
  | .declareFree => Sys2Proof.Machine.execDeclareFree s
  | .declareInUse => Sys2Proof.Machine.execDeclareInUse s
  | .dramRepairComplete chan => Sys2Proof.Machine.execDramRepairComplete chan s
  | .repcmdRepair chan => Sys2Proof.Machine.execRepcmdRepair chan s
  | .repcmdDecline chan => Sys2Proof.Machine.execRepcmdDecline chan s
  | .classifierEntryAgeing chan => Sys2Proof.Machine.execClassifierEntryAgeing chan s
  | .objectLoad v addr len base => Sys2Proof.Machine.execObjectLoad v addr len base s
  | .eguCompletion core => Sys2Proof.Machine.execEguCompletion core s
  | .speCompletion core => Sys2Proof.Machine.execSpeCompletion core s
  | .wfeWakeWithNoEvent core ctx => Sys2Proof.Machine.execWfeWakeWithNoEvent core ctx s
  | .fwInstallComplete => Sys2Proof.Machine.execFwInstallComplete s
  | .vfEnable => Sys2Proof.Machine.execVfEnable s

end Sys2Proof.Machine
end

