-- ==== Sys2Proof/Machine/Issue.lean ====
section
/-! DEFINITION. One turn of the machine: chip time, the agenda, what is in flight, and the issue of one instruction: which
core and context (R307, R314), pending causes (R337), fetch (R81-R84), capture and stepping of a replay (R113-R115). -/

namespace Sys2Proof.Machine

/-! ### Fetch (R81, R82) -/

/-- A fetch fault's EINFO. -/
def fetchInfo (pkind : BitVec 4) (malformed straddle : Bool) : Word :=
  ({ pkind := pkind, malformed := malformed, straddle := straddle } : AddrInfo).word

/-- The word at a place (R84): a line that the core has kept may still give the word that it was fetched with, while memory holds a
newer one; which of the two, no rule says (log 83). Memory behind the PCI Express window is not cached on the device (R371). -/
def State.wordAt (s : State) (p : Place) : Half × State :=
  let w := BitVec.ofNat 32 (s.numAt p 4)
  match p with
  | .host _ | .peer _ => (w, s)
  | p => match s.me.icache.find? fun e => e.1 == p with
  | none => (w, s.setMe { s.me with icache := (p, w) :: s.me.icache.take 16383 })
  | some (_, old) => if old = w then (w, s) else (if Config.fetchPick s.fresh then old else w, { s with fresh := s.fresh + 1 })

/-- Fetching one word (R82): PKIND and MALFORMED of the failure, or the word. An absent page leaves a fault record, too (R286, log 83). -/
def State.fetchWord (s : State) (va : Nat) : Except (BitVec 4 × Bool × State) (Half × State) :=
  if s.reflex then
    match s.segXlate .fetch va 4 with
    | .place p => .ok (s.wordAt p)
    | _ => .error (4, false, s)
  else
    match s.xlateCore .fetch va with
    | (.place p _, s) => .ok (s.wordAt p)
    | (.absent, s) => .error (0, false, s.postFault s.cur.core s.me.vf (va / 65536 * 65536) 2 s.cur.ctx)
    | (.noRoot, s) | (.skewed, s) => .error (0, false, s)
    | (.malformed, s) => .error (0, true, s)
    | (.refused k, s) => .error (k, false, s)
    | (.invalid, s) => .error (6, false, s)

/-- Bytes of what EADDR names as the page of a fetch: a reflex segment has pieces of 4 KiB (R288, log 83). -/
def State.fetchGranule (s : State) : Nat := if s.reflex then 4096 else 65536

/-- The words after the base word, fetched in order; a failure names the first byte of its page (R82). -/
def State.fetchRest (s : State) (va : Nat) : Nat → Except (Stop × State) (List Half × State)
  | 0 => .ok ([], s)
  | n + 1 =>
    if 2 ^ 56 ≤ va then .error (.trap cFetchFault (BitVec.ofNat 64 va) (fetchInfo (if s.reflex then 4 else 0) false true), s)
    else match s.fetchWord va with
      | .error (k, m, s) =>
        .error (.trap cFetchFault (BitVec.ofNat 64 (va / s.fetchGranule * s.fetchGranule)) (fetchInfo k m true), s)
      | .ok (w, s) => do
        let (ws, s) ← s.fetchRest (va + 4) n
        .ok (w :: ws, s)

/-- EWORD's image: the base word and E1 (R336). -/
def ewordOf : List Half → Word
  | [] => 0
  | [w] => (0 : BitVec 32) ++ w
  | w :: e :: _ => (if w.getLsbD 31 then e else 0) ++ w

/-- A stop of the fetch or of the decoder, with EWORD and the state in which it is taken. -/
abbrev Issued (α : Type) := Except (Stop × Word × State) α

/-- Fetching an instruction by the steps of R81 up to its length. A base word that step 2 refuses comes alone, with zeros for the words
that its LEN announces: the decoder refuses it. -/
def State.fetched (s : State) : Issued (List Half × State) :=
  let pc := s.my.pc.toNat
  if 2 ^ 56 ≤ pc then .error (.trap cFetchFault s.my.pc (fetchInfo 0 false false), 0, s)
  else match s.fetchWord pc with
    | .error (k, m, s) => .error (.trap cFetchFault s.my.pc (fetchInfo k m false), 0, s)
    | .ok (w, s) =>
      if w = 0 ∨ !lenOk w then .ok (w :: List.replicate (wordCount w - 1) 0, s)
      else match s.fetchRest (pc + 4) (wordCount w - 1) with
        | .error (e, s) => .error (e, (match s.fetchRest (pc + 4) 1 with
          | .ok (ws, _) => ewordOf (w :: ws)
          | .error _ => ewordOf [w]), s)
        | .ok (ws, s) => .ok (w :: ws, s)

/-! ### Steps of a replay (R114) -/

/-- The class size of a stepped register field; 0 where the field names no register. -/
structure StepClass where
  d : Nat
  a : Nat
  b : Nat
deriving DecidableEq, Repr

/-- B where it is a register. -/
def srcCls : Src → Nat
  | .reg _ => 32
  | .lit _ => 0

/-- The classes of the D, A and B fields of an instruction (R114). -/
def stepClassOf : Instr → StepClass
  | .add _ _ b _ | .sub _ _ b _ | .mul _ _ b _ | .mulh _ _ b _ | .mulhu _ _ b _ | .div _ _ b _ | .divu _ _ b _
  | .rem _ _ b _ | .remu _ _ b _ | .and _ _ b _ | .or _ _ b _ | .xor _ _ b _ | .andn _ _ b _ | .orn _ _ b _
  | .shl _ _ b _ | .shr _ _ b _ | .sra _ _ b _ | .rotl _ _ b _ | .min _ _ b _ | .max _ _ b _ | .minu _ _ b _
  | .maxu _ _ b _ | .sel _ _ b _ _ => ⟨32, 32, srcCls b⟩
  | .clz _ _ _ | .ctz _ _ _ | .popc _ _ _ | .brev _ _ _ | .bswap _ _ _ | .sextB _ _ _ | .sextH _ _ _ | .sextW _ _ _
  | .zextB _ _ _ | .zextH _ _ _ | .zextW _ _ _ | .mov _ _ _ => ⟨32, 32, 0⟩
  | .addi _ _ _ | .andi _ _ _ | .ori _ _ _ | .xori _ _ _ | .shli _ _ _ | .shri _ _ _ | .srai _ _ _ | .rotli _ _ _ => ⟨32, 32, 0⟩
  | .movi _ _ | .moviLit _ _ => ⟨32, 0, 0⟩
  | .cmpEq _ _ b _ | .cmpNe _ _ b _ | .cmpLt _ _ b _ | .cmpLe _ _ b _ | .cmpLtu _ _ b _ | .cmpLeu _ _ b _ => ⟨8, 32, srcCls b⟩
  | .cmpiEq _ _ _ | .cmpiNe _ _ _ | .cmpiLt _ _ _ | .cmpiLe _ _ _ | .cmpiLtu _ _ _ | .cmpiLeu _ _ _ => ⟨8, 32, 0⟩
  | .pand _ _ _ _ | .por _ _ _ _ | .pxor _ _ _ _ => ⟨8, 8, 8⟩
  | .pnot _ _ _ | .pmov _ _ _ => ⟨8, 8, 0⟩
  | .aput _ _ _ => ⟨8, 32, 0⟩
  | .aget _ _ _ => ⟨32, 8, 0⟩
  | .ainc _ b _ => ⟨8, 0, srcCls b⟩
  | .acfg _ _ _ _ => ⟨8, 32, 32⟩
  | .ld _ _ _ _ _ _ | .ldExt _ _ _ _ _ _ _ | .ldS _ _ _ _ _ _ | .ldSExt _ _ _ _ _ _ _ | .st _ _ _ _ _ _
  | .stExt _ _ _ _ _ _ _ => ⟨32, 32, 0⟩
  | .lda _ _ _ _ _ _ | .ldaS _ _ _ _ _ _ | .sta _ _ _ _ _ _ => ⟨32, 8, 0⟩
  | .vld _ _ s _ _ _ | .vst _ _ s _ _ _ => ⟨32, if s = .dist then 8 else 32, 0⟩
  | .vlds _ _ _ _ _ _ _ _ | .vgth _ _ _ _ _ _ _ _ | .vsct _ _ _ _ _ _ _ _ => ⟨32, 32, 32⟩
  | .amo _ _ _ _ _ _ | .cas _ _ _ _ _ _ => ⟨32, 32, 32⟩
  | .amoLocal _ _ _ _ _ _ p | .casLocal _ _ _ _ _ _ p => ⟨32, if p then 8 else 32, 32⟩
  | .amof _ _ _ _ _ _ => ⟨8, 8, 32⟩
  | .acq _ _ | .rel _ _ | .pref _ _ _ | .clean _ _ _ | .czero _ _ _ => ⟨0, 32, 0⟩
  | .sbind _ _ _ => ⟨32, 32, 0⟩
  | .sfree _ _ => ⟨32, 0, 0⟩
  | .vadd _ _ _ _ _ _ | .vsub _ _ _ _ _ _ | .vmul _ _ _ _ _ _ | .vfma _ _ _ _ _ _ | .vfms _ _ _ _ _ _
  | .vfnma _ _ _ _ _ _ | .vmin _ _ _ _ _ _ | .vmax _ _ _ _ _ _ | .vdiv _ _ _ _ _ _ | .viadd _ _ _ _ _ _
  | .visub _ _ _ _ _ _ | .vimul _ _ _ _ _ _ | .vimin _ _ _ _ _ _ | .vimax _ _ _ _ _ _ | .vshl _ _ _ _ _ _
  | .vshr _ _ _ _ _ _ | .vsra _ _ _ _ _ _ | .vand _ _ _ _ _ _ | .vor _ _ _ _ _ _ | .vxor _ _ _ _ _ _ => ⟨32, 32, 32⟩
  | .vabs _ _ _ _ _ | .vneg _ _ _ _ _ | .vsqrt _ _ _ _ _ | .vrcp _ _ _ _ _ | .vrsq _ _ _ _ _ | .vexp _ _ _ _ _
  | .vlog _ _ _ _ _ | .vsig _ _ _ _ _ | .vtanh _ _ _ _ _ | .vnot _ _ _ _ _ => ⟨32, 32, 0⟩
  | .vcmp _ _ _ _ _ _ _ | .vicmp _ _ _ _ _ _ _ => ⟨8, 32, 32⟩
  | .vmov _ _ _ _ _ | .vbcast _ _ _ _ _ | .vcomp _ _ _ _ _ | .vexpd _ _ _ _ _ => ⟨32, 32, 0⟩
  | .vext _ _ _ b _ _ | .vins _ _ _ b _ _ | .vslide _ _ _ b _ _ => ⟨32, 32, srcCls b⟩
  | .vperm _ _ _ _ _ _ | .vzip _ _ _ _ _ _ | .vunzip _ _ _ _ _ _ | .vsel _ _ _ _ _ _ => ⟨32, 32, 32⟩
  | .viota _ _ _ _ => ⟨32, 0, 0⟩
  | .vcvt _ _ _ _ _ _ _ => ⟨32, 32, 0⟩
  | .vredAdd _ _ _ _ _ | .vredMin _ _ _ _ _ | .vredMax _ _ _ _ _ | .vredAnd _ _ _ _ _ | .vredOr _ _ _ _ _
  | .vredXor _ _ _ _ _ => ⟨32, 32, 0⟩
  | .vbtst _ _ _ _ _ _ => ⟨8, 32, 32⟩
  | .vpcnt _ _ _ _ _ | .vfirst _ _ _ _ _ => ⟨32, 8, 0⟩
  | .tld _ _ _ s _ | .tst _ _ _ s _ => ⟨8, if s = .dist then 8 else 32, 32⟩
  | .tldb _ _ _ _ _ | .tldt _ _ _ _ _ => ⟨8, 32, 32⟩
  | .tldLit _ _ _ _ _ _ _ => ⟨8, 32, 32⟩
  | .tzero _ _ => ⟨8, 0, 0⟩
  | .accz _ _ => ⟨0, 0, 0⟩
  | .accrd _ _ _ => ⟨32, 0, 0⟩
  | .accwr _ _ _ | .accld _ _ _ _ | .accst _ _ _ _ => ⟨0, 32, 0⟩
  | .mma _ _ _ _ => ⟨0, 8, 8⟩
  | .mxepi _ _ _ _ _ bias _ => ⟨8, if bias then 32 else 0, 0⟩
  | .mxgate _ _ _ _ => ⟨8, 0, 0⟩
  | .mxred _ _ _ _ _ => ⟨0, 32, 0⟩
  | .mxsend _ _ _ _ _ => ⟨32, 32, 32⟩
  | .gori2 _ _ _ _ tb _ _ | .gori3 _ _ _ _ tb _ _ | .gincir _ _ _ _ tb _ _ | .ginsph _ _ _ _ tb _ _
  | .gsegx _ _ _ _ tb _ _ | .gsegt _ _ _ _ tb _ _ => ⟨32, 32, if tb then 32 else 0⟩
  | .spld _ _ _ | .spldExt _ _ _ _ _ | .spst _ _ _ | .spstExt _ _ _ _ _ | .spset _ _ _ => ⟨256, 32, 0⟩
  | .spmov _ _ _ | .spnorm _ _ _ | .spcvt _ _ _ => ⟨256, 256, 0⟩
  | .sptree _ _ _ _ => ⟨256, 256, 256⟩
  | .spup _ _ e _ | .spdn _ _ e _ | .spmax _ _ e _ => ⟨256, 256, if speFm e = 2 then 0 else 256⟩
  | .bararv _ _ | .barwt _ _ | .joinh _ _ | .ckpt _ _ => ⟨0, 32, 0⟩
  | .push _ _ _ | .tlrd _ _ _ | .qrd _ _ _ => ⟨32, 0, 0⟩
  | .tlwt _ _ _ => ⟨0, 32, 0⟩
  | .send _ _ _ _ | .start _ _ _ _ | .mpub _ _ _ _ _ | .mread _ _ _ _ _ | .mwait _ _ _ _ => ⟨32, 32, 32⟩
  | .recv _ _ _ | .rpoll _ _ _ | .qwr _ _ _ _ => ⟨32, 32, 0⟩
  | .time _ _ => ⟨32, 0, 0⟩
  | .sleep _ _ => ⟨0, 0, 32⟩
  | .mfs _ _ => ⟨32, 0, 0⟩
  | .mts _ _ | .capld _ _ => ⟨0, 32, 0⟩
  | .tlbren _ _ => ⟨32, 32, 0⟩
  | .chsend _ _ _ _ | .chrecv _ _ _ _ => ⟨32, 32, 32⟩
  | .chclose _ _ => ⟨0, 32, 0⟩
  | .vcid _ _ => ⟨32, 0, 0⟩
  | _ => ⟨0, 0, 0⟩

/-- A field value stepped p times within its class (R114). -/
def stepField (size value p : Nat) (step : BitVec 4) : Nat :=
  if size = 0 then value else (((value : Int) + p * step.toInt) % size).toNat

/-- The base word of an instruction with its fields stepped (R114); format X holds eight-bit names. -/
def stepBase (x : Base) (c : StepClass) (st : RepSteps) (p : Nat) : Base :=
  if c.d = 256 then
    let xd := BitVec.ofNat 8 (stepField 256 x.xd.toNat p st.d)
    let xa := if c.a = 256 then BitVec.ofNat 8 (stepField 256 x.xa.toNat p st.a)
      else BitVec.ofNat 8 (x.xa.toNat / 32 * 32 + stepField 32 (x.xa.toNat % 32) p st.a)
    { x with d := xd.extractLsb' 3 5, a := xd.extractLsb' 0 3 ++ xa.extractLsb' 6 2, b := xa.extractLsb' 1 5,
             fn := xa.extractLsb' 0 1 ++ x.fn.extractLsb' 0 5 }
  else
    { x with d := BitVec.ofNat 5 (stepField c.d x.d.toNat p st.d), a := BitVec.ofNat 5 (stepField c.a x.a.toNat p st.a),
             b := BitVec.ofNat 5 (stepField c.b x.b.toNat p st.b) }

/-- The words of a captured instruction on pass p, and the byte step of its address or row (R114). -/
def stepWords (i : Instr) (ws : List Half) (st : RepSteps) (p : Nat) : List Half :=
  match Frame.ofWords ws with
  | none => ws
  | some f =>
    let c := stepClassOf i
    let ext := match f.ext with
      | some (e1, e2) =>
        if c.b = 256 then
          let x := SpeExt.ofWord e1
          some ((({ x with xb := BitVec.ofNat 8 (stepField 256 x.xb.toNat p st.b) } : SpeExt)).word, e2)
        else some (e1, e2)
      | none => none
    ({ f with base := stepBase f.base c st p, ext := ext } : Frame).words

/-- Instructions that a captured block must not contain (R115). -/
def uncapturable : Instr → Bool
  | .br _ _ | .bl _ _ | .jr _ _ | .jlr _ _ | .ret _ | .rep _ _ | .repStepped _ _ _ | .exit _ | .eret => true
  | _ => false

/-! ### The instruction to issue -/

/-- The trap of a decoder's refusal. -/
def decodeStop (exec : Bool) : DecodeError → Stop
  | .illegalOpcode n => .trap cIllegalOpcode 0 (decodeInfo n exec false 0)
  | .reservedField n => .trap cReservedField 0 (decodeInfo n exec false 0)
  | .truncated => .trap cIllegalOpcode 0 (decodeInfo 0 exec false 0)

/-- Step 6 of R81: a channel operation where it stands untranslated, or an absent feature (R357, R360). -/
def featureStop (i : Instr) : Option Stop :=
  match i with
  | .chsend _ _ _ _ | .chrecv _ _ _ _ | .chclose _ _ | .vcid _ _ =>
    some (.trap cFeatureAbsent 0 (decodeInfo 0 false true 0))
  | _ => if Config.featMask.getLsbD i.feature then none else some (.trap cFeatureAbsent 0 (decodeInfo 0 false false i.feature))

/-- Decoding fetched words. -/
def State.decodeAt (s : State) (ws : List Half) : Issued (Instr × State) :=
  match decode s.reflex ws with
  | .error e => .error (decodeStop false e, ewordOf ws, s)
  | .ok i =>
    match featureStop i with
    | some e => .error (e, ewordOf ws, s)
    | none => .ok (i, { s with cur := { s.cur with ostep := 0, eword := ewordOf ws } })

/-- The guard of an instruction; formats I and AT have none (R73). -/
def guardField (i : Instr) : Reg3 :=
  let b := i.frame.base
  let m := b.maj.toNat
  if (4 ≤ m ∧ m ≤ 9) ∨ m = 0x0B ∨ (0x10 ≤ m ∧ m ≤ 0x11) ∨ m = 0x13 ∨ m = 0x14 ∨ (0x1C ≤ m ∧ m ≤ 0x1E) ∨ m = 0x3D then 0 else b.pg

/-- The words of instruction i of a block: captured before, or fetched and captured now (R113). -/
def State.capture (s : State) (r : Replay) : Issued (List Half × State) := do
  if r.i < r.words.length then .ok (r.words.getD r.i [], s)
  else
    let (ws, s) ← s.fetched
    .ok (ws, s.setMy (s.my.setReplay (some { r with words := r.words ++ [ws] })))

/-- Instruction i of a replay: captured on pass 0, stepped on every pass. R115 refuses what a block must not contain, and abandons the
replay; a stepped number that its class refuses is no cause under a false guard (R75, R114). -/
def State.issueReplay (s : State) (r : Replay) : Issued (Instr × State) := do
  let (ws, s) ← s.capture r
  let (i, s) ← s.decodeAt ws
  if uncapturable i then .error (reservedAtExec, ewordOf ws, s.setMy (s.my.setReplay none))
  else match r.steps with
    | none => .ok (i, s)
    | some st =>
      if !st.apply.getLsbD r.i || !s.guardOn (guardField i) then .ok (i, s)
      else match decode s.reflex (stepWords i ws st r.p) with
        | .error (.reservedField _) => .error (reservedAtExec, ewordOf ws, s)
        | .error e => .error (decodeStop true e, ewordOf ws, s)
        | .ok j => .ok (j, { s with cur := { s.cur with ostep := BitVec.ofInt 64 (r.p * st.o.toInt) } })

/-- A block with N = 0 is passed over: its instructions are captured for their lengths only (R113, log 24). -/
def State.skipReplay (s : State) (r : Replay) : Issued State := do
  let (ws, s) ← s.capture r
  let x := { s.my with pc := s.my.pc + BitVec.ofNat 64 (4 * ws.length) }
  .ok (s.setMy (x.setReplay (if r.i + 1 < r.n then x.replay.map fun q => { q with i := r.i + 1 } else none)))

/-! ### What an instruction waits for -/

/-- G registers that operations in flight still owe a context (R217). -/
def Flight.owes (core ctx : Nat) : Flight → Option Nat
  | .mem c k _ _ _ (.load d _ _) _ _ => if c = core ∧ k = ctx then some d else none
  | .send c k d _ _ _ | .sendAnswer c k d _ | .mpub c k d _ _ | .mread c k d _ _ _ | .mreadDone c k d _ _ _
  | .pcieRead c k _ _ _ d _ _ _ => if c = core ∧ k = ctx then some d else none
  | _ => none

/-- The fields of an instruction name register r: D, A or B, or XA[4:0] of the sum-product forms that take a G (R73, R80). -/
def namesReg (i : Instr) (r : Nat) : Bool :=
  let b := i.frame.base
  match i with
  | .spld _ _ _ | .spldExt _ _ _ _ _ | .spst _ _ _ | .spstExt _ _ _ _ _ | .spset _ _ _ => b.xa.toNat % 32 == r
  | _ => if b.maj = 0x36 then false else b.d.toNat == r || b.a.toNat == r || b.b.toNat == r

/-- The instruction names an owed register, or reads one without naming it: the block of PUSH, the words of QRD, the link register. -/
def waitsFor (i : Instr) (r : Nat) : Bool :=
  r != 0 && (namesReg i r
    || (match i with
      | .push _ _ _ => decide (8 ≤ r) && decide (r ≤ 15)
      | .qrd d _ _ => decide (d.toNat ≤ r) && decide (r < d.toNat + 8)
      | .ret _ | .bl _ _ | .jlr _ _ | .ckpt _ _ | .region _ | .exit _ => true
      | _ => false))

/-- A relaxed load of global memory: the only instruction that issues behind a load that is not performed and may yet trap (R122,
R279, log 53). -/
def relaxedLoad : Instr → Bool
  | .ld _ _ loc _ _ _ | .ldS _ _ loc _ _ _ => !loc
  | .ldExt _ _ loc _ _ o _ | .ldSExt _ _ loc _ _ o _ => !loc && (o == none || o == some .rlx)
  | _ => false

/-- Releases that are not region closing, and SC loads: earlier appends of the context must be performed or logged before them (R131,
R139, R220, R259). -/
def releases : Instr → Bool
  | .fence o _ _ => o != .acq
  | .ldExt _ _ _ _ _ o _ | .ldSExt _ _ _ _ _ o _ | .lda _ _ _ _ o _ | .ldaS _ _ _ _ o _ => o == some .sc
  | .stExt _ _ _ _ _ o _ => !(o == none || o == some .rlx)
  | .bar _ _ | .xph _ => true
  | _ => false

/-- Instructions held until every older one has passed its checkers (R134, R217), with those that record a restart point. -/
def closes : Instr → Bool
  | .send _ _ _ _ | .push _ _ _ | .qwr _ _ _ _ | .start _ _ _ _ | .bararv _ _ | .mpub _ _ _ _ _ | .exit _ | .amo _ _ _ _ _ _
  | .cas _ _ _ _ _ _ | .amoLocal _ _ _ _ _ _ _ | .casLocal _ _ _ _ _ _ _ | .amof _ _ _ _ _ _ | .mxsend _ _ _ _ _
  | .sta _ _ _ _ _ _ | .mxred _ _ _ _ _ | .region _ | .ckpt _ _ | .chsend _ _ _ _ | .chclose _ _ => true
  | .rel _ _ => true
  | .vst _ _ sp _ _ _ | .tst _ _ _ sp _ => sp == .dist
  | .vsct _ _ _ sp _ _ _ _ => sp == .dist
  | _ => false

/-- V registers that an instruction's fields may name: those of the vector majors, of ACCRD and ACCWR, and the groups of the
exact geometry (R188). -/
def vectorFields (i : Instr) : List Nat :=
  let b := i.frame.base
  let m := b.maj.toNat
  if m = 0x34 ∨ m = 0x35 then [b.d.toNat, b.b.toNat] ++ (List.range 15).map fun k => b.a.toNat + k
  else match i with
    | .accrd _ _ _ | .accwr _ _ _ => [b.d.toNat, b.a.toNat]
    | .vld _ _ _ _ _ _ | .vst _ _ _ _ _ _ | .vlds _ _ _ _ _ _ _ _ | .vgth _ _ _ _ _ _ _ _ | .vsct _ _ _ _ _ _ _ _ =>
      [b.d.toNat, b.b.toNat]
    | _ => if 0x20 ≤ m ∧ m ≤ 0x2D then [b.d.toNat, b.a.toNat, b.b.toNat] else []

/-- The context waits for a geometry result that the instruction reads, writes or must have behind it (R199, R217), or, closing its
region, for its instructions in the sum-product engine to pass their checkers (R213, R217). -/
def State.geometryOwed (s : State) (i : Instr) : Bool :=
  (s.me.egu.any fun p => p.ctx == s.cur.ctx && (closes i || releases i || (vectorFields i).contains p.d))
    || (closes i && s.me.spe.any fun p => p.ctx == s.cur.ctx)

/-- A Mirror read of the context is under way: nothing of it issues (R239). -/
def State.mirrorOwed (s : State) : Bool :=
  s.flight.any fun f => match f with
    | .mread c k _ _ _ _ | .mreadDone c k _ _ _ _ => c == s.cur.core && k == s.cur.ctx
    | _ => false

/-- The issuing context waits for a register in flight (R217). -/
def State.owed (s : State) (i : Instr) : Bool :=
  s.geometryOwed i || s.mirrorOwed || (s.flight ++ s.pubs).any fun f => match f.owes s.cur.core s.cur.ctx with
    | some r => waitsFor i r
    | none => false

/-- An AMOF of the context that acquires is in flight: nothing passes it (R135, R253). -/
def State.acquireOwed (s : State) : Bool :=
  s.flight.any fun f => match f with
    | .amof c k _ _ _ _ _ _ _ acq => acq && c == s.cur.core && k == s.cur.ctx
    | _ => false

/-- A sent or logged SC operation of the context has not completed: nothing that follows it issues (R259). -/
def State.scAwaited (s : State) : Bool := s.sc.any fun o => o.core == s.cur.core && o.ctx == s.cur.ctx && o.retired

/-- The instruction does not issue yet. -/
def State.waits (s : State) (i : Instr) : Bool :=
  s.owed i || s.scAwaited || s.acquireOwed || (!relaxedLoad i && s.flight.any (·.unperformed s.cur.core s.cur.ctx))

/-- A stop of the fetch or the decoder taken. -/
def State.refuse (e : Stop × Word × State) : State :=
  let (stop, w, t) := e
  { t with cur := { t.cur with eword := w } }.settle (.error stop)

/-- An instruction runs in the state t that its fetch leaves, or waits in the state s before it. -/
def State.runOrWait (s : State) (i : Instr) (t : State) : Host.Outcome State Fault Refusal := if s.waits i then .next s else exec i t

/-- The stub of a channel operation (R363): it performs the operation as the original word, and one that waits is tried again in the
stub. -/
def State.issueStub (s : State) (b : Stub) : Host.Outcome State Fault Refusal :=
  match b.instr with
  | none => .next s
  | some i =>
    let site := BitVec.ofNat 64 b.site
    let u := { s.setMy { s.my with pc := site } with cur := { s.cur with ostep := 0, eword := (0 : BitVec 32) ++ b.word } }
    if s.waits i then .next s
    else match exec i u with
      | .next v => .next (if v.my.pc = site && (v.my.run == .sleeping || v.my.run == .holding) then v.setMy { v.my with pc := s.my.pc } else v)
      | o => o

/-- The instruction at the program counter issues: of a replay, of a stub, or fetched. -/
def State.issueNext (s : State) : Host.Outcome State Fault Refusal :=
  match s.my.replay with
  | some r =>
    if r.count = 0 then
      .next (match s.skipReplay r with
        | .ok t => t
        | .error e => .refuse e)
    else match s.issueReplay r with
      | .error e => .next (.refuse e)
      | .ok (i, t) => s.runOrWait i t
  | none =>
    match s.stubAt s.my.pc.toNat with
    | some b => s.issueStub b
    | none =>
      match (do
        let (ws, t) ← s.fetched
        t.decodeAt ws : Issued (Instr × State)) with
      | .error e => .next (.refuse e)
      | .ok (i, t) => s.runOrWait i t

/-- The issuing context issues: the trap whose dispatch entry it waits for (R338), a pending cause at an instruction boundary (R337), or
an instruction. -/
def State.issue (s : State) : Host.Outcome State Fault Refusal :=
  match s.my.dispatching with
  | some t => .next (s.deliverTrap t)
  | none =>
    match (if s.atBoundary s.cur.core s.cur.ctx then s.my.dueAsync else none) with
    | some a => .next (s.takeAsync a)
    | none => if s.my.run = .released then .next s else s.issueNext

/-! ### Which context and core -/

/-- The contexts of a core do not issue: seized, being pre-empted, cleared or scrubbed (R307, R309, R330). -/
def CoreSt.halted (c : CoreSt) : Bool := c.seizPhase != .idle || c.preempting || c.scrubbing

/-- A context that may issue, and one that is tried again. -/
def Ctx.canRun (x : Ctx) : Bool := x.run == .running

def Ctx.canPoll (x : Ctx) : Bool :=
  match x.run with
  | .sleeping | .wfe | .barrier _ | .holding => true
  | .released => !x.async.isEmpty
  | .running | .free | .stopped => false

/-- A context of a core may issue: the core and, of a lockstep pair, the other one are not halted, or its announced SC operation is still
to complete: a stop falls after it (R261). -/
def State.mayIssue (s : State) (n k : Nat) : Bool := (s.pairCores n).all (fun c => !(s.core c).halted) || s.scPending n k

/-- The order in which a core's contexts are looked at: round robin from the last one (R307), or from bank 3 down (R314). -/
def issueOrder (core last : Nat) : List Nat :=
  if Config.isReflex core then [3, 2, 1, 0] else (List.range 11).map fun i => (last + 1 + i) % 11

/-- The context of a core that is running and issues next. -/
def State.pickRunning (s : State) (n : Nat) : Option Nat :=
  (issueOrder n (s.core n).last).find? fun k => ((s.core n).ctx k).canRun && s.mayIssue n k

/-- The context that is tried again next: on a reflex core only banks above the one that runs, and one whose SC operation has issued
(R314). -/
def State.poll (s : State) (n : Nat) : Option Nat :=
  let c := s.core n
  let above (k : Nat) : Bool := match s.pickRunning n with
    | some b => !Config.isReflex n || decide (b < k) || s.scPending n k
    | none => true
  let m := Config.numContexts n
  ((List.range m).map fun i => (c.lastPoll + 1 + i) % m).find? fun k => (c.ctx k).canPoll && s.mayIssue n k && above k

/-- The context that the core issues from. -/
def State.pick (s : State) (n : Nat) : Option Nat := (s.pickRunning n).or (s.poll n)

/-- Context k of core n issues; one that is only tried again takes no part in the round robin (R307). -/
def State.issueFrom (s : State) (n k : Nat) : Host.Outcome State Fault Refusal :=
  let c := s.core n
  let s := s.setCore n (if (c.ctx k).canRun then { c with last := k } else { c with lastPoll := k })
  (({ s with cur := { core := n, ctx := k } } : State)).issue

/-- What the checkers of a pair compare (R312): registers and every outgoing request, in all that the machine is but the two cores' own
memories. -/
def State.compared (s : State) (n : Nat) : State := s.setCore n ((s.core n).withOwn {})

/-- A lockstep pair issues one instruction (R312, R313): both cores execute it, each with its own memory; it is committed where they
agree, and only the first one's requests leave. -/
def State.issuePair (s : State) (n k : Nat) : Host.Outcome State Fault Refusal :=
  let b := s.core (n + 1)
  match s.issueFrom n k, (s.setCore n ((s.core n).withOwn b)).issueFrom n k with
  | .next t, .next u =>
    if t.compared n = u.compared n then .next (t.setCore (n + 1) (b.follows (u.core n))) else .next (s.pairMismatch n)
  | .next _, o => o
  | o, _ => o

/-- Context k of core n issues one instruction; the second core of a pair issues with the first. -/
def State.issueAt (s : State) (n k : Nat) : Host.Outcome State Fault Refusal :=
  if (s.core n).pair then (if n % 2 = 1 then .next s else s.issuePair n k) else s.issueFrom n k

/-- Core n issues one instruction, if it can. -/
def State.issueCore (s : State) (n : Nat) : Host.Outcome State Fault Refusal :=
  match s.pick n with
  | none => .next s
  | some k => s.issueAt n k

/-- The next core that can issue, in ascending number from the one after n. -/
def State.nextCore (s : State) (n : Nat) (able : Nat → Bool) : Option Nat :=
  let cs := (s.cores.map (·.1)).filter able
  match cs.find? fun c => decide (n < c) with
  | some c => some c
  | none => cs.head?

/-! ### What moves by itself (log 26) -/

/-- A thing in flight moves. -/
def State.moveFlight (s : State) (n : Nat) (f : Flight) : Host.Outcome State Fault Refusal :=
  match f with
  | .mem _ _ _ _ _ _ .travelling _ => execMemoryRequestAtHome n s
  | .mem _ _ _ _ _ _ .refused _ => execRefusedRequestReissue n s
  | .mem _ _ _ _ _ _ (.answered _) _ => execAccessResponse n s
  | .remote _ _ _ _ _ => execRemoteCoreMemoryAccess n s
  | .amof _ _ _ _ _ _ _ _ _ _ => execAmofArrival n s
  | .bararv _ _ _ _ => execBararvArrival n s
  | .bar _ _ _ _ => execBarrierArrival n s
  | .send _ _ _ _ _ _ => execSendArrival n s
  | .sendAnswer _ _ _ _ => execSendAnswer n s
  | .seizure _ _ => execSeizureArrival n s
  | .result _ _ _ _ _ _ _ _ => execSeizureResultAtRing n s
  | .mpub _ _ _ _ _ => execMirrorPublication n s
  | .mread _ _ _ _ _ _ => execMirrorReadArrival n s
  | .mreadDone _ _ _ _ _ _ => execMirrorReadDone n s
  | .pcieRead _ _ _ _ _ _ _ _ _ => execPcieReadCompletion n s
  | .start _ _ _ => .next (s.startArrive n)

/-- One entry of a list, the choice turning with n. -/
def turnOf {α : Type} (l : List α) (n : Nat) : Option α := l[n % l.length]?

/-- An engine moves: renewal, permit, taking, completion, or the next row. -/
def State.moveEngine (s : State) (cl ch : Nat) : Host.Outcome State Fault Refusal :=
  let c := s.chan cl ch
  if c.held.any fun e => e.due s.now then execLeaseRenewalWalk cl ch s
  else if c.stop = .waiting none then
    .next ((match c.queue, c.plan with
      | cmd :: _, v :: _ => if s.permitted cmd v then s.setChan cl ch { c with stop := .going } else s
      | _, _ => s))
  else if !c.taken then .next (s.takeCommand cl ch)
  else if c.plan.isEmpty then .next (s.completeCommand cl ch)
  else if c.headIs [4] then execExpand cl ch s
  else .next (s.stepRow cl ch)

/-- Engines that have a command and are not stopped. -/
def State.busyEngines (s : State) : List (Nat × Nat) :=
  ((List.range 16).flatMap clusterEngines).filter fun e =>
    let c := s.chan e.1 e.2
    !c.queue.isEmpty && (c.stop == .going || c.stop == .waiting none)

/-- A pre-emption moves (R309, R310): one that is saved resumes once the work that interrupted it is over; a stop for a container set
ends with the set (R374). -/
def State.movePreempt (s : State) (p : Preempt) : Host.Outcome State Fault Refusal :=
  if !p.save then execContainerCapture s
  else match p.phase with
    | 1 => execPreemptLogDrained p.lvl p.dom s
    | 2 => execPreemptSaveDone p.lvl p.dom s
    | 3 => if (s.chosen.map (overlapDom (p.lvl, p.dom))).getD false then .next s else execPreemptedTaskResume p.lvl p.dom s
    | _ => execPreemptedTaskResume p.lvl p.dom s

/-- The Dispenser moves: submissions, launches, supersteps, shares, the clear sequencer, pre-emptions. -/
def State.moveDispenser (s : State) (n : Nat) : Host.Outcome State Fault Refusal :=
  let cs := s.cores.map (·.1)
  match n % 7 with
  | 0 => match turnOf (cs.filter fun c => !(s.core c).q1.isEmpty) (n / 7) with
    | some c => execLaunchTake c s
    | none => .next s
  | 1 => if s.launches.isEmpty then .next s else execLaunchAdmit (n / 7 % s.launches.length) s
  | 2 => match s.chosen with
    | some d => execSuperstepBegin d.1 d.2 s
    | none => .next s
  | 3 => match turnOf (cs.filter fun c => (s.core c).canStart) (n / 7) with
    | some c => execTaskStart c s
    | none => .next s
  | 4 => match turnOf s.preempts (n / 7) with
    | some p => s.movePreempt p
    | none => .next s
  | 5 => match turnOf s.preemptAsked (n / 7) with
    | some d => .next (s.retryPreempt d)
    | none => .next s
  | _ => match turnOf (cs.filter fun c => (s.core c).clearing) (n / 7) with
    | some c => execClearSequenceEnd c s
    | none => .next s

/-- A target's sequence moves (R330). -/
def State.moveSeizure (s : State) (c : Nat) : Host.Outcome State Fault Refusal :=
  match (s.core c).seizPhase with
  | .idle | .restored => execSeizureAccept c s
  | .accepted | .stopped => execSeizureDrainEnd c s
  | .drained => execSeizureSaveEnd c s
  | .saved => execSeizureRunEnd c s
  | .ran => execSeizureRestoreEnd c s

/-- Units of a core move: seizures, the geometry unit, the sum-product engine, the side log, held Q0 events. -/
def State.moveUnit (s : State) (n : Nat) : Host.Outcome State Fault Refusal :=
  let pick (ok : CoreSt → Bool) : Option Nat := turnOf ((s.cores.filter fun e => ok e.2).map (·.1)) (n / 5)
  match n % 5 with
  | 0 => match pick fun c => c.seizPhase != .idle || !c.seiz.isEmpty with
    | some c => s.moveSeizure c
    | none => .next s
  | 1 => match pick fun c => !c.egu.isEmpty with
    | some c => execEguCompletion c s
    | none => .next s
  | 2 => match pick fun c => !c.spe.isEmpty with
    | some c => execSpeCompletion c s
    | none => .next s
  | 3 => match pick fun c => !c.slog.isEmpty with
    | some c => execSideLogReplay c (n / 5 % (s.core c).slog.length) s
    | none => .next s
  | _ => match pick fun c => !c.q0Held.isEmpty with
    | some c => execQ0EventPost c s
    | none => .next s

/-- The Mirror, the order of SC operations, and fault records move. -/
def State.moveShared (s : State) (n : Nat) : Host.Outcome State Fault Refusal :=
  match n % 4 with
  | 0 => match s.pubs with
    | .mpub _ _ _ slot _ :: _ => execMirrorFlip slot s
    | _ => .next s
  | 1 => match turnOf (s.slots.filter fun e => e.2.inEffect != e.2.grant) (n / 4) with
    | some e => execMirrorGrantInEffect e.1 s
    | none => .next s
  | 2 => if s.sc.isEmpty then .next s else execScOperationComplete (n / 4 % s.sc.length) s
  | _ =>
    let k := n / 4 % 16
    let w := s.clusterWaits k
    if w.isEmpty then .next s else execFaultRecordPost k (n / 64 % w.length) s

/-- A reset of a function moves (R347). -/
def State.moveReset (s : State) (r : Reset) : Host.Outcome State Fault Refusal :=
  match r.stage with
  | 2 => execFlrDrainEnd r.vf s
  | 3 => execFlrScrubEnd r.vf s
  | _ => execFlrLeaseWaitEnd r.vf s

/-- The host's rings, resets, scrubs, power settings, firmware and repairs move. -/
def State.moveService (s : State) (n : Nat) : Host.Outcome State Fault Refusal :=
  match n % 7 with
  | 0 => match turnOf s.queues (n / 7) with
    | some q => execHostLaunchEntry q.1 s
    | none => .next s
  | 1 => match turnOf s.queues (n / 7) with
    | some q => execCompletionQueueEntry q.1 s
    | none => .next s
  | 2 => match turnOf s.queues (n / 7) with
    | some q => execFaultQueueRecord q.1 s
    | none => .next s
  | 3 => match turnOf s.resets (n / 7) with
    | some r => s.moveReset r
    | none => .next s
  | 4 => match turnOf s.leaving (n / 7) with
    | some e => execScrubEnd e.1 s
    | none => .next s
  | 5 => match turnOf (s.cores.filter fun e => e.2.pwrNext.isSome) (n / 7) with
    | some e => execPowerSettingApply e.1 s
    | none => if s.fwstat.getLsbD 62 then execFwInstallComplete s else .next s
  | _ => match turnOf (s.drams.filter fun e => e.2.repairing.isSome) (n / 7) with
    | some e => execDramRepairComplete e.1 s
    | none => .next s

/-- Timers move: periodic triggers and deadlines of reflex banks (R318, R319). -/
def State.moveTimer (s : State) (n : Nat) : Host.Outcome State Fault Refusal :=
  match turnOf (s.cores.filter fun e => Config.isReflex e.1) (n / 8) with
  | some e => if n % 2 = 0 then execPeriodicTrigger e.1 (n / 2 % 4) s else execWatchdog e.1 (n / 2 % 4) s
  | none => .next s

/-- Chip time moves on by the next entry of the elapse list, or 1 ns (R4, log 25). -/
def State.tick (s : State) : State :=
  match s.elapse with
  | [] => { s with now := s.now + 1 }
  | d :: ds => { s with now := s.now + d, elapse := ds }

/-- Events that a frozen device still takes (R383, R384). -/
def movesFrozen : Instr → Bool
  | .freezeRelease | .deviceReset => true
  | _ => false

/-- Host requests, which a frozen device holds (R383): a write of FREEZE too. -/
def isHostRequest : Instr → Bool
  | .lqtailWrite _ _ | .cqheadWrite _ _ | .fqheadWrite _ _ | .fqanswerMapped _ | .fqanswerInvalid _ | .queueCfgWrite _ _ _
  | .hostRegisterWrite _ _ _ | .bar2Access _ _ _ | .assignWrite _ _ | .rassignWrite _ _ | .functionLevelReset _
  | .fwInstall | .fwActivate | .pwrWrite _ _ | .declareFree | .declareInUse | .repcmdRepair _ | .repcmdDecline _
  | .mirrorGrantWrite _ _ _ | .vfEnable | .freeze => true
  | _ => false

/-- What only a device that has booted takes: host requests but those of the firmware window, and what the monitor does (R384). -/
def needsBoot : Instr → Bool
  | .fwInstall | .fwActivate | .hostRegisterWrite _ _ _ => false
  | .regionpcWrite _ _ _ | .tshapeWrite _ _ _ | .capWordWrite _ _ _ _ _ | .capaccWrite _ _ _ | .segbaseWrite _ _ _ | .seglimWrite _ _ _
  | .relcfgWrite _ _ _ | .sysregWrite _ _ _ _ | .faultAnswerMapped _ | .faultAnswerInvalid _ | .objectLoad _ _ _ _
  | .forcedPreemption _ _ | .spareTakeover | .containerCapture | .heartbeat | .peerLost => true
  | e => isHostRequest e

/-- An event of the agenda. -/
def State.takeEvent (s : State) (e : Instr) : Host.Outcome State Fault Refusal :=
  if !e.isEvent then .fault .notAnEvent
  else if s.frozen && !movesFrozen e then .next (if isHostRequest e then { s with heldHost := s.heldHost ++ [.event e] } else s)
  else if !s.booted && needsBoot e then .next s
  else exec e s

/-- Context k of core n is tried again. Where its instruction would complete while others of the core run, it is only awake again, and
issues in its turn (R307); a bank asleep between releases takes its trap at once. -/
def State.tryAgain (s : State) (n k : Nat) : Host.Outcome State Fault Refusal :=
  match s.issueAt n k with
  | .next t =>
    let x := s.ctxAt n k
    if (t.ctxAt n k).canRun && x.run != .released && (s.pickRunning n).isSome then
      .next ((s.pairCores n).foldl (fun (s : State) c =>
        s.setCore c { (s.core c).setCtx k { s.ctxAt c k with run := .running } with lastPoll := k }) s)
    else .next t
  | o => o

/-- What moves with an empty agenda, kind after kind; every other turn is a core's. -/
def State.free (s : State) : Host.Outcome State Fault Refusal :=
  let n := s.spin
  let s := { s with spin := s.spin + 1 }
  let issue : Host.Outcome State Fault Refusal := match s.nextCore s.issued fun c => (s.pick c).isSome with
    | some c => { s with issued := c }.issueCore c
    | none => .next s
  if n % 2 = 0 then issue
  else
    let m := n / 16
    match n / 2 % 8 with
    | 0 => match turnOf s.flight m with
      | some f => s.moveFlight (m % s.flight.length) f
      | none => issue
    | 1 => match turnOf s.busyEngines m with
      | some e => s.moveEngine e.1 e.2
      | none => issue
    | 2 => s.moveDispenser m
    | 3 => s.moveUnit m
    | 4 => s.moveShared m
    | 5 => s.moveService m
    | 6 => s.moveTimer m
    | _ => match s.nextCore s.polled fun c => (s.poll c).isSome with
      | some c => match s.poll c with
        | some k => { s with polled := c }.tryAgain c k
        | none => .next s
      | none => issue

/-- One turn: a frozen device keeps its time (R284, R383); otherwise time passes and one thing moves. -/
def State.takeTurn (s : State) : Host.Outcome State Fault Refusal :=
  let s := if s.frozen then s else s.tick
  match s.agenda with
  | .event e :: t => { s with agenda := t }.takeEvent e
  | .core n :: t => if s.frozen then .next { s with agenda := t } else { s with agenda := t }.issueCore n
  | .upset u c :: t => .next (if s.frozen then { s with agenda := t } else { s with agenda := t }.upset u c)
  | .hostRead vf off n :: t =>
    .next (if s.frozen then { s with agenda := t, heldHost := s.heldHost ++ [.hostRead vf off n] }
      else { s with agenda := t }.hostRead vf off n)
  | [] => if s.frozen then .next s else s.free

end Sys2Proof.Machine
end

