-- ==== Sys2Proof/Machine/Place.lean ====
section
/-! DEFINITION. Placing an instruction where the machine fetches next (log 4). -/

namespace Sys2Proof.Machine

/-- Where the placed instruction stands: a physical address of DRAM, fetched at the context's pc. -/
def placeFrame : Nat := 0x10000

/-- A TLB entry that maps the 64 KiB page of the context's pc onto the frame, for fetch, under the core's tag. -/
def placeEntry (pc vf cl t : Nat) : TlbEntry :=
  { base := pc / 65536 * 65536, log2 := 16, frame := placeFrame, r := true, w := true, x := true, d := true, vf := vf,
    cmask := BitVec.ofNat 16 (2 ^ cl), lease := 15, filled := t, expiry := t + 2 ^ 25 }

/-- Bytes put down from a key on, in a table of bytes. -/
def putBytes (t : Tab Byte) (k : Nat) : List Byte → Tab Byte
  | [] => t
  | b :: bs => putBytes (tset 0 t k b) (k + 1) bs

/-- Context 0 of core 0 runs at its pc with the page of pc mapped onto a frame that holds 20 bytes of w, and no agenda
entry, flight or replay comes before it. -/
def placeWord (s : State) (w : Nat) : State :=
  let c := s.core 0
  let x := c.ctx 0
  let off := x.pc.toNat % 65536
  let e := placeEntry x.pc.toNat c.vf 0 s.now
  let x := { x with run := .running, replayT := none, replayM := none, async := [] }
  let c := { c.setCtx 0 x with itlb := [e], seizPhase := .idle, preempting := false, scrubbing := false, last := 10 }
  { (s.setCore 0 c) with dram := putBytes s.dram (placeFrame + off) (leBytes 20 w), frozen := false, agenda := [.core 0],
                         flight := [] }

end Sys2Proof.Machine
end

