-- ==== Sys2Proof/Machine/Step.lean ====
section
/-! DEFINITION. One step of the machine, and the placing of one instruction where the next step fetches. -/

namespace Sys2Proof.Machine

/-- One step: one instruction of one context, or one device event. -/
def step (s : State) : Host.Outcome State Fault Refusal := s.takeTurn

/-- The state with an instruction of nbits bits stored where step fetches next; the bits above nbits are zero (log 4). -/
def State.withFetchWord (s : State) (nbits w : Nat) : State := placeWord s (w % 2 ^ nbits)

end Sys2Proof.Machine
end

