-- ==== Sys2Proof/Safety.lean ====
section
/-! DEFINITION. The terms of the claims: a well-formed machine, whose memories are in their one canonical form (log 2), what a step
leaves unchanged, and the rules of the spec as tables over the instructions. -/

namespace Sys2Proof.Machine

/-- A core's memories are canonical: keys rising, no byte listed that an unlisted one reads as. -/
def CoreSt.memWf (c : CoreSt) : Bool := twf 0 c.mem && twf 0 c.tbuf

/-- Every memory of the machine is canonical. -/
def State.memWf (s : State) : Bool :=
  twf 0 s.dram && twf 0 s.host && twf 0 s.peer && twf 0 s.sram && s.cores.all fun e => e.2.memWf

/-- The invariant that every step keeps. -/
def State.Inv (s : State) : Prop := s.memWf = true

/-! ### What a statement says is unchanged -/

/-- Every byte of every memory reads as before. -/
def State.sameBytes (s t : State) : Prop := ∀ p, t.byteAt p = s.byteAt p

/-- Every byte but the n bytes from p on reads as before. -/
def State.sameBytesBut (s t : State) (p : Place) (n : Nat) : Prop :=
  ∀ q, (∀ k < n, q ≠ p.plus k) → t.byteAt q = s.byteAt q

/-- The machine is as before but for the issuing context. -/
def State.onlyMy (s t : State) : Prop := t = s.setMy t.my

/-- The machine is as before but for the issuing core. -/
def State.onlyMe (s t : State) : Prop := t = s.setMe t.me

def Ctx.sameG (x y : Ctx) : Prop := ∀ r, y.getG r = x.getG r
def Ctx.sameP (x y : Ctx) : Prop := ∀ r, y.getP r = x.getP r
def Ctx.sameV (x y : Ctx) : Prop := ∀ r, y.getV r = x.getV r
def Ctx.sameA (x y : Ctx) : Prop := ∀ r, y.getA r = x.getA r
def Ctx.sameSys (x y : Ctx) : Prop := ∀ n, y.sysr n = x.sysr n

/-- Every G register but d holds what it held, and so do the other registers, status and streams of the context. -/
def Ctx.onlyG (x y : Ctx) (d : Nat) : Prop :=
  (∀ r, r ≠ d → y.getG r = x.getG r) ∧ x.sameP y ∧ x.sameV y ∧ x.sameA y ∧ x.sameSys y ∧ y.streams = x.streams

/-- The same for a P register. -/
def Ctx.onlyP (x y : Ctx) (d : Nat) : Prop :=
  (∀ r, r ≠ d → y.getP r = x.getP r) ∧ x.sameG y ∧ x.sameV y ∧ x.sameA y ∧ x.sameSys y ∧ y.streams = x.streams

/-- The same for a pointer. -/
def Ctx.onlyA (x y : Ctx) (d : Nat) : Prop :=
  (∀ r, r ≠ d → y.getA r = x.getA r) ∧ x.sameG y ∧ x.sameP y ∧ x.sameV y ∧ x.sameSys y ∧ y.streams = x.streams

/-- No register of the context changes. -/
def Ctx.sameRegs (x y : Ctx) : Prop :=
  x.sameG y ∧ x.sameP y ∧ x.sameV y ∧ x.sameA y ∧ x.sameSys y ∧ y.streams = x.streams

/-- Outside a replay the instruction of n words is followed by the next one. -/
def State.movesOn (s t : State) (n : Nat) : Prop := s.my.replay = none → t.my.pc = s.my.pc + BitVec.ofNat 64 (4 * n)

/-! ### Rules of the spec as tables -/

/-- The guard of an instruction that has one (R75). -/
def guardOf : Instr → Option Reg3
  | .add _ _ _ g | .sub _ _ _ g | .mul _ _ _ g | .mulh _ _ _ g | .mulhu _ _ _ g | .div _ _ _ g | .divu _ _ _ g
  | .rem _ _ _ g | .remu _ _ _ g | .and _ _ _ g | .or _ _ _ g | .xor _ _ _ g | .andn _ _ _ g | .orn _ _ _ g
  | .shl _ _ _ g | .shr _ _ _ g | .sra _ _ _ g | .rotl _ _ _ g | .min _ _ _ g | .max _ _ _ g | .minu _ _ _ g
  | .maxu _ _ _ g | .clz _ _ g | .ctz _ _ g | .popc _ _ g | .brev _ _ g | .bswap _ _ g | .sextB _ _ g | .sextH _ _ g
  | .sextW _ _ g | .zextB _ _ g | .zextH _ _ g | .zextW _ _ g | .mov _ _ g | .sel _ _ _ _ g => some g
  | .cmpEq _ _ _ g | .cmpNe _ _ _ g | .cmpLt _ _ _ g | .cmpLe _ _ _ g | .cmpLtu _ _ _ g | .cmpLeu _ _ _ g
  | .pand _ _ _ g | .por _ _ _ g | .pxor _ _ _ g | .pnot _ _ g | .pmov _ _ g | .aput _ _ g | .aget _ _ g | .ainc _ _ g
  | .acfg _ _ _ g | .br g _ | .bl g _ | .jr _ g | .jlr _ g | .ret g => some g
  | .ld _ _ _ _ _ g | .ldExt _ _ _ _ _ _ g | .lda _ _ _ _ _ g | .ldS _ _ _ _ _ g | .ldSExt _ _ _ _ _ _ g
  | .ldaS _ _ _ _ _ g | .st _ _ _ _ _ g | .stExt _ _ _ _ _ _ g | .sta _ _ _ _ _ g | .vld _ _ _ _ _ g | .vst _ _ _ _ _ g
  | .vlds _ _ _ _ _ _ _ g | .vgth _ _ _ _ _ _ _ g | .vsct _ _ _ _ _ _ _ g => some g
  | .fence _ _ g | .acq _ g | .rel _ g | .pref _ _ g | .clean _ _ g | .czero _ _ g | .sbind _ _ g | .sfree _ g => some g
  | .vadd _ _ _ _ _ g | .vsub _ _ _ _ _ g | .vmul _ _ _ _ _ g | .vfma _ _ _ _ _ g | .vfms _ _ _ _ _ g
  | .vfnma _ _ _ _ _ g | .vmin _ _ _ _ _ g | .vmax _ _ _ _ _ g | .vabs _ _ _ _ g | .vneg _ _ _ _ g | .vdiv _ _ _ _ _ g
  | .vsqrt _ _ _ _ g | .vrcp _ _ _ _ g | .vrsq _ _ _ _ g | .vexp _ _ _ _ g | .vlog _ _ _ _ g | .vsig _ _ _ _ g
  | .vtanh _ _ _ _ g | .viadd _ _ _ _ _ g | .visub _ _ _ _ _ g | .vimul _ _ _ _ _ g | .vimin _ _ _ _ _ g
  | .vimax _ _ _ _ _ g | .vshl _ _ _ _ _ g | .vshr _ _ _ _ _ g | .vsra _ _ _ _ _ g | .vand _ _ _ _ _ g
  | .vor _ _ _ _ _ g | .vxor _ _ _ _ _ g | .vnot _ _ _ _ g | .vcmp _ _ _ _ _ _ g | .vicmp _ _ _ _ _ _ g => some g
  | .vmov _ _ _ _ g | .vbcast _ _ _ _ g | .vext _ _ _ _ _ g | .vins _ _ _ _ _ g | .vperm _ _ _ _ _ g
  | .vslide _ _ _ _ _ g | .vzip _ _ _ _ _ g | .vunzip _ _ _ _ _ g | .vcomp _ _ _ _ g | .vexpd _ _ _ _ g | .viota _ _ _ g
  | .vsel _ _ _ _ _ g | .vcvt _ _ _ _ _ _ g | .vredAdd _ _ _ _ g | .vredMin _ _ _ _ g | .vredMax _ _ _ _ g
  | .vredAnd _ _ _ _ g | .vredOr _ _ _ _ g | .vredXor _ _ _ _ g | .vbtst _ _ _ _ _ g | .vpcnt _ _ _ _ g
  | .vfirst _ _ _ _ g => some g
  | .tld _ _ _ _ g | .tst _ _ _ _ g | .tldb _ _ _ _ g | .tldt _ _ _ _ g | .tldLit _ _ _ _ _ _ g | .tzero _ g
  | .accz _ g | .accrd _ _ g | .accwr _ _ g | .accld _ _ _ g | .accst _ _ _ g | .mma _ _ _ g | .mxepi _ _ _ _ _ _ g
  | .mxgate _ _ _ g | .mxred _ _ _ _ g | .mxsend _ _ _ _ g => some g
  | .gori2 _ _ _ _ _ _ g | .gori3 _ _ _ _ _ _ g | .gincir _ _ _ _ _ _ g | .ginsph _ _ _ _ _ _ g | .gsegx _ _ _ _ _ _ g
  | .gsegt _ _ _ _ _ _ g | .spld _ _ g | .spldExt _ _ _ _ g | .spst _ _ g | .spstExt _ _ _ _ g | .spmov _ _ g
  | .spset _ _ g | .sptree _ _ _ g | .spup _ _ _ g | .spdn _ _ _ g | .spnorm _ _ g | .spcvt _ _ g | .spmax _ _ _ g => some g
  | .bar _ g | .bararv _ g | .barwt _ g | .xph g | .push _ _ g | .tlrd _ _ g | .tlwt _ _ g | .tlwtLit _ _ g
  | .send _ _ _ g | .recv _ _ g | .rpoll _ _ g | .qrd _ _ g | .qwr _ _ _ g | .start _ _ _ g | .joinh _ g | .exit g
  | .region g | .ckpt _ g | .mpub _ _ _ _ g | .mread _ _ _ _ g | .mwait _ _ _ g | .time _ g | .sleep _ g | .sleepLit _ g
  | .wfe g | .chsend _ _ _ g | .chrecv _ _ _ g | .chclose _ g | .vcid _ g => some g
  | _ => none

/-- R99, R101-R104, R107: the G register that a scalar instruction names, and the value that the rule gives it, from the
words a of ga and b of gb or the literal. -/
def scalarRule (s : State) : Instr → Option (Reg5 × Word)
  | .add d a b _ => some (d, s.getG a + s.src b)
  | .sub d a b _ => some (d, s.getG a - s.src b)
  | .mul d a b _ => some (d, BitVec.ofNat 64 ((s.getG a).toNat * (s.src b).toNat))
  | .mulh d a b _ => some (d, BitVec.ofInt 64 ((s.getG a).toInt * (s.src b).toInt / 2 ^ 64))
  | .mulhu d a b _ => some (d, BitVec.ofNat 64 ((s.getG a).toNat * (s.src b).toNat / 2 ^ 64))
  | .div d a b _ => some (d, if s.src b = 0 then -1 else BitVec.ofInt 64 ((s.getG a).toInt.tdiv (s.src b).toInt))
  | .divu d a b _ => some (d, if s.src b = 0 then -1 else s.getG a / s.src b)
  | .rem d a b _ => some (d, if s.src b = 0 then s.getG a else BitVec.ofInt 64 ((s.getG a).toInt.tmod (s.src b).toInt))
  | .remu d a b _ => some (d, if s.src b = 0 then s.getG a else s.getG a % s.src b)
  | .and d a b _ => some (d, s.getG a &&& s.src b)
  | .or d a b _ => some (d, s.getG a ||| s.src b)
  | .xor d a b _ => some (d, s.getG a ^^^ s.src b)
  | .andn d a b _ => some (d, s.getG a &&& ~~~s.src b)
  | .orn d a b _ => some (d, s.getG a ||| ~~~s.src b)
  | .shl d a b _ => some (d, s.getG a <<< ((s.src b).toNat % 64))
  | .shr d a b _ => some (d, s.getG a >>> ((s.src b).toNat % 64))
  | .sra d a b _ => some (d, (s.getG a).sshiftRight ((s.src b).toNat % 64))
  | .rotl d a b _ => some (d, (s.getG a).rotateLeft ((s.src b).toNat % 64))
  | .min d a b _ => some (d, if (s.getG a).sle (s.src b) then s.getG a else s.src b)
  | .max d a b _ => some (d, if (s.getG a).sle (s.src b) then s.src b else s.getG a)
  | .minu d a b _ => some (d, if (s.getG a).ule (s.src b) then s.getG a else s.src b)
  | .maxu d a b _ => some (d, if (s.getG a).ule (s.src b) then s.src b else s.getG a)
  | .sextB d a _ => some (d, ((s.getG a).extractLsb' 0 8).signExtend 64)
  | .sextH d a _ => some (d, ((s.getG a).extractLsb' 0 16).signExtend 64)
  | .sextW d a _ => some (d, ((s.getG a).extractLsb' 0 32).signExtend 64)
  | .zextB d a _ => some (d, s.getG a &&& 0xFF)
  | .zextH d a _ => some (d, s.getG a &&& 0xFFFF)
  | .zextW d a _ => some (d, s.getG a &&& 0xFFFFFFFF)
  | .mov d a _ => some (d, s.getG a)
  | .sel d a b ps _ => some (d, if (s.getP ps).getLsbD 0 then s.getG a else s.src b)
  | .addi d a (.short i) => some (d, s.getG a + i.signExtend 64)
  | .addi d a (.lit v) => some (d, s.getG a + v)
  | .andi d a (.short i) => some (d, s.getG a &&& i.signExtend 64)
  | .andi d a (.lit v) => some (d, s.getG a &&& v)
  | .ori d a (.short i) => some (d, s.getG a ||| i.signExtend 64)
  | .ori d a (.lit v) => some (d, s.getG a ||| v)
  | .xori d a (.short i) => some (d, s.getG a ^^^ i.signExtend 64)
  | .xori d a (.lit v) => some (d, s.getG a ^^^ v)
  | .shli d a n => some (d, s.getG a <<< n.toNat)
  | .shri d a n => some (d, s.getG a >>> n.toNat)
  | .srai d a n => some (d, (s.getG a).sshiftRight n.toNat)
  | .rotli d a n => some (d, (s.getG a).rotateLeft n.toNat)
  | .movi d i => some (d, i.signExtend 64)
  | .moviLit d v => some (d, v)
  | .aget d a _ => some (d, s.getA a)
  | _ => none

/-- R105: the condition of a scalar compare. -/
def condition (c : Cc) (a b : Word) : Bool :=
  match c with
  | .eq => a == b
  | .ne => a != b
  | .lt => a.slt b
  | .le => a.sle b
  | .ltu => a.ult b
  | .leu => a.ule b

/-- R105, R106: the P register that a compare or a predicate operation names, and the value that the rule gives it. -/
def predRule (s : State) : Instr → Option (Reg3 × Pred)
  | .cmpEq d a b _ => some (d, predOf (condition .eq (s.getG a) (s.src b)))
  | .cmpNe d a b _ => some (d, predOf (condition .ne (s.getG a) (s.src b)))
  | .cmpLt d a b _ => some (d, predOf (condition .lt (s.getG a) (s.src b)))
  | .cmpLe d a b _ => some (d, predOf (condition .le (s.getG a) (s.src b)))
  | .cmpLtu d a b _ => some (d, predOf (condition .ltu (s.getG a) (s.src b)))
  | .cmpLeu d a b _ => some (d, predOf (condition .leu (s.getG a) (s.src b)))
  | .cmpiEq d a i => some (d, predOf (condition .eq (s.getG a) (immVal i)))
  | .cmpiNe d a i => some (d, predOf (condition .ne (s.getG a) (immVal i)))
  | .cmpiLt d a i => some (d, predOf (condition .lt (s.getG a) (immVal i)))
  | .cmpiLe d a i => some (d, predOf (condition .le (s.getG a) (immVal i)))
  | .cmpiLtu d a i => some (d, predOf (condition .ltu (s.getG a) (immVal i)))
  | .cmpiLeu d a i => some (d, predOf (condition .leu (s.getG a) (immVal i)))
  | .pand d a b _ => some (d, s.getP a &&& s.getP b)
  | .por d a b _ => some (d, s.getP a ||| s.getP b)
  | .pxor d a b _ => some (d, s.getP a ^^^ s.getP b)
  | .pnot d a _ => some (d, ~~~s.getP a)
  | .pmov d a _ => some (d, s.getP a)
  | _ => none

/-- R107-R109: the pointer that an instruction names, and its new value; AINC moves a valid pointer and marks another. -/
def pointerRule (s : State) : Instr → Option (Reg3 × Word)
  | .aput d a _ => some (d, s.getG a)
  | .ainc d b _ => some (d, if ptrIn s.rect (s.getA d) then ptrMove s.rect (s.getA d) (s.src b).toInt
      else s.getA d ||| 0x8000000000000000)
  | .acfg d a b _ => some (d, ptrOfLin s.rect (s.getG b).toNat (s.getG a).toInt)
  | _ => none

/-- R110, R111: the target of a control transfer, and whether it writes the link. -/
def jumpRule (s : State) : Instr → Option (Word × Bool)
  | .br _ disp => some (s.my.pc + BitVec.ofInt 64 (4 * disp.toInt), false)
  | .bl _ disp => some (s.my.pc + BitVec.ofInt 64 (4 * disp.toInt), true)
  | .jr a _ => some (s.getG a, false)
  | .jlr a _ => some (s.getG a, true)
  | .ret _ => some (s.getG 31, false)
  | _ => none

/-- A turn of core n, outside a lockstep pair, issues from its context k in the state t: chip time moved on, the turn taken and the
issuing context set, with no trap to deliver and no cause due. -/
def State.issues (s : State) (n k : Nat) (agenda : List Turn) (t : State) : Prop :=
  s.agenda = .core n :: agenda ∧ s.frozen = false ∧
    (let r := { s.tick with agenda := agenda }
     let c := r.core n
     r.pick n = some k ∧ c.pair = false ∧
      t = { r.setCore n (if (c.ctx k).canRun then { c with last := k } else { c with lastPoll := k }) with cur := { core := n, ctx := k } } ∧
      t.my.dispatching = none ∧ t.my.async = [] ∧ t.my.run ≠ .released)

/-- R114: a register number stepped p times within its class. -/
def steppedReg {w : Nat} (r : BitVec w) (p : Nat) (step : BitVec 4) : BitVec w := r + BitVec.ofInt w (p * step.toInt)

/-- R114: what a captured instruction becomes on pass p, for one or two instructions of each class of register. -/
def steppedForm (p : Nat) (st : RepSteps) : Instr → Option Instr
  | .add d a (.reg b) g => some (.add (steppedReg d p st.d) (steppedReg a p st.a) (.reg (steppedReg b p st.b)) g)
  | .addi d a (.short v) => some (.addi (steppedReg d p st.d) (steppedReg a p st.a) (.short v))
  | .pand d a b g => some (.pand (steppedReg d p st.d) (steppedReg a p st.a) (steppedReg b p st.b) g)
  | .ld d a l z v g => some (.ld (steppedReg d p st.d) (steppedReg a p st.a) l z v g)
  | .st d a l z v g => some (.st (steppedReg d p st.d) (steppedReg a p st.a) l z v g)
  | .aput d a g => some (.aput (steppedReg d p st.d) (steppedReg a p st.a) g)
  | .vadd t d a b x g => some (.vadd t (steppedReg d p st.d) (steppedReg a p st.a) (steppedReg b p st.b) x g)
  | .vld d a sp v x g => some (.vld (steppedReg d p st.d) (steppedReg a p st.a) sp v x g)
  | .tld d a b sp g => some (.tld (steppedReg d p st.d) (steppedReg a p st.a) (steppedReg b p st.b) sp g)
  | .mma a b r g => some (.mma (steppedReg a p st.a) (steppedReg b p st.b) r g)
  | .spmov d a g => some (.spmov (steppedReg d p st.d) (steppedReg a p st.a) g)
  | .mfs d n => some (.mfs (steppedReg d p st.d) n)
  | .push d e g => some (.push (steppedReg d p st.d) e g)
  | _ => none

/-- R83: a target that may be reached. -/
def legalTarget (t : Word) : Bool := decide (t.toNat < 2 ^ 56) && decide (t.toNat % 4 = 0)

/-- The guard of an instruction, where it has one, is true. -/
def State.guardHolds (s : State) (i : Instr) : Bool :=
  match guardOf i with
  | some g => s.guardOn g
  | none => true

/-- Words of an encoded instruction. -/
def words (i : Instr) : Nat := (encode i).length

/-! ### Memory accesses -/

/-- The checks of R121 pass for one access of n bytes at va, whose bytes lie at p; u is the state with the translations that
the access made. -/
def State.reach (s : State) (sp : Space) (acc : Acc) (inf : AddrInfo) (va : Word) (n : Nat) (p : Place) (u : State) : Prop :=
  ∃ e, s.check sp acc inf (oneItem va n) = .ok ([⟨⟨0, va, va, n, n⟩, some p, e⟩], u)

/-- No access of the issuing context is in flight, in the sum-product engine or owed by the geometry unit: what a later one of its
bytes would wait for (R199, R213, R251). -/
def State.calm (s : State) : Prop :=
  (∀ f ∈ s.flight, f.ofCtx s.cur.core s.cur.ctx = false) ∧ (∀ p ∈ s.me.spe, p.ctx = s.cur.ctx → p.mem = none) ∧
    ∀ p ∈ s.me.egu, p.ctx = s.cur.ctx → s.my.stream p.d = none

/-- A scalar access: space, address, bytes, order, guard. -/
structure ScalarAcc where
  sp : Space
  va : Word
  n : Nat
  o : Order
deriving DecidableEq, Repr

/-- R120, R122, R123: what a scalar load reads, the G register it writes, and whether the value is sign-extended. -/
def loadRule (s : State) : Instr → Option (ScalarAcc × Reg5 × Bool)
  | .ld d a loc z i _ => some (⟨locSpace loc, s.effective a (i.signExtend 64 <<< z.toNat), 2 ^ z.toNat, .rlx⟩, d, false)
  | .ldS d a loc z i _ => some (⟨locSpace loc, s.effective a (i.signExtend 64 <<< z.toNat), 2 ^ z.toNat, .rlx⟩, d, true)
  | .ldExt d a loc z i o _ => some (⟨locSpace loc, s.effective a (mOffset z i), 2 ^ z.toNat, o.getD .rlx⟩, d, false)
  | .ldSExt d a loc z i o _ => some (⟨locSpace loc, s.effective a (mOffset z i), 2 ^ z.toNat, o.getD .rlx⟩, d, true)
  | .lda d a z _ o _ => some (⟨.dist, s.getA a, 2 ^ z.toNat, o.getD .rlx⟩, d, false)
  | .ldaS d a z _ o _ => some (⟨.dist, s.getA a, 2 ^ z.toNat, o.getD .rlx⟩, d, true)
  | _ => none

/-- R120, R122, R123: what a scalar store writes to, and the G register it stores. -/
def storeRule (s : State) : Instr → Option (ScalarAcc × Reg5)
  | .st d a loc z i _ => some (⟨locSpace loc, s.effective a (i.signExtend 64 <<< z.toNat), 2 ^ z.toNat, .rlx⟩, d)
  | .stExt d a loc z i o _ => some (⟨locSpace loc, s.effective a (mOffset z i), 2 ^ z.toNat, o.getD .rlx⟩, d)
  | .sta d a z _ o _ => some (⟨.dist, s.getA a, 2 ^ z.toNat, o.getD .rlx⟩, d)
  | _ => none

/-- R123: the pointer that LDA and STA move, and by how many bytes. -/
def postRule : Instr → Option (Reg3 × Int)
  | .lda _ a z i _ _ | .ldaS _ a z i _ _ | .sta _ a z i _ _ => some (a, i.toInt * (2 ^ z.toNat : Nat))
  | _ => none

/-- R124, R312: where a store to a place puts its bytes: in both memories of another core that is one of a lockstep pair. -/
def State.copies (s : State) (p : Place) : List Place :=
  match p with
  | .core n off => if n = s.cur.core then [p] else (s.pairCores n).map fun c => .core c off
  | _ => [p]

/-- R312: where an agent's write to a place puts its bytes: in both memories of a lockstep pair. -/
def State.homes (s : State) (p : Place) : List Place :=
  match p with
  | .core n off => (s.pairCores n).map fun c => .core c off
  | _ => [p]

/-- R124: a place in another core's memory that an access through a pointer reaches. -/
def State.far (s : State) (sp : Space) (p : Place) : Prop := ∃ n off, sp = .dist ∧ p = .core n off ∧ n ≠ s.cur.core

/-- Every byte but the n bytes from each of the places on reads as before. -/
def State.sameBytesOff (s t : State) (ps : List Place) (n : Nat) : Prop :=
  ∀ q, (∀ p ∈ ps, ∀ k < n, q ≠ p.plus k) → t.byteAt q = s.byteAt q

/-- A store to a place is performed later, where the model's eager field is false (log 26): one to global memory, or to another core's. -/
def State.later (s : State) (sp : Space) (p : Place) : Bool :=
  !s.eager && (match sp, p with
    | .dist, .core n _ => n != s.cur.core
    | _, p => p.travels && !s.reflex)

/-- What is in flight brings these bytes to a place. -/
def Flight.brings (f : Flight) (p : Place) (bs : List Byte) : Prop :=
  (∃ c k n off, p = .core n off ∧ f = .remote c k n off bs) ∨
  (∃ c k va e m v org, f = .mem c k va p.addr e (.store m v) .travelling org ∧ leBytes m v.toNat = bs)

/-- R108, R123: a pointer after the post-increment: unchanged at 0, moved where it is valid. -/
def State.pointerAfter (s : State) (a : Reg3) (k : Int) : Word :=
  if k = 0 then s.getA a
  else if ptrIn s.rect (s.getA a) then ptrMove s.rect (s.getA a) k else s.getA a ||| 0x8000000000000000

/-- R132: the access of an atomic, its registers and what it does to a word old, from the words d of gd and b of gb: the new
value, or none where a CAS fails. -/
def atomicRule (s : State) : Instr → Option (ScalarAcc × Reg5 × (Nat → Option Nat))
  | .amo d a b op o w => some (⟨.glob, s.getG a, if w then 8 else 4, o⟩, d, fun old =>
      some (amoNew op (if w then 8 else 4) old ((s.getG b).toNat % 2 ^ (8 * (if w then 8 else 4)))))
  | .amoLocal d a b op o w false => some (⟨.loc, s.getG a, if w then 8 else 4, o⟩, d, fun old =>
      some (amoNew op (if w then 8 else 4) old ((s.getG b).toNat % 2 ^ (8 * (if w then 8 else 4)))))
  | .amoLocal d a b op o w true => some (⟨.dist, s.getA (a.extractLsb' 0 3), if w then 8 else 4, o⟩, d, fun old =>
      some (amoNew op (if w then 8 else 4) old ((s.getG b).toNat % 2 ^ (8 * (if w then 8 else 4)))))
  | .cas d a b _ o w => some (⟨.glob, s.getG a, if w then 8 else 4, o⟩, d, fun old =>
      if old = (s.getG d).toNat % 2 ^ (8 * (if w then 8 else 4))
      then some ((s.getG b).toNat % 2 ^ (8 * (if w then 8 else 4))) else none)
  | .casLocal d a b _ o w false => some (⟨.loc, s.getG a, if w then 8 else 4, o⟩, d, fun old =>
      if old = (s.getG d).toNat % 2 ^ (8 * (if w then 8 else 4))
      then some ((s.getG b).toNat % 2 ^ (8 * (if w then 8 else 4))) else none)
  | .casLocal d a b _ o w true => some (⟨.dist, s.getA (a.extractLsb' 0 3), if w then 8 else 4, o⟩, d, fun old =>
      if old = (s.getG d).toNat % 2 ^ (8 * (if w then 8 else 4))
      then some ((s.getG b).toNat % 2 ^ (8 * (if w then 8 else 4))) else none)
  | _ => none

/-- The operation of an AMO and its operand's register. -/
def amoOf : Instr → Option (AmoOp × Reg5)
  | .amo _ _ b op _ _ | .amoLocal _ _ b op _ _ _ => some (op, b)
  | _ => none

/-- R132: the order that an atomic acts with: a CAS that fails takes its failure order. -/
def atomicOrder (i : Instr) (o : Order) (wrote : Bool) : Order :=
  match i with
  | .cas _ _ _ f _ _ | .casLocal _ _ _ f _ _ _ => if wrote then o else match f with
    | .rlx => .rlx
    | .acq => .acq
    | .sc => .sc
  | _ => o

/-! ### Vectors -/

/-- No vector register of the issuing context is bound to a stream generator (R127). -/
def State.unbound (s : State) : Prop := ∀ r, s.my.stream r = none

/-- A lane of w bits. -/
def State.lane (s : State) (r : Reg5) (eb i : Nat) : BitVec (8 * eb) := BitVec.ofNat (8 * eb) (laneNat (s.getV r) eb i)

/-- A lane of a floating-point format, decoded. -/
def State.fpLane (s : State) (m : VF) (r : Reg5) (i : Nat) : Fp := (vfFmt m).dec (laneNat (s.getV r) (vfBytes m) i)

/-- A lane of a floating-point format, as bits. -/
def State.rawLane (s : State) (m : VF) (r : Reg5) (i : Nat) : Nat := laneNat (s.getV r) (vfBytes m) i

/-- R150, R152, R154, R155: the V register that a lane-wise instruction names, its element bytes, its lane predicate, and the
value and flags of an active lane. -/
def laneRule (s : State) : Instr → Option (Reg5 × Nat × Option VExt × (Nat → Nat × Flags))
  | .vadd m d a b x _ => some (d, vfBytes m, x, fun i => (vfFmt m).add s.rm (s.rawLane m a i) (s.rawLane m b i))
  | .vsub m d a b x _ => some (d, vfBytes m, x, fun i => (vfFmt m).sub s.rm (s.rawLane m a i) (s.rawLane m b i))
  | .vmul m d a b x _ => some (d, vfBytes m, x, fun i => (vfFmt m).mul s.rm (s.rawLane m a i) (s.rawLane m b i))
  | .vdiv m d a b x _ => some (d, vfBytes m, x, fun i => (vfFmt m).div s.rm (s.rawLane m a i) (s.rawLane m b i))
  | .vfma m d a b x _ => some (d, vfBytes m, x, fun i => (vfFmt m).fma s.rm (s.fpLane m a i) (s.fpLane m b i) (s.fpLane m d i))
  | .vfms m d a b x _ =>
    some (d, vfBytes m, x, fun i => (vfFmt m).fma s.rm (s.fpLane m a i) (s.fpLane m b i) (s.fpLane m d i).neg)
  | .vfnma m d a b x _ =>
    some (d, vfBytes m, x, fun i => (vfFmt m).fma s.rm (s.fpLane m a i).neg (s.fpLane m b i) (s.fpLane m d i))
  | .vmin m d a b x _ => some (d, vfBytes m, x, fun i => ((vfFmt m).pick false (s.rawLane m a i) (s.rawLane m b i), {}))
  | .vmax m d a b x _ => some (d, vfBytes m, x, fun i => ((vfFmt m).pick true (s.rawLane m a i) (s.rawLane m b i), {}))
  | .vabs m d a x _ => some (d, vfBytes m, x, fun i => ((vfFmt m).signOp false (s.rawLane m a i), {}))
  | .vneg m d a x _ => some (d, vfBytes m, x, fun i => ((vfFmt m).signOp true (s.rawLane m a i), {}))
  | .vsqrt m d a x _ => some (d, vfBytes m, x, fun i => (vfFmt m).sqrt s.rm (s.rawLane m a i))
  | .vrcp m d a x _ => some (d, vfBytes m, x, fun i => (vfFmt m).approx .rcp s.rm (s.rawLane m a i))
  | .vrsq m d a x _ => some (d, vfBytes m, x, fun i => (vfFmt m).approx .rsq s.rm (s.rawLane m a i))
  | .vexp m d a x _ => some (d, vfBytes m, x, fun i => (vfFmt m).approx .exp s.rm (s.rawLane m a i))
  | .vlog m d a x _ => some (d, vfBytes m, x, fun i => (vfFmt m).approx .log s.rm (s.rawLane m a i))
  | .vsig m d a x _ => some (d, vfBytes m, x, fun i => (vfFmt m).approx .sig s.rm (s.rawLane m a i))
  | .vtanh m d a x _ => some (d, vfBytes m, x, fun i => (vfFmt m).approx .tanh s.rm (s.rawLane m a i))
  | .viadd m d a b x _ => some (d, viBytes m, x, fun i => ((s.lane a (viBytes m) i + s.lane b (viBytes m) i).toNat, {}))
  | .visub m d a b x _ => some (d, viBytes m, x, fun i => ((s.lane a (viBytes m) i - s.lane b (viBytes m) i).toNat, {}))
  | .vimul m d a b x _ => some (d, viBytes m, x, fun i => ((s.lane a (viBytes m) i * s.lane b (viBytes m) i).toNat, {}))
  | .vimin m d a b x _ => some (d, viBytes m, x, fun i => ((if (s.lane a (viBytes m) i).sle (s.lane b (viBytes m) i)
      then s.lane a (viBytes m) i else s.lane b (viBytes m) i).toNat, {}))
  | .vimax m d a b x _ => some (d, viBytes m, x, fun i => ((if (s.lane a (viBytes m) i).sle (s.lane b (viBytes m) i)
      then s.lane b (viBytes m) i else s.lane a (viBytes m) i).toNat, {}))
  | .vshl m d a b x _ => some (d, viBytes m, x, fun i =>
      ((s.lane a (viBytes m) i <<< ((s.lane b (viBytes m) i).toNat % (8 * viBytes m))).toNat, {}))
  | .vshr m d a b x _ => some (d, viBytes m, x, fun i =>
      ((s.lane a (viBytes m) i >>> ((s.lane b (viBytes m) i).toNat % (8 * viBytes m))).toNat, {}))
  | .vsra m d a b x _ => some (d, viBytes m, x, fun i =>
      (((s.lane a (viBytes m) i).sshiftRight ((s.lane b (viBytes m) i).toNat % (8 * viBytes m))).toNat, {}))
  | .vand m d a b x _ => some (d, viBytes m, x, fun i => ((s.lane a (viBytes m) i &&& s.lane b (viBytes m) i).toNat, {}))
  | .vor m d a b x _ => some (d, viBytes m, x, fun i => ((s.lane a (viBytes m) i ||| s.lane b (viBytes m) i).toNat, {}))
  | .vxor m d a b x _ => some (d, viBytes m, x, fun i => ((s.lane a (viBytes m) i ^^^ s.lane b (viBytes m) i).toNat, {}))
  | .vnot m d a x _ => some (d, viBytes m, x, fun i => ((~~~s.lane a (viBytes m) i).toNat, {}))
  | .vmov e d a x _ => some (d, esBytes e, x, fun i => (laneNat (s.getV a) (esBytes e) i, {}))
  | .vbcast e d a x _ => some (d, esBytes e, x, fun _ => ((s.getG a).toNat % 2 ^ (8 * esBytes e), {}))
  | .vperm e d a b x _ => some (d, esBytes e, x, fun i =>
      (if laneNat (s.getV b) (esBytes e) i < 128 / esBytes e
        then laneNat (s.getV a) (esBytes e) (laneNat (s.getV b) (esBytes e) i) else 0, {}))
  | .vslide e d a b x _ => some (d, esBytes e, x, fun i => (laneOr0 (s.getV a) (esBytes e) ((i : Int) - (s.src b).toInt), {}))
  | .vzip e d a b x _ => some (d, esBytes e, x, fun i => (laneNat (s.getV (if i % 2 = 0 then a else b)) (esBytes e) (i / 2), {}))
  | .vunzip e d a b x _ => some (d, esBytes e, x, fun i =>
      (if i < 128 / esBytes e / 2 then laneNat (s.getV a) (esBytes e) (2 * i)
        else laneNat (s.getV b) (esBytes e) (2 * i - 128 / esBytes e), {}))
  | .vexpd e d a x _ => some (d, esBytes e, x, fun i => (laneNat (s.getV a) (esBytes e) (s.below x i), {}))
  | .viota e d x _ => some (d, esBytes e, x, fun i => (s.below x i, {}))
  | .vsel e d a b x _ => some (d, esBytes e, none, fun i =>
      (laneNat (s.getV (if s.laneOn x i then a else b)) (esBytes e) i, {}))
  | _ => none

/-- R154, R155: VINS and VCOMP by every lane of the result. -/
def insertRule (s : State) : Instr → Option (Reg5 × Nat × (Nat → Nat))
  | .vins e d a b x _ => some (d, esBytes e, fun i =>
      if i = (s.src b).toNat ∧ s.laneOn x i then (s.getG a).toNat % 2 ^ (8 * esBytes e) else laneNat (s.getV d) (esBytes e) i)
  | .vcomp e d a x _ => some (d, esBytes e, fun j => match (s.lanes x (esBytes e))[j]? with
      | some k => laneNat (s.getV a) (esBytes e) k
      | none => if zeroing x then 0 else laneNat (s.getV d) (esBytes e) j)
  | _ => none

/-- R153: the P register of a vector compare, its lanes, and the condition and flags of an active lane. -/
def vectorPredRule (s : State) : Instr → Option (Reg3 × Nat × Option VExt × (Nat → Bool × Flags))
  | .vcmp c m d a b x _ => some (d, vfBytes m, x, fun i => fpCond c (s.fpLane m a i) (s.fpLane m b i))
  | .vicmp c m d a b x _ => some (d, viBytes m, x, fun i => (intCond c (s.lane a (viBytes m) i) (s.lane b (viBytes m) i), {}))
  | _ => none

/-- The active lanes of a vector, each as op sees it. -/
def State.activeLanes {α : Type} (s : State) (r : Reg5) (eb : Nat) (x : Option VExt) (lane : Nat → α) : List (Option α) :=
  (List.range (128 / eb)).map fun i => if s.laneOn x i then some (lane (laneNat (s.getV r) eb i)) else none

/-- R154, R160, R162: the G register that VEXT, a reduction or a count names, its value, and the flags raised. -/
def vectorScalarRule (s : State) : Instr → Option (Reg5 × Word × Flags)
  | .vext e d a b _ _ => some (d, BitVec.ofNat 64 (if (s.src b).toNat < 128 / esBytes e
      then laneNat (s.getV a) (esBytes e) (s.src b).toNat else 0), {})
  | .vredAdd (.f m) d a x _ =>
    let r := treeReduce ((vfFmt m).add s.rm) (128 / vfBytes m).log2 (s.activeLanes a (vfBytes m) x (vfFmt m).laneOf)
    some (d, BitVec.ofNat 64 (r.1.getD 0), r.2)
  | .vredMin (.f m) d a x _ =>
    let r := treeReduce (fun p q => ((vfFmt m).pick false p q, {})) (128 / vfBytes m).log2
      (s.activeLanes a (vfBytes m) x (vfFmt m).laneOf)
    some (d, BitVec.ofNat 64 (r.1.getD ((vfFmt m).infinity false)), r.2)
  | .vredMax (.f m) d a x _ =>
    let r := treeReduce (fun p q => ((vfFmt m).pick true p q, {})) (128 / vfBytes m).log2
      (s.activeLanes a (vfBytes m) x (vfFmt m).laneOf)
    some (d, BitVec.ofNat 64 (r.1.getD ((vfFmt m).infinity true)), r.2)
  | .vredAdd (.i m) d a x _ =>
    let r := treeReduce (fun p q : Int => (p + q, {})) (128 / viBytes m).log2 (s.activeLanes a (viBytes m) x (viLane m))
    some (d, BitVec.ofInt 64 (r.1.getD 0), r.2)
  | .vredMin (.i m) d a x _ =>
    let r := treeReduce (fun p q : Int => (if p ≤ q then p else q, {})) (128 / viBytes m).log2
      (s.activeLanes a (viBytes m) x (viLane m))
    some (d, BitVec.ofInt 64 (r.1.getD (2 ^ (8 * viBytes m - 1) - 1)), r.2)
  | .vredMax (.i m) d a x _ =>
    let r := treeReduce (fun p q : Int => (if p ≤ q then q else p, {})) (128 / viBytes m).log2
      (s.activeLanes a (viBytes m) x (viLane m))
    some (d, BitVec.ofInt 64 (r.1.getD (-(2 ^ (8 * viBytes m - 1)))), r.2)
  | .vredAnd m d a x _ =>
    let r := treeReduce (fun p q : Nat => (p &&& q, {})) (128 / viBytes m).log2 (s.activeLanes a (viBytes m) x fun v => v)
    some (d, BitVec.ofNat 64 (r.1.getD (2 ^ (8 * viBytes m) - 1)), r.2)
  | .vredOr m d a x _ =>
    let r := treeReduce (fun p q : Nat => (p ||| q, {})) (128 / viBytes m).log2 (s.activeLanes a (viBytes m) x fun v => v)
    some (d, BitVec.ofNat 64 (r.1.getD 0), r.2)
  | .vredXor m d a x _ =>
    let r := treeReduce (fun p q : Nat => (p ^^^ q, {})) (128 / viBytes m).log2 (s.activeLanes a (viBytes m) x fun v => v)
    some (d, BitVec.ofNat 64 (r.1.getD 0), r.2)
  | .vpcnt e d a x _ => some (d, BitVec.ofNat 64 (countMask s e a x).length, {})
  | .vfirst e d a x _ => some (d, ((countMask s e a x).head?.map (BitVec.ofNat 64)).getD (-1), {})
  | _ => none

/-- R14, R149: the V registers that a lane-wise instruction reads: where they are bound, they pop. -/
def streamSources : Instr → Option (List Reg5)
  | .vadd _ _ a b _ _ | .vsub _ _ a b _ _ | .vmul _ _ a b _ _ | .vdiv _ _ a b _ _ | .vmin _ _ a b _ _ | .vmax _ _ a b _ _
  | .viadd _ _ a b _ _ | .visub _ _ a b _ _ | .vimul _ _ a b _ _ | .vimin _ _ a b _ _ | .vimax _ _ a b _ _ | .vshl _ _ a b _ _
  | .vshr _ _ a b _ _ | .vsra _ _ a b _ _ | .vand _ _ a b _ _ | .vor _ _ a b _ _ | .vxor _ _ a b _ _ | .vzip _ _ a b _ _
  | .vunzip _ _ a b _ _ | .vsel _ _ a b _ _ => some [a, b]
  | .vfma _ d a b _ _ | .vfms _ d a b _ _ | .vfnma _ d a b _ _ => some [a, b, d]
  | .vabs _ _ a _ _ | .vneg _ _ a _ _ | .vsqrt _ _ a _ _ | .vrcp _ _ a _ _ | .vrsq _ _ a _ _ | .vexp _ _ a _ _ | .vlog _ _ a _ _
  | .vsig _ _ a _ _ | .vtanh _ _ a _ _ | .vnot _ _ a _ _ | .vmov _ _ a _ _ | .vexpd _ _ a _ _ => some [a]
  | _ => none

/-- Every V register but d holds what it held, and so do the other registers; FPFLAGS alone of the status may change. -/
def Ctx.onlyV (x y : Ctx) (d : Nat) : Prop :=
  (∀ r, r ≠ d → y.getV r = x.getV r) ∧ x.sameG y ∧ x.sameP y ∧ x.sameA y ∧ (∀ n, n ≠ 0x011 → y.sysr n = x.sysr n)
    ∧ y.streams = x.streams

/-- R32: FPFLAGS after an operation that raised flags. -/
def State.raised (s t : State) (f : Flags) : Prop := t.my.sysr 0x011 = s.my.sysr 0x011 ||| f.word

/-! ### Vector memory -/

/-- R120, R125: the address of lane i at a byte distance; under SPACE 0b10 the pointer moved by it. -/
def State.laneAt (s : State) (sp : Space) (a : Reg5) (off : Option Word) (dist : Int) : Word :=
  if sp = .dist then s.pointerAfter (a.extractLsb' 0 3) dist
  else s.getG a + off.getD 0 + s.cur.ostep + BitVec.ofInt 64 dist

/-- R125: the V register of a vector memory instruction, whether it stores, its space, element bytes, lane predicate, and the
address of each lane. -/
def vectorMemRule (s : State) : Instr → Option (Reg5 × Bool × Space × Nat × Option VExt × (Nat → Word))
  | .vld d a sp off x _ => some (d, false, sp, 4, x, fun i => s.laneAt sp a off (4 * i))
  | .vst d a sp off x _ => some (d, true, sp, 4, x, fun i => s.laneAt sp a off (4 * i))
  | .vlds d a b sp w off x _ => some (d, false, sp, if w then 2 else 4, x, fun i => s.laneAt sp a off (i * (s.getG b).toInt))
  | .vgth d a b sp w off x _ => some (d, false, sp, if w then 2 else 4, x, fun i =>
      s.laneAt sp a off (laneInt (s.getV b) (if w then 2 else 4) i * (if w then 2 else 4)))
  | .vsct d a b sp w off x _ => some (d, true, sp, if w then 2 else 4, x, fun i =>
      s.laneAt sp a off (laneInt (s.getV b) (if w then 2 else 4) i * (if w then 2 else 4)))
  | _ => none

/-- The accesses of the active lanes. -/
def State.laneAccesses (s : State) (eb : Nat) (x : Option VExt) (addr : Nat → Word) : List Item :=
  (s.lanes x eb).map fun i => ⟨i, addr i, addr i, eb, eb⟩

/-- Every piece has its place. -/
def placed (locs : List Loc) : Prop := ∀ l ∈ locs, l.place.isSome = true

/-- A located store is performed later. -/
def State.away (s : State) (sp : Space) (l : Loc) : Bool :=
  match l.place with
  | some p => s.later sp p
  | none => false

/-- The pieces' bytes written one after the other. -/
def State.written (s : State) : List (Loc × List Byte) → State
  | [] => s
  | (l, bs) :: t => (match l.place with
    | some p => (s.copies p).foldl (fun (s : State) q => s.setBytes q bs) s
    | none => s).written t

/-- A piece's bytes are on their way: whole to another core's memory, word by word to global memory (R249). -/
def State.sentOut (t : State) (sp : Space) (w : Loc × List Byte) : Prop :=
  ∃ p, w.1.place = some p ∧ (if sp = .dist then ∃ f ∈ t.flight, f.brings p w.2
    else ∀ k, 4 * k < w.2.length → ∃ f ∈ t.flight, f.brings (p.plus (4 * k)) ((w.2.drop (4 * k)).take 4))

/-- R126, R143: each of these pieces that lies on an absent page and shares no byte with another is in the side log, with its bytes, the
function and the context. -/
def State.logged (t u : State) (ws : List (Loc × List Byte)) : Prop :=
  ∀ (n : Nat) (w : Loc × List Byte), ws[n]? = some w → w.1.place = none →
    (∀ m x, m ≠ n → ws[m]? = some x →
      x.1.item.va.toNat + x.1.item.n ≤ w.1.item.va.toNat ∨ w.1.item.va.toNat + w.1.item.n ≤ x.1.item.va.toNat) →
    ∃ g ∈ t.me.slog, g.sector = w.1.item.va.toNat / 128 * 128 ∧ g.op = .write ∧ g.vf = u.me.vf ∧ g.ctx = u.cur.ctx ∧
      ∀ k < w.2.length, g.mask.getLsbD (w.1.item.va.toNat % 128 + k) = true ∧
        g.byte (w.1.item.va.toNat % 128 + k) = w.2.getD k 0

/-! ### Synchronisation -/

/-- R219, R221: the level at which BAR and XPH arrive, and the phase that their barrier leaves. -/
def barRule (s : State) : Instr → Option (Nat × Bool)
  | .bar lvl _ => some (lvl.toNat, false)
  | .xph _ => some (s.me.lvl, true)
  | _ => none

/-- R231: the context has the port or the ring to itself, or no other that waits there issued before it. -/
def State.first (s : State) (g : Reg3) (r : Nat) : Prop := (s.joinReaders g r).behind r = false

/-- A sleeping instruction is tried again at the same address; no register and no byte changes. -/
def State.sleeps (s t : State) : Prop := t.my.run = .sleeping ∧ t.my.pc = s.my.pc ∧ s.my.sameRegs t.my ∧ s.sameBytes t

/-- Only G d of the context changes, in a machine that is otherwise as before. -/
def State.onlyResult (s t : State) (d : Reg5) (v : Word) : Prop :=
  t.getG d = (if d = 0 then 0 else v) ∧ s.my.onlyG t.my d.toNat ∧ s.onlyMy t ∧ s.sameBytes t

/-- No register of the context changes, in a machine that is otherwise as before. -/
def State.onlyPasses (s t : State) : Prop := s.my.sameRegs t.my ∧ s.onlyMy t ∧ s.sameBytes t

/-- The context goes on past an acquire: its generators hold nothing read ahead (R130), and no register and no byte has changed. -/
def State.acquires (s t : State) : Prop :=
  s.my.sameG t.my ∧ s.my.sameP t.my ∧ s.my.sameV t.my ∧ s.my.sameA t.my ∧ s.my.sameSys t.my ∧ s.onlyMy t ∧ s.sameBytes t ∧
    ∀ j, (tget {} t.my.streams j : Stream) = { tget {} s.my.streams j with ahead := [] }

/-! ### Tiles, the accumulator and the matrix unit -/

/-- R166-R169: a tile load: operation, tile, base and stride registers, space, offset. -/
def tileLoadRule : Instr → Option (TileOp × Reg3 × Reg5 × Reg5 × Space × Word)
  | .tld d a b sp _ => some (.tld, d, a, b, sp, 0)
  | .tldb d a b sp _ => some (.tldb, d, a, b, sp, 0)
  | .tldt d a b sp _ => some (.tldt, d, a, b, sp, 0)
  | .tldLit .tld d a b sp off _ => some (.tld, d, a, b, sp, off)
  | .tldLit .tldb d a b sp off _ => some (.tldb, d, a, b, sp, off)
  | .tldLit .tldt d a b sp off _ => some (.tldt, d, a, b, sp, off)
  | _ => none

/-- R166, R167: a tile store. -/
def tileStoreRule : Instr → Option (Reg3 × Reg5 × Reg5 × Space × Word)
  | .tst d a b sp _ => some (d, a, b, sp, 0)
  | .tldLit .tst d a b sp off _ => some (d, a, b, sp, off)
  | _ => none

/-- Rows and bytes per row of a tile load in memory: TLDT reads the transpose (R167, R169). -/
def rowsOf (op : TileOp) (h : Shape) : Nat × Nat :=
  if op = .tldt then (h.ke, h.rows * (fmtBits h.fmt / 8)) else (h.rows, h.bpr)

/-- The alignment of a row (R167, R168). -/
def rowAlign (op : TileOp) : Nat := if op = .tldb then 64 else 16

/-- Element j of row i of a tile in a format (R164). -/
def tileElem (v : BitVec 32768) (f : Fmt) (i j : Nat) : Nat := tileRow v i / 2 ^ (fmtBits f * j) % 2 ^ fmtBits f

/-- R177: MXEPI's bias: none; or n words of global memory, on mapped pages without poison, that nothing in flight touches. -/
def State.biasRead (s : State) (bias : Bool) (a : Reg5) (n : Nat) (bs : List Half) (u : State) : Prop :=
  if bias then s.reflex = false ∧ (s.getG a).toNat + 4 * n ≤ 2 ^ 56 ∧ u.calm ∧ ∃ locs,
      s.check .glob .load {} (sectorItems (s.getG a) n) = .ok (locs, u) ∧
      (∀ l ∈ locs, ∃ p, l.place = some p ∧ u.poisonedIn p l.item.n = false) ∧ bs = halves (locs.map u.locBytes).flatten n
  else bs = [] ∧ u = s

/-- Everything of a core but its tiles, accumulator and scratch registers; and every context's registers. -/
def State.sameButUnits (s t : State) : Prop :=
  (∀ r, t.getG r = s.getG r) ∧ (∀ r, t.getP r = s.getP r) ∧ (∀ r, t.getV r = s.getV r) ∧ (∀ r, t.getA r = s.getA r) ∧
  (∀ n, n ≠ 0x011 → t.my.sysr n = s.my.sysr n)

/-- R187-R192: an exact geometry instruction: the test, and its fields. -/
def geometryRule : Instr → Option (GeoOp × Bool × Reg5 × Reg5 × Reg5 × Bool × Bool)
  | .gori2 k d a b tb nf _ => some (geoOri2, k, d, a, b, tb, nf)
  | .gori3 k d a b tb nf _ => some (geoOri3, k, d, a, b, tb, nf)
  | .gincir k d a b tb nf _ => some (geoIncir, k, d, a, b, tb, nf)
  | .ginsph k d a b tb nf _ => some (geoInsph, k, d, a, b, tb, nf)
  | .gsegx k d a b tb nf _ => some (geoSegx, k, d, a, b, tb, nf)
  | .gsegt k d a b tb nf _ => some (geoSegt, k, d, a, b, tb, nf)
  | _ => none

/-! ### Values -/

/-- R42, R43: a finite encoding of w fraction bits and x exponent bits as a multiple of its smallest positive number. -/
def finiteUnits (w x v : Nat) : Option Int :=
  let e := v / 2 ^ w % 2 ^ x
  let m : Nat := if e = 0 then v % 2 ^ w else (2 ^ w + v % 2 ^ w) * 2 ^ (e - 1)
  if e = 2 ^ x - 1 then none else some (if v / 2 ^ (w + x) % 2 = 1 then -(m : Int) else m)

/-- A finite FP32 encoding as a multiple of 2^-149. -/
def fp32Units (v : Nat) : Option Int := finiteUnits 23 8 v

/-- A coordinate of a .s form as a multiple of 2^-149, or of a .d form as one of 2^-1074 (R186). -/
def coordUnits (dbl : Bool) (v : Nat) : Option Int := if dbl then finiteUnits 52 11 v else fp32Units v

/-- R55: r is a finite FP32 encoding, and its value is e / k units of 2^-149 rounded by mode rm. -/
def roundedTo (rm : BitVec 2) (k e : Int) (r : Nat) : Prop :=
  ∃ z, fp32Units r = some z ∧ ∀ w v, fp32Units w = some v →
    match rm.toNat with
    | 0 => |z * k - e| ≤ |v * k - e| ∧ (v ≠ z → |z * k - e| = |v * k - e| → r % 2 = 0)
    | 1 => |z * k| ≤ |e| ∧ 0 ≤ z * e ∧ (|v * k| ≤ |e| → 0 ≤ v * e → |v| ≤ |z|)
    | 2 => e ≤ z * k ∧ (e ≤ v * k → z ≤ v)
    | _ => z * k ≤ e ∧ (v * k ≤ e → v ≤ z)

/-- R64: r is the cell acc after runs whose exact sums are es / k units of 2^-149: each is rounded once, and added with one rounding. -/
def runsAdded (k : Int) : Nat → List Int → Nat → Prop
  | acc, [], r => r = acc
  | acc, e :: es, r => ∃ s x y c, fp32Units acc = some x ∧ fp32Units s = some y ∧ roundedTo 0 k e s ∧ roundedTo 0 1 (x + y) c ∧
      runsAdded k c es r

/-- The determinant of a 3 x 3 matrix by rows. -/
def det3 (a b c : List Int) : Int :=
  let m (r : List Int) (j : Nat) : Int := r.getD j 0
  m a 0 * (m b 1 * m c 2 - m b 2 * m c 1) - m a 1 * (m b 0 * m c 2 - m b 2 * m c 0) + m a 2 * (m b 0 * m c 1 - m b 1 * m c 0)

/-- The determinant of a 4 x 4 matrix by rows, along its last column. -/
def det4 (a b c d : List Int) : Int :=
  let m (r : List Int) : Int := r.getD 3 0
  m d * det3 a b c - m c * det3 a b d + m b * det3 a c d - m a * det3 b c d

/-- p - q by coordinates. -/
def minus (p q : List Int) : List Int := p.zipWith (· - ·) q

/-- A row of R190 with its squared norm. -/
def lifted (p : List Int) : List Int := p ++ [(p.map fun x => x * x).sum]

/-- R190: the orientation of three points in the plane, and of four in space. -/
def orient2 (a b c : List Int) : Int :=
  let u := minus a c
  let v := minus b c
  u.getD 0 0 * v.getD 1 0 - u.getD 1 0 * v.getD 0 0
def orient3 (a b c d : List Int) : Int := det3 (minus a d) (minus b d) (minus c d)

/-- R188: the dimension and the number of points of an instruction. -/
def geometryDims : Instr → Nat × Nat
  | .gori2 _ _ _ _ _ _ _ => (2, 3)
  | .gori3 _ _ _ _ _ _ _ => (3, 4)
  | .ginsph _ _ _ _ _ _ _ | .gsegt _ _ _ _ _ _ _ => (3, 5)
  | _ => (2, 4)

/-- R189: the byte of a sign. -/
def byteOfSign (x : Int) : Nat := if x < 0 then 0xFF else if x = 0 then 0 else 1

/-- R190: the determinant of a predicate on points of whole coordinates. -/
def determinant (i : Instr) (p : Nat → List Int) : Option Int :=
  match i with
  | .gori2 _ _ _ _ _ _ _ => some (orient2 (p 0) (p 1) (p 2))
  | .gori3 _ _ _ _ _ _ _ => some (orient3 (p 0) (p 1) (p 2) (p 3))
  | .gincir _ _ _ _ _ _ _ => some (det3 (lifted (minus (p 0) (p 3))) (lifted (minus (p 1) (p 3))) (lifted (minus (p 2) (p 3))))
  | .ginsph _ _ _ _ _ _ _ =>
    some (det4 (lifted (minus (p 0) (p 4))) (lifted (minus (p 1) (p 4))) (lifted (minus (p 2) (p 4))) (lifted (minus (p 3) (p 4))))
  | _ => none

/-- R191, R192: the condition under which a segment crosses another, or the interior of a triangle. -/
def crossesRule (i : Instr) (p : Nat → List Int) : Option Prop :=
  match i with
  | .gsegx _ _ _ _ _ _ _ => some (orient2 (p 0) (p 1) (p 2) * orient2 (p 0) (p 1) (p 3) < 0 ∧
      orient2 (p 2) (p 3) (p 0) * orient2 (p 2) (p 3) (p 1) < 0)
  | .gsegt _ _ _ _ _ _ _ => some (orient3 (p 2) (p 3) (p 4) (p 0) * orient3 (p 2) (p 3) (p 4) (p 1) < 0 ∧
      (orient3 (p 0) (p 1) (p 2) (p 3)).sign = (orient3 (p 0) (p 1) (p 3) (p 4)).sign ∧
      (orient3 (p 0) (p 1) (p 3) (p 4)).sign = (orient3 (p 0) (p 1) (p 4) (p 2)).sign ∧ orient3 (p 0) (p 1) (p 2) (p 3) ≠ 0)
  | _ => none

/-- R191: the two segments of the plane have a point in common: a parts of m along the one, and b parts of m along the other. -/
def meetsRule (i : Instr) (p : Nat → List Int) : Option Prop :=
  let at_ (k j : Nat) : Int := (p k).getD j 0
  match i with
  | .gsegx _ _ _ _ _ _ _ => some (∃ m a b : Int, 0 < m ∧ 0 ≤ a ∧ a ≤ m ∧ 0 ≤ b ∧ b ≤ m ∧
      ∀ j < 2, (m - a) * at_ 0 j + a * at_ 1 j = (m - b) * at_ 2 j + b * at_ 3 j)
  | _ => none

/-- R196: the rank of point k of n by key, equal keys by position. -/
def rankOf (key : Nat → Nat) (n k : Nat) : Nat :=
  ((List.range n).filter fun j => decide (key j < key k) || (key j == key k && decide (j < k))).length

/-- R197: coordinate j of a point of rank r in dimension dim, with 2^-n for the infinitesimal, all times 2^(n * 2^14); one is the number
one in the units of the coordinate. -/
def perturbed (dim n r j : Nat) (one x : Int) : Int :=
  x * 2 ^ (n * 2 ^ 14) + one * 2 ^ (n * (2 ^ 14 - 2 ^ (dim * r + dim - 1 - j)))

/-- R205-R210: a sum-product instruction without memory: the register runs it names, the first register it writes, what it
writes, and the results whose flags it raises. -/
def scratchRule (s : State) : Instr → Option (List XRun × Nat × List (BitVec 128) × List SpeRes)
  | .spmov xd xa _ => some ([⟨0, xd.toNat, 1⟩, ⟨1, xa.toNat, 1⟩], xd.toNat, [s.me.getX xa.toNat], [])
  | .spset xd a _ => some ([⟨0, xd.toNat, 1⟩], xd.toNat, [xOf (List.replicate 4 ((s.getG a).setWidth 32))], [])
  | .spnorm xd xa _ =>
    let r := speNorm s.speFp32 ((List.range 4).map fun e => s.xVal xa.toNat e)
    some ([⟨0, xd.toNat, 1⟩, ⟨1, xa.toNat, 1⟩], xd.toNat, [resReg r], r)
  | .spcvt xd xa _ =>
    let r := (List.range 4).map fun e => speConvert s.speFp32 (xElem (s.me.getX xa.toNat) e)
    some ([⟨0, xd.toNat, 1⟩, ⟨1, xa.toNat, 1⟩], xd.toNat, [resReg r], r)
  | .sptree xd xa e _ =>
    let r := (List.range 4).map fun a =>
      rndSum s.speFp32 [s.xVal xa.toNat a :: (List.range (speK e)).map fun j => s.xVal (e.xb.toNat + j) a]
    some ([⟨0, xd.toNat, 1⟩, ⟨1, xa.toNat, 1⟩, ⟨2, e.xb.toNat, speK e⟩], xd.toNat, [resReg r], r)
  | .spup xd xa e _ =>
    let ms := (List.range (speK e)).map fun j => message s e false xa.toNat j
    let p := (List.range 4).map fun a =>
      rndSum s.speFp32 [s.xVal xa.toNat a :: ms.map fun m => speVal s.speFp32 (m.getD a { v := 0 }).v]
    some ([⟨0, xd.toNat, speK e + 1⟩, ⟨1, xa.toNat, speK e + 1⟩] ++ (if speFm e = 2 then [] else [⟨2, e.xb.toNat, speFactors e⟩]),
      xd.toNat, resReg p :: ms.map resReg, p ++ ms.flatten)
  | .spmax xd xa e _ =>
    let ms := (List.range (speK e)).map fun j => message s e true xa.toNat j
    let p := (List.range 4).map fun a =>
      rndSum s.speFp32 [s.xVal xa.toNat a :: ms.map fun m => speVal s.speFp32 (m.getD a { v := 0 }).v]
    some ([⟨0, xd.toNat, speK e + 1⟩, ⟨1, xa.toNat, speK e + 1⟩] ++ (if speFm e = 2 then [] else [⟨2, e.xb.toNat, speFactors e⟩]),
      xd.toNat, resReg p :: ms.map resReg, p ++ ms.flatten)
  | .spdn xd xa e _ =>
    let others (a but : Nat) : List Fp :=
      s.xVal xa.toNat a :: ((List.range (speK e)).filter (· != but)).map fun i => s.xVal (xa.toNat + 1 + i) a
    let ns := (List.range (speK e)).map fun j => (List.range 4).map fun b =>
      if speFm e = 2 then rndSum s.speFp32 [others b j]
      else rndSum s.speFp32 ((List.range 4).map fun a => factorVal s e j b a :: others a j)
    let bel := (List.range 4).map fun a => rndSum s.speFp32 [others a (speK e)]
    some ([⟨0, xd.toNat, speK e + 1⟩, ⟨1, xa.toNat, speK e + 1⟩] ++ (if speFm e = 2 then [] else [⟨2, e.xb.toNat, speFactors e⟩]),
      xd.toNat, resReg bel :: ns.map resReg, bel ++ ns.flatten)
  | _ => none

/-- R209: SPLD and SPST: whether it stores, the first scratch register, the registers, the address. -/
def scratchMemRule (s : State) : Instr → Option (Bool × Nat × Nat × Word)
  | .spld xd a _ => some (false, xd.toNat, 1, s.getG a + s.cur.ostep)
  | .spst xd a _ => some (true, xd.toNat, 1, s.getG a + s.cur.ostep)
  | .spldExt xd a n off _ => some (false, xd.toNat, n.elim 1 (·.toNat + 1), s.getG a + off.getD 0 + s.cur.ostep)
  | .spstExt xd a n off _ => some (true, xd.toNat, n.elim 1 (·.toNat + 1), s.getG a + off.getD 0 + s.cur.ostep)
  | _ => none

end Sys2Proof.Machine
end

