-- ==== Sys2Proof/Certificates/Slice0/Obligations.lean ====
section
/-! DEFINITION. The statements for the provers, from the numbered rules of the spec. -/

open Sys2Proof Sys2Proof.Machine

/-- Words written out from the encodings of R73-R80 decode to the instructions they stand for. -/
def Obligations.DecodeWords : Prop :=
  decode false [0x01088600] = .ok (.add 1 2 (.reg 3) 0) ∧
  decode false [0x4408C000, 0x89ABCDEF, 0x01234567] = .ok (.addi 1 3 (.lit 0x0123456789ABCDEF)) ∧
  decode false [0x0A10840A] = .ok (.cmpNe 2 2 (.reg 2) 2) ∧
  decode false [0x10000005] = .ok (.br 0 5) ∧
  decode false [0x18088008] = .ok (.ld 1 2 false 0 1 0) ∧
  decode false [0xA0110600, 0x00000050, 0] = .ok (.vadd .f32 2 4 3 (some ⟨2, true⟩) 0) ∧
  decode false [0x3D080101] = .ok (.mfs 1 0x101) ∧
  decode false [0] = .ok .illegal

/-- Every well-formed instruction of majors 0x01 to 0x14 is read back from its words, whatever words follow (R71-R81). The same
for majors 0x18 to 0x1F: scalar and vector memory, atomics, fences, streams (R71-R81). -/
def Obligations.DecodeEncodeScalarAndMemory : Prop :=
  (∀ (i : Instr) (ws : List Half), i.wf = true → i.isEvent = false → i.frame.base.maj.toNat ≤ 0x14 →
     decode false (encode i ++ ws) = .ok i) ∧
  (∀ (i : Instr) (ws : List Half), i.wf = true → i.isEvent = false →
     0x18 ≤ i.frame.base.maj.toNat → i.frame.base.maj.toNat ≤ 0x1F → decode false (encode i ++ ws) = .ok i)

/-- The same for majors 0x20 to 0x2A: the vector instructions (R71-R81). The same for majors 0x2C to 0x36: tiles, the matrix
unit, geometry, the sum-product engine (R71-R81). -/
def Obligations.DecodeEncodeVectorAndArrays : Prop :=
  (∀ (i : Instr) (ws : List Half), i.wf = true → i.isEvent = false →
     0x20 ≤ i.frame.base.maj.toNat → i.frame.base.maj.toNat ≤ 0x2A → decode false (encode i ++ ws) = .ok i) ∧
  (∀ (i : Instr) (ws : List Half), i.wf = true → i.isEvent = false →
     0x2C ≤ i.frame.base.maj.toNat → i.frame.base.maj.toNat ≤ 0x36 → decode false (encode i ++ ws) = .ok i)

/-- The same for majors 0x38 to 0x3E: synchronisation, messages, the Mirror, the system (R71-R81). -/
def Obligations.DecodeEncodeSystem : Prop :=
  ∀ (i : Instr) (ws : List Half), i.wf = true → i.isEvent = false → 0x38 ≤ i.frame.base.maj.toNat →
    decode false (encode i ++ ws) = .ok i

/-- R79, R81: a word whose major is unassigned, or whose LEN its major does not permit, is refused with the base word named.
R333, R337: the all-zero word is ILLEGAL_OPCODE, taken as a trap. -/
def Obligations.RefusedWords : Prop :=
  (∀ (reflex : Bool) (w : Half) (ws : List Half), w ≠ 0 →
     (lenMask (w.extractLsb' 24 6).toNat).getLsbD (w.extractLsb' 30 2).toNat = false →
     decode reflex (w :: ws) = .error (.illegalOpcode 0)) ∧
  (∀ s : State, ∃ t, exec .illegal s = .next t ∧ t.my.sysr 0x101 = 0x01 ∧ t.my.sysr 0x102 = s.my.pc ∧ t.my.mon = true ∧
     s.my.sameG t.my ∧ s.my.sameP t.my ∧ s.my.sameV t.my ∧ s.my.sameA t.my)

/-- A turn of core n, outside a lockstep pair, whose context k it picks, with no trap to deliver, no cause due, no replay and no
stub at pc, fetches the words there. Where they decode to an instruction i whose feature is present, the step is exec of i in
the state that the fetch leaves, with chip time moved on, the turn taken and the issuing context set; an i that waits for
something in flight changes nothing but that. A turn of the agenda that names a device event is exec of the event, with chip
time moved on and the turn taken; before the device has booted, of one that it takes then. R2, R81, R84, R288: on a reflex
core whose instruction cache has no line there, the words at pc, those that its base word's LEN announces, are fetched where
a segment places them, and the cache keeps them; nothing else changes. -/
def Obligations.StepRunsDecoded : Prop :=
  (∀ (s t u : State) (n k : Nat) (agenda : List Turn) (ws : List Half) (i : Instr), s.issues n k agenda t → t.my.replay = none →
     t.stubAt t.my.pc.toNat = none → t.fetched = .ok (ws, u) → decode u.reflex ws = .ok i → featureStop i = none →
     (t.waits i = false → step s = exec i { u with cur := { u.cur with ostep := 0, eword := ewordOf ws } }) ∧
     (t.waits i = true → step s = .next t)) ∧
  (∀ (s : State) (e : Instr) (agenda : List Turn), s.agenda = .event e :: agenda → e.isEvent = true → s.frozen = false →
     (s.booted = true ∨ needsBoot e = false) → step s = exec e { s.tick with agenda := agenda }) ∧
  (∀ (s : State) (w : Half) (ws : List Half) (p : Nat → Place), s.reflex = true → w ≠ 0 → lenOk w = true →
     ws.length + 1 = wordCount w → s.my.pc.toNat + 4 * wordCount w ≤ 2 ^ 56 → (∀ e ∈ s.me.icache, ∀ k, e.1 ≠ p k) →
     (∀ k < wordCount w, s.segXlate .fetch (s.my.pc.toNat + 4 * k) 4 = .place (p k) ∧
       s.numAt (p k) 4 = ((w :: ws).getD k 0).toNat) →
     ∃ u, s.fetched = .ok (w :: ws, u) ∧ u = s.setMe { s.me with icache := u.me.icache })

/-- R12, R13: G0 reads zero and P0 all ones whatever was written to them; a write to another register is read back, and no other
register of the file changes. R75: an instruction whose guard is false completes with no effect: the step is only the move to
the next instruction. -/
def Obligations.RegistersAndGuards : Prop :=
  (∀ (s : State) (r q : Reg5) (p o : Reg3) (v : Word) (w : Pred),
     (s.setG 0 v).getG 0 = 0 ∧ (s.setP 0 w).getP 0 = BitVec.allOnes 128 ∧
     (r ≠ 0 → (s.setG r v).getG r = v) ∧ (p ≠ 0 → (s.setP p w).getP p = w) ∧
     (q ≠ r → (s.setG r v).getG q = s.getG q) ∧ (o ≠ p → (s.setP p w).getP o = s.getP o)) ∧
  (∀ (i : Instr) (s : State) (g : Reg3), guardOf i = some g → (s.getP g).getLsbD 0 = false →
     exec i s = .next (s.advance (words i)))

/-- R99, R101-R104, R107: every scalar instruction writes its rule's value to gd (a write to G0 is discarded), goes on to the
next instruction, and changes nothing else. R103: CLZ, CTZ, POPC, BREV and BSWAP, by the bits of their results. R105, R106:
every compare and predicate operation writes its rule's value to Pd, and changes nothing else. -/
def Obligations.ScalarResults : Prop :=
  (∀ (i : Instr) (s : State) (d : Reg5) (v : Word), scalarRule s i = some (d, v) → s.guardHolds i = true →
     ∃ t, exec i s = .next t ∧ t.getG d = (if d = 0 then 0 else v) ∧ s.my.onlyG t.my d.toNat ∧ s.onlyMy t ∧ s.sameBytes t ∧
       s.movesOn t (words i)) ∧
  (∀ (s : State) (d a : Reg5) (g : Reg3), d ≠ 0 → s.guardOn g = true →
     (∃ t, exec (.clz d a g) s = .next t ∧ s.my.onlyG t.my d.toNat ∧ s.onlyMy t ∧ s.sameBytes t ∧ s.movesOn t 1 ∧
       (t.getG d).toNat ≤ 64 ∧ (∀ k < 64, 64 - (t.getG d).toNat ≤ k → (s.getG a).getLsbD k = false) ∧
       ((t.getG d).toNat < 64 → (s.getG a).getLsbD (63 - (t.getG d).toNat) = true)) ∧
     (∃ t, exec (.ctz d a g) s = .next t ∧ s.my.onlyG t.my d.toNat ∧ s.onlyMy t ∧ s.sameBytes t ∧ s.movesOn t 1 ∧
       (t.getG d).toNat ≤ 64 ∧ (∀ k < (t.getG d).toNat, (s.getG a).getLsbD k = false) ∧
       ((t.getG d).toNat < 64 → (s.getG a).getLsbD (t.getG d).toNat = true)) ∧
     (∃ t, exec (.popc d a g) s = .next t ∧ s.my.onlyG t.my d.toNat ∧ s.onlyMy t ∧ s.sameBytes t ∧ s.movesOn t 1 ∧
       t.getG d = BitVec.ofNat 64 ((List.range 64).countP fun k => (s.getG a).getLsbD k)) ∧
     (∃ t, exec (.brev d a g) s = .next t ∧ s.my.onlyG t.my d.toNat ∧ s.onlyMy t ∧ s.sameBytes t ∧ s.movesOn t 1 ∧
       ∀ k < 64, (t.getG d).getLsbD (63 - k) = (s.getG a).getLsbD k) ∧
     (∃ t, exec (.bswap d a g) s = .next t ∧ s.my.onlyG t.my d.toNat ∧ s.onlyMy t ∧ s.sameBytes t ∧ s.movesOn t 1 ∧
       ∀ k < 8, (t.getG d).extractLsb' (56 - 8 * k) 8 = (s.getG a).extractLsb' (8 * k) 8)) ∧
  (∀ (i : Instr) (s : State) (d : Reg3) (v : Pred), predRule s i = some (d, v) → s.guardHolds i = true →
     ∃ t, exec i s = .next t ∧ t.getP d = (if d = 0 then BitVec.allOnes 128 else v) ∧ s.my.onlyP t.my d.toNat ∧ s.onlyMy t ∧
       s.sameBytes t ∧ s.movesOn t (words i))

/-- R100: division never traps; division by zero, and the most negative number by -1, as they arrive in gd; and the examples that
the rule gives. -/
def Obligations.DivisionCorners : Prop :=
  (∀ (s : State) (d a : Reg5) (b : Src) (g : Reg3), d ≠ 0 → s.guardOn g = true →
    (s.src b = 0 →
      (∃ t, exec (.div d a b g) s = .next t ∧ t.getG d = 0xFFFFFFFFFFFFFFFF) ∧
      (∃ t, exec (.divu d a b g) s = .next t ∧ t.getG d = 0xFFFFFFFFFFFFFFFF) ∧
      (∃ t, exec (.rem d a b g) s = .next t ∧ t.getG d = s.getG a) ∧
      (∃ t, exec (.remu d a b g) s = .next t ∧ t.getG d = s.getG a)) ∧
    (s.getG a = 0x8000000000000000 → s.src b = 0xFFFFFFFFFFFFFFFF →
      (∃ t, exec (.div d a b g) s = .next t ∧ t.getG d = 0x8000000000000000) ∧
      (∃ t, exec (.rem d a b g) s = .next t ∧ t.getG d = 0)) ∧
    (s.src b = 2 → (s.getG a = -7 →
      (∃ t, exec (.div d a b g) s = .next t ∧ t.getG d = -3) ∧ (∃ t, exec (.rem d a b g) s = .next t ∧ t.getG d = -1)) ∧
      (s.getG a = 0xFFFFFFFFFFFFFFF9 → ∃ t, exec (.divu d a b g) s = .next t ∧ t.getG d = 0x7FFFFFFFFFFFFFFC)))

/-- R107-R109: APUT, AINC and ACFG write their rule's value to Ad, and change nothing else. R16, R108: moving a pointer that
names a position over the rectangle by n bytes and back leaves it as it was, where the first move stays in range. -/
def Obligations.PointerResults : Prop :=
  (∀ (i : Instr) (s : State) (d : Reg3) (v : Word), pointerRule s i = some (d, v) → s.guardHolds i = true →
     ∃ t, exec i s = .next t ∧ t.getA d = v ∧ s.my.onlyA t.my d.toNat ∧ s.onlyMy t ∧ s.sameBytes t ∧ s.movesOn t (words i)) ∧
  (∀ (s : State) (p : Word) (n : Int), ptrIn s.rect p = true → (ptrMove s.rect p n).getLsbD 63 = false →
     ptrMove s.rect (ptrMove s.rect p n) (-n) = p)

/-- R110, R111: a transfer to a legal target goes there; BL and JLR leave the address after them in G31; nothing else changes.
R83: a transfer to another target takes ILLEGAL_ADDRESS, or ALIGN, with the target in EADDR and pc in EPC. -/
def Obligations.Transfers : Prop :=
  (∀ (i : Instr) (s : State) (t : Word) (link : Bool), jumpRule s i = some (t, link) → s.guardHolds i = true →
     legalTarget t = true →
     ∃ u, exec i s = .next u ∧ u.my.pc = t ∧ (link = true → u.getG 31 = s.my.pc + 4) ∧
       (if link then s.my.onlyG u.my 31 else s.my.sameRegs u.my) ∧ s.onlyMy u ∧ s.sameBytes u) ∧
  (∀ (i : Instr) (s : State) (t : Word) (link : Bool), jumpRule s i = some (t, link) → s.guardHolds i = true →
     legalTarget t = false →
     exec i s = .next (s.takeTrap { code := if 2 ^ 56 ≤ t.toNat then 0x09 else 0x08, epc := s.my.pc, eaddr := t, einfo := 0,
                                    eword := s.cur.eword }))

/-- R112: NOP changes nothing but the program counter; its base word is 0x1400_0000, and a set bit in [23:0] is RESERVED_FIELD. -/
def Obligations.NopOnlyMovesOn : Prop :=
  (∀ s : State, ∃ t, exec .nop s = .next t ∧ s.my.sameRegs t.my ∧ s.onlyMy t ∧ s.sameBytes t ∧ s.movesOn t 1) ∧
  (∀ (reflex : Bool) (ws : List Half), decode reflex (0x14000000 :: ws) = .ok .nop) ∧
  (∀ (reflex : Bool) (ws : List Half) (v : BitVec 24), v ≠ 0 →
    decode reflex ((0x14#8 ++ v) :: ws) = .error (.reservedField 0))

/-- R113: REP goes on and starts a replay of the NM1 + 1 instructions after it, N times, with its steps; no register changes.
(Inside a replay REP is forbidden: see ReplayIssues.) R113: inside a replay, completing an instruction of n words goes to the
next one captured, then to the next pass, then to the address after the block. R114, R115: in a replay the turn runs captured
instruction i as it stands where no step applies to it; where one does, with its register numbers moved by p steps and the
pass's byte step in the address or row, for one or two instructions of each class; what a block must not contain is
RESERVED_FIELD at that instruction, and the replay is abandoned. R116: a trap is precise in a replay: EPC holds the captured
instruction's address, and the task-level replay state stays; a trap at monitor level abandons the replay of that level. -/
def Obligations.RepReplays : Prop :=
  (∀ (s : State) (nm1 : Reg5) (n : Count) (o : Option RepSteps), s.my.replay = none →
     ∃ t, exec (match o with
         | none => .rep nm1 n
         | some st => .repStepped nm1 n st) s = .next t ∧
       (∃ r, t.my.replay = some r ∧ r.start = t.my.pc ∧ r.n = nm1.toNat + 1 ∧ r.steps = o ∧ r.p = 0 ∧ r.i = 0 ∧
         r.count = (match n with
           | .reg q => (s.getG q).toNat
           | .imm v => v.toNat)) ∧
       t.my.pc = s.my.pc + (if o.isSome then 12 else 4) ∧ s.my.sameRegs t.my ∧ s.onlyMy t ∧ s.sameBytes t) ∧
  (∀ (s : State) (n : Nat) (r : Replay), s.my.replay = some r →
     (r.i + 1 < r.n → (s.advance n).my.pc = s.my.pc + BitVec.ofNat 64 (4 * n) ∧
       (s.advance n).my.replay = some { r with i := r.i + 1 }) ∧
     (r.n ≤ r.i + 1 → r.p + 1 < r.count → (s.advance n).my.pc = r.start ∧
       (s.advance n).my.replay = some { r with i := 0, p := r.p + 1 }) ∧
     (r.n ≤ r.i + 1 → r.count ≤ r.p + 1 → (s.advance n).my.pc = s.my.pc + BitVec.ofNat 64 (4 * n) ∧
       (s.advance n).my.replay = none)) ∧
  (∀ (s t : State) (n k : Nat) (agenda : List Turn) (r : Replay) (i : Instr), s.issues n k agenda t → t.my.replay = some r →
     0 < r.count → r.i < r.words.length → r.words.getD r.i [] = encode i → decode t.reflex (encode i) = .ok i → featureStop i = none →
     (let v (o : Word) : State := { t with cur := { t.cur with ostep := o, eword := ewordOf (encode i) } }
      (uncapturable i = true → ∃ u, step s = .next u ∧ u.my.sysr 0x101 = 0x02 ∧ u.my.sysr 0x102 = t.my.pc ∧ u.my.sysr 0x104 = 0x400 ∧
       u.my.replayT = (if t.my.mon then t.my.replayT else none) ∧ u.my.replayM = (if t.my.mon then none else t.my.replayM)) ∧
      (uncapturable i = false → t.waits i = false → (∀ st, r.steps = some st → st.apply.getLsbD r.i = false) → step s = exec i (v 0)) ∧
      (∀ st j, uncapturable i = false → r.steps = some st → st.apply.getLsbD r.i = true → t.guardHolds i = true →
       steppedForm r.p st i = some j → t.waits j = false → step s = exec j (v (BitVec.ofInt 64 (r.p * st.o.toInt)))))) ∧
  (∀ (s : State) (c : BitVec 8) (a i : Word),
     (s.trapAt c a i).my.sysr 0x102 = s.my.pc ∧ (s.trapAt c a i).my.replayT = s.my.replayT ∧
     (s.trapAt c a i).my.replayM = (if s.my.mon then none else s.my.replayM))

/-- R122, R123: a scalar load that passes the checks of R121, whose order lets it be performed (v), and whose bytes hold no
poison, writes the bytes at its place to gd, zero- or sign-extended; LDA moves its pointer; memory does not change. One that
the model performs later (eager = false, log 26) sets out, and changes no register. R122-R124: a scalar store that passes the
checks of R121 and whose order lets it be performed writes the low bytes of gd at its place (in both cores of a lockstep
pair), lowest first, and no other byte; or, where the model performs it later (log 26), it sets out with them. STA moves its
pointer; no other register changes. A store into another core's memory closes the region: REGIONPC holds the next
instruction's address, and STATUS changes with it; every other store leaves both. An SC store into another core's memory that
is not performed at issue takes its place in the order of SC operations with its bytes (R134, log 41). R126, R143: a relaxed
store of ST or CZERO that meets absent pages completes into the side log where it has room: no byte of memory changes, and
the log gains an entry with the bytes. R141, R342: a scalar load of a global address on an absent page holds there and
changes no register; one whose bytes hold poison returns its context to its restart point, where none has been consumed since
that point (no checkpoint mark, no recorded replay). -/
def Obligations.ScalarAccesses : Prop :=
  (∀ (i : Instr) (s u v : State) (c : ScalarAcc) (d : Reg5) (sg : Bool) (p : Place),
     loadRule s i = some (c, d, sg) → s.guardHolds i = true → s.reach c.sp .load {} c.va c.n p u → u.gate c.o = .ok v →
     v.calm → v.poisonedIn p c.n = false →
     (v.defers c.sp c.o = false →
       ∃ t, exec i s = .next t ∧ t.getG d = (if d = 0 then 0 else extend sg c.n (v.numAt p c.n)) ∧
       (∀ r : Reg5, r ≠ d → t.getG r = v.getG r) ∧ (∀ r, t.getP r = v.getP r) ∧ (∀ r, t.getV r = v.getV r) ∧
       (∀ r, t.getA r = match postRule i with
         | some (a, k) => if r = a then v.pointerAfter a k else v.getA r
         | none => v.getA r) ∧
       v.my.sameSys t.my ∧ v.sameBytes t ∧ v.movesOn t (words i)) ∧
     (v.defers c.sp c.o = true →
       ∃ t e, exec i s = .next t ∧ t.flight = v.flight ++ [.mem v.cur.core v.cur.ctx c.va.toNat p.addr e (.load d.toNat c.n sg) .travelling
         ⟨v.me.vf, v.my.pc, v.my.replay⟩] ∧ v.my.sameRegs t.my ∧ v.sameBytes t ∧ v.movesOn t (words i))) ∧
  (∀ (i : Instr) (s u : State) (c : ScalarAcc) (d : Reg5) (p : Place),
     storeRule s i = some (c, d) → s.guardHolds i = true → s.reach c.sp .store { write := true } c.va c.n p u →
     (let bs := leBytes c.n (s.getG d).toNat
      let moved (t v : State) : Prop := ∀ r, t.getA r = match postRule i with
        | some (a, k) => if r = a then v.pointerAfter a k else v.getA r
        | none => v.getA r
      (∀ v, ¬(s.far c.sp p ∧ u.sendsSc c.o = true) → u.gate c.o = .ok v → v.calm →
       ∃ t, exec i s = .next t ∧
       (if c.o ≠ .sc ∧ v.later c.sp p = true then v.sameBytes t ∧ ∃ f, t.flight = v.flight ++ [f] ∧ f.brings p bs
        else (∀ q ∈ v.copies p, t.bytesAt q c.n = bs) ∧ v.sameBytesOff t (v.copies p) c.n ∧ t.flight = v.flight) ∧
       (∀ r, t.getG r = v.getG r) ∧ (∀ r, t.getP r = v.getP r) ∧ (∀ r, t.getV r = v.getV r) ∧ moved t v ∧
       (s.far c.sp p → t.my.sysr 0x030 = t.my.pc) ∧
       (∀ n, ¬(s.far c.sp p ∧ (n = 0x030 ∨ n = 0x100)) → t.my.sysr n = v.my.sysr n) ∧ v.movesOn t (words i)) ∧
      (∀ m off, p = .core m off → s.far c.sp p → u.sendsSc c.o = true → u.calm →
       ∃ t o, exec i s = .next t ∧ o ∈ t.sc ∧ o.core = s.cur.core ∧ o.ctx = s.cur.ctx ∧ o.act = .store m off bs ∧ o.ready = false ∧
       t.my.run = .holding ∧ moved t u ∧ u.sameBytes t ∧ t.my.sysr 0x030 = t.my.pc ∧ u.movesOn t (words i)))) ∧
  ((∀ (i : Instr) (s u : State) (c : ScalarAcc) (d : Reg5) (x : Item) (e : Nat),
     storeRule s i = some (c, d) → s.guardHolds i = true → c.sp = .glob → c.o = .rlx →
     s.check .glob .store { write := true } (oneItem c.va c.n) = .ok ([⟨x, none, e⟩], u) → u.calm → u.me.slog.length < 64 →
     ∃ t g, exec i s = .next t ∧ t.me.slog = u.me.slog ++ [g] ∧ g.sector = c.va.toNat / 128 * 128 ∧ g.op = .write ∧
       g.vf = u.me.vf ∧ g.ctx = u.cur.ctx ∧
       (∀ k < c.n, g.mask.getLsbD (c.va.toNat % 128 + k) = true ∧
         g.byte (c.va.toNat % 128 + k) = (s.getG d).extractLsb' (8 * k) 8) ∧ u.sameBytes t ∧ u.my.sameRegs t.my ∧ u.movesOn t (words i)) ∧
   (∀ (s u : State) (a : Reg5) (off : Option Word) (g : Reg3) (e f : Nat), s.guardOn g = true →
     (let va := BitVec.ofNat 64 ((s.effective a (off.getD 0)).toNat / 256 * 256)
      let x : Item := ⟨0, va, va, 128, 1⟩
      let y : Item := ⟨0, va, va + 128, 128, 1⟩
      s.check .glob .store { write := true } [x, y] = .ok ([⟨x, none, e⟩, ⟨y, none, f⟩], u) → u.calm → u.me.slog.length + 2 ≤ 64 →
      ∃ t m n, exec (.czero a off g) s = .next t ∧ t.me.slog = u.me.slog ++ [m, n] ∧ m.sector = va.toNat ∧
       n.sector = va.toNat + 128 ∧ m.mask = BitVec.allOnes 128 ∧ n.mask = BitVec.allOnes 128 ∧ m.data = 0 ∧ n.data = 0 ∧
       u.sameBytes t ∧ u.my.sameRegs t.my ∧ u.movesOn t (if off.isSome then 3 else 1)))) ∧
  (∀ (i : Instr) (s u : State) (c : ScalarAcc) (d : Reg5) (sg : Bool), loadRule s i = some (c, d, sg) → s.guardHolds i = true →
     (∀ x e, c.sp = .glob → s.check .glob .load {} (oneItem c.va c.n) = .ok ([⟨x, none, e⟩], u) →
       ∃ t, exec i s = .next t ∧ t.my.run = .holding ∧ t.my.holdPage = some (c.va.toNat / 65536 * 65536, 0) ∧ t.my.pc = s.my.pc ∧
         s.my.sameRegs t.my) ∧
     (∀ v p, s.reach c.sp .load {} c.va c.n p u → u.gate c.o = .ok v → v.calm → v.poisonedIn p c.n = true →
       s.my.restart.poisoned = false → s.my.restart.returns < 3 → s.my.restart.ckpt = false → s.my.restart.replay = none →
       ∃ t, exec i s = .next t ∧ t.my.pc = s.my.sysr 0x030 ∧ t.my.g = s.my.restart.g ∧ t.my.p = s.my.restart.p ∧
         t.my.v = s.my.restart.v ∧ t.my.a = s.my.restart.a ∧ t.my.restart.poisoned = true ∧
         t.my.restart.returns = s.my.restart.returns + 1))

/-- R120, R121: a core-local access reaches core memory at its offset when it lies inside and is aligned; it raises
ILLEGAL_ADDRESS outside, and ALIGN inside at another offset, with SPACE 1 and the address. R17, R121: an access through a
pointer reaches the named core's memory at the pointer's offset; another core is reached in an exchange phase only
(REMOTE_IN_COMPUTE); a bad pointer is ILLEGAL_ADDRESS. R121, R141, R278: a global access of a reasoning core: ILLEGAL_ADDRESS
beyond 2^56, ALIGN, then what its translation finds: PROTECTION with the PKIND of the leaf, LOAD_FAULT for an invalid or
malformed page, or for an absent one that the fault service has declared invalid to this context; an absent page has no
place; on a mapped one whose home is within bound, behind no entry of the side log, it reaches its place. R277, R278: a walk
that reaches a leaf refuses with PKIND 2 where the function differs, then with PKIND 3 where the companion mask lacks the
cluster, then with PKIND 1 where a permission is missing; else it gives the leaf's frame at the offset. One that reaches no
leaf says why. R287, R288: a reflex core reaches, through its lowest enabled segment that holds the address, the shared SRAM
or another reflex core's memory at POFF plus the distance; ILLEGAL_ADDRESS outside every segment, across two, or past the
target's end, and PROTECTION with PKIND 4 for a permission that the segment lacks. (That a core of another function is
refused is the model's choice, log 92.) -/
def Obligations.AddressChecks : Prop :=
  (∀ (s : State) (acc : Acc) (inf : AddrInfo) (va : Word) (n : Nat), 0 < n →
     (va.toNat + n ≤ memSize s.cur.core → va.toNat % n = 0 → s.reach .loc acc inf va n (.core s.cur.core va.toNat) s) ∧
     (memSize s.cur.core < va.toNat + n →
       s.check .loc acc inf (oneItem va n) = .error (.trap 0x09 va ({ inf with space := 1, lane := 0 } : AddrInfo).word)) ∧
     (va.toNat + n ≤ memSize s.cur.core → va.toNat % n ≠ 0 →
       s.check .loc acc inf (oneItem va n) = .error (.trap 0x08 va ({ inf with space := 1, lane := 0 } : AddrInfo).word))) ∧
  (∀ (s : State) (acc : Acc) (inf : AddrInfo) (va : Word) (n : Nat), 0 < n → s.reflex = false →
     (ptrOk s.rect va n = true → ptrOff va % n = 0 → (s.me.xph = true ∨ s.namedCore va = s.cur.core) →
       s.reach .dist acc inf va n (.core (s.namedCore va) (ptrOff va)) s) ∧
     (ptrOk s.rect va n = false →
       s.check .dist acc inf (oneItem va n) = .error (.trap 0x09 va ({ inf with space := 2, lane := 0 } : AddrInfo).word)) ∧
     (ptrOk s.rect va n = true → ptrOff va % n ≠ 0 →
       s.check .dist acc inf (oneItem va n) = .error (.trap 0x08 va ({ inf with space := 2, lane := 0 } : AddrInfo).word)) ∧
     (ptrOk s.rect va n = true → ptrOff va % n = 0 → s.me.xph = false → s.namedCore va ≠ s.cur.core →
       s.check .dist acc inf (oneItem va n) = .error (.trap 0x0A va ({ inf with space := 2, lane := 0 } : AddrInfo).word))) ∧
  (∀ (s : State) (acc : Acc) (inf : AddrInfo) (va : Word) (n : Nat), 0 < n → s.reflex = false →
     (let fails (code : BitVec 8) (f : AddrInfo) : Prop :=
        s.check .glob acc inf (oneItem va n) = .error (.trap code va ({ f with lane := 0 } : AddrInfo).word)
      let x := s.xlateCore acc va.toNat
      let page := va.toNat / 65536 * 65536
      (2 ^ 56 < va.toNat + n → fails 0x09 inf) ∧
      (va.toNat + n ≤ 2 ^ 56 → va.toNat % n ≠ 0 → fails 0x08 inf) ∧
      (va.toNat + n ≤ 2 ^ 56 → va.toNat % n = 0 →
       (∀ k, x.1 = .refused k → fails 0x07 { inf with pkind := k }) ∧ (x.1 = .invalid ∨ x.1 = .noRoot → fails 0x06 inf) ∧
       (x.1 = .malformed → fails 0x06 { inf with malformed := true }) ∧
       (x.1 = .absent → s.my.invalidAt = some page → fails 0x06 inf) ∧
       (x.1 = .absent → s.my.invalidAt ≠ some page →
         ∃ e, s.check .glob acc inf (oneItem va n) = .ok ([⟨⟨0, va, va, n, n⟩, none, e⟩], x.2)) ∧
       (∀ p e, x.1 = .place p e → s.homeSkewed p.addr = false → (∀ g ∈ x.2.me.slog, g.holds va.toNat n = false) →
         s.reach .glob acc inf va n p x.2)))) ∧
  (∀ (s : State) (who : Asker) (acc : Acc) (va : Nat),
     (let out := (s.xlateWalk who acc va).2.1
      (s.walk who.vf va = .absent → out = .absent) ∧ (s.walk who.vf va = .invalid → out = .invalid) ∧
      (s.walk who.vf va = .malformed → out = .malformed) ∧ (s.walk who.vf va = .noRoot → out = .noRoot) ∧
      (∀ l, s.walk who.vf va = .leaf l →
       (let own := bits l.w0 9 3 = who.vf
        let near := ∀ c, who.cluster = some c → l.w1.getLsbD c = true
        let may := match acc with
          | .load => l.w0.getLsbD 4 = true
          | .store => l.w0.getLsbD 5 = true
          | .rmw => l.w0.getLsbD 4 = true ∧ l.w0.getLsbD 5 = true
          | .fetch => l.w0.getLsbD 6 = true
          | .hint => True
        (¬ own → out = .refused 2) ∧ (own → ¬ near → out = .refused 3) ∧ (own → near → ¬ may → out = .refused 1) ∧
        (own → near → may → ∃ e, out = .place (placeOf (leafFrame (l.marked acc) + va % 2 ^ l.log2)) e))))) ∧
  (∀ (s : State) (acc : Acc) (inf : AddrInfo) (va : Word) (n : Nat), 0 < n → s.reflex = true → va.toNat + n ≤ 2 ^ 56 →
     (let fails (code : BitVec 8) (f : AddrInfo) : Prop :=
        s.check .glob acc inf (oneItem va n) = .error (.trap code va ({ f with lane := 0 } : AddrInfo).word)
      let lim (k : Nat) : Word := s.me.sysr (0x188 + k)
      let low (k : Nat) : Nat := 4096 * bits (s.me.sysr (0x180 + k)) 12 44
      let holds (k a : Nat) : Prop := (lim k).getLsbD 63 = true ∧ low k ≤ a ∧ a < low k + 4096 * bits (lim k) 12 13
      let first (k a : Nat) : Prop := k < 8 ∧ holds k a ∧ ∀ j < k, ¬ holds j a
      ((∀ k < 8, ¬ holds k va.toNat) → fails 0x09 inf) ∧
      (∀ k, first k va.toNat →
       (let t := 4096 * bits (lim k) 25 13 + (va.toNat - low k)
        let sram := bits (lim k) 61 2 = 0
        let size := if sram then 0x1D00000 else 0x18000
        let may := match acc with
          | .load => (lim k).getLsbD 51 = true
          | .store => (lim k).getLsbD 52 = true
          | .rmw => (lim k).getLsbD 51 = true ∧ (lim k).getLsbD 52 = true
          | .fetch => (lim k).getLsbD 53 = true
          | .hint => True
        (¬ first k (va.toNat + n - 1) → fails 0x09 inf) ∧ (size < t + n → fails 0x09 inf) ∧
        (first k (va.toNat + n - 1) → t + n ≤ size → va.toNat % n ≠ 0 → fails 0x08 inf) ∧
        (first k (va.toNat + n - 1) → t + n ≤ size → va.toNat % n = 0 →
         (¬ may → fails 0x07 { inf with pkind := 4 }) ∧
         (may → (sram ∨ (s.core (bits (lim k) 54 7)).vf = s.me.vf) →
           s.reach .glob acc inf va n (if sram then .sram t else .core (bits (lim k) 54 7) t) s))))))

/-- R132-R134, R312: an atomic that passes the checks, on memory that is no window, returns the old word in gd, writes the new
one (in both cores of a lockstep pair) unless it is a CAS that fails, and no other byte; it closes the region, so REGIONPC
holds the next instruction's address. A relaxed reduction that the model performs later (log 26) sets out with its operation;
an SC one that is not performed at issue takes its place in the order of SC operations (log 41), and its context waits there.
R134, R135: an AMOF whose word and cell pass the checks, of a word without poison, closes the region and changes no G
register. Performed at issue (where nothing before it is pending, or at its place in S), it changes the word by its rule,
puts the old word into bytes 0-7 of the cell and adds one arrival to it; else it sets out, and an SC one takes its place in S
and is performed there. -/
def Obligations.Atomics : Prop :=
  (∀ (i : Instr) (s u : State) (c : ScalarAcc) (d : Reg5) (f : Nat → Option Nat) (p : Place),
     atomicRule s i = some (c, d, f) → s.reach c.sp .rmw { write := true } c.va c.n p u → u.calm →
     (∀ a, p ≠ .host a ∧ p ≠ .peer a) → u.poisonedIn p c.n = false →
     (let later := u.defers c.sp c.o && d == 0 && (amoOf i).isSome
      let order := atomicOrder i c.o (f (u.numAt p c.n)).isSome
      (∀ v, u.sendsSc order = false → u.gate order = .ok v → v.poisonedIn p c.n = false → later = false →
       ∃ t, exec i s = .next t ∧ t.getG d = (if d = 0 then 0 else BitVec.ofNat 64 (v.numAt p c.n)) ∧
       (match f (v.numAt p c.n) with
         | some x => (∀ q ∈ v.copies p, t.bytesAt q c.n = leBytes c.n x) ∧ v.sameBytesOff t (v.copies p) c.n
         | none => v.sameBytes t) ∧
       (∀ r : Reg5, r ≠ d → t.getG r = v.getG r) ∧ (∀ r, t.getP r = v.getP r) ∧
       (∀ r, t.getV r = v.getV r) ∧ (∀ r, t.getA r = v.getA r) ∧ v.movesOn t 1 ∧ t.my.sysr 0x030 = t.my.pc) ∧
      (∀ op b, u.sendsSc order = false → later = true → amoOf i = some (op, b) →
       ∃ t e, exec i s = .next t ∧ t.flight = u.flight ++ [.mem u.cur.core u.cur.ctx c.va.toNat p.addr e
         (.amo op c.n (BitVec.ofNat 64 ((s.getG b).toNat % 2 ^ (8 * c.n)))) .travelling ⟨u.me.vf, u.my.pc, u.my.replay⟩] ∧
       u.sameBytes t ∧ (∀ r, t.getG r = u.getG r) ∧ u.movesOn t 1 ∧ t.my.sysr 0x030 = t.my.pc) ∧
      (u.sendsSc order = true →
       ∃ t o, exec i s = .next t ∧ o ∈ t.sc ∧ o.core = s.cur.core ∧ o.ctx = s.cur.ctx ∧ o.ready = false ∧ t.my.run = .holding ∧
       u.sameBytes t ∧ (∀ r, t.getG r = u.getG r) ∧ u.movesOn t 1 ∧ t.my.sysr 0x030 = t.my.pc ∧
       (∃ e, match i with
         | .amo _ _ b op _ _ | .amoLocal _ _ b op _ _ _ =>
           o.act = .amo c.va p e op c.n d.toNat ((s.getG b).toNat % 2 ^ (8 * c.n))
         | .cas _ _ b _ _ _ | .casLocal _ _ b _ _ _ _ =>
           o.act = .cas c.va p e c.n d.toNat ((s.getG d).toNat % 2 ^ (8 * c.n)) ((s.getG b).toNat % 2 ^ (8 * c.n))
         | _ => True)))) ∧
  (∀ (s : State) (d a : Reg3) (b : Reg5) (op : AmoOp) (o : Order) (w : Bool), s.reflex = false →
     (let n := if w then 8 else 4
      let c := s.namedCore (s.getA a)
      let off := ptrOff (s.getA a)
      let dc := s.namedCore (s.getA d)
      let doff := ptrOff (s.getA d)
      let old := s.numAt (.core (s.pairHead c) off) n
      let x := (s.getG b).toNat % 2 ^ (8 * n)
      let keeps (t : State) : Prop := (∀ r, t.getG r = s.getG r) ∧ t.my.sysr 0x030 = t.my.pc ∧ s.movesOn t 1
      ptrOk s.rect (s.getA a) n = true → off % n = 0 → ptrOk s.rect (s.getA d) 16 = true → doff % 16 = 0 →
      s.poisonedIn (.core (s.pairHead c) off) n = false →
      (∀ v, s.sendsSc o = false → s.gate o = .ok v → ∃ t, exec (.amof d a b op o w) s = .next t ∧ keeps t ∧
       ((s.eager = true ∧ s.performed = true) ∨ o = .sc →
        ((∀ q ∈ s.pairCores c, q ∉ s.pairCores dc) ∨ off + n ≤ doff ∨ doff + 16 ≤ off) →
         (∀ q ∈ s.pairCores c, t.bytesAt (.core q off) n = leBytes n (amoNew op n old x)) ∧
         (∀ q ∈ s.pairCores dc, t.numAt (.core q doff) 8 = old ∧
           t.numAt (.core q (doff + 8)) 8 = (s.numAt (.core (s.pairHead dc) (doff + 8)) 8 + 1) % 2 ^ 64) ∧
         (∀ q, (∀ m ∈ s.pairCores c, ∀ k < n, q ≠ .core m (off + k)) → (∀ m ∈ s.pairCores dc, ∀ k < 16, q ≠ .core m (doff + k)) →
           t.byteAt q = s.byteAt q)) ∧
       ((s.eager && s.performed) = false → o ≠ .sc →
         t.flight = s.flight ++ [.amof s.cur.core s.cur.ctx c off op n (BitVec.ofNat 64 x) dc doff (decide (o = .acq ∨ o = .ar))] ∧
         s.sameBytes t)) ∧
      (s.sendsSc o = true → ∃ t p, exec (.amof d a b op o w) s = .next t ∧ keeps t ∧ s.sameBytes t ∧ t.flight = s.flight ∧
       t.my.run = .holding ∧ p ∈ t.sc ∧ p.core = s.cur.core ∧ p.ctx = s.cur.ctx ∧ p.ready = false ∧
       p.act = .amof c off op n x dc doff)))

/-- R147-R152, R154, R155: with no stream bound, a lane-wise instruction gives every active lane its rule's value, keeps or
zeroes the others, raises the active lanes' flags, and changes no other register and no memory. R154, R155: VINS and VCOMP,
with no stream bound. R156-R159: with no stream bound, VCVT gives every active element its converted value, rounded by FPCTL
or by its draw, keeps or zeroes the others, zeroes what lies above the last, and raises the active elements' flags. -/
def Obligations.VectorLanes : Prop :=
  (∀ (i : Instr) (s : State) (d : Reg5) (eb : Nat) (x : Option VExt) (f : Nat → Nat × Flags),
     laneRule s i = some (d, eb, x, f) → s.guardHolds i = true → s.unbound →
     ∃ t, exec i s = .next t ∧
       (∀ k < 128 / eb, laneNat (t.getV d) eb k =
         if s.laneOn x k then (f k).1 % 2 ^ (8 * eb) else if zeroing x then 0 else laneNat (s.getV d) eb k) ∧
       s.raised t (flagsOf ((s.lanes x eb).map fun k => (f k).2)) ∧ s.my.onlyV t.my d.toNat ∧ s.onlyMy t ∧ s.sameBytes t ∧
       s.movesOn t (words i)) ∧
  (∀ (i : Instr) (s : State) (d : Reg5) (eb : Nat) (f : Nat → Nat), insertRule s i = some (d, eb, f) → s.guardHolds i = true →
     s.unbound →
     ∃ t, exec i s = .next t ∧ (∀ k < 128 / eb, laneNat (t.getV d) eb k = f k) ∧ s.my.onlyV t.my d.toNat ∧
       t.my.sysr 0x011 = s.my.sysr 0x011 ∧ s.onlyMy t ∧ s.sameBytes t ∧ s.movesOn t (words i)) ∧
  (∀ (s : State) (df sf : Fmt) (sat : Bool) (d a : Reg5) (x : VExt) (g : Reg3), s.guardOn g = true → s.unbound →
     (let n := vcvtCount df sf
      let act := (List.range n).filter (s.laneOn (some x))
      let rs := (s.roundings df act.length).1
      let elem (k : Nat) : Nat × Flags × Bool :=
        vcvtElem df sf sat (rs.getD (act.idxOf k) (.mode s.rm)) (packed (s.getV a).toNat (fmtBits sf) k)
      ∃ t, exec (.vcvt df sf sat d a x g) s = .next t ∧
       (∀ k < n, packed (t.getV d).toNat (fmtBits df) k =
         if s.laneOn (some x) k then (elem k).1 % 2 ^ fmtBits df
         else if x.zm then 0 else packed (s.getV d).toNat (fmtBits df) k) ∧
       (∀ k, n ≤ k → packed (t.getV d).toNat (fmtBits df) k = 0) ∧ s.raised t (flagsOf (act.map fun k => (elem k).2.1)) ∧
       s.my.sameG t.my ∧ s.my.sameP t.my ∧ s.my.sameA t.my ∧ (∀ r : Reg5, r ≠ d → t.getV r = s.getV r) ∧
       (∀ m, m ≠ 0x011 → t.my.sysr m = s.my.sysr m) ∧ s.sameBytes t ∧ s.movesOn t 3))

/-- R148, R153: with no stream bound, a vector compare gives an active lane's bit its condition, keeps or clears the bits of the
others, and clears every bit above the last lane. R154, R160, R162: with no stream bound, VEXT, the reductions, VPCNT and
VFIRST write their rule's value to gd and raise its flags. R148, R161: with no stream bound and nothing of the context under
way to its bytes, VBTST whose active lanes lie in core memory without poison gives each its bit of the bitmap, keeps or
clears the bits of the others, and clears every bit above the last lane. -/
def Obligations.VectorPredicatesAndScalars : Prop :=
  (∀ (i : Instr) (s : State) (d : Reg3) (eb : Nat) (x : Option VExt) (f : Nat → Bool × Flags),
     vectorPredRule s i = some (d, eb, x, f) → s.guardHolds i = true → s.unbound → d ≠ 0 →
     ∃ t, exec i s = .next t ∧
       (∀ k < 128, (t.getP d).getLsbD k =
         (decide (k < 128 / eb) && (if s.laneOn x k then (f k).1 else !zeroing x && (s.getP d).getLsbD k))) ∧
       s.raised t (flagsOf ((s.lanes x eb).map fun k => (f k).2)) ∧ (∀ r : Reg3, r ≠ d → t.getP r = s.getP r) ∧
       s.my.sameG t.my ∧ s.my.sameV t.my ∧ s.my.sameA t.my ∧ (∀ n, n ≠ 0x011 → t.my.sysr n = s.my.sysr n) ∧ s.onlyMy t ∧
       s.sameBytes t ∧ s.movesOn t (words i)) ∧
  (∀ (i : Instr) (s : State) (d : Reg5) (v : Word) (f : Flags), vectorScalarRule s i = some (d, v, f) →
     s.guardHolds i = true → s.unbound →
     ∃ t, exec i s = .next t ∧ t.getG d = (if d = 0 then 0 else v) ∧ s.raised t f ∧ (∀ r : Reg5, r ≠ d → t.getG r = s.getG r) ∧
       s.my.sameP t.my ∧ s.my.sameV t.my ∧ s.my.sameA t.my ∧ (∀ n, n ≠ 0x011 → t.my.sysr n = s.my.sysr n) ∧ s.onlyMy t ∧
       s.sameBytes t ∧ s.movesOn t (words i)) ∧
  (∀ (s : State) (e : ES) (d : Reg3) (a b : Reg5) (x : Option VExt) (g : Reg3), s.guardOn g = true → s.unbound → s.calm → d ≠ 0 →
     (let eb := esBytes e
      let off (k : Nat) : Nat := (s.getG b).toNat + laneNat (s.getV a) eb k / 8
      (∀ k ∈ s.lanes x eb, off k < memSize s.cur.core ∧ s.poisonedIn (.core s.cur.core (off k)) 1 = false) →
      ∃ t, exec (.vbtst e d a b x g) s = .next t ∧
       (∀ k < 128, (t.getP d).getLsbD k =
         (decide (k < 128 / eb) && (if s.laneOn x k then
           (s.byteAt (.core s.cur.core (off k))).getLsbD (laneNat (s.getV a) eb k % 8) else !zeroing x && (s.getP d).getLsbD k))) ∧
       s.my.onlyP t.my d.toNat ∧ s.onlyMy t ∧ s.sameBytes t ∧ s.movesOn t (1 + extWords x)))

/-- R125, R126: with no stream bound, a vector load whose lanes pass the checks of R121, lie on mapped pages and hold no poison
gives each active lane the bytes at its place, and keeps or zeroes the others; memory does not change. R124-R126, R143: with
no stream bound, a vector store whose lanes pass the checks writes the bytes of the lanes on mapped pages in ascending order,
and no other byte; or, for the lanes that the model performs later (log 26), each sets out with its bytes. A lane on an
absent page that shares no byte with another enters the side log, which has room, with its bytes. The registers keep what
they hold. -/
def Obligations.VectorAccesses : Prop :=
  (∀ (i : Instr) (s u : State) (d : Reg5) (sp : Space) (eb : Nat) (x : Option VExt) (addr : Nat → Word) (locs : List Loc),
     vectorMemRule s i = some (d, false, sp, eb, x, addr) → s.guardHolds i = true → s.unbound →
     s.check sp .load {} (s.laneAccesses eb x addr) = .ok (locs, u) → u.calm →
     (∀ l ∈ locs, ∃ p, l.place = some p ∧ u.poisonedIn p eb = false) →
     ∃ t, exec i s = .next t ∧
       (∀ l ∈ locs, ∀ p, l.place = some p → laneNat (t.getV d) eb l.item.lane = u.numAt p eb) ∧
       (∀ k < 128 / eb, s.laneOn x k = false → laneNat (t.getV d) eb k = if zeroing x then 0 else laneNat (s.getV d) eb k) ∧
       u.my.onlyV t.my d.toNat ∧ u.sameBytes t ∧ u.movesOn t (words i)) ∧
  (∀ (i : Instr) (s u : State) (d : Reg5) (sp : Space) (eb : Nat) (x : Option VExt) (addr : Nat → Word) (locs : List Loc),
     vectorMemRule s i = some (d, true, sp, eb, x, addr) → s.guardHolds i = true → s.unbound →
     s.check sp .store { write := true } (s.laneAccesses eb x addr) = .ok (locs, u) → u.calm →
     (placed locs ∨ u.me.slog.length + locs.length ≤ 64) →
     (let ws := locs.map fun l => (l, leBytes eb (laneNat (s.getV d) eb l.item.lane))
      ∃ t, exec i s = .next t ∧
       (∀ q, t.byteAt q = (u.written (ws.filter fun w => !u.away sp w.1)).byteAt q) ∧
       (∀ w ∈ ws, u.away sp w.1 = true → t.sentOut sp w) ∧ t.logged u ws ∧
       (∀ r, t.getG r = s.getG r) ∧ (∀ r, t.getP r = s.getP r) ∧ (∀ r, t.getV r = s.getV r) ∧ (∀ r, t.getA r = s.getA r) ∧
       u.movesOn t (words i)))

/-- R127-R129: SBIND binds a generator by the descriptor in core memory, field by field, with both cursors at 0 and nothing read
ahead, and RESERVED_FIELD refuses a bad descriptor; SFREE unbinds one and leaves the register's value; both wait for an
append of the generator that the geometry unit still owes it (R131). R14, R129, R149: a lane-wise instruction one of whose
sources is bound to an exhausted generator, or to one that only appends, is ILLEGAL_ADDRESS with the chunk's address. VMOV
from a bound register takes the next chunk, as it was read ahead or as memory holds it, and the read cursor moves on. VMOV
into a bound register writes the chunk at the write cursor, which moves on, and the register holds the value; past the count,
or to a generator that only pops, it is ILLEGAL_ADDRESS. -/
def Obligations.StreamBinding : Prop :=
  (∀ (s : State) (j : BitVec 2) (a : Reg5) (g : Reg3), s.guardOn g = true →
     (s.appendPending j = false → s.calm → (s.getG a).toNat + 32 ≤ memSize s.cur.core → (s.getG a).toNat % 32 = 0 →
       s.poisonedIn (.core s.cur.core (s.getG a).toNat) 32 = false →
       (let num (k n : Nat) : Nat := s.numAt (.core s.cur.core ((s.getG a).toNat + k)) n
        (descriptorBad (s.bytesAt (.core s.cur.core (s.getG a).toNat) 32) = false →
         ∃ t b, exec (.sbind j a g) s = .next t ∧ t.my.stream (28 + j.toNat) = some b ∧ b.rc = 0 ∧ b.wc = 0 ∧ b.ahead = [] ∧
         b.base.toNat = num 0 8 ∧ b.stride.toNat = num 8 4 ∧ b.count.toNat = num 12 4 ∧ b.wrap.toNat = num 20 4 ∧
         b.dir.toNat = num 24 8 / 4 % 4 ∧ b.space.toNat = num 24 8 % 4 ∧ s.my.sameG t.my ∧ s.my.sameP t.my ∧ s.my.sameV t.my ∧
         s.my.sameA t.my ∧ s.my.sameSys t.my ∧ (∀ k : Nat, k ≠ j.toNat → tget {} t.my.streams k = tget {} s.my.streams k) ∧
         s.onlyMy t ∧ s.sameBytes t ∧ s.movesOn t 1) ∧
        (descriptorBad (s.bytesAt (.core s.cur.core (s.getG a).toNat) 32) = true →
         exec (.sbind j a g) s = .next (s.trapAt 0x02 0 0x400)))) ∧
     (s.appendPending j = false →
       ∃ t, exec (.sfree j g) s = .next t ∧ t.my.stream (28 + j.toNat) = none ∧ s.my.sameG t.my ∧ s.my.sameP t.my ∧ s.my.sameV t.my ∧
         s.my.sameA t.my ∧ s.my.sameSys t.my ∧ (∀ k : Nat, k ≠ j.toNat → tget {} t.my.streams k = tget {} s.my.streams k) ∧ s.onlyMy t ∧
         s.sameBytes t ∧ s.movesOn t 1) ∧
     (s.appendPending j = true → ∀ i ∈ [Instr.sbind j a g, .sfree j g],
       ∃ t, exec i s = .next t ∧ t.my.run = .holding ∧ t.my.pc = s.my.pc ∧ s.my.sameRegs t.my)) ∧
  ((∀ (i : Instr) (s : State) (l : List Reg5) (r : Reg5) (g : Stream), streamSources i = some l → s.guardHolds i = true → r ∈ l →
     (∀ q ∈ l, q ≠ r → s.my.stream q.toNat = none) → s.my.stream r.toNat = some g → (g.dir = 2 ∨ g.count.toNat ≤ g.rc) →
     exec i s = .next (s.trapAt 0x09 (g.chunk g.rc) ({ stream := true, space := g.space } : AddrInfo).word)) ∧
   (∀ (s : State) (e : ES) (d a : Reg5) (q : Reg3) (g : Stream), s.guardOn q = true →
     (s.my.stream a.toNat = some g → s.my.stream d.toNat = none → g.dir ≠ 2 → g.rc < g.count.toNat →
       (∀ bs u, g.ahead = [] → s.readItems g.space' .load (streamInfo false g) 0 0 (chunkItems (g.chunk g.rc)) = .ok (bs, u) →
         ∃ t, exec (.vmov e d a none q) s = .next t ∧ t.getV d = BitVec.ofNat 1024 (leNat bs.flatten) ∧ u.sameBytes t ∧
           (tget {} t.my.streams (a.toNat - 28)).rc = g.rc + 1 ∧ u.movesOn t 1) ∧
       (∀ v rest locs u, g.ahead = v :: rest →
         s.check g.space' .load (streamInfo false g) (chunkItems (g.chunk g.rc)) = .ok (locs, u) → placed locs →
         ∃ t, exec (.vmov e d a none q) s = .next t ∧ t.getV d = v ∧ u.sameBytes t ∧
           (tget {} t.my.streams (a.toNat - 28)).rc = g.rc + 1 ∧ (tget {} t.my.streams (a.toNat - 28)).ahead = rest ∧ u.movesOn t 1)) ∧
     (s.my.stream a.toNat = none → s.my.stream d.toNat = some g →
       (g.dir = 1 ∨ g.count.toNat ≤ g.wc →
         exec (.vmov e d a none q) s =
           .next (s.trapAt 0x09 (g.chunk g.wc) ({ stream := true, write := true, space := g.space } : AddrInfo).word)) ∧
       (∀ locs u, g.dir ≠ 1 → g.wc < g.count.toNat →
         s.check g.space' .store { streamInfo true g with write := true } (chunkItems (g.chunk g.wc)) = .ok (locs, u) → u.calm →
         placed locs → (∀ x ∈ u.me.slog, x.ctx = s.cur.ctx → x.gen ≠ some (d.toNat - 28)) →
         (let ws := locs.zip ((List.range 32).map fun k => leBytes 4 ((s.getV a).extractLsb' (32 * k) 32).toNat)
          ∃ t, exec (.vmov e d a none q) s = .next t ∧ (∀ b, t.byteAt b = (u.written ws).byteAt b) ∧ t.getV d = s.getV a ∧
           (tget {} t.my.streams (d.toNat - 28)).wc = g.wc + 1 ∧ u.movesOn t 1)))))

/-- R138-R140: a fence completes when what it orders is performed; PREF does nothing; CLEAN takes the line's sectors off those
not written back, does nothing where its page is absent or unreadable or lies in no DRAM, and waits while no translation is
made for the core (R283); CZERO writes 256 bytes of zeros at the line of its address. That CLEAN raises nothing on a reflex
core, at any address below 2^56, is the model's choice (log 48), and so is that a CZERO is performed at issue (log 26). R137,
R138: ACQ of an object completes and changes no memory; REL adds 1 to SEQ and changes no other byte, once the context's
writes to the bound regions are performed. -/
def Obligations.FencesAndObjects : Prop :=
  ((∀ (s v : State) (o : Order) (sc : Scope) (g : Reg3), s.guardOn g = true → s.fenceReady o sc = true →
     (if o = .sc then s.scGate else .ok s) = .ok v →
     ∃ t, exec (.fence o sc g) s = .next t ∧ v.my.sameG t.my ∧ v.my.sameP t.my ∧ v.my.sameV t.my ∧ v.my.sameA t.my ∧ v.my.sameSys t.my ∧
       v.sameBytes t ∧ v.movesOn t 1) ∧
   (∀ (s : State) (a : Reg5) (off : Option Word) (g : Reg3), s.guardOn g = true →
     ∃ t, exec (.pref a off g) s = .next t ∧ s.my.sameRegs t.my ∧ s.onlyMy t ∧ s.sameBytes t ∧
       s.movesOn t (if off.isSome then 3 else 1)) ∧
   (∀ (s : State) (a : Reg5) (off : Option Word) (g : Reg3), s.guardOn g = true → (s.effective a (off.getD 0)).toNat < 2 ^ 56 →
     (∀ (u : State) (pa e : Nat), s.reflex = false → s.xlateCore .load (s.effective a (off.getD 0)).toNat = (.place (.dram pa) e, u) →
       ∃ t, exec (.clean a off g) s = .next t ∧ (∀ k b, pa / 256 * 2 ≤ k → k < pa / 256 * 2 + 2 → (k, b) ∉ t.sectors) ∧
       u.my.sameRegs t.my ∧ u.sameBytes t ∧ u.movesOn t (if off.isSome then 3 else 1)) ∧
     (s.reflex = true ∨ ((∀ pa e, (s.xlateCore .load (s.effective a (off.getD 0)).toNat).1 ≠ .place (.dram pa) e) ∧
         (s.xlateCore .load (s.effective a (off.getD 0)).toNat).1 ≠ .skewed) →
       ∃ t, exec (.clean a off g) s = .next t ∧ t.sectors = s.sectors ∧ s.my.sameRegs t.my ∧ s.movesOn t (if off.isSome then 3 else 1)) ∧
     (s.reflex = false → (s.xlateCore .load (s.effective a (off.getD 0)).toNat).1 = .skewed →
       ∃ t, exec (.clean a off g) s = .next t ∧ t.sectors = s.sectors ∧ t.my.run = .holding ∧ t.my.pc = s.my.pc ∧ s.my.sameRegs t.my)) ∧
   (∀ (s u : State) (a : Reg5) (off : Option Word) (g : Reg3) (p q : Place) (e f : Nat), s.guardOn g = true →
     (let va := BitVec.ofNat 64 ((s.effective a (off.getD 0)).toNat / 256 * 256)
      let x : Item := ⟨0, va, va, 128, 1⟩
      let y : Item := ⟨0, va, va + 128, 128, 1⟩
      let w : Loc × List Byte := (⟨x, some p, e⟩, List.replicate 128 0)
      let z : Loc × List Byte := (⟨y, some q, f⟩, List.replicate 128 0)
      s.check .glob .store { write := true } [x, y] = .ok ([w.1, z.1], u) → u.calm →
      (∀ n, p ≠ .host n ∧ q ≠ .host n ∧ p ≠ .peer n ∧ q ≠ .peer n) →
      ∃ t, exec (.czero a off g) s = .next t ∧ (∀ r, t.byteAt r = (u.written [w, z]).byteAt r) ∧ u.my.sameRegs t.my ∧
       u.movesOn t (if off.isSome then 3 else 1)))) ∧
  (∀ (s u : State) (a : Reg5) (g : Reg3) (p : Place) (bs : List Byte) (locs : List Loc), s.guardOn g = true →
     readObject s a = .ok (bs, locs, u) → locs.map (·.place) = [some p] → locs.map (·.item.n) = [64] →
     (∃ t, exec (.acq a g) s = .next t ∧ u.my.sameG t.my ∧ u.my.sameP t.my ∧ u.my.sameV t.my ∧ u.my.sameA t.my ∧ u.my.sameSys t.my ∧
       u.sameBytes t ∧ u.movesOn t 1) ∧
     (u.boundPending (boundRegions bs) = false → u.copies p = [p] →
       ∃ t, exec (.rel a g) s = .next t ∧ t.bytesAt p 8 = leBytes 8 ((wordAt bs 0) + 1).toNat ∧ u.sameBytesBut t p 8 ∧
         u.my.sameG t.my ∧ t.my.sysr 0x030 = t.my.pc ∧ u.movesOn t 1))

/-- R166-R169: a tile load whose rows pass the checks, lie on mapped pages and hold no poison (and, for TLDB, whose blocks are
good) fills Td's rows in its shape, and no other tile; TZERO zeroes Td. R167: the row of a TLD as the tile holds it: byte k
of row r is byte k of the row's bytes, and rows beyond the shape keep what they hold. R143, R165, R167: a tile store whose
rows pass the checks, of a tile without poison, writes the bytes of the pieces on mapped pages in order and no other byte;
or, for the pieces that the model performs later (log 26), each sets out with its bytes. A piece on an absent page that
shares no byte with another enters the side log, which has room, with its bytes. -/
def Obligations.TileAccesses : Prop :=
  ((∀ (i : Instr) (s u : State) (op : TileOp) (d : Reg3) (a b : Reg5) (sp : Space) (off : Word) (h : Shape) (locs : List Loc),
     tileLoadRule i = some (op, d, a, b, sp, off) → s.guardHolds i = true → s.me.shape d.toNat = some h →
     tileFormatOk op h.fmt = true →
     s.check sp .load {} (s.rowItems sp a off (s.getG b).toInt (rowsOf op h).1 (rowsOf op h).2 (rowAlign op)) = .ok (locs, u) →
     u.calm → (∀ l ∈ locs, ∃ p, l.place = some p ∧ u.poisonedIn p l.item.n = false) →
     (op = .tldb → ∀ e ∈ h.blocks, blockBad ((u.rowBytes locs e.1).drop (64 * e.2)) = false) →
     ∃ t, exec i s = .next t ∧ (t.me.tile d.toNat).toNat % 2 ^ 32768 = tileLoaded op (u.me.tile d.toNat) h (u.rowBytes locs) % 2 ^ 32768 ∧
       (∀ k, k ≠ d.toNat → t.me.tile k = u.me.tile k) ∧ u.sameButUnits t ∧ u.sameBytes t ∧ u.movesOn t (words i)) ∧
   (∀ (s : State) (d g : Reg3), s.guardOn g = true →
     ∃ t, exec (.tzero d g) s = .next t ∧ t.me.tile d.toNat = 0 ∧ (∀ k, k ≠ d.toNat → t.me.tile k = s.me.tile k) ∧
       s.sameButUnits t ∧ s.sameBytes t ∧ s.movesOn t 1)) ∧
  (∀ (v : BitVec 32768) (h : Shape) (row : Nat → List Byte) (r : Nat), h.rows ≤ 32 → h.bpr ≤ 128 →
     (∀ k, (row k).length = h.bpr) → r < 32 →
     tileBytes (BitVec.ofNat 32768 (tileLoaded .tld v h row)) r 0 h.bpr = if r < h.rows then row r else tileBytes v r 0 h.bpr) ∧
  (∀ (i : Instr) (s u : State) (d : Reg3) (a b : Reg5) (sp : Space) (off : Word) (h : Shape) (locs : List Loc),
     tileStoreRule i = some (d, a, b, sp, off) → s.guardHolds i = true → s.me.shape d.toNat = some h →
     s.check sp .store { write := true } (s.rowItems sp a off (s.getG b).toInt h.rows h.bpr 16) = .ok (locs, u) → u.calm →
     (placed locs ∨ u.me.slog.length + locs.length ≤ 64) → u.me.tileBad = [] →
     (let ws := locs.zipIdx.map fun e => (e.1, tileBytes (u.me.tile d.toNat) e.1.item.lane (16 * (e.2 % (h.bpr / 16))) 16)
      ∃ t, exec i s = .next t ∧
       (∀ q, t.byteAt q = (u.written (ws.filter fun w => !u.away sp w.1)).byteAt q) ∧
       (∀ w ∈ ws, u.away sp w.1 = true → t.sentOut sp w) ∧ t.logged u ws ∧
       (∀ k, t.me.tile k = u.me.tile k) ∧ (∀ r, t.getG r = u.getG r) ∧ u.movesOn t (words i)))

/-- R171, R172: inside the store ACCZ zeroes a region's cells, ACCRD reads one cell into gd, ACCWR writes one from ga[31:0];
outside, each raises ILLEGAL_ADDRESS and writes nothing. R171: ACCLD fills a region's cells in row order from core memory,
and ACCST writes them there, 4 bytes each. -/
def Obligations.AccumulatorAccesses : Prop :=
  (∀ (s : State) (r : Region) (d a : Reg5) (g : Reg3), s.guardOn g = true →
     (let k := cellsOf r s.cur.ostep
      (k.outside s.accHeight = none →
       (∃ t, exec (.accz r g) s = .next t ∧ (∀ c ∈ k.list, t.me.cell c.1 c.2 = 0) ∧
         (∀ row col, col < 128 → (row, col) ∉ k.list → t.me.cell row col = s.me.cell row col) ∧ s.sameButUnits t ∧
         s.sameBytes t ∧ s.movesOn t 3) ∧
       (s.me.accBad = [] → d ≠ 0 → ∃ t, exec (.accrd d r g) s = .next t ∧
         t.getG d = (s.me.cell k.row.toNat k.col).setWidth 64 ∧ s.my.onlyG t.my d.toNat ∧ s.onlyMy t ∧ s.sameBytes t ∧ s.movesOn t 3) ∧
       (∃ t, exec (.accwr a r g) s = .next t ∧ t.me.cell k.row.toNat k.col = (s.getG a).setWidth 32 ∧
         (∀ row col, col < 128 → (row, col) ≠ (k.row.toNat, k.col) → t.me.cell row col = s.me.cell row col) ∧
         s.sameButUnits t ∧ s.sameBytes t ∧ s.movesOn t 3)) ∧
      (∀ c, k.outside s.accHeight = some c →
       ∀ i ∈ [Instr.accz r g, .accrd d r g, .accwr a r g],
         exec i s = .next (s.trapAt 0x09 (BitVec.ofInt 64 (c.1 * 256 + c.2)) ({ space := 3 } : AddrInfo).word)))) ∧
  (∀ (s : State) (r : Region) (a : Reg5) (off : Option Word) (g : Reg3), s.guardOn g = true → s.calm →
     (let k := cellsOf r 0
      let va := (s.effective a (off.getD 0)).toNat
      k.outside s.accHeight = none → va + 4 * (k.nr * k.nc) ≤ memSize s.cur.core → va % 4 = 0 →
      (s.poisonedIn (.core s.cur.core va) (4 * (k.nr * k.nc)) = false →
       ∃ t, exec (.accld a r off g) s = .next t ∧
         (∀ i < k.nr, ∀ j < k.nc, (t.me.cell (k.row.toNat + i) (k.col + j)).toNat =
           s.numAt (.core s.cur.core (va + 4 * (i * k.nc + j))) 4) ∧
         (∀ row col, col < 128 → (row, col) ∉ k.list → t.me.cell row col = s.me.cell row col) ∧ s.sameButUnits t ∧ s.sameBytes t ∧
         s.movesOn t (if off.isSome then 5 else 3)) ∧
      (s.me.accBad = [] →
       ∃ t, exec (.accst a r off g) s = .next t ∧
         (∀ i < k.nr, ∀ j < k.nc, t.numAt (.core s.cur.core (va + 4 * (i * k.nc + j))) 4 =
           (s.me.cell (k.row.toNat + i) (k.col + j)).toNat) ∧
         s.sameBytesBut t (.core s.cur.core va) (4 * (k.nr * k.nc)) ∧ (∀ row col, t.me.cell row col = s.me.cell row col) ∧
         s.sameButUnits t ∧ s.movesOn t (if off.isSome then 5 else 3))))

/-- R173-R176: an MMA that no cause of R176 stops, on operands without poison, adds the products to the cells of its region from
operands read before any is written, and changes no other cell, tile or byte. -/
def Obligations.MatrixMultiply : Prop :=
  ∀ (s : State) (a b g : Reg3) (r : Region) (ha hb : Shape) (p : Pairing), s.guardOn g = true →
    (let k := cellsOf r s.cur.ostep
     mmaCheck s.me s.accHeight a.toNat b.toNat k.row k.col = .ok (ha, hb, p) → s.me.tileBad = [] → s.me.accBad = [] →
     ∃ t, exec (.mma a b r g) s = .next t ∧
      (∀ e ∈ (mmaCells s.me a.toNat b.toNat ha hb p k.row.toNat k.col).1, t.me.cell e.1.1 e.1.2 = e.2) ∧
      (∀ row col, col < 128 → (∀ i < ha.rows, ∀ j < hb.rows, (row, col) ≠ (k.row.toNat + i, k.col + j)) →
        t.me.cell row col = s.me.cell row col) ∧
      (∀ j, t.me.tile j = s.me.tile j) ∧ s.raised t (mmaCells s.me a.toNat b.toNat ha hb p k.row.toNat k.col).2 ∧
      s.sameButUnits t ∧ s.sameBytes t ∧ s.movesOn t 3)

/-- R177: MXEPI, on a shape that it accepts, cells without poison and, where it has a bias, words of the bias on mapped pages,
gives each element of Td's corner its cell's value (with the bias, activated, converted under the element's rounding), raises
their flags, and leaves the other elements, tiles and every cell. R178, R179: MXGATE, on a shape that it accepts and cells
without poison, overwrites the state block with the new state, gives each element of Td's corner the converted h, raises the
flags of both, and leaves the other elements, tiles and cells. R180: an MXRED whose words pass the checks, outside the
windows, adds each cell into its word of memory in order, or, where the model performs it later (log 26), sets out with each
addition; the pieces on absent pages enter the side log, which has room; the cells stay, and the region is closed. On a
reflex core it is ILLEGAL_ADDRESS. -/
def Obligations.MatrixEpilogues : Prop :=
  (∀ (s u : State) (d g : Reg3) (a : Reg5) (r : Region) (act : Act) (sat bias : Bool) (h : Shape) (bs : List Half), s.guardOn g = true →
     s.me.shape d.toNat = some h → epiOk h.fmt act sat = true →
     (let k := cellsOf r s.cur.ostep
      k.outside s.accHeight = none → k.nr ≤ h.rows → k.nc ≤ h.ke → s.biasRead bias a k.nc bs u → u.me.accBad = [] →
      (let rs := (u.roundings h.fmt (k.nr * k.nc)).1
       let el (i j : Nat) : Nat × Flags :=
         epiElem h.fmt act sat (rs.getD (i * k.nc + j) (.mode 0)) (u.me.cell (k.row.toNat + i) (k.col + j)) bs[j]?
       ∃ t, exec (.mxepi d a r act sat bias g) s = .next t ∧
         (∀ i < 32, ∀ j < 1024 / fmtBits h.fmt, tileElem (t.me.tile d.toNat) h.fmt i j =
           if i < k.nr ∧ j < k.nc then (el i j).1 % 2 ^ fmtBits h.fmt else tileElem (u.me.tile d.toNat) h.fmt i j) ∧
         u.raised t (flagsOf ((List.range k.nr).flatMap fun i => (List.range k.nc).map fun j => (el i j).2)) ∧
         (∀ j, j ≠ d.toNat → t.me.tile j = u.me.tile j) ∧ (∀ row col, t.me.cell row col = u.me.cell row col) ∧
         u.sameButUnits t ∧ u.sameBytes t ∧ u.movesOn t 3))) ∧
  (∀ (s : State) (d g : Reg3) (r : Region) (q : Gate) (h : Shape), s.guardOn g = true → s.me.shape d.toNat = some h → s.me.accBad = [] →
     (let k := cellsOf r s.cur.ostep
      let w := k.nc / gateBlocks q
      let first := k.col + (gateBlocks q - 1) * w
      let rs := (s.roundings h.fmt (k.nr * w)).1
      let out (i j : Nat) : Nat × Nat × Flags := gateCell q fun b => (s.me.cell (k.row.toNat + i) (k.col + b * w + j)).toNat
      let el (i j : Nat) : Nat × Flags := convElem h.fmt true (rs.getD (i * w + j) (.mode 0)) (.fp (fFP32.dec (out i j).1))
      k.outside s.accHeight = none → gateFmt h.fmt = true → k.nc % gateBlocks q = 0 → k.nr ≤ h.rows → w ≤ h.ke →
      ∃ t, exec (.mxgate d r q g) s = .next t ∧
         (∀ i < k.nr, ∀ j < w, (t.me.cell (k.row.toNat + i) (first + j)).toNat = (out i j).2.1 % 2 ^ 32) ∧
         (∀ row col, col < 128 → (∀ i < k.nr, ∀ j < w, (row, col) ≠ (k.row.toNat + i, first + j)) → t.me.cell row col = s.me.cell row col) ∧
         (∀ i < 32, ∀ j < 1024 / fmtBits h.fmt, tileElem (t.me.tile d.toNat) h.fmt i j =
           if i < k.nr ∧ j < w then (el i j).1 % 2 ^ fmtBits h.fmt else tileElem (s.me.tile d.toNat) h.fmt i j) ∧
         s.raised t (flagsOf ((List.range k.nr).flatMap fun i => (List.range w).map fun j => (out i j).2.2.or (el i j).2)) ∧
         (∀ j, j ≠ d.toNat → t.me.tile j = s.me.tile j) ∧ s.sameButUnits t ∧ s.sameBytes t ∧ s.movesOn t 3)) ∧
  (∀ (s u : State) (int : Bool) (a : Reg5) (r : Region) (off : Option Word) (g : Reg3) (locs : List Loc), s.guardOn g = true →
     (let k := cellsOf r 0
      let va := s.effective a (off.getD 0)
      let op : AmoOp := if int then .add else .fadd
      let vs (l : Loc) : List Half := ((k.list.map fun c => u.me.cell c.1 c.2).drop ((l.item.va - va).toNat / 4)).take (l.item.n / 4)
      let away := locs.filter fun l => l.place.isNone
      k.outside s.accHeight = none →
      (s.reflex = false → va.toNat + 4 * (k.nr * k.nc) ≤ 2 ^ 56 →
       s.check .glob .rmw { write := true } (sectorItems va (k.nr * k.nc)) = .ok (locs, u) → u.calm → u.me.accBad = [] →
       (∀ l ∈ locs, ∀ p, l.place = some p → u.poisonedIn p l.item.n = false ∧ ∀ n, p ≠ .host n ∧ p ≠ .peer n) →
       u.me.slog.length + away.length ≤ 64 →
       ∃ t, exec (.mxred int a r off g) s = .next t ∧
        (∀ q, t.byteAt q = (if u.eager then locs.foldl (fun w l => match l.place with
             | some p => w.reduceAt op p (vs l)
             | none => w) u else u).byteAt q) ∧
        (u.eager = false → ∀ l ∈ locs, ∀ p, l.place = some p → ∀ n v, (vs l)[n]? = some v →
          ∃ e org, .mem u.cur.core u.cur.ctx (l.item.va + BitVec.ofNat 64 (4 * n)).toNat (p.plus (4 * n)).addr e
            (.amo op 4 (v.setWidth 64)) .travelling org ∈ t.flight) ∧
        t.me.slog = u.me.slog ++ away.map (fun l =>
          logEntryOf l.item.va.toNat ((vs l).flatMap fun v => leBytes 4 v.toNat) (.amo op 4) u.me.vf u.cur.ctx) ∧
        (∀ row col, t.me.cell row col = u.me.cell row col) ∧ u.my.sameG t.my ∧ u.my.sameV t.my ∧ t.my.sysr 0x030 = t.my.pc ∧
        u.movesOn t (if off.isSome then 5 else 3)) ∧
      (s.reflex = true → exec (.mxred int a r off g) s = .next (s.trapAt 0x09 va ({ write := true } : AddrInfo).word))))

/-- R181: MXSEND returns the reason where a check fails; else it sends the 64 bytes at ga as a command and returns its number. -/
def Obligations.SeizureSend : Prop :=
  ∀ (s : State) (d a b : Reg5) (c : BitVec 2) (g : Reg3), s.guardOn g = true → s.calm →
    (s.getG a).toNat + 64 ≤ memSize s.cur.core → (s.getG a).toNat % 64 = 0 →
    s.poisonedIn (.core s.cur.core (s.getG a).toNat) 64 = false →
    (let cmd := BitVec.ofNat 512 (s.numAt (.core s.cur.core (s.getG a).toNat) 64)
     (∀ v, mxsendCheck s c (s.getG b) cmd = some v →
      ∃ t, exec (.mxsend d a b c g) s = .next t ∧ t.getG d = (if d = 0 then 0 else v) ∧ s.my.onlyG t.my d.toNat ∧ s.onlyMy t ∧ s.sameBytes t ∧ s.movesOn t 1) ∧
     (mxsendCheck s c (s.getG b) cmd = none →
      ∃ t z, exec (.mxsend d a b c g) s = .next t ∧ t.getG d = (if d = 0 then 0 else BitVec.ofNat 64 (s.me.c9Sent + 1)) ∧
        t.flight = s.flight ++ [.seizure (s.getG b).toNat z] ∧ z.bits = cmd ∧ z.number = s.me.c9Sent + 1 ∧
        z.core = s.cur.core ∧ z.vf = s.me.vf ∧ (∀ q : Reg5, q ≠ d → t.getG q = s.getG q) ∧ t.my.sysr 0x030 = t.my.pc ∧
        s.sameBytes t ∧ s.movesOn t 1))

/-- R187-R199: with no stream bound, a geometry instruction writes one byte a lane, the sign of its test or 0x80 where a
coordinate is not finite, zeroes the bytes above, and sets GNF in that case; where the model leaves it pending (log 26) the
unit holds that result for Vd, and nothing else changes. Without NF a lane that is not finite is GEOM_NONFINITE. -/
def Obligations.Geometry : Prop :=
  ∀ (i : Instr) (s : State) (o : GeoOp) (dbl : Bool) (d a b : Reg5) (tb nf : Bool),
    geometryRule i = some (o, dbl, d, a, b, tb, nf) → s.guardHolds i = true → s.unbound →
    (let byte (k : Nat) : Nat := if k < 128 / geoBytes dbl then geoLane s o dbl a b tb k else 0
     ((nonFinite s o dbl a = none ∨ nf = true) →
      (s.eager = true →
       ∃ t, exec i s = .next t ∧ (∀ k < 128, laneNat (t.getV d) 1 k = byte k) ∧
        s.raised t { gnf := (nonFinite s o dbl a).isSome } ∧ s.my.onlyV t.my d.toNat ∧ s.onlyMy t ∧ s.sameBytes t ∧ s.movesOn t 1) ∧
      (s.eager = false →
       ∃ t p, exec i s = .next t ∧ t.me.egu = s.me.egu ++ [p] ∧ p.ctx = s.cur.ctx ∧ p.d = d.toNat ∧
        (∀ k < 128, laneNat p.v 1 k = byte k) ∧ p.gnf = (nonFinite s o dbl a).isSome ∧ s.my.sameRegs t.my ∧ s.onlyMe t ∧
        s.sameBytes t ∧ s.movesOn t 1)) ∧
     (∀ lane reg, nonFinite s o dbl a = some (lane, reg) → nf = false →
      exec i s = .next (s.trapAt 0x0D 0 (BitVec.ofNat 64 (lane * 256 + reg)))))

/-- R190-R192, R196, R197: in a lane whose coordinates are finite, the byte of a determinant predicate is the sign of the
determinant of R190 of the exact coordinates, and that of GSEGX and GSEGT is +1 exactly where the first line of R191 or R192
holds; elsewhere it is not +1, and for GSEGX it is -1 where the segments have no point in common and 0 where they have one.
With TB the points are perturbed by the ranks of their keys, and the byte is the sign, or +1 or -1, that the perturbed points
give for every infinitesimal 2^-n small enough. -/
def Obligations.GeometryValues : Prop :=
  ∀ (i : Instr) (s : State) (o : GeoOp) (dbl : Bool) (d a b : Reg5) (tb nf : Bool) (k : Nat) (c : Nat → Int),
    geometryRule i = some (o, dbl, d, a, b, tb, nf) → s.guardHolds i = true → s.unbound → (nonFinite s o dbl a = none ∨ nf = true) →
    (let dim := (geometryDims i).1
     let points := (geometryDims i).2
     let lane (r : Nat) : Nat := laneNat (s.my.getV r) (if dbl then 8 else 4) k
     let key (j : Nat) : Nat := if dbl then lane b.toNat / 2 ^ (12 * j) % 2 ^ 12 else lane b.toNat / 2 ^ (6 * j) % 2 ^ 6
     let p (j : Nat) : List Int := (List.range dim).map fun x => c (dim * j + x)
     let q (n j : Nat) : List Int := (List.range dim).map fun x =>
       perturbed dim n (rankOf key points j) x (2 ^ (if dbl then 1074 else 149)) (c (dim * j + x))
     k < (if dbl then 16 else 32) → (∀ j < dim * points, coordUnits dbl (lane (a.toNat + j)) = some (c j)) →
     ∃ t v, exec i s = .next t ∧ (if s.eager then t.getV d = v else ∃ e, t.me.egu = s.me.egu ++ [e] ∧ e.v = v) ∧
      (let byte := laneNat v 1 k
       (tb = false →
        (∀ x, determinant i p = some x → byte = byteOfSign x) ∧
        (∀ crosses, crossesRule i p = some crosses → (byte = 1 ↔ crosses) ∧ (byte = 0 ∨ byte = 1 ∨ byte = 0xFF)) ∧
        (∀ meets, meetsRule i p = some meets → byte ≠ 1 → (byte = 0 ↔ meets))) ∧
       (tb = true → ∃ m, ∀ n, m ≤ n →
        (∀ x, determinant i (q n) = some x → byte = byteOfSign x) ∧
        (∀ crosses, crossesRule i (q n) = some crosses → (byte = 1 ↔ crosses) ∧ (byte = 1 ∨ byte = 0xFF)))))

/-- R203-R213: a sum-product instruction whose runs lie within the scratch registers, on registers without poison, writes its
rule's values in order and no other register; its results' flags are raised with its completion: at once, or, where the model
leaves it in the engine (log 26), when it leaves the engine. R209: SPLD fills scratch registers from core memory, 16 bytes
each, and SPST writes them there. -/
def Obligations.ScratchAccesses : Prop :=
  (∀ (i : Instr) (s : State) (runs : List XRun) (first : Nat) (vs : List (BitVec 128)) (rs : List SpeRes),
     scratchRule s i = some (runs, first, vs, rs) → s.guardHolds i = true → (∀ r ∈ runs, r.first + r.n ≤ s.xCount ∧ (s.reflex = true → r.first ≤ 63)) →
     s.me.xBad = [] →
     ∃ t, exec i s = .next t ∧ (∀ k, t.me.getX k = if first ≤ k ∧ k < first + vs.length then vs.getD (k - first) 0 else s.me.getX k) ∧
       (s.eager = true → s.raised t (flagsOf (rs.map (·.fl))) ∧
         ((t.me.sysr 0x018).getLsbD 9 = ((s.me.sysr 0x018).getLsbD 9 || rs.any (·.sat))) ∧
         ((t.me.sysr 0x018).getLsbD 8 = ((s.me.sysr 0x018).getLsbD 8 || rs.any (·.uf)))) ∧
       (s.eager = false → t.my.sysr 0x011 = s.my.sysr 0x011 ∧ t.me.sysr 0x018 = s.me.sysr 0x018 ∧
         ∃ p, t.me.spe = s.me.spe ++ [p] ∧ p.ctx = s.cur.ctx ∧ p.fl = (flagsOf (rs.map (·.fl))).word ∧ p.sat = rs.any (·.sat) ∧
           p.uf = rs.any (·.uf)) ∧
       s.sameButUnits t ∧ s.sameBytes t ∧ s.movesOn t (words i)) ∧
  (∀ (i : Instr) (s : State) (store : Bool) (first n : Nat) (va : Word), scratchMemRule s i = some (store, first, n, va) →
     s.guardHolds i = true → s.calm → first + n ≤ s.xCount → (s.reflex = true → first ≤ 63) →
     va.toNat + 16 * n ≤ memSize s.cur.core → va.toNat % 16 = 0 →
     s.poisonedIn (.core s.cur.core va.toNat) (16 * n) = false → s.me.xBad = [] →
     ∃ t, exec i s = .next t ∧
       (if store then
         (∀ k < n, t.numAt (.core s.cur.core (va.toNat + 16 * k)) 16 = (s.me.getX (first + k)).toNat) ∧
         s.sameBytesBut t (.core s.cur.core va.toNat) (16 * n) ∧ ∀ k, t.me.getX k = s.me.getX k
       else
         (∀ k < n, (t.me.getX (first + k)).toNat = s.numAt (.core s.cur.core (va.toNat + 16 * k)) 16) ∧
         (∀ k, (k < first ∨ first + n ≤ k) → t.me.getX k = s.me.getX k) ∧ s.sameBytes t) ∧
       s.sameButUnits t ∧ s.movesOn t (words i))

/-- R55, R64: FP32 additions, multiplications and fused multiply-adds of VADD, VMUL and VFMA whose operands and result are finite
are the exact values rounded once by FPCTL.RM. An MMA of BF16 adds to each cell, whose result is finite, the sums of its runs
of 16 products, each rounded once to nearest, one after the other, each with one rounding to nearest. -/
def Obligations.RoundedValues : Prop :=
  (∀ (s : State) (d a b : Reg5) (g : Reg3) (k : Nat) (x y z : Int), s.guardOn g = true → s.unbound → k < 32 →
    (let lane (t : State) (r : Reg5) : Nat := laneNat (t.getV r) 4 k
     fp32Units (lane s a) = some x → fp32Units (lane s b) = some y →
     (∃ t, exec (.vadd .f32 d a b none g) s = .next t ∧
      ((fp32Units (lane t d)).isSome = true → roundedTo s.rm 1 (x + y) (lane t d))) ∧
     (∃ t, exec (.vmul .f32 d a b none g) s = .next t ∧
      ((fp32Units (lane t d)).isSome = true → roundedTo s.rm (2 ^ 149) (x * y) (lane t d))) ∧
     (fp32Units (lane s d) = some z → ∃ t, exec (.vfma .f32 d a b none g) s = .next t ∧
      ((fp32Units (lane t d)).isSome = true → roundedTo s.rm (2 ^ 149) (x * y + z * 2 ^ 149) (lane t d))))) ∧
  (∀ (s : State) (a b g : Reg3) (r : Region) (ha hb : Shape) (p : Pairing) (i j : Nat) (x y : Nat → Int), s.guardOn g = true →
    (let k := cellsOf r s.cur.ostep
     let elem (t : Reg3) (row m : Nat) : Nat := tileElem (s.me.tile t.toNat) .bf16 row m * 2 ^ 16
     mmaCheck s.me s.accHeight a.toNat b.toNat k.row k.col = .ok (ha, hb, p) → s.me.tileBad = [] → s.me.accBad = [] →
     ha.fmt = .bf16 → hb.fmt = .bf16 → i < ha.rows → j < hb.rows →
     (∀ m < ha.ke, fp32Units (elem a i m) = some (x m) ∧ fp32Units (elem b j m) = some (y m)) →
     ∃ t, exec (.mma a b r g) s = .next t ∧
      (let cell (u : State) : Nat := (u.me.cell (k.row.toNat + i) (k.col + j)).toNat
       (fp32Units (cell t)).isSome = true → runsAdded (2 ^ 149) (cell s)
        ((List.range ((ha.ke + 15) / 16)).map fun q =>
          (((List.range 16).map (16 * q + ·)).filter (· < ha.ke)).foldl (fun e m => e + x m * y m) 0) (cell t))))

/-- R228: a SEND of a well-formed block closes the region. Where the model performs it at issue and nothing before it is pending,
it brings the answer of its ring to gd, the new TAIL or bit 63 with the code of R228, and writes what the ring logic writes:
nothing where it is refused, with code 5 for a handle that names no ring. Else the message sets out. R227: the entry that the
ring logic writes at TAIL, where no pad is needed, holds the length, kind 1, the sender, the time and the payload, and TAIL
moves past it. R229: RECV, with no earlier reader waiting at the ring, passes the pads at READ and returns the next entry's
offset in gd, with READ past it; with no entry it sleeps. RPOLL returns TAIL - READ. A number above 15, or a ring disabled or
malformed, is ILLEGAL_ADDRESS. The descriptor and the entry's header are without poison, and nothing of the context in flight
touches them. -/
def Obligations.Messages : Prop :=
  (∀ (s : State) (d a b : Reg5) (g : Reg3) (p : List Byte), s.guardOn g = true → s.sourceBlock (s.getG b) 4096 = .ok p →
     (let m : Message := { kind := 1, srcctx := s.cur.ctx, src := s.cur.core, vf := s.me.vf, payload := p }
      let h := s.getG a
      let core := bits h 0 7
      let named := bits h 12 52 = 0 ∧ bits h 7 1 = 0 ∧ core ≤ 95 ∧ (Config.isReflex s.cur.core = true → 64 ≤ core)
      ∃ t, exec (.send d a b g) s = .next t ∧ t.my.sysr 0x030 = t.my.pc ∧ (∀ r : Reg5, r ≠ d → t.getG r = s.getG r) ∧ s.movesOn t 1 ∧
       (s.eager = true → s.performed = true →
         t.getG d = (if d = 0 then 0 else ((s.sent 1).sendResult h m).1) ∧
         (∀ q, t.byteAt q = ((s.sent 1).sendResult h m).2.byteAt q) ∧ t.flight = s.flight ∧
         (¬ named → t.getG d = (if d = 0 then 0 else 0x8000000000000005) ∧ s.sameBytes t) ∧
         (∀ code, code ≠ 0 → named → s.ringCode core (bits h 8 4) m = code →
           t.getG d = (if d = 0 then 0 else BitVec.ofNat 64 (2 ^ 63 + code)) ∧ s.sameBytes t)) ∧
       ((s.eager && s.performed) = false →
         t.flight = s.flight ++ [.send s.cur.core s.cur.ctx d.toNat h p s.me.vf] ∧ s.my.sameG t.my ∧ s.sameBytes t))) ∧
  (∀ (s : State) (core ring : Nat) (m : Message), (s.core core).pair = false → Config.isReflex core = false → ring < 16 →
     (let r := s.ring core ring
      let h := r.at r.tail
      r.malformed (memSize core) = false → r.pad m.payload.length = 0 → m.payload.length ≤ 4096 → r.tail.toNat % 16 = 0 →
      r.base + r.size ≤ 0x4FFE00 → m.kind < 256 → m.src < 256 →
      (let t := s.ringWrite core ring m
       t.numAt (.core core h) 2 = m.payload.length ∧ (t.byteAt (.core core (h + 2))).toNat = m.kind ∧
       (t.byteAt (.core core (h + 4))).toNat = m.src ∧ t.numAt (.core core (h + 8)) 8 = s.now % 2 ^ 64 ∧
       t.bytesAt (.core core (h + 16)) m.payload.length = m.payload ∧
       (t.ring core ring).tail = r.tail + BitVec.ofNat 64 (entryBytes m.payload.length)))) ∧
  (∀ (s : State) (d a : Reg5) (g : Reg3), s.guardOn g = true →
     (let v := s.getG a
      let r := s.ring s.cur.core v.toNat
      let clean := v.toNat ≤ 15 ∧ s.calm ∧ s.poisonedIn (.core s.cur.core (ringBase s.cur.core v.toNat)) 32 = false
      let ok := r.en = true ∧ r.malformed (memSize s.cur.core) = false
      let c := s.skipPads r 2 r.read
      (clean → ok → ∃ t, exec (.rpoll d a g) s = .next t ∧ s.onlyResult t d (r.tail - r.read) ∧ s.movesOn t 1) ∧
      (15 < v.toNat ∨ (clean ∧ ¬ ok) → exec (.rpoll d a g) s = .next (s.trapAt 0x09 v 0) ∧
        exec (.recv d a g) s = .next ((s.joinReaders g v.toNat).trapAt 0x09 v 0)) ∧
      (clean → ok → c ≠ r.tail → s.first g v.toNat → s.poisonedIn (.core s.cur.core (r.at c)) 16 = false →
        (let n := entryBytes (s.numAt (.core s.cur.core (r.at c)) 2)
         let at_ := Place.core s.cur.core (ringBase s.cur.core v.toNat + 24)
         ∃ t, exec (.recv d a g) s = .next t ∧ t.getG d = (if d = 0 then 0 else BitVec.ofNat 64 (r.at c)) ∧
           t.numAt at_ 8 = (c + BitVec.ofNat 64 n).toNat ∧ s.sameBytesBut t at_ 8 ∧
           (∀ q : Reg5, q ≠ d → t.getG q = s.getG q) ∧ (∀ j, (tget {} t.my.streams j).ahead = []) ∧ s.movesOn t 1)) ∧
      (clean → ok → c = r.tail → ∃ t, exec (.recv d a g) s = .next t ∧ s.sleeps t)))

/-- R219-R221: BAR and XPH of a control context at a level that its core has. One that the context has passed since its restart
point is owed no second arrival after a return to it, and passes by that credit, which is the model's choice (log 23). With
its arrival made, it passes once DONE has come to ARR, and sleeps before; else it arrives, once every access of its core is
performed, and then does the same. Passing acquires: what its generators had read ahead is dropped, and no register and no
byte changes. R219-R221: at level 0 the barrier completes at the core's own arrival: ARR and DONE rise together, and, where 0
is the core's level, BAR leaves STATUS.XPH 0 and XPH leaves it 1. R26, R220, R221: BAR and XPH on a helper, or BAR above the
core's level, are RESERVED_FIELD found at execution. R222: BARARV closes the region and adds one arrival to the cell that its
pointer names (in both cores of a pair), at once or, where the model performs it later, when it gets there. BARWT passes when
the count of its own core's cell has come, and sleeps before; of another core's it is ILLEGAL_ADDRESS. -/
def Obligations.Barriers : Prop :=
  (∀ (s : State) (i : Instr) (l : Nat) (ph : Bool), barRule s i = some (l, ph) → s.guardHolds i = true → s.cur.ctx = 0 → l ≤ s.me.lvl →
     (let passes (t : State) : Prop := s.my.sameG t.my ∧ s.my.sameP t.my ∧ s.my.sameV t.my ∧ s.my.sameA t.my ∧ s.sameBytes t ∧
        (∀ j, (tget {} t.my.streams j).ahead = []) ∧ s.movesOn t 1
      let settles (t : State) : Prop := passes t ∧ tget false t.me.owed l = false
      let sleeps (t : State) : Prop := t.my.run = .barrier l ∧ t.my.pc = s.my.pc ∧ s.my.sameRegs t.my ∧ s.sameBytes t
      let u := s.arrive l ph
      let w := s.barCheck l (domOf s.cur.core l)
      let owed := tget false s.me.owed l
      (tget 0 s.my.credit l ≠ 0 → ∃ t, exec i s = .next t ∧ passes t ∧ t.arrivals = s.arrivals ∧
        tget false t.me.owed l = owed ∧ tget 0 t.my.credit l = tget 0 s.my.credit l - 1) ∧
      (tget 0 s.my.credit l = 0 → owed = true →
        (tget 0 w.me.arr l ≤ tget 0 w.me.done l → ∃ t, exec i s = .next t ∧ settles t ∧ t.arrivals = w.arrivals) ∧
        (tget 0 w.me.done l < tget 0 w.me.arr l → ∃ t, exec i s = .next t ∧ sleeps t ∧ t.arrivals = w.arrivals)) ∧
      (tget 0 s.my.credit l = 0 → owed = false → s.coreDone = true →
        (tget 0 u.me.arr l ≤ tget 0 u.me.done l → ∃ t, exec i s = .next t ∧ settles t ∧ t.arrivals = u.arrivals) ∧
        (tget 0 u.me.done l < tget 0 u.me.arr l → ∃ t, exec i s = .next t ∧ sleeps t ∧ t.arrivals = u.arrivals)))) ∧
  (∀ (s : State) (i : Instr) (ph : Bool), barRule s i = some (0, ph) → s.guardHolds i = true → s.cur.ctx = 0 → s.cur.core < 64 →
     s.me.pair = false → s.coreDone = true → s.crossing s.cur.core = false → tget 0 s.my.credit 0 = 0 → tget false s.me.owed 0 = false →
     tget 0 s.me.arr 0 = tget 0 s.me.done 0 → tget 0 s.arrivals (barKey 0 s.cur.core) = 0 →
     ∃ t, exec i s = .next t ∧ tget 0 t.me.arr 0 = tget 0 s.me.arr 0 + 1 ∧ tget 0 t.me.done 0 = tget 0 s.me.done 0 + 1 ∧
       t.me.xph = (if s.me.lvl = 0 then ph else s.me.xph) ∧ s.sameBytes t ∧ s.movesOn t 1) ∧
  (∀ (s : State) (lvl : BitVec 2) (g : Reg3), s.guardOn g = true →
     ((s.cur.ctx ≠ 0 ∨ s.me.lvl < lvl.toNat) → exec (.bar lvl g) s = .next (s.trapAt 0x02 0 0x400)) ∧
     (s.cur.ctx ≠ 0 → exec (.xph g) s = .next (s.trapAt 0x02 0 0x400))) ∧
  (∀ (s : State) (a : Reg5) (g : Reg3), s.guardOn g = true → s.reflex = false → ptrOk s.rect (s.getG a) 16 = true →
     (let v := s.getG a
      let c := s.namedCore v
      let off := ptrOff v
      off % 16 = 0 →
      (∃ t, exec (.bararv a g) s = .next t ∧ t.my.sysr 0x030 = t.my.pc ∧ s.my.sameG t.my ∧ s.movesOn t 1 ∧
       (s.eager = true → s.performed = true →
         (∀ q ∈ s.pairCores c, t.numAt (.core q (off + 8)) 8 = (s.numAt (.core (s.pairHead c) (off + 8)) 8 + 1) % 2 ^ 64) ∧
         s.sameBytesOff t ((s.pairCores c).map fun n => .core n (off + 8)) 8 ∧ t.flight = s.flight) ∧
       ((s.eager && s.performed) = false → t.flight = s.flight ++ [.bararv s.cur.core s.cur.ctx c off] ∧ s.sameBytes t)) ∧
      (c ≠ s.cur.core → exec (.barwt a g) s = .next (s.trapAt 0x09 v ({ space := 2 } : AddrInfo).word)) ∧
      (c = s.cur.core → s.calm → s.poisonedIn (.core c off) 16 = false →
       (let w := BitVec.ofNat 64 (s.numAt (.core c (off + 8)) 8)
        (bits w 48 16 ≤ bits w 0 48 → ∃ t, exec (.barwt a g) s = .next t ∧ s.acquires t ∧ s.movesOn t 1) ∧
        (bits w 0 48 < bits w 48 16 → ∃ t, exec (.barwt a g) s = .next t ∧ s.sleeps t)))))

/-- R223: PUSH hands the block in G8-G15 to the engine that it names, closes the region and returns 0; where the queue is full it
returns 1 and changes nothing else. R231: QWR of an aligned address to Q1 enters it, closes the region and returns 0; where
Q1 is full it returns 1 and changes nothing else; another address is ALIGN, and Q4 to Q7 are RESERVED_FIELD. R224: TLRD
returns the counter, with STOP in bit 63; TLWT passes and acquires when the counter has come; before, it takes LOAD_FAULT
where the engine is stopped, and sleeps otherwise. R25, R231: QRD, with no earlier reader waiting at the port, takes the
oldest entry: of Q0 into gd and g(d+1), of Q2, at monitor level, into eight registers, of Q3 into gd with OVF in bit 63,
which it clears. It sleeps while the port is empty. Q2 below monitor level is PRIVILEGE, and Q4 to Q7 are RESERVED_FIELD. -/
def Obligations.QueuesAndTimelines : Prop :=
  (∀ (s : State) (d : Reg5) (e : Engine) (g : Reg3), s.guardOn g = true →
     (let block := s.my.pushBlock
      let cmd : Command := { bits := block, vf := s.me.vf, core := s.cur.core, refused := none }
      let k := clusterOf s.cur.core
      let ch := block.toNat / 2 ^ 8 % 8
      let accepted (t : State) : Prop := exec (.push d e g) s = .next t ∧ t.getG d = 0 ∧
        (∀ r : Reg5, r ≠ d → t.getG r = s.getG r) ∧ t.my.sysr 0x030 = t.my.pc ∧ s.sameBytes t ∧ s.movesOn t 1
      (s.enqueue e = none ↔ match e with
        | .dispenser => s.q1Full = true
        | .copy => 16 ≤ (s.chan k ch).queue.length
        | .walk => 16 ≤ s.me.twe.queue.length) ∧
      (s.enqueue e = none → ∃ t, exec (.push d e g) s = .next t ∧ s.onlyResult t d 1 ∧ s.movesOn t 1) ∧
      (s.enqueue e ≠ none → ∃ t, accepted t ∧ match e with
        | .dispenser => t.me.q1 = s.me.q1 ++ [.inline block s.me.vf]
        | .copy => (t.chan k ch).queue = (s.chan k ch).queue ++ [cmd]
        | .walk => t.me.twe.queue = s.me.twe.queue ++ [cmd]))) ∧
  (∀ (s : State) (d a : Reg5) (q : Reg3) (g : Reg3), s.guardOn g = true →
     ((s.getG a).toNat % 64 = 0 →
       (s.q1Full = false → ∃ t, exec (.qwr d a 1 g) s = .next t ∧ t.getG d = 0 ∧ (∀ r : Reg5, r ≠ d → t.getG r = s.getG r) ∧
         t.me.q1 = s.me.q1 ++ [.header (s.getG a) s.me.vf] ∧ t.my.sysr 0x030 = t.my.pc ∧ s.sameBytes t ∧ s.movesOn t 1) ∧
       (s.q1Full = true → ∃ t, exec (.qwr d a 1 g) s = .next t ∧ s.onlyResult t d 1 ∧ s.movesOn t 1)) ∧
     ((s.getG a).toNat % 64 ≠ 0 → exec (.qwr d a 1 g) s = .next (s.trapAt 0x08 (s.getG a) 0)) ∧
     (4 ≤ q.toNat → exec (.qwr d a q g) s = .next (s.trapAt 0x02 0 0x400))) ∧
  (∀ (s : State) (d a t : Reg5) (g : Reg3) (v : Word) (k : Nat) (st : EngineStop), s.guardOn g = true → s.timeline t.toNat = (k, st) →
     (let waits (i : Instr) (w : Word) (len : Nat) : Prop :=
        (w.toNat ≤ k → ∃ u, exec i s = .next u ∧ s.acquires u ∧ s.movesOn u len) ∧
        (k < w.toNat → match st with
          | .stopped ea => exec i s =
              .next (s.trapAt 0x06 ea ({ eng := true, engid := BitVec.ofNat 16 (s.engineId t.toNat) } : AddrInfo).word)
          | _ => ∃ u, exec i s = .next u ∧ s.sleeps u)
      (∃ u, exec (.tlrd d t g) s = .next u ∧ s.onlyResult u d (match st with
        | .stopped _ => BitVec.ofNat 64 k ||| 0x8000000000000000
        | _ => BitVec.ofNat 64 k &&& 0x7FFFFFFFFFFFFFFF) ∧ s.movesOn u 1) ∧
      waits (.tlwt a t g) (s.getG a) 1 ∧ waits (.tlwtLit v t g) v 3)) ∧
  (∀ (s : State) (d : Reg5) (q : Reg3) (g : Reg3), s.guardOn g = true →
     (let word (t : State) (k : Nat) (v : Word) : Prop := t.my.getG (d.toNat + k) = if d.toNat + k = 0 then 0 else v
      (4 ≤ q.toNat → exec (.qrd d q g) s = .next ((s.joinReaders g (16 + q.toNat)).trapAt 0x02 0 0x400)) ∧
      (s.my.mon = false → exec (.qrd d 2 g) s = .next ((s.joinReaders g 18).trapAt 0x04 0 0x2000)) ∧
      (d.toNat ≤ 30 → s.first g 16 → ∀ a b rest, s.me.q0 = (a, b) :: rest →
       ∃ t, exec (.qrd d 0 g) s = .next t ∧ word t 0 a ∧ word t 1 b ∧ (∀ r, r ≠ d.toNat → r ≠ d.toNat + 1 → t.my.getG r = s.my.getG r) ∧
         t.me.q0 = rest ∧ s.sameBytes t ∧ s.movesOn t 1) ∧
      (d.toNat ≤ 24 → s.first g 18 → ∀ v rest, s.me.q2 = v :: rest → s.my.mon = true →
       ∃ t, exec (.qrd d 2 g) s = .next t ∧ (∀ k < 8, word t k (v.extractLsb' (64 * k) 64)) ∧
         (∀ r, (∀ k < 8, r ≠ d.toNat + k) → t.my.getG r = s.my.getG r) ∧ t.me.q2 = rest ∧ s.sameBytes t ∧ s.movesOn t 1) ∧
      (s.first g 19 → ∀ v rest, s.me.q3 = v :: rest →
       ∃ t, exec (.qrd d 3 g) s = .next t ∧ word t 0 (setBit v 63 s.me.q3Ovf) ∧ (∀ r, r ≠ d.toNat → t.my.getG r = s.my.getG r) ∧
         t.me.q3 = rest ∧ t.me.q3Ovf = false ∧ s.sameBytes t ∧ s.movesOn t 1) ∧
      ((q = 0 ∧ s.me.q0 = []) ∨ (q = 2 ∧ s.me.q2 = [] ∧ s.my.mon = true) ∨ (q = 3 ∧ s.me.q3 = []) →
       ∃ t, exec (.qrd d q g) s = .next t ∧ s.sleeps t)))

/-- R232, R233: START on context 0 with a legal target and a free helper gives the lowest one the address, gb in G1 and the
starter's level, and returns its number; the helper begins when the accesses before the START are performed (that it waits in
the state of a bank between releases is log 63). With none free START returns 0; a target is checked as R83 says. JOINH
passes and acquires when the helper named, or every helper for 0, is not live, and sleeps before. On a helper both are
RESERVED_FIELD. R234, R318: EXIT with nothing left to wait for clears a helper and frees it; on a control context without
helpers it begins the clear sequence and its share loses the task; on a bank it ends the release, and a pending trigger, or
entries left in the ring that triggers the bank, begin the next one at once, at the trigger's time or at the time of the
EXIT. Where it has something to wait for, or a helper still lives, it waits. -/
def Obligations.HelpersAndExit : Prop :=
  (∀ (s : State) (d a b : Reg5) (g : Reg3), s.guardOn g = true →
     (let free := ((List.range 11).drop 1).find? fun k => (s.me.ctx k).run == .free
      let n := (s.getG b).toNat
      let live := if n = 0 then (List.range 11).any s.me.helperLive else s.me.helperLive n
      (s.cur.ctx ≠ 0 → exec (.start d a b g) s = .next (s.trapAt 0x02 0 0x400) ∧ exec (.joinh b g) s = .next (s.trapAt 0x02 0 0x400)) ∧
      (s.cur.ctx = 0 → legalTarget (s.getG a) = false → exec (.start d a b g) s =
        .next (s.trapAt (if 2 ^ 56 ≤ (s.getG a).toNat then 0x09 else 0x08) (s.getG a) 0)) ∧
      (s.cur.ctx = 0 → legalTarget (s.getG a) = true → ∀ h, free = some h →
       ∃ t, exec (.start d a b g) s = .next t ∧ t.getG d = (if d = 0 then 0 else BitVec.ofNat 64 h) ∧
         (t.me.ctx h).run = (if s.performed then .running else .released) ∧
         t.flight = s.flight ++ (if s.performed then [] else [.start s.cur.core s.cur.ctx h]) ∧
         (t.me.ctx h).pc = s.getG a ∧ (t.me.ctx h).sysr 0x030 = s.getG a ∧ (t.me.ctx h).getG 1 = s.getG b ∧
         (t.me.ctx h).mon = s.my.mon ∧ (∀ r, r ≠ 1 → (t.me.ctx h).getG r = 0) ∧ t.my.sysr 0x030 = t.my.pc ∧
         (∀ k, k ≠ 0 → k ≠ h → t.me.ctx k = s.me.ctx k) ∧ s.sameBytes t ∧ s.movesOn t 1) ∧
      (s.cur.ctx = 0 → legalTarget (s.getG a) = true → free = none →
       ∃ t, exec (.start d a b g) s = .next t ∧ s.onlyResult t d 0 ∧ s.movesOn t 1) ∧
      (s.cur.ctx = 0 → live = false → ∃ t, exec (.joinh b g) s = .next t ∧ s.acquires t ∧ s.movesOn t 1) ∧
      (s.cur.ctx = 0 → live = true → ∃ t, exec (.joinh b g) s = .next t ∧ s.sleeps t))) ∧
  (∀ (s : State) (g : Reg3), s.guardOn g = true →
     (s.exitWaits = true → ∃ t, exec (.exit g) s = .next t ∧ s.sleeps t) ∧
     (s.exitWaits = false →
       (s.reflex = false → s.cur.ctx ≠ 0 →
         ∃ t, exec (.exit g) s = .next t ∧ t.my.run = .free ∧ (∀ r, t.getG r = 0) ∧ s.sameBytes t ∧
           (s.me.spe = [] → (tget [] s.programs s.me.vf : List YProgram) = [] → s.onlyMy t)) ∧
       (s.reflex = false → s.cur.ctx = 0 → (List.range 11).any s.me.helperLive = true →
         ∃ t, exec (.exit g) s = .next t ∧ s.sleeps t) ∧
       (s.reflex = false → s.cur.ctx = 0 → (List.range 11).any s.me.helperLive = false →
         ∃ t, exec (.exit g) s = .next t ∧ t.my.run = .free ∧ t.me.clearing = true ∧ t.me.taskOn = false ∧
           t.me.share = if s.me.taskOn then s.me.share.drop 1 else s.me.share) ∧
       (let v := s.me.relcfg s.cur.ctx
        let r := s.ring s.cur.core (bits v 57 4)
        s.reflex = true → s.my.pend = false →
         (v.getLsbD 63 = false ∨ bits v 61 2 ≠ 1 ∨ r.read = r.tail →
           ∃ t, exec (.exit g) s = .next t ∧ t.my.run = .released ∧ t.my.isReleased = false ∧ s.sameBytes t) ∧
         (v.getLsbD 63 = true → bits v 61 2 = 1 → r.read ≠ r.tail →
           ∃ t, exec (.exit g) s = .next t ∧ t.my.run = .running ∧ t.my.isReleased = true ∧ t.my.fired = false ∧
             t.numAt (.core s.cur.core (bankRecord s.cur.ctx + 16)) 8 = s.replica s.cur.core % 2 ^ 64 ∧
             t.numAt (.core s.cur.core (bankRecord s.cur.ctx + 24)) 4 =
               (s.numAt (.core s.cur.core (bankRecord s.cur.ctx + 24)) 4 + 1) % 2 ^ 32)) ∧
       (s.reflex = true → s.my.pend = true →
         ∃ t, exec (.exit g) s = .next t ∧ t.my.run = .running ∧ t.my.isReleased = true ∧ t.my.pend = false ∧
           t.numAt (.core s.cur.core (bankRecord s.cur.ctx + 16)) 8 = s.my.tpend.toNat)))

/-- R34, R117, R235: REGION records its own address as the restart point with the registers as they stand, sets STATUS.REG, and
goes on; a CKPT on a lap that is no multiple of PERIOD, or with PERIOD 0, only goes on. R236: a CKPT on a lap that is a
multiple of PERIOD, with a legal header whose state fits, saves each named register at its place in the area, the address
after it at byte 16 and the lap at byte 24, puts the lap into CKPTLAP, and records a restart point marked "checkpoint" at the
address after it. -/
def Obligations.RestartPoints : Prop :=
  (∀ (s : State) (a : Reg5) (g : Reg3), s.guardOn g = true →
     (∃ t, exec (.region g) s = .next t ∧ t.my.sysr 0x030 = s.my.pc ∧ (t.my.sysr 0x100).getLsbD 5 = true ∧
       t.my.restart.g = s.my.g ∧ t.my.restart.p = s.my.p ∧ t.my.restart.v = s.my.v ∧ t.my.restart.a = s.my.a ∧
       t.my.restart.ckpt = false ∧ t.my.restart.replay = s.my.replay ∧
       s.my.sameG t.my ∧ s.my.sameP t.my ∧ s.my.sameV t.my ∧ s.my.sameA t.my ∧ s.onlyMy t ∧ s.sameBytes t ∧ s.movesOn t 1) ∧
     ((bits (s.me.sysr 0x032) 0 16 = 0 ∨ (s.getG a).toNat % bits (s.me.sysr 0x032) 0 16 ≠ 0) →
       ∃ t, exec (.ckpt a g) s = .next t ∧ s.onlyPasses t ∧ s.movesOn t 1)) ∧
  (∀ (s : State) (a : Reg5) (g : Reg3), s.guardOn g = true →
     (let base := s.me.ckptBase
      let period := bits (s.me.sysr 0x032) 0 16
      let w (k : Nat) : Word := BitVec.ofNat 64 (s.numAt (.core s.cur.core (base + 8 * k)) 8)
      let es := placeLayout (base + 64) (ckptEntries (w 0) (w 1))
      period ≠ 0 → (s.getG a).toNat % period = 0 → base + 64 ≤ memSize s.cur.core → s.calm →
      s.poisonedIn (.core s.cur.core base) 16 = false → bits (w 0) 32 8 = 0 → bits (w 1) 32 32 = 0 →
      s.numAt (.core s.cur.core (base + 32)) 32 = 0 → (∀ e ∈ es, e.2.2.2 + e.2.2.1 ≤ memSize s.cur.core) → s.me.tileBad = [] →
      ∃ t, exec (.ckpt a g) s = .next t ∧
       (∀ e ∈ es, t.bytesAt (.core s.cur.core e.2.2.2) e.2.2.1 = s.ckptBytes e.1 e.2.1) ∧
       t.numAt (.core s.cur.core (base + 16)) 8 = (s.my.pc + 4).toNat ∧
       t.numAt (.core s.cur.core (base + 24)) 8 = (s.getG a).toNat ∧ bits (t.me.sysr 0x032) 32 32 = (s.getG a).toNat % 2 ^ 32 ∧
       t.my.restart.ckpt = true ∧ t.my.sysr 0x030 = s.my.pc + 4 ∧ s.my.sameG t.my ∧ s.my.sameV t.my ∧ s.movesOn t 1))

/-- R237, R238, R323: an MPUB that the grants allow, of bytes without poison that nothing in flight touches, closes the region.
Performed at issue, it puts its bytes into the slot as version VERS + 1 and returns it in gd; else it sets out. R239, R240,
R324: an MREAD whose buffer nothing of the context in flight touches: performed at issue, one of a slot without errors writes
the record of its version into core memory and returns the version in gd; else it sets out. MWAIT returns a version above gb
at once, and sleeps otherwise. R237: a Mirror instruction whose slot number is above 4095 is ILLEGAL_ADDRESS. An MPUB or an
MREAD whose buffer (of L bytes, and of 32 more for MREAD) leaves core memory is ILLEGAL_ADDRESS, and one whose buffer is not
at a multiple of 16 is ALIGN, with the buffer's address; one, or an MWAIT, that passes these checks and that the grant in
effect does not allow is PROTECTION with PKIND 5 and the slot number. R322-R324, R330: the Mirror's events: a publication
whose release is done enters the slot's free buffer; its flip raises the version and gives it to the publisher; a read that
is granted a channel takes the version's bytes, and then writes its record and returns the version; a grant word is written,
and all of them take effect when no request checked before is left. -/
def Obligations.Mirror : Prop :=
  (∀ (s : State) (d a b : Reg5) (len : BitVec 11) (g : Reg3), s.guardOn g = true →
     (let n := (s.getG a).toNat
      let va := (s.getG b).toNat
      let x := s.slot n
      let at_ := Place.core s.cur.core va
      n ≤ 4095 → va % 16 = 0 → va + len.toNat ≤ memSize s.cur.core → x.grants true s.me.vf = true → s.calm →
      s.poisonedIn at_ len.toNat = false →
      ∃ t, exec (.mpub d a b len g) s = .next t ∧ t.my.sysr 0x030 = t.my.pc ∧ s.movesOn t 3 ∧ (∀ r : Reg5, r ≠ d → t.getG r = s.getG r) ∧
       (let now := s.eager && s.performed && !s.pubs.any (·.publishes n)
        (now = true → x.cur < 3 → x.prev < 3 → x.cur ≠ x.prev →
         t.getG d = (if d = 0 then 0 else x.vers + 1) ∧ (t.slot n).vers = x.vers + 1 ∧ (t.slot n).plen = len.toNat ∧
         (t.slot n).tflip = BitVec.ofNat 64 s.now ∧ (t.slot n).prev = x.cur ∧
         (∀ k < len.toNat, (t.slot n).byte (t.slot n).cur k = s.byteAt (.core s.cur.core (va + k)))) ∧
        (now = false → t.flight = s.flight ++ [.mpub s.cur.core s.cur.ctx d.toNat n (s.bytesAt at_ len.toNat)] ∧ s.sameBytes t)))) ∧
  (∀ (s : State) (d a b : Reg5) (len : BitVec 11) (g : Reg3), s.guardOn g = true →
     (let n := (s.getG a).toNat
      let va := (s.getG b).toNat
      let x := s.slot n
      let size := 32 + min len.toNat x.plen
      n ≤ 4095 → x.grants false s.me.vf = true →
      (va % 16 = 0 → va + 32 + len.toNat ≤ memSize s.cur.core → s.calm →
       ∃ t, exec (.mread d a b len g) s = .next t ∧ s.movesOn t 3 ∧ (∀ r : Reg5, r ≠ d → t.getG r = s.getG r) ∧
        (let now := s.eager && !s.pubs.any (·.publishes n) && !s.flight.any (·.publishedBy s.cur.core s.cur.ctx)
         (now = true → x.bad = [] →
           t.getG d = (if d = 0 then 0 else x.vers) ∧ t.flight = s.flight ∧
           (∀ q ∈ s.pairCores s.cur.core, t.bytesAt (.core q va) size = x.record x.cur x.vers x.tflip x.plen len.toNat s.now) ∧
           s.sameBytesOff t ((s.pairCores s.cur.core).map fun q => .core q va) size) ∧
         (now = false → t.flight = s.flight ++ [.mread s.cur.core s.cur.ctx d.toNat n va len.toNat] ∧ s.my.sameG t.my ∧ s.sameBytes t))) ∧
      (va < x.vers.toNat → ∃ t, exec (.mwait d a b g) s = .next t ∧ s.onlyResult t d x.vers ∧ s.movesOn t 1) ∧
      (x.vers.toNat ≤ va → ∃ t, exec (.mwait d a b g) s = .next t ∧ s.sleeps t))) ∧
  (∀ (s : State) (d a b : Reg5) (len : BitVec 11) (g : Reg3), s.guardOn g = true →
     (let v := s.getG a
      let va := (s.getG b).toNat
      let x := s.slot v.toNat
      let denied : Word := ({ pkind := 5 } : AddrInfo).word
      let inRange (n : Nat) : Prop := va + n ≤ memSize s.cur.core
      (4095 < v.toNat →
        exec (.mwait d a b g) s = .next (s.trapAt 0x09 v 0) ∧ exec (.mread d a b len g) s = .next (s.trapAt 0x09 v 0) ∧
        exec (.mpub d a b len g) s = .next (s.trapAt 0x09 v 0)) ∧
      (v.toNat ≤ 4095 →
        (x.grants false s.me.vf = false → exec (.mwait d a b g) s = .next (s.trapAt 0x07 v denied)) ∧
        (∀ (i : Instr) (n : Nat) (w : Bool), (i = .mread d a b len g ∧ n = 32 + len.toNat ∧ w = true) ∨
            (i = .mpub d a b len g ∧ n = len.toNat ∧ w = false) →
         (let info : Word := ({ space := 1, write := w } : AddrInfo).word
          (¬ inRange n → exec i s = .next (s.trapAt 0x09 (s.getG b) info)) ∧
          (inRange n → va % 16 ≠ 0 → exec i s = .next (s.trapAt 0x08 (s.getG b) info)) ∧
          (inRange n → va % 16 = 0 → x.grants (!w) s.me.vf = false → exec i s = .next (s.trapAt 0x07 v denied))))))) ∧
  ((∀ (s : State) (n c k d slot : Nat) (p : List Byte), s.flight[n]? = some (.mpub c k d slot p) → s.releaseDone n c k = true →
     s.pubs.any (·.publishes slot) = false → (s.flight.take n).any (·.publishedBy c k) = false →
     ∃ t, exec (.mirrorPublication n) s = .next t ∧ t.pubs = s.pubs ++ [.mpub c k d slot p] ∧ t.flight = s.flight.eraseIdx n ∧
       (t.slot slot).vers = (s.slot slot).vers ∧ (t.slot slot).cur = (s.slot slot).cur ∧
       ∀ j < p.length, (t.slot slot).byte (s.slot slot).freeBuf j = p.getD j 0) ∧
   (∀ (s : State) (c k d n slot : Nat) (p : List Byte), s.pubs.find? (·.publishes slot) = some (.mpub c k d n p) →
     ∃ t, exec (.mirrorFlip slot) s = .next t ∧ (t.slot slot).vers = (s.slot slot).vers + 1 ∧
       (t.slot slot).plen = p.length ∧ (t.slot slot).prev = (s.slot slot).cur ∧ (t.slot slot).cur = (s.slot slot).freeBuf ∧
       (t.slot slot).tflip = BitVec.ofNat 64 s.now ∧ t.pubs = s.pubs.erase (.mpub c k d n p) ∧
       (t.ctxAt c k).getG d = (if d = 0 then 0 else (s.slot slot).vers + 1)) ∧
   (∀ (s : State) (n c k d slot buf len : Nat), s.flight[n]? = some (.mread c k d slot buf len) → s.readWaits n = some c →
     (Config.isReflex c = true → s.readChannels < 8 ∧
       ∀ j o, s.readWaits j = some o → Config.isReflex o = true → s.readTurn c ≤ s.readTurn o) → (s.slot slot).bad = [] →
     (let x := s.slot slot
      ∃ t, exec (.mirrorReadArrival n) s = .next t ∧
       t.flight[n]? = some (.mreadDone c k d buf (x.record x.cur x.vers x.tflip x.plen len s.now) x.vers) ∧ s.sameBytes t)) ∧
   (∀ (s : State) (n c k d buf : Nat) (bs : List Byte) (v : Word), s.flight[n]? = some (.mreadDone c k d buf bs v) →
     ∃ t, exec (.mirrorReadDone n) s = .next t ∧ (∀ q ∈ s.pairCores c, t.bytesAt (.core q buf) bs.length = bs) ∧
       (t.ctxAt c k).getG d = (if d = 0 then 0 else v) ∧ s.sameBytesOff t ((s.pairCores c).map fun q => .core q buf) bs.length ∧
       t.flight = s.flight.eraseIdx n) ∧
   (∀ (s : State) (n w : Nat) (v : Word), n ≤ 4095 → w < 4 →
     (grantReserved w v = false →
       ∃ t, exec (.mirrorGrantWrite n w v) s = .next t ∧ tget 0 (t.slot n).grant w = v ∧
         (∀ j, j ≠ w → tget 0 (t.slot n).grant j = tget 0 (s.slot n).grant j) ∧ (t.slot n).inEffect = (s.slot n).inEffect ∧
         s.sameBytes t) ∧
     (grantReserved w v = true → exec (.mirrorGrantWrite n w v) s = .next s)) ∧
   (∀ (s : State) (n : Nat),
     (s.slotBusy n = false → ∃ t, exec (.mirrorGrantInEffect n) s = .next t ∧ (t.slot n).inEffect = (s.slot n).grant ∧
       (t.slot n).grant = (s.slot n).grant ∧ s.sameBytes t) ∧
     (s.slotBusy n = true → exec (.mirrorGrantInEffect n) s = .next s)))

/-- R241: TIME returns the core's replica, or the latest time that the context has read where that is later; SLEEP passes once
its deadline has come and sleeps before; WFE clears a set event and passes, and sleeps with none. -/
def Obligations.TimeAndEvents : Prop :=
  ∀ (s : State) (d b : Reg5) (v : Word) (g : Reg3), s.guardOn g = true →
    (let waits (i : Instr) (w : Word) (len : Nat) : Prop :=
       (w.toNat ≤ s.replica s.cur.core → ∃ t, exec i s = .next t ∧ s.onlyPasses t ∧ s.movesOn t len) ∧
       (s.replica s.cur.core < w.toNat → ∃ t, exec i s = .next t ∧ s.sleeps t)
     (∃ t, exec (.time d g) s = .next t ∧ s.onlyResult t d (BitVec.ofNat 64 (max (s.replica s.cur.core) s.my.timeSeen)) ∧
       t.my.timeSeen = max (s.replica s.cur.core) s.my.timeSeen ∧ s.movesOn t 1) ∧
     waits (.sleep b g) (s.getG b) 1 ∧ waits (.sleepLit v g) v 3 ∧
     (s.my.event = true → ∃ t, exec (.wfe g) s = .next t ∧ t.my.event = false ∧ s.onlyPasses t ∧ s.movesOn t 1) ∧
     (s.my.event = false → ∃ t, exec (.wfe g) s = .next t ∧ t.my.run = .wfe ∧ t.my.pc = s.my.pc ∧ s.onlyPasses t))

/-- R26-R28, R34, R244: MFS of a register that the level may read, with no flag still owed, returns it in gd. MTS of a value
without reserved bits to one that the level may write gives the register the value (REGIONPC: a restart address without a
recorded replay; CKPTLAP: its low half only; STATUS: MON and PMON only), and no other; a register that this kind of core
ignores stays; a reserved bit is RESERVED_FIELD. R26: at program level every register numbered 0x100 or above is PRIVILEGE
for MFS and MTS, with the number in EINFO. R26, R27: at monitor level, MFS and MTS of a number that is not assigned are
ILLEGAL_OPCODE, and MTS of a register that is read-only is PRIVILEGE with the number. At program level, below 0x100, the same
holds, and MTS of a register that only the monitor writes is PRIVILEGE. -/
def Obligations.SystemRegisters : Prop :=
  (∀ (s : State) (d a : Reg5) (n : BitVec 12),
     (sysCheck s.my.mon false n.toNat = .ok () → s.flagsWait n.toNat = false →
       ∃ t, exec (.mfs d n) s = .next t ∧ s.onlyResult t d (s.readSys n.toNat) ∧ s.movesOn t 1) ∧
     (sysCheck s.my.mon true n.toNat = .ok () → s.flagsWait n.toNat = false → (n.toNat < 0x190 ∨ s.reflex = false) →
       (sysIgnored s.reflex n.toNat = true → ∃ t, exec (.mts a n) s = .next t ∧ s.onlyPasses t ∧ s.movesOn t 1) ∧
       (sysIgnored s.reflex n.toNat = false → sysReserved n.toNat (s.getG a) = true →
         exec (.mts a n) s = .next (s.trapAt 0x02 0 0x400)) ∧
       (sysIgnored s.reflex n.toNat = false → sysReserved n.toNat (s.getG a) = false → n.toNat < 0x190 →
         ∃ t, exec (.mts a n) s = .next t ∧
           t.sysr n.toNat = (if n = 0x032 then (s.sysr 0x032).extractLsb' 32 32 ++ (s.getG a).extractLsb' 0 32
             else if n = 0x100 then setBit (setBit (s.sysr 0x100) 0 ((s.getG a).getLsbD 0)) 1 ((s.getG a).getLsbD 1) else s.getG a) ∧
           (∀ k, k ≠ n.toNat → t.sysr k = s.sysr k) ∧ (n = 0x030 → t.my.restart.replay = none ∧ t.my.restart.ckpt = false) ∧
           s.my.sameG t.my ∧ s.my.sameP t.my ∧ s.my.sameV t.my ∧ s.my.sameA t.my ∧ s.sameBytes t ∧ (n ≠ 0x100 → s.movesOn t 1)))) ∧
  (∀ (s : State) (d a : Reg5) (n : BitVec 12), s.my.mon = false → 0x100 ≤ n.toNat →
     exec (.mfs d n) s = .next (s.trapAt 0x04 0 (BitVec.ofNat 64 n.toNat)) ∧
     exec (.mts a n) s = .next (s.trapAt 0x04 0 (BitVec.ofNat 64 n.toNat))) ∧
  (∀ (s : State) (d a : Reg5) (n : BitVec 12), (s.my.mon = true ∨ n.toNat < 0x100) →
     (let k := n.toNat
      let readOnly := k = 0x000 ∨ k = 0x004 ∨ k = 0x019 ∨ (0x040 ≤ k ∧ k ≤ 0x047)
      let monitorWrites := (0x001 ≤ k ∧ k ≤ 0x003) ∨ (0x005 ≤ k ∧ k ≤ 0x007) ∨ k = 0x030
      let assigned := k ≤ 0x007 ∨ k = 0x010 ∨ k = 0x011 ∨ k = 0x018 ∨ k = 0x019 ∨ (0x020 ≤ k ∧ k ≤ 0x027) ∨ (0x030 ≤ k ∧ k ≤ 0x032) ∨
        (0x040 ≤ k ∧ k ≤ 0x047) ∨ (0x100 ≤ k ∧ k ≤ 0x105) ∨ (0x110 ≤ k ∧ k ≤ 0x112) ∨ (0x120 ≤ k ∧ k ≤ 0x12F ∧ k % 4 ≠ 3) ∨
        (0x140 ≤ k ∧ k ≤ 0x147) ∨ (0x180 ≤ k ∧ k ≤ 0x193)
      (¬ assigned → exec (.mfs d n) s = .next (s.trapAt 0x01 0 (decodeInfo 0 true false 0)) ∧
        exec (.mts a n) s = .next (s.trapAt 0x01 0 (decodeInfo 0 true false 0))) ∧
      (readOnly → exec (.mts a n) s = .next (s.trapAt 0x04 0 (BitVec.ofNat 64 k))) ∧
      (monitorWrites → s.my.mon = false → exec (.mts a n) s = .next (s.trapAt 0x04 0 (BitVec.ofNat 64 k)))))

/-- R242: TRAP with code 0xFFF takes BREAKPOINT, and with any other code SWTRAP; EPC holds the TRAP, and EINFO the code; its word
is SYS with CL 0b10. -/
def Obligations.SoftwareTraps : Prop :=
  ∀ (s : State) (c : BitVec 12),
    (∃ t, exec (.trap c) s = .next t ∧ t.my.sysr 0x101 = (if c = 0xFFF then 0x14 else 0x15) ∧ t.my.sysr 0x102 = s.my.pc ∧
      t.my.sysr 0x103 = 0 ∧ t.my.sysr 0x104 = c.setWidth 64 ∧ t.my.mon = true ∧ s.my.sameG t.my ∧ s.my.sameP t.my ∧
      s.my.sameV t.my ∧ s.my.sameA t.my) ∧
    (∀ (reflex : Bool) (ws : List Half), decode reflex ((0x3D002#20 ++ c) :: ws) = .ok (.trap c))

/-- R337: taking a trap leaves CAUSE, EPC, EADDR, EINFO and EWORD as the trap gives them, PMON the old MON, MON 1, and every
general register and byte of core memory as it was. R338: a trap goes to the doubleword that the dispatch reads, EMUBASE + 8
* CODE with emulation vectors off, where that is a legal target other than 0. The context stops where the doubleword cannot
be read or is no such target; where the read holds on an absent page, the context waits and the trap is delivered later. -/
def Obligations.TrapEntry : Prop :=
  (∀ (s : State) (t : Trap) (n off : Nat),
     (s.takeTrap t).my.sysr 0x101 = BitVec.ofNat 64 ((if t.async then 256 else 0) + t.code.toNat) ∧
     (s.takeTrap t).my.sysr 0x102 = t.epc ∧ (s.takeTrap t).my.sysr 0x103 = t.eaddr ∧ (s.takeTrap t).my.sysr 0x104 = t.einfo ∧
     (s.takeTrap t).my.sysr 0x105 = t.eword ∧ (s.takeTrap t).my.mon = true ∧
     ((s.takeTrap t).my.sysr 0x100).getLsbD 1 = s.my.mon ∧ s.my.sameG (s.takeTrap t).my ∧ s.my.sameP (s.takeTrap t).my ∧
     s.my.sameV (s.takeTrap t).my ∧ s.my.sameA (s.takeTrap t).my ∧
     (s.takeTrap t).byteAt (.core n off) = s.byteAt (.core n off)) ∧
  ((∀ (s : State) (t : Trap), ∃ u : State, s.takeTrap t = u.deliverTrap t ∧ u.my.mon = true ∧ u.emubase = s.emubase ∧
     u.me.sysr 0x112 = s.me.sysr 0x112) ∧
   (∀ (s u : State) (t : Trap) (a : Nat) (r : DispatchRead) (e : Bool), s.dispatch (s.vectors t) = (a, r, e, u) →
     match r with
       | .value w => if w ≠ 0 ∧ legalTarget w = true then (s.deliverTrap t).my.pc = w ∧ (s.deliverTrap t).my.run = .running
           else (s.deliverTrap t).my.run = .stopped
       | .fails => (s.deliverTrap t).my.run = .stopped
       | .holds _ => (s.deliverTrap t).my.run = .holding ∧ (s.deliverTrap t).my.dispatching = some t) ∧
   (∀ (s : State) (t : Trap), (s.me.sysr 0x112).getLsbD 1 = true → s.vectors t = [s.emubase + 8 * t.code.toNat]) ∧
   (∀ (s : State) (t : Trap), (s.me.sysr 0x112).getLsbD 1 = false → (t.code = 0x01 ∨ t.code = 0x02) →
     s.vectors t = [s.emubase + 256 + 8 * bits t.eword 24 6, s.emubase + 8 * t.code.toNat]))

/-- R116, R243: ERET at monitor level with a legal EPC sets MON := PMON and goes to EPC, or, at task level inside a replay, to
where the replay goes on; a bank between releases sleeps there. It changes no other register. An illegal EPC traps by R83;
below monitor level it is PRIVILEGE. -/
def Obligations.ReturnFromTrap : Prop :=
  ∀ s : State,
    (let epc := s.my.sysr 0x102
     let pmon := (s.my.sysr 0x100).getLsbD 1
     (s.my.mon = true → legalTarget epc = true →
      ∃ t, exec .eret s = .next t ∧ t.my.mon = pmon ∧ s.my.sameG t.my ∧ s.my.sameP t.my ∧ s.my.sameV t.my ∧ s.my.sameA t.my ∧
        (∀ n, n ≠ 0x100 → t.my.sysr n = s.my.sysr n) ∧ t.my.asyncHeld = false ∧
        t.my.run = (if s.reflex && !s.my.isReleased then .released else .running) ∧ s.onlyMy t ∧ s.sameBytes t ∧
        ((s.my.replayT = none ∨ pmon = true) → t.my.pc = epc) ∧
        (∀ r, s.my.replayT = some r → pmon = false → t.my.pc = (r.resume epc).2 ∧ t.my.replayT = (r.resume epc).1)) ∧
     (s.my.mon = true → legalTarget epc = false →
       exec .eret s = .next (s.trapAt (if 2 ^ 56 ≤ epc.toNat then 0x09 else 0x08) epc 0)) ∧
     (s.my.mon = false → exec .eret s = .next (s.trapAt 0x04 0 0x1000)))

/-- R245-R247: TLBFL drops the core's own entries of its function and keeps the other functions', and under function 4 it drops
every one; on a reflex core it only goes on. TLBREN, where both its core's replica and a walker's are within bound, renews
what its pages need and goes on with the renewed TLBs, and traps on a range that is too long; else it holds. CAPLD at monitor
level loads three words of core memory into capability register c, and below it is PRIVILEGE; CAPCLR zeroes them. -/
def Obligations.TranslationAndCapabilities : Prop :=
  (∀ s : State, ∃ t, exec .tlbfl s = .next t ∧ s.my.sameRegs t.my ∧ s.sameBytes t ∧ s.movesOn t 1 ∧
    (if s.reflex then s.onlyMy t
     else s.onlyMe t ∧
       (∀ e, e ∈ t.me.itlb ↔ e ∈ s.me.itlb ∧ s.me.vf ≠ 4 ∧ e.vf ≠ s.me.vf) ∧
       (∀ e, e ∈ t.me.dtlb ↔ e ∈ s.me.dtlb ∧ s.me.vf ≠ 4 ∧ e.vf ≠ s.me.vf))) ∧
  (∀ (s u : State) (d a : Reg5),
    ((s.getG d).toNat ≤ 2 ^ 26 → (s.getG a).toNat + (s.getG d).toNat ≤ 2 ^ 56 → s.noFill = false →
      s.renew (pagesOf (s.getG a).toNat (s.getG d).toNat) = .ok u →
      ∃ t, exec (.tlbren d a) s = .next t ∧ u.my.sameRegs t.my ∧ u.sameBytes t ∧ u.movesOn t 1 ∧
        t.clusters = u.clusters ∧ t.me.itlb = u.me.itlb ∧ t.me.dtlb = u.me.dtlb) ∧
    ((s.getG d).toNat ≤ 2 ^ 26 → (s.getG a).toNat + (s.getG d).toNat ≤ 2 ^ 56 → s.noFill = true →
      ∃ t, exec (.tlbren d a) s = .next t ∧ t.my.run = .holding ∧ t.my.pc = s.my.pc ∧ s.my.sameRegs t.my ∧ t.clusters = s.clusters ∧
        s.sameBytes t) ∧
    ((2 ^ 26 < (s.getG d).toNat ∨ 2 ^ 56 < (s.getG a).toNat + (s.getG d).toNat) →
      exec (.tlbren d a) s = .next (s.trapAt 0x09 (s.getG a) 0))) ∧
  (∀ (s : State) (a : Reg5) (c : BitVec 2),
    (s.my.mon = true → (s.getG a).toNat + 24 ≤ memSize s.cur.core → (s.getG a).toNat % 8 = 0 → s.calm →
      s.poisonedIn (.core s.cur.core (s.getG a).toNat) 24 = false →
      capReserved (BitVec.ofNat 64 (s.numAt (.core s.cur.core (s.getG a).toNat) 8)) = false →
      ∃ t, exec (.capld a c) s = .next t ∧
        (∀ k < 3, (t.my.sysr (0x120 + 4 * c.toNat + k)).toNat = s.numAt (.core s.cur.core ((s.getG a).toNat + 8 * k)) 8) ∧
        (∀ n, (∀ k < 3, n ≠ 0x120 + 4 * c.toNat + k) → t.my.sysr n = s.my.sysr n) ∧
        s.my.sameG t.my ∧ s.onlyMy t ∧ s.sameBytes t ∧ s.movesOn t 1) ∧
    (s.my.mon = false → exec (.capld a c) s = .next (s.trapAt 0x04 0 0x1000))) ∧
  (∀ (s : State) (c : BitVec 2),
    ∃ t, exec (.capclr c) s = .next t ∧ (∀ k < 3, t.my.sysr (0x120 + 4 * c.toNat + k) = 0) ∧
      (∀ n, (∀ k < 3, n ≠ 0x120 + 4 * c.toNat + k) → t.my.sysr n = s.my.sysr n) ∧ s.my.sameG t.my ∧ s.onlyMy t ∧
      s.sameBytes t ∧ s.movesOn t 1)

/-- R359, R360: the channel operations that a stub performs. CHSEND appends its payload to an open channel with room and returns
0, and sleeps while it is full; on a closed one it returns its code. CHRECV takes the oldest message into core memory and
returns its length; with none it returns 0 where the channel is closed, and sleeps otherwise. CHCLOSE closes. VCID returns
the virtual core and how many there are. CHSEND and CHCLOSE close the region. What the stubs leave in G28 and G29 is free
(log 32). -/
def Obligations.Channels : Prop :=
  ∀ (s : State) (d a b : Reg5) (g : Reg3) (c : YChannel), s.guardOn g = true → s.channelOf (s.getG a) = .ok c →
    (let n := (s.getG a).toNat
     let va := (s.getG b).toNat
     let returns (t : State) (v : Word) : Prop := t.getG d = (if d = 0 then 0 else v) ∧
       (∀ r : Reg5, r ≠ d → r ≠ 28 → r ≠ 29 → t.getG r = s.getG r) ∧ s.movesOn t 1
     (∀ p, s.sourceBlock (s.getG b) c.maxlen = .ok p → s.fixedTo c.prod (s.getG a) = .ok () →
      (c.closed = true → ∃ t, exec (.chsend d a b g) s = .next t ∧ returns t 0x8000000000000006 ∧ s.sameBytes t) ∧
      (c.closed = false → c.full n = true → ∃ t, exec (.chsend d a b g) s = .next t ∧ s.sleeps t) ∧
      (c.closed = false → c.full n = false → s.performed = true →
        ∃ t, exec (.chsend d a b g) s = .next t ∧ returns t 0 ∧ t.my.sysr 0x030 = t.my.pc ∧ s.sameBytes t ∧
          ∃ who, t.program.chans[n]? = some { c with msgs := c.msgs ++ [(who, p)] })) ∧
     (va + c.maxlen + 16 ≤ memSize s.cur.core → va % 16 = 0 → s.calm → s.fixedTo c.cons (s.getG a) = .ok () →
      (∀ who m rest, c.msgs = (who, m) :: rest → ∃ t, exec (.chrecv d a b g) s = .next t ∧ returns t (BitVec.ofNat 64 m.length) ∧
        t.bytesAt (.core s.cur.core va) 16 = leBytes 16 m.length ∧ t.bytesAt (.core s.cur.core (va + 16)) m.length = m ∧
        s.sameBytesBut t (.core s.cur.core va) (16 + m.length) ∧ t.program.chans[n]? = some { c with msgs := rest }) ∧
      (c.msgs = [] → c.closed = true → ∃ t, exec (.chrecv d a b g) s = .next t ∧ returns t 0 ∧ s.sameBytes t) ∧
      (c.msgs = [] → c.closed = false → ∃ t, exec (.chrecv d a b g) s = .next t ∧ s.sleeps t)) ∧
     (s.performed = true → ∃ t, exec (.chclose a g) s = .next t ∧ t.my.sysr 0x030 = t.my.pc ∧ s.sameBytes t ∧ s.movesOn t 1 ∧
       t.program.chans[n]? = some { c with closed := true }) ∧
     (∃ t k, exec (.vcid d g) s = .next t ∧ returns t (BitVec.ofNat 64 (s.program.cores.length * 2 ^ 32 + k)) ∧ s.sameBytes t ∧
       (∀ me, s.virtualCore = some me → k = me)))

/-- R251, R267, R279, R283, R371: a request behind an earlier one of its context to a common byte waits. Else, at its home while
its lease runs and the replica there is within bound, it is performed: a load brings the bytes (through the window, once they
have crossed PCI Express), a store writes them and a reduction its result, and no other byte changes. After that it is
refused and writes nothing. R250, R279, R371: the answer of a load, and a read that has crossed PCI Express while its lease
runs and the replica there is within bound, bring their value to gd once every earlier load of the context is performed; a
read whose lease has lapsed by then is refused. R31, R143, R144, R268, R279: a refused request is translated afresh under its
own tag. Where it is let through, and no log entry of its bytes comes first, it sets out again with the new place and lease.
A load that is not let through goes back to its instruction, which issues again; that the later loads of its context go back
with it, and that each load, store and reduction is one record of the flight, are the model's choices (logs 53 and 5). A
store or reduction on an absent page enters the side log where it has room; one that is refused, or a reduction that comes to
the window, is discarded with an asynchronous trap. While the walk may not be made it waits. R135, R252, R266: a distributed
store is served at its bank (of both cores of a pair) after the context's earlier accesses to its bytes; an AMOF of a word
without poison changes its word and cell once the accesses before it are performed. -/
def Obligations.FlightEvents : Prop :=
  (∀ (s : State) (n c k va pa e : Nat) (op : MemOp) (org : Origin), s.flight[n]? = some (.mem c k va pa e op .travelling org) →
     (let p := placeOf pa
      let refused := e ≤ s.now ∨ s.homeSkewed pa = true
      (s.earlierFlight n = true → exec (.memoryRequestAtHome n) s = .next s) ∧
      (s.earlierFlight n = false → refused →
       ∃ t, exec (.memoryRequestAtHome n) s = .next t ∧ t.flight[n]? = some (.mem c k va pa e op .refused org) ∧ s.sameBytes t) ∧
      (s.earlierFlight n = false → ¬ refused → match op with
       | .load d m sg => s.poisonedIn p m = false → ∃ t, exec (.memoryRequestAtHome n) s = .next t ∧ s.sameBytes t ∧
           t.flight[n]? = some (if inWindow pa then .pcieRead c k va pa e d m sg org
             else .mem c k va pa e op (.answered (extend sg m (s.numAt p m))) org)
       | .store m v => ∃ t, exec (.memoryRequestAtHome n) s = .next t ∧ t.bytesAt p m = leBytes m v.toNat ∧ s.sameBytesBut t p m ∧
           t.flight = s.flight.eraseIdx n
       | .amo aop m v => ∃ t, exec (.memoryRequestAtHome n) s = .next t ∧
           t.bytesAt p m = leBytes m (amoNew aop m (s.numAt p m) v.toNat) ∧ s.sameBytesBut t p m ∧ t.flight = s.flight.eraseIdx n))) ∧
  (∀ (s : State) (n c k d m : Nat) (sg : Bool) (v : Word), (s.flight.take n).any (·.unperformed c k) = false →
     (let arrives (i : Instr) (v : Word) : Prop := ∃ t, exec i s = .next t ∧ (t.ctxAt c k).getG d = (if d = 0 then 0 else v) ∧
        (∀ r, r ≠ d → (t.ctxAt c k).getG r = (s.ctxAt c k).getG r) ∧ (t.ctxAt c k).pc = (s.ctxAt c k).pc ∧
        t.flight = s.flight.eraseIdx n ∧ s.sameBytes t
      (∀ va pa e org, s.flight[n]? = some (.mem c k va pa e (.load d m sg) (.answered v) org) → arrives (.accessResponse n) v) ∧
      (∀ va pa e org, s.flight[n]? = some (.pcieRead c k va pa e d m sg org) →
       (s.now < e → s.homeSkewed pa = false → arrives (.pcieReadCompletion n) (extend sg m (s.numAt (placeOf pa) m))) ∧
       (e ≤ s.now ∨ s.homeSkewed pa = true → ∃ t, exec (.pcieReadCompletion n) s = .next t ∧
         t.flight[n]? = some (.mem c k va pa e (.load d m sg) .refused org) ∧ t.cores = s.cores ∧ s.sameBytes t)))) ∧
  (∀ (s u : State) (n c k va pa e : Nat) (op : MemOp) (org : Origin) (x : Xlate),
     s.flight[n]? = some (.mem c k va pa e op .refused org) →
     (s.at c k).xlateFor { (s.at c k).asker with vf := org.vf } op.acc va = (x, u) →
     (let gone (w : State) (code : BitVec 8) : Prop := ∃ t a, exec (.refusedRequestReissue n) s = .next t ∧ t.flight = s.flight.eraseIdx n ∧
        (t.ctxAt c k).async = (s.ctxAt c k).async ++ [a] ∧ a.code = code ∧ a.eaddr = BitVec.ofNat 64 va ∧ w.sameBytes t
      (∀ p lease, x = .place p lease →
       (s.loggedBefore c k org.vf va op = true → exec (.refusedRequestReissue n) s = .next s) ∧
       (s.loggedBefore c k org.vf va op = false → (op.acc = .rmw → inWindow p.addr = false) →
        ∃ t, exec (.refusedRequestReissue n) s = .next t ∧ t.flight[n]? = some (.mem c k va p.addr lease op .travelling org)) ∧
       (s.loggedBefore c k org.vf va op = false → op.acc = .rmw → inWindow p.addr = true → gone u 0x09)) ∧
      (op.acc = .load → (∀ p lease, x ≠ .place p lease) → x ≠ .skewed →
       ∃ t, exec (.refusedRequestReissue n) s = .next t ∧ (t.ctxAt c k).pc = org.pc ∧ (t.ctxAt c k).run = .running ∧
         (t.ctxAt c k).replay = org.replay ∧ ∀ f ∈ t.flight.drop n, (f.loadFor c k).isNone) ∧
      (op.acc ≠ .load → x = .absent →
       (64 ≤ (s.core c).slog.length → exec (.refusedRequestReissue n) s = .next s) ∧
       ((s.core c).slog.length < 64 → ∃ t g, exec (.refusedRequestReissue n) s = .next t ∧ t.flight = s.flight.eraseIdx n ∧
         (t.core c).slog = (s.core c).slog ++ [g] ∧ g.sector = va / 128 * 128 ∧ g.vf = org.vf ∧ g.ctx = k ∧ s.sameBytes t ∧
         (match op with
           | .store m v => g.op = .write ∧ (va % 128 + m ≤ 128 → m ≤ 8 → ∀ j < m, g.mask.getLsbD (va % 128 + j) = true ∧
               g.byte (va % 128 + j) = v.extractLsb' (8 * j) 8)
           | .amo aop m _ => g.op = .amo aop m
           | .load _ _ _ => True))) ∧
      (∀ pk, op.acc ≠ .load → x = .refused pk → gone s 0x07) ∧
      (op.acc ≠ .load → (x = .invalid ∨ x = .noRoot ∨ x = .malformed) → gone s 0x06) ∧
      (x = .skewed → exec (.refusedRequestReissue n) s = .next s))) ∧
  ((∀ (s : State) (n c k target off : Nat) (bs : List Byte), s.flight[n]? = some (.remote c k target off bs) →
     (s.earlierFlight n = true → exec (.remoteCoreMemoryAccess n) s = .next s) ∧
     (s.earlierFlight n = false →
       ∃ t, exec (.remoteCoreMemoryAccess n) s = .next t ∧ (∀ q ∈ s.pairCores target, t.bytesAt (.core q off) bs.length = bs) ∧
         s.sameBytesOff t ((s.pairCores target).map fun q => .core q off) bs.length ∧ t.flight = s.flight.eraseIdx n)) ∧
   (∀ (s : State) (n c k target off m dc doff : Nat) (op : AmoOp) (v : Word) (acq : Bool),
     s.flight[n]? = some (.amof c k target off op m v dc doff acq) →
     (let old := s.numAt (.core (s.pairHead target) off) m
      (s.releaseDone n c k = false → exec (.amofArrival n) s = .next s) ∧
      (s.releaseDone n c k = true → m ≤ 8 →
       ((∀ q ∈ s.pairCores target, q ∉ s.pairCores dc) ∨ off + m ≤ doff ∨ doff + 16 ≤ off) →
       s.poisonedIn (.core (s.pairHead target) off) m = false →
       ∃ t, exec (.amofArrival n) s = .next t ∧ t.flight = s.flight.eraseIdx n ∧
         (∀ q ∈ s.pairCores target, t.bytesAt (.core q off) m = leBytes m (amoNew op m old v.toNat)) ∧
         (∀ q ∈ s.pairCores dc, t.numAt (.core q doff) 8 = old ∧
           t.numAt (.core q (doff + 8)) 8 = (s.numAt (.core (s.pairHead dc) (doff + 8)) 8 + 1) % 2 ^ 64)))))

/-- R219-R228: an arrival at a barrier of level 0, of a core without distributed accesses under way, completes it; a BARARV whose
release is done counts in its cell; a SEND whose release is done takes its ring's answer, which then comes to gd; a held Q0
event enters a port with room. R134, R258, R259: an SC operation that is first in S, with everything before it performed and
its core's replica in window w + 3, may complete; until then it waits. A load, a fence or a store of the context's own
becomes ready and is performed at its issue. A store or an AMOF that has been sent is performed then, and so is an AMO or CAS
whose lease runs, or whose function is being reset, with the home within bound: its old value comes to gd, its context goes
on, and it leaves S. (The words hold no poison.) -/
def Obligations.ArrivalEvents : Prop :=
  ((∀ (s : State) (n c : Nat) (ph : Bool), s.flight[n]? = some (.bar c 0 c ph) → c < 64 → (s.core c).pair = false → s.crossing c = false →
     ∃ t, exec (.barrierArrival n) s = .next t ∧ tget 0 (t.core c).done 0 = tget 0 (s.core c).done 0 + 1 ∧
       t.flight = s.flight.eraseIdx n ∧ s.sameBytes t) ∧
   (∀ (s : State) (n c k target off : Nat), s.flight[n]? = some (.bararv c k target off) →
     (s.releaseDone n c k = false → exec (.bararvArrival n) s = .next s) ∧
     (s.releaseDone n c k = true →
       ∃ t, exec (.bararvArrival n) s = .next t ∧ t.flight = s.flight.eraseIdx n ∧
         (∀ q ∈ s.pairCores target,
           t.numAt (.core q (off + 8)) 8 = (s.numAt (.core (s.pairHead target) (off + 8)) 8 + 1) % 2 ^ 64) ∧
         s.sameBytesOff t ((s.pairCores target).map fun q => .core q (off + 8)) 8)) ∧
   (∀ (s : State) (n c k d vf : Nat) (h : Word) (p : List Byte), s.flight[n]? = some (.send c k d h p vf) →
     (let m : Message := { kind := 1, srcctx := k, src := c, vf := vf, payload := p }
      (s.releaseDone n c k = false → exec (.sendArrival n) s = .next s) ∧
      (s.releaseDone n c k = true →
       ∃ t, exec (.sendArrival n) s = .next t ∧ t.flight[n]? = some (.sendAnswer c k d (s.sendResult h m).1) ∧
         ∀ q, t.byteAt q = (s.sendResult h m).2.byteAt q))) ∧
   (∀ (s : State) (n c k d : Nat) (v : Word), s.flight[n]? = some (.sendAnswer c k d v) →
     ∃ t, exec (.sendAnswer n) s = .next t ∧ (t.ctxAt c k).getG d = (if d = 0 then 0 else v) ∧ t.flight = s.flight.eraseIdx n ∧
       s.sameBytes t) ∧
   (∀ (s : State) (c : Nat) (e : Word × Word) (rest : List (Word × Word)), (s.core c).q0Held = e :: rest → (s.core c).q0.length < 64 →
     ∃ t, exec (.q0EventPost c) s = .next t ∧ (t.core c).q0 = (s.core c).q0 ++ [e] ∧ (t.core c).q0Held = rest ∧ s.sameBytes t)) ∧
  (∀ (s : State) (n : Nat) (o : ScOp), s.sc[n]? = some o →
     (let due := firstSc s.sc o = true ∧ (o.window + 3) * 16 ≤ s.replica o.core ∧ s.scPerformed o = true
      let completes (t : State) (d : Nat) (v : Word) : Prop := exec (.scOperationComplete n) s = .next t ∧ t.sc = s.sc.eraseIdx n ∧
        (t.ctxAt o.core o.ctx).getG d = (if d = 0 then 0 else v) ∧
        (∀ r, r ≠ d → (t.ctxAt o.core o.ctx).getG r = (s.ctxAt o.core o.ctx).getG r) ∧
        ((s.ctxAt o.core o.ctx).run = .holding → (t.ctxAt o.core o.ctx).run = .running) ∧
        ∀ j, (tget {} (t.ctxAt o.core o.ctx).streams j).ahead = []
      let sent (p : Place) (e m d : Nat) (new : Nat → Option Nat) : Prop :=
        (p.travels = true → s.homeSkewed p.addr = false ∧ (s.now < e ∨ s.closing o.vf = true)) → s.poisonedIn (s.readPlace p) m = false →
        (let old := s.numAt (s.readPlace p) m
         ∃ t, completes t d (BitVec.ofNat 64 old) ∧ (match new old with
           | some v => (∀ q ∈ s.homes p, t.bytesAt q m = leBytes m v) ∧ s.sameBytesOff t (s.homes p) m
           | none => s.sameBytes t))
      (¬ due → exec (.scOperationComplete n) s = .next s) ∧
      (due → match o.act with
       | .issue | .logged => ∃ t, exec (.scOperationComplete n) s = .next t ∧ t.sc[n]? = some { o with ready := true } ∧ s.sameBytes t
       | .store c off bs => ∃ t, completes t 0 0 ∧ (∀ q ∈ s.pairCores c, t.bytesAt (.core q off) bs.length = bs) ∧
           s.sameBytesOff t ((s.pairCores c).map fun q => .core q off) bs.length
       | .amo _ p e op m d b => sent p e m d fun old => some (amoNew op m old b)
       | .cas _ p e m d x y => sent p e m d fun old => if old = x then some y else none
       | .amof c off op m b dc doff =>
         (let old := s.numAt (.core (s.pairHead c) off) m
          m ≤ 8 → ((∀ q ∈ s.pairCores c, q ∉ s.pairCores dc) ∨ off + m ≤ doff ∨ doff + 16 ≤ off) →
          s.poisonedIn (.core (s.pairHead c) off) m = false →
          ∃ t, completes t 0 0 ∧ (∀ q ∈ s.pairCores c, t.bytesAt (.core q off) m = leBytes m (amoNew op m old b)) ∧
           (∀ q ∈ s.pairCores dc, t.numAt (.core q doff) 8 = old ∧
             t.numAt (.core q (doff + 8)) 8 = (s.numAt (.core (s.pairHead dc) (doff + 8)) 8 + 1) % 2 ^ 64)))))

/-- R199, R213, R216, R241: the units' completions and the wakings: a geometry result reaches Vd with its flag; the oldest
instruction leaves the sum-product engine, and its flags arrive; a sleeping context, or one whose SLEEP deadline comes, runs
again; a WFE may wake with no event. R315-R319: a periodic trigger that is due, on an enabled bank, begins a release at its
trigger time; while one is under way it is kept pending with its time, and counted as lost behind a pending one. A deadline
that has passed marks the release and makes WATCHDOG pending, once. -/
def Obligations.UnitsAndBanks : Prop :=
  ((∀ (s : State) (c : Nat) (p : Pending) (rest : List Pending), (s.core c).egu = p :: rest → (s.ctxAt c p.ctx).stream p.d = none →
     ∃ t, exec (.eguCompletion c) s = .next t ∧ (t.ctxAt c p.ctx).getV p.d = p.v ∧ (t.core c).egu = rest ∧
       (t.ctxAt c p.ctx).sysr 0x011 = (s.ctxAt c p.ctx).sysr 0x011 ||| (if p.gnf then 0x20 else 0) ∧ s.sameBytes t) ∧
   (∀ (s : State) (c : Nat) (p : SpePend) (rest : List SpePend), (s.core c).spe = p :: rest →
     ∃ t, exec (.speCompletion c) s = .next t ∧ (t.core c).spe = rest ∧
       (t.ctxAt c p.ctx).sysr 0x011 = (s.ctxAt c p.ctx).sysr 0x011 ||| p.fl ∧
       (t.core c).sysr 0x018 = (s.core c).sysr 0x018 ||| (if p.sat then 0x200 else 0) ||| (if p.uf then 0x100 else 0) ∧
       s.sameBytes t) ∧
   (∀ (s : State) (c k : Nat) (l : Nat),
     (let wakes (i : Instr) : Prop := ∃ t, exec i s = .next t ∧ (t.ctxAt c k).run = .running ∧
        (t.ctxAt c k).pc = (s.ctxAt c k).pc ∧ (s.ctxAt c k).sameRegs (t.ctxAt c k) ∧ s.sameBytes t
      ((s.ctxAt c k).run = .sleeping ∨ (s.ctxAt c k).run = .wfe ∨ (s.ctxAt c k).run = .barrier l → wakes (.contextWake c k)) ∧
      ((s.ctxAt c k).run = .sleeping → wakes (.sleepDeadline c k)) ∧
      ((s.ctxAt c k).run = .wfe → wakes (.wfeWakeWithNoEvent c k))))) ∧
  (∀ (s : State) (c b : Nat), Config.isReflex c = true → b < 4 →
     (let v := (s.core c).relcfg b
      let x := s.ctxAt c b
      let at_ := nextTrigger v x.tcfg.toNat
      (v.getLsbD 63 = true → bits v 61 2 = 0 → bits v 39 22 ≠ 0 → at_ ≤ s.replica c → at_ < 2 ^ 64 →
       ∃ t, exec (.periodicTrigger c b) s = .next t ∧ (t.ctxAt c b).isReleased = true ∧ (t.ctxAt c b).pc = x.pc ∧
         (x.isReleased = false → (t.ctxAt c b).fired = false ∧ t.numAt (.core c (bankRecord b + 16)) 8 = at_ ∧
           (x.run = .released → (t.ctxAt c b).run = .running)) ∧
         (x.isReleased = true → x.pend = false → (t.ctxAt c b).pend = true ∧ (t.ctxAt c b).tpend = BitVec.ofNat 64 at_) ∧
         (x.isReleased = true → x.pend = true →
           t.numAt (.core c (bankRecord b + 28)) 4 = (s.numAt (.core c (bankRecord b + 28)) 4 + 1) % 2 ^ 32)) ∧
      (x.isReleased = true → bits v 0 17 ≠ 0 → s.deadline c b ≤ s.replica c →
       (x.fired = false → ∃ t, exec (.watchdog c b) s = .next t ∧ (t.ctxAt c b).fired = true ∧
         ∃ a, (t.ctxAt c b).async = x.async ++ [a] ∧ a.code = 0x12) ∧
       (x.fired = true → exec (.watchdog c b) s = .next s))))

/-- R18, R22, R26, R34, R287, R327: a write by the monitor's control path of a legal value puts it into its register: REGIONPC
and a capability word of a context, TSHAPE, CAPACC, SEGBASE and SEGLIM of a core, and any other plain register. R315-R317,
R372: a legal RELCFG of a reflex bank with no SC operation under way configures it: disabled, the bank is free; enabled, on a
core of some function and with a legal ENTRY, it sleeps at ENTRY with ARG in G1, at task level, until its first release.
Enabling a bank of a core of no function changes nothing. -/
def Obligations.ControlWrites : Prop :=
  (∀ (s : State) (c k n w : Nat) (v : Word),
     (sysReserved 0x030 v = false → ∃ t, exec (.regionpcWrite c k v) s = .next t ∧ (t.ctxAt c k).sysr 0x030 = v ∧ s.sameBytes t) ∧
     (n < 8 → (shapeOf v).isSome = true →
       ∃ t, exec (.tshapeWrite c n v) s = .next t ∧ (t.core c).sysr (0x020 + n) = v ∧ s.sameBytes t) ∧
     (n < 4 → w < 3 → sysReserved (0x120 + 4 * n + w) v = false →
       ∃ t, exec (.capWordWrite c k n w v) s = .next t ∧ (t.ctxAt c k).sysr (0x120 + 4 * n + w) = v ∧ s.sameBytes t) ∧
     (n < 8 → capReserved v = false →
       ∃ t, exec (.capaccWrite c n v) s = .next t ∧ (t.core c).sysr (0x140 + n) = v ∧ s.sameBytes t) ∧
     (n < 8 → Config.isReflex c = true → sysReserved (0x180 + n) v = false →
       ∃ t, exec (.segbaseWrite c n v) s = .next t ∧ (t.core c).sysr (0x180 + n) = v ∧ s.sameBytes t) ∧
     (n < 8 → Config.isReflex c = true → seglimReserved v = false →
       ∃ t, exec (.seglimWrite c n v) s = .next t ∧ (t.core c).sysr (0x188 + n) = v ∧ s.sameBytes t) ∧
     (sysCheck true true n = .ok () → sysIgnored (Config.isReflex c) n = false → sysReserved n v = false → n < 0x190 → n ≠ 0x030 →
       n ≠ 0x032 → n ≠ 0x100 → ∃ t, exec (.sysregWrite c k n v) s = .next t ∧ (t.at c k).sysr n = v ∧ s.sameBytes t)) ∧
  (∀ (s : State) (c n : Nat) (v : Word), Config.isReflex c = true → n < 4 → relcfgReserved v = false → s.scPending c n = false →
     (let entry : Word := BitVec.ofNat 64 (s.numAt (.core c (bankRecord n)) 8)
      let arg : Word := BitVec.ofNat 64 (s.numAt (.core c (bankRecord n + 8)) 8)
      (v.getLsbD 63 = false → ∃ t, exec (.relcfgWrite c n v) s = .next t ∧ (t.core c).relcfg n = v ∧
        (t.ctxAt c n).isReleased = false ∧ (t.ctxAt c n).run = .free) ∧
      (v.getLsbD 63 = true → s.rassigned c = true → legalTarget entry = true →
       ∃ t, exec (.relcfgWrite c n v) s = .next t ∧ (t.core c).relcfg n = v ∧ (t.ctxAt c n).run = .released ∧ (t.ctxAt c n).pc = entry ∧
         (t.ctxAt c n).getG 1 = arg ∧ (∀ r, r ≠ 1 → (t.ctxAt c n).getG r = 0) ∧ (t.ctxAt c n).mon = false ∧
         (t.ctxAt c n).sysr 0x030 = entry ∧ t.numAt (.core c (bankRecord n + 16)) 16 = 0) ∧
      (v.getLsbD 63 = true → s.rassigned c = false → exec (.relcfgWrite c n v) s = .next s)))

/-- R130, R141, R143, R144, R268, R283: a bound generator with chunks left reads the next one ahead; a log entry that no earlier
one of its place precedes, and whose page is mapped with its home within bound, puts its bytes down, or its reductions, and
leaves the log; a reduction or CZERO that comes to the window leaves it with an asynchronous ILLEGAL_ADDRESS pending, and one
that its page refuses with PROTECTION; a held context issues again at the same instruction. R286, R370: a waiter on an absent
page with no record outstanding posts one in a cluster with room; the answer to a record takes it away and lets every context
that waits for its page issue again, told so where the page is invalid. FQANSWER of a reachable block answers the record that
its FQTOKEN names; that the block of any function may so answer any function's record is the model's choice (log 20). -/
def Obligations.StreamsAndFaults : Prop :=
  ((∀ (s u : State) (core ctx j : Nat) (bs : List (List Byte)),
     (let g := tget {} (s.ctxAt core ctx).streams j
      let n := g.rc + g.ahead.length
      g.bound = true → g.dir ≠ 2 → n < g.count.toNat → g.ahead.length < 8 →
      (s.at core ctx).readItems g.space' .load (streamInfo false g) 0 0 (chunkItems (g.chunk n)) = .ok (bs, u) →
      ∃ t, exec (.streamReadAhead core ctx j) s = .next t ∧
       (tget {} (t.ctxAt core ctx).streams j).ahead = g.ahead ++ [BitVec.ofNat 1024 (leNat bs.flatten)] ∧
       (tget {} (t.ctxAt core ctx).streams j).rc = g.rc ∧ (t.ctxAt core ctx).pc = (s.ctxAt core ctx).pc)) ∧
   (∀ (s u : State) (core n : Nat) (e : LogEntry) (x : Option TlbEntry) (y : Xlate), (s.core core).slog[n]? = some e →
     ((s.core core).slog.take n).any (·.before e) = false → s.scDue core e = true → (s.at core e.ctx).noFill = false →
     s.xlateWalk { (s.at core e.ctx).asker with vf := e.vf } e.acc e.sector = (x, y, u) →
     (∀ p lease, y = .place p lease → s.homeSkewed p.addr = true → exec (.sideLogReplay core n) s = .next s) ∧
     (∀ p lease, y = .place p lease → s.homeSkewed p.addr = false → e.windowed p = true →
       ∃ t a, exec (.sideLogReplay core n) s = .next t ∧ (t.core core).slog = (s.core core).slog.eraseIdx n ∧ u.sameBytes t ∧
         (t.ctxAt core e.ctx).async = (s.ctxAt core e.ctx).async ++ [a] ∧ a.code = 0x09) ∧
     (∀ p lease, y = .place p lease → s.homeSkewed p.addr = false → e.windowed p = false →
       ∃ t, exec (.sideLogReplay core n) s = .next t ∧ (t.core core).slog = (s.core core).slog.eraseIdx n ∧ (match e.op with
         | .write | .zero => ∀ k < 128, t.byteAt (p.plus k) = if e.has k then e.byte k else u.byteAt (p.plus k)
         | .amo op m => ∀ k < 128 / m, e.has (m * k) = true → t.bytesAt (p.plus (m * k)) m =
             leBytes m (amoNew op m (u.numAt (p.plus (m * k)) m) (leNat ((List.range m).map fun i => e.byte (m * k + i)))))) ∧
     (∀ pk, y = .refused pk →
       ∃ t, exec (.sideLogReplay core n) s = .next t ∧ (t.core core).slog = (s.core core).slog.eraseIdx n ∧ s.sameBytes t ∧
         ∃ a, (t.ctxAt core e.ctx).async = (s.ctxAt core e.ctx).async ++ [a] ∧ a.code = 0x07)) ∧
   (∀ (s : State) (core ctx : Nat), (s.ctxAt core ctx).run = .holding →
     ∃ t, exec (.heldAccessResume core ctx) s = .next t ∧ (t.ctxAt core ctx).run = .running ∧
       (t.ctxAt core ctx).pc = (s.ctxAt core ctx).pc ∧ s.sameBytes t)) ∧
  ((∀ (s : State) (cluster n core vf page kind src : Nat), (s.clusterWaits cluster)[n]? = some (core, vf, page, kind, src) →
     s.walk vf page = .absent → (∀ k < 16, ∀ f ∈ (s.cluster k).faults, ¬(f.vf = vf ∧ f.va = page)) →
     (s.cluster (clusterOf core)).faults.length < 32 →
     ∃ t r, exec (.faultRecordPost cluster n) s = .next t ∧
       (t.cluster (clusterOf core)).faults = (s.cluster (clusterOf core)).faults ++ [r] ∧ r.va = page ∧ r.vf = vf ∧ r.kind = kind ∧
       r.core = core ∧ r.src = src ∧ r.time = s.now ∧ s.sameBytes t) ∧
   (∀ (s : State) (token : Word) (k : Nat) (f : FaultRec), s.recordOf token = some (k, f) →
     (∃ t, exec (.faultAnswerMapped token) s = .next t ∧ (t.cluster k).faults = (s.cluster k).faults.erase f ∧ s.sameBytes t ∧
       ∀ core ctx, ctx < 11 → (s.core core).holdsOn ctx f.vf f.va = true →
         (t.ctxAt core ctx).run = .running ∧ (t.ctxAt core ctx).invalidAt = none) ∧
     (∃ t, exec (.faultAnswerInvalid token) s = .next t ∧ (t.cluster k).faults = (s.cluster k).faults.erase f ∧
       ∀ core ctx, ctx < 11 → (s.core core).holdsOn ctx f.vf f.va = true →
         (t.ctxAt core ctx).run = .running ∧ (t.ctxAt core ctx).invalidAt = some f.va) ∧
     (∀ v, s.reachable v = true → (s.block v).get 0x060 = token →
       (∃ t, exec (.fqanswerMapped v) s = .next t ∧ exec (.faultAnswerMapped token) s = .next t) ∧
       (∃ t, exec (.fqanswerInvalid v) s = .next t ∧ exec (.faultAnswerInvalid token) s = .next t))))

/-- R271, R277, R279, R282: a walk that ends at a leaf fills the TLBs of its core; entries whose expiry has come leave them; held
translations of an engine that are due are walked again, and a changed leaf stops it there. R261, R283: a replica found more
than 16 ns off is out of bound until it is cleared: a core's TLBs are emptied, a walker's second-level TLB is, and a home
slice's, or the host interface's, is noted. The numbering (0 to 95 the cores, 96 to 111 and 177 to 192 the two walkers of
each cluster, 112 to 175 the home slices, 176 the host interface), and that an error of 16 ns or less changes nothing, are
the model's (log 54). -/
def Obligations.TranslationEvents : Prop :=
  ((∀ (s u : State) (core lease : Nat) (va : Word) (write fetch : Bool) (p : Place), Config.isReflex core = false →
     (s.at core 0).xlateCore (if fetch then .fetch else if write then .store else .load) va.toNat = (.place p lease, u) →
     ∃ t, exec (.pageWalkComplete core va write fetch) s = .next t ∧ (t.core core).itlb = (u.core core).itlb ∧
       (t.core core).dtlb = (u.core core).dtlb ∧ (t.core core).ctxs = (s.core core).ctxs) ∧
   (∀ (s : State) (core : Nat),
     ∃ t, exec (.tlbEntryExpiry core) s = .next t ∧
       (∀ e, e ∈ (t.core core).itlb ↔ e ∈ (s.core core).itlb ∧ s.replica core < e.expiry) ∧
       (∀ e, e ∈ (t.core core).dtlb ↔ e ∈ (s.core core).dtlb ∧ s.replica core < e.expiry) ∧ s.sameBytes t) ∧
   (∀ (s : State) (cluster chan : Nat) (cmd : Command) (rest : List Command),
     (let c := s.chan cluster chan
      let who := s.engineAsker cmd
      c.queue = cmd :: rest → (∀ a, c.stop ≠ .stopped a) → s.noWalk who = false →
      (∀ held u, s.renewAll who.lcap c.held = .ok (held, u) →
       ∃ t, exec (.leaseRenewalWalk cluster chan) s = .next t ∧ (t.chan cluster chan).queue = c.queue ∧
         (t.chan cluster chan).held = held ∧ held.length = c.held.length ∧ (∀ e ∈ c.held, e.due s.now = false → e ∈ held) ∧
         u.sameBytes t) ∧
      (∀ e u, s.renewAll who.lcap c.held = .error (e, u) → e.due s.now = true ∧
       ∃ t, exec (.leaseRenewalWalk cluster chan) s = .next t ∧ (t.chan cluster chan).stop = .stopped (BitVec.ofNat 64 e.base))))) ∧
  ((∀ (s : State) (n : Nat) (err : Half),
     (16 < err.toInt.natAbs → ∃ t, exec (.clockSkew n err) s = .next t ∧
       (n < 96 → (t.core n).skewed = true ∧ (t.core n).skew = err.toInt ∧ (t.core n).itlb = [] ∧ (t.core n).dtlb = []) ∧
       (96 ≤ n → n < 112 → (t.cluster (n - 96)).skewed = true ∧ (t.cluster (n - 96)).tlb = []) ∧
       (112 ≤ n → n < 177 → n - 112 ∈ t.skewedHomes) ∧
       (177 ≤ n → n < 193 → (t.cluster (n - 177)).skewed2 = true ∧ (t.cluster (n - 177)).tlb = [])) ∧
     (err.toInt.natAbs ≤ 16 → exec (.clockSkew n err) s = .next s)) ∧
   (∀ (s : State) (n : Nat), ∃ t, exec (.clockSkewCleared n) s = .next t ∧ s.sameBytes t ∧
     (n < 96 → (t.core n).skewed = false ∧ (t.core n).skew = 0) ∧ (96 ≤ n → n < 112 → (t.cluster (n - 96)).skewed = false) ∧
     (112 ≤ n → n < 177 → n - 112 ∉ t.skewedHomes) ∧ (177 ≤ n → n < 193 → (t.cluster (n - 177)).skewed2 = false)))

/-- R183, R331: a command whose release is done is refused at its target, which sends the reason back, or joins its queue. R183,
R184, R329, R330: the sequence at the target: accepted, it stops when it may; stopped, its save set is taken; saved, only the
save area of its memory has changed (that a run whose operands hold poison begins again is log 67); run, the product is
formed; restored, the result leaves (after step 6 of R330, log 67) and the next command may follow. R230: a result reaches
the sender's ring in the order of the numbers: it is entered, it waits for room, or, where the ring takes none (codes 2 to
4), it is discarded with a record of class 0x0B that gives the code and the tag, and the ring stays as it is; timeline c9
moves past its number. -/
def Obligations.SeizureSequence : Prop :=
  (∀ (s : State) (n target : Nat) (z : Seizure), s.flight[n]? = some (.seizure target z) →
     (s.releaseDone n z.core z.ctx = false → exec (.seizureArrival n) s = .next s) ∧
     (s.releaseDone n z.core z.ctx = true →
       (∀ code, s.seizureRefusal target z = some code →
         ∃ t, exec (.seizureArrival n) s = .next t ∧ t.flight[n]? = some (z.refuse target code) ∧ s.sameBytes t) ∧
       (s.seizureRefusal target z = none →
         ∃ t, exec (.seizureArrival n) s = .next t ∧ (t.core target).seiz = (s.core target).seiz ++ [z] ∧
           t.flight = s.flight.eraseIdx n ∧ s.sameBytes t))) ∧
  (∀ (s : State) (core : Nat) (z : Seizure) (rest : List Seizure), (s.core core).seiz = z :: rest →
     (let c := s.core core
      (c.seizPhase = .idle →
       ∃ t, exec (.seizureAccept core) s = .next t ∧ (t.core core).seizPhase = (if s.seizMayStop core then .stopped else .accepted) ∧
         (t.core core).seizTacc = BitVec.ofNat 64 (s.replica core) ∧ (t.core core).seizPwr = some 4 ∧ s.sameBytes t) ∧
      ((c.seizPhase = .stopped ∨ (c.seizPhase = .accepted ∧ s.seizMayStop core = true)) →
       ∃ t, exec (.seizureDrainEnd core) s = .next t ∧ (t.core core).seizPhase = .drained ∧
         (t.core core).seizSave = c.saveSet z.bits ∧ s.sameBytes t) ∧
      (s.Inv → c.seizPhase = .drained →
       ∃ t, exec (.seizureSaveEnd core) s = .next t ∧
         ((t.core core).seizPhase = .saved ∨ ((t.core core).seizPhase = .drained ∧ (t.core core).seizTries = c.seizTries + 1)) ∧
         (c.memBad = [] → s.sramBad = [] → (t.core core).seizPhase = .saved) ∧
         ∀ off, (off < saveArea ∨ saveArea + saveAreaSize ≤ off) → t.byteAt (.core core off) = s.byteAt (.core core off)) ∧
      (c.seizPhase = .saved →
       ∃ t, exec (.seizureRunEnd core) s = .next t ∧ (t.core core).seizPhase = .ran ∧
         (t.core core).seizResult = (if c.seizStatus = 0 then (c.seizProduct z.bits).2 else []) ∧ s.sameBytes t) ∧
      (c.seizPhase = .ran →
       ∃ t msg, exec (.seizureRestoreEnd core) s = .next t ∧ (t.core core).seizPhase = .idle ∧ (t.core core).seizPwr = none ∧
         z.result core msg ∈ t.flight ∧ msg.drop 32 = c.seizResult ∧ leNat (msg.take 2) = cmdField z.bits 16 16 ∧
         (s.closedToSeizure core = false → (t.core core).seiz = rest) ∧ s.sameBytes t))) ∧
  (∀ (s : State) (n c k ring tag vf number src : Nat) (msg : List Byte),
     s.flight[n]? = some (.result c k ring tag msg vf number src) →
     (let m : Message := { kind := 2, srcctx := 0, src := src, vf := vf, payload := msg }
      let code := if ring = noRing then 2 else s.ringCode c ring m
      (number ≠ (s.core c).c9 + 1 ∨ code = 1 → exec (.seizureResultAtRing n) s = .next s) ∧
      (number = (s.core c).c9 + 1 → code ≠ 1 → ∃ t, exec (.seizureResultAtRing n) s = .next t ∧ (t.core c).c9 = number ∧
        t.flight = s.flight.eraseIdx n ∧ (code = 0 → ∀ q, t.byteAt q = (s.ringWrite c ring m).byteAt q) ∧
        (code ≠ 0 → (∀ j off, t.byteAt (.core j off) = s.byteAt (.core j off)) ∧ 2 ≤ code ∧ code ≤ 4 ∧
          ∃ r : ErrRec, r.cls = 0x0B ∧ r.engid = 4096 + src ∧ r.vf = some vf ∧ r.detail = BitVec.ofNat 64 (code * 2 ^ 16 + tag) ∧
            ∀ q, t.byteAt q = (s.report r).byteAt q))))

/-- R337: a due asynchronous cause of a context that stands at a boundary is taken before the next instruction, which EPC names.
R214, R307, R313, R340: a mismatch in a context takes it back to its restart point with the recorded registers, up to three
times with no new point; the fourth is PIPELINE_ERROR there. One that an engine or a slice mends itself takes no context
back. The numbers of the units, and what units 5 and above do, are the model's choices (logs 70 and 85). A timing replay
takes back each context named, and a lockstep mismatch every live context of both cores. (With no checkpoint mark and no
recorded replay: those go on as R116 and R236 say.) -/
def Obligations.TrapEvents : Prop :=
  (∀ (s : State) (core ctx : Nat) (a : Async), (s.ctxAt core ctx).dueAsync = some a → (s.ctxAt core ctx).alive = true →
     (s.core core).seizPhase = .idle → (s.core core).preempting = false → (s.core core).scrubbing = false →
     s.atBoundary core ctx = true →
     ∃ t, exec (.trapDelivery core ctx) s = .next t ∧ (t.ctxAt core ctx).sysr 0x101 = BitVec.ofNat 64 (256 + a.code.toNat) ∧
       (t.ctxAt core ctx).sysr 0x102 = (s.ctxAt core ctx).pc ∧ (t.ctxAt core ctx).sysr 0x103 = a.eaddr ∧
       (a.code ≠ 0x12 → (t.ctxAt core ctx).sysr 0x104 = a.einfo) ∧ (t.ctxAt core ctx).sysr 0x105 = 0 ∧
       (t.ctxAt core ctx).mon = true ∧ (t.ctxAt core ctx).async = (s.ctxAt core ctx).async.erase a ∧
       (t.ctxAt core ctx).asyncHeld = true) ∧
  (∀ (s : State) (core ctx : Nat), (s.ctxAt core ctx).restart.ckpt = false →
     (s.ctxAt core ctx).restart.replay = none → (s.ctxAt core ctx).alive = true →
     (let x := s.ctxAt core ctx
      let even := core / 2 * 2
      let returned (t : State) : Prop := (t.ctxAt core ctx).pc = x.sysr 0x030 ∧ (t.ctxAt core ctx).g = x.restart.g ∧
        (t.ctxAt core ctx).p = x.restart.p ∧ (t.ctxAt core ctx).v = x.restart.v ∧ (t.ctxAt core ctx).a = x.restart.a ∧
        (t.ctxAt core ctx).streams = x.restart.streams ∧ (t.ctxAt core ctx).restart.returns = x.restart.returns + 1 ∧
        (x.run ≠ .released → (Config.isReflex core = false ∨ x.isReleased = true) → (t.ctxAt core ctx).run = .running)
      (∀ unit : BitVec 4, unit.toNat ≤ 4 → ∃ t, exec (.rollback core ctx unit) s = .next t ∧
        (x.restart.returns < 3 → returned t) ∧
        (3 ≤ x.restart.returns → (t.ctxAt core ctx).sysr 0x101 = 0x10F ∧
          (t.ctxAt core ctx).sysr 0x102 = x.sysr 0x030 ∧ (t.ctxAt core ctx).g = x.restart.g)) ∧
      (∀ unit : BitVec 4, 5 ≤ unit.toNat → ∃ t, exec (.rollback core ctx unit) s = .next t ∧
        ∀ j k, (s.ctxAt j k).sameRegs (t.ctxAt j k) ∧ (t.ctxAt j k).pc = (s.ctxAt j k).pc ∧ (t.ctxAt j k).restart = (s.ctxAt j k).restart) ∧
      (∀ mask : BitVec 11, ctx < Config.numContexts core → mask.getLsbD ctx = true → x.restart.returns < 3 →
        ∃ t, exec (.timingReplay core mask) s = .next t ∧ returned t) ∧
      ((s.core core).pair = true → ctx < Config.numContexts core →
        (∀ j ∈ (s.core even).live even, (s.ctxAt even j).restart.returns < 3) →
        ∃ t, exec (.lockstepMismatch core) s = .next t ∧ returned t)))

/-- R39, R290, R293-R296, R299, R300: a submission enters the tracker, by its words or by its header's address, or is refused; a
launch of no task completes when it is admitted, whatever launch with tasks waits before it, and one with tasks puts each
whose dependence count is 0 into the pool; the domain chosen begins its superstep; the first task of a share starts with its
entry and arguments, the two cores of a pair together; the clear sequence leaves the control context free. -/
def Obligations.LaunchEvents : Prop :=
  (∀ (s : State) (core vf : Nat) (v : BitVec 512) (rest : List Submission), (s.core core).q1 = .inline v vf :: rest →
    s.launches.length < 1024 → s.taking core = false → s.quiet core = true →
    (s.closedTo vf = false → headerFault v true = false →
      ∃ t l, exec (.launchTake core) s = .next t ∧ (t.core core).q1 = rest ∧ t.launches = s.launches ++ [l] ∧ l.bits = v ∧ l.vf = vf ∧
        l.submitter = some core ∧ l.ndep = hdrNdep v ∧ l.unread = false ∧ l.admitted = false ∧ s.sameBytes t) ∧
    (s.closedTo vf = true ∨ headerFault v true = true →
      ∃ t, exec (.launchTake core) s = .next t ∧ (t.core core).q1 = rest ∧ t.launches = s.launches ∧ s.sameBytes t)) ∧
  (∀ (s : State) (core vf : Nat) (va : Word) (rest : List Submission), (s.core core).q1 = .header va vf :: rest →
    s.launches.length < 1024 → s.taking core = false → s.quiet core = true →
    (s.closedTo vf = true ∨ va.toNat % 64 ≠ 0 →
      ∃ t, exec (.launchTake core) s = .next t ∧ (t.core core).q1 = rest ∧ t.launches = s.launches ∧ s.sameBytes t) ∧
    (∀ bs w, s.closedTo vf = false → va.toNat % 64 = 0 →
      (s.setCore core { s.core core with q1 := rest }).readGlobal (s.dispAsker vf (some core)) [] va.toNat 64 = .ok (bs, w) →
      ∃ t l, exec (.launchTake core) s = .next t ∧ t.launches = w.launches ++ [l] ∧ l.bits = BitVec.ofNat 512 (leNat bs) ∧
        l.addr = va ∧ l.vf = vf ∧ l.submitter = some core ∧ l.ndep = hdrNdep l.bits ∧ l.unread = false ∧ l.admitted = false ∧
        w.sameBytes t)) ∧
  (∀ (s : State) (n : Nat) (l : Launch), s.launches[n]? = some l → l.unread = false → l.admitted = false → l.ndep = 0 →
    headerFault l.bits false = false → s.placesUsed + hdrNtask l.bits ≤ 4096 → l.completed = [] →
    (hdrNtask l.bits = 0 → hdrNsucc l.bits = 0 → hdrDone l.bits = 0 →
      (∀ o ∈ s.launches.take n, o.unread = false → o.admitted = false → o.ndep = 0 → hdrNtask o.bits = 0 → s.succAbsent o = true) →
      ∃ t, exec (.launchAdmit n) s = .next t ∧ t.launches = s.launches.filter (fun o => o.id != l.id) ∧ s.sameBytes t) ∧
    (∀ bs u rs w,
      (∀ o ∈ s.launches.take n, o.unread = false → o.admitted = false → o.ndep ≠ 0) →
      s.readGlobal (s.dispAsker l.vf l.submitter) l.bad (hdrSucc l.bits) (8 * hdrNsucc l.bits) = .ok (bs, u) →
      u.readRecords l 0 (hdrNtask l.bits) = .ok (rs, w) → hdrNtask l.bits ≠ 0 →
      ∃ t, exec (.launchAdmit n) s = .next t ∧ (∃ o ∈ t.launches, o.id = l.id ∧ o.admitted = true ∧ o.recs = rs.map (·.1)) ∧
        ∀ i v is, rs[i]? = some (v, is) → recField v 640 32 = 0 →
          ∃ r ∈ t.pool, r.launch = l.id ∧ r.index = i ∧ r.bits = v ∧ r.vf = l.vf ∧ r.prio = recField v 96 2)) ∧
  (∀ (s : State) (lvl dom : Nat), s.chosen = some (lvl, dom) →
    ∃ t, exec (.superstepBegin lvl dom) s = .next t ∧ (lvl, dom) ∈ t.supersteps ∧ s.sameBytes t ∧
      ∀ c ∈ domCores lvl dom, (t.core c).inStep = some (lvl, dom) ∧
        (t.core c).sysr 0x003 = BitVec.ofNat 64 (dom * 256 + lvl)) ∧
  (∀ (s : State) (core : Nat) (p : Placed),
    (let started (t : State) (k : Nat) : Prop := (t.core k).taskOn = true ∧ (t.core k).pair = recPair p.bits ∧
        (t.ctxAt k 0).run = .running ∧
        (t.ctxAt k 0).pc = BitVec.ofNat 64 (recEntry p.bits) ∧ (t.ctxAt k 0).sysr 0x030 = BitVec.ofNat 64 (recEntry p.bits) ∧
        (∀ j < 7, (t.ctxAt k 0).getG (j + 1) = BitVec.ofNat 64 (recField p.bits (128 + 64 * j) 64)) ∧
        (t.core k).sysr 0x001 = BitVec.ofNat 64 (recField p.bits 64 32) ∧ (t.ctxAt k 0).mon = false
     (recPair p.bits = false → (s.core core).share.head? = some p → (s.core core).canStart = true →
      ∃ t, exec (.taskStart core) s = .next t ∧ started t core ∧ s.sameBytes t) ∧
     (recPair p.bits = true →
      (∀ k ∈ [core / 2 * 2, core / 2 * 2 + 1], (s.core k).share.head? = some p ∧ (s.core k).canStart = true) →
      ∃ t, exec (.taskStart core) s = .next t ∧ started t (core / 2 * 2) ∧ started t (core / 2 * 2 + 1) ∧ s.sameBytes t))) ∧
  (∀ (s : State) (core : Nat), (s.core core).clearing = true →
    ∃ t, exec (.clearSequenceEnd core) s = .next t ∧ (t.core core).clearing = false ∧ (t.ctxAt core 0).run = .free ∧
      (∀ r, (t.ctxAt core 0).getG r = 0) ∧ (t.core core).x = [] ∧ (t.core core).tiles = [] ∧ s.sameBytes t)

/-- R303-R306, R353: an engine takes the command at the head of its queue and checks it; a row of a MOVE between core memories is
copied, a row of a FILL filled, the output of an EXPAND written, to both cores of a lockstep pair; a command with nothing
left leaves an event where it is asked for or refused, sets the counter to its TLV and leaves; an engine that waited for a
permit goes on once it holds it. -/
def Obligations.EngineEvents : Prop :=
  (∀ (s : State) (cluster chan : Nat) (cmd : Command) (rest : List Command),
    (let c := s.chan cluster chan
     let r := s.refusal (decide (16 ≤ cluster)) cmd
     let taken (t : State) : Prop := (t.chan cluster chan).taken = true ∧ (t.chan cluster chan).queue = { cmd with refused := r } :: rest ∧
      (t.chan cluster chan).lastTlv = some (cmdTlv cmd.bits) ∧ (t.chan cluster chan).row = 0 ∧ s.sameBytes t
     c.queue = cmd :: rest → c.taken = false → s.quiet cmd.core = true → (∀ n, c.lastTlv = some n → n < cmdTlv cmd.bits) →
     (cmdOp cmd.bits = 1 → ∃ t, exec (.move cluster chan) s = .next t ∧ taken t) ∧
     (cmdOp cmd.bits = 2 → ∃ t, exec (.fill cluster chan) s = .next t ∧ taken t) ∧
     (cmdOp cmd.bits = 3 → cluster = 16 → ∃ t, exec (.plan chan) s = .next t ∧ taken t) ∧
     (cmdOp cmd.bits = 4 → ∃ t, exec (.expand cluster chan) s = .next t ∧ taken t) ∧
     (∃ t, exec (.engineCommandComplete cluster chan) s = .next t ∧ taken t))) ∧
  (∀ (s : State) (cluster chan d : Nat) (cmd : Command) (rest : List Command) (v : BitVec 512) (vs : List (BitVec 512)),
    (let c := s.chan cluster chan
     let from_ := engineRow (cmdSrc v) (cmdSstr v) c.row
     let to_ := engineRow (cmdDst v) (cmdDstr v) c.row
     let next (t : State) : Prop := if c.row + 1 < cmdRows v then (t.chan cluster chan).row = c.row + 1 ∧ (t.chan cluster chan).plan = v :: vs
      else (t.chan cluster chan).row = 0 ∧ (t.chan cluster chan).plan = vs
     c.queue = cmd :: rest → c.plan = v :: vs → c.taken = true → c.stop = .going → s.permitted cmd v = true → cmdDkind v = 1 →
     cmdDests v = [d] →
     (cmdOp cmd.bits = 1 ∨ cmdOp cmd.bits = 3 → cmdOp v = 1 → cmdSkind v = 1 →
      ∃ t, exec (.move cluster chan) s = .next t ∧ next t ∧
        ∀ k ∈ s.pairCores d, t.bytesAt (.core k to_) (cmdBpr v) = s.bytesAt (.core (cmdScore v) from_) (cmdBpr v)) ∧
     (cmdOp cmd.bits = 2 → cmdOp v = 2 →
      ∃ t, exec (.fill cluster chan) s = .next t ∧ next t ∧
        s.sameBytesOff t ((s.pairCores d).map fun m => .core m to_) (cmdBpr v) ∧
        ∀ m ∈ s.pairCores d, ∀ k < cmdBpr v, t.byteAt (.core m (to_ + k)) = (BitVec.ofNat 32 (cmdFill v)).extractLsb' (8 * (k % 4)) 8))) ∧
  (∀ (s u : State) (cluster chan d : Nat) (cmd : Command) (rest : List Command) (v : BitVec 512) (vs : List (BitVec 512))
      (ps : List (Place × Nat)),
    (let c := s.chan cluster chan
     let x := expandBytes ((u.pieceBytes ps).map (·.1)) (xpDict cmd.bits) (xpBound cmd.bits)
     let out := x.written (xpBound cmd.bits)
     c.queue = cmd :: rest → c.plan = v :: vs → c.taken = true → c.stop = .going → cmdOp cmd.bits = 4 →
     s.permitted cmd cmd.bits = true → cmdDkind cmd.bits = 1 → cmdDests cmd.bits = [d] →
     s.operand cluster chan cmd .load 0 (cmdSrc cmd.bits) (xpDict cmd.bits + xpSlen cmd.bits) [] = .ok ([ps], u) →
     ∃ t, exec (.expand cluster chan) s = .next t ∧ (t.chan cluster chan).plan = [] ∧
      ∀ m ∈ s.pairCores d, t.bytesAt (.core m (cmdDst cmd.bits)) out.length = out)) ∧
  (∀ (s : State) (cluster chan : Nat) (cmd : Command) (rest : List Command),
    (let c := s.chan cluster chan
     let status := (cmd.refused.map BitVec.toNat).getD 0
     let done (t : State) : Prop := (t.chan cluster chan).queue = rest ∧ (t.chan cluster chan).counter = cmdTlv cmd.bits ∧
      (t.chan cluster chan).taken = false ∧ s.sameBytes t
     c.queue = cmd :: rest → c.taken = true → c.plan = [] →
     (status = 0 → cmdEvt cmd.bits = false → ∃ t, exec (.engineCommandComplete cluster chan) s = .next t ∧ done t) ∧
     (status ≠ 0 ∨ cmdEvt cmd.bits = true → cmd.posting = false → (s.core cmd.core).q0.length < 64 → (s.core cmd.core).q0Held = [] →
      ∃ t, exec (.engineCommandComplete cluster chan) s = .next t ∧ done t ∧
        (t.core cmd.core).q0 = (s.core cmd.core).q0 ++ [engineEvent cluster chan status cmd cmd.addr]))) ∧
  (∀ (s : State) (core cluster chan : Nat) (cmd : Command) (rest : List Command) (v : BitVec 512) (vs : List (BitVec 512)),
    (let c := s.chan cluster chan
     (cluster, chan) ∈ (List.range 16).flatMap clusterEngines → c.queue = cmd :: rest → c.plan = v :: vs → c.stop = .waiting none →
     core ∈ cmdCores v → s.permitted cmd v = true →
     ∃ t, exec (.permitResume core) s = .next t ∧ (t.chan cluster chan).stop = .going ∧ (t.chan cluster chan).row = c.row ∧
      s.sameBytes t))

/-- R41, R309-R311, R372: a domain that may be pre-empted stops at once, or, while a seizure of its cores is under way, the
request is kept (that a clear sequence or a capture keeps it too is the model's, log 73); drained, it goes on to its save;
saved, its cores are vacated; resumed, they hold their shares again; the scrub zeroes a core that passes to another function
and gives it its tag (that the registers which R41 does not name are reset with the rest is the model's, log 42). -/
def Obligations.PreemptionEvents : Prop :=
  ∀ (s : State) (lvl dom : Nat),
    (s.preemptible (lvl, dom) = true →
      (s.stoppable (lvl, dom) = true →
        ∃ t, exec (.forcedPreemption lvl dom) s = .next t ∧
          (∃ p ∈ t.preempts, p.lvl = lvl ∧ p.dom = dom ∧ p.phase = 1 ∧ p.save = true) ∧ s.sameBytes t ∧
          ∀ c ∈ domCores lvl dom, (t.core c).preempting = true ∧ ∀ e ∈ (t.core c).ctxs, e.2.run ≠ .holding) ∧
      (s.stoppable (lvl, dom) = false →
        ∃ t, exec (.forcedPreemption lvl dom) s = .next t ∧ (lvl, dom) ∈ t.preemptAsked ∧ t.cores = s.cores ∧
          t.preempts = s.preempts ∧ s.sameBytes t)) ∧
    (∀ p, s.preemptOf (lvl, dom) = some p →
      (p.phase = 1 → (∀ c ∈ domCores lvl dom, s.drained c = true) →
        ∃ t, exec (.preemptLogDrained lvl dom) s = .next t ∧
          (∃ q ∈ t.preempts, q.lvl = lvl ∧ q.dom = dom ∧ q.phase = 2) ∧ s.sameBytes t ∧ ∀ c ∈ domCores lvl dom, (t.core c).spe = []) ∧
      (∀ u, p.phase = 2 → (∀ c ∈ domCores lvl dom, (s.core c).seizPhase = .idle) → s.writeSaves (domCores lvl dom) = .ok u →
        ∃ t, exec (.preemptSaveDone lvl dom) s = .next t ∧
          (∃ q ∈ t.preempts, q.lvl = lvl ∧ q.dom = dom ∧ q.phase = 3 ∧ q.cores = (domCores lvl dom).map s.saveCore) ∧ u.sameBytes t ∧
          ∀ c ∈ domCores lvl dom, (t.core c).clearing = true ∧ (t.core c).share = [] ∧ (t.core c).preempting = false) ∧
      (3 ≤ p.phase → (domCores lvl dom).all s.coreFree = true → s.supersteps.any (overlapDom (lvl, dom)) = false →
        (p.cores.map (·.core)).Nodup →
        ∃ t, exec (.preemptedTaskResume lvl dom) s = .next t ∧ (lvl, dom) ∈ t.supersteps ∧
          ∀ k ∈ p.cores, (t.core k.core).inStep = some (lvl, dom) ∧ (t.core k.core).share = k.share ∧
            (t.core k.core).taskOn = k.taskOn ∧ (t.core k.core).xph = k.xph)) ∧
    (∀ core, s.mayScrub core = true →
      ∃ t, exec (.scrubEnd core) s = .next t ∧ (∀ off, t.byteAt (.core core off) = 0) ∧
        (t.core core).sysr 0x002 = BitVec.ofNat 64 (s.ownerOf core) ∧ (∀ k r, (t.ctxAt core k).getG r = 0) ∧
        (t.core core).q0 = [] ∧ (∀ e ∈ t.leaving, e.1 ≠ core))

/-- R286, R370, R373: a count that the host writes in range is taken, and one out of range only sets ERR; CFG gives a disabled
ring its size and enables it where that is 16 to 4,096 entries, and disables an enabled one, taking nothing else; an entry
that the host has put into the launch queue enters the tracker; a completion and a fault record enter their rings where there
is room. R368, R369, R379: an aligned host write of FQTOKEN, or of POWCAP in its range, takes the value, and a misaligned one
changes nothing; a BAR2 write outside the parity region puts its bytes into DRAM, and a read returns them; a read of POWCAP
returns it. -/
def Obligations.HostInterface : Prop :=
  ((∀ (s : State) (v : Nat) (n : Word), s.reachable v = true →
     (let q := s.block v
      (∃ t, exec (.lqtailWrite v n) s = .next t ∧ s.sameBytes t ∧
       (if (q.get 0x018).toNat ≤ n.toNat ∧ n.toNat ≤ (q.get 0x018).toNat + q.size 0 then (t.block v).get 0x010 = n
        else (t.block v).get 0x010 = q.get 0x010 ∧ ((t.block v).get 0x008).getLsbD 62 = true)) ∧
      (∃ t, exec (.cqheadWrite v n) s = .next t ∧ s.sameBytes t ∧
       (if (q.get 0x038).toNat ≤ n.toNat ∧ n.toNat ≤ (q.get 0x030).toNat then (t.block v).get 0x038 = n
        else (t.block v).get 0x038 = q.get 0x038 ∧ ((t.block v).get 0x028).getLsbD 62 = true)) ∧
      (∃ t, exec (.fqheadWrite v n) s = .next t ∧ s.sameBytes t ∧
       (if (q.get 0x058).toNat ≤ n.toNat ∧ n.toNat ≤ (q.get 0x050).toNat then (t.block v).get 0x058 = n
        else (t.block v).get 0x058 = q.get 0x058 ∧ ((t.block v).get 0x048).getLsbD 62 = true)))) ∧
   (∀ (s : State) (v ring : Nat) (x : Word), s.reachable v = true → ring < 3 →
     (x.getLsbD 63 = false → ∃ t, exec (.queueCfgWrite v ring x) s = .next t ∧ (t.block v).en ring = false ∧
       ((t.block v).get (ringReg ring 8)).getLsbD 62 = false ∧ s.sameBytes t ∧
       (t.block v).size ring = if (s.block v).en ring then (s.block v).size ring else 2 ^ bits x 0 4) ∧
     (x.getLsbD 63 = true → (s.block v).en ring = true →
       ∃ t, exec (.queueCfgWrite v ring x) s = .next t ∧ t.block v = s.block v ∧ s.sameBytes t) ∧
     (x.getLsbD 63 = true → (s.block v).en ring = false →
       ∃ t, exec (.queueCfgWrite v ring x) s = .next t ∧ (t.block v).en ring = (decide (4 ≤ bits x 0 4) && decide (bits x 0 4 ≤ 12)) ∧
         (t.block v).size ring = 2 ^ bits x 0 4 ∧ s.sameBytes t)) ∧
   (∀ (s u : State) (v : Nat) (bs : List Byte),
     (let q := s.block v
      let h := (q.get 0x018).toNat
      let e := Place.host (q.entry 0 h 16)
      let va := BitVec.ofNat 64 (s.numAt e 8)
      let w := s.setBlock v (q.set 0x018 (BitVec.ofNat 64 (h + 1)))
      q.en 0 = true → h < (q.get 0x010).toNat → s.launches.length < 1024 → s.numAt (e.plus 8) 8 = 0 → s.closedTo v = false →
      va.toNat % 64 = 0 → w.readGlobal (w.dispAsker v none) [] va.toNat 64 = .ok (bs, u) →
      ∃ t l, exec (.hostLaunchEntry v) s = .next t ∧ t.launches = s.launches ++ [l] ∧ l.addr = va ∧ l.vf = v ∧ l.submitter = none ∧
       l.bits = BitVec.ofNat 512 (leNat bs) ∧ (t.block v).get 0x018 = BitVec.ofNat 64 (h + 1))) ∧
   (∀ (s : State) (v : Nat) (e : Word × Word) (rest : List (Word × Word)),
     (let q := s.block v
      let at_ := Place.host (q.entry 1 (q.get 0x030).toNat 16)
      q.completions = e :: rest → q.room 1 = true →
      ∃ t, exec (.completionQueueEntry v) s = .next t ∧ t.numAt at_ 8 = e.1.toNat ∧ t.numAt (at_.plus 8) 8 = e.2.toNat ∧
       s.sameBytesBut t at_ 16 ∧ (t.block v).get 0x030 = q.get 0x030 + 1 ∧ (t.block v).completions = rest)) ∧
   (∀ (s : State) (v : Nat) (r : FaultRec) (rest : List FaultRec),
     (let q := s.block v
      let at_ := Place.host (q.entry 2 (q.get 0x050).toNat 32)
      q.faultsWaiting = r :: rest → q.room 2 = true →
      ∃ t, exec (.faultQueueRecord v) s = .next t ∧ t.bytesAt at_ 32 = r.bytes ∧ s.sameBytesBut t at_ 32 ∧
       (t.block v).get 0x050 = q.get 0x050 + 1 ∧ (t.block v).faultsWaiting = rest))) ∧
  ((∀ (s : State) (off : Nat) (x : Word) (f : Option Nat),
     (s.booted = true → ∃ t, exec (.hostRegisterWrite none 0x060 x) s = .next t ∧ (t.block 4).get 0x060 = x ∧ s.sameBytes t) ∧
     (∀ v, v < 4 → s.reachable v = true →
       ∃ t, exec (.hostRegisterWrite (some v) 0x060 x) s = .next t ∧ (t.block v).get 0x060 = x ∧ s.sameBytes t) ∧
     (s.booted = true → 40 ≤ x.toNat → x.toNat ≤ 120 →
       ∃ t, exec (.hostRegisterWrite none 0x100200 x) s = .next t ∧ t.powcap = x ∧ s.sameBytes t) ∧
     (off % 8 ≠ 0 → exec (.hostRegisterWrite f off x) s = .next s) ∧
     (s.booted = true → (s.hostRead none 0x100200 8).reads = s.reads ++ [(0x100200, s.powcap)])) ∧
   (∀ (s : State) (off n : Nat) (x : Word), s.booted = true → 0 < n → off + n ≤ 0x2000000000 → inParity off = false →
     inParity (off + n - 1) = false →
     (∃ t, exec (.bar2Access off n (some x)) s = .next t ∧ t.bytesAt (.dram off) n = leBytes n x.toNat ∧ s.sameBytesBut t (.dram off) n) ∧
     (∃ t, exec (.bar2Access off n none) s = .next t ∧ t.reads = s.reads ++ [(off, BitVec.ofNat 64 (s.numAt (.dram off) n))] ∧
       s.sameBytes t)))

/-- R347, R348, R372, R383, R384: assignment writes that overlap no other take effect; a function's reset closes it, discards its
launches and invalidates its root, drains its requests once its sent SC operations are over, scrubs its cores, and reopens it
when the leases have ended; freezing stops the clocks until a debug port that is not refused releases it; a device reset
zeroes chip time and every core. That it keeps every other byte of DRAM than the root table and the log header, but for the
sectors that L2 held dirty, and that the launches of the tracker go, are the model's (logs 33, 28 and 68). -/
def Obligations.Resets : Prop :=
  (∀ (s : State) (v : Nat) (x : Word), v ≤ 4 → s.closedTo v = false →
    (s.overlaps false v x = false → ∃ t, exec (.assignWrite v x) s = .next t ∧ tget 0 t.assign v = x ∧ t.cores = s.cores) ∧
    (s.overlaps true v (x &&& 0xFFFFFFFF) = false →
      ∃ t, exec (.rassignWrite v x) s = .next t ∧ tget 0 t.rassign v = x &&& 0xFFFFFFFF ∧ t.cores = s.cores) ∧
    (∃ t, exec (.functionLevelReset v) s = .next t ∧ (∃ r ∈ t.resets, r.vf = v ∧ r.stage = 2 ∧ r.c = s.now) ∧
      (∀ l ∈ t.launches, l.vf ≠ v) ∧ (∀ p ∈ t.pool, p.vf ≠ v) ∧ (t.dramWord (rootOf v)).getLsbD 0 = false ∧
      s.sameBytesBut t (.dram (rootOf v)) 8)) ∧
  (∀ (s : State) (v : Nat) (r : Reset),
    (s.resetAt v 2 = some r → (∀ c ∈ s.coresOf v, (s.core c).seizPhase = .idle) → s.scOwed v = false →
      ∃ t, exec (.flrDrainEnd v) s = .next t ∧ (∃ x ∈ t.resets, x.vf = v ∧ x.stage = 3) ∧
        (∀ o ∈ t.sc, o.core ∉ s.coresOf v) ∧ ∀ c ∈ s.coresOf v, ∀ e ∈ (t.core c).slog, e.vf ≠ v) ∧
    (s.resetAt v 3 = some r →
      ∃ t, exec (.flrScrubEnd v) s = .next t ∧ (∃ x ∈ t.resets, x.vf = v ∧ x.stage = 4) ∧
        ∀ c ∈ s.coresOf v, (∀ off, t.byteAt (.core c off) = 0) ∧ ∀ k n, (t.ctxAt c k).getG n = 0) ∧
    (s.resetAt v 4 = some r → r.c + 2 ^ (r.lmax + 10) + 64 ≤ s.now →
      ∃ t, exec (.flrLeaseWaitEnd v) s = .next t ∧ t.closedTo v = false)) ∧
  (∀ s : State,
    (∃ t, exec .freeze s = .next t ∧ t = { s with frozen := true }) ∧
    (s.frozen = true → s.debugOpen = true → ∃ t, exec .freezeRelease s = .next t ∧ t.frozen = false ∧ t.cores = s.cores ∧
      t.agenda = s.heldHost ++ s.agenda ∧ s.sameBytes t) ∧
    (s.debugOpen = false → exec .freezeRelease s = .next s) ∧
    (∃ t, exec .deviceReset s = .next t ∧ t.now = 0 ∧ t.flight = [] ∧ t.launches = [] ∧ (∀ n off, t.byteAt (.core n off) = 0) ∧
      (∀ n k r, (t.ctxAt n k).getG r = 0) ∧ (∀ v < 5, (t.dramWord (rootOf v)).getLsbD 0 = false) ∧
      ∀ a, (∀ v < 5, a < rootOf v ∨ rootOf v + 8 ≤ a) → (a < logHeader ∨ logHeader + 64 ≤ a) →
        (∀ e ∈ s.sectors, e.2 = true → a / 128 ≠ e.1) → t.byteAt (.dram a) = s.byteAt (.dram a)) ∧
    (s.booted = true → ∃ t, exec .vfEnable s = .next t ∧ t = { s with vfEnabled := true }))

/-- R268, R269, R343, R344, R375-R382: a DRAM sector of a row in use, clean again, is filled, poisoned, or corrected with its
error in an entry of the table; the site and the lane of an error, and the entry that it enters, are the model's (logs 28 and
35). A repair asked for begins or is declined, and one in progress uses up a spare; entries with no error for 2^40 ns are
freed; rows declared free read zero; a power setting applies to an idle core; firmware that verifies is installed into the
idle bank, and made active; ERR is set where it does not verify, and that it is clear where it does is the model's (log 18). -/
def Obligations.ServiceEvents : Prop :=
  (∀ (s : State) (pa : Nat), pa < 0x1E00000000 →
    (∃ t, exec (.dramSectorFill pa false false) s = .next t ∧ tget false t.sectors (pa / 128) = false ∧
      (∀ a, a / 128 ≠ pa / 128 → t.poisonedAt (.dram a) = s.poisonedAt (.dram a)) ∧
      t.cores = s.cores ∧ s.sameBytes t) ∧
    (tget false s.freeRows (pa / 128) = true → ∀ crc poison, exec (.dramSectorFill pa crc poison) s = exec (.dramSectorFill pa false false) s) ∧
    (tget false s.freeRows (pa / 128) = false →
      ∃ t, exec (.dramSectorFill pa false true) s = .next t ∧ t.poisonedAt (.dram pa) = true ∧ s.sameBytes t) ∧
    (let x := Config.dramSite (pa / 128 * 128)
     tget false s.freeRows (pa / 128) = false → (s.dctl (x.1 % 16)).table.length < 256 →
     ∃ t p y, exec (.dramSectorFill pa true false) s = .next t ∧ p ∈ (t.dctl (x.1 % 16)).table ∧ p.last = s.now ∧ y ∈ p.sites ∧
       y.bank = x.2.1 ∧ y.row = x.2.2.1 ∧ y.col = x.2.2.2 ∧ Config.errorLane s.fresh ∈ y.lanes)) ∧
  (∀ (s : State) (chan : Nat),
    (let d := s.dctl chan
     (∀ b r, d.repairing = some (.row b r) → ∃ t, exec (.dramRepairComplete chan) s = .next t ∧ (t.dctl chan).repairing = none ∧
      tget 0 (t.dctl chan).spareRows b = tget 0 d.spareRows b + 1) ∧
     (∀ n, d.repairing = some (.lane n) → ∃ t, exec (.dramRepairComplete chan) s = .next t ∧ (t.dctl chan).repairing = none ∧
      (t.dctl chan).spareLane = true) ∧
     (∀ r, d.asked = some r →
      (∃ t, exec (.repcmdRepair chan) s = .next t ∧ (t.dctl chan).repairing = some r ∧ (t.dctl chan).asked = none ∧
        (t.dctl chan).repreq.getLsbD 63 = false ∧ s.sameBytes t) ∧
      (∃ t, exec (.repcmdDecline chan) s = .next t ∧ (t.dctl chan).repairing = d.repairing ∧ (t.dctl chan).asked = none ∧
        (t.dctl chan).repreq.getLsbD 63 = false)) ∧
     (∃ t, exec (.classifierEntryAgeing chan) s = .next t ∧
      (∀ p, p ∈ (t.dctl chan).table ↔ p ∈ d.table ∧ s.now < p.last + 2 ^ 40) ∧ s.sameBytes t))) ∧
  (∀ (s : State) (b n : Nat), s.freeRange = some (b, n) →
    (∃ t, exec .declareFree s = .next t ∧
      ∀ x ∈ freeSectors b n, tget false t.freeRows x = true ∧ ∀ k < 128, t.byteAt (.dram (128 * x + k)) = 0) ∧
    (∃ t, exec .declareInUse s = .next t ∧ ∀ e ∈ t.freeRows, ¬(b ≤ 128 * e.1 ∧ 128 * e.1 + 128 ≤ b + n))) ∧
  (∀ (s : State) (core : Nat) (x : Word),
    (core < 64 → x.toNat < 8 → ∃ t, exec (.pwrWrite core x) s = .next t ∧ (t.core core).pwrNext = some x ∧
      (t.core core).pwr = (s.core core).pwr ∧ s.sameBytes t) ∧
    ((s.core core).pwrNext = some x → (s.core core).idleShare = true →
      (s.core core).seizPhase = .idle →
      ∃ t, exec (.powerSettingApply core) s = .next t ∧ (t.core core).pwr = x ∧ (t.core core).pwrNext = none ∧ s.sameBytes t)) ∧
  (∀ s : State,
    (s.fwBusy = false → ∃ t, exec .fwInstall s = .next t ∧ t.fwstat.getLsbD 62 = true ∧ s.sameBytes t) ∧
    (s.fwstat.getLsbD 62 = true → s.fwlen.toNat ≤ 2 ^ 24 →
      ∃ t, exec .fwInstallComplete s = .next t ∧ t.fwstat.getLsbD 62 = false ∧ t.fwstat.getLsbD 61 = !imageOk s.stagedImage ∧
        t.fwBankImage (!s.fwstat.getLsbD 63) = (if imageOk s.stagedImage then s.stagedImage else s.fwBankImage (!s.fwstat.getLsbD 63)) ∧
        t.fwBankImage (s.fwstat.getLsbD 63) = s.fwBankImage (s.fwstat.getLsbD 63)) ∧
    (s.fwBusy = false →
      ∃ t, exec .fwActivate s = .next t ∧ s.sameBytes t ∧
        (∀ n < 64, if (s.core n).share = [] ∧ (s.core n).taskOn = false
          then (t.core n).fwBank = !s.fwstat.getLsbD 63 ∧ (t.core n).fwPending = false
          else (t.core n).fwBank = (s.core n).fwBank ∧ (t.core n).fwPending = true) ∧
        ((∀ n < 64, (s.core n).share = [] ∧ (s.core n).taskOn = false) →
          (∀ n < 32, (∀ k < 4, ((s.core (64 + n)).relcfg k).getLsbD 63 = false) ∧ ∀ e ∈ (s.core (64 + n)).ctxs, e.2.fwPending = false) →
          t.fwstat.getLsbD 63 = !s.fwstat.getLsbD 63 ∧ t.fwstat.getLsbD 60 = false)))

/-- R354, R374: a primary writes its chip time into its heartbeat when it is due; it stops the domains of its running tasks that
may be saved when the period of its sets has come, and once they are drained writes their containers and lets them go on; a
spare notes a heartbeat that has advanced, sets LOST after the timeout, and restores the last set, whose number PEERSTAT
gives. The offsets 0, 8, 16 and 4096 in the ring are the model's (log 34), and that a set describes its tasks at restart
points is log 75. A load installs the object and says so, or names the step that refused it; that it waits for an absent
page, and what it reads and writes where, is log 36, and that a refusal before step 6 writes nothing is log 19. -/
def Obligations.PeerAndLoader : Prop :=
  (∀ s : State, s.peerIs false = true →
    (s.hbSent + 100000 ≤ s.now → s.now < 2 ^ 64 → ∃ t, exec .heartbeat s = .next t ∧ t.numAt (.peer s.cring.toNat) 8 = s.now ∧
      t.hbSent = s.now ∧ s.sameBytesBut t (.peer s.cring.toNat) 8) ∧
    (s.captures = [] → s.cperiod ≠ 0 → s.captured + s.cperiod.toNat * 1000000 ≤ s.now → s.captureDomains ≠ [] →
      s.captureDomains.all s.stoppable = true →
      ∃ t, exec .containerCapture s = .next t ∧ t.captured = s.now ∧ s.sameBytes t ∧
        ∀ d ∈ s.captureDomains, (∃ p ∈ t.preempts, p.lvl = d.1 ∧ p.dom = d.2 ∧ p.save = false) ∧
          ∀ c ∈ domCores d.1 d.2, (t.core c).preempting = true)) ∧
  (∀ s : State, s.captures ≠ [] → (∀ d ∈ s.captures, ∀ c ∈ domCores d.1 d.2, s.capturable c = true) →
    4096 + s.captureSet.1.length ≤ s.cringlen.toNat →
    ∃ t, exec .containerCapture s = .next t ∧ t.captures = [] ∧
      t.bytesAt (.peer (s.cring.toNat + 4096)) s.captureSet.1.length = s.captureSet.1 ∧
      t.numAt (.peer (s.cring.toNat + 8)) 8 = bits s.peerstat 0 63 + 1 ∧
      t.numAt (.peer (s.cring.toNat + 16)) 8 = s.captureSet.1.length) ∧
  (∀ s : State, s.peerIs true = true →
    (let v := s.numAt (.dram s.cring.toNat) 8
     (bits (s.readPeer 0x020) 0 63 = s.numAt (.dram (s.cring.toNat + 8)) 8 % 2 ^ 63 ∧
       (s.readPeer 0x020).getLsbD 63 = s.peerstat.getLsbD 63) ∧
     (v ≠ s.hbSeen → ∃ t, exec .peerLost s = .next t ∧ t.hbSeen = v ∧ t.hbAt = s.now ∧ t.peerstat = s.peerstat ∧ s.sameBytes t) ∧
     (v = s.hbSeen → s.hbAt + bits s.peerctl 0 32 * 1000 ≤ s.now →
      ∃ t, exec .peerLost s = .next t ∧ t.peerstat.getLsbD 63 = true ∧ s.sameBytes t) ∧
     (∀ u, s.numAt (.dram (s.cring.toNat + 8)) 8 ≠ 0 →
      s.restoreSet (s.bytesAt (.dram (s.cring.toNat + 4096)) (s.numAt (.dram (s.cring.toNat + 16)) 8)) 64 = .ok u →
      ∃ t, exec .spareTakeover s = .next t ∧ t.cores = u.cores ∧ u.sameBytes t ∧
        t.peerstat = setBit (BitVec.ofNat 64 (s.numAt (.dram (s.cring.toNat + 8)) 8)) 63 (s.peerstat.getLsbD 63)))) ∧
  (∀ (s : State) (v : Nat) (addr len base : Word),
    (let read := s.readGlobal (s.monitorAsker v) [] addr.toNat len.toNat
     (∀ e u, read = .error (e, u) → ((∃ page, e = .absent page) ∨ e = .wait) →
      ∃ t, exec (.objectLoad v addr len base) s = .next t ∧ t.loaded = s.loaded ∧ u.sameBytes t) ∧
     (∀ e u, read = .error (e, u) → (∀ page, e ≠ .absent page) → e ≠ .wait →
      ∃ t, exec (.objectLoad v addr len base) s = .next t ∧ tget 0 t.loaded v = 1 ∧ u.sameBytes t) ∧
     (∀ bs u, read = .ok (bs, u) →
      (∀ step, u.checkObject v bs base.toNat = .error step →
        ∃ t, exec (.objectLoad v addr len base) s = .next t ∧ tget 0 t.loaded v = step ∧ t.programs = u.programs ∧
          (step < 6 → u.sameBytes t)) ∧
      (∀ im, u.checkObject v bs base.toNat = .ok im →
        (∀ page, u.loadWaits v im = some page → ∃ t, exec (.objectLoad v addr len base) s = .next t ∧ t.loaded = u.loaded ∧ u.sameBytes t) ∧
        (let code := partsOf im.parts 1
         let tasks := (partsOf im.parts 9).findSome? fun e => (u.placeParts v im.parts).tasksStop v e.2
         let shapes := (partsOf im.parts 10).all fun e => shapesOk e.2
         let programs := translateAll v (u.coresAssigned v) (partsOf im.parts 12) (u.stubsTaken v) code
         u.loadWaits v im = none →
         (im.parts.filter fun p => p.1.placed).any (fun p => (u.unplaced v p.2.1 p.2.2.length).isSome) = false →
         (shapes = false ∨ tasks = some none → ∃ t, exec (.objectLoad v addr len base) s = .next t ∧ tget 0 t.loaded v = 8) ∧
         (shapes = true → tasks = none → programs = none →
          ∃ t, exec (.objectLoad v addr len base) s = .next t ∧ tget 0 t.loaded v = 9) ∧
         (∀ new, shapes = true → tasks = none → programs = some new →
          ∃ t, exec (.objectLoad v addr len base) s = .next t ∧ tget 1 t.loaded v = 0 ∧
            (tget [] t.programs v : List YProgram) = (tget [] u.programs v : List YProgram) ++ new.1))))))

/-- R14, R20, R28, R35, R379, R384: after reset the machine is well formed; every context has its general registers zero and its
generators unbound, is at monitor level, and belongs to function 4; shapes, LEASECTL and power hold the values that their
rules give; chip time is 0 and the queues are disabled. Memory that nothing has written reads zero, which is the model's
choice (log 2). -/
def Obligations.AtReset : Prop :=
  State.reset.Inv ∧ State.reset.now = 0 ∧ State.reset.powcap = 120 ∧ State.reset.thot = 95 ∧ State.reset.hold = 0 ∧
  (∀ v ring, (State.reset.block v).en ring = false) ∧
  (∀ n k, (∀ r, (State.reset.ctxAt n k).getG r = 0) ∧ (∀ r, (State.reset.ctxAt n k).getV r = 0) ∧
    (∀ r, (State.reset.ctxAt n k).getA r = 0) ∧ (∀ j, (tget {} (State.reset.ctxAt n k).streams j : Stream).bound = false) ∧
    (State.reset.ctxAt n k).mon = true ∧ (State.reset.core n).vf = 4 ∧ (∀ j < 8, (State.reset.core n).sysr (0x020 + j) = 0x1FF) ∧
    (State.reset.core n).sysr 0x111 = 0xF ∧ (State.reset.core n).pwr = 4) ∧
  ∀ p, State.reset.byteAt p = 0

/-- The invariant that every step keeps: every memory of the machine stays in its one canonical form, so that equal memories are
equal data (log 2). -/
def Obligations.StepKeepsMemoryCanonical : Prop :=
  ∀ s t : State, s.Inv → step s = .next t → t.Inv
end

