-- ==== Sys2Proof/Laws/Decode.lean ====
section
/-! SUPPORT. Framing: a frame is read back whole from its words (R71, R73), and the fields of the other formats are read back
from the base fields that hold them (R73, R74). -/

namespace Sys2Proof

/-! ### Fields of appended bits -/

theorem ext_hi {m n lo w : Nat} (x : BitVec m) (y : BitVec n) (h : n ≤ lo) :
    (x ++ y).extractLsb' lo w = x.extractLsb' (lo - n) w := by
  apply BitVec.eq_of_getLsbD_eq
  intro i hi
  simp only [BitVec.getLsbD_extractLsb', BitVec.getLsbD_append]
  rw [if_neg (by omega)]
  congr 2; omega

theorem ext_lo {m n lo w : Nat} (x : BitVec m) (y : BitVec n) (h : lo + w ≤ n) :
    (x ++ y).extractLsb' lo w = y.extractLsb' lo w := by
  apply BitVec.eq_of_getLsbD_eq
  intro i hi
  simp only [BitVec.getLsbD_extractLsb', BitVec.getLsbD_append]
  rw [if_pos (by omega)]

theorem ext_all {w : Nat} (x : BitVec w) : x.extractLsb' 0 w = x := by
  apply BitVec.eq_of_getLsbD_eq
  intro i hi
  simp [hi]

/-- Neighbouring fields of one value appended give the wider field. -/
theorem ext_join {n lo w v : Nat} (x : BitVec n) :
    (x.extractLsb' (lo + w) v ++ x.extractLsb' lo w : BitVec (v + w)) = x.extractLsb' lo (v + w) := by
  apply BitVec.eq_of_getLsbD_eq
  intro i hi
  simp only [BitVec.getLsbD_extractLsb', BitVec.getLsbD_append]
  by_cases h : i < w
  · simp [h, show i < v + w by omega]
  · simp only [h, if_false, hi, decide_true, Bool.true_and, show i - w < v by omega]
    congr 1; omega

theorem ext_ext {n a b lo w : Nat} (x : BitVec n) (h : lo + w ≤ b) :
    (x.extractLsb' a b).extractLsb' lo w = x.extractLsb' (a + lo) w := by
  apply BitVec.eq_of_getLsbD_eq
  intro i hi
  simp only [BitVec.getLsbD_extractLsb', hi, decide_true, Bool.true_and, show lo + i < b by omega]
  congr 1; omega

/-! ### The base word (R71, R73) -/

theorem Frame.word_len (f : Frame) : f.word.extractLsb' 30 2 = f.len := by
  simp (disch := decide) only [Frame.word, ext_hi, Nat.reduceSub, ext_all]

theorem Frame.word_maj (f : Frame) : f.word.extractLsb' 24 6 = f.base.maj := by
  simp (disch := decide) only [Frame.word, ext_hi, ext_lo, Nat.reduceSub, ext_all]

theorem Frame.word_base (f : Frame) : Base.ofWord f.word = f.base := by
  obtain ⟨⟨m, d, a, b, n, g⟩, e, l⟩ := f
  simp (disch := decide) only [Base.ofWord, Frame.word, ext_hi, ext_lo, Nat.reduceSub, ext_all]

theorem Frame.word_ne_zero {f : Frame} (h : f.base.maj ≠ 0) : f.word ≠ 0 := by
  intro e
  apply h
  rw [← f.word_maj, e]
  decide

/-- The frame of a frame's words is the frame, whatever words follow (R71). -/
theorem Frame.ofWords_words (f : Frame) (ws : List Half) : Frame.ofWords (f.words ++ ws) = some f := by
  have hb := f.word_base
  have hl := f.word_len
  unfold Frame.words Frame.ofWords
  simp only [List.cons_append, hl, hb]
  obtain ⟨b, e, l⟩ := f
  cases e with
  | none =>
    cases l with
    | none => simp [Frame.len]
    | some v =>
      have hv : (v.extractLsb' 32 32 ++ v.extractLsb' 0 32 : BitVec 64) = v := by
        have := ext_join (lo := 0) (w := 32) (v := 32) v
        rw [Nat.zero_add] at this
        rw [this]; exact ext_all v
      simp [Frame.len, hv]
  | some e =>
    obtain ⟨e1, e2⟩ := e
    cases l with
    | none => simp [Frame.len]
    | some v =>
      have hv : (v.extractLsb' 32 32 ++ v.extractLsb' 0 32 : BitVec 64) = v := by
        have := ext_join (lo := 0) (w := 32) (v := 32) v
        rw [Nat.zero_add] at this
        rw [this]; exact ext_all v
      simp [Frame.len, hv]

/-- LEN as a number. -/
def Frame.lenNat (f : Frame) : Nat :=
  match f.ext, f.lit with
  | none, none => 0
  | none, some _ => 1
  | some _, none => 2
  | some _, some _ => 3

theorem Frame.len_toNat (f : Frame) : f.len.toNat = f.lenNat := by
  obtain ⟨b, e, l⟩ := f
  cases e <;> cases l <;> simp [Frame.len, Frame.lenNat]

/-- Step 2 of R81 on a frame's word. -/
theorem Frame.lenOk_word (f : Frame) : lenOk f.word = (lenMask f.base.maj.toNat).getLsbD f.lenNat := by
  unfold lenOk; rw [f.word_len, f.word_maj, f.len_toNat]

/-- A frame whose major permits its length decodes to what its major's table gives (R81). -/
theorem decode_frame {f : Frame} {i : Instr} (reflex : Bool) (ws : List Half) (h0 : f.base.maj ≠ 0)
    (hl : (lenMask f.base.maj.toNat).getLsbD f.lenNat = true) (hd : (decodeMajor f reflex).run = .ok i) :
    decode reflex (f.words ++ ws) = .ok i := by
  have hw : f.words ++ ws = f.word :: (f.words.tail ++ ws) := rfl
  unfold decode
  rw [hw]
  simp only [Frame.word_ne_zero h0, if_false, Frame.lenOk_word, hl, Bool.not_true, Bool.false_eq_true]
  rw [← hw, Frame.ofWords_words]
  exact hd

theorem maj_ne {m : BitVec 6} (h : (m == 0) = false) : m ≠ 0 := by simpa using h

/-! ### Fields of the other formats (R73, R74) -/

@[simp] theorem lo3_z3 (r : Reg3) : lo3 (z3 r) = r := by
  simp (disch := decide) only [lo3, z3, ext_lo, ext_all]
@[simp] theorem hi2_z3 (r : Reg3) : hi2 (z3 r) = false := by
  simp (disch := decide) only [hi2, z3, ext_hi, Nat.reduceSub, ext_all]
  rfl
@[simp] theorem imm14_encI (maj : BitVec 6) (d a : Reg5) (i : BitVec 14) (e : Option (Half × Half)) (l : Option Word) :
    (encI maj d a i e l).base.imm14 = i := by
  simp only [encI, mkFrame, Base.imm14]
  have h1 := ext_join (lo := 3) (w := 6) (v := 5) i
  have h2 := ext_join (lo := 0) (w := 3) (v := 11) i
  simp only [Nat.reduceAdd] at h1 h2
  rw [h1, h2]
  exact ext_all i

@[simp] theorem encM_spc (maj : BitVec 6) (d a : Reg5) (s z : BitVec 2) (i : BitVec 7) (g : Reg3) (o : Option Order)
    (l : Option Word) : (encM maj d a s z i g o l).base.spc = s := by
  simp (disch := decide) only [encM, mkFrame, Base.spc, ext_hi, Nat.reduceSub, ext_all]
@[simp] theorem encM_size (maj : BitVec 6) (d a : Reg5) (s z : BitVec 2) (i : BitVec 7) (g : Reg3) (o : Option Order)
    (l : Option Word) : (encM maj d a s z i g o l).base.size = z := by
  simp (disch := decide) only [encM, mkFrame, Base.size, ext_hi, ext_lo, Nat.reduceSub, ext_all]
@[simp] theorem encM_imm7 (maj : BitVec 6) (d a : Reg5) (s z : BitVec 2) (i : BitVec 7) (g : Reg3) (o : Option Order)
    (l : Option Word) : (encM maj d a s z i g o l).base.imm7 = i := by
  simp (disch := decide) only [encM, mkFrame, Base.imm7, ext_lo]
  have h := ext_join (lo := 0) (w := 6) (v := 1) i
  rw [ext_all (i.extractLsb' 6 1)]
  simp only [Nat.zero_add, Nat.reduceAdd] at h
  rw [h]; exact ext_all i
@[simp] theorem encB_bpg (maj : BitVec 6) (g : Reg3) (v : BitVec 21) : (encB maj g v).base.bpg = g := by
  simp (disch := decide) only [encB, mkFrame, Base.bpg, ext_hi, Nat.reduceSub, ext_all]
@[simp] theorem encB_disp (maj : BitVec 6) (g : Reg3) (v : BitVec 21) : (encB maj g v).base.disp21 = v := by
  simp (disch := decide) only [encB, mkFrame, Base.disp21, ext_lo, ext_all]
  have h1 := ext_join (lo := 14) (w := 5) (v := 2) v
  have h2 := ext_join (lo := 9) (w := 5) (v := 7) v
  have h3 := ext_join (lo := 3) (w := 6) (v := 12) v
  have h4 := ext_join (lo := 0) (w := 3) (v := 18) v
  simp only [Nat.reduceAdd] at h1 h2 h3 h4
  rw [h1, h2, h3, h4]; exact ext_all v
theorem low9 (v : BitVec 9) : (v.extractLsb' 3 6 ++ v.extractLsb' 0 3 : BitVec 9) = v := by
  have h := ext_join (lo := 0) (w := 3) (v := 6) v
  simp only [Nat.zero_add, Nat.reduceAdd] at h
  rw [h]; exact ext_all v
@[simp] theorem encAt_at9 (maj : BitVec 6) (d a b : Reg5) (op : BitVec 4) (o : Order) (w p : Bool) :
    (encAt maj d a b op o w p).base.at9 = op ++ o.code ++ BitVec.ofBool w ++ BitVec.ofBool p := low9 _
@[simp] theorem encX_xd (xd xa : BitVec 8) (op : BitVec 5) (g : Reg3) (e : Option (Half × Half)) (l : Option Word) :
    (encX xd xa op g e l).base.xd = xd := by
  simp (disch := decide) only [encX, mkFrame, Base.xd, ext_hi, Nat.reduceSub, ext_all]
  have h := ext_join (lo := 0) (w := 3) (v := 5) xd
  simp only [Nat.zero_add, Nat.reduceAdd] at h
  rw [h]; exact ext_all xd
@[simp] theorem encX_xa (xd xa : BitVec 8) (op : BitVec 5) (g : Reg3) (e : Option (Half × Half)) (l : Option Word) :
    (encX xd xa op g e l).base.xa = xa := by
  simp (disch := decide) only [encX, mkFrame, Base.xa, ext_hi, ext_lo, Nat.reduceSub, ext_all]
  have h1 := ext_join (lo := 1) (w := 5) (v := 2) xa
  have h2 := ext_join (lo := 0) (w := 1) (v := 7) xa
  simp only [Nat.zero_add, Nat.reduceAdd] at h1 h2
  rw [h1, h2]; exact ext_all xa
@[simp] theorem encX_op (xd xa : BitVec 8) (op : BitVec 5) (g : Reg3) (e : Option (Half × Half)) (l : Option Word) :
    (encX xd xa op g e l).base.fn.extractLsb' 0 5 = op := by
  simp (disch := decide) only [encX, mkFrame, ext_lo, ext_all]

/-! ### Extension words (R80) -/

@[simp] theorem VExt.ofWord_word (x : VExt) : VExt.ofWord x.word = x := by
  obtain ⟨l, z⟩ := x
  cases z <;> revert l <;> decide
@[simp] theorem VExt.word_zero (x : VExt) : x.word.extractLsb' 8 24 = 0 := by
  simp (disch := decide) only [VExt.word, ext_hi, Nat.reduceSub, ext_all]
@[simp] theorem VExt.word_zero' (x : VExt) : x.word.extractLsb' 0 4 = 0 := by
  simp (disch := decide) only [VExt.word, ext_lo, ext_all]
@[simp] theorem VExt.word_zm (x : VExt) : x.word.getLsbD 4 = x.zm := by
  obtain ⟨l, z⟩ := x
  cases z <;> revert l <;> decide
@[simp] theorem VExt.word_lpzm (x : VExt) (h : x.zm = false) (h' : x.lp = 0) : x.word.extractLsb' 4 4 = 0 := by
  obtain ⟨l, z⟩ := x
  subst h; subst h'; decide
@[simp] theorem Region.ofWord_word (r : Region) : Region.ofWord r.word = r := by
  simp (disch := decide) only [Region.ofWord, Region.word, ext_hi, ext_lo, Nat.reduceSub, ext_all]
@[simp] theorem Region.word_zero (r : Region) : r.word.extractLsb' 0 5 = 0 := by
  simp (disch := decide) only [Region.word, ext_lo, ext_all]
@[simp] theorem SpeExt.ofWord_word (r : SpeExt) : SpeExt.ofWord r.word = r := by
  simp (disch := decide) only [SpeExt.ofWord, SpeExt.word, ext_hi, ext_lo, Nat.reduceSub, ext_all]
@[simp] theorem SpeExt.word_zero (r : SpeExt) : r.word.extractLsb' 0 16 = 0 := by
  simp (disch := decide) only [SpeExt.word, ext_lo, ext_all]
@[simp] theorem RepSteps.ofWords_word (r : RepSteps) : RepSteps.ofWords r.word r.apply = r := by
  simp (disch := decide) only [RepSteps.ofWords, RepSteps.word, ext_hi, ext_lo, Nat.reduceSub, ext_all]
@[simp] theorem RepSteps.word_zero (r : RepSteps) : r.word.extractLsb' 16 4 = 0 := by
  simp (disch := decide) only [RepSteps.word, ext_hi, ext_lo, Nat.reduceSub, ext_all]

end Sys2Proof
end

