-- ==== Sys2Proof/Laws/Tab.lean ====
section
/-! SUPPORT. The sparse tables: reading after writing, and the canonical form that every table operation keeps. -/

namespace Sys2Proof.Machine

variable {α : Type}

/-! ### Reading after writing -/

theorem tget_tdrop (d : α) (t : Tab α) {k j : Nat} (h : k < j) : tget d (tdrop k t) j = tget d t j := by
  induction t with
  | nil => rfl
  | cons e t ih =>
    obtain ⟨k', v⟩ := e
    by_cases hk : k' ≤ k
    · simp only [tdrop, hk, if_true, ih, tget]
      rw [if_neg (by omega), if_neg (by omega)]
    · simp only [tdrop, hk, if_false]

theorem tget_tdrop_le (d : α) (t : Tab α) {k j : Nat} (h : j ≤ k) : tget d (tdrop k t) j = d := by
  induction t with
  | nil => rfl
  | cons e t ih =>
    obtain ⟨k', v⟩ := e
    by_cases hk : k' ≤ k
    · simp only [tdrop, hk, if_true, ih]
    · simp only [tdrop, hk, if_false, tget]
      rw [if_neg (by omega), if_pos (by omega)]

/-- A key just written reads as what was written. -/
@[simp] theorem tget_tset_self [DecidableEq α] (d : α) (t : Tab α) (k : Nat) (v : α) : tget d (tset d t k v) k = v := by
  induction t with
  | nil => by_cases hv : v = d <;> simp [tset, tget, hv]
  | cons e t ih =>
    obtain ⟨k', v'⟩ := e
    rcases Nat.lt_trichotomy k k' with h | h | h
    · by_cases hv : v = d
      · simp [tset, tget, hv, h, Nat.ne_of_lt h]
      · simp [tset, tget, hv, h]
    · subst h
      by_cases hv : v = d
      · simp [tset, hv, tget_tdrop_le d t (Nat.le_refl k)]
      · simp [tset, tget, hv]
    · simp only [tset, Nat.not_lt.mpr (Nat.le_of_lt h), Nat.ne_of_gt h, if_false, tget, ih]

/-- Every other key reads as before, whatever an unlisted key reads as. -/
theorem tget_tset_ne [DecidableEq α] {d : α} (d' : α) (t : Tab α) {k j : Nat} (v : α) (hj : j ≠ k) :
    tget d' (tset d t k v) j = tget d' t j := by
  induction t with
  | nil => by_cases hv : v = d <;> simp [tset, tget, hv, hj]
  | cons e t ih =>
    obtain ⟨k', v'⟩ := e
    rcases Nat.lt_trichotomy k k' with h | h | h
    · by_cases hv : v = d
      · simp [tset, hv, h]
      · simp only [tset, h, if_true, hv, if_false, tget, hj]
        by_cases hlt : j < k
        · rw [if_pos hlt, if_neg (by omega), if_pos (by omega)]
        · rw [if_neg hlt]
    · subst h
      by_cases hv : v = d
      · simp only [tset, Nat.lt_irrefl, if_false, if_true, hv, tget, hj]
        by_cases hlt : j < k
        · rw [if_pos hlt, tget_tdrop_le d' t (Nat.le_of_lt hlt)]
        · rw [if_neg hlt, tget_tdrop d' t (by omega)]
      · simp [tset, hv, tget, hj]
    · simp only [tset, Nat.not_lt.mpr (Nat.le_of_lt h), Nat.ne_of_gt h, if_false, tget, ih]

@[simp] theorem tget_tput_self (d : α) (t : Tab α) (k : Nat) (v : α) : tget d (tput t k v) k = v := by
  induction t with
  | nil => simp [tput, tget]
  | cons e t ih =>
    obtain ⟨k', v'⟩ := e
    rcases Nat.lt_trichotomy k k' with h | h | h
    · simp [tput, tget, h]
    · subst h; simp [tput, tget]
    · simp only [tput, Nat.not_lt.mpr (Nat.le_of_lt h), Nat.ne_of_gt h, if_false, tget, ih]

theorem tget_tput_ne (d : α) (t : Tab α) {k j : Nat} (v : α) (hj : j ≠ k) : tget d (tput t k v) j = tget d t j := by
  induction t with
  | nil => by_cases hlt : j < k <;> simp [tput, tget, hj]
  | cons e t ih =>
    obtain ⟨k', v'⟩ := e
    rcases Nat.lt_trichotomy k k' with h | h | h
    · simp only [tput, h, if_true, tget, hj, if_false]
      by_cases hlt : j < k
      · rw [if_pos hlt, if_neg (by omega), if_pos (by omega)]
      · rw [if_neg hlt]
    · subst h; simp [tput, tget, hj]
    · simp only [tput, Nat.not_lt.mpr (Nat.le_of_lt h), Nat.ne_of_gt h, if_false, tget, ih]

theorem tget_tput (d : α) (t : Tab α) (k j : Nat) (v : α) : tget d (tput t k v) j = if j = k then v else tget d t j := by
  by_cases h : j = k
  · simp [h]
  · simp [h, tget_tput_ne d t v h]

theorem tget_tset [DecidableEq α] (d : α) (t : Tab α) (k j : Nat) (v : α) :
    tget d (tset d t k v) j = if j = k then v else tget d t j := by
  by_cases h : j = k
  · simp [h]
  · simp [h, tget_tset_ne d t v h]

/-- Writing twice at a key of a table of kept entries leaves the second. -/
@[simp] theorem tput_tput (t : Tab α) (k : Nat) (v w : α) : tput (tput t k v) k w = tput t k w := by
  induction t with
  | nil => simp [tput]
  | cons e t ih =>
    obtain ⟨k', v'⟩ := e
    rcases Nat.lt_trichotomy k k' with h | h | h
    · simp [tput, h]
    · subst h; simp [tput]
    · simp only [tput, Nat.not_lt.mpr (Nat.le_of_lt h), Nat.ne_of_gt h, if_false, ih]

/-! ### The canonical form -/

section Wf
variable [DecidableEq α] (d : α)

theorem twfFrom_mono {lo lo' : Nat} (h : lo' ≤ lo) : ∀ t : Tab α, twfFrom d lo t = true → twfFrom d lo' t = true
  | [], _ => rfl
  | (k, v) :: t, ht => by
    simp only [twfFrom, Bool.and_eq_true, decide_eq_true_eq] at ht ⊢
    exact ⟨⟨by omega, ht.1.2⟩, ht.2⟩

theorem twfFrom_tdrop {lo k : Nat} : ∀ t : Tab α, twfFrom d lo t = true → twfFrom d (max lo (k + 1)) (tdrop k t) = true
  | [], _ => rfl
  | (k', v) :: t, ht => by
    simp only [twfFrom, Bool.and_eq_true, decide_eq_true_eq] at ht
    by_cases hk : k' ≤ k
    · simp only [tdrop, hk, if_true]
      have := twfFrom_tdrop (k := k) t ht.2
      exact twfFrom_mono d (by omega) _ this
    · simp only [tdrop, hk, if_false, twfFrom, Bool.and_eq_true, decide_eq_true_eq]
      exact ⟨⟨by omega, ht.1.2⟩, ht.2⟩

theorem twfFrom_tset {k : Nat} (v : α) : ∀ (t : Tab α) {lo : Nat}, twfFrom d lo t = true →
    twfFrom d (min lo k) (tset d t k v) = true
  | [], lo, _ => by by_cases hv : v = d <;> simp [tset, hv, twfFrom]
  | (k', v') :: t, lo, ht => by
    have h0 := ht
    simp only [twfFrom, Bool.and_eq_true, decide_eq_true_eq] at ht
    rcases Nat.lt_trichotomy k k' with h | h | h
    · by_cases hv : v = d
      · simp only [tset, h, if_true, hv]; exact twfFrom_mono d (by omega) _ h0
      · simp only [tset, h, if_true, hv, if_false, twfFrom, Bool.and_eq_true, decide_eq_true_eq]
        exact ⟨⟨by omega, hv⟩, ⟨by omega, ht.1.2⟩, ht.2⟩
    · subst h
      by_cases hv : v = d
      · simp only [tset, Nat.lt_irrefl, if_false, if_true, hv]
        exact twfFrom_mono d (by omega) _ (twfFrom_tdrop d (k := k) t ht.2)
      · simp only [tset, Nat.lt_irrefl, if_false, if_true, hv, twfFrom, Bool.and_eq_true, decide_eq_true_eq]
        exact ⟨⟨by omega, hv⟩, ht.2⟩
    · simp only [tset, Nat.not_lt.mpr (Nat.le_of_lt h), Nat.ne_of_gt h, if_false, twfFrom, Bool.and_eq_true,
        decide_eq_true_eq]
      exact ⟨⟨by omega, ht.1.2⟩, twfFrom_mono d (by omega) _ (twfFrom_tset v t ht.2)⟩

/-- Writing one entry keeps the canonical form. -/
theorem twf_tset {t : Tab α} (k : Nat) (v : α) (h : twf d t = true) : twf d (tset d t k v) = true := by
  have := twfFrom_tset d (k := k) v t h
  rwa [Nat.zero_min] at this

/-- Writing consecutive entries keeps it. -/
theorem twf_twrites {t : Tab α} (k : Nat) (l : List α) (h : twf d t = true) : twf d (twrites d t k l) = true := by
  induction l generalizing t k with
  | nil => exact h
  | cons v vs ih => exact ih (k + 1) (twf_tset d k v h)

theorem twfFrom_filter (p : Nat × α → Bool) : ∀ (t : Tab α) {lo : Nat}, twfFrom d lo t = true →
    twfFrom d lo (t.filter p) = true
  | [], _, _ => rfl
  | e :: t, lo, ht => by
    obtain ⟨k, v⟩ := e
    simp only [twfFrom, Bool.and_eq_true, decide_eq_true_eq] at ht
    by_cases hp : p (k, v) = true
    · simp only [List.filter, hp, twfFrom, Bool.and_eq_true, decide_eq_true_eq]
      exact ⟨ht.1, twfFrom_filter p t ht.2⟩
    · simp only [List.filter, hp]
      exact twfFrom_mono d (by omega) _ (twfFrom_filter p t ht.2)

/-- Erasing a range keeps it. -/
theorem twf_terase {t : Tab α} (lo hi : Nat) (h : twf d t = true) : twf d (terase t lo hi) = true :=
  twfFrom_filter d _ t h

theorem twfFrom_append {u : Tab α} {m : Nat} : ∀ (t : Tab α) {lo : Nat}, twfFrom d lo t = true → lo ≤ m →
    (∀ e ∈ t, e.1 < m) → twfFrom d m u = true → twfFrom d lo (t ++ u) = true
  | [], lo, _, hm, _, hu => twfFrom_mono d hm _ hu
  | (k, v) :: t, lo, ht, hm, hk, hu => by
    simp only [twfFrom, Bool.and_eq_true, decide_eq_true_eq, List.cons_append] at ht ⊢
    have hlt : k < m := hk (k, v) (by simp)
    exact ⟨ht.1, twfFrom_append t ht.2 (by omega) (fun e he => hk e (by simp [he])) hu⟩

theorem twfFrom_range (f : Nat → α) : ∀ (n lo : Nat),
    twfFrom d lo (((List.range' lo n).map fun i => (i, f i)).filter fun e => decide (e.2 ≠ d)) = true
  | 0, _ => rfl
  | n + 1, lo => by
    simp only [List.range'_succ, List.map_cons]
    have ih := twfFrom_range f n (lo + 1)
    by_cases hv : f lo = d
    · simp only [List.filter, hv, ne_eq, not_true_eq_false, decide_false]
      exact twfFrom_mono d (by omega) _ ih
    · simp only [List.filter, ne_eq, hv, not_false_eq_true, decide_true, twfFrom, Bool.and_eq_true, decide_eq_true_eq]
      exact ⟨⟨Nat.le_refl _, trivial⟩, ih⟩

theorem twfFrom_filter_ge {m : Nat} : ∀ (t : Tab α) {lo : Nat}, twfFrom d lo t = true →
    twfFrom d (max lo m) (t.filter fun e => decide (m ≤ e.1)) = true
  | [], _, _ => rfl
  | (k, v) :: t, lo, ht => by
    simp only [twfFrom, Bool.and_eq_true, decide_eq_true_eq] at ht
    have ih := twfFrom_filter_ge (m := m) t ht.2
    by_cases hk : m ≤ k
    · simp only [List.filter, hk, decide_true, twfFrom, Bool.and_eq_true, decide_eq_true_eq]
      exact ⟨⟨by omega, ht.1.2⟩, twfFrom_mono d (by omega) _ ih⟩
    · simp only [List.filter, hk, decide_false]
      exact twfFrom_mono d (by omega) _ ih

/-- Filling a range keeps it. -/
theorem twf_tfill {t : Tab α} (lo n : Nat) (f : Nat → α) (h : twf d t = true) : twf d (tfill d t lo n f) = true := by
  have hr : ((List.range n).map fun i => (lo + i, f i))
      = (List.range' lo n).map fun i => (i, f (i - lo)) := by
    rw [List.range'_eq_map_range, List.map_map]
    apply List.map_congr_left
    intro i _
    simp
  unfold tfill twf
  rw [hr]
  refine twfFrom_append d (m := lo + n) _ (twfFrom_append d (m := lo) _ (twfFrom_filter d _ t h) (Nat.zero_le _) ?_
    (twfFrom_range d (fun i => f (i - lo)) n lo)) (Nat.zero_le _) ?_ ?_
  · intro e he
    simpa using (List.mem_filter.mp he).2
  · intro e he
    rcases List.mem_append.mp he with he | he
    · have : e.1 < lo := by simpa using (List.mem_filter.mp he).2
      omega
    · obtain ⟨i, hi, rfl⟩ := List.mem_map.mp (List.mem_filter.mp he).1
      have := (List.mem_range'_1.mp hi).2
      exact this
  · have := twfFrom_filter_ge d (m := lo + n) t h
    exact twfFrom_mono d (by omega) _ this

end Wf

end Sys2Proof.Machine
end

