-- ==== Sys2Proof/Laws/State.lean ====
section
/-! SUPPORT. Reading after writing, for every part of the state: one lemma per field and update, and the laws of registers. -/

namespace Sys2Proof.Machine

/-! ### Fields of the machine that an update leaves alone -/

@[simp] theorem State.setCore_now (s : State) (n : Nat) (c : CoreSt) : (s.setCore n c).now = s.now := rfl
@[simp] theorem State.setCore_frozen (s : State) (n : Nat) (c : CoreSt) : (s.setCore n c).frozen = s.frozen := rfl
@[simp] theorem State.setCore_agenda (s : State) (n : Nat) (c : CoreSt) : (s.setCore n c).agenda = s.agenda := rfl
@[simp] theorem State.setCore_elapse (s : State) (n : Nat) (c : CoreSt) : (s.setCore n c).elapse = s.elapse := rfl
@[simp] theorem State.setCore_eager (s : State) (n : Nat) (c : CoreSt) : (s.setCore n c).eager = s.eager := rfl
@[simp] theorem State.setCore_fresh (s : State) (n : Nat) (c : CoreSt) : (s.setCore n c).fresh = s.fresh := rfl
@[simp] theorem State.setCore_cur (s : State) (n : Nat) (c : CoreSt) : (s.setCore n c).cur = s.cur := rfl
@[simp] theorem State.setCore_spin (s : State) (n : Nat) (c : CoreSt) : (s.setCore n c).spin = s.spin := rfl
@[simp] theorem State.setCore_issued (s : State) (n : Nat) (c : CoreSt) : (s.setCore n c).issued = s.issued := rfl
@[simp] theorem State.setCore_polled (s : State) (n : Nat) (c : CoreSt) : (s.setCore n c).polled = s.polled := rfl
@[simp] theorem State.setCore_flight (s : State) (n : Nat) (c : CoreSt) : (s.setCore n c).flight = s.flight := rfl
@[simp] theorem State.setCore_clusters (s : State) (n : Nat) (c : CoreSt) : (s.setCore n c).clusters = s.clusters := rfl
@[simp] theorem State.setCore_skewedHomes (s : State) (n : Nat) (c : CoreSt) : (s.setCore n c).skewedHomes = s.skewedHomes := rfl
@[simp] theorem State.setCore_dram (s : State) (n : Nat) (c : CoreSt) : (s.setCore n c).dram = s.dram := rfl
@[simp] theorem State.setCore_dramBad (s : State) (n : Nat) (c : CoreSt) : (s.setCore n c).dramBad = s.dramBad := rfl
@[simp] theorem State.setCore_l2Bad (s : State) (n : Nat) (c : CoreSt) : (s.setCore n c).l2Bad = s.l2Bad := rfl
@[simp] theorem State.setCore_sectors (s : State) (n : Nat) (c : CoreSt) : (s.setCore n c).sectors = s.sectors := rfl
@[simp] theorem State.setCore_freeRows (s : State) (n : Nat) (c : CoreSt) : (s.setCore n c).freeRows = s.freeRows := rfl
@[simp] theorem State.setCore_host (s : State) (n : Nat) (c : CoreSt) : (s.setCore n c).host = s.host := rfl
@[simp] theorem State.setCore_peer (s : State) (n : Nat) (c : CoreSt) : (s.setCore n c).peer = s.peer := rfl
@[simp] theorem State.setCore_sram (s : State) (n : Nat) (c : CoreSt) : (s.setCore n c).sram = s.sram := rfl
@[simp] theorem State.setCore_sramBad (s : State) (n : Nat) (c : CoreSt) : (s.setCore n c).sramBad = s.sramBad := rfl
@[simp] theorem State.setCore_slots (s : State) (n : Nat) (c : CoreSt) : (s.setCore n c).slots = s.slots := rfl
@[simp] theorem State.setCore_mreadLast (s : State) (n : Nat) (c : CoreSt) : (s.setCore n c).mreadLast = s.mreadLast := rfl
@[simp] theorem State.setCore_pubs (s : State) (n : Nat) (c : CoreSt) : (s.setCore n c).pubs = s.pubs := rfl
@[simp] theorem State.setCore_sc (s : State) (n : Nat) (c : CoreSt) : (s.setCore n c).sc = s.sc := rfl
@[simp] theorem State.setCore_scPos (s : State) (n : Nat) (c : CoreSt) : (s.setCore n c).scPos = s.scPos := rfl
@[simp] theorem State.setCore_launches (s : State) (n : Nat) (c : CoreSt) : (s.setCore n c).launches = s.launches := rfl
@[simp] theorem State.setCore_nextLaunch (s : State) (n : Nat) (c : CoreSt) : (s.setCore n c).nextLaunch = s.nextLaunch := rfl
@[simp] theorem State.setCore_pool (s : State) (n : Nat) (c : CoreSt) : (s.setCore n c).pool = s.pool := rfl
@[simp] theorem State.setCore_entered (s : State) (n : Nat) (c : CoreSt) : (s.setCore n c).entered = s.entered := rfl
@[simp] theorem State.setCore_supersteps (s : State) (n : Nat) (c : CoreSt) : (s.setCore n c).supersteps = s.supersteps := rfl
@[simp] theorem State.setCore_arrivals (s : State) (n : Nat) (c : CoreSt) : (s.setCore n c).arrivals = s.arrivals := rfl
@[simp] theorem State.setCore_preempts (s : State) (n : Nat) (c : CoreSt) : (s.setCore n c).preempts = s.preempts := rfl
@[simp] theorem State.setCore_preemptAsked (s : State) (n : Nat) (c : CoreSt) : (s.setCore n c).preemptAsked = s.preemptAsked := rfl
@[simp] theorem State.setCore_tokens (s : State) (n : Nat) (c : CoreSt) : (s.setCore n c).tokens = s.tokens := rfl
@[simp] theorem State.setCore_merges (s : State) (n : Nat) (c : CoreSt) : (s.setCore n c).merges = s.merges := rfl
@[simp] theorem State.setCore_queues (s : State) (n : Nat) (c : CoreSt) : (s.setCore n c).queues = s.queues := rfl
@[simp] theorem State.setCore_assign (s : State) (n : Nat) (c : CoreSt) : (s.setCore n c).assign = s.assign := rfl
@[simp] theorem State.setCore_rassign (s : State) (n : Nat) (c : CoreSt) : (s.setCore n c).rassign = s.rassign := rfl
@[simp] theorem State.setCore_assignWait (s : State) (n : Nat) (c : CoreSt) : (s.setCore n c).assignWait = s.assignWait := rfl
@[simp] theorem State.setCore_leaving (s : State) (n : Nat) (c : CoreSt) : (s.setCore n c).leaving = s.leaving := rfl
@[simp] theorem State.setCore_resets (s : State) (n : Nat) (c : CoreSt) : (s.setCore n c).resets = s.resets := rfl
@[simp] theorem State.setCore_heldHost (s : State) (n : Nat) (c : CoreSt) : (s.setCore n c).heldHost = s.heldHost := rfl
@[simp] theorem State.setCore_powcap (s : State) (n : Nat) (c : CoreSt) : (s.setCore n c).powcap = s.powcap := rfl
@[simp] theorem State.setCore_thot (s : State) (n : Nat) (c : CoreSt) : (s.setCore n c).thot = s.thot := rfl
@[simp] theorem State.setCore_hold (s : State) (n : Nat) (c : CoreSt) : (s.setCore n c).hold = s.hold := rfl
@[simp] theorem State.setCore_peerctl (s : State) (n : Nat) (c : CoreSt) : (s.setCore n c).peerctl = s.peerctl := rfl
@[simp] theorem State.setCore_cperiod (s : State) (n : Nat) (c : CoreSt) : (s.setCore n c).cperiod = s.cperiod := rfl
@[simp] theorem State.setCore_cring (s : State) (n : Nat) (c : CoreSt) : (s.setCore n c).cring = s.cring := rfl
@[simp] theorem State.setCore_cringlen (s : State) (n : Nat) (c : CoreSt) : (s.setCore n c).cringlen = s.cringlen := rfl
@[simp] theorem State.setCore_peerstat (s : State) (n : Nat) (c : CoreSt) : (s.setCore n c).peerstat = s.peerstat := rfl
@[simp] theorem State.setCore_fwstat (s : State) (n : Nat) (c : CoreSt) : (s.setCore n c).fwstat = s.fwstat := rfl
@[simp] theorem State.setCore_fwlen (s : State) (n : Nat) (c : CoreSt) : (s.setCore n c).fwlen = s.fwlen := rfl
@[simp] theorem State.setCore_fwbank0 (s : State) (n : Nat) (c : CoreSt) : (s.setCore n c).fwbank0 = s.fwbank0 := rfl
@[simp] theorem State.setCore_fwbank1 (s : State) (n : Nat) (c : CoreSt) : (s.setCore n c).fwbank1 = s.fwbank1 := rfl
@[simp] theorem State.setCore_staging (s : State) (n : Nat) (c : CoreSt) : (s.setCore n c).staging = s.staging := rfl
@[simp] theorem State.setCore_freebase (s : State) (n : Nat) (c : CoreSt) : (s.setCore n c).freebase = s.freebase := rfl
@[simp] theorem State.setCore_freelen (s : State) (n : Nat) (c : CoreSt) : (s.setCore n c).freelen = s.freelen := rfl
@[simp] theorem State.setCore_drams (s : State) (n : Nat) (c : CoreSt) : (s.setCore n c).drams = s.drams := rfl
@[simp] theorem State.setCore_vfEnabled (s : State) (n : Nat) (c : CoreSt) : (s.setCore n c).vfEnabled = s.vfEnabled := rfl
@[simp] theorem State.setCore_booted (s : State) (n : Nat) (c : CoreSt) : (s.setCore n c).booted = s.booted := rfl
@[simp] theorem State.setCore_debugOpen (s : State) (n : Nat) (c : CoreSt) : (s.setCore n c).debugOpen = s.debugOpen := rfl
@[simp] theorem State.setCore_reads (s : State) (n : Nat) (c : CoreSt) : (s.setCore n c).reads = s.reads := rfl
@[simp] theorem State.setCore_hbSent (s : State) (n : Nat) (c : CoreSt) : (s.setCore n c).hbSent = s.hbSent := rfl
@[simp] theorem State.setCore_hbSeen (s : State) (n : Nat) (c : CoreSt) : (s.setCore n c).hbSeen = s.hbSeen := rfl
@[simp] theorem State.setCore_hbAt (s : State) (n : Nat) (c : CoreSt) : (s.setCore n c).hbAt = s.hbAt := rfl
@[simp] theorem State.setCore_captured (s : State) (n : Nat) (c : CoreSt) : (s.setCore n c).captured = s.captured := rfl
@[simp] theorem State.setCore_loaded (s : State) (n : Nat) (c : CoreSt) : (s.setCore n c).loaded = s.loaded := rfl
@[simp] theorem State.setCore_programs (s : State) (n : Nat) (c : CoreSt) : (s.setCore n c).programs = s.programs := rfl

@[simp] theorem State.setMe_now (s : State) (c : CoreSt) : (s.setMe c).now = s.now := rfl
@[simp] theorem State.setMe_frozen (s : State) (c : CoreSt) : (s.setMe c).frozen = s.frozen := rfl
@[simp] theorem State.setMe_agenda (s : State) (c : CoreSt) : (s.setMe c).agenda = s.agenda := rfl
@[simp] theorem State.setMe_elapse (s : State) (c : CoreSt) : (s.setMe c).elapse = s.elapse := rfl
@[simp] theorem State.setMe_eager (s : State) (c : CoreSt) : (s.setMe c).eager = s.eager := rfl
@[simp] theorem State.setMe_fresh (s : State) (c : CoreSt) : (s.setMe c).fresh = s.fresh := rfl
@[simp] theorem State.setMe_cur (s : State) (c : CoreSt) : (s.setMe c).cur = s.cur := rfl
@[simp] theorem State.setMe_spin (s : State) (c : CoreSt) : (s.setMe c).spin = s.spin := rfl
@[simp] theorem State.setMe_issued (s : State) (c : CoreSt) : (s.setMe c).issued = s.issued := rfl
@[simp] theorem State.setMe_polled (s : State) (c : CoreSt) : (s.setMe c).polled = s.polled := rfl
@[simp] theorem State.setMe_flight (s : State) (c : CoreSt) : (s.setMe c).flight = s.flight := rfl
@[simp] theorem State.setMe_clusters (s : State) (c : CoreSt) : (s.setMe c).clusters = s.clusters := rfl
@[simp] theorem State.setMe_skewedHomes (s : State) (c : CoreSt) : (s.setMe c).skewedHomes = s.skewedHomes := rfl
@[simp] theorem State.setMe_dram (s : State) (c : CoreSt) : (s.setMe c).dram = s.dram := rfl
@[simp] theorem State.setMe_dramBad (s : State) (c : CoreSt) : (s.setMe c).dramBad = s.dramBad := rfl
@[simp] theorem State.setMe_l2Bad (s : State) (c : CoreSt) : (s.setMe c).l2Bad = s.l2Bad := rfl
@[simp] theorem State.setMe_sectors (s : State) (c : CoreSt) : (s.setMe c).sectors = s.sectors := rfl
@[simp] theorem State.setMe_freeRows (s : State) (c : CoreSt) : (s.setMe c).freeRows = s.freeRows := rfl
@[simp] theorem State.setMe_host (s : State) (c : CoreSt) : (s.setMe c).host = s.host := rfl
@[simp] theorem State.setMe_peer (s : State) (c : CoreSt) : (s.setMe c).peer = s.peer := rfl
@[simp] theorem State.setMe_sram (s : State) (c : CoreSt) : (s.setMe c).sram = s.sram := rfl
@[simp] theorem State.setMe_sramBad (s : State) (c : CoreSt) : (s.setMe c).sramBad = s.sramBad := rfl
@[simp] theorem State.setMe_slots (s : State) (c : CoreSt) : (s.setMe c).slots = s.slots := rfl
@[simp] theorem State.setMe_mreadLast (s : State) (c : CoreSt) : (s.setMe c).mreadLast = s.mreadLast := rfl
@[simp] theorem State.setMe_pubs (s : State) (c : CoreSt) : (s.setMe c).pubs = s.pubs := rfl
@[simp] theorem State.setMe_sc (s : State) (c : CoreSt) : (s.setMe c).sc = s.sc := rfl
@[simp] theorem State.setMe_scPos (s : State) (c : CoreSt) : (s.setMe c).scPos = s.scPos := rfl
@[simp] theorem State.setMe_launches (s : State) (c : CoreSt) : (s.setMe c).launches = s.launches := rfl
@[simp] theorem State.setMe_nextLaunch (s : State) (c : CoreSt) : (s.setMe c).nextLaunch = s.nextLaunch := rfl
@[simp] theorem State.setMe_pool (s : State) (c : CoreSt) : (s.setMe c).pool = s.pool := rfl
@[simp] theorem State.setMe_entered (s : State) (c : CoreSt) : (s.setMe c).entered = s.entered := rfl
@[simp] theorem State.setMe_supersteps (s : State) (c : CoreSt) : (s.setMe c).supersteps = s.supersteps := rfl
@[simp] theorem State.setMe_arrivals (s : State) (c : CoreSt) : (s.setMe c).arrivals = s.arrivals := rfl
@[simp] theorem State.setMe_preempts (s : State) (c : CoreSt) : (s.setMe c).preempts = s.preempts := rfl
@[simp] theorem State.setMe_preemptAsked (s : State) (c : CoreSt) : (s.setMe c).preemptAsked = s.preemptAsked := rfl
@[simp] theorem State.setMe_tokens (s : State) (c : CoreSt) : (s.setMe c).tokens = s.tokens := rfl
@[simp] theorem State.setMe_merges (s : State) (c : CoreSt) : (s.setMe c).merges = s.merges := rfl
@[simp] theorem State.setMe_queues (s : State) (c : CoreSt) : (s.setMe c).queues = s.queues := rfl
@[simp] theorem State.setMe_assign (s : State) (c : CoreSt) : (s.setMe c).assign = s.assign := rfl
@[simp] theorem State.setMe_rassign (s : State) (c : CoreSt) : (s.setMe c).rassign = s.rassign := rfl
@[simp] theorem State.setMe_assignWait (s : State) (c : CoreSt) : (s.setMe c).assignWait = s.assignWait := rfl
@[simp] theorem State.setMe_leaving (s : State) (c : CoreSt) : (s.setMe c).leaving = s.leaving := rfl
@[simp] theorem State.setMe_resets (s : State) (c : CoreSt) : (s.setMe c).resets = s.resets := rfl
@[simp] theorem State.setMe_heldHost (s : State) (c : CoreSt) : (s.setMe c).heldHost = s.heldHost := rfl
@[simp] theorem State.setMe_powcap (s : State) (c : CoreSt) : (s.setMe c).powcap = s.powcap := rfl
@[simp] theorem State.setMe_thot (s : State) (c : CoreSt) : (s.setMe c).thot = s.thot := rfl
@[simp] theorem State.setMe_hold (s : State) (c : CoreSt) : (s.setMe c).hold = s.hold := rfl
@[simp] theorem State.setMe_peerctl (s : State) (c : CoreSt) : (s.setMe c).peerctl = s.peerctl := rfl
@[simp] theorem State.setMe_cperiod (s : State) (c : CoreSt) : (s.setMe c).cperiod = s.cperiod := rfl
@[simp] theorem State.setMe_cring (s : State) (c : CoreSt) : (s.setMe c).cring = s.cring := rfl
@[simp] theorem State.setMe_cringlen (s : State) (c : CoreSt) : (s.setMe c).cringlen = s.cringlen := rfl
@[simp] theorem State.setMe_peerstat (s : State) (c : CoreSt) : (s.setMe c).peerstat = s.peerstat := rfl
@[simp] theorem State.setMe_fwstat (s : State) (c : CoreSt) : (s.setMe c).fwstat = s.fwstat := rfl
@[simp] theorem State.setMe_fwlen (s : State) (c : CoreSt) : (s.setMe c).fwlen = s.fwlen := rfl
@[simp] theorem State.setMe_fwbank0 (s : State) (c : CoreSt) : (s.setMe c).fwbank0 = s.fwbank0 := rfl
@[simp] theorem State.setMe_fwbank1 (s : State) (c : CoreSt) : (s.setMe c).fwbank1 = s.fwbank1 := rfl
@[simp] theorem State.setMe_staging (s : State) (c : CoreSt) : (s.setMe c).staging = s.staging := rfl
@[simp] theorem State.setMe_freebase (s : State) (c : CoreSt) : (s.setMe c).freebase = s.freebase := rfl
@[simp] theorem State.setMe_freelen (s : State) (c : CoreSt) : (s.setMe c).freelen = s.freelen := rfl
@[simp] theorem State.setMe_drams (s : State) (c : CoreSt) : (s.setMe c).drams = s.drams := rfl
@[simp] theorem State.setMe_vfEnabled (s : State) (c : CoreSt) : (s.setMe c).vfEnabled = s.vfEnabled := rfl
@[simp] theorem State.setMe_booted (s : State) (c : CoreSt) : (s.setMe c).booted = s.booted := rfl
@[simp] theorem State.setMe_debugOpen (s : State) (c : CoreSt) : (s.setMe c).debugOpen = s.debugOpen := rfl
@[simp] theorem State.setMe_reads (s : State) (c : CoreSt) : (s.setMe c).reads = s.reads := rfl
@[simp] theorem State.setMe_hbSent (s : State) (c : CoreSt) : (s.setMe c).hbSent = s.hbSent := rfl
@[simp] theorem State.setMe_hbSeen (s : State) (c : CoreSt) : (s.setMe c).hbSeen = s.hbSeen := rfl
@[simp] theorem State.setMe_hbAt (s : State) (c : CoreSt) : (s.setMe c).hbAt = s.hbAt := rfl
@[simp] theorem State.setMe_captured (s : State) (c : CoreSt) : (s.setMe c).captured = s.captured := rfl
@[simp] theorem State.setMe_loaded (s : State) (c : CoreSt) : (s.setMe c).loaded = s.loaded := rfl
@[simp] theorem State.setMe_programs (s : State) (c : CoreSt) : (s.setMe c).programs = s.programs := rfl

@[simp] theorem State.setMy_now (s : State) (x : Ctx) : (s.setMy x).now = s.now := rfl
@[simp] theorem State.setMy_frozen (s : State) (x : Ctx) : (s.setMy x).frozen = s.frozen := rfl
@[simp] theorem State.setMy_agenda (s : State) (x : Ctx) : (s.setMy x).agenda = s.agenda := rfl
@[simp] theorem State.setMy_elapse (s : State) (x : Ctx) : (s.setMy x).elapse = s.elapse := rfl
@[simp] theorem State.setMy_eager (s : State) (x : Ctx) : (s.setMy x).eager = s.eager := rfl
@[simp] theorem State.setMy_fresh (s : State) (x : Ctx) : (s.setMy x).fresh = s.fresh := rfl
@[simp] theorem State.setMy_cur (s : State) (x : Ctx) : (s.setMy x).cur = s.cur := rfl
@[simp] theorem State.setMy_spin (s : State) (x : Ctx) : (s.setMy x).spin = s.spin := rfl
@[simp] theorem State.setMy_issued (s : State) (x : Ctx) : (s.setMy x).issued = s.issued := rfl
@[simp] theorem State.setMy_polled (s : State) (x : Ctx) : (s.setMy x).polled = s.polled := rfl
@[simp] theorem State.setMy_flight (s : State) (x : Ctx) : (s.setMy x).flight = s.flight := rfl
@[simp] theorem State.setMy_clusters (s : State) (x : Ctx) : (s.setMy x).clusters = s.clusters := rfl
@[simp] theorem State.setMy_skewedHomes (s : State) (x : Ctx) : (s.setMy x).skewedHomes = s.skewedHomes := rfl
@[simp] theorem State.setMy_dram (s : State) (x : Ctx) : (s.setMy x).dram = s.dram := rfl
@[simp] theorem State.setMy_dramBad (s : State) (x : Ctx) : (s.setMy x).dramBad = s.dramBad := rfl
@[simp] theorem State.setMy_l2Bad (s : State) (x : Ctx) : (s.setMy x).l2Bad = s.l2Bad := rfl
@[simp] theorem State.setMy_sectors (s : State) (x : Ctx) : (s.setMy x).sectors = s.sectors := rfl
@[simp] theorem State.setMy_freeRows (s : State) (x : Ctx) : (s.setMy x).freeRows = s.freeRows := rfl
@[simp] theorem State.setMy_host (s : State) (x : Ctx) : (s.setMy x).host = s.host := rfl
@[simp] theorem State.setMy_peer (s : State) (x : Ctx) : (s.setMy x).peer = s.peer := rfl
@[simp] theorem State.setMy_sram (s : State) (x : Ctx) : (s.setMy x).sram = s.sram := rfl
@[simp] theorem State.setMy_sramBad (s : State) (x : Ctx) : (s.setMy x).sramBad = s.sramBad := rfl
@[simp] theorem State.setMy_slots (s : State) (x : Ctx) : (s.setMy x).slots = s.slots := rfl
@[simp] theorem State.setMy_mreadLast (s : State) (x : Ctx) : (s.setMy x).mreadLast = s.mreadLast := rfl
@[simp] theorem State.setMy_pubs (s : State) (x : Ctx) : (s.setMy x).pubs = s.pubs := rfl
@[simp] theorem State.setMy_sc (s : State) (x : Ctx) : (s.setMy x).sc = s.sc := rfl
@[simp] theorem State.setMy_scPos (s : State) (x : Ctx) : (s.setMy x).scPos = s.scPos := rfl
@[simp] theorem State.setMy_launches (s : State) (x : Ctx) : (s.setMy x).launches = s.launches := rfl
@[simp] theorem State.setMy_nextLaunch (s : State) (x : Ctx) : (s.setMy x).nextLaunch = s.nextLaunch := rfl
@[simp] theorem State.setMy_pool (s : State) (x : Ctx) : (s.setMy x).pool = s.pool := rfl
@[simp] theorem State.setMy_entered (s : State) (x : Ctx) : (s.setMy x).entered = s.entered := rfl
@[simp] theorem State.setMy_supersteps (s : State) (x : Ctx) : (s.setMy x).supersteps = s.supersteps := rfl
@[simp] theorem State.setMy_arrivals (s : State) (x : Ctx) : (s.setMy x).arrivals = s.arrivals := rfl
@[simp] theorem State.setMy_preempts (s : State) (x : Ctx) : (s.setMy x).preempts = s.preempts := rfl
@[simp] theorem State.setMy_preemptAsked (s : State) (x : Ctx) : (s.setMy x).preemptAsked = s.preemptAsked := rfl
@[simp] theorem State.setMy_tokens (s : State) (x : Ctx) : (s.setMy x).tokens = s.tokens := rfl
@[simp] theorem State.setMy_merges (s : State) (x : Ctx) : (s.setMy x).merges = s.merges := rfl
@[simp] theorem State.setMy_queues (s : State) (x : Ctx) : (s.setMy x).queues = s.queues := rfl
@[simp] theorem State.setMy_assign (s : State) (x : Ctx) : (s.setMy x).assign = s.assign := rfl
@[simp] theorem State.setMy_rassign (s : State) (x : Ctx) : (s.setMy x).rassign = s.rassign := rfl
@[simp] theorem State.setMy_assignWait (s : State) (x : Ctx) : (s.setMy x).assignWait = s.assignWait := rfl
@[simp] theorem State.setMy_leaving (s : State) (x : Ctx) : (s.setMy x).leaving = s.leaving := rfl
@[simp] theorem State.setMy_resets (s : State) (x : Ctx) : (s.setMy x).resets = s.resets := rfl
@[simp] theorem State.setMy_heldHost (s : State) (x : Ctx) : (s.setMy x).heldHost = s.heldHost := rfl
@[simp] theorem State.setMy_powcap (s : State) (x : Ctx) : (s.setMy x).powcap = s.powcap := rfl
@[simp] theorem State.setMy_thot (s : State) (x : Ctx) : (s.setMy x).thot = s.thot := rfl
@[simp] theorem State.setMy_hold (s : State) (x : Ctx) : (s.setMy x).hold = s.hold := rfl
@[simp] theorem State.setMy_peerctl (s : State) (x : Ctx) : (s.setMy x).peerctl = s.peerctl := rfl
@[simp] theorem State.setMy_cperiod (s : State) (x : Ctx) : (s.setMy x).cperiod = s.cperiod := rfl
@[simp] theorem State.setMy_cring (s : State) (x : Ctx) : (s.setMy x).cring = s.cring := rfl
@[simp] theorem State.setMy_cringlen (s : State) (x : Ctx) : (s.setMy x).cringlen = s.cringlen := rfl
@[simp] theorem State.setMy_peerstat (s : State) (x : Ctx) : (s.setMy x).peerstat = s.peerstat := rfl
@[simp] theorem State.setMy_fwstat (s : State) (x : Ctx) : (s.setMy x).fwstat = s.fwstat := rfl
@[simp] theorem State.setMy_fwlen (s : State) (x : Ctx) : (s.setMy x).fwlen = s.fwlen := rfl
@[simp] theorem State.setMy_fwbank0 (s : State) (x : Ctx) : (s.setMy x).fwbank0 = s.fwbank0 := rfl
@[simp] theorem State.setMy_fwbank1 (s : State) (x : Ctx) : (s.setMy x).fwbank1 = s.fwbank1 := rfl
@[simp] theorem State.setMy_staging (s : State) (x : Ctx) : (s.setMy x).staging = s.staging := rfl
@[simp] theorem State.setMy_freebase (s : State) (x : Ctx) : (s.setMy x).freebase = s.freebase := rfl
@[simp] theorem State.setMy_freelen (s : State) (x : Ctx) : (s.setMy x).freelen = s.freelen := rfl
@[simp] theorem State.setMy_drams (s : State) (x : Ctx) : (s.setMy x).drams = s.drams := rfl
@[simp] theorem State.setMy_vfEnabled (s : State) (x : Ctx) : (s.setMy x).vfEnabled = s.vfEnabled := rfl
@[simp] theorem State.setMy_booted (s : State) (x : Ctx) : (s.setMy x).booted = s.booted := rfl
@[simp] theorem State.setMy_debugOpen (s : State) (x : Ctx) : (s.setMy x).debugOpen = s.debugOpen := rfl
@[simp] theorem State.setMy_reads (s : State) (x : Ctx) : (s.setMy x).reads = s.reads := rfl
@[simp] theorem State.setMy_hbSent (s : State) (x : Ctx) : (s.setMy x).hbSent = s.hbSent := rfl
@[simp] theorem State.setMy_hbSeen (s : State) (x : Ctx) : (s.setMy x).hbSeen = s.hbSeen := rfl
@[simp] theorem State.setMy_hbAt (s : State) (x : Ctx) : (s.setMy x).hbAt = s.hbAt := rfl
@[simp] theorem State.setMy_captured (s : State) (x : Ctx) : (s.setMy x).captured = s.captured := rfl
@[simp] theorem State.setMy_loaded (s : State) (x : Ctx) : (s.setMy x).loaded = s.loaded := rfl
@[simp] theorem State.setMy_programs (s : State) (x : Ctx) : (s.setMy x).programs = s.programs := rfl

@[simp] theorem State.setCtxAt_now (s : State) (n k : Nat) (x : Ctx) : (s.setCtxAt n k x).now = s.now := rfl
@[simp] theorem State.setCtxAt_frozen (s : State) (n k : Nat) (x : Ctx) : (s.setCtxAt n k x).frozen = s.frozen := rfl
@[simp] theorem State.setCtxAt_agenda (s : State) (n k : Nat) (x : Ctx) : (s.setCtxAt n k x).agenda = s.agenda := rfl
@[simp] theorem State.setCtxAt_elapse (s : State) (n k : Nat) (x : Ctx) : (s.setCtxAt n k x).elapse = s.elapse := rfl
@[simp] theorem State.setCtxAt_eager (s : State) (n k : Nat) (x : Ctx) : (s.setCtxAt n k x).eager = s.eager := rfl
@[simp] theorem State.setCtxAt_fresh (s : State) (n k : Nat) (x : Ctx) : (s.setCtxAt n k x).fresh = s.fresh := rfl
@[simp] theorem State.setCtxAt_cur (s : State) (n k : Nat) (x : Ctx) : (s.setCtxAt n k x).cur = s.cur := rfl
@[simp] theorem State.setCtxAt_spin (s : State) (n k : Nat) (x : Ctx) : (s.setCtxAt n k x).spin = s.spin := rfl
@[simp] theorem State.setCtxAt_issued (s : State) (n k : Nat) (x : Ctx) : (s.setCtxAt n k x).issued = s.issued := rfl
@[simp] theorem State.setCtxAt_polled (s : State) (n k : Nat) (x : Ctx) : (s.setCtxAt n k x).polled = s.polled := rfl
@[simp] theorem State.setCtxAt_flight (s : State) (n k : Nat) (x : Ctx) : (s.setCtxAt n k x).flight = s.flight := rfl
@[simp] theorem State.setCtxAt_clusters (s : State) (n k : Nat) (x : Ctx) : (s.setCtxAt n k x).clusters = s.clusters := rfl
@[simp] theorem State.setCtxAt_skewedHomes (s : State) (n k : Nat) (x : Ctx) : (s.setCtxAt n k x).skewedHomes = s.skewedHomes := rfl
@[simp] theorem State.setCtxAt_dram (s : State) (n k : Nat) (x : Ctx) : (s.setCtxAt n k x).dram = s.dram := rfl
@[simp] theorem State.setCtxAt_dramBad (s : State) (n k : Nat) (x : Ctx) : (s.setCtxAt n k x).dramBad = s.dramBad := rfl
@[simp] theorem State.setCtxAt_l2Bad (s : State) (n k : Nat) (x : Ctx) : (s.setCtxAt n k x).l2Bad = s.l2Bad := rfl
@[simp] theorem State.setCtxAt_sectors (s : State) (n k : Nat) (x : Ctx) : (s.setCtxAt n k x).sectors = s.sectors := rfl
@[simp] theorem State.setCtxAt_freeRows (s : State) (n k : Nat) (x : Ctx) : (s.setCtxAt n k x).freeRows = s.freeRows := rfl
@[simp] theorem State.setCtxAt_host (s : State) (n k : Nat) (x : Ctx) : (s.setCtxAt n k x).host = s.host := rfl
@[simp] theorem State.setCtxAt_peer (s : State) (n k : Nat) (x : Ctx) : (s.setCtxAt n k x).peer = s.peer := rfl
@[simp] theorem State.setCtxAt_sram (s : State) (n k : Nat) (x : Ctx) : (s.setCtxAt n k x).sram = s.sram := rfl
@[simp] theorem State.setCtxAt_sramBad (s : State) (n k : Nat) (x : Ctx) : (s.setCtxAt n k x).sramBad = s.sramBad := rfl
@[simp] theorem State.setCtxAt_slots (s : State) (n k : Nat) (x : Ctx) : (s.setCtxAt n k x).slots = s.slots := rfl
@[simp] theorem State.setCtxAt_mreadLast (s : State) (n k : Nat) (x : Ctx) : (s.setCtxAt n k x).mreadLast = s.mreadLast := rfl
@[simp] theorem State.setCtxAt_pubs (s : State) (n k : Nat) (x : Ctx) : (s.setCtxAt n k x).pubs = s.pubs := rfl
@[simp] theorem State.setCtxAt_sc (s : State) (n k : Nat) (x : Ctx) : (s.setCtxAt n k x).sc = s.sc := rfl
@[simp] theorem State.setCtxAt_scPos (s : State) (n k : Nat) (x : Ctx) : (s.setCtxAt n k x).scPos = s.scPos := rfl
@[simp] theorem State.setCtxAt_launches (s : State) (n k : Nat) (x : Ctx) : (s.setCtxAt n k x).launches = s.launches := rfl
@[simp] theorem State.setCtxAt_nextLaunch (s : State) (n k : Nat) (x : Ctx) : (s.setCtxAt n k x).nextLaunch = s.nextLaunch := rfl
@[simp] theorem State.setCtxAt_pool (s : State) (n k : Nat) (x : Ctx) : (s.setCtxAt n k x).pool = s.pool := rfl
@[simp] theorem State.setCtxAt_entered (s : State) (n k : Nat) (x : Ctx) : (s.setCtxAt n k x).entered = s.entered := rfl
@[simp] theorem State.setCtxAt_supersteps (s : State) (n k : Nat) (x : Ctx) : (s.setCtxAt n k x).supersteps = s.supersteps := rfl
@[simp] theorem State.setCtxAt_arrivals (s : State) (n k : Nat) (x : Ctx) : (s.setCtxAt n k x).arrivals = s.arrivals := rfl
@[simp] theorem State.setCtxAt_preempts (s : State) (n k : Nat) (x : Ctx) : (s.setCtxAt n k x).preempts = s.preempts := rfl
@[simp] theorem State.setCtxAt_preemptAsked (s : State) (n k : Nat) (x : Ctx) : (s.setCtxAt n k x).preemptAsked = s.preemptAsked := rfl
@[simp] theorem State.setCtxAt_tokens (s : State) (n k : Nat) (x : Ctx) : (s.setCtxAt n k x).tokens = s.tokens := rfl
@[simp] theorem State.setCtxAt_merges (s : State) (n k : Nat) (x : Ctx) : (s.setCtxAt n k x).merges = s.merges := rfl
@[simp] theorem State.setCtxAt_queues (s : State) (n k : Nat) (x : Ctx) : (s.setCtxAt n k x).queues = s.queues := rfl
@[simp] theorem State.setCtxAt_assign (s : State) (n k : Nat) (x : Ctx) : (s.setCtxAt n k x).assign = s.assign := rfl
@[simp] theorem State.setCtxAt_rassign (s : State) (n k : Nat) (x : Ctx) : (s.setCtxAt n k x).rassign = s.rassign := rfl
@[simp] theorem State.setCtxAt_assignWait (s : State) (n k : Nat) (x : Ctx) : (s.setCtxAt n k x).assignWait = s.assignWait := rfl
@[simp] theorem State.setCtxAt_leaving (s : State) (n k : Nat) (x : Ctx) : (s.setCtxAt n k x).leaving = s.leaving := rfl
@[simp] theorem State.setCtxAt_resets (s : State) (n k : Nat) (x : Ctx) : (s.setCtxAt n k x).resets = s.resets := rfl
@[simp] theorem State.setCtxAt_heldHost (s : State) (n k : Nat) (x : Ctx) : (s.setCtxAt n k x).heldHost = s.heldHost := rfl
@[simp] theorem State.setCtxAt_powcap (s : State) (n k : Nat) (x : Ctx) : (s.setCtxAt n k x).powcap = s.powcap := rfl
@[simp] theorem State.setCtxAt_thot (s : State) (n k : Nat) (x : Ctx) : (s.setCtxAt n k x).thot = s.thot := rfl
@[simp] theorem State.setCtxAt_hold (s : State) (n k : Nat) (x : Ctx) : (s.setCtxAt n k x).hold = s.hold := rfl
@[simp] theorem State.setCtxAt_peerctl (s : State) (n k : Nat) (x : Ctx) : (s.setCtxAt n k x).peerctl = s.peerctl := rfl
@[simp] theorem State.setCtxAt_cperiod (s : State) (n k : Nat) (x : Ctx) : (s.setCtxAt n k x).cperiod = s.cperiod := rfl
@[simp] theorem State.setCtxAt_cring (s : State) (n k : Nat) (x : Ctx) : (s.setCtxAt n k x).cring = s.cring := rfl
@[simp] theorem State.setCtxAt_cringlen (s : State) (n k : Nat) (x : Ctx) : (s.setCtxAt n k x).cringlen = s.cringlen := rfl
@[simp] theorem State.setCtxAt_peerstat (s : State) (n k : Nat) (x : Ctx) : (s.setCtxAt n k x).peerstat = s.peerstat := rfl
@[simp] theorem State.setCtxAt_fwstat (s : State) (n k : Nat) (x : Ctx) : (s.setCtxAt n k x).fwstat = s.fwstat := rfl
@[simp] theorem State.setCtxAt_fwlen (s : State) (n k : Nat) (x : Ctx) : (s.setCtxAt n k x).fwlen = s.fwlen := rfl
@[simp] theorem State.setCtxAt_fwbank0 (s : State) (n k : Nat) (x : Ctx) : (s.setCtxAt n k x).fwbank0 = s.fwbank0 := rfl
@[simp] theorem State.setCtxAt_fwbank1 (s : State) (n k : Nat) (x : Ctx) : (s.setCtxAt n k x).fwbank1 = s.fwbank1 := rfl
@[simp] theorem State.setCtxAt_staging (s : State) (n k : Nat) (x : Ctx) : (s.setCtxAt n k x).staging = s.staging := rfl
@[simp] theorem State.setCtxAt_freebase (s : State) (n k : Nat) (x : Ctx) : (s.setCtxAt n k x).freebase = s.freebase := rfl
@[simp] theorem State.setCtxAt_freelen (s : State) (n k : Nat) (x : Ctx) : (s.setCtxAt n k x).freelen = s.freelen := rfl
@[simp] theorem State.setCtxAt_drams (s : State) (n k : Nat) (x : Ctx) : (s.setCtxAt n k x).drams = s.drams := rfl
@[simp] theorem State.setCtxAt_vfEnabled (s : State) (n k : Nat) (x : Ctx) : (s.setCtxAt n k x).vfEnabled = s.vfEnabled := rfl
@[simp] theorem State.setCtxAt_booted (s : State) (n k : Nat) (x : Ctx) : (s.setCtxAt n k x).booted = s.booted := rfl
@[simp] theorem State.setCtxAt_debugOpen (s : State) (n k : Nat) (x : Ctx) : (s.setCtxAt n k x).debugOpen = s.debugOpen := rfl
@[simp] theorem State.setCtxAt_reads (s : State) (n k : Nat) (x : Ctx) : (s.setCtxAt n k x).reads = s.reads := rfl
@[simp] theorem State.setCtxAt_hbSent (s : State) (n k : Nat) (x : Ctx) : (s.setCtxAt n k x).hbSent = s.hbSent := rfl
@[simp] theorem State.setCtxAt_hbSeen (s : State) (n k : Nat) (x : Ctx) : (s.setCtxAt n k x).hbSeen = s.hbSeen := rfl
@[simp] theorem State.setCtxAt_hbAt (s : State) (n k : Nat) (x : Ctx) : (s.setCtxAt n k x).hbAt = s.hbAt := rfl
@[simp] theorem State.setCtxAt_captured (s : State) (n k : Nat) (x : Ctx) : (s.setCtxAt n k x).captured = s.captured := rfl
@[simp] theorem State.setCtxAt_loaded (s : State) (n k : Nat) (x : Ctx) : (s.setCtxAt n k x).loaded = s.loaded := rfl
@[simp] theorem State.setCtxAt_programs (s : State) (n k : Nat) (x : Ctx) : (s.setCtxAt n k x).programs = s.programs := rfl

@[simp] theorem State.at_now (s : State) (n k : Nat) : (s.at n k).now = s.now := rfl
@[simp] theorem State.at_frozen (s : State) (n k : Nat) : (s.at n k).frozen = s.frozen := rfl
@[simp] theorem State.at_agenda (s : State) (n k : Nat) : (s.at n k).agenda = s.agenda := rfl
@[simp] theorem State.at_elapse (s : State) (n k : Nat) : (s.at n k).elapse = s.elapse := rfl
@[simp] theorem State.at_eager (s : State) (n k : Nat) : (s.at n k).eager = s.eager := rfl
@[simp] theorem State.at_fresh (s : State) (n k : Nat) : (s.at n k).fresh = s.fresh := rfl
@[simp] theorem State.at_spin (s : State) (n k : Nat) : (s.at n k).spin = s.spin := rfl
@[simp] theorem State.at_issued (s : State) (n k : Nat) : (s.at n k).issued = s.issued := rfl
@[simp] theorem State.at_polled (s : State) (n k : Nat) : (s.at n k).polled = s.polled := rfl
@[simp] theorem State.at_flight (s : State) (n k : Nat) : (s.at n k).flight = s.flight := rfl
@[simp] theorem State.at_cores (s : State) (n k : Nat) : (s.at n k).cores = s.cores := rfl
@[simp] theorem State.at_clusters (s : State) (n k : Nat) : (s.at n k).clusters = s.clusters := rfl
@[simp] theorem State.at_skewedHomes (s : State) (n k : Nat) : (s.at n k).skewedHomes = s.skewedHomes := rfl
@[simp] theorem State.at_dram (s : State) (n k : Nat) : (s.at n k).dram = s.dram := rfl
@[simp] theorem State.at_dramBad (s : State) (n k : Nat) : (s.at n k).dramBad = s.dramBad := rfl
@[simp] theorem State.at_l2Bad (s : State) (n k : Nat) : (s.at n k).l2Bad = s.l2Bad := rfl
@[simp] theorem State.at_sectors (s : State) (n k : Nat) : (s.at n k).sectors = s.sectors := rfl
@[simp] theorem State.at_freeRows (s : State) (n k : Nat) : (s.at n k).freeRows = s.freeRows := rfl
@[simp] theorem State.at_host (s : State) (n k : Nat) : (s.at n k).host = s.host := rfl
@[simp] theorem State.at_peer (s : State) (n k : Nat) : (s.at n k).peer = s.peer := rfl
@[simp] theorem State.at_sram (s : State) (n k : Nat) : (s.at n k).sram = s.sram := rfl
@[simp] theorem State.at_sramBad (s : State) (n k : Nat) : (s.at n k).sramBad = s.sramBad := rfl
@[simp] theorem State.at_slots (s : State) (n k : Nat) : (s.at n k).slots = s.slots := rfl
@[simp] theorem State.at_mreadLast (s : State) (n k : Nat) : (s.at n k).mreadLast = s.mreadLast := rfl
@[simp] theorem State.at_pubs (s : State) (n k : Nat) : (s.at n k).pubs = s.pubs := rfl
@[simp] theorem State.at_sc (s : State) (n k : Nat) : (s.at n k).sc = s.sc := rfl
@[simp] theorem State.at_scPos (s : State) (n k : Nat) : (s.at n k).scPos = s.scPos := rfl
@[simp] theorem State.at_launches (s : State) (n k : Nat) : (s.at n k).launches = s.launches := rfl
@[simp] theorem State.at_nextLaunch (s : State) (n k : Nat) : (s.at n k).nextLaunch = s.nextLaunch := rfl
@[simp] theorem State.at_pool (s : State) (n k : Nat) : (s.at n k).pool = s.pool := rfl
@[simp] theorem State.at_entered (s : State) (n k : Nat) : (s.at n k).entered = s.entered := rfl
@[simp] theorem State.at_supersteps (s : State) (n k : Nat) : (s.at n k).supersteps = s.supersteps := rfl
@[simp] theorem State.at_arrivals (s : State) (n k : Nat) : (s.at n k).arrivals = s.arrivals := rfl
@[simp] theorem State.at_preempts (s : State) (n k : Nat) : (s.at n k).preempts = s.preempts := rfl
@[simp] theorem State.at_preemptAsked (s : State) (n k : Nat) : (s.at n k).preemptAsked = s.preemptAsked := rfl
@[simp] theorem State.at_tokens (s : State) (n k : Nat) : (s.at n k).tokens = s.tokens := rfl
@[simp] theorem State.at_merges (s : State) (n k : Nat) : (s.at n k).merges = s.merges := rfl
@[simp] theorem State.at_queues (s : State) (n k : Nat) : (s.at n k).queues = s.queues := rfl
@[simp] theorem State.at_assign (s : State) (n k : Nat) : (s.at n k).assign = s.assign := rfl
@[simp] theorem State.at_rassign (s : State) (n k : Nat) : (s.at n k).rassign = s.rassign := rfl
@[simp] theorem State.at_assignWait (s : State) (n k : Nat) : (s.at n k).assignWait = s.assignWait := rfl
@[simp] theorem State.at_leaving (s : State) (n k : Nat) : (s.at n k).leaving = s.leaving := rfl
@[simp] theorem State.at_resets (s : State) (n k : Nat) : (s.at n k).resets = s.resets := rfl
@[simp] theorem State.at_heldHost (s : State) (n k : Nat) : (s.at n k).heldHost = s.heldHost := rfl
@[simp] theorem State.at_powcap (s : State) (n k : Nat) : (s.at n k).powcap = s.powcap := rfl
@[simp] theorem State.at_thot (s : State) (n k : Nat) : (s.at n k).thot = s.thot := rfl
@[simp] theorem State.at_hold (s : State) (n k : Nat) : (s.at n k).hold = s.hold := rfl
@[simp] theorem State.at_peerctl (s : State) (n k : Nat) : (s.at n k).peerctl = s.peerctl := rfl
@[simp] theorem State.at_cperiod (s : State) (n k : Nat) : (s.at n k).cperiod = s.cperiod := rfl
@[simp] theorem State.at_cring (s : State) (n k : Nat) : (s.at n k).cring = s.cring := rfl
@[simp] theorem State.at_cringlen (s : State) (n k : Nat) : (s.at n k).cringlen = s.cringlen := rfl
@[simp] theorem State.at_peerstat (s : State) (n k : Nat) : (s.at n k).peerstat = s.peerstat := rfl
@[simp] theorem State.at_fwstat (s : State) (n k : Nat) : (s.at n k).fwstat = s.fwstat := rfl
@[simp] theorem State.at_fwlen (s : State) (n k : Nat) : (s.at n k).fwlen = s.fwlen := rfl
@[simp] theorem State.at_fwbank0 (s : State) (n k : Nat) : (s.at n k).fwbank0 = s.fwbank0 := rfl
@[simp] theorem State.at_fwbank1 (s : State) (n k : Nat) : (s.at n k).fwbank1 = s.fwbank1 := rfl
@[simp] theorem State.at_staging (s : State) (n k : Nat) : (s.at n k).staging = s.staging := rfl
@[simp] theorem State.at_freebase (s : State) (n k : Nat) : (s.at n k).freebase = s.freebase := rfl
@[simp] theorem State.at_freelen (s : State) (n k : Nat) : (s.at n k).freelen = s.freelen := rfl
@[simp] theorem State.at_drams (s : State) (n k : Nat) : (s.at n k).drams = s.drams := rfl
@[simp] theorem State.at_vfEnabled (s : State) (n k : Nat) : (s.at n k).vfEnabled = s.vfEnabled := rfl
@[simp] theorem State.at_booted (s : State) (n k : Nat) : (s.at n k).booted = s.booted := rfl
@[simp] theorem State.at_debugOpen (s : State) (n k : Nat) : (s.at n k).debugOpen = s.debugOpen := rfl
@[simp] theorem State.at_reads (s : State) (n k : Nat) : (s.at n k).reads = s.reads := rfl
@[simp] theorem State.at_hbSent (s : State) (n k : Nat) : (s.at n k).hbSent = s.hbSent := rfl
@[simp] theorem State.at_hbSeen (s : State) (n k : Nat) : (s.at n k).hbSeen = s.hbSeen := rfl
@[simp] theorem State.at_hbAt (s : State) (n k : Nat) : (s.at n k).hbAt = s.hbAt := rfl
@[simp] theorem State.at_captured (s : State) (n k : Nat) : (s.at n k).captured = s.captured := rfl
@[simp] theorem State.at_loaded (s : State) (n k : Nat) : (s.at n k).loaded = s.loaded := rfl
@[simp] theorem State.at_programs (s : State) (n k : Nat) : (s.at n k).programs = s.programs := rfl

@[simp] theorem State.setCluster_now (s : State) (k : Nat) (c : Cluster) : (s.setCluster k c).now = s.now := rfl
@[simp] theorem State.setCluster_frozen (s : State) (k : Nat) (c : Cluster) : (s.setCluster k c).frozen = s.frozen := rfl
@[simp] theorem State.setCluster_agenda (s : State) (k : Nat) (c : Cluster) : (s.setCluster k c).agenda = s.agenda := rfl
@[simp] theorem State.setCluster_elapse (s : State) (k : Nat) (c : Cluster) : (s.setCluster k c).elapse = s.elapse := rfl
@[simp] theorem State.setCluster_eager (s : State) (k : Nat) (c : Cluster) : (s.setCluster k c).eager = s.eager := rfl
@[simp] theorem State.setCluster_fresh (s : State) (k : Nat) (c : Cluster) : (s.setCluster k c).fresh = s.fresh := rfl
@[simp] theorem State.setCluster_cur (s : State) (k : Nat) (c : Cluster) : (s.setCluster k c).cur = s.cur := rfl
@[simp] theorem State.setCluster_spin (s : State) (k : Nat) (c : Cluster) : (s.setCluster k c).spin = s.spin := rfl
@[simp] theorem State.setCluster_issued (s : State) (k : Nat) (c : Cluster) : (s.setCluster k c).issued = s.issued := rfl
@[simp] theorem State.setCluster_polled (s : State) (k : Nat) (c : Cluster) : (s.setCluster k c).polled = s.polled := rfl
@[simp] theorem State.setCluster_flight (s : State) (k : Nat) (c : Cluster) : (s.setCluster k c).flight = s.flight := rfl
@[simp] theorem State.setCluster_cores (s : State) (k : Nat) (c : Cluster) : (s.setCluster k c).cores = s.cores := rfl
@[simp] theorem State.setCluster_skewedHomes (s : State) (k : Nat) (c : Cluster) : (s.setCluster k c).skewedHomes = s.skewedHomes := rfl
@[simp] theorem State.setCluster_dram (s : State) (k : Nat) (c : Cluster) : (s.setCluster k c).dram = s.dram := rfl
@[simp] theorem State.setCluster_dramBad (s : State) (k : Nat) (c : Cluster) : (s.setCluster k c).dramBad = s.dramBad := rfl
@[simp] theorem State.setCluster_l2Bad (s : State) (k : Nat) (c : Cluster) : (s.setCluster k c).l2Bad = s.l2Bad := rfl
@[simp] theorem State.setCluster_sectors (s : State) (k : Nat) (c : Cluster) : (s.setCluster k c).sectors = s.sectors := rfl
@[simp] theorem State.setCluster_freeRows (s : State) (k : Nat) (c : Cluster) : (s.setCluster k c).freeRows = s.freeRows := rfl
@[simp] theorem State.setCluster_host (s : State) (k : Nat) (c : Cluster) : (s.setCluster k c).host = s.host := rfl
@[simp] theorem State.setCluster_peer (s : State) (k : Nat) (c : Cluster) : (s.setCluster k c).peer = s.peer := rfl
@[simp] theorem State.setCluster_sram (s : State) (k : Nat) (c : Cluster) : (s.setCluster k c).sram = s.sram := rfl
@[simp] theorem State.setCluster_sramBad (s : State) (k : Nat) (c : Cluster) : (s.setCluster k c).sramBad = s.sramBad := rfl
@[simp] theorem State.setCluster_slots (s : State) (k : Nat) (c : Cluster) : (s.setCluster k c).slots = s.slots := rfl
@[simp] theorem State.setCluster_mreadLast (s : State) (k : Nat) (c : Cluster) : (s.setCluster k c).mreadLast = s.mreadLast := rfl
@[simp] theorem State.setCluster_pubs (s : State) (k : Nat) (c : Cluster) : (s.setCluster k c).pubs = s.pubs := rfl
@[simp] theorem State.setCluster_sc (s : State) (k : Nat) (c : Cluster) : (s.setCluster k c).sc = s.sc := rfl
@[simp] theorem State.setCluster_scPos (s : State) (k : Nat) (c : Cluster) : (s.setCluster k c).scPos = s.scPos := rfl
@[simp] theorem State.setCluster_launches (s : State) (k : Nat) (c : Cluster) : (s.setCluster k c).launches = s.launches := rfl
@[simp] theorem State.setCluster_nextLaunch (s : State) (k : Nat) (c : Cluster) : (s.setCluster k c).nextLaunch = s.nextLaunch := rfl
@[simp] theorem State.setCluster_pool (s : State) (k : Nat) (c : Cluster) : (s.setCluster k c).pool = s.pool := rfl
@[simp] theorem State.setCluster_entered (s : State) (k : Nat) (c : Cluster) : (s.setCluster k c).entered = s.entered := rfl
@[simp] theorem State.setCluster_supersteps (s : State) (k : Nat) (c : Cluster) : (s.setCluster k c).supersteps = s.supersteps := rfl
@[simp] theorem State.setCluster_arrivals (s : State) (k : Nat) (c : Cluster) : (s.setCluster k c).arrivals = s.arrivals := rfl
@[simp] theorem State.setCluster_preempts (s : State) (k : Nat) (c : Cluster) : (s.setCluster k c).preempts = s.preempts := rfl
@[simp] theorem State.setCluster_preemptAsked (s : State) (k : Nat) (c : Cluster) : (s.setCluster k c).preemptAsked = s.preemptAsked := rfl
@[simp] theorem State.setCluster_tokens (s : State) (k : Nat) (c : Cluster) : (s.setCluster k c).tokens = s.tokens := rfl
@[simp] theorem State.setCluster_merges (s : State) (k : Nat) (c : Cluster) : (s.setCluster k c).merges = s.merges := rfl
@[simp] theorem State.setCluster_queues (s : State) (k : Nat) (c : Cluster) : (s.setCluster k c).queues = s.queues := rfl
@[simp] theorem State.setCluster_assign (s : State) (k : Nat) (c : Cluster) : (s.setCluster k c).assign = s.assign := rfl
@[simp] theorem State.setCluster_rassign (s : State) (k : Nat) (c : Cluster) : (s.setCluster k c).rassign = s.rassign := rfl
@[simp] theorem State.setCluster_assignWait (s : State) (k : Nat) (c : Cluster) : (s.setCluster k c).assignWait = s.assignWait := rfl
@[simp] theorem State.setCluster_leaving (s : State) (k : Nat) (c : Cluster) : (s.setCluster k c).leaving = s.leaving := rfl
@[simp] theorem State.setCluster_resets (s : State) (k : Nat) (c : Cluster) : (s.setCluster k c).resets = s.resets := rfl
@[simp] theorem State.setCluster_heldHost (s : State) (k : Nat) (c : Cluster) : (s.setCluster k c).heldHost = s.heldHost := rfl
@[simp] theorem State.setCluster_powcap (s : State) (k : Nat) (c : Cluster) : (s.setCluster k c).powcap = s.powcap := rfl
@[simp] theorem State.setCluster_thot (s : State) (k : Nat) (c : Cluster) : (s.setCluster k c).thot = s.thot := rfl
@[simp] theorem State.setCluster_hold (s : State) (k : Nat) (c : Cluster) : (s.setCluster k c).hold = s.hold := rfl
@[simp] theorem State.setCluster_peerctl (s : State) (k : Nat) (c : Cluster) : (s.setCluster k c).peerctl = s.peerctl := rfl
@[simp] theorem State.setCluster_cperiod (s : State) (k : Nat) (c : Cluster) : (s.setCluster k c).cperiod = s.cperiod := rfl
@[simp] theorem State.setCluster_cring (s : State) (k : Nat) (c : Cluster) : (s.setCluster k c).cring = s.cring := rfl
@[simp] theorem State.setCluster_cringlen (s : State) (k : Nat) (c : Cluster) : (s.setCluster k c).cringlen = s.cringlen := rfl
@[simp] theorem State.setCluster_peerstat (s : State) (k : Nat) (c : Cluster) : (s.setCluster k c).peerstat = s.peerstat := rfl
@[simp] theorem State.setCluster_fwstat (s : State) (k : Nat) (c : Cluster) : (s.setCluster k c).fwstat = s.fwstat := rfl
@[simp] theorem State.setCluster_fwlen (s : State) (k : Nat) (c : Cluster) : (s.setCluster k c).fwlen = s.fwlen := rfl
@[simp] theorem State.setCluster_fwbank0 (s : State) (k : Nat) (c : Cluster) : (s.setCluster k c).fwbank0 = s.fwbank0 := rfl
@[simp] theorem State.setCluster_fwbank1 (s : State) (k : Nat) (c : Cluster) : (s.setCluster k c).fwbank1 = s.fwbank1 := rfl
@[simp] theorem State.setCluster_staging (s : State) (k : Nat) (c : Cluster) : (s.setCluster k c).staging = s.staging := rfl
@[simp] theorem State.setCluster_freebase (s : State) (k : Nat) (c : Cluster) : (s.setCluster k c).freebase = s.freebase := rfl
@[simp] theorem State.setCluster_freelen (s : State) (k : Nat) (c : Cluster) : (s.setCluster k c).freelen = s.freelen := rfl
@[simp] theorem State.setCluster_drams (s : State) (k : Nat) (c : Cluster) : (s.setCluster k c).drams = s.drams := rfl
@[simp] theorem State.setCluster_vfEnabled (s : State) (k : Nat) (c : Cluster) : (s.setCluster k c).vfEnabled = s.vfEnabled := rfl
@[simp] theorem State.setCluster_booted (s : State) (k : Nat) (c : Cluster) : (s.setCluster k c).booted = s.booted := rfl
@[simp] theorem State.setCluster_debugOpen (s : State) (k : Nat) (c : Cluster) : (s.setCluster k c).debugOpen = s.debugOpen := rfl
@[simp] theorem State.setCluster_reads (s : State) (k : Nat) (c : Cluster) : (s.setCluster k c).reads = s.reads := rfl
@[simp] theorem State.setCluster_hbSent (s : State) (k : Nat) (c : Cluster) : (s.setCluster k c).hbSent = s.hbSent := rfl
@[simp] theorem State.setCluster_hbSeen (s : State) (k : Nat) (c : Cluster) : (s.setCluster k c).hbSeen = s.hbSeen := rfl
@[simp] theorem State.setCluster_hbAt (s : State) (k : Nat) (c : Cluster) : (s.setCluster k c).hbAt = s.hbAt := rfl
@[simp] theorem State.setCluster_captured (s : State) (k : Nat) (c : Cluster) : (s.setCluster k c).captured = s.captured := rfl
@[simp] theorem State.setCluster_loaded (s : State) (k : Nat) (c : Cluster) : (s.setCluster k c).loaded = s.loaded := rfl
@[simp] theorem State.setCluster_programs (s : State) (k : Nat) (c : Cluster) : (s.setCluster k c).programs = s.programs := rfl

@[simp] theorem State.setSlot_now (s : State) (n : Nat) (x : Slot) : (s.setSlot n x).now = s.now := rfl
@[simp] theorem State.setSlot_frozen (s : State) (n : Nat) (x : Slot) : (s.setSlot n x).frozen = s.frozen := rfl
@[simp] theorem State.setSlot_agenda (s : State) (n : Nat) (x : Slot) : (s.setSlot n x).agenda = s.agenda := rfl
@[simp] theorem State.setSlot_elapse (s : State) (n : Nat) (x : Slot) : (s.setSlot n x).elapse = s.elapse := rfl
@[simp] theorem State.setSlot_eager (s : State) (n : Nat) (x : Slot) : (s.setSlot n x).eager = s.eager := rfl
@[simp] theorem State.setSlot_fresh (s : State) (n : Nat) (x : Slot) : (s.setSlot n x).fresh = s.fresh := rfl
@[simp] theorem State.setSlot_cur (s : State) (n : Nat) (x : Slot) : (s.setSlot n x).cur = s.cur := rfl
@[simp] theorem State.setSlot_spin (s : State) (n : Nat) (x : Slot) : (s.setSlot n x).spin = s.spin := rfl
@[simp] theorem State.setSlot_issued (s : State) (n : Nat) (x : Slot) : (s.setSlot n x).issued = s.issued := rfl
@[simp] theorem State.setSlot_polled (s : State) (n : Nat) (x : Slot) : (s.setSlot n x).polled = s.polled := rfl
@[simp] theorem State.setSlot_flight (s : State) (n : Nat) (x : Slot) : (s.setSlot n x).flight = s.flight := rfl
@[simp] theorem State.setSlot_cores (s : State) (n : Nat) (x : Slot) : (s.setSlot n x).cores = s.cores := rfl
@[simp] theorem State.setSlot_clusters (s : State) (n : Nat) (x : Slot) : (s.setSlot n x).clusters = s.clusters := rfl
@[simp] theorem State.setSlot_skewedHomes (s : State) (n : Nat) (x : Slot) : (s.setSlot n x).skewedHomes = s.skewedHomes := rfl
@[simp] theorem State.setSlot_dram (s : State) (n : Nat) (x : Slot) : (s.setSlot n x).dram = s.dram := rfl
@[simp] theorem State.setSlot_dramBad (s : State) (n : Nat) (x : Slot) : (s.setSlot n x).dramBad = s.dramBad := rfl
@[simp] theorem State.setSlot_l2Bad (s : State) (n : Nat) (x : Slot) : (s.setSlot n x).l2Bad = s.l2Bad := rfl
@[simp] theorem State.setSlot_sectors (s : State) (n : Nat) (x : Slot) : (s.setSlot n x).sectors = s.sectors := rfl
@[simp] theorem State.setSlot_freeRows (s : State) (n : Nat) (x : Slot) : (s.setSlot n x).freeRows = s.freeRows := rfl
@[simp] theorem State.setSlot_host (s : State) (n : Nat) (x : Slot) : (s.setSlot n x).host = s.host := rfl
@[simp] theorem State.setSlot_peer (s : State) (n : Nat) (x : Slot) : (s.setSlot n x).peer = s.peer := rfl
@[simp] theorem State.setSlot_sram (s : State) (n : Nat) (x : Slot) : (s.setSlot n x).sram = s.sram := rfl
@[simp] theorem State.setSlot_sramBad (s : State) (n : Nat) (x : Slot) : (s.setSlot n x).sramBad = s.sramBad := rfl
@[simp] theorem State.setSlot_mreadLast (s : State) (n : Nat) (x : Slot) : (s.setSlot n x).mreadLast = s.mreadLast := rfl
@[simp] theorem State.setSlot_pubs (s : State) (n : Nat) (x : Slot) : (s.setSlot n x).pubs = s.pubs := rfl
@[simp] theorem State.setSlot_sc (s : State) (n : Nat) (x : Slot) : (s.setSlot n x).sc = s.sc := rfl
@[simp] theorem State.setSlot_scPos (s : State) (n : Nat) (x : Slot) : (s.setSlot n x).scPos = s.scPos := rfl
@[simp] theorem State.setSlot_launches (s : State) (n : Nat) (x : Slot) : (s.setSlot n x).launches = s.launches := rfl
@[simp] theorem State.setSlot_nextLaunch (s : State) (n : Nat) (x : Slot) : (s.setSlot n x).nextLaunch = s.nextLaunch := rfl
@[simp] theorem State.setSlot_pool (s : State) (n : Nat) (x : Slot) : (s.setSlot n x).pool = s.pool := rfl
@[simp] theorem State.setSlot_entered (s : State) (n : Nat) (x : Slot) : (s.setSlot n x).entered = s.entered := rfl
@[simp] theorem State.setSlot_supersteps (s : State) (n : Nat) (x : Slot) : (s.setSlot n x).supersteps = s.supersteps := rfl
@[simp] theorem State.setSlot_arrivals (s : State) (n : Nat) (x : Slot) : (s.setSlot n x).arrivals = s.arrivals := rfl
@[simp] theorem State.setSlot_preempts (s : State) (n : Nat) (x : Slot) : (s.setSlot n x).preempts = s.preempts := rfl
@[simp] theorem State.setSlot_preemptAsked (s : State) (n : Nat) (x : Slot) : (s.setSlot n x).preemptAsked = s.preemptAsked := rfl
@[simp] theorem State.setSlot_tokens (s : State) (n : Nat) (x : Slot) : (s.setSlot n x).tokens = s.tokens := rfl
@[simp] theorem State.setSlot_merges (s : State) (n : Nat) (x : Slot) : (s.setSlot n x).merges = s.merges := rfl
@[simp] theorem State.setSlot_queues (s : State) (n : Nat) (x : Slot) : (s.setSlot n x).queues = s.queues := rfl
@[simp] theorem State.setSlot_assign (s : State) (n : Nat) (x : Slot) : (s.setSlot n x).assign = s.assign := rfl
@[simp] theorem State.setSlot_rassign (s : State) (n : Nat) (x : Slot) : (s.setSlot n x).rassign = s.rassign := rfl
@[simp] theorem State.setSlot_assignWait (s : State) (n : Nat) (x : Slot) : (s.setSlot n x).assignWait = s.assignWait := rfl
@[simp] theorem State.setSlot_leaving (s : State) (n : Nat) (x : Slot) : (s.setSlot n x).leaving = s.leaving := rfl
@[simp] theorem State.setSlot_resets (s : State) (n : Nat) (x : Slot) : (s.setSlot n x).resets = s.resets := rfl
@[simp] theorem State.setSlot_heldHost (s : State) (n : Nat) (x : Slot) : (s.setSlot n x).heldHost = s.heldHost := rfl
@[simp] theorem State.setSlot_powcap (s : State) (n : Nat) (x : Slot) : (s.setSlot n x).powcap = s.powcap := rfl
@[simp] theorem State.setSlot_thot (s : State) (n : Nat) (x : Slot) : (s.setSlot n x).thot = s.thot := rfl
@[simp] theorem State.setSlot_hold (s : State) (n : Nat) (x : Slot) : (s.setSlot n x).hold = s.hold := rfl
@[simp] theorem State.setSlot_peerctl (s : State) (n : Nat) (x : Slot) : (s.setSlot n x).peerctl = s.peerctl := rfl
@[simp] theorem State.setSlot_cperiod (s : State) (n : Nat) (x : Slot) : (s.setSlot n x).cperiod = s.cperiod := rfl
@[simp] theorem State.setSlot_cring (s : State) (n : Nat) (x : Slot) : (s.setSlot n x).cring = s.cring := rfl
@[simp] theorem State.setSlot_cringlen (s : State) (n : Nat) (x : Slot) : (s.setSlot n x).cringlen = s.cringlen := rfl
@[simp] theorem State.setSlot_peerstat (s : State) (n : Nat) (x : Slot) : (s.setSlot n x).peerstat = s.peerstat := rfl
@[simp] theorem State.setSlot_fwstat (s : State) (n : Nat) (x : Slot) : (s.setSlot n x).fwstat = s.fwstat := rfl
@[simp] theorem State.setSlot_fwlen (s : State) (n : Nat) (x : Slot) : (s.setSlot n x).fwlen = s.fwlen := rfl
@[simp] theorem State.setSlot_fwbank0 (s : State) (n : Nat) (x : Slot) : (s.setSlot n x).fwbank0 = s.fwbank0 := rfl
@[simp] theorem State.setSlot_fwbank1 (s : State) (n : Nat) (x : Slot) : (s.setSlot n x).fwbank1 = s.fwbank1 := rfl
@[simp] theorem State.setSlot_staging (s : State) (n : Nat) (x : Slot) : (s.setSlot n x).staging = s.staging := rfl
@[simp] theorem State.setSlot_freebase (s : State) (n : Nat) (x : Slot) : (s.setSlot n x).freebase = s.freebase := rfl
@[simp] theorem State.setSlot_freelen (s : State) (n : Nat) (x : Slot) : (s.setSlot n x).freelen = s.freelen := rfl
@[simp] theorem State.setSlot_drams (s : State) (n : Nat) (x : Slot) : (s.setSlot n x).drams = s.drams := rfl
@[simp] theorem State.setSlot_vfEnabled (s : State) (n : Nat) (x : Slot) : (s.setSlot n x).vfEnabled = s.vfEnabled := rfl
@[simp] theorem State.setSlot_booted (s : State) (n : Nat) (x : Slot) : (s.setSlot n x).booted = s.booted := rfl
@[simp] theorem State.setSlot_debugOpen (s : State) (n : Nat) (x : Slot) : (s.setSlot n x).debugOpen = s.debugOpen := rfl
@[simp] theorem State.setSlot_reads (s : State) (n : Nat) (x : Slot) : (s.setSlot n x).reads = s.reads := rfl
@[simp] theorem State.setSlot_hbSent (s : State) (n : Nat) (x : Slot) : (s.setSlot n x).hbSent = s.hbSent := rfl
@[simp] theorem State.setSlot_hbSeen (s : State) (n : Nat) (x : Slot) : (s.setSlot n x).hbSeen = s.hbSeen := rfl
@[simp] theorem State.setSlot_hbAt (s : State) (n : Nat) (x : Slot) : (s.setSlot n x).hbAt = s.hbAt := rfl
@[simp] theorem State.setSlot_captured (s : State) (n : Nat) (x : Slot) : (s.setSlot n x).captured = s.captured := rfl
@[simp] theorem State.setSlot_loaded (s : State) (n : Nat) (x : Slot) : (s.setSlot n x).loaded = s.loaded := rfl
@[simp] theorem State.setSlot_programs (s : State) (n : Nat) (x : Slot) : (s.setSlot n x).programs = s.programs := rfl

@[simp] theorem State.setG_now (s : State) (r : Reg5) (v : Word) : (s.setG r v).now = s.now := rfl
@[simp] theorem State.setG_frozen (s : State) (r : Reg5) (v : Word) : (s.setG r v).frozen = s.frozen := rfl
@[simp] theorem State.setG_agenda (s : State) (r : Reg5) (v : Word) : (s.setG r v).agenda = s.agenda := rfl
@[simp] theorem State.setG_elapse (s : State) (r : Reg5) (v : Word) : (s.setG r v).elapse = s.elapse := rfl
@[simp] theorem State.setG_eager (s : State) (r : Reg5) (v : Word) : (s.setG r v).eager = s.eager := rfl
@[simp] theorem State.setG_fresh (s : State) (r : Reg5) (v : Word) : (s.setG r v).fresh = s.fresh := rfl
@[simp] theorem State.setG_cur (s : State) (r : Reg5) (v : Word) : (s.setG r v).cur = s.cur := rfl
@[simp] theorem State.setG_spin (s : State) (r : Reg5) (v : Word) : (s.setG r v).spin = s.spin := rfl
@[simp] theorem State.setG_issued (s : State) (r : Reg5) (v : Word) : (s.setG r v).issued = s.issued := rfl
@[simp] theorem State.setG_polled (s : State) (r : Reg5) (v : Word) : (s.setG r v).polled = s.polled := rfl
@[simp] theorem State.setG_flight (s : State) (r : Reg5) (v : Word) : (s.setG r v).flight = s.flight := rfl
@[simp] theorem State.setG_clusters (s : State) (r : Reg5) (v : Word) : (s.setG r v).clusters = s.clusters := rfl
@[simp] theorem State.setG_skewedHomes (s : State) (r : Reg5) (v : Word) : (s.setG r v).skewedHomes = s.skewedHomes := rfl
@[simp] theorem State.setG_dram (s : State) (r : Reg5) (v : Word) : (s.setG r v).dram = s.dram := rfl
@[simp] theorem State.setG_dramBad (s : State) (r : Reg5) (v : Word) : (s.setG r v).dramBad = s.dramBad := rfl
@[simp] theorem State.setG_l2Bad (s : State) (r : Reg5) (v : Word) : (s.setG r v).l2Bad = s.l2Bad := rfl
@[simp] theorem State.setG_sectors (s : State) (r : Reg5) (v : Word) : (s.setG r v).sectors = s.sectors := rfl
@[simp] theorem State.setG_freeRows (s : State) (r : Reg5) (v : Word) : (s.setG r v).freeRows = s.freeRows := rfl
@[simp] theorem State.setG_host (s : State) (r : Reg5) (v : Word) : (s.setG r v).host = s.host := rfl
@[simp] theorem State.setG_peer (s : State) (r : Reg5) (v : Word) : (s.setG r v).peer = s.peer := rfl
@[simp] theorem State.setG_sram (s : State) (r : Reg5) (v : Word) : (s.setG r v).sram = s.sram := rfl
@[simp] theorem State.setG_sramBad (s : State) (r : Reg5) (v : Word) : (s.setG r v).sramBad = s.sramBad := rfl
@[simp] theorem State.setG_slots (s : State) (r : Reg5) (v : Word) : (s.setG r v).slots = s.slots := rfl
@[simp] theorem State.setG_mreadLast (s : State) (r : Reg5) (v : Word) : (s.setG r v).mreadLast = s.mreadLast := rfl
@[simp] theorem State.setG_pubs (s : State) (r : Reg5) (v : Word) : (s.setG r v).pubs = s.pubs := rfl
@[simp] theorem State.setG_sc (s : State) (r : Reg5) (v : Word) : (s.setG r v).sc = s.sc := rfl
@[simp] theorem State.setG_scPos (s : State) (r : Reg5) (v : Word) : (s.setG r v).scPos = s.scPos := rfl
@[simp] theorem State.setG_launches (s : State) (r : Reg5) (v : Word) : (s.setG r v).launches = s.launches := rfl
@[simp] theorem State.setG_nextLaunch (s : State) (r : Reg5) (v : Word) : (s.setG r v).nextLaunch = s.nextLaunch := rfl
@[simp] theorem State.setG_pool (s : State) (r : Reg5) (v : Word) : (s.setG r v).pool = s.pool := rfl
@[simp] theorem State.setG_entered (s : State) (r : Reg5) (v : Word) : (s.setG r v).entered = s.entered := rfl
@[simp] theorem State.setG_supersteps (s : State) (r : Reg5) (v : Word) : (s.setG r v).supersteps = s.supersteps := rfl
@[simp] theorem State.setG_arrivals (s : State) (r : Reg5) (v : Word) : (s.setG r v).arrivals = s.arrivals := rfl
@[simp] theorem State.setG_preempts (s : State) (r : Reg5) (v : Word) : (s.setG r v).preempts = s.preempts := rfl
@[simp] theorem State.setG_preemptAsked (s : State) (r : Reg5) (v : Word) : (s.setG r v).preemptAsked = s.preemptAsked := rfl
@[simp] theorem State.setG_tokens (s : State) (r : Reg5) (v : Word) : (s.setG r v).tokens = s.tokens := rfl
@[simp] theorem State.setG_merges (s : State) (r : Reg5) (v : Word) : (s.setG r v).merges = s.merges := rfl
@[simp] theorem State.setG_queues (s : State) (r : Reg5) (v : Word) : (s.setG r v).queues = s.queues := rfl
@[simp] theorem State.setG_assign (s : State) (r : Reg5) (v : Word) : (s.setG r v).assign = s.assign := rfl
@[simp] theorem State.setG_rassign (s : State) (r : Reg5) (v : Word) : (s.setG r v).rassign = s.rassign := rfl
@[simp] theorem State.setG_assignWait (s : State) (r : Reg5) (v : Word) : (s.setG r v).assignWait = s.assignWait := rfl
@[simp] theorem State.setG_leaving (s : State) (r : Reg5) (v : Word) : (s.setG r v).leaving = s.leaving := rfl
@[simp] theorem State.setG_resets (s : State) (r : Reg5) (v : Word) : (s.setG r v).resets = s.resets := rfl
@[simp] theorem State.setG_heldHost (s : State) (r : Reg5) (v : Word) : (s.setG r v).heldHost = s.heldHost := rfl
@[simp] theorem State.setG_powcap (s : State) (r : Reg5) (v : Word) : (s.setG r v).powcap = s.powcap := rfl
@[simp] theorem State.setG_thot (s : State) (r : Reg5) (v : Word) : (s.setG r v).thot = s.thot := rfl
@[simp] theorem State.setG_hold (s : State) (r : Reg5) (v : Word) : (s.setG r v).hold = s.hold := rfl
@[simp] theorem State.setG_peerctl (s : State) (r : Reg5) (v : Word) : (s.setG r v).peerctl = s.peerctl := rfl
@[simp] theorem State.setG_cperiod (s : State) (r : Reg5) (v : Word) : (s.setG r v).cperiod = s.cperiod := rfl
@[simp] theorem State.setG_cring (s : State) (r : Reg5) (v : Word) : (s.setG r v).cring = s.cring := rfl
@[simp] theorem State.setG_cringlen (s : State) (r : Reg5) (v : Word) : (s.setG r v).cringlen = s.cringlen := rfl
@[simp] theorem State.setG_peerstat (s : State) (r : Reg5) (v : Word) : (s.setG r v).peerstat = s.peerstat := rfl
@[simp] theorem State.setG_fwstat (s : State) (r : Reg5) (v : Word) : (s.setG r v).fwstat = s.fwstat := rfl
@[simp] theorem State.setG_fwlen (s : State) (r : Reg5) (v : Word) : (s.setG r v).fwlen = s.fwlen := rfl
@[simp] theorem State.setG_fwbank0 (s : State) (r : Reg5) (v : Word) : (s.setG r v).fwbank0 = s.fwbank0 := rfl
@[simp] theorem State.setG_fwbank1 (s : State) (r : Reg5) (v : Word) : (s.setG r v).fwbank1 = s.fwbank1 := rfl
@[simp] theorem State.setG_staging (s : State) (r : Reg5) (v : Word) : (s.setG r v).staging = s.staging := rfl
@[simp] theorem State.setG_freebase (s : State) (r : Reg5) (v : Word) : (s.setG r v).freebase = s.freebase := rfl
@[simp] theorem State.setG_freelen (s : State) (r : Reg5) (v : Word) : (s.setG r v).freelen = s.freelen := rfl
@[simp] theorem State.setG_drams (s : State) (r : Reg5) (v : Word) : (s.setG r v).drams = s.drams := rfl
@[simp] theorem State.setG_vfEnabled (s : State) (r : Reg5) (v : Word) : (s.setG r v).vfEnabled = s.vfEnabled := rfl
@[simp] theorem State.setG_booted (s : State) (r : Reg5) (v : Word) : (s.setG r v).booted = s.booted := rfl
@[simp] theorem State.setG_debugOpen (s : State) (r : Reg5) (v : Word) : (s.setG r v).debugOpen = s.debugOpen := rfl
@[simp] theorem State.setG_reads (s : State) (r : Reg5) (v : Word) : (s.setG r v).reads = s.reads := rfl
@[simp] theorem State.setG_hbSent (s : State) (r : Reg5) (v : Word) : (s.setG r v).hbSent = s.hbSent := rfl
@[simp] theorem State.setG_hbSeen (s : State) (r : Reg5) (v : Word) : (s.setG r v).hbSeen = s.hbSeen := rfl
@[simp] theorem State.setG_hbAt (s : State) (r : Reg5) (v : Word) : (s.setG r v).hbAt = s.hbAt := rfl
@[simp] theorem State.setG_captured (s : State) (r : Reg5) (v : Word) : (s.setG r v).captured = s.captured := rfl
@[simp] theorem State.setG_loaded (s : State) (r : Reg5) (v : Word) : (s.setG r v).loaded = s.loaded := rfl
@[simp] theorem State.setG_programs (s : State) (r : Reg5) (v : Word) : (s.setG r v).programs = s.programs := rfl

@[simp] theorem State.setP_now (s : State) (r : Reg3) (v : Pred) : (s.setP r v).now = s.now := rfl
@[simp] theorem State.setP_frozen (s : State) (r : Reg3) (v : Pred) : (s.setP r v).frozen = s.frozen := rfl
@[simp] theorem State.setP_agenda (s : State) (r : Reg3) (v : Pred) : (s.setP r v).agenda = s.agenda := rfl
@[simp] theorem State.setP_elapse (s : State) (r : Reg3) (v : Pred) : (s.setP r v).elapse = s.elapse := rfl
@[simp] theorem State.setP_eager (s : State) (r : Reg3) (v : Pred) : (s.setP r v).eager = s.eager := rfl
@[simp] theorem State.setP_fresh (s : State) (r : Reg3) (v : Pred) : (s.setP r v).fresh = s.fresh := rfl
@[simp] theorem State.setP_cur (s : State) (r : Reg3) (v : Pred) : (s.setP r v).cur = s.cur := rfl
@[simp] theorem State.setP_spin (s : State) (r : Reg3) (v : Pred) : (s.setP r v).spin = s.spin := rfl
@[simp] theorem State.setP_issued (s : State) (r : Reg3) (v : Pred) : (s.setP r v).issued = s.issued := rfl
@[simp] theorem State.setP_polled (s : State) (r : Reg3) (v : Pred) : (s.setP r v).polled = s.polled := rfl
@[simp] theorem State.setP_flight (s : State) (r : Reg3) (v : Pred) : (s.setP r v).flight = s.flight := rfl
@[simp] theorem State.setP_clusters (s : State) (r : Reg3) (v : Pred) : (s.setP r v).clusters = s.clusters := rfl
@[simp] theorem State.setP_skewedHomes (s : State) (r : Reg3) (v : Pred) : (s.setP r v).skewedHomes = s.skewedHomes := rfl
@[simp] theorem State.setP_dram (s : State) (r : Reg3) (v : Pred) : (s.setP r v).dram = s.dram := rfl
@[simp] theorem State.setP_dramBad (s : State) (r : Reg3) (v : Pred) : (s.setP r v).dramBad = s.dramBad := rfl
@[simp] theorem State.setP_l2Bad (s : State) (r : Reg3) (v : Pred) : (s.setP r v).l2Bad = s.l2Bad := rfl
@[simp] theorem State.setP_sectors (s : State) (r : Reg3) (v : Pred) : (s.setP r v).sectors = s.sectors := rfl
@[simp] theorem State.setP_freeRows (s : State) (r : Reg3) (v : Pred) : (s.setP r v).freeRows = s.freeRows := rfl
@[simp] theorem State.setP_host (s : State) (r : Reg3) (v : Pred) : (s.setP r v).host = s.host := rfl
@[simp] theorem State.setP_peer (s : State) (r : Reg3) (v : Pred) : (s.setP r v).peer = s.peer := rfl
@[simp] theorem State.setP_sram (s : State) (r : Reg3) (v : Pred) : (s.setP r v).sram = s.sram := rfl
@[simp] theorem State.setP_sramBad (s : State) (r : Reg3) (v : Pred) : (s.setP r v).sramBad = s.sramBad := rfl
@[simp] theorem State.setP_slots (s : State) (r : Reg3) (v : Pred) : (s.setP r v).slots = s.slots := rfl
@[simp] theorem State.setP_mreadLast (s : State) (r : Reg3) (v : Pred) : (s.setP r v).mreadLast = s.mreadLast := rfl
@[simp] theorem State.setP_pubs (s : State) (r : Reg3) (v : Pred) : (s.setP r v).pubs = s.pubs := rfl
@[simp] theorem State.setP_sc (s : State) (r : Reg3) (v : Pred) : (s.setP r v).sc = s.sc := rfl
@[simp] theorem State.setP_scPos (s : State) (r : Reg3) (v : Pred) : (s.setP r v).scPos = s.scPos := rfl
@[simp] theorem State.setP_launches (s : State) (r : Reg3) (v : Pred) : (s.setP r v).launches = s.launches := rfl
@[simp] theorem State.setP_nextLaunch (s : State) (r : Reg3) (v : Pred) : (s.setP r v).nextLaunch = s.nextLaunch := rfl
@[simp] theorem State.setP_pool (s : State) (r : Reg3) (v : Pred) : (s.setP r v).pool = s.pool := rfl
@[simp] theorem State.setP_entered (s : State) (r : Reg3) (v : Pred) : (s.setP r v).entered = s.entered := rfl
@[simp] theorem State.setP_supersteps (s : State) (r : Reg3) (v : Pred) : (s.setP r v).supersteps = s.supersteps := rfl
@[simp] theorem State.setP_arrivals (s : State) (r : Reg3) (v : Pred) : (s.setP r v).arrivals = s.arrivals := rfl
@[simp] theorem State.setP_preempts (s : State) (r : Reg3) (v : Pred) : (s.setP r v).preempts = s.preempts := rfl
@[simp] theorem State.setP_preemptAsked (s : State) (r : Reg3) (v : Pred) : (s.setP r v).preemptAsked = s.preemptAsked := rfl
@[simp] theorem State.setP_tokens (s : State) (r : Reg3) (v : Pred) : (s.setP r v).tokens = s.tokens := rfl
@[simp] theorem State.setP_merges (s : State) (r : Reg3) (v : Pred) : (s.setP r v).merges = s.merges := rfl
@[simp] theorem State.setP_queues (s : State) (r : Reg3) (v : Pred) : (s.setP r v).queues = s.queues := rfl
@[simp] theorem State.setP_assign (s : State) (r : Reg3) (v : Pred) : (s.setP r v).assign = s.assign := rfl
@[simp] theorem State.setP_rassign (s : State) (r : Reg3) (v : Pred) : (s.setP r v).rassign = s.rassign := rfl
@[simp] theorem State.setP_assignWait (s : State) (r : Reg3) (v : Pred) : (s.setP r v).assignWait = s.assignWait := rfl
@[simp] theorem State.setP_leaving (s : State) (r : Reg3) (v : Pred) : (s.setP r v).leaving = s.leaving := rfl
@[simp] theorem State.setP_resets (s : State) (r : Reg3) (v : Pred) : (s.setP r v).resets = s.resets := rfl
@[simp] theorem State.setP_heldHost (s : State) (r : Reg3) (v : Pred) : (s.setP r v).heldHost = s.heldHost := rfl
@[simp] theorem State.setP_powcap (s : State) (r : Reg3) (v : Pred) : (s.setP r v).powcap = s.powcap := rfl
@[simp] theorem State.setP_thot (s : State) (r : Reg3) (v : Pred) : (s.setP r v).thot = s.thot := rfl
@[simp] theorem State.setP_hold (s : State) (r : Reg3) (v : Pred) : (s.setP r v).hold = s.hold := rfl
@[simp] theorem State.setP_peerctl (s : State) (r : Reg3) (v : Pred) : (s.setP r v).peerctl = s.peerctl := rfl
@[simp] theorem State.setP_cperiod (s : State) (r : Reg3) (v : Pred) : (s.setP r v).cperiod = s.cperiod := rfl
@[simp] theorem State.setP_cring (s : State) (r : Reg3) (v : Pred) : (s.setP r v).cring = s.cring := rfl
@[simp] theorem State.setP_cringlen (s : State) (r : Reg3) (v : Pred) : (s.setP r v).cringlen = s.cringlen := rfl
@[simp] theorem State.setP_peerstat (s : State) (r : Reg3) (v : Pred) : (s.setP r v).peerstat = s.peerstat := rfl
@[simp] theorem State.setP_fwstat (s : State) (r : Reg3) (v : Pred) : (s.setP r v).fwstat = s.fwstat := rfl
@[simp] theorem State.setP_fwlen (s : State) (r : Reg3) (v : Pred) : (s.setP r v).fwlen = s.fwlen := rfl
@[simp] theorem State.setP_fwbank0 (s : State) (r : Reg3) (v : Pred) : (s.setP r v).fwbank0 = s.fwbank0 := rfl
@[simp] theorem State.setP_fwbank1 (s : State) (r : Reg3) (v : Pred) : (s.setP r v).fwbank1 = s.fwbank1 := rfl
@[simp] theorem State.setP_staging (s : State) (r : Reg3) (v : Pred) : (s.setP r v).staging = s.staging := rfl
@[simp] theorem State.setP_freebase (s : State) (r : Reg3) (v : Pred) : (s.setP r v).freebase = s.freebase := rfl
@[simp] theorem State.setP_freelen (s : State) (r : Reg3) (v : Pred) : (s.setP r v).freelen = s.freelen := rfl
@[simp] theorem State.setP_drams (s : State) (r : Reg3) (v : Pred) : (s.setP r v).drams = s.drams := rfl
@[simp] theorem State.setP_vfEnabled (s : State) (r : Reg3) (v : Pred) : (s.setP r v).vfEnabled = s.vfEnabled := rfl
@[simp] theorem State.setP_booted (s : State) (r : Reg3) (v : Pred) : (s.setP r v).booted = s.booted := rfl
@[simp] theorem State.setP_debugOpen (s : State) (r : Reg3) (v : Pred) : (s.setP r v).debugOpen = s.debugOpen := rfl
@[simp] theorem State.setP_reads (s : State) (r : Reg3) (v : Pred) : (s.setP r v).reads = s.reads := rfl
@[simp] theorem State.setP_hbSent (s : State) (r : Reg3) (v : Pred) : (s.setP r v).hbSent = s.hbSent := rfl
@[simp] theorem State.setP_hbSeen (s : State) (r : Reg3) (v : Pred) : (s.setP r v).hbSeen = s.hbSeen := rfl
@[simp] theorem State.setP_hbAt (s : State) (r : Reg3) (v : Pred) : (s.setP r v).hbAt = s.hbAt := rfl
@[simp] theorem State.setP_captured (s : State) (r : Reg3) (v : Pred) : (s.setP r v).captured = s.captured := rfl
@[simp] theorem State.setP_loaded (s : State) (r : Reg3) (v : Pred) : (s.setP r v).loaded = s.loaded := rfl
@[simp] theorem State.setP_programs (s : State) (r : Reg3) (v : Pred) : (s.setP r v).programs = s.programs := rfl

@[simp] theorem State.setV_now (s : State) (r : Reg5) (v : Vec) : (s.setV r v).now = s.now := rfl
@[simp] theorem State.setV_frozen (s : State) (r : Reg5) (v : Vec) : (s.setV r v).frozen = s.frozen := rfl
@[simp] theorem State.setV_agenda (s : State) (r : Reg5) (v : Vec) : (s.setV r v).agenda = s.agenda := rfl
@[simp] theorem State.setV_elapse (s : State) (r : Reg5) (v : Vec) : (s.setV r v).elapse = s.elapse := rfl
@[simp] theorem State.setV_eager (s : State) (r : Reg5) (v : Vec) : (s.setV r v).eager = s.eager := rfl
@[simp] theorem State.setV_fresh (s : State) (r : Reg5) (v : Vec) : (s.setV r v).fresh = s.fresh := rfl
@[simp] theorem State.setV_cur (s : State) (r : Reg5) (v : Vec) : (s.setV r v).cur = s.cur := rfl
@[simp] theorem State.setV_spin (s : State) (r : Reg5) (v : Vec) : (s.setV r v).spin = s.spin := rfl
@[simp] theorem State.setV_issued (s : State) (r : Reg5) (v : Vec) : (s.setV r v).issued = s.issued := rfl
@[simp] theorem State.setV_polled (s : State) (r : Reg5) (v : Vec) : (s.setV r v).polled = s.polled := rfl
@[simp] theorem State.setV_flight (s : State) (r : Reg5) (v : Vec) : (s.setV r v).flight = s.flight := rfl
@[simp] theorem State.setV_clusters (s : State) (r : Reg5) (v : Vec) : (s.setV r v).clusters = s.clusters := rfl
@[simp] theorem State.setV_skewedHomes (s : State) (r : Reg5) (v : Vec) : (s.setV r v).skewedHomes = s.skewedHomes := rfl
@[simp] theorem State.setV_dram (s : State) (r : Reg5) (v : Vec) : (s.setV r v).dram = s.dram := rfl
@[simp] theorem State.setV_dramBad (s : State) (r : Reg5) (v : Vec) : (s.setV r v).dramBad = s.dramBad := rfl
@[simp] theorem State.setV_l2Bad (s : State) (r : Reg5) (v : Vec) : (s.setV r v).l2Bad = s.l2Bad := rfl
@[simp] theorem State.setV_sectors (s : State) (r : Reg5) (v : Vec) : (s.setV r v).sectors = s.sectors := rfl
@[simp] theorem State.setV_freeRows (s : State) (r : Reg5) (v : Vec) : (s.setV r v).freeRows = s.freeRows := rfl
@[simp] theorem State.setV_host (s : State) (r : Reg5) (v : Vec) : (s.setV r v).host = s.host := rfl
@[simp] theorem State.setV_peer (s : State) (r : Reg5) (v : Vec) : (s.setV r v).peer = s.peer := rfl
@[simp] theorem State.setV_sram (s : State) (r : Reg5) (v : Vec) : (s.setV r v).sram = s.sram := rfl
@[simp] theorem State.setV_sramBad (s : State) (r : Reg5) (v : Vec) : (s.setV r v).sramBad = s.sramBad := rfl
@[simp] theorem State.setV_slots (s : State) (r : Reg5) (v : Vec) : (s.setV r v).slots = s.slots := rfl
@[simp] theorem State.setV_mreadLast (s : State) (r : Reg5) (v : Vec) : (s.setV r v).mreadLast = s.mreadLast := rfl
@[simp] theorem State.setV_pubs (s : State) (r : Reg5) (v : Vec) : (s.setV r v).pubs = s.pubs := rfl
@[simp] theorem State.setV_sc (s : State) (r : Reg5) (v : Vec) : (s.setV r v).sc = s.sc := rfl
@[simp] theorem State.setV_scPos (s : State) (r : Reg5) (v : Vec) : (s.setV r v).scPos = s.scPos := rfl
@[simp] theorem State.setV_launches (s : State) (r : Reg5) (v : Vec) : (s.setV r v).launches = s.launches := rfl
@[simp] theorem State.setV_nextLaunch (s : State) (r : Reg5) (v : Vec) : (s.setV r v).nextLaunch = s.nextLaunch := rfl
@[simp] theorem State.setV_pool (s : State) (r : Reg5) (v : Vec) : (s.setV r v).pool = s.pool := rfl
@[simp] theorem State.setV_entered (s : State) (r : Reg5) (v : Vec) : (s.setV r v).entered = s.entered := rfl
@[simp] theorem State.setV_supersteps (s : State) (r : Reg5) (v : Vec) : (s.setV r v).supersteps = s.supersteps := rfl
@[simp] theorem State.setV_arrivals (s : State) (r : Reg5) (v : Vec) : (s.setV r v).arrivals = s.arrivals := rfl
@[simp] theorem State.setV_preempts (s : State) (r : Reg5) (v : Vec) : (s.setV r v).preempts = s.preempts := rfl
@[simp] theorem State.setV_preemptAsked (s : State) (r : Reg5) (v : Vec) : (s.setV r v).preemptAsked = s.preemptAsked := rfl
@[simp] theorem State.setV_tokens (s : State) (r : Reg5) (v : Vec) : (s.setV r v).tokens = s.tokens := rfl
@[simp] theorem State.setV_merges (s : State) (r : Reg5) (v : Vec) : (s.setV r v).merges = s.merges := rfl
@[simp] theorem State.setV_queues (s : State) (r : Reg5) (v : Vec) : (s.setV r v).queues = s.queues := rfl
@[simp] theorem State.setV_assign (s : State) (r : Reg5) (v : Vec) : (s.setV r v).assign = s.assign := rfl
@[simp] theorem State.setV_rassign (s : State) (r : Reg5) (v : Vec) : (s.setV r v).rassign = s.rassign := rfl
@[simp] theorem State.setV_assignWait (s : State) (r : Reg5) (v : Vec) : (s.setV r v).assignWait = s.assignWait := rfl
@[simp] theorem State.setV_leaving (s : State) (r : Reg5) (v : Vec) : (s.setV r v).leaving = s.leaving := rfl
@[simp] theorem State.setV_resets (s : State) (r : Reg5) (v : Vec) : (s.setV r v).resets = s.resets := rfl
@[simp] theorem State.setV_heldHost (s : State) (r : Reg5) (v : Vec) : (s.setV r v).heldHost = s.heldHost := rfl
@[simp] theorem State.setV_powcap (s : State) (r : Reg5) (v : Vec) : (s.setV r v).powcap = s.powcap := rfl
@[simp] theorem State.setV_thot (s : State) (r : Reg5) (v : Vec) : (s.setV r v).thot = s.thot := rfl
@[simp] theorem State.setV_hold (s : State) (r : Reg5) (v : Vec) : (s.setV r v).hold = s.hold := rfl
@[simp] theorem State.setV_peerctl (s : State) (r : Reg5) (v : Vec) : (s.setV r v).peerctl = s.peerctl := rfl
@[simp] theorem State.setV_cperiod (s : State) (r : Reg5) (v : Vec) : (s.setV r v).cperiod = s.cperiod := rfl
@[simp] theorem State.setV_cring (s : State) (r : Reg5) (v : Vec) : (s.setV r v).cring = s.cring := rfl
@[simp] theorem State.setV_cringlen (s : State) (r : Reg5) (v : Vec) : (s.setV r v).cringlen = s.cringlen := rfl
@[simp] theorem State.setV_peerstat (s : State) (r : Reg5) (v : Vec) : (s.setV r v).peerstat = s.peerstat := rfl
@[simp] theorem State.setV_fwstat (s : State) (r : Reg5) (v : Vec) : (s.setV r v).fwstat = s.fwstat := rfl
@[simp] theorem State.setV_fwlen (s : State) (r : Reg5) (v : Vec) : (s.setV r v).fwlen = s.fwlen := rfl
@[simp] theorem State.setV_fwbank0 (s : State) (r : Reg5) (v : Vec) : (s.setV r v).fwbank0 = s.fwbank0 := rfl
@[simp] theorem State.setV_fwbank1 (s : State) (r : Reg5) (v : Vec) : (s.setV r v).fwbank1 = s.fwbank1 := rfl
@[simp] theorem State.setV_staging (s : State) (r : Reg5) (v : Vec) : (s.setV r v).staging = s.staging := rfl
@[simp] theorem State.setV_freebase (s : State) (r : Reg5) (v : Vec) : (s.setV r v).freebase = s.freebase := rfl
@[simp] theorem State.setV_freelen (s : State) (r : Reg5) (v : Vec) : (s.setV r v).freelen = s.freelen := rfl
@[simp] theorem State.setV_drams (s : State) (r : Reg5) (v : Vec) : (s.setV r v).drams = s.drams := rfl
@[simp] theorem State.setV_vfEnabled (s : State) (r : Reg5) (v : Vec) : (s.setV r v).vfEnabled = s.vfEnabled := rfl
@[simp] theorem State.setV_booted (s : State) (r : Reg5) (v : Vec) : (s.setV r v).booted = s.booted := rfl
@[simp] theorem State.setV_debugOpen (s : State) (r : Reg5) (v : Vec) : (s.setV r v).debugOpen = s.debugOpen := rfl
@[simp] theorem State.setV_reads (s : State) (r : Reg5) (v : Vec) : (s.setV r v).reads = s.reads := rfl
@[simp] theorem State.setV_hbSent (s : State) (r : Reg5) (v : Vec) : (s.setV r v).hbSent = s.hbSent := rfl
@[simp] theorem State.setV_hbSeen (s : State) (r : Reg5) (v : Vec) : (s.setV r v).hbSeen = s.hbSeen := rfl
@[simp] theorem State.setV_hbAt (s : State) (r : Reg5) (v : Vec) : (s.setV r v).hbAt = s.hbAt := rfl
@[simp] theorem State.setV_captured (s : State) (r : Reg5) (v : Vec) : (s.setV r v).captured = s.captured := rfl
@[simp] theorem State.setV_loaded (s : State) (r : Reg5) (v : Vec) : (s.setV r v).loaded = s.loaded := rfl
@[simp] theorem State.setV_programs (s : State) (r : Reg5) (v : Vec) : (s.setV r v).programs = s.programs := rfl

@[simp] theorem State.setA_now (s : State) (r : Reg3) (v : Word) : (s.setA r v).now = s.now := rfl
@[simp] theorem State.setA_frozen (s : State) (r : Reg3) (v : Word) : (s.setA r v).frozen = s.frozen := rfl
@[simp] theorem State.setA_agenda (s : State) (r : Reg3) (v : Word) : (s.setA r v).agenda = s.agenda := rfl
@[simp] theorem State.setA_elapse (s : State) (r : Reg3) (v : Word) : (s.setA r v).elapse = s.elapse := rfl
@[simp] theorem State.setA_eager (s : State) (r : Reg3) (v : Word) : (s.setA r v).eager = s.eager := rfl
@[simp] theorem State.setA_fresh (s : State) (r : Reg3) (v : Word) : (s.setA r v).fresh = s.fresh := rfl
@[simp] theorem State.setA_cur (s : State) (r : Reg3) (v : Word) : (s.setA r v).cur = s.cur := rfl
@[simp] theorem State.setA_spin (s : State) (r : Reg3) (v : Word) : (s.setA r v).spin = s.spin := rfl
@[simp] theorem State.setA_issued (s : State) (r : Reg3) (v : Word) : (s.setA r v).issued = s.issued := rfl
@[simp] theorem State.setA_polled (s : State) (r : Reg3) (v : Word) : (s.setA r v).polled = s.polled := rfl
@[simp] theorem State.setA_flight (s : State) (r : Reg3) (v : Word) : (s.setA r v).flight = s.flight := rfl
@[simp] theorem State.setA_clusters (s : State) (r : Reg3) (v : Word) : (s.setA r v).clusters = s.clusters := rfl
@[simp] theorem State.setA_skewedHomes (s : State) (r : Reg3) (v : Word) : (s.setA r v).skewedHomes = s.skewedHomes := rfl
@[simp] theorem State.setA_dram (s : State) (r : Reg3) (v : Word) : (s.setA r v).dram = s.dram := rfl
@[simp] theorem State.setA_dramBad (s : State) (r : Reg3) (v : Word) : (s.setA r v).dramBad = s.dramBad := rfl
@[simp] theorem State.setA_l2Bad (s : State) (r : Reg3) (v : Word) : (s.setA r v).l2Bad = s.l2Bad := rfl
@[simp] theorem State.setA_sectors (s : State) (r : Reg3) (v : Word) : (s.setA r v).sectors = s.sectors := rfl
@[simp] theorem State.setA_freeRows (s : State) (r : Reg3) (v : Word) : (s.setA r v).freeRows = s.freeRows := rfl
@[simp] theorem State.setA_host (s : State) (r : Reg3) (v : Word) : (s.setA r v).host = s.host := rfl
@[simp] theorem State.setA_peer (s : State) (r : Reg3) (v : Word) : (s.setA r v).peer = s.peer := rfl
@[simp] theorem State.setA_sram (s : State) (r : Reg3) (v : Word) : (s.setA r v).sram = s.sram := rfl
@[simp] theorem State.setA_sramBad (s : State) (r : Reg3) (v : Word) : (s.setA r v).sramBad = s.sramBad := rfl
@[simp] theorem State.setA_slots (s : State) (r : Reg3) (v : Word) : (s.setA r v).slots = s.slots := rfl
@[simp] theorem State.setA_mreadLast (s : State) (r : Reg3) (v : Word) : (s.setA r v).mreadLast = s.mreadLast := rfl
@[simp] theorem State.setA_pubs (s : State) (r : Reg3) (v : Word) : (s.setA r v).pubs = s.pubs := rfl
@[simp] theorem State.setA_sc (s : State) (r : Reg3) (v : Word) : (s.setA r v).sc = s.sc := rfl
@[simp] theorem State.setA_scPos (s : State) (r : Reg3) (v : Word) : (s.setA r v).scPos = s.scPos := rfl
@[simp] theorem State.setA_launches (s : State) (r : Reg3) (v : Word) : (s.setA r v).launches = s.launches := rfl
@[simp] theorem State.setA_nextLaunch (s : State) (r : Reg3) (v : Word) : (s.setA r v).nextLaunch = s.nextLaunch := rfl
@[simp] theorem State.setA_pool (s : State) (r : Reg3) (v : Word) : (s.setA r v).pool = s.pool := rfl
@[simp] theorem State.setA_entered (s : State) (r : Reg3) (v : Word) : (s.setA r v).entered = s.entered := rfl
@[simp] theorem State.setA_supersteps (s : State) (r : Reg3) (v : Word) : (s.setA r v).supersteps = s.supersteps := rfl
@[simp] theorem State.setA_arrivals (s : State) (r : Reg3) (v : Word) : (s.setA r v).arrivals = s.arrivals := rfl
@[simp] theorem State.setA_preempts (s : State) (r : Reg3) (v : Word) : (s.setA r v).preempts = s.preempts := rfl
@[simp] theorem State.setA_preemptAsked (s : State) (r : Reg3) (v : Word) : (s.setA r v).preemptAsked = s.preemptAsked := rfl
@[simp] theorem State.setA_tokens (s : State) (r : Reg3) (v : Word) : (s.setA r v).tokens = s.tokens := rfl
@[simp] theorem State.setA_merges (s : State) (r : Reg3) (v : Word) : (s.setA r v).merges = s.merges := rfl
@[simp] theorem State.setA_queues (s : State) (r : Reg3) (v : Word) : (s.setA r v).queues = s.queues := rfl
@[simp] theorem State.setA_assign (s : State) (r : Reg3) (v : Word) : (s.setA r v).assign = s.assign := rfl
@[simp] theorem State.setA_rassign (s : State) (r : Reg3) (v : Word) : (s.setA r v).rassign = s.rassign := rfl
@[simp] theorem State.setA_assignWait (s : State) (r : Reg3) (v : Word) : (s.setA r v).assignWait = s.assignWait := rfl
@[simp] theorem State.setA_leaving (s : State) (r : Reg3) (v : Word) : (s.setA r v).leaving = s.leaving := rfl
@[simp] theorem State.setA_resets (s : State) (r : Reg3) (v : Word) : (s.setA r v).resets = s.resets := rfl
@[simp] theorem State.setA_heldHost (s : State) (r : Reg3) (v : Word) : (s.setA r v).heldHost = s.heldHost := rfl
@[simp] theorem State.setA_powcap (s : State) (r : Reg3) (v : Word) : (s.setA r v).powcap = s.powcap := rfl
@[simp] theorem State.setA_thot (s : State) (r : Reg3) (v : Word) : (s.setA r v).thot = s.thot := rfl
@[simp] theorem State.setA_hold (s : State) (r : Reg3) (v : Word) : (s.setA r v).hold = s.hold := rfl
@[simp] theorem State.setA_peerctl (s : State) (r : Reg3) (v : Word) : (s.setA r v).peerctl = s.peerctl := rfl
@[simp] theorem State.setA_cperiod (s : State) (r : Reg3) (v : Word) : (s.setA r v).cperiod = s.cperiod := rfl
@[simp] theorem State.setA_cring (s : State) (r : Reg3) (v : Word) : (s.setA r v).cring = s.cring := rfl
@[simp] theorem State.setA_cringlen (s : State) (r : Reg3) (v : Word) : (s.setA r v).cringlen = s.cringlen := rfl
@[simp] theorem State.setA_peerstat (s : State) (r : Reg3) (v : Word) : (s.setA r v).peerstat = s.peerstat := rfl
@[simp] theorem State.setA_fwstat (s : State) (r : Reg3) (v : Word) : (s.setA r v).fwstat = s.fwstat := rfl
@[simp] theorem State.setA_fwlen (s : State) (r : Reg3) (v : Word) : (s.setA r v).fwlen = s.fwlen := rfl
@[simp] theorem State.setA_fwbank0 (s : State) (r : Reg3) (v : Word) : (s.setA r v).fwbank0 = s.fwbank0 := rfl
@[simp] theorem State.setA_fwbank1 (s : State) (r : Reg3) (v : Word) : (s.setA r v).fwbank1 = s.fwbank1 := rfl
@[simp] theorem State.setA_staging (s : State) (r : Reg3) (v : Word) : (s.setA r v).staging = s.staging := rfl
@[simp] theorem State.setA_freebase (s : State) (r : Reg3) (v : Word) : (s.setA r v).freebase = s.freebase := rfl
@[simp] theorem State.setA_freelen (s : State) (r : Reg3) (v : Word) : (s.setA r v).freelen = s.freelen := rfl
@[simp] theorem State.setA_drams (s : State) (r : Reg3) (v : Word) : (s.setA r v).drams = s.drams := rfl
@[simp] theorem State.setA_vfEnabled (s : State) (r : Reg3) (v : Word) : (s.setA r v).vfEnabled = s.vfEnabled := rfl
@[simp] theorem State.setA_booted (s : State) (r : Reg3) (v : Word) : (s.setA r v).booted = s.booted := rfl
@[simp] theorem State.setA_debugOpen (s : State) (r : Reg3) (v : Word) : (s.setA r v).debugOpen = s.debugOpen := rfl
@[simp] theorem State.setA_reads (s : State) (r : Reg3) (v : Word) : (s.setA r v).reads = s.reads := rfl
@[simp] theorem State.setA_hbSent (s : State) (r : Reg3) (v : Word) : (s.setA r v).hbSent = s.hbSent := rfl
@[simp] theorem State.setA_hbSeen (s : State) (r : Reg3) (v : Word) : (s.setA r v).hbSeen = s.hbSeen := rfl
@[simp] theorem State.setA_hbAt (s : State) (r : Reg3) (v : Word) : (s.setA r v).hbAt = s.hbAt := rfl
@[simp] theorem State.setA_captured (s : State) (r : Reg3) (v : Word) : (s.setA r v).captured = s.captured := rfl
@[simp] theorem State.setA_loaded (s : State) (r : Reg3) (v : Word) : (s.setA r v).loaded = s.loaded := rfl
@[simp] theorem State.setA_programs (s : State) (r : Reg3) (v : Word) : (s.setA r v).programs = s.programs := rfl

@[simp] theorem State.advance_now (s : State) (len : Nat) : (s.advance len).now = s.now := rfl
@[simp] theorem State.advance_frozen (s : State) (len : Nat) : (s.advance len).frozen = s.frozen := rfl
@[simp] theorem State.advance_agenda (s : State) (len : Nat) : (s.advance len).agenda = s.agenda := rfl
@[simp] theorem State.advance_elapse (s : State) (len : Nat) : (s.advance len).elapse = s.elapse := rfl
@[simp] theorem State.advance_eager (s : State) (len : Nat) : (s.advance len).eager = s.eager := rfl
@[simp] theorem State.advance_fresh (s : State) (len : Nat) : (s.advance len).fresh = s.fresh := rfl
@[simp] theorem State.advance_cur (s : State) (len : Nat) : (s.advance len).cur = s.cur := rfl
@[simp] theorem State.advance_spin (s : State) (len : Nat) : (s.advance len).spin = s.spin := rfl
@[simp] theorem State.advance_issued (s : State) (len : Nat) : (s.advance len).issued = s.issued := rfl
@[simp] theorem State.advance_polled (s : State) (len : Nat) : (s.advance len).polled = s.polled := rfl
@[simp] theorem State.advance_flight (s : State) (len : Nat) : (s.advance len).flight = s.flight := rfl
@[simp] theorem State.advance_clusters (s : State) (len : Nat) : (s.advance len).clusters = s.clusters := rfl
@[simp] theorem State.advance_skewedHomes (s : State) (len : Nat) : (s.advance len).skewedHomes = s.skewedHomes := rfl
@[simp] theorem State.advance_dram (s : State) (len : Nat) : (s.advance len).dram = s.dram := rfl
@[simp] theorem State.advance_dramBad (s : State) (len : Nat) : (s.advance len).dramBad = s.dramBad := rfl
@[simp] theorem State.advance_l2Bad (s : State) (len : Nat) : (s.advance len).l2Bad = s.l2Bad := rfl
@[simp] theorem State.advance_sectors (s : State) (len : Nat) : (s.advance len).sectors = s.sectors := rfl
@[simp] theorem State.advance_freeRows (s : State) (len : Nat) : (s.advance len).freeRows = s.freeRows := rfl
@[simp] theorem State.advance_host (s : State) (len : Nat) : (s.advance len).host = s.host := rfl
@[simp] theorem State.advance_peer (s : State) (len : Nat) : (s.advance len).peer = s.peer := rfl
@[simp] theorem State.advance_sram (s : State) (len : Nat) : (s.advance len).sram = s.sram := rfl
@[simp] theorem State.advance_sramBad (s : State) (len : Nat) : (s.advance len).sramBad = s.sramBad := rfl
@[simp] theorem State.advance_slots (s : State) (len : Nat) : (s.advance len).slots = s.slots := rfl
@[simp] theorem State.advance_mreadLast (s : State) (len : Nat) : (s.advance len).mreadLast = s.mreadLast := rfl
@[simp] theorem State.advance_pubs (s : State) (len : Nat) : (s.advance len).pubs = s.pubs := rfl
@[simp] theorem State.advance_sc (s : State) (len : Nat) : (s.advance len).sc = s.sc := rfl
@[simp] theorem State.advance_scPos (s : State) (len : Nat) : (s.advance len).scPos = s.scPos := rfl
@[simp] theorem State.advance_launches (s : State) (len : Nat) : (s.advance len).launches = s.launches := rfl
@[simp] theorem State.advance_nextLaunch (s : State) (len : Nat) : (s.advance len).nextLaunch = s.nextLaunch := rfl
@[simp] theorem State.advance_pool (s : State) (len : Nat) : (s.advance len).pool = s.pool := rfl
@[simp] theorem State.advance_entered (s : State) (len : Nat) : (s.advance len).entered = s.entered := rfl
@[simp] theorem State.advance_supersteps (s : State) (len : Nat) : (s.advance len).supersteps = s.supersteps := rfl
@[simp] theorem State.advance_arrivals (s : State) (len : Nat) : (s.advance len).arrivals = s.arrivals := rfl
@[simp] theorem State.advance_preempts (s : State) (len : Nat) : (s.advance len).preempts = s.preempts := rfl
@[simp] theorem State.advance_preemptAsked (s : State) (len : Nat) : (s.advance len).preemptAsked = s.preemptAsked := rfl
@[simp] theorem State.advance_tokens (s : State) (len : Nat) : (s.advance len).tokens = s.tokens := rfl
@[simp] theorem State.advance_merges (s : State) (len : Nat) : (s.advance len).merges = s.merges := rfl
@[simp] theorem State.advance_queues (s : State) (len : Nat) : (s.advance len).queues = s.queues := rfl
@[simp] theorem State.advance_assign (s : State) (len : Nat) : (s.advance len).assign = s.assign := rfl
@[simp] theorem State.advance_rassign (s : State) (len : Nat) : (s.advance len).rassign = s.rassign := rfl
@[simp] theorem State.advance_assignWait (s : State) (len : Nat) : (s.advance len).assignWait = s.assignWait := rfl
@[simp] theorem State.advance_leaving (s : State) (len : Nat) : (s.advance len).leaving = s.leaving := rfl
@[simp] theorem State.advance_resets (s : State) (len : Nat) : (s.advance len).resets = s.resets := rfl
@[simp] theorem State.advance_heldHost (s : State) (len : Nat) : (s.advance len).heldHost = s.heldHost := rfl
@[simp] theorem State.advance_powcap (s : State) (len : Nat) : (s.advance len).powcap = s.powcap := rfl
@[simp] theorem State.advance_thot (s : State) (len : Nat) : (s.advance len).thot = s.thot := rfl
@[simp] theorem State.advance_hold (s : State) (len : Nat) : (s.advance len).hold = s.hold := rfl
@[simp] theorem State.advance_peerctl (s : State) (len : Nat) : (s.advance len).peerctl = s.peerctl := rfl
@[simp] theorem State.advance_cperiod (s : State) (len : Nat) : (s.advance len).cperiod = s.cperiod := rfl
@[simp] theorem State.advance_cring (s : State) (len : Nat) : (s.advance len).cring = s.cring := rfl
@[simp] theorem State.advance_cringlen (s : State) (len : Nat) : (s.advance len).cringlen = s.cringlen := rfl
@[simp] theorem State.advance_peerstat (s : State) (len : Nat) : (s.advance len).peerstat = s.peerstat := rfl
@[simp] theorem State.advance_fwstat (s : State) (len : Nat) : (s.advance len).fwstat = s.fwstat := rfl
@[simp] theorem State.advance_fwlen (s : State) (len : Nat) : (s.advance len).fwlen = s.fwlen := rfl
@[simp] theorem State.advance_fwbank0 (s : State) (len : Nat) : (s.advance len).fwbank0 = s.fwbank0 := rfl
@[simp] theorem State.advance_fwbank1 (s : State) (len : Nat) : (s.advance len).fwbank1 = s.fwbank1 := rfl
@[simp] theorem State.advance_staging (s : State) (len : Nat) : (s.advance len).staging = s.staging := rfl
@[simp] theorem State.advance_freebase (s : State) (len : Nat) : (s.advance len).freebase = s.freebase := rfl
@[simp] theorem State.advance_freelen (s : State) (len : Nat) : (s.advance len).freelen = s.freelen := rfl
@[simp] theorem State.advance_drams (s : State) (len : Nat) : (s.advance len).drams = s.drams := rfl
@[simp] theorem State.advance_vfEnabled (s : State) (len : Nat) : (s.advance len).vfEnabled = s.vfEnabled := rfl
@[simp] theorem State.advance_booted (s : State) (len : Nat) : (s.advance len).booted = s.booted := rfl
@[simp] theorem State.advance_debugOpen (s : State) (len : Nat) : (s.advance len).debugOpen = s.debugOpen := rfl
@[simp] theorem State.advance_reads (s : State) (len : Nat) : (s.advance len).reads = s.reads := rfl
@[simp] theorem State.advance_hbSent (s : State) (len : Nat) : (s.advance len).hbSent = s.hbSent := rfl
@[simp] theorem State.advance_hbSeen (s : State) (len : Nat) : (s.advance len).hbSeen = s.hbSeen := rfl
@[simp] theorem State.advance_hbAt (s : State) (len : Nat) : (s.advance len).hbAt = s.hbAt := rfl
@[simp] theorem State.advance_captured (s : State) (len : Nat) : (s.advance len).captured = s.captured := rfl
@[simp] theorem State.advance_loaded (s : State) (len : Nat) : (s.advance len).loaded = s.loaded := rfl
@[simp] theorem State.advance_programs (s : State) (len : Nat) : (s.advance len).programs = s.programs := rfl

@[simp] theorem State.jump_now (s : State) (t : Word) : (s.jump t).now = s.now := rfl
@[simp] theorem State.jump_frozen (s : State) (t : Word) : (s.jump t).frozen = s.frozen := rfl
@[simp] theorem State.jump_agenda (s : State) (t : Word) : (s.jump t).agenda = s.agenda := rfl
@[simp] theorem State.jump_elapse (s : State) (t : Word) : (s.jump t).elapse = s.elapse := rfl
@[simp] theorem State.jump_eager (s : State) (t : Word) : (s.jump t).eager = s.eager := rfl
@[simp] theorem State.jump_fresh (s : State) (t : Word) : (s.jump t).fresh = s.fresh := rfl
@[simp] theorem State.jump_cur (s : State) (t : Word) : (s.jump t).cur = s.cur := rfl
@[simp] theorem State.jump_spin (s : State) (t : Word) : (s.jump t).spin = s.spin := rfl
@[simp] theorem State.jump_issued (s : State) (t : Word) : (s.jump t).issued = s.issued := rfl
@[simp] theorem State.jump_polled (s : State) (t : Word) : (s.jump t).polled = s.polled := rfl
@[simp] theorem State.jump_flight (s : State) (t : Word) : (s.jump t).flight = s.flight := rfl
@[simp] theorem State.jump_clusters (s : State) (t : Word) : (s.jump t).clusters = s.clusters := rfl
@[simp] theorem State.jump_skewedHomes (s : State) (t : Word) : (s.jump t).skewedHomes = s.skewedHomes := rfl
@[simp] theorem State.jump_dram (s : State) (t : Word) : (s.jump t).dram = s.dram := rfl
@[simp] theorem State.jump_dramBad (s : State) (t : Word) : (s.jump t).dramBad = s.dramBad := rfl
@[simp] theorem State.jump_l2Bad (s : State) (t : Word) : (s.jump t).l2Bad = s.l2Bad := rfl
@[simp] theorem State.jump_sectors (s : State) (t : Word) : (s.jump t).sectors = s.sectors := rfl
@[simp] theorem State.jump_freeRows (s : State) (t : Word) : (s.jump t).freeRows = s.freeRows := rfl
@[simp] theorem State.jump_host (s : State) (t : Word) : (s.jump t).host = s.host := rfl
@[simp] theorem State.jump_peer (s : State) (t : Word) : (s.jump t).peer = s.peer := rfl
@[simp] theorem State.jump_sram (s : State) (t : Word) : (s.jump t).sram = s.sram := rfl
@[simp] theorem State.jump_sramBad (s : State) (t : Word) : (s.jump t).sramBad = s.sramBad := rfl
@[simp] theorem State.jump_slots (s : State) (t : Word) : (s.jump t).slots = s.slots := rfl
@[simp] theorem State.jump_mreadLast (s : State) (t : Word) : (s.jump t).mreadLast = s.mreadLast := rfl
@[simp] theorem State.jump_pubs (s : State) (t : Word) : (s.jump t).pubs = s.pubs := rfl
@[simp] theorem State.jump_sc (s : State) (t : Word) : (s.jump t).sc = s.sc := rfl
@[simp] theorem State.jump_scPos (s : State) (t : Word) : (s.jump t).scPos = s.scPos := rfl
@[simp] theorem State.jump_launches (s : State) (t : Word) : (s.jump t).launches = s.launches := rfl
@[simp] theorem State.jump_nextLaunch (s : State) (t : Word) : (s.jump t).nextLaunch = s.nextLaunch := rfl
@[simp] theorem State.jump_pool (s : State) (t : Word) : (s.jump t).pool = s.pool := rfl
@[simp] theorem State.jump_entered (s : State) (t : Word) : (s.jump t).entered = s.entered := rfl
@[simp] theorem State.jump_supersteps (s : State) (t : Word) : (s.jump t).supersteps = s.supersteps := rfl
@[simp] theorem State.jump_arrivals (s : State) (t : Word) : (s.jump t).arrivals = s.arrivals := rfl
@[simp] theorem State.jump_preempts (s : State) (t : Word) : (s.jump t).preempts = s.preempts := rfl
@[simp] theorem State.jump_preemptAsked (s : State) (t : Word) : (s.jump t).preemptAsked = s.preemptAsked := rfl
@[simp] theorem State.jump_tokens (s : State) (t : Word) : (s.jump t).tokens = s.tokens := rfl
@[simp] theorem State.jump_merges (s : State) (t : Word) : (s.jump t).merges = s.merges := rfl
@[simp] theorem State.jump_queues (s : State) (t : Word) : (s.jump t).queues = s.queues := rfl
@[simp] theorem State.jump_assign (s : State) (t : Word) : (s.jump t).assign = s.assign := rfl
@[simp] theorem State.jump_rassign (s : State) (t : Word) : (s.jump t).rassign = s.rassign := rfl
@[simp] theorem State.jump_assignWait (s : State) (t : Word) : (s.jump t).assignWait = s.assignWait := rfl
@[simp] theorem State.jump_leaving (s : State) (t : Word) : (s.jump t).leaving = s.leaving := rfl
@[simp] theorem State.jump_resets (s : State) (t : Word) : (s.jump t).resets = s.resets := rfl
@[simp] theorem State.jump_heldHost (s : State) (t : Word) : (s.jump t).heldHost = s.heldHost := rfl
@[simp] theorem State.jump_powcap (s : State) (t : Word) : (s.jump t).powcap = s.powcap := rfl
@[simp] theorem State.jump_thot (s : State) (t : Word) : (s.jump t).thot = s.thot := rfl
@[simp] theorem State.jump_hold (s : State) (t : Word) : (s.jump t).hold = s.hold := rfl
@[simp] theorem State.jump_peerctl (s : State) (t : Word) : (s.jump t).peerctl = s.peerctl := rfl
@[simp] theorem State.jump_cperiod (s : State) (t : Word) : (s.jump t).cperiod = s.cperiod := rfl
@[simp] theorem State.jump_cring (s : State) (t : Word) : (s.jump t).cring = s.cring := rfl
@[simp] theorem State.jump_cringlen (s : State) (t : Word) : (s.jump t).cringlen = s.cringlen := rfl
@[simp] theorem State.jump_peerstat (s : State) (t : Word) : (s.jump t).peerstat = s.peerstat := rfl
@[simp] theorem State.jump_fwstat (s : State) (t : Word) : (s.jump t).fwstat = s.fwstat := rfl
@[simp] theorem State.jump_fwlen (s : State) (t : Word) : (s.jump t).fwlen = s.fwlen := rfl
@[simp] theorem State.jump_fwbank0 (s : State) (t : Word) : (s.jump t).fwbank0 = s.fwbank0 := rfl
@[simp] theorem State.jump_fwbank1 (s : State) (t : Word) : (s.jump t).fwbank1 = s.fwbank1 := rfl
@[simp] theorem State.jump_staging (s : State) (t : Word) : (s.jump t).staging = s.staging := rfl
@[simp] theorem State.jump_freebase (s : State) (t : Word) : (s.jump t).freebase = s.freebase := rfl
@[simp] theorem State.jump_freelen (s : State) (t : Word) : (s.jump t).freelen = s.freelen := rfl
@[simp] theorem State.jump_drams (s : State) (t : Word) : (s.jump t).drams = s.drams := rfl
@[simp] theorem State.jump_vfEnabled (s : State) (t : Word) : (s.jump t).vfEnabled = s.vfEnabled := rfl
@[simp] theorem State.jump_booted (s : State) (t : Word) : (s.jump t).booted = s.booted := rfl
@[simp] theorem State.jump_debugOpen (s : State) (t : Word) : (s.jump t).debugOpen = s.debugOpen := rfl
@[simp] theorem State.jump_reads (s : State) (t : Word) : (s.jump t).reads = s.reads := rfl
@[simp] theorem State.jump_hbSent (s : State) (t : Word) : (s.jump t).hbSent = s.hbSent := rfl
@[simp] theorem State.jump_hbSeen (s : State) (t : Word) : (s.jump t).hbSeen = s.hbSeen := rfl
@[simp] theorem State.jump_hbAt (s : State) (t : Word) : (s.jump t).hbAt = s.hbAt := rfl
@[simp] theorem State.jump_captured (s : State) (t : Word) : (s.jump t).captured = s.captured := rfl
@[simp] theorem State.jump_loaded (s : State) (t : Word) : (s.jump t).loaded = s.loaded := rfl
@[simp] theorem State.jump_programs (s : State) (t : Word) : (s.jump t).programs = s.programs := rfl

/-! ### Fields of a core -/

@[simp] theorem CoreSt.setCtx_last (c : CoreSt) (k : Nat) (x : Ctx) : (c.setCtx k x).last = c.last := rfl
@[simp] theorem CoreSt.setCtx_lastPoll (c : CoreSt) (k : Nat) (x : Ctx) : (c.setCtx k x).lastPoll = c.lastPoll := rfl
@[simp] theorem CoreSt.setCtx_sys (c : CoreSt) (k : Nat) (x : Ctx) : (c.setCtx k x).sys = c.sys := rfl
@[simp] theorem CoreSt.setCtx_mem (c : CoreSt) (k : Nat) (x : Ctx) : (c.setCtx k x).mem = c.mem := rfl
@[simp] theorem CoreSt.setCtx_memBad (c : CoreSt) (k : Nat) (x : Ctx) : (c.setCtx k x).memBad = c.memBad := rfl
@[simp] theorem CoreSt.setCtx_acc (c : CoreSt) (k : Nat) (x : Ctx) : (c.setCtx k x).acc = c.acc := rfl
@[simp] theorem CoreSt.setCtx_accRows (c : CoreSt) (k : Nat) (x : Ctx) : (c.setCtx k x).accRows = c.accRows := rfl
@[simp] theorem CoreSt.setCtx_accBad (c : CoreSt) (k : Nat) (x : Ctx) : (c.setCtx k x).accBad = c.accBad := rfl
@[simp] theorem CoreSt.setCtx_tiles (c : CoreSt) (k : Nat) (x : Ctx) : (c.setCtx k x).tiles = c.tiles := rfl
@[simp] theorem CoreSt.setCtx_tileBad (c : CoreSt) (k : Nat) (x : Ctx) : (c.setCtx k x).tileBad = c.tileBad := rfl
@[simp] theorem CoreSt.setCtx_x (c : CoreSt) (k : Nat) (x : Ctx) : (c.setCtx k x).x = c.x := rfl
@[simp] theorem CoreSt.setCtx_xBad (c : CoreSt) (k : Nat) (x : Ctx) : (c.setCtx k x).xBad = c.xBad := rfl
@[simp] theorem CoreSt.setCtx_q0 (c : CoreSt) (k : Nat) (x : Ctx) : (c.setCtx k x).q0 = c.q0 := rfl
@[simp] theorem CoreSt.setCtx_q0Held (c : CoreSt) (k : Nat) (x : Ctx) : (c.setCtx k x).q0Held = c.q0Held := rfl
@[simp] theorem CoreSt.setCtx_q1 (c : CoreSt) (k : Nat) (x : Ctx) : (c.setCtx k x).q1 = c.q1 := rfl
@[simp] theorem CoreSt.setCtx_q2 (c : CoreSt) (k : Nat) (x : Ctx) : (c.setCtx k x).q2 = c.q2 := rfl
@[simp] theorem CoreSt.setCtx_q3 (c : CoreSt) (k : Nat) (x : Ctx) : (c.setCtx k x).q3 = c.q3 := rfl
@[simp] theorem CoreSt.setCtx_q3Ovf (c : CoreSt) (k : Nat) (x : Ctx) : (c.setCtx k x).q3Ovf = c.q3Ovf := rfl
@[simp] theorem CoreSt.setCtx_slog (c : CoreSt) (k : Nat) (x : Ctx) : (c.setCtx k x).slog = c.slog := rfl
@[simp] theorem CoreSt.setCtx_icache (c : CoreSt) (k : Nat) (x : Ctx) : (c.setCtx k x).icache = c.icache := rfl
@[simp] theorem CoreSt.setCtx_istale (c : CoreSt) (k : Nat) (x : Ctx) : (c.setCtx k x).istale = c.istale := rfl
@[simp] theorem CoreSt.setCtx_itlb (c : CoreSt) (k : Nat) (x : Ctx) : (c.setCtx k x).itlb = c.itlb := rfl
@[simp] theorem CoreSt.setCtx_dtlb (c : CoreSt) (k : Nat) (x : Ctx) : (c.setCtx k x).dtlb = c.dtlb := rfl
@[simp] theorem CoreSt.setCtx_arr (c : CoreSt) (k : Nat) (x : Ctx) : (c.setCtx k x).arr = c.arr := rfl
@[simp] theorem CoreSt.setCtx_done (c : CoreSt) (k : Nat) (x : Ctx) : (c.setCtx k x).done = c.done := rfl
@[simp] theorem CoreSt.setCtx_owed (c : CoreSt) (k : Nat) (x : Ctx) : (c.setCtx k x).owed = c.owed := rfl
@[simp] theorem CoreSt.setCtx_twe (c : CoreSt) (k : Nat) (x : Ctx) : (c.setCtx k x).twe = c.twe := rfl
@[simp] theorem CoreSt.setCtx_tbuf (c : CoreSt) (k : Nat) (x : Ctx) : (c.setCtx k x).tbuf = c.tbuf := rfl
@[simp] theorem CoreSt.setCtx_tbufBad (c : CoreSt) (k : Nat) (x : Ctx) : (c.setCtx k x).tbufBad = c.tbufBad := rfl
@[simp] theorem CoreSt.setCtx_c9 (c : CoreSt) (k : Nat) (x : Ctx) : (c.setCtx k x).c9 = c.c9 := rfl
@[simp] theorem CoreSt.setCtx_c9Sent (c : CoreSt) (k : Nat) (x : Ctx) : (c.setCtx k x).c9Sent = c.c9Sent := rfl
@[simp] theorem CoreSt.setCtx_seiz (c : CoreSt) (k : Nat) (x : Ctx) : (c.setCtx k x).seiz = c.seiz := rfl
@[simp] theorem CoreSt.setCtx_seizPhase (c : CoreSt) (k : Nat) (x : Ctx) : (c.setCtx k x).seizPhase = c.seizPhase := rfl
@[simp] theorem CoreSt.setCtx_seizTacc (c : CoreSt) (k : Nat) (x : Ctx) : (c.setCtx k x).seizTacc = c.seizTacc := rfl
@[simp] theorem CoreSt.setCtx_seizTbeat (c : CoreSt) (k : Nat) (x : Ctx) : (c.setCtx k x).seizTbeat = c.seizTbeat := rfl
@[simp] theorem CoreSt.setCtx_seizSave (c : CoreSt) (k : Nat) (x : Ctx) : (c.setCtx k x).seizSave = c.seizSave := rfl
@[simp] theorem CoreSt.setCtx_seizResult (c : CoreSt) (k : Nat) (x : Ctx) : (c.setCtx k x).seizResult = c.seizResult := rfl
@[simp] theorem CoreSt.setCtx_seizStatus (c : CoreSt) (k : Nat) (x : Ctx) : (c.setCtx k x).seizStatus = c.seizStatus := rfl
@[simp] theorem CoreSt.setCtx_seizPwr (c : CoreSt) (k : Nat) (x : Ctx) : (c.setCtx k x).seizPwr = c.seizPwr := rfl
@[simp] theorem CoreSt.setCtx_seizTries (c : CoreSt) (k : Nat) (x : Ctx) : (c.setCtx k x).seizTries = c.seizTries := rfl
@[simp] theorem CoreSt.setCtx_readOrder (c : CoreSt) (k : Nat) (x : Ctx) : (c.setCtx k x).readOrder = c.readOrder := rfl
@[simp] theorem CoreSt.setCtx_draws (c : CoreSt) (k : Nat) (x : Ctx) : (c.setCtx k x).draws = c.draws := rfl
@[simp] theorem CoreSt.setCtx_reseeds (c : CoreSt) (k : Nat) (x : Ctx) : (c.setCtx k x).reseeds = c.reseeds := rfl
@[simp] theorem CoreSt.setCtx_clearing (c : CoreSt) (k : Nat) (x : Ctx) : (c.setCtx k x).clearing = c.clearing := rfl
@[simp] theorem CoreSt.setCtx_scrubbing (c : CoreSt) (k : Nat) (x : Ctx) : (c.setCtx k x).scrubbing = c.scrubbing := rfl
@[simp] theorem CoreSt.setCtx_share (c : CoreSt) (k : Nat) (x : Ctx) : (c.setCtx k x).share = c.share := rfl
@[simp] theorem CoreSt.setCtx_taskOn (c : CoreSt) (k : Nat) (x : Ctx) : (c.setCtx k x).taskOn = c.taskOn := rfl
@[simp] theorem CoreSt.setCtx_inStep (c : CoreSt) (k : Nat) (x : Ctx) : (c.setCtx k x).inStep = c.inStep := rfl
@[simp] theorem CoreSt.setCtx_xph (c : CoreSt) (k : Nat) (x : Ctx) : (c.setCtx k x).xph = c.xph := rfl
@[simp] theorem CoreSt.setCtx_skew (c : CoreSt) (k : Nat) (x : Ctx) : (c.setCtx k x).skew = c.skew := rfl
@[simp] theorem CoreSt.setCtx_skewed (c : CoreSt) (k : Nat) (x : Ctx) : (c.setCtx k x).skewed = c.skewed := rfl
@[simp] theorem CoreSt.setCtx_pair (c : CoreSt) (k : Nat) (x : Ctx) : (c.setCtx k x).pair = c.pair := rfl
@[simp] theorem CoreSt.setCtx_preempting (c : CoreSt) (k : Nat) (x : Ctx) : (c.setCtx k x).preempting = c.preempting := rfl
@[simp] theorem CoreSt.setCtx_egu (c : CoreSt) (k : Nat) (x : Ctx) : (c.setCtx k x).egu = c.egu := rfl
@[simp] theorem CoreSt.setCtx_spe (c : CoreSt) (k : Nat) (x : Ctx) : (c.setCtx k x).spe = c.spe := rfl
@[simp] theorem CoreSt.setCtx_fwBank (c : CoreSt) (k : Nat) (x : Ctx) : (c.setCtx k x).fwBank = c.fwBank := rfl
@[simp] theorem CoreSt.setCtx_fwPending (c : CoreSt) (k : Nat) (x : Ctx) : (c.setCtx k x).fwPending = c.fwPending := rfl
@[simp] theorem CoreSt.setCtx_pwr (c : CoreSt) (k : Nat) (x : Ctx) : (c.setCtx k x).pwr = c.pwr := rfl
@[simp] theorem CoreSt.setCtx_pwrNext (c : CoreSt) (k : Nat) (x : Ctx) : (c.setCtx k x).pwrNext = c.pwrNext := rfl

@[simp] theorem CoreSt.setSysr_ctxs (c : CoreSt) (n : Nat) (v : Word) : (c.setSysr n v).ctxs = c.ctxs := rfl
@[simp] theorem CoreSt.setSysr_last (c : CoreSt) (n : Nat) (v : Word) : (c.setSysr n v).last = c.last := rfl
@[simp] theorem CoreSt.setSysr_lastPoll (c : CoreSt) (n : Nat) (v : Word) : (c.setSysr n v).lastPoll = c.lastPoll := rfl
@[simp] theorem CoreSt.setSysr_mem (c : CoreSt) (n : Nat) (v : Word) : (c.setSysr n v).mem = c.mem := rfl
@[simp] theorem CoreSt.setSysr_memBad (c : CoreSt) (n : Nat) (v : Word) : (c.setSysr n v).memBad = c.memBad := rfl
@[simp] theorem CoreSt.setSysr_acc (c : CoreSt) (n : Nat) (v : Word) : (c.setSysr n v).acc = c.acc := rfl
@[simp] theorem CoreSt.setSysr_accRows (c : CoreSt) (n : Nat) (v : Word) : (c.setSysr n v).accRows = c.accRows := rfl
@[simp] theorem CoreSt.setSysr_accBad (c : CoreSt) (n : Nat) (v : Word) : (c.setSysr n v).accBad = c.accBad := rfl
@[simp] theorem CoreSt.setSysr_tiles (c : CoreSt) (n : Nat) (v : Word) : (c.setSysr n v).tiles = c.tiles := rfl
@[simp] theorem CoreSt.setSysr_tileBad (c : CoreSt) (n : Nat) (v : Word) : (c.setSysr n v).tileBad = c.tileBad := rfl
@[simp] theorem CoreSt.setSysr_x (c : CoreSt) (n : Nat) (v : Word) : (c.setSysr n v).x = c.x := rfl
@[simp] theorem CoreSt.setSysr_xBad (c : CoreSt) (n : Nat) (v : Word) : (c.setSysr n v).xBad = c.xBad := rfl
@[simp] theorem CoreSt.setSysr_q0 (c : CoreSt) (n : Nat) (v : Word) : (c.setSysr n v).q0 = c.q0 := rfl
@[simp] theorem CoreSt.setSysr_q0Held (c : CoreSt) (n : Nat) (v : Word) : (c.setSysr n v).q0Held = c.q0Held := rfl
@[simp] theorem CoreSt.setSysr_q1 (c : CoreSt) (n : Nat) (v : Word) : (c.setSysr n v).q1 = c.q1 := rfl
@[simp] theorem CoreSt.setSysr_q2 (c : CoreSt) (n : Nat) (v : Word) : (c.setSysr n v).q2 = c.q2 := rfl
@[simp] theorem CoreSt.setSysr_q3 (c : CoreSt) (n : Nat) (v : Word) : (c.setSysr n v).q3 = c.q3 := rfl
@[simp] theorem CoreSt.setSysr_q3Ovf (c : CoreSt) (n : Nat) (v : Word) : (c.setSysr n v).q3Ovf = c.q3Ovf := rfl
@[simp] theorem CoreSt.setSysr_slog (c : CoreSt) (n : Nat) (v : Word) : (c.setSysr n v).slog = c.slog := rfl
@[simp] theorem CoreSt.setSysr_icache (c : CoreSt) (n : Nat) (v : Word) : (c.setSysr n v).icache = c.icache := rfl
@[simp] theorem CoreSt.setSysr_istale (c : CoreSt) (n : Nat) (v : Word) : (c.setSysr n v).istale = c.istale := rfl
@[simp] theorem CoreSt.setSysr_itlb (c : CoreSt) (n : Nat) (v : Word) : (c.setSysr n v).itlb = c.itlb := rfl
@[simp] theorem CoreSt.setSysr_dtlb (c : CoreSt) (n : Nat) (v : Word) : (c.setSysr n v).dtlb = c.dtlb := rfl
@[simp] theorem CoreSt.setSysr_arr (c : CoreSt) (n : Nat) (v : Word) : (c.setSysr n v).arr = c.arr := rfl
@[simp] theorem CoreSt.setSysr_done (c : CoreSt) (n : Nat) (v : Word) : (c.setSysr n v).done = c.done := rfl
@[simp] theorem CoreSt.setSysr_owed (c : CoreSt) (n : Nat) (v : Word) : (c.setSysr n v).owed = c.owed := rfl
@[simp] theorem CoreSt.setSysr_twe (c : CoreSt) (n : Nat) (v : Word) : (c.setSysr n v).twe = c.twe := rfl
@[simp] theorem CoreSt.setSysr_tbuf (c : CoreSt) (n : Nat) (v : Word) : (c.setSysr n v).tbuf = c.tbuf := rfl
@[simp] theorem CoreSt.setSysr_tbufBad (c : CoreSt) (n : Nat) (v : Word) : (c.setSysr n v).tbufBad = c.tbufBad := rfl
@[simp] theorem CoreSt.setSysr_c9 (c : CoreSt) (n : Nat) (v : Word) : (c.setSysr n v).c9 = c.c9 := rfl
@[simp] theorem CoreSt.setSysr_c9Sent (c : CoreSt) (n : Nat) (v : Word) : (c.setSysr n v).c9Sent = c.c9Sent := rfl
@[simp] theorem CoreSt.setSysr_seiz (c : CoreSt) (n : Nat) (v : Word) : (c.setSysr n v).seiz = c.seiz := rfl
@[simp] theorem CoreSt.setSysr_seizPhase (c : CoreSt) (n : Nat) (v : Word) : (c.setSysr n v).seizPhase = c.seizPhase := rfl
@[simp] theorem CoreSt.setSysr_seizTacc (c : CoreSt) (n : Nat) (v : Word) : (c.setSysr n v).seizTacc = c.seizTacc := rfl
@[simp] theorem CoreSt.setSysr_seizTbeat (c : CoreSt) (n : Nat) (v : Word) : (c.setSysr n v).seizTbeat = c.seizTbeat := rfl
@[simp] theorem CoreSt.setSysr_seizSave (c : CoreSt) (n : Nat) (v : Word) : (c.setSysr n v).seizSave = c.seizSave := rfl
@[simp] theorem CoreSt.setSysr_seizResult (c : CoreSt) (n : Nat) (v : Word) : (c.setSysr n v).seizResult = c.seizResult := rfl
@[simp] theorem CoreSt.setSysr_seizStatus (c : CoreSt) (n : Nat) (v : Word) : (c.setSysr n v).seizStatus = c.seizStatus := rfl
@[simp] theorem CoreSt.setSysr_seizPwr (c : CoreSt) (n : Nat) (v : Word) : (c.setSysr n v).seizPwr = c.seizPwr := rfl
@[simp] theorem CoreSt.setSysr_seizTries (c : CoreSt) (n : Nat) (v : Word) : (c.setSysr n v).seizTries = c.seizTries := rfl
@[simp] theorem CoreSt.setSysr_readOrder (c : CoreSt) (n : Nat) (v : Word) : (c.setSysr n v).readOrder = c.readOrder := rfl
@[simp] theorem CoreSt.setSysr_draws (c : CoreSt) (n : Nat) (v : Word) : (c.setSysr n v).draws = c.draws := rfl
@[simp] theorem CoreSt.setSysr_reseeds (c : CoreSt) (n : Nat) (v : Word) : (c.setSysr n v).reseeds = c.reseeds := rfl
@[simp] theorem CoreSt.setSysr_clearing (c : CoreSt) (n : Nat) (v : Word) : (c.setSysr n v).clearing = c.clearing := rfl
@[simp] theorem CoreSt.setSysr_scrubbing (c : CoreSt) (n : Nat) (v : Word) : (c.setSysr n v).scrubbing = c.scrubbing := rfl
@[simp] theorem CoreSt.setSysr_share (c : CoreSt) (n : Nat) (v : Word) : (c.setSysr n v).share = c.share := rfl
@[simp] theorem CoreSt.setSysr_taskOn (c : CoreSt) (n : Nat) (v : Word) : (c.setSysr n v).taskOn = c.taskOn := rfl
@[simp] theorem CoreSt.setSysr_inStep (c : CoreSt) (n : Nat) (v : Word) : (c.setSysr n v).inStep = c.inStep := rfl
@[simp] theorem CoreSt.setSysr_xph (c : CoreSt) (n : Nat) (v : Word) : (c.setSysr n v).xph = c.xph := rfl
@[simp] theorem CoreSt.setSysr_skew (c : CoreSt) (n : Nat) (v : Word) : (c.setSysr n v).skew = c.skew := rfl
@[simp] theorem CoreSt.setSysr_skewed (c : CoreSt) (n : Nat) (v : Word) : (c.setSysr n v).skewed = c.skewed := rfl
@[simp] theorem CoreSt.setSysr_pair (c : CoreSt) (n : Nat) (v : Word) : (c.setSysr n v).pair = c.pair := rfl
@[simp] theorem CoreSt.setSysr_preempting (c : CoreSt) (n : Nat) (v : Word) : (c.setSysr n v).preempting = c.preempting := rfl
@[simp] theorem CoreSt.setSysr_egu (c : CoreSt) (n : Nat) (v : Word) : (c.setSysr n v).egu = c.egu := rfl
@[simp] theorem CoreSt.setSysr_spe (c : CoreSt) (n : Nat) (v : Word) : (c.setSysr n v).spe = c.spe := rfl
@[simp] theorem CoreSt.setSysr_fwBank (c : CoreSt) (n : Nat) (v : Word) : (c.setSysr n v).fwBank = c.fwBank := rfl
@[simp] theorem CoreSt.setSysr_fwPending (c : CoreSt) (n : Nat) (v : Word) : (c.setSysr n v).fwPending = c.fwPending := rfl
@[simp] theorem CoreSt.setSysr_pwr (c : CoreSt) (n : Nat) (v : Word) : (c.setSysr n v).pwr = c.pwr := rfl
@[simp] theorem CoreSt.setSysr_pwrNext (c : CoreSt) (n : Nat) (v : Word) : (c.setSysr n v).pwrNext = c.pwrNext := rfl

@[simp] theorem CoreSt.setTile_ctxs (c : CoreSt) (t : Nat) (v : BitVec 32768) : (c.setTile t v).ctxs = c.ctxs := rfl
@[simp] theorem CoreSt.setTile_last (c : CoreSt) (t : Nat) (v : BitVec 32768) : (c.setTile t v).last = c.last := rfl
@[simp] theorem CoreSt.setTile_lastPoll (c : CoreSt) (t : Nat) (v : BitVec 32768) : (c.setTile t v).lastPoll = c.lastPoll := rfl
@[simp] theorem CoreSt.setTile_sys (c : CoreSt) (t : Nat) (v : BitVec 32768) : (c.setTile t v).sys = c.sys := rfl
@[simp] theorem CoreSt.setTile_mem (c : CoreSt) (t : Nat) (v : BitVec 32768) : (c.setTile t v).mem = c.mem := rfl
@[simp] theorem CoreSt.setTile_memBad (c : CoreSt) (t : Nat) (v : BitVec 32768) : (c.setTile t v).memBad = c.memBad := rfl
@[simp] theorem CoreSt.setTile_acc (c : CoreSt) (t : Nat) (v : BitVec 32768) : (c.setTile t v).acc = c.acc := rfl
@[simp] theorem CoreSt.setTile_accRows (c : CoreSt) (t : Nat) (v : BitVec 32768) : (c.setTile t v).accRows = c.accRows := rfl
@[simp] theorem CoreSt.setTile_accBad (c : CoreSt) (t : Nat) (v : BitVec 32768) : (c.setTile t v).accBad = c.accBad := rfl
@[simp] theorem CoreSt.setTile_tileBad (c : CoreSt) (t : Nat) (v : BitVec 32768) : (c.setTile t v).tileBad = c.tileBad := rfl
@[simp] theorem CoreSt.setTile_x (c : CoreSt) (t : Nat) (v : BitVec 32768) : (c.setTile t v).x = c.x := rfl
@[simp] theorem CoreSt.setTile_xBad (c : CoreSt) (t : Nat) (v : BitVec 32768) : (c.setTile t v).xBad = c.xBad := rfl
@[simp] theorem CoreSt.setTile_q0 (c : CoreSt) (t : Nat) (v : BitVec 32768) : (c.setTile t v).q0 = c.q0 := rfl
@[simp] theorem CoreSt.setTile_q0Held (c : CoreSt) (t : Nat) (v : BitVec 32768) : (c.setTile t v).q0Held = c.q0Held := rfl
@[simp] theorem CoreSt.setTile_q1 (c : CoreSt) (t : Nat) (v : BitVec 32768) : (c.setTile t v).q1 = c.q1 := rfl
@[simp] theorem CoreSt.setTile_q2 (c : CoreSt) (t : Nat) (v : BitVec 32768) : (c.setTile t v).q2 = c.q2 := rfl
@[simp] theorem CoreSt.setTile_q3 (c : CoreSt) (t : Nat) (v : BitVec 32768) : (c.setTile t v).q3 = c.q3 := rfl
@[simp] theorem CoreSt.setTile_q3Ovf (c : CoreSt) (t : Nat) (v : BitVec 32768) : (c.setTile t v).q3Ovf = c.q3Ovf := rfl
@[simp] theorem CoreSt.setTile_slog (c : CoreSt) (t : Nat) (v : BitVec 32768) : (c.setTile t v).slog = c.slog := rfl
@[simp] theorem CoreSt.setTile_icache (c : CoreSt) (t : Nat) (v : BitVec 32768) : (c.setTile t v).icache = c.icache := rfl
@[simp] theorem CoreSt.setTile_istale (c : CoreSt) (t : Nat) (v : BitVec 32768) : (c.setTile t v).istale = c.istale := rfl
@[simp] theorem CoreSt.setTile_itlb (c : CoreSt) (t : Nat) (v : BitVec 32768) : (c.setTile t v).itlb = c.itlb := rfl
@[simp] theorem CoreSt.setTile_dtlb (c : CoreSt) (t : Nat) (v : BitVec 32768) : (c.setTile t v).dtlb = c.dtlb := rfl
@[simp] theorem CoreSt.setTile_arr (c : CoreSt) (t : Nat) (v : BitVec 32768) : (c.setTile t v).arr = c.arr := rfl
@[simp] theorem CoreSt.setTile_done (c : CoreSt) (t : Nat) (v : BitVec 32768) : (c.setTile t v).done = c.done := rfl
@[simp] theorem CoreSt.setTile_owed (c : CoreSt) (t : Nat) (v : BitVec 32768) : (c.setTile t v).owed = c.owed := rfl
@[simp] theorem CoreSt.setTile_twe (c : CoreSt) (t : Nat) (v : BitVec 32768) : (c.setTile t v).twe = c.twe := rfl
@[simp] theorem CoreSt.setTile_tbuf (c : CoreSt) (t : Nat) (v : BitVec 32768) : (c.setTile t v).tbuf = c.tbuf := rfl
@[simp] theorem CoreSt.setTile_tbufBad (c : CoreSt) (t : Nat) (v : BitVec 32768) : (c.setTile t v).tbufBad = c.tbufBad := rfl
@[simp] theorem CoreSt.setTile_c9 (c : CoreSt) (t : Nat) (v : BitVec 32768) : (c.setTile t v).c9 = c.c9 := rfl
@[simp] theorem CoreSt.setTile_c9Sent (c : CoreSt) (t : Nat) (v : BitVec 32768) : (c.setTile t v).c9Sent = c.c9Sent := rfl
@[simp] theorem CoreSt.setTile_seiz (c : CoreSt) (t : Nat) (v : BitVec 32768) : (c.setTile t v).seiz = c.seiz := rfl
@[simp] theorem CoreSt.setTile_seizPhase (c : CoreSt) (t : Nat) (v : BitVec 32768) : (c.setTile t v).seizPhase = c.seizPhase := rfl
@[simp] theorem CoreSt.setTile_seizTacc (c : CoreSt) (t : Nat) (v : BitVec 32768) : (c.setTile t v).seizTacc = c.seizTacc := rfl
@[simp] theorem CoreSt.setTile_seizTbeat (c : CoreSt) (t : Nat) (v : BitVec 32768) : (c.setTile t v).seizTbeat = c.seizTbeat := rfl
@[simp] theorem CoreSt.setTile_seizSave (c : CoreSt) (t : Nat) (v : BitVec 32768) : (c.setTile t v).seizSave = c.seizSave := rfl
@[simp] theorem CoreSt.setTile_seizResult (c : CoreSt) (t : Nat) (v : BitVec 32768) : (c.setTile t v).seizResult = c.seizResult := rfl
@[simp] theorem CoreSt.setTile_seizStatus (c : CoreSt) (t : Nat) (v : BitVec 32768) : (c.setTile t v).seizStatus = c.seizStatus := rfl
@[simp] theorem CoreSt.setTile_seizPwr (c : CoreSt) (t : Nat) (v : BitVec 32768) : (c.setTile t v).seizPwr = c.seizPwr := rfl
@[simp] theorem CoreSt.setTile_seizTries (c : CoreSt) (t : Nat) (v : BitVec 32768) : (c.setTile t v).seizTries = c.seizTries := rfl
@[simp] theorem CoreSt.setTile_readOrder (c : CoreSt) (t : Nat) (v : BitVec 32768) : (c.setTile t v).readOrder = c.readOrder := rfl
@[simp] theorem CoreSt.setTile_draws (c : CoreSt) (t : Nat) (v : BitVec 32768) : (c.setTile t v).draws = c.draws := rfl
@[simp] theorem CoreSt.setTile_reseeds (c : CoreSt) (t : Nat) (v : BitVec 32768) : (c.setTile t v).reseeds = c.reseeds := rfl
@[simp] theorem CoreSt.setTile_clearing (c : CoreSt) (t : Nat) (v : BitVec 32768) : (c.setTile t v).clearing = c.clearing := rfl
@[simp] theorem CoreSt.setTile_scrubbing (c : CoreSt) (t : Nat) (v : BitVec 32768) : (c.setTile t v).scrubbing = c.scrubbing := rfl
@[simp] theorem CoreSt.setTile_share (c : CoreSt) (t : Nat) (v : BitVec 32768) : (c.setTile t v).share = c.share := rfl
@[simp] theorem CoreSt.setTile_taskOn (c : CoreSt) (t : Nat) (v : BitVec 32768) : (c.setTile t v).taskOn = c.taskOn := rfl
@[simp] theorem CoreSt.setTile_inStep (c : CoreSt) (t : Nat) (v : BitVec 32768) : (c.setTile t v).inStep = c.inStep := rfl
@[simp] theorem CoreSt.setTile_xph (c : CoreSt) (t : Nat) (v : BitVec 32768) : (c.setTile t v).xph = c.xph := rfl
@[simp] theorem CoreSt.setTile_skew (c : CoreSt) (t : Nat) (v : BitVec 32768) : (c.setTile t v).skew = c.skew := rfl
@[simp] theorem CoreSt.setTile_skewed (c : CoreSt) (t : Nat) (v : BitVec 32768) : (c.setTile t v).skewed = c.skewed := rfl
@[simp] theorem CoreSt.setTile_pair (c : CoreSt) (t : Nat) (v : BitVec 32768) : (c.setTile t v).pair = c.pair := rfl
@[simp] theorem CoreSt.setTile_preempting (c : CoreSt) (t : Nat) (v : BitVec 32768) : (c.setTile t v).preempting = c.preempting := rfl
@[simp] theorem CoreSt.setTile_egu (c : CoreSt) (t : Nat) (v : BitVec 32768) : (c.setTile t v).egu = c.egu := rfl
@[simp] theorem CoreSt.setTile_spe (c : CoreSt) (t : Nat) (v : BitVec 32768) : (c.setTile t v).spe = c.spe := rfl
@[simp] theorem CoreSt.setTile_fwBank (c : CoreSt) (t : Nat) (v : BitVec 32768) : (c.setTile t v).fwBank = c.fwBank := rfl
@[simp] theorem CoreSt.setTile_fwPending (c : CoreSt) (t : Nat) (v : BitVec 32768) : (c.setTile t v).fwPending = c.fwPending := rfl
@[simp] theorem CoreSt.setTile_pwr (c : CoreSt) (t : Nat) (v : BitVec 32768) : (c.setTile t v).pwr = c.pwr := rfl
@[simp] theorem CoreSt.setTile_pwrNext (c : CoreSt) (t : Nat) (v : BitVec 32768) : (c.setTile t v).pwrNext = c.pwrNext := rfl

@[simp] theorem CoreSt.setCell_ctxs (c : CoreSt) (i j : Nat) (v : Half) : (c.setCell i j v).ctxs = c.ctxs := rfl
@[simp] theorem CoreSt.setCell_last (c : CoreSt) (i j : Nat) (v : Half) : (c.setCell i j v).last = c.last := rfl
@[simp] theorem CoreSt.setCell_lastPoll (c : CoreSt) (i j : Nat) (v : Half) : (c.setCell i j v).lastPoll = c.lastPoll := rfl
@[simp] theorem CoreSt.setCell_sys (c : CoreSt) (i j : Nat) (v : Half) : (c.setCell i j v).sys = c.sys := rfl
@[simp] theorem CoreSt.setCell_mem (c : CoreSt) (i j : Nat) (v : Half) : (c.setCell i j v).mem = c.mem := rfl
@[simp] theorem CoreSt.setCell_memBad (c : CoreSt) (i j : Nat) (v : Half) : (c.setCell i j v).memBad = c.memBad := rfl
@[simp] theorem CoreSt.setCell_tiles (c : CoreSt) (i j : Nat) (v : Half) : (c.setCell i j v).tiles = c.tiles := rfl
@[simp] theorem CoreSt.setCell_tileBad (c : CoreSt) (i j : Nat) (v : Half) : (c.setCell i j v).tileBad = c.tileBad := rfl
@[simp] theorem CoreSt.setCell_x (c : CoreSt) (i j : Nat) (v : Half) : (c.setCell i j v).x = c.x := rfl
@[simp] theorem CoreSt.setCell_xBad (c : CoreSt) (i j : Nat) (v : Half) : (c.setCell i j v).xBad = c.xBad := rfl
@[simp] theorem CoreSt.setCell_q0 (c : CoreSt) (i j : Nat) (v : Half) : (c.setCell i j v).q0 = c.q0 := rfl
@[simp] theorem CoreSt.setCell_q0Held (c : CoreSt) (i j : Nat) (v : Half) : (c.setCell i j v).q0Held = c.q0Held := rfl
@[simp] theorem CoreSt.setCell_q1 (c : CoreSt) (i j : Nat) (v : Half) : (c.setCell i j v).q1 = c.q1 := rfl
@[simp] theorem CoreSt.setCell_q2 (c : CoreSt) (i j : Nat) (v : Half) : (c.setCell i j v).q2 = c.q2 := rfl
@[simp] theorem CoreSt.setCell_q3 (c : CoreSt) (i j : Nat) (v : Half) : (c.setCell i j v).q3 = c.q3 := rfl
@[simp] theorem CoreSt.setCell_q3Ovf (c : CoreSt) (i j : Nat) (v : Half) : (c.setCell i j v).q3Ovf = c.q3Ovf := rfl
@[simp] theorem CoreSt.setCell_slog (c : CoreSt) (i j : Nat) (v : Half) : (c.setCell i j v).slog = c.slog := rfl
@[simp] theorem CoreSt.setCell_icache (c : CoreSt) (i j : Nat) (v : Half) : (c.setCell i j v).icache = c.icache := rfl
@[simp] theorem CoreSt.setCell_istale (c : CoreSt) (i j : Nat) (v : Half) : (c.setCell i j v).istale = c.istale := rfl
@[simp] theorem CoreSt.setCell_itlb (c : CoreSt) (i j : Nat) (v : Half) : (c.setCell i j v).itlb = c.itlb := rfl
@[simp] theorem CoreSt.setCell_dtlb (c : CoreSt) (i j : Nat) (v : Half) : (c.setCell i j v).dtlb = c.dtlb := rfl
@[simp] theorem CoreSt.setCell_arr (c : CoreSt) (i j : Nat) (v : Half) : (c.setCell i j v).arr = c.arr := rfl
@[simp] theorem CoreSt.setCell_done (c : CoreSt) (i j : Nat) (v : Half) : (c.setCell i j v).done = c.done := rfl
@[simp] theorem CoreSt.setCell_owed (c : CoreSt) (i j : Nat) (v : Half) : (c.setCell i j v).owed = c.owed := rfl
@[simp] theorem CoreSt.setCell_twe (c : CoreSt) (i j : Nat) (v : Half) : (c.setCell i j v).twe = c.twe := rfl
@[simp] theorem CoreSt.setCell_tbuf (c : CoreSt) (i j : Nat) (v : Half) : (c.setCell i j v).tbuf = c.tbuf := rfl
@[simp] theorem CoreSt.setCell_tbufBad (c : CoreSt) (i j : Nat) (v : Half) : (c.setCell i j v).tbufBad = c.tbufBad := rfl
@[simp] theorem CoreSt.setCell_c9 (c : CoreSt) (i j : Nat) (v : Half) : (c.setCell i j v).c9 = c.c9 := rfl
@[simp] theorem CoreSt.setCell_c9Sent (c : CoreSt) (i j : Nat) (v : Half) : (c.setCell i j v).c9Sent = c.c9Sent := rfl
@[simp] theorem CoreSt.setCell_seiz (c : CoreSt) (i j : Nat) (v : Half) : (c.setCell i j v).seiz = c.seiz := rfl
@[simp] theorem CoreSt.setCell_seizPhase (c : CoreSt) (i j : Nat) (v : Half) : (c.setCell i j v).seizPhase = c.seizPhase := rfl
@[simp] theorem CoreSt.setCell_seizTacc (c : CoreSt) (i j : Nat) (v : Half) : (c.setCell i j v).seizTacc = c.seizTacc := rfl
@[simp] theorem CoreSt.setCell_seizTbeat (c : CoreSt) (i j : Nat) (v : Half) : (c.setCell i j v).seizTbeat = c.seizTbeat := rfl
@[simp] theorem CoreSt.setCell_seizSave (c : CoreSt) (i j : Nat) (v : Half) : (c.setCell i j v).seizSave = c.seizSave := rfl
@[simp] theorem CoreSt.setCell_seizResult (c : CoreSt) (i j : Nat) (v : Half) : (c.setCell i j v).seizResult = c.seizResult := rfl
@[simp] theorem CoreSt.setCell_seizStatus (c : CoreSt) (i j : Nat) (v : Half) : (c.setCell i j v).seizStatus = c.seizStatus := rfl
@[simp] theorem CoreSt.setCell_seizPwr (c : CoreSt) (i j : Nat) (v : Half) : (c.setCell i j v).seizPwr = c.seizPwr := rfl
@[simp] theorem CoreSt.setCell_seizTries (c : CoreSt) (i j : Nat) (v : Half) : (c.setCell i j v).seizTries = c.seizTries := rfl
@[simp] theorem CoreSt.setCell_readOrder (c : CoreSt) (i j : Nat) (v : Half) : (c.setCell i j v).readOrder = c.readOrder := rfl
@[simp] theorem CoreSt.setCell_draws (c : CoreSt) (i j : Nat) (v : Half) : (c.setCell i j v).draws = c.draws := rfl
@[simp] theorem CoreSt.setCell_reseeds (c : CoreSt) (i j : Nat) (v : Half) : (c.setCell i j v).reseeds = c.reseeds := rfl
@[simp] theorem CoreSt.setCell_clearing (c : CoreSt) (i j : Nat) (v : Half) : (c.setCell i j v).clearing = c.clearing := rfl
@[simp] theorem CoreSt.setCell_scrubbing (c : CoreSt) (i j : Nat) (v : Half) : (c.setCell i j v).scrubbing = c.scrubbing := rfl
@[simp] theorem CoreSt.setCell_share (c : CoreSt) (i j : Nat) (v : Half) : (c.setCell i j v).share = c.share := rfl
@[simp] theorem CoreSt.setCell_taskOn (c : CoreSt) (i j : Nat) (v : Half) : (c.setCell i j v).taskOn = c.taskOn := rfl
@[simp] theorem CoreSt.setCell_inStep (c : CoreSt) (i j : Nat) (v : Half) : (c.setCell i j v).inStep = c.inStep := rfl
@[simp] theorem CoreSt.setCell_xph (c : CoreSt) (i j : Nat) (v : Half) : (c.setCell i j v).xph = c.xph := rfl
@[simp] theorem CoreSt.setCell_skew (c : CoreSt) (i j : Nat) (v : Half) : (c.setCell i j v).skew = c.skew := rfl
@[simp] theorem CoreSt.setCell_skewed (c : CoreSt) (i j : Nat) (v : Half) : (c.setCell i j v).skewed = c.skewed := rfl
@[simp] theorem CoreSt.setCell_pair (c : CoreSt) (i j : Nat) (v : Half) : (c.setCell i j v).pair = c.pair := rfl
@[simp] theorem CoreSt.setCell_preempting (c : CoreSt) (i j : Nat) (v : Half) : (c.setCell i j v).preempting = c.preempting := rfl
@[simp] theorem CoreSt.setCell_egu (c : CoreSt) (i j : Nat) (v : Half) : (c.setCell i j v).egu = c.egu := rfl
@[simp] theorem CoreSt.setCell_spe (c : CoreSt) (i j : Nat) (v : Half) : (c.setCell i j v).spe = c.spe := rfl
@[simp] theorem CoreSt.setCell_fwBank (c : CoreSt) (i j : Nat) (v : Half) : (c.setCell i j v).fwBank = c.fwBank := rfl
@[simp] theorem CoreSt.setCell_fwPending (c : CoreSt) (i j : Nat) (v : Half) : (c.setCell i j v).fwPending = c.fwPending := rfl
@[simp] theorem CoreSt.setCell_pwr (c : CoreSt) (i j : Nat) (v : Half) : (c.setCell i j v).pwr = c.pwr := rfl
@[simp] theorem CoreSt.setCell_pwrNext (c : CoreSt) (i j : Nat) (v : Half) : (c.setCell i j v).pwrNext = c.pwrNext := rfl

@[simp] theorem CoreSt.setX_ctxs (c : CoreSt) (r : Nat) (v : BitVec 128) : (c.setX r v).ctxs = c.ctxs := rfl
@[simp] theorem CoreSt.setX_last (c : CoreSt) (r : Nat) (v : BitVec 128) : (c.setX r v).last = c.last := rfl
@[simp] theorem CoreSt.setX_lastPoll (c : CoreSt) (r : Nat) (v : BitVec 128) : (c.setX r v).lastPoll = c.lastPoll := rfl
@[simp] theorem CoreSt.setX_sys (c : CoreSt) (r : Nat) (v : BitVec 128) : (c.setX r v).sys = c.sys := rfl
@[simp] theorem CoreSt.setX_mem (c : CoreSt) (r : Nat) (v : BitVec 128) : (c.setX r v).mem = c.mem := rfl
@[simp] theorem CoreSt.setX_memBad (c : CoreSt) (r : Nat) (v : BitVec 128) : (c.setX r v).memBad = c.memBad := rfl
@[simp] theorem CoreSt.setX_acc (c : CoreSt) (r : Nat) (v : BitVec 128) : (c.setX r v).acc = c.acc := rfl
@[simp] theorem CoreSt.setX_accRows (c : CoreSt) (r : Nat) (v : BitVec 128) : (c.setX r v).accRows = c.accRows := rfl
@[simp] theorem CoreSt.setX_accBad (c : CoreSt) (r : Nat) (v : BitVec 128) : (c.setX r v).accBad = c.accBad := rfl
@[simp] theorem CoreSt.setX_tiles (c : CoreSt) (r : Nat) (v : BitVec 128) : (c.setX r v).tiles = c.tiles := rfl
@[simp] theorem CoreSt.setX_tileBad (c : CoreSt) (r : Nat) (v : BitVec 128) : (c.setX r v).tileBad = c.tileBad := rfl
@[simp] theorem CoreSt.setX_q0 (c : CoreSt) (r : Nat) (v : BitVec 128) : (c.setX r v).q0 = c.q0 := rfl
@[simp] theorem CoreSt.setX_q0Held (c : CoreSt) (r : Nat) (v : BitVec 128) : (c.setX r v).q0Held = c.q0Held := rfl
@[simp] theorem CoreSt.setX_q1 (c : CoreSt) (r : Nat) (v : BitVec 128) : (c.setX r v).q1 = c.q1 := rfl
@[simp] theorem CoreSt.setX_q2 (c : CoreSt) (r : Nat) (v : BitVec 128) : (c.setX r v).q2 = c.q2 := rfl
@[simp] theorem CoreSt.setX_q3 (c : CoreSt) (r : Nat) (v : BitVec 128) : (c.setX r v).q3 = c.q3 := rfl
@[simp] theorem CoreSt.setX_q3Ovf (c : CoreSt) (r : Nat) (v : BitVec 128) : (c.setX r v).q3Ovf = c.q3Ovf := rfl
@[simp] theorem CoreSt.setX_slog (c : CoreSt) (r : Nat) (v : BitVec 128) : (c.setX r v).slog = c.slog := rfl
@[simp] theorem CoreSt.setX_icache (c : CoreSt) (r : Nat) (v : BitVec 128) : (c.setX r v).icache = c.icache := rfl
@[simp] theorem CoreSt.setX_istale (c : CoreSt) (r : Nat) (v : BitVec 128) : (c.setX r v).istale = c.istale := rfl
@[simp] theorem CoreSt.setX_itlb (c : CoreSt) (r : Nat) (v : BitVec 128) : (c.setX r v).itlb = c.itlb := rfl
@[simp] theorem CoreSt.setX_dtlb (c : CoreSt) (r : Nat) (v : BitVec 128) : (c.setX r v).dtlb = c.dtlb := rfl
@[simp] theorem CoreSt.setX_arr (c : CoreSt) (r : Nat) (v : BitVec 128) : (c.setX r v).arr = c.arr := rfl
@[simp] theorem CoreSt.setX_done (c : CoreSt) (r : Nat) (v : BitVec 128) : (c.setX r v).done = c.done := rfl
@[simp] theorem CoreSt.setX_owed (c : CoreSt) (r : Nat) (v : BitVec 128) : (c.setX r v).owed = c.owed := rfl
@[simp] theorem CoreSt.setX_twe (c : CoreSt) (r : Nat) (v : BitVec 128) : (c.setX r v).twe = c.twe := rfl
@[simp] theorem CoreSt.setX_tbuf (c : CoreSt) (r : Nat) (v : BitVec 128) : (c.setX r v).tbuf = c.tbuf := rfl
@[simp] theorem CoreSt.setX_tbufBad (c : CoreSt) (r : Nat) (v : BitVec 128) : (c.setX r v).tbufBad = c.tbufBad := rfl
@[simp] theorem CoreSt.setX_c9 (c : CoreSt) (r : Nat) (v : BitVec 128) : (c.setX r v).c9 = c.c9 := rfl
@[simp] theorem CoreSt.setX_c9Sent (c : CoreSt) (r : Nat) (v : BitVec 128) : (c.setX r v).c9Sent = c.c9Sent := rfl
@[simp] theorem CoreSt.setX_seiz (c : CoreSt) (r : Nat) (v : BitVec 128) : (c.setX r v).seiz = c.seiz := rfl
@[simp] theorem CoreSt.setX_seizPhase (c : CoreSt) (r : Nat) (v : BitVec 128) : (c.setX r v).seizPhase = c.seizPhase := rfl
@[simp] theorem CoreSt.setX_seizTacc (c : CoreSt) (r : Nat) (v : BitVec 128) : (c.setX r v).seizTacc = c.seizTacc := rfl
@[simp] theorem CoreSt.setX_seizTbeat (c : CoreSt) (r : Nat) (v : BitVec 128) : (c.setX r v).seizTbeat = c.seizTbeat := rfl
@[simp] theorem CoreSt.setX_seizSave (c : CoreSt) (r : Nat) (v : BitVec 128) : (c.setX r v).seizSave = c.seizSave := rfl
@[simp] theorem CoreSt.setX_seizResult (c : CoreSt) (r : Nat) (v : BitVec 128) : (c.setX r v).seizResult = c.seizResult := rfl
@[simp] theorem CoreSt.setX_seizStatus (c : CoreSt) (r : Nat) (v : BitVec 128) : (c.setX r v).seizStatus = c.seizStatus := rfl
@[simp] theorem CoreSt.setX_seizPwr (c : CoreSt) (r : Nat) (v : BitVec 128) : (c.setX r v).seizPwr = c.seizPwr := rfl
@[simp] theorem CoreSt.setX_seizTries (c : CoreSt) (r : Nat) (v : BitVec 128) : (c.setX r v).seizTries = c.seizTries := rfl
@[simp] theorem CoreSt.setX_readOrder (c : CoreSt) (r : Nat) (v : BitVec 128) : (c.setX r v).readOrder = c.readOrder := rfl
@[simp] theorem CoreSt.setX_draws (c : CoreSt) (r : Nat) (v : BitVec 128) : (c.setX r v).draws = c.draws := rfl
@[simp] theorem CoreSt.setX_reseeds (c : CoreSt) (r : Nat) (v : BitVec 128) : (c.setX r v).reseeds = c.reseeds := rfl
@[simp] theorem CoreSt.setX_clearing (c : CoreSt) (r : Nat) (v : BitVec 128) : (c.setX r v).clearing = c.clearing := rfl
@[simp] theorem CoreSt.setX_scrubbing (c : CoreSt) (r : Nat) (v : BitVec 128) : (c.setX r v).scrubbing = c.scrubbing := rfl
@[simp] theorem CoreSt.setX_share (c : CoreSt) (r : Nat) (v : BitVec 128) : (c.setX r v).share = c.share := rfl
@[simp] theorem CoreSt.setX_taskOn (c : CoreSt) (r : Nat) (v : BitVec 128) : (c.setX r v).taskOn = c.taskOn := rfl
@[simp] theorem CoreSt.setX_inStep (c : CoreSt) (r : Nat) (v : BitVec 128) : (c.setX r v).inStep = c.inStep := rfl
@[simp] theorem CoreSt.setX_xph (c : CoreSt) (r : Nat) (v : BitVec 128) : (c.setX r v).xph = c.xph := rfl
@[simp] theorem CoreSt.setX_skew (c : CoreSt) (r : Nat) (v : BitVec 128) : (c.setX r v).skew = c.skew := rfl
@[simp] theorem CoreSt.setX_skewed (c : CoreSt) (r : Nat) (v : BitVec 128) : (c.setX r v).skewed = c.skewed := rfl
@[simp] theorem CoreSt.setX_pair (c : CoreSt) (r : Nat) (v : BitVec 128) : (c.setX r v).pair = c.pair := rfl
@[simp] theorem CoreSt.setX_preempting (c : CoreSt) (r : Nat) (v : BitVec 128) : (c.setX r v).preempting = c.preempting := rfl
@[simp] theorem CoreSt.setX_egu (c : CoreSt) (r : Nat) (v : BitVec 128) : (c.setX r v).egu = c.egu := rfl
@[simp] theorem CoreSt.setX_spe (c : CoreSt) (r : Nat) (v : BitVec 128) : (c.setX r v).spe = c.spe := rfl
@[simp] theorem CoreSt.setX_fwBank (c : CoreSt) (r : Nat) (v : BitVec 128) : (c.setX r v).fwBank = c.fwBank := rfl
@[simp] theorem CoreSt.setX_fwPending (c : CoreSt) (r : Nat) (v : BitVec 128) : (c.setX r v).fwPending = c.fwPending := rfl
@[simp] theorem CoreSt.setX_pwr (c : CoreSt) (r : Nat) (v : BitVec 128) : (c.setX r v).pwr = c.pwr := rfl
@[simp] theorem CoreSt.setX_pwrNext (c : CoreSt) (r : Nat) (v : BitVec 128) : (c.setX r v).pwrNext = c.pwrNext := rfl

/-! ### Fields of a context -/

@[simp] theorem Ctx.setG_run (x : Ctx) (r : Nat) (v : Word) : (x.setG r v).run = x.run := by unfold Ctx.setG; split <;> rfl
@[simp] theorem Ctx.setG_pc (x : Ctx) (r : Nat) (v : Word) : (x.setG r v).pc = x.pc := by unfold Ctx.setG; split <;> rfl
@[simp] theorem Ctx.setG_p (x : Ctx) (r : Nat) (v : Word) : (x.setG r v).p = x.p := by unfold Ctx.setG; split <;> rfl
@[simp] theorem Ctx.setG_v (x : Ctx) (r : Nat) (v : Word) : (x.setG r v).v = x.v := by unfold Ctx.setG; split <;> rfl
@[simp] theorem Ctx.setG_a (x : Ctx) (r : Nat) (v : Word) : (x.setG r v).a = x.a := by unfold Ctx.setG; split <;> rfl
@[simp] theorem Ctx.setG_sys (x : Ctx) (r : Nat) (v : Word) : (x.setG r v).sys = x.sys := by unfold Ctx.setG; split <;> rfl
@[simp] theorem Ctx.setG_streams (x : Ctx) (r : Nat) (v : Word) : (x.setG r v).streams = x.streams := by unfold Ctx.setG; split <;> rfl
@[simp] theorem Ctx.setG_replayT (x : Ctx) (r : Nat) (v : Word) : (x.setG r v).replayT = x.replayT := by unfold Ctx.setG; split <;> rfl
@[simp] theorem Ctx.setG_replayM (x : Ctx) (r : Nat) (v : Word) : (x.setG r v).replayM = x.replayM := by unfold Ctx.setG; split <;> rfl
@[simp] theorem Ctx.setG_restart (x : Ctx) (r : Nat) (v : Word) : (x.setG r v).restart = x.restart := by unfold Ctx.setG; split <;> rfl
@[simp] theorem Ctx.setG_event (x : Ctx) (r : Nat) (v : Word) : (x.setG r v).event = x.event := by unfold Ctx.setG; split <;> rfl
@[simp] theorem Ctx.setG_async (x : Ctx) (r : Nat) (v : Word) : (x.setG r v).async = x.async := by unfold Ctx.setG; split <;> rfl
@[simp] theorem Ctx.setG_asyncHeld (x : Ctx) (r : Nat) (v : Word) : (x.setG r v).asyncHeld = x.asyncHeld := by unfold Ctx.setG; split <;> rfl
@[simp] theorem Ctx.setG_passed (x : Ctx) (r : Nat) (v : Word) : (x.setG r v).passed = x.passed := by unfold Ctx.setG; split <;> rfl
@[simp] theorem Ctx.setG_credit (x : Ctx) (r : Nat) (v : Word) : (x.setG r v).credit = x.credit := by unfold Ctx.setG; split <;> rfl
@[simp] theorem Ctx.setG_holdPage (x : Ctx) (r : Nat) (v : Word) : (x.setG r v).holdPage = x.holdPage := by unfold Ctx.setG; split <;> rfl
@[simp] theorem Ctx.setG_invalidAt (x : Ctx) (r : Nat) (v : Word) : (x.setG r v).invalidAt = x.invalidAt := by unfold Ctx.setG; split <;> rfl
@[simp] theorem Ctx.setG_place (x : Ctx) (r : Nat) (v : Word) : (x.setG r v).place = x.place := by unfold Ctx.setG; split <;> rfl
@[simp] theorem Ctx.setG_dispatching (x : Ctx) (r : Nat) (v : Word) : (x.setG r v).dispatching = x.dispatching := by unfold Ctx.setG; split <;> rfl
@[simp] theorem Ctx.setG_timeSeen (x : Ctx) (r : Nat) (v : Word) : (x.setG r v).timeSeen = x.timeSeen := by unfold Ctx.setG; split <;> rfl
@[simp] theorem Ctx.setG_cleaned (x : Ctx) (r : Nat) (v : Word) : (x.setG r v).cleaned = x.cleaned := by unfold Ctx.setG; split <;> rfl
@[simp] theorem Ctx.setG_isReleased (x : Ctx) (r : Nat) (v : Word) : (x.setG r v).isReleased = x.isReleased := by unfold Ctx.setG; split <;> rfl
@[simp] theorem Ctx.setG_pend (x : Ctx) (r : Nat) (v : Word) : (x.setG r v).pend = x.pend := by unfold Ctx.setG; split <;> rfl
@[simp] theorem Ctx.setG_tpend (x : Ctx) (r : Nat) (v : Word) : (x.setG r v).tpend = x.tpend := by unfold Ctx.setG; split <;> rfl
@[simp] theorem Ctx.setG_tcfg (x : Ctx) (r : Nat) (v : Word) : (x.setG r v).tcfg = x.tcfg := by unfold Ctx.setG; split <;> rfl
@[simp] theorem Ctx.setG_fired (x : Ctx) (r : Nat) (v : Word) : (x.setG r v).fired = x.fired := by unfold Ctx.setG; split <;> rfl
@[simp] theorem Ctx.setG_fwPending (x : Ctx) (r : Nat) (v : Word) : (x.setG r v).fwPending = x.fwPending := by unfold Ctx.setG; split <;> rfl

@[simp] theorem Ctx.setP_run (x : Ctx) (r : Nat) (v : Pred) : (x.setP r v).run = x.run := by unfold Ctx.setP; split <;> rfl
@[simp] theorem Ctx.setP_pc (x : Ctx) (r : Nat) (v : Pred) : (x.setP r v).pc = x.pc := by unfold Ctx.setP; split <;> rfl
@[simp] theorem Ctx.setP_g (x : Ctx) (r : Nat) (v : Pred) : (x.setP r v).g = x.g := by unfold Ctx.setP; split <;> rfl
@[simp] theorem Ctx.setP_v (x : Ctx) (r : Nat) (v : Pred) : (x.setP r v).v = x.v := by unfold Ctx.setP; split <;> rfl
@[simp] theorem Ctx.setP_a (x : Ctx) (r : Nat) (v : Pred) : (x.setP r v).a = x.a := by unfold Ctx.setP; split <;> rfl
@[simp] theorem Ctx.setP_sys (x : Ctx) (r : Nat) (v : Pred) : (x.setP r v).sys = x.sys := by unfold Ctx.setP; split <;> rfl
@[simp] theorem Ctx.setP_streams (x : Ctx) (r : Nat) (v : Pred) : (x.setP r v).streams = x.streams := by unfold Ctx.setP; split <;> rfl
@[simp] theorem Ctx.setP_replayT (x : Ctx) (r : Nat) (v : Pred) : (x.setP r v).replayT = x.replayT := by unfold Ctx.setP; split <;> rfl
@[simp] theorem Ctx.setP_replayM (x : Ctx) (r : Nat) (v : Pred) : (x.setP r v).replayM = x.replayM := by unfold Ctx.setP; split <;> rfl
@[simp] theorem Ctx.setP_restart (x : Ctx) (r : Nat) (v : Pred) : (x.setP r v).restart = x.restart := by unfold Ctx.setP; split <;> rfl
@[simp] theorem Ctx.setP_event (x : Ctx) (r : Nat) (v : Pred) : (x.setP r v).event = x.event := by unfold Ctx.setP; split <;> rfl
@[simp] theorem Ctx.setP_async (x : Ctx) (r : Nat) (v : Pred) : (x.setP r v).async = x.async := by unfold Ctx.setP; split <;> rfl
@[simp] theorem Ctx.setP_asyncHeld (x : Ctx) (r : Nat) (v : Pred) : (x.setP r v).asyncHeld = x.asyncHeld := by unfold Ctx.setP; split <;> rfl
@[simp] theorem Ctx.setP_passed (x : Ctx) (r : Nat) (v : Pred) : (x.setP r v).passed = x.passed := by unfold Ctx.setP; split <;> rfl
@[simp] theorem Ctx.setP_credit (x : Ctx) (r : Nat) (v : Pred) : (x.setP r v).credit = x.credit := by unfold Ctx.setP; split <;> rfl
@[simp] theorem Ctx.setP_holdPage (x : Ctx) (r : Nat) (v : Pred) : (x.setP r v).holdPage = x.holdPage := by unfold Ctx.setP; split <;> rfl
@[simp] theorem Ctx.setP_invalidAt (x : Ctx) (r : Nat) (v : Pred) : (x.setP r v).invalidAt = x.invalidAt := by unfold Ctx.setP; split <;> rfl
@[simp] theorem Ctx.setP_place (x : Ctx) (r : Nat) (v : Pred) : (x.setP r v).place = x.place := by unfold Ctx.setP; split <;> rfl
@[simp] theorem Ctx.setP_dispatching (x : Ctx) (r : Nat) (v : Pred) : (x.setP r v).dispatching = x.dispatching := by unfold Ctx.setP; split <;> rfl
@[simp] theorem Ctx.setP_timeSeen (x : Ctx) (r : Nat) (v : Pred) : (x.setP r v).timeSeen = x.timeSeen := by unfold Ctx.setP; split <;> rfl
@[simp] theorem Ctx.setP_cleaned (x : Ctx) (r : Nat) (v : Pred) : (x.setP r v).cleaned = x.cleaned := by unfold Ctx.setP; split <;> rfl
@[simp] theorem Ctx.setP_isReleased (x : Ctx) (r : Nat) (v : Pred) : (x.setP r v).isReleased = x.isReleased := by unfold Ctx.setP; split <;> rfl
@[simp] theorem Ctx.setP_pend (x : Ctx) (r : Nat) (v : Pred) : (x.setP r v).pend = x.pend := by unfold Ctx.setP; split <;> rfl
@[simp] theorem Ctx.setP_tpend (x : Ctx) (r : Nat) (v : Pred) : (x.setP r v).tpend = x.tpend := by unfold Ctx.setP; split <;> rfl
@[simp] theorem Ctx.setP_tcfg (x : Ctx) (r : Nat) (v : Pred) : (x.setP r v).tcfg = x.tcfg := by unfold Ctx.setP; split <;> rfl
@[simp] theorem Ctx.setP_fired (x : Ctx) (r : Nat) (v : Pred) : (x.setP r v).fired = x.fired := by unfold Ctx.setP; split <;> rfl
@[simp] theorem Ctx.setP_fwPending (x : Ctx) (r : Nat) (v : Pred) : (x.setP r v).fwPending = x.fwPending := by unfold Ctx.setP; split <;> rfl

@[simp] theorem Ctx.setV_run (x : Ctx) (r : Nat) (v : Vec) : (x.setV r v).run = x.run := rfl
@[simp] theorem Ctx.setV_pc (x : Ctx) (r : Nat) (v : Vec) : (x.setV r v).pc = x.pc := rfl
@[simp] theorem Ctx.setV_g (x : Ctx) (r : Nat) (v : Vec) : (x.setV r v).g = x.g := rfl
@[simp] theorem Ctx.setV_p (x : Ctx) (r : Nat) (v : Vec) : (x.setV r v).p = x.p := rfl
@[simp] theorem Ctx.setV_a (x : Ctx) (r : Nat) (v : Vec) : (x.setV r v).a = x.a := rfl
@[simp] theorem Ctx.setV_sys (x : Ctx) (r : Nat) (v : Vec) : (x.setV r v).sys = x.sys := rfl
@[simp] theorem Ctx.setV_streams (x : Ctx) (r : Nat) (v : Vec) : (x.setV r v).streams = x.streams := rfl
@[simp] theorem Ctx.setV_replayT (x : Ctx) (r : Nat) (v : Vec) : (x.setV r v).replayT = x.replayT := rfl
@[simp] theorem Ctx.setV_replayM (x : Ctx) (r : Nat) (v : Vec) : (x.setV r v).replayM = x.replayM := rfl
@[simp] theorem Ctx.setV_restart (x : Ctx) (r : Nat) (v : Vec) : (x.setV r v).restart = x.restart := rfl
@[simp] theorem Ctx.setV_event (x : Ctx) (r : Nat) (v : Vec) : (x.setV r v).event = x.event := rfl
@[simp] theorem Ctx.setV_async (x : Ctx) (r : Nat) (v : Vec) : (x.setV r v).async = x.async := rfl
@[simp] theorem Ctx.setV_asyncHeld (x : Ctx) (r : Nat) (v : Vec) : (x.setV r v).asyncHeld = x.asyncHeld := rfl
@[simp] theorem Ctx.setV_passed (x : Ctx) (r : Nat) (v : Vec) : (x.setV r v).passed = x.passed := rfl
@[simp] theorem Ctx.setV_credit (x : Ctx) (r : Nat) (v : Vec) : (x.setV r v).credit = x.credit := rfl
@[simp] theorem Ctx.setV_holdPage (x : Ctx) (r : Nat) (v : Vec) : (x.setV r v).holdPage = x.holdPage := rfl
@[simp] theorem Ctx.setV_invalidAt (x : Ctx) (r : Nat) (v : Vec) : (x.setV r v).invalidAt = x.invalidAt := rfl
@[simp] theorem Ctx.setV_place (x : Ctx) (r : Nat) (v : Vec) : (x.setV r v).place = x.place := rfl
@[simp] theorem Ctx.setV_dispatching (x : Ctx) (r : Nat) (v : Vec) : (x.setV r v).dispatching = x.dispatching := rfl
@[simp] theorem Ctx.setV_timeSeen (x : Ctx) (r : Nat) (v : Vec) : (x.setV r v).timeSeen = x.timeSeen := rfl
@[simp] theorem Ctx.setV_cleaned (x : Ctx) (r : Nat) (v : Vec) : (x.setV r v).cleaned = x.cleaned := rfl
@[simp] theorem Ctx.setV_isReleased (x : Ctx) (r : Nat) (v : Vec) : (x.setV r v).isReleased = x.isReleased := rfl
@[simp] theorem Ctx.setV_pend (x : Ctx) (r : Nat) (v : Vec) : (x.setV r v).pend = x.pend := rfl
@[simp] theorem Ctx.setV_tpend (x : Ctx) (r : Nat) (v : Vec) : (x.setV r v).tpend = x.tpend := rfl
@[simp] theorem Ctx.setV_tcfg (x : Ctx) (r : Nat) (v : Vec) : (x.setV r v).tcfg = x.tcfg := rfl
@[simp] theorem Ctx.setV_fired (x : Ctx) (r : Nat) (v : Vec) : (x.setV r v).fired = x.fired := rfl
@[simp] theorem Ctx.setV_fwPending (x : Ctx) (r : Nat) (v : Vec) : (x.setV r v).fwPending = x.fwPending := rfl

@[simp] theorem Ctx.setA_run (x : Ctx) (r : Nat) (v : Word) : (x.setA r v).run = x.run := rfl
@[simp] theorem Ctx.setA_pc (x : Ctx) (r : Nat) (v : Word) : (x.setA r v).pc = x.pc := rfl
@[simp] theorem Ctx.setA_g (x : Ctx) (r : Nat) (v : Word) : (x.setA r v).g = x.g := rfl
@[simp] theorem Ctx.setA_p (x : Ctx) (r : Nat) (v : Word) : (x.setA r v).p = x.p := rfl
@[simp] theorem Ctx.setA_v (x : Ctx) (r : Nat) (v : Word) : (x.setA r v).v = x.v := rfl
@[simp] theorem Ctx.setA_sys (x : Ctx) (r : Nat) (v : Word) : (x.setA r v).sys = x.sys := rfl
@[simp] theorem Ctx.setA_streams (x : Ctx) (r : Nat) (v : Word) : (x.setA r v).streams = x.streams := rfl
@[simp] theorem Ctx.setA_replayT (x : Ctx) (r : Nat) (v : Word) : (x.setA r v).replayT = x.replayT := rfl
@[simp] theorem Ctx.setA_replayM (x : Ctx) (r : Nat) (v : Word) : (x.setA r v).replayM = x.replayM := rfl
@[simp] theorem Ctx.setA_restart (x : Ctx) (r : Nat) (v : Word) : (x.setA r v).restart = x.restart := rfl
@[simp] theorem Ctx.setA_event (x : Ctx) (r : Nat) (v : Word) : (x.setA r v).event = x.event := rfl
@[simp] theorem Ctx.setA_async (x : Ctx) (r : Nat) (v : Word) : (x.setA r v).async = x.async := rfl
@[simp] theorem Ctx.setA_asyncHeld (x : Ctx) (r : Nat) (v : Word) : (x.setA r v).asyncHeld = x.asyncHeld := rfl
@[simp] theorem Ctx.setA_passed (x : Ctx) (r : Nat) (v : Word) : (x.setA r v).passed = x.passed := rfl
@[simp] theorem Ctx.setA_credit (x : Ctx) (r : Nat) (v : Word) : (x.setA r v).credit = x.credit := rfl
@[simp] theorem Ctx.setA_holdPage (x : Ctx) (r : Nat) (v : Word) : (x.setA r v).holdPage = x.holdPage := rfl
@[simp] theorem Ctx.setA_invalidAt (x : Ctx) (r : Nat) (v : Word) : (x.setA r v).invalidAt = x.invalidAt := rfl
@[simp] theorem Ctx.setA_place (x : Ctx) (r : Nat) (v : Word) : (x.setA r v).place = x.place := rfl
@[simp] theorem Ctx.setA_dispatching (x : Ctx) (r : Nat) (v : Word) : (x.setA r v).dispatching = x.dispatching := rfl
@[simp] theorem Ctx.setA_timeSeen (x : Ctx) (r : Nat) (v : Word) : (x.setA r v).timeSeen = x.timeSeen := rfl
@[simp] theorem Ctx.setA_cleaned (x : Ctx) (r : Nat) (v : Word) : (x.setA r v).cleaned = x.cleaned := rfl
@[simp] theorem Ctx.setA_isReleased (x : Ctx) (r : Nat) (v : Word) : (x.setA r v).isReleased = x.isReleased := rfl
@[simp] theorem Ctx.setA_pend (x : Ctx) (r : Nat) (v : Word) : (x.setA r v).pend = x.pend := rfl
@[simp] theorem Ctx.setA_tpend (x : Ctx) (r : Nat) (v : Word) : (x.setA r v).tpend = x.tpend := rfl
@[simp] theorem Ctx.setA_tcfg (x : Ctx) (r : Nat) (v : Word) : (x.setA r v).tcfg = x.tcfg := rfl
@[simp] theorem Ctx.setA_fired (x : Ctx) (r : Nat) (v : Word) : (x.setA r v).fired = x.fired := rfl
@[simp] theorem Ctx.setA_fwPending (x : Ctx) (r : Nat) (v : Word) : (x.setA r v).fwPending = x.fwPending := rfl

@[simp] theorem Ctx.setSysr_run (x : Ctx) (n : Nat) (v : Word) : (x.setSysr n v).run = x.run := rfl
@[simp] theorem Ctx.setSysr_pc (x : Ctx) (n : Nat) (v : Word) : (x.setSysr n v).pc = x.pc := rfl
@[simp] theorem Ctx.setSysr_g (x : Ctx) (n : Nat) (v : Word) : (x.setSysr n v).g = x.g := rfl
@[simp] theorem Ctx.setSysr_p (x : Ctx) (n : Nat) (v : Word) : (x.setSysr n v).p = x.p := rfl
@[simp] theorem Ctx.setSysr_v (x : Ctx) (n : Nat) (v : Word) : (x.setSysr n v).v = x.v := rfl
@[simp] theorem Ctx.setSysr_a (x : Ctx) (n : Nat) (v : Word) : (x.setSysr n v).a = x.a := rfl
@[simp] theorem Ctx.setSysr_streams (x : Ctx) (n : Nat) (v : Word) : (x.setSysr n v).streams = x.streams := rfl
@[simp] theorem Ctx.setSysr_replayT (x : Ctx) (n : Nat) (v : Word) : (x.setSysr n v).replayT = x.replayT := rfl
@[simp] theorem Ctx.setSysr_replayM (x : Ctx) (n : Nat) (v : Word) : (x.setSysr n v).replayM = x.replayM := rfl
@[simp] theorem Ctx.setSysr_restart (x : Ctx) (n : Nat) (v : Word) : (x.setSysr n v).restart = x.restart := rfl
@[simp] theorem Ctx.setSysr_event (x : Ctx) (n : Nat) (v : Word) : (x.setSysr n v).event = x.event := rfl
@[simp] theorem Ctx.setSysr_async (x : Ctx) (n : Nat) (v : Word) : (x.setSysr n v).async = x.async := rfl
@[simp] theorem Ctx.setSysr_asyncHeld (x : Ctx) (n : Nat) (v : Word) : (x.setSysr n v).asyncHeld = x.asyncHeld := rfl
@[simp] theorem Ctx.setSysr_passed (x : Ctx) (n : Nat) (v : Word) : (x.setSysr n v).passed = x.passed := rfl
@[simp] theorem Ctx.setSysr_credit (x : Ctx) (n : Nat) (v : Word) : (x.setSysr n v).credit = x.credit := rfl
@[simp] theorem Ctx.setSysr_holdPage (x : Ctx) (n : Nat) (v : Word) : (x.setSysr n v).holdPage = x.holdPage := rfl
@[simp] theorem Ctx.setSysr_invalidAt (x : Ctx) (n : Nat) (v : Word) : (x.setSysr n v).invalidAt = x.invalidAt := rfl
@[simp] theorem Ctx.setSysr_place (x : Ctx) (n : Nat) (v : Word) : (x.setSysr n v).place = x.place := rfl
@[simp] theorem Ctx.setSysr_dispatching (x : Ctx) (n : Nat) (v : Word) : (x.setSysr n v).dispatching = x.dispatching := rfl
@[simp] theorem Ctx.setSysr_timeSeen (x : Ctx) (n : Nat) (v : Word) : (x.setSysr n v).timeSeen = x.timeSeen := rfl
@[simp] theorem Ctx.setSysr_cleaned (x : Ctx) (n : Nat) (v : Word) : (x.setSysr n v).cleaned = x.cleaned := rfl
@[simp] theorem Ctx.setSysr_isReleased (x : Ctx) (n : Nat) (v : Word) : (x.setSysr n v).isReleased = x.isReleased := rfl
@[simp] theorem Ctx.setSysr_pend (x : Ctx) (n : Nat) (v : Word) : (x.setSysr n v).pend = x.pend := rfl
@[simp] theorem Ctx.setSysr_tpend (x : Ctx) (n : Nat) (v : Word) : (x.setSysr n v).tpend = x.tpend := rfl
@[simp] theorem Ctx.setSysr_tcfg (x : Ctx) (n : Nat) (v : Word) : (x.setSysr n v).tcfg = x.tcfg := rfl
@[simp] theorem Ctx.setSysr_fired (x : Ctx) (n : Nat) (v : Word) : (x.setSysr n v).fired = x.fired := rfl
@[simp] theorem Ctx.setSysr_fwPending (x : Ctx) (n : Nat) (v : Word) : (x.setSysr n v).fwPending = x.fwPending := rfl

@[simp] theorem Ctx.awake_pc (x : Ctx) : (x.awake).pc = x.pc := rfl
@[simp] theorem Ctx.awake_g (x : Ctx) : (x.awake).g = x.g := rfl
@[simp] theorem Ctx.awake_p (x : Ctx) : (x.awake).p = x.p := rfl
@[simp] theorem Ctx.awake_v (x : Ctx) : (x.awake).v = x.v := rfl
@[simp] theorem Ctx.awake_a (x : Ctx) : (x.awake).a = x.a := rfl
@[simp] theorem Ctx.awake_sys (x : Ctx) : (x.awake).sys = x.sys := rfl
@[simp] theorem Ctx.awake_streams (x : Ctx) : (x.awake).streams = x.streams := rfl
@[simp] theorem Ctx.awake_replayT (x : Ctx) : (x.awake).replayT = x.replayT := rfl
@[simp] theorem Ctx.awake_replayM (x : Ctx) : (x.awake).replayM = x.replayM := rfl
@[simp] theorem Ctx.awake_event (x : Ctx) : (x.awake).event = x.event := rfl
@[simp] theorem Ctx.awake_async (x : Ctx) : (x.awake).async = x.async := rfl
@[simp] theorem Ctx.awake_asyncHeld (x : Ctx) : (x.awake).asyncHeld = x.asyncHeld := rfl
@[simp] theorem Ctx.awake_passed (x : Ctx) : (x.awake).passed = x.passed := rfl
@[simp] theorem Ctx.awake_credit (x : Ctx) : (x.awake).credit = x.credit := rfl
@[simp] theorem Ctx.awake_dispatching (x : Ctx) : (x.awake).dispatching = x.dispatching := rfl
@[simp] theorem Ctx.awake_timeSeen (x : Ctx) : (x.awake).timeSeen = x.timeSeen := rfl
@[simp] theorem Ctx.awake_cleaned (x : Ctx) : (x.awake).cleaned = x.cleaned := rfl
@[simp] theorem Ctx.awake_isReleased (x : Ctx) : (x.awake).isReleased = x.isReleased := rfl
@[simp] theorem Ctx.awake_pend (x : Ctx) : (x.awake).pend = x.pend := rfl
@[simp] theorem Ctx.awake_tpend (x : Ctx) : (x.awake).tpend = x.tpend := rfl
@[simp] theorem Ctx.awake_tcfg (x : Ctx) : (x.awake).tcfg = x.tcfg := rfl
@[simp] theorem Ctx.awake_fired (x : Ctx) : (x.awake).fired = x.fired := rfl
@[simp] theorem Ctx.awake_fwPending (x : Ctx) : (x.awake).fwPending = x.fwPending := rfl

@[simp] theorem Ctx.setReplay_run (x : Ctx) (r : Option Replay) : (x.setReplay r).run = x.run := by unfold Ctx.setReplay; split <;> rfl
@[simp] theorem Ctx.setReplay_pc (x : Ctx) (r : Option Replay) : (x.setReplay r).pc = x.pc := by unfold Ctx.setReplay; split <;> rfl
@[simp] theorem Ctx.setReplay_g (x : Ctx) (r : Option Replay) : (x.setReplay r).g = x.g := by unfold Ctx.setReplay; split <;> rfl
@[simp] theorem Ctx.setReplay_p (x : Ctx) (r : Option Replay) : (x.setReplay r).p = x.p := by unfold Ctx.setReplay; split <;> rfl
@[simp] theorem Ctx.setReplay_v (x : Ctx) (r : Option Replay) : (x.setReplay r).v = x.v := by unfold Ctx.setReplay; split <;> rfl
@[simp] theorem Ctx.setReplay_a (x : Ctx) (r : Option Replay) : (x.setReplay r).a = x.a := by unfold Ctx.setReplay; split <;> rfl
@[simp] theorem Ctx.setReplay_sys (x : Ctx) (r : Option Replay) : (x.setReplay r).sys = x.sys := by unfold Ctx.setReplay; split <;> rfl
@[simp] theorem Ctx.setReplay_streams (x : Ctx) (r : Option Replay) : (x.setReplay r).streams = x.streams := by unfold Ctx.setReplay; split <;> rfl
@[simp] theorem Ctx.setReplay_restart (x : Ctx) (r : Option Replay) : (x.setReplay r).restart = x.restart := by unfold Ctx.setReplay; split <;> rfl
@[simp] theorem Ctx.setReplay_event (x : Ctx) (r : Option Replay) : (x.setReplay r).event = x.event := by unfold Ctx.setReplay; split <;> rfl
@[simp] theorem Ctx.setReplay_async (x : Ctx) (r : Option Replay) : (x.setReplay r).async = x.async := by unfold Ctx.setReplay; split <;> rfl
@[simp] theorem Ctx.setReplay_asyncHeld (x : Ctx) (r : Option Replay) : (x.setReplay r).asyncHeld = x.asyncHeld := by unfold Ctx.setReplay; split <;> rfl
@[simp] theorem Ctx.setReplay_passed (x : Ctx) (r : Option Replay) : (x.setReplay r).passed = x.passed := by unfold Ctx.setReplay; split <;> rfl
@[simp] theorem Ctx.setReplay_credit (x : Ctx) (r : Option Replay) : (x.setReplay r).credit = x.credit := by unfold Ctx.setReplay; split <;> rfl
@[simp] theorem Ctx.setReplay_holdPage (x : Ctx) (r : Option Replay) : (x.setReplay r).holdPage = x.holdPage := by unfold Ctx.setReplay; split <;> rfl
@[simp] theorem Ctx.setReplay_invalidAt (x : Ctx) (r : Option Replay) : (x.setReplay r).invalidAt = x.invalidAt := by unfold Ctx.setReplay; split <;> rfl
@[simp] theorem Ctx.setReplay_place (x : Ctx) (r : Option Replay) : (x.setReplay r).place = x.place := by unfold Ctx.setReplay; split <;> rfl
@[simp] theorem Ctx.setReplay_dispatching (x : Ctx) (r : Option Replay) : (x.setReplay r).dispatching = x.dispatching := by unfold Ctx.setReplay; split <;> rfl
@[simp] theorem Ctx.setReplay_timeSeen (x : Ctx) (r : Option Replay) : (x.setReplay r).timeSeen = x.timeSeen := by unfold Ctx.setReplay; split <;> rfl
@[simp] theorem Ctx.setReplay_cleaned (x : Ctx) (r : Option Replay) : (x.setReplay r).cleaned = x.cleaned := by unfold Ctx.setReplay; split <;> rfl
@[simp] theorem Ctx.setReplay_isReleased (x : Ctx) (r : Option Replay) : (x.setReplay r).isReleased = x.isReleased := by unfold Ctx.setReplay; split <;> rfl
@[simp] theorem Ctx.setReplay_pend (x : Ctx) (r : Option Replay) : (x.setReplay r).pend = x.pend := by unfold Ctx.setReplay; split <;> rfl
@[simp] theorem Ctx.setReplay_tpend (x : Ctx) (r : Option Replay) : (x.setReplay r).tpend = x.tpend := by unfold Ctx.setReplay; split <;> rfl
@[simp] theorem Ctx.setReplay_tcfg (x : Ctx) (r : Option Replay) : (x.setReplay r).tcfg = x.tcfg := by unfold Ctx.setReplay; split <;> rfl
@[simp] theorem Ctx.setReplay_fired (x : Ctx) (r : Option Replay) : (x.setReplay r).fired = x.fired := by unfold Ctx.setReplay; split <;> rfl
@[simp] theorem Ctx.setReplay_fwPending (x : Ctx) (r : Option Replay) : (x.setReplay r).fwPending = x.fwPending := by unfold Ctx.setReplay; split <;> rfl

@[simp] theorem Ctx.next_run (x : Ctx) (len : Nat) : (x.next len).run = x.run := by
  unfold Ctx.next; dsimp only; split
  · rfl
  · split
    · simp
    · split <;> simp
@[simp] theorem Ctx.next_g (x : Ctx) (len : Nat) : (x.next len).g = x.g := by
  unfold Ctx.next; dsimp only; split
  · rfl
  · split
    · simp
    · split <;> simp
@[simp] theorem Ctx.next_p (x : Ctx) (len : Nat) : (x.next len).p = x.p := by
  unfold Ctx.next; dsimp only; split
  · rfl
  · split
    · simp
    · split <;> simp
@[simp] theorem Ctx.next_v (x : Ctx) (len : Nat) : (x.next len).v = x.v := by
  unfold Ctx.next; dsimp only; split
  · rfl
  · split
    · simp
    · split <;> simp
@[simp] theorem Ctx.next_a (x : Ctx) (len : Nat) : (x.next len).a = x.a := by
  unfold Ctx.next; dsimp only; split
  · rfl
  · split
    · simp
    · split <;> simp
@[simp] theorem Ctx.next_sys (x : Ctx) (len : Nat) : (x.next len).sys = x.sys := by
  unfold Ctx.next; dsimp only; split
  · rfl
  · split
    · simp
    · split <;> simp
@[simp] theorem Ctx.next_streams (x : Ctx) (len : Nat) : (x.next len).streams = x.streams := by
  unfold Ctx.next; dsimp only; split
  · rfl
  · split
    · simp
    · split <;> simp
@[simp] theorem Ctx.next_restart (x : Ctx) (len : Nat) : (x.next len).restart = x.restart := by
  unfold Ctx.next; dsimp only; split
  · rfl
  · split
    · simp
    · split <;> simp
@[simp] theorem Ctx.next_event (x : Ctx) (len : Nat) : (x.next len).event = x.event := by
  unfold Ctx.next; dsimp only; split
  · rfl
  · split
    · simp
    · split <;> simp
@[simp] theorem Ctx.next_async (x : Ctx) (len : Nat) : (x.next len).async = x.async := by
  unfold Ctx.next; dsimp only; split
  · rfl
  · split
    · simp
    · split <;> simp
@[simp] theorem Ctx.next_asyncHeld (x : Ctx) (len : Nat) : (x.next len).asyncHeld = x.asyncHeld := by
  unfold Ctx.next; dsimp only; split
  · rfl
  · split
    · simp
    · split <;> simp
@[simp] theorem Ctx.next_passed (x : Ctx) (len : Nat) : (x.next len).passed = x.passed := by
  unfold Ctx.next; dsimp only; split
  · rfl
  · split
    · simp
    · split <;> simp
@[simp] theorem Ctx.next_credit (x : Ctx) (len : Nat) : (x.next len).credit = x.credit := by
  unfold Ctx.next; dsimp only; split
  · rfl
  · split
    · simp
    · split <;> simp
@[simp] theorem Ctx.next_holdPage (x : Ctx) (len : Nat) : (x.next len).holdPage = x.holdPage := by
  unfold Ctx.next; dsimp only; split
  · rfl
  · split
    · simp
    · split <;> simp
@[simp] theorem Ctx.next_invalidAt (x : Ctx) (len : Nat) : (x.next len).invalidAt = x.invalidAt := by
  unfold Ctx.next; dsimp only; split
  · rfl
  · split
    · simp
    · split <;> simp
@[simp] theorem Ctx.next_place (x : Ctx) (len : Nat) : (x.next len).place = x.place := by
  unfold Ctx.next; dsimp only; split
  · rfl
  · split
    · simp
    · split <;> simp
@[simp] theorem Ctx.next_dispatching (x : Ctx) (len : Nat) : (x.next len).dispatching = x.dispatching := by
  unfold Ctx.next; dsimp only; split
  · rfl
  · split
    · simp
    · split <;> simp
@[simp] theorem Ctx.next_timeSeen (x : Ctx) (len : Nat) : (x.next len).timeSeen = x.timeSeen := by
  unfold Ctx.next; dsimp only; split
  · rfl
  · split
    · simp
    · split <;> simp
@[simp] theorem Ctx.next_cleaned (x : Ctx) (len : Nat) : (x.next len).cleaned = x.cleaned := by
  unfold Ctx.next; dsimp only; split
  · rfl
  · split
    · simp
    · split <;> simp
@[simp] theorem Ctx.next_isReleased (x : Ctx) (len : Nat) : (x.next len).isReleased = x.isReleased := by
  unfold Ctx.next; dsimp only; split
  · rfl
  · split
    · simp
    · split <;> simp
@[simp] theorem Ctx.next_pend (x : Ctx) (len : Nat) : (x.next len).pend = x.pend := by
  unfold Ctx.next; dsimp only; split
  · rfl
  · split
    · simp
    · split <;> simp
@[simp] theorem Ctx.next_tpend (x : Ctx) (len : Nat) : (x.next len).tpend = x.tpend := by
  unfold Ctx.next; dsimp only; split
  · rfl
  · split
    · simp
    · split <;> simp
@[simp] theorem Ctx.next_tcfg (x : Ctx) (len : Nat) : (x.next len).tcfg = x.tcfg := by
  unfold Ctx.next; dsimp only; split
  · rfl
  · split
    · simp
    · split <;> simp
@[simp] theorem Ctx.next_fired (x : Ctx) (len : Nat) : (x.next len).fired = x.fired := by
  unfold Ctx.next; dsimp only; split
  · rfl
  · split
    · simp
    · split <;> simp
@[simp] theorem Ctx.next_fwPending (x : Ctx) (len : Nat) : (x.next len).fwPending = x.fwPending := by
  unfold Ctx.next; dsimp only; split
  · rfl
  · split
    · simp
    · split <;> simp

/-! ### Cores and contexts: the part written reads as written, every other part as before -/

@[simp] theorem State.setCore_cores (s : State) (n : Nat) (c : CoreSt) : (s.setCore n c).cores = tput s.cores n c := rfl
@[simp] theorem State.core_setCore (s : State) (n : Nat) (c : CoreSt) : (s.setCore n c).core n = c := by simp [State.core]
theorem State.core_setCore_ne (s : State) {n m : Nat} (c : CoreSt) (h : m ≠ n) : (s.setCore n c).core m = s.core m := by
  simp [State.core, tget_tput_ne _ _ _ h]
theorem State.core_setCore_if (s : State) (n m : Nat) (c : CoreSt) :
    (s.setCore n c).core m = if m = n then c else s.core m := by simp [State.core, tget_tput]
@[simp] theorem State.setCore_setCore (s : State) (n : Nat) (c d : CoreSt) : (s.setCore n c).setCore n d = s.setCore n d := by
  simp [State.setCore]

@[simp] theorem CoreSt.setCtx_ctxs (c : CoreSt) (k : Nat) (x : Ctx) : (c.setCtx k x).ctxs = tput c.ctxs k x := rfl
@[simp] theorem CoreSt.ctx_setCtx (c : CoreSt) (k : Nat) (x : Ctx) : (c.setCtx k x).ctx k = x := by simp [CoreSt.ctx]
theorem CoreSt.ctx_setCtx_ne (c : CoreSt) {k j : Nat} (x : Ctx) (h : j ≠ k) : (c.setCtx k x).ctx j = c.ctx j := by
  simp [CoreSt.ctx, tget_tput_ne _ _ _ h]
@[simp] theorem CoreSt.setCtx_setCtx (c : CoreSt) (k : Nat) (x y : Ctx) : (c.setCtx k x).setCtx k y = c.setCtx k y := by
  simp [CoreSt.setCtx]

@[simp] theorem State.me_setMe (s : State) (c : CoreSt) : (s.setMe c).me = c := by simp [State.me, State.setMe]
@[simp] theorem State.me_setMy (s : State) (x : Ctx) : (s.setMy x).me = s.me.setCtx s.cur.ctx x := by
  simp [State.me, State.setMe, State.setMy]
@[simp] theorem State.my_setMy (s : State) (x : Ctx) : (s.setMy x).my = x := by simp [State.my]
@[simp] theorem State.setMy_setMy (s : State) (x y : Ctx) : (s.setMy x).setMy y = s.setMy y := by
  simp [State.setMy, State.setMe, State.me]
theorem State.core_setMy_ne (s : State) {n : Nat} (x : Ctx) (h : n ≠ s.cur.core) : (s.setMy x).core n = s.core n :=
  s.core_setCore_ne _ h
theorem State.ctxAt_setMy_ne (s : State) {n k : Nat} (x : Ctx) (h : ¬(n = s.cur.core ∧ k = s.cur.ctx)) :
    (s.setMy x).ctxAt n k = s.ctxAt n k := by
  unfold State.ctxAt
  by_cases hn : n = s.cur.core
  · subst hn
    have hk : k ≠ s.cur.ctx := fun e => h ⟨rfl, e⟩
    change ((s.setMy x).me).ctx k = s.me.ctx k
    rw [State.me_setMy, CoreSt.ctx_setCtx_ne _ _ hk]
  · rw [State.core_setMy_ne s x hn]
@[simp] theorem State.core_at (s : State) (n k m : Nat) : (s.at n k).core m = s.core m := rfl
@[simp] theorem State.me_at (s : State) (n k : Nat) : (s.at n k).me = s.core n := rfl
@[simp] theorem State.my_at (s : State) (n k : Nat) : (s.at n k).my = s.ctxAt n k := rfl

/-! ### Registers (R12-R15, R27) -/

@[simp] theorem Ctx.getG_zero (x : Ctx) : x.getG 0 = 0 := rfl
@[simp] theorem Ctx.getP_zero (x : Ctx) : x.getP 0 = BitVec.allOnes 128 := rfl
@[simp] theorem Ctx.setG_zero (x : Ctx) (v : Word) : x.setG 0 v = x := rfl
@[simp] theorem Ctx.setP_zero (x : Ctx) (v : Pred) : x.setP 0 v = x := rfl

theorem Ctx.getG_setG (x : Ctx) {r : Nat} (v : Word) (h : r ≠ 0) : (x.setG r v).getG r = v := by
  simp [Ctx.getG, Ctx.setG, h]
theorem Ctx.getG_setG_ne (x : Ctx) {r q : Nat} (v : Word) (h : q ≠ r) : (x.setG r v).getG q = x.getG q := by
  unfold Ctx.getG Ctx.setG
  by_cases hr : r = 0
  · simp [hr]
  · simp [hr, tget_tset_ne _ _ _ h]
theorem Ctx.getP_setP (x : Ctx) {r : Nat} (v : Pred) (h : r ≠ 0) : (x.setP r v).getP r = v := by
  simp [Ctx.getP, Ctx.setP, h]
theorem Ctx.getP_setP_ne (x : Ctx) {r q : Nat} (v : Pred) (h : q ≠ r) : (x.setP r v).getP q = x.getP q := by
  unfold Ctx.getP Ctx.setP
  by_cases hr : r = 0
  · simp [hr]
  · simp [hr, tget_tset_ne _ _ _ h]
@[simp] theorem Ctx.getV_setV (x : Ctx) (r : Nat) (v : Vec) : (x.setV r v).getV r = v := by simp [Ctx.getV, Ctx.setV]
theorem Ctx.getV_setV_ne (x : Ctx) {r q : Nat} (v : Vec) (h : q ≠ r) : (x.setV r v).getV q = x.getV q := by
  simp [Ctx.getV, Ctx.setV, tget_tset_ne _ _ _ h]
@[simp] theorem Ctx.getA_setA (x : Ctx) (r : Nat) (v : Word) : (x.setA r v).getA r = v := by simp [Ctx.getA, Ctx.setA]
theorem Ctx.getA_setA_ne (x : Ctx) {r q : Nat} (v : Word) (h : q ≠ r) : (x.setA r v).getA q = x.getA q := by
  simp [Ctx.getA, Ctx.setA, tget_tset_ne _ _ _ h]
@[simp] theorem Ctx.sysr_setSysr (x : Ctx) (n : Nat) (v : Word) : (x.setSysr n v).sysr n = v := by
  simp [Ctx.sysr, Ctx.setSysr]
theorem Ctx.sysr_setSysr_ne (x : Ctx) {n m : Nat} (v : Word) (h : m ≠ n) : (x.setSysr n v).sysr m = x.sysr m := by
  simp [Ctx.sysr, Ctx.setSysr, tget_tset_ne _ _ _ h]
@[simp] theorem CoreSt.sysr_setSysr (c : CoreSt) (n : Nat) (v : Word) : (c.setSysr n v).sysr n = v := by
  simp [CoreSt.sysr, CoreSt.setSysr]
theorem CoreSt.sysr_setSysr_ne (c : CoreSt) {n m : Nat} (v : Word) (h : m ≠ n) : (c.setSysr n v).sysr m = c.sysr m := by
  simp [CoreSt.sysr, CoreSt.setSysr, tget_tset_ne _ _ _ h]

/-- A G register of the issuing context after a write; G0 discards (R12). -/
theorem State.getG_setG (s : State) (r q : Reg5) (v : Word) :
    (s.setG r v).getG q = if q = r ∧ r ≠ 0 then v else s.getG q := by
  unfold State.getG State.setG
  rw [State.my_setMy]
  by_cases h : q = r
  · subst h
    by_cases hq : q = 0
    · simp [hq]
    · have hz : q.toNat ≠ 0 := fun e => hq (BitVec.eq_of_toNat_eq (by simpa using e))
      rw [if_pos ⟨rfl, hq⟩, Ctx.getG_setG _ _ hz]
  · have : q.toNat ≠ r.toNat := fun e => h (BitVec.eq_of_toNat_eq e)
    simp [h, Ctx.getG_setG_ne _ _ this]

/-- A P register of the issuing context after a write; P0 discards (R13). -/
theorem State.getP_setP (s : State) (r q : Reg3) (v : Pred) :
    (s.setP r v).getP q = if q = r ∧ r ≠ 0 then v else s.getP q := by
  unfold State.getP State.setP
  rw [State.my_setMy]
  by_cases h : q = r
  · subst h
    by_cases hq : q = 0
    · simp [hq]
    · have hz : q.toNat ≠ 0 := fun e => hq (BitVec.eq_of_toNat_eq (by simpa using e))
      rw [if_pos ⟨rfl, hq⟩, Ctx.getP_setP _ _ hz]
  · have : q.toNat ≠ r.toNat := fun e => h (BitVec.eq_of_toNat_eq e)
    simp [h, Ctx.getP_setP_ne _ _ this]

theorem State.getV_setV (s : State) (r q : Reg5) (v : Vec) : (s.setV r v).getV q = if q = r then v else s.getV q := by
  unfold State.getV State.setV
  rw [State.my_setMy]
  by_cases h : q = r
  · simp [h]
  · have : q.toNat ≠ r.toNat := fun e => h (BitVec.eq_of_toNat_eq e)
    simp [h, Ctx.getV_setV_ne _ _ this]

theorem State.getA_setA (s : State) (r q : Reg3) (v : Word) : (s.setA r v).getA q = if q = r then v else s.getA q := by
  unfold State.getA State.setA
  rw [State.my_setMy]
  by_cases h : q = r
  · simp [h]
  · have : q.toNat ≠ r.toNat := fun e => h (BitVec.eq_of_toNat_eq e)
    simp [h, Ctx.getA_setA_ne _ _ this]

end Sys2Proof.Machine
end

