-- ==== Sys2Proof/Laws/Memory.lean ====
section
/-! SUPPORT. Memory: a byte written reads as written, every other byte as before, and every memory operation keeps the
canonical form of every memory. -/

namespace Sys2Proof.Machine

/-! ### One byte (R249) -/

@[simp] theorem State.byteAt_setByte_self (s : State) (p : Place) (v : Byte) : (s.setByte p v).byteAt p = v := by
  cases p <;> simp [State.setByte, State.byteAt]

theorem State.byteAt_setByte_ne (s : State) {p q : Place} (v : Byte) (h : q ≠ p) :
    (s.setByte p v).byteAt q = s.byteAt q := by
  cases p <;> cases q <;> simp only [State.setByte, State.byteAt] <;>
    first
    | rfl
    | (apply tget_tset_ne; intro e; exact h (by rw [e]))
    | skip
  all_goals
    rename_i n o m k
    by_cases hm : m = n
    · subst hm
      simp only [State.core_setCore]
      try (apply tget_tset_ne; intro e; exact h (by rw [e]))
    · rw [State.core_setCore_ne _ _ hm]

theorem State.byteAt_setByte (s : State) (p q : Place) (v : Byte) :
    (s.setByte p v).byteAt q = if q = p then v else s.byteAt q := by
  by_cases h : q = p
  · simp [h]
  · simp [h, State.byteAt_setByte_ne s v h]

/-! ### Consecutive bytes -/

@[simp] theorem Place.plus_zero (p : Place) : p.plus 0 = p := by cases p <;> rfl
theorem Place.plus_plus (p : Place) (i j : Nat) : (p.plus i).plus j = p.plus (i + j) := by
  cases p <;> simp [Place.plus, Nat.add_assoc]
theorem Place.plus_inj (p : Place) {i j : Nat} (h : p.plus i = p.plus j) : i = j := by
  cases p <;> simp [Place.plus] at h <;> omega

/-- A byte outside those written reads as before. -/
theorem State.byteAt_setBytes_out (s : State) (p q : Place) (bs : List Byte) (h : ∀ i < bs.length, q ≠ p.plus i) :
    (s.setBytes p bs).byteAt q = s.byteAt q := by
  induction bs generalizing s p with
  | nil => rfl
  | cons b bs ih =>
    simp only [State.setBytes]
    rw [ih]
    · exact State.byteAt_setByte_ne s b (by simpa using h 0 (by simp))
    · intro i hi e
      exact h (i + 1) (by simpa using hi) (by rw [e, Place.plus_plus, Nat.add_comm])

/-- Byte i of those written reads as written. -/
theorem State.byteAt_setBytes_in (s : State) (p : Place) (bs : List Byte) (i : Nat) (h : i < bs.length) :
    (s.setBytes p bs).byteAt (p.plus i) = bs[i] := by
  induction bs generalizing s p i with
  | nil => simp at h
  | cons b bs ih =>
    cases i with
    | zero =>
      simp only [State.setBytes, Place.plus_zero, List.getElem_cons_zero]
      rw [State.byteAt_setBytes_out]
      · simp
      · intro i hi e
        rw [Place.plus_plus] at e
        have := Place.plus_inj p (i := 0) (by simpa using e)
        omega
    | succ i =>
      simp only [State.setBytes, List.getElem_cons_succ]
      have := ih (s.setByte p b) (p.plus 1) i (by simpa using h)
      rwa [Place.plus_plus, Nat.add_comm 1 i] at this

theorem State.length_bytesAt (s : State) (p : Place) (n : Nat) : (s.bytesAt p n).length = n := by
  induction n generalizing p with
  | zero => rfl
  | succ n ih => simp [State.bytesAt, ih]

/-- Reading back what was just written. -/
theorem State.bytesAt_setBytes (s : State) (p : Place) (bs : List Byte) : (s.setBytes p bs).bytesAt p bs.length = bs := by
  have key : ∀ (t : State) (q : Place) (l : List Byte), (∀ i (h : i < l.length), t.byteAt (q.plus i) = l[i]) →
      t.bytesAt q l.length = l := by
    intro t q l
    induction l generalizing q with
    | nil => intro _; rfl
    | cons b l ih =>
      intro h
      simp only [List.length_cons, State.bytesAt]
      have h0 := h 0 (by simp)
      rw [Place.plus_zero, List.getElem_cons_zero] at h0
      rw [h0, ih (q.plus 1)]
      intro i hi
      have := h (i + 1) (by simpa using hi)
      rwa [Place.plus_plus, Nat.add_comm 1 i]
  exact key _ _ _ fun i h => s.byteAt_setBytes_in p bs i h

@[simp] theorem leBytes_length (n v : Nat) : (leBytes n v).length = n := by
  induction n generalizing v with
  | zero => rfl
  | succ n ih => simp [leBytes, ih]

/-- The number that n bytes of v hold (R5). -/
theorem leNat_leBytes (n v : Nat) : leNat (leBytes n v) = v % 256 ^ n := by
  induction n generalizing v with
  | zero => simp [leBytes, leNat, Nat.mod_one]
  | succ n ih =>
    have h : (256 : Nat) ^ (n + 1) = 256 * 256 ^ n := by rw [Nat.pow_succ, Nat.mul_comm]
    rw [leBytes, leNat, ih, BitVec.toNat_ofNat, h, Nat.mod_mul]

/-- A number written reads back (R5). -/
theorem State.numAt_setBytes (s : State) (p : Place) (n v : Nat) :
    (s.setBytes p (leBytes n v)).numAt p n = v % 256 ^ n := by
  unfold State.numAt
  have := s.bytesAt_setBytes p (leBytes n v)
  rw [leBytes_length] at this
  rw [this, leNat_leBytes]

/-! ### The canonical form of every memory -/

theorem memWf_def (s : State) : s.memWf = true ↔
    (twf 0 s.dram = true ∧ twf 0 s.host = true ∧ twf 0 s.peer = true ∧ twf 0 s.sram = true ∧
      ∀ e ∈ s.cores, e.2.memWf = true) := by
  simp [State.memWf, and_assoc]

theorem mem_tput {α : Type} {t : Tab α} {k : Nat} {v : α} {e : Nat × α} (h : e ∈ tput t k v) : e = (k, v) ∨ e ∈ t := by
  induction t with
  | nil => simpa [tput] using h
  | cons a t ih =>
    obtain ⟨k', v'⟩ := a
    rcases Nat.lt_trichotomy k k' with hk | hk | hk
    · simpa [tput, hk] using h
    · subst hk
      simp only [tput, Nat.lt_irrefl, if_false, if_true, List.mem_cons] at h ⊢
      exact h.imp_right Or.inr
    · simp only [tput, Nat.not_lt.mpr (Nat.le_of_lt hk), Nat.ne_of_gt hk, if_false, List.mem_cons] at h ⊢
      rcases h with h | h
      · exact Or.inr (Or.inl h)
      · exact (ih h).imp_right Or.inr

theorem tget_mem {α : Type} (d : α) (t : Tab α) (k : Nat) : tget d t k = d ∨ ∃ e ∈ t, tget d t k = e.2 := by
  induction t with
  | nil => exact Or.inl rfl
  | cons a t ih =>
    obtain ⟨k', v'⟩ := a
    by_cases h1 : k = k'
    · exact Or.inr ⟨(k', v'), by simp, by simp [tget, h1]⟩
    · by_cases h2 : k < k'
      · exact Or.inl (by simp [tget, h1, h2])
      · simp only [tget, h1, h2, if_false]
        rcases ih with h | ⟨e, he, h⟩
        · exact Or.inl h
        · exact Or.inr ⟨e, by simp [he], h⟩

/-- Every core's memories are canonical where the machine's are. -/
theorem State.core_memWf {s : State} (h : s.memWf = true) (n : Nat) : (s.core n).memWf = true := by
  rcases tget_mem ({} : CoreSt) s.cores n with e | ⟨e, he, h'⟩
  · rw [State.core, e]; rfl
  · rw [State.core, h']; exact ((memWf_def s).mp h).2.2.2.2 e he

/-- Replacing a core by one whose memories are canonical keeps the form. -/
theorem State.setCore_memWf {s : State} (h : s.memWf = true) (n : Nat) {c : CoreSt} (hc : c.memWf = true) :
    (s.setCore n c).memWf = true := by
  rw [memWf_def] at h ⊢
  refine ⟨h.1, h.2.1, h.2.2.1, h.2.2.2.1, fun e he => ?_⟩
  rcases mem_tput he with rfl | he
  · exact hc
  · exact h.2.2.2.2 e he

@[simp] theorem CoreSt.setCtx_memWf (c : CoreSt) (k : Nat) (x : Ctx) : (c.setCtx k x).memWf = c.memWf := rfl
@[simp] theorem CoreSt.setSysr_memWf (c : CoreSt) (n : Nat) (v : Word) : (c.setSysr n v).memWf = c.memWf := rfl
@[simp] theorem CoreSt.setTile_memWf (c : CoreSt) (t : Nat) (v : BitVec 32768) : (c.setTile t v).memWf = c.memWf := rfl
@[simp] theorem CoreSt.setCell_memWf (c : CoreSt) (i j : Nat) (v : Half) : (c.setCell i j v).memWf = c.memWf := rfl
@[simp] theorem CoreSt.setX_memWf (c : CoreSt) (r : Nat) (v : BitVec 128) : (c.setX r v).memWf = c.memWf := rfl

theorem State.setMe_memWf {s : State} (h : s.memWf = true) {c : CoreSt} (hc : c.memWf = true) : (s.setMe c).memWf = true :=
  s.setCore_memWf h _ hc
theorem State.setMy_memWf {s : State} (h : s.memWf = true) (x : Ctx) : (s.setMy x).memWf = true :=
  s.setMe_memWf h (by rw [CoreSt.setCtx_memWf]; exact s.core_memWf h _)
theorem State.setCtxAt_memWf {s : State} (h : s.memWf = true) (n k : Nat) (x : Ctx) : (s.setCtxAt n k x).memWf = true :=
  s.setCore_memWf h _ (by rw [CoreSt.setCtx_memWf]; exact s.core_memWf h _)
@[simp] theorem State.at_memWf (s : State) (n k : Nat) : (s.at n k).memWf = s.memWf := rfl
@[simp] theorem State.setCluster_memWf (s : State) (k : Nat) (c : Cluster) : (s.setCluster k c).memWf = s.memWf := rfl
@[simp] theorem State.setSlot_memWf (s : State) (n : Nat) (x : Slot) : (s.setSlot n x).memWf = s.memWf := rfl

/-- Writing a byte keeps the form. -/
theorem State.setByte_memWf {s : State} (h : s.memWf = true) (p : Place) (v : Byte) : (s.setByte p v).memWf = true := by
  have h0 := (memWf_def s).mp h
  cases p with
  | dram a => rw [memWf_def]; exact ⟨twf_tset 0 _ _ h0.1, h0.2⟩
  | host a => rw [memWf_def]; exact ⟨h0.1, twf_tset 0 _ _ h0.2.1, h0.2.2⟩
  | peer a => rw [memWf_def]; exact ⟨h0.1, h0.2.1, twf_tset 0 _ _ h0.2.2.1, h0.2.2.2⟩
  | sram o => rw [memWf_def]; exact ⟨h0.1, h0.2.1, h0.2.2.1, twf_tset 0 _ _ h0.2.2.2.1, h0.2.2.2.2⟩
  | core n o =>
    have hc := s.core_memWf h n
    simp only [CoreSt.memWf, Bool.and_eq_true] at hc
    exact s.setCore_memWf h n (by simp only [CoreSt.memWf, Bool.and_eq_true]; exact ⟨twf_tset 0 _ _ hc.1, hc.2⟩)
  | tbuf n o =>
    have hc := s.core_memWf h n
    simp only [CoreSt.memWf, Bool.and_eq_true] at hc
    exact s.setCore_memWf h n (by simp only [CoreSt.memWf, Bool.and_eq_true]; exact ⟨hc.1, twf_tset 0 _ _ hc.2⟩)

/-- Writing bytes keeps the form. -/
theorem State.setBytes_memWf {s : State} (h : s.memWf = true) (p : Place) (bs : List Byte) :
    (s.setBytes p bs).memWf = true := by
  induction bs generalizing s p with
  | nil => exact h
  | cons b bs ih => exact ih (s.setByte_memWf h p b) (p.plus 1)

/-- A fold of steps that keep the form keeps it. -/
theorem foldl_memWf {α : Type} (f : State → α → State) (hf : ∀ s a, s.memWf = true → (f s a).memWf = true) (l : List α)
    {s : State} (h : s.memWf = true) : (l.foldl f s).memWf = true := by
  induction l generalizing s with
  | nil => exact h
  | cons a l ih => exact ih (hf s a h)

/-- Bytes that another agent writes into core memory keep the form (R266). -/
theorem State.putCore_memWf {s : State} (h : s.memWf = true) (core off : Nat) (bs : List Byte) :
    (s.putCore core off bs).memWf = true :=
  foldl_memWf _ (fun s _ hs => s.setBytes_memWf hs _ _) _ h

/-- Marking poison keeps the form (R342). -/
theorem State.poison_memWf {s : State} (h : s.memWf = true) (p : Place) : (s.poison p).memWf = true := by
  cases p with
  | dram a => simp only [State.poison]; split; exact h; split <;> exact h
  | host a => exact h
  | peer a => exact h
  | sram o => exact h
  | core n o => exact s.setCore_memWf h n (s.core_memWf h n)
  | tbuf n o => exact s.setCore_memWf h n (s.core_memWf h n)

/-- The machine after reset has every memory in its canonical form. -/
theorem reset_memWf : State.reset.memWf = true := rfl

end Sys2Proof.Machine
end

