-- ==== Sys2Proof/Laws/Ops.lean ====
section
/-! SUPPORT. The shared operations: how an instruction ends, what a trap writes, and that all of them keep the memories in
their canonical form. -/

namespace Sys2Proof.Machine

/-! ### How an instruction ends (R72, R75) -/

/-- An instruction whose guard is off only completes. -/
theorem State.guarded_off {s : State} {g : Reg3} (h : s.guardOn g = false) (len : Nat) (b : Except Stop State) :
    s.guarded g len b = .next (s.advance len) := by simp [State.guarded, h]

/-- With the guard on, its body decides. -/
theorem State.guarded_on {s : State} {g : Reg3} (h : s.guardOn g = true) (len : Nat) (b : Except Stop State) :
    s.guarded g len b = .next (s.settle b) := by simp [State.guarded, h, State.run]

theorem State.guarded_ok {s t : State} {g : Reg3} (h : s.guardOn g = true) (len : Nat) :
    s.guarded g len (.ok t) = .next t := by simp [State.guarded, h, State.run, State.settle]

/-- A total effect completes. -/
theorem State.done_on {s t : State} {g : Reg3} (h : s.guardOn g = true) (len : Nat) :
    s.done g len t = .next (t.advance len) := by simp [State.done, State.guarded_ok h]

theorem State.done_off {s t : State} {g : Reg3} (h : s.guardOn g = false) (len : Nat) :
    s.done g len t = .next (s.advance len) := by simp [State.done, State.guarded_off h]

@[simp] theorem State.run_ok (s t : State) : s.run (.ok t) = .next t := rfl

/-- P0 as a guard is always on (R13, R75). -/
@[simp] theorem State.guardOn_zero (s : State) : s.guardOn 0 = true := by
  simp [State.guardOn, State.getP]

/-- Every instruction under a guard, and every body that is run, ends in a next state. -/
theorem State.guarded_next (s : State) (g : Reg3) (len : Nat) (b : Except Stop State) :
    ∃ t, s.guarded g len b = .next t := by
  unfold State.guarded State.run; split <;> exact ⟨_, rfl⟩

/-! ### Completing -/

@[simp] theorem State.my_advance (s : State) (len : Nat) : (s.advance len).my = s.my.awake.next len := by
  simp [State.advance]
@[simp] theorem State.me_advance (s : State) (len : Nat) :
    (s.advance len).me = s.me.setCtx s.cur.ctx (s.my.awake.next len) := by simp [State.advance]
@[simp] theorem State.my_jump (s : State) (t : Word) : (s.jump t).my = { s.my.awake with pc := t } := by simp [State.jump]

@[simp] theorem Ctx.mon_awake (x : Ctx) : x.awake.mon = x.mon := rfl
@[simp] theorem Ctx.replay_awake (x : Ctx) : x.awake.replay = x.replay := rfl

/-- Outside a replay the pc moves past the instruction's words (R72). -/
theorem Ctx.next_pc {x : Ctx} (h : x.replay = none) (len : Nat) :
    x.next len = { x with pc := x.pc + BitVec.ofNat 64 (4 * len) } := by simp [Ctx.next, h]

/-- The registers of a context stay where it completes. -/
@[simp] theorem Ctx.getG_next (x : Ctx) (len r : Nat) : (x.next len).getG r = x.getG r := by simp [Ctx.getG]
@[simp] theorem Ctx.getP_next (x : Ctx) (len r : Nat) : (x.next len).getP r = x.getP r := by simp [Ctx.getP]
@[simp] theorem Ctx.getV_next (x : Ctx) (len r : Nat) : (x.next len).getV r = x.getV r := by simp [Ctx.getV]
@[simp] theorem Ctx.getA_next (x : Ctx) (len r : Nat) : (x.next len).getA r = x.getA r := by simp [Ctx.getA]
@[simp] theorem Ctx.sysr_next (x : Ctx) (len n : Nat) : (x.next len).sysr n = x.sysr n := by simp [Ctx.sysr]
@[simp] theorem Ctx.getG_awake (x : Ctx) (r : Nat) : x.awake.getG r = x.getG r := rfl
@[simp] theorem Ctx.getP_awake (x : Ctx) (r : Nat) : x.awake.getP r = x.getP r := rfl
@[simp] theorem Ctx.getV_awake (x : Ctx) (r : Nat) : x.awake.getV r = x.getV r := rfl
@[simp] theorem Ctx.getA_awake (x : Ctx) (r : Nat) : x.awake.getA r = x.getA r := rfl
@[simp] theorem Ctx.sysr_awake (x : Ctx) (n : Nat) : x.awake.sysr n = x.sysr n := rfl

@[simp] theorem State.getG_advance (s : State) (len : Nat) (r : Reg5) : (s.advance len).getG r = s.getG r := by
  simp [State.getG]
@[simp] theorem State.getP_advance (s : State) (len : Nat) (r : Reg3) : (s.advance len).getP r = s.getP r := by
  simp [State.getP]
@[simp] theorem State.getV_advance (s : State) (len : Nat) (r : Reg5) : (s.advance len).getV r = s.getV r := by
  simp [State.getV]
@[simp] theorem State.getA_advance (s : State) (len : Nat) (r : Reg3) : (s.advance len).getA r = s.getA r := by
  simp [State.getA]

/-- Writing registers of the issuing context changes no byte of any memory. -/
@[simp] theorem State.byteAt_setMy (s : State) (x : Ctx) (p : Place) : (s.setMy x).byteAt p = s.byteAt p := by
  have hc : ∀ n, ((s.setMy x).core n).mem = (s.core n).mem ∧ ((s.setMy x).core n).tbuf = (s.core n).tbuf := by
    intro n
    by_cases h : n = s.cur.core
    · subst h
      have : (s.setMy x).core s.cur.core = s.me.setCtx s.cur.ctx x := s.me_setMy x
      rw [this]
      exact ⟨rfl, rfl⟩
    · rw [s.core_setMy_ne x h]; exact ⟨rfl, rfl⟩
  cases p <;> simp [State.byteAt, hc]
@[simp] theorem State.byteAt_setG (s : State) (r : Reg5) (v : Word) (p : Place) : (s.setG r v).byteAt p = s.byteAt p :=
  s.byteAt_setMy _ p
@[simp] theorem State.byteAt_advance (s : State) (len : Nat) (p : Place) : (s.advance len).byteAt p = s.byteAt p :=
  s.byteAt_setMy _ p

/-! ### The trap state (R337) -/

/-- What taking a trap writes into the context's registers. -/
theorem Ctx.enter_saves (x : Ctx) (t : Trap) :
    (x.enter t).sysr 0x102 = t.epc ∧ (x.enter t).sysr 0x103 = t.eaddr ∧ (x.enter t).sysr 0x104 = t.einfo ∧
      (x.enter t).sysr 0x105 = t.eword ∧
      (x.enter t).sysr 0x101 = BitVec.ofNat 64 ((if t.async then 256 else 0) + t.code.toNat) := by
  unfold Ctx.enter
  refine ⟨?_, ?_, ?_, ?_, ?_⟩ <;>
    simp [Ctx.sysr_setSysr_ne]

/-! ### The canonical form of the memories is kept -/

theorem ite_memWf {c : Prop} [Decidable c] {a b : State} (ha : a.memWf = true) (hb : b.memWf = true) :
    (if c then a else b).memWf = true := by split <;> assumption

section MemWf
variable {s : State} (h : s.memWf = true)
include h

theorem State.setG_memWf (r : Reg5) (v : Word) : (s.setG r v).memWf = true := s.setMy_memWf h _
theorem State.setP_memWf (r : Reg3) (v : Pred) : (s.setP r v).memWf = true := s.setMy_memWf h _
theorem State.setV_memWf (r : Reg5) (v : Vec) : (s.setV r v).memWf = true := s.setMy_memWf h _
theorem State.setA_memWf (r : Reg3) (v : Word) : (s.setA r v).memWf = true := s.setMy_memWf h _
theorem State.me_memWf : s.me.memWf = true := s.core_memWf h _
theorem State.setSysr_memWf (n : Nat) (v : Word) : (s.setSysr n v).memWf = true := by
  unfold State.setSysr; split
  · exact s.setMy_memWf h _
  · exact s.setMe_memWf h (by rw [CoreSt.setSysr_memWf]; exact s.me_memWf h)
theorem State.advance_memWf (len : Nat) : (s.advance len).memWf = true := s.setMy_memWf h _
theorem State.jump_memWf (t : Word) : (s.jump t).memWf = true := s.setMy_memWf h _
theorem State.wake_memWf (core : Nat) : (s.wake core).memWf = true :=
  foldl_memWf _ (fun s _ hs => s.setCtxAt_memWf hs _ _ _) _ h
theorem State.postQ0_memWf (core : Nat) (e : Word × Word) : (s.postQ0 core e).memWf = true := by
  have hc := s.core_memWf h core
  unfold State.postQ0; dsimp only; split
  · apply State.wake_memWf; exact s.setCore_memWf h _ hc
  · exact s.setCore_memWf h _ hc
theorem State.logCount_memWf (k : Nat) : (s.logCount k).memWf = true := s.setBytes_memWf h _ _
theorem State.postQ2_memWf (core : Nat) (b : List Byte) : (s.postQ2 core b).memWf = true := by
  unfold State.postQ2; dsimp only; split
  · exact s.setCore_memWf h _ (s.core_memWf h core)
  · exact State.logCount_memWf h _
theorem State.report_memWf (r : ErrRec) : (s.report r).memWf = true := by
  unfold State.report; dsimp only
  split
  · exact s.setBytes_memWf h _ _
  · cases r.core with
    | none =>
      dsimp only; split
      · apply State.logCount_memWf; exact h
      · apply State.logCount_memWf; apply State.setBytes_memWf; exact h
    | some c =>
      dsimp only; apply State.postQ2_memWf; split
      · apply State.logCount_memWf; exact h
      · apply State.logCount_memWf; apply State.setBytes_memWf; exact h
theorem State.postFault_memWf (core vf page kind src : Nat) : (s.postFault core vf page kind src).memWf = true := by
  unfold State.postFault; dsimp only
  split
  · exact h
  · split
    · exact h
    · split <;> exact h
theorem State.unannounce_memWf : s.unannounce.memWf = true := h
theorem State.holdOn_memWf (a : Option (Nat × Nat)) : (s.holdOn a).memWf = true := by
  unfold State.holdOn; dsimp only
  cases a with
  | none => exact s.setMy_memWf h _
  | some p => exact State.postFault_memWf (State.unannounce_memWf (s.setMy_memWf h _)) _ _ _ _ _

/-! #### Translation and checks -/

theorem State.markLeaf_memWf (l : Leaf) (acc : Acc) : (s.markLeaf l acc).memWf = true := by
  unfold State.markLeaf; split
  · exact h
  · exact s.setBytes_memWf h _ _
theorem State.xlateWalk_memWf (who : Asker) (acc : Acc) (va : Nat) : (s.xlateWalk who acc va).2.2.memWf = true := by
  unfold State.xlateWalk
  split
  · exact h
  · exact h
  · exact h
  · exact h
  split
  · exact h
  · dsimp only
    split
    · rw [State.setCluster_memWf]; exact State.markLeaf_memWf h _ _
    · exact State.markLeaf_memWf h _ _
theorem State.xlateSecond_memWf (who : Asker) (acc : Acc) (va : Nat) : (s.xlateSecond who acc va).2.2.memWf = true := by
  unfold State.xlateSecond; dsimp only
  split
  · exact h
  · exact State.xlateWalk_memWf h _ _ _
omit h in
theorem State.fillCore_memWf (who : Asker) (acc : Acc) {r : Option TlbEntry × Xlate × State} (hr : r.2.2.memWf = true) :
    (s.fillCore who acc r).2.memWf = true := by
  obtain ⟨e, x, t⟩ := r
  cases e with
  | none => exact hr
  | some e =>
    simp only [State.fillCore]
    split <;> exact State.setCore_memWf hr _ (State.core_memWf hr _)
theorem State.xlateFor_memWf (who : Asker) (acc : Acc) (va : Nat) : (s.xlateFor who acc va).2.memWf = true := by
  unfold State.xlateFor; dsimp only
  split
  · split
    · exact h
    · split
      · exact h
      · exact State.fillCore_memWf _ _ (State.xlateWalk_memWf h _ _ _)
  · split
    · exact h
    · exact State.fillCore_memWf _ _ (State.xlateSecond_memWf h _ _ _)
theorem State.xlateCore_memWf (acc : Acc) (va : Nat) : (s.xlateCore acc va).2.memWf = true := State.xlateFor_memWf h _ _ _
theorem State.xlateAll_memWf (acc : Acc) (is : List Item) : (s.xlateAll acc is).2.memWf = true := by
  induction is generalizing s with
  | nil => exact h
  | cons i is ih => exact ih (State.xlateCore_memWf h acc i.va.toNat)

end MemWf

/-- What a body that ends with a state (and a value) owes: the form is kept. -/
def KeepsV {α : Type} (r : Except Stop (α × State)) : Prop := ∀ a t, r = .ok (a, t) → t.memWf = true
def Keeps (r : Except Stop State) : Prop := ∀ t, r = .ok t → t.memWf = true

theorem keeps_ok {t : State} (h : t.memWf = true) : Keeps (.ok t) := by rintro _ ⟨⟩; exact h
theorem keeps_error (e : Stop) : Keeps (.error e) := by rintro _ ⟨⟩
theorem keepsV_ok {α : Type} {a : α} {t : State} (h : t.memWf = true) : KeepsV (.ok (a, t)) := by rintro _ _ ⟨⟩; exact h
theorem keepsV_error {α : Type} (e : Stop) : KeepsV (.error e : Except Stop (α × State)) := by rintro _ _ ⟨⟩
/-- A body after a check that gives no state. -/
theorem keeps_bind {α : Type} {r : Except Stop α} {f : α → Except Stop State} (h : ∀ a, r = .ok a → Keeps (f a)) :
    Keeps (r >>= f) := by
  cases r with
  | error e => exact keeps_error e
  | ok a => exact h a rfl
theorem keepsV_bind {α β : Type} {r : Except Stop α} {f : α → Except Stop (β × State)} (h : ∀ a, r = .ok a → KeepsV (f a)) :
    KeepsV (r >>= f) := by
  cases r with
  | error e => exact keepsV_error e
  | ok a => exact h a rfl
theorem keeps_ite {c : Prop} [Decidable c] {a b : Except Stop State} (ha : Keeps a) (hb : Keeps b) :
    Keeps (if c then a else b) := by split <;> assumption
theorem keepsV_ite {α : Type} {c : Prop} [Decidable c] {a b : Except Stop (α × State)} (ha : KeepsV a) (hb : KeepsV b) :
    KeepsV (if c then a else b) := by split <;> assumption

section MemWf
variable {s : State} (h : s.memWf = true)
include h

theorem State.checkGlobal_keeps (acc : Acc) (inf : AddrInfo) (is : List Item) : KeepsV (s.checkGlobal acc inf is) := by
  unfold State.checkGlobal
  refine keepsV_bind fun _ _ => keepsV_bind fun _ _ => ?_
  dsimp only
  refine keepsV_bind fun _ _ => keepsV_bind fun _ _ => keepsV_bind fun _ _ => ?_
  exact keepsV_ok (State.xlateAll_memWf h acc is)
theorem State.checkSegments_keeps (acc : Acc) (inf : AddrInfo) (is : List Item) : KeepsV (s.checkSegments acc inf is) := by
  unfold State.checkSegments
  exact keepsV_bind fun _ _ => keepsV_bind fun _ _ => keepsV_bind fun _ _ => keepsV_ok h
theorem State.checkLocal_keeps (inf : AddrInfo) (is : List Item) : KeepsV (s.checkLocal inf is) := by
  unfold State.checkLocal
  exact keepsV_bind fun _ _ => keepsV_bind fun _ _ => keepsV_ok h
theorem State.checkDist_keeps (inf : AddrInfo) (is : List Item) (x : Bool) : KeepsV (s.checkDist inf is x) := by
  unfold State.checkDist
  exact keepsV_bind fun _ _ => keepsV_bind fun _ _ => keepsV_bind fun _ _ => keepsV_ok h
theorem State.checkLogged_keeps (acc : Acc) (inf : AddrInfo) (is : List Item) : KeepsV (s.checkLogged acc inf is) := by
  unfold State.checkLogged
  refine keepsV_bind fun a ha => keepsV_bind fun _ _ => ?_
  exact keepsV_ok (State.checkGlobal_keeps h acc inf is a.1 a.2 ha)
/-- The checks of an access, whatever its space, keep the form (R121). -/
theorem State.check_keeps (sp : Space) (acc : Acc) (inf : AddrInfo) (is : List Item) : KeepsV (s.check sp acc inf is) := by
  unfold State.check
  cases sp with
  | glob =>
    dsimp only
    exact keepsV_ite (State.checkSegments_keeps h _ _ _) (State.checkLogged_keeps h _ _ _)
  | loc => exact State.checkLocal_keeps h _ _
  | dist => exact State.checkDist_keeps h _ _ _
omit h in
/-- Its stop apart, what a body does is what it does inside keeping. -/
theorem State.keeping_keepsV {α : Type} (sp : Space) (acc : Acc) (is : List Item) {b : Except Stop (α × State)} (hb : KeepsV b) :
    KeepsV (s.keeping sp acc is b) := by
  cases b with
  | error e => exact keepsV_error _
  | ok a => exact hb
omit h in
theorem State.keeping_keeps (sp : Space) (acc : Acc) (is : List Item) {b : Except Stop State} (hb : Keeps b) :
    Keeps (s.keeping sp acc is b) := by
  cases b with
  | error e => exact keeps_error _
  | ok a => exact hb
theorem State.readItems_keeps (sp : Space) (acc : Acc) (inf : AddrInfo) (kind : Nat) (unit : BitVec 4) (is : List Item) :
    KeepsV (s.readItems sp acc inf kind unit is) := by
  unfold State.readItems
  refine State.keeping_keepsV _ _ _ (keepsV_bind fun a ha => keepsV_bind fun _ _ => keepsV_bind fun _ _ => keepsV_bind fun _ _ => ?_)
  exact keepsV_ok (State.check_keeps h sp acc inf is a.1 a.2 ha)
theorem State.enterLog_keeps (es : List LogEntry) : Keeps (s.enterLog es) := by
  unfold State.enterLog
  refine keeps_ite (keeps_ok h) (keeps_ite (keeps_error _) (keeps_ite (keeps_error _) (keeps_ok ?_)))
  exact foldl_memWf _ (fun s _ hs => State.postFault_memWf hs _ _ _ _ _) _ (s.setMe_memWf h (s.me_memWf h))
theorem State.putLoc_memWf (p : Place) (bs : List Byte) : (s.putLoc p bs).memWf = true := by
  unfold State.putLoc; split
  · split
    · exact s.setBytes_memWf h _ _
    · exact s.putCore_memWf h _ _ _
  · exact s.setBytes_memWf h _ _
theorem State.writeLocs_memWf (ws : List (Loc × List Byte)) : (s.writeLocs ws).memWf = true := by
  induction ws generalizing s with
  | nil => exact h
  | cons w ws ih =>
    obtain ⟨l, bs⟩ := w
    apply ih
    cases l.place with
    | none => exact h
    | some p => exact State.putLoc_memWf h _ _
theorem State.flyLocs_memWf (ws : List (Loc × List Byte)) : (s.flyLocs ws).memWf = true := by
  induction ws generalizing s with
  | nil => exact h
  | cons w ws ih =>
    obtain ⟨l, bs⟩ := w
    simp only [State.flyLocs]
    apply ih
    split
    · split
      · exact h
      · exact s.setBytes_memWf h _ _
    · exact h
theorem State.storeLocs_keeps (ws : List (Loc × List Byte)) (gen : Option Nat) (op : LogOp) :
    Keeps (s.storeLocs ws gen op) := by
  unfold State.storeLocs
  refine keeps_bind fun _ _ => keeps_ite (keeps_error _) (keeps_bind fun t ht => keeps_ok ?_)
  have h1 := State.enterLog_keeps h _ t ht
  split
  · exact State.writeLocs_memWf h1 ws
  · exact State.flyLocs_memWf h1 ws
theorem State.writeItems_keeps (sp : Space) (inf : AddrInfo) (is : List (Item × List Byte)) (gen : Option Nat) :
    Keeps (s.writeItems sp inf is gen) := by
  unfold State.writeItems
  exact State.keeping_keeps _ _ _ (keeps_bind fun a ha => State.storeLocs_keeps (State.check_keeps h _ _ _ _ a.1 a.2 ha) _ _ _)

/-! #### Traps, returns and poison -/

theorem State.dispatchRead_memWf (va : Nat) : (s.dispatchRead va).2.memWf = true := by
  unfold State.dispatchRead; dsimp only
  split
  · rename_i l t heq
    split at heq
    · exact State.checkSegments_keeps h _ _ _ _ _ heq
    · exact State.checkGlobal_keeps h _ _ _ _ _ heq
  · exact h
  · exact h
theorem State.dispatch_memWf (as : List Nat) : (s.dispatch as).2.2.2.memWf = true := by
  induction as generalizing s with
  | nil => exact h
  | cons a as ih =>
    have h1 := State.dispatchRead_memWf h a
    cases as with
    | nil => exact h1
    | cons b bs =>
      simp only [State.dispatch]
      split
      · rename_i v t heq
        rw [heq] at h1
        split
        · exact ih h1
        · exact h1
      · rename_i r t _ heq
        rw [heq] at h1
        exact h1
theorem State.dropSc_memWf (core : Nat) (k : Nat → Bool) : (s.dropSc core k).memWf = true := by
  unfold State.dropSc; dsimp only; split
  · exact State.setCore_memWf (s := { s with sc := _ }) h _ (s.core_memWf h core)
  · exact h
/-- The delivery of a trap keeps the form (R338). -/
theorem State.deliverTrap_memWf (t : Trap) : (s.deliverTrap t).memWf = true := by
  have h1 := State.dispatch_memWf h (s.vectors t)
  unfold State.deliverTrap
  rcases hd : s.dispatch (s.vectors t) with ⟨a, r, e, u⟩
  rw [hd] at h1
  dsimp only at h1 ⊢
  cases r with
  | fails => exact State.report_memWf (State.setMy_memWf h1 _) _
  | holds p => exact State.holdOn_memWf (State.setMy_memWf h1 _) _
  | value v =>
    dsimp only
    split
    · exact State.report_memWf (State.setMy_memWf (State.setMy_memWf h1 _) _) _
    · split
      · exact State.report_memWf (State.setMy_memWf (State.setMy_memWf h1 _) _) _
      · exact State.setMy_memWf (State.setMy_memWf h1 _) _
/-- Taking a trap keeps the form (R337). -/
theorem State.takeTrap_memWf (t : Trap) : (s.takeTrap t).memWf = true :=
  State.deliverTrap_memWf (State.setMy_memWf (State.unannounce_memWf h) _) _
theorem State.trapAt_memWf (c : BitVec 8) (a i : Word) : (s.trapAt c a i).memWf = true := State.takeTrap_memWf h _
theorem State.failAt_memWf (c : BitVec 8) (a i : Word) : (s.failAt c a i).memWf = true := by
  unfold State.failAt; exact State.takeTrap_memWf h _
theorem State.owing_memWf : s.owing.memWf = true := s.setMy_memWf h _
theorem State.deliver_memWf (core ctx d : Nat) (v : Word) (b : Bool) : (s.deliver core ctx d v b).memWf = true :=
  s.setCtxAt_memWf h _ _ _
theorem State.sent_memWf (len : Nat) : (s.sent len).memWf = true :=
  State.owing_memWf (State.setMy_memWf (State.advance_memWf h _) _)
theorem State.ckptLoad_memWf (e : Nat × Nat × Nat × Nat) : (s.ckptLoad e).memWf = true := by
  unfold State.ckptLoad; dsimp only
  split <;> first
    | exact s.setMy_memWf h _
    | exact s.setMe_memWf h (s.me_memWf h)
theorem State.ckptReload_memWf : s.ckptReload.memWf = true :=
  foldl_memWf _ (fun _ _ hs => State.ckptLoad_memWf hs _) _ h
theorem State.restorePoint_memWf : s.restorePoint.memWf = true := by
  unfold State.restorePoint; dsimp only
  split <;> exact State.setMe_memWf (State.dropSc_memWf (State.setMy_memWf h _) _ _) (State.me_memWf (State.dropSc_memWf (State.setMy_memWf h _) _ _))
theorem State.restore_memWf : s.restore.memWf = true := by
  unfold State.restore; dsimp only; split
  · exact State.ckptReload_memWf (State.restorePoint_memWf h)
  · exact State.restorePoint_memWf h
theorem State.countReturn_memWf (b : Bool) : (s.countReturn b).memWf = true := s.setMy_memWf h _
/-- Consuming poison keeps the form (R342). -/
theorem State.consumePoison_memWf (st : Nat) (a : Word) (u : BitVec 4) (ks : List Nat) (va : Option Word) :
    (s.consumePoison st a u ks va).memWf = true := by
  unfold State.consumePoison; dsimp only
  rw [State.at_memWf]
  refine foldl_memWf _ (fun t k ht => ?_) _ (State.report_memWf h _)
  have hr := State.countReturn_memWf (State.restore_memWf (s := t.at s.cur.core k) ht) true
  exact ite_memWf (State.failAt_memWf hr _ _ _) (ite_memWf hr (State.failAt_memWf hr _ _ _))
theorem State.newSc_memWf (a : ScAct) : (s.newSc a).memWf = true := by
  unfold State.newSc; dsimp only; split <;> exact h
theorem State.announce_memWf : s.announce.memWf = true := by
  unfold State.announce; split
  · exact h
  · exact State.newSc_memWf h _
theorem State.translated_memWf (acc : Acc) (is : List Item) : (s.translated acc is).memWf = true := by
  unfold State.translated; split
  · exact h
  · exact State.xlateAll_memWf h acc is
/-- What a stop makes of a state keeps the form. -/
theorem State.stopped_memWf (e : Stop) : (s.stopped e).memWf = true := by
  induction e generalizing s with
  | trap c a i => exact State.trapAt_memWf h _ _ _
  | hold a => exact State.holdOn_memWf h _
  | order => exact State.holdOn_memWf (State.announce_memWf h) _
  | sleep => exact s.setMy_memWf h _
  | poison st a u va => exact State.consumePoison_memWf h _ _ _ _ _
  | after acc is e ih => exact ih (State.translated_memWf h acc is)
/-- Whatever a body answers, its outcome keeps the form. -/
theorem State.settle_memWf {b : Except Stop State} (hb : Keeps b) : (s.settle b).memWf = true := by
  cases b with
  | error e => exact State.stopped_memWf h e
  | ok t => exact hb _ rfl

end MemWf

/-- An outcome keeps the form where it is a next state. -/
def KeepsO (o : Host.Outcome State Fault Refusal) : Prop := ∀ t, o = .next t → t.memWf = true

theorem keepsO_next {t : State} (h : t.memWf = true) : KeepsO (.next t) := by rintro _ ⟨⟩; exact h
theorem keepsO_run {s : State} (h : s.memWf = true) {b : Except Stop State} (hb : Keeps b) : KeepsO (s.run b) :=
  keepsO_next (State.settle_memWf h hb)
theorem keepsO_guarded {s : State} (h : s.memWf = true) (g : Reg3) (len : Nat) {b : Except Stop State} (hb : Keeps b) :
    KeepsO (s.guarded g len b) := by
  unfold State.guarded; split
  · exact keepsO_run h hb
  · exact keepsO_next (State.advance_memWf h _)
theorem keepsO_done {s t : State} (h : s.memWf = true) (g : Reg3) (len : Nat) (ht : t.memWf = true) :
    KeepsO (s.done g len t) := keepsO_guarded h g len (keeps_ok (State.advance_memWf ht _))
theorem keepsO_event {s t : State} (h : s.memWf = true) (b : Bool) (ht : t.memWf = true) : KeepsO (s.event b t) := by
  apply keepsO_next; split <;> assumption

end Sys2Proof.Machine
end

