-- ==== Sys2Proof/Laws/PerInstr.lean ====
section
/-! SUPPORT. The family Framed: the encoder gives each instruction a major opcode that is assigned and a length that the
major permits (R71, R79), one lemma for each constructor. -/

namespace Sys2Proof.Laws.Framed

set_option Elab.async false

/-- The frame of a well-formed instruction passes step 2 of R81; events have no encoding, and ILLEGAL is the zero word. -/
def Statement (i : Instr) : Prop :=
  i.wf = true → i.isEvent = false → i = .illegal ∨
    (i.frame.base.maj ≠ 0 ∧ (lenMask i.frame.base.maj.toNat).getLsbD i.frame.lenNat = true)

theorem of {i : Instr} (m : BitVec 6) (n : Nat) (hm : i.frame.base.maj = m) (hn : i.frame.lenNat = n)
    (h : (m != 0 && (lenMask m.toNat).getLsbD n) = true := by decide) : Statement i := by
  simp only [Bool.and_eq_true, bne_iff_ne] at h
  intro _ _
  exact .inr ⟨hm ▸ h.1, by rw [hm, hn]; exact h.2⟩

theorem event {i : Instr} (h : i.isEvent = true) : Statement i := fun _ h' => by rw [h] at h'; cases h'

theorem add (d : Reg5) (a : Reg5) (b : Src) (g : Reg3) : Statement (.add d a b g) :=
  match b with
  | .reg _ => of 0x01 0 rfl rfl
  | .lit _ => of 0x01 1 rfl rfl
theorem sub (d : Reg5) (a : Reg5) (b : Src) (g : Reg3) : Statement (.sub d a b g) :=
  match b with
  | .reg _ => of 0x01 0 rfl rfl
  | .lit _ => of 0x01 1 rfl rfl
theorem mul (d : Reg5) (a : Reg5) (b : Src) (g : Reg3) : Statement (.mul d a b g) :=
  match b with
  | .reg _ => of 0x01 0 rfl rfl
  | .lit _ => of 0x01 1 rfl rfl
theorem mulh (d : Reg5) (a : Reg5) (b : Src) (g : Reg3) : Statement (.mulh d a b g) :=
  match b with
  | .reg _ => of 0x01 0 rfl rfl
  | .lit _ => of 0x01 1 rfl rfl
theorem mulhu (d : Reg5) (a : Reg5) (b : Src) (g : Reg3) : Statement (.mulhu d a b g) :=
  match b with
  | .reg _ => of 0x01 0 rfl rfl
  | .lit _ => of 0x01 1 rfl rfl
theorem div (d : Reg5) (a : Reg5) (b : Src) (g : Reg3) : Statement (.div d a b g) :=
  match b with
  | .reg _ => of 0x01 0 rfl rfl
  | .lit _ => of 0x01 1 rfl rfl
theorem divu (d : Reg5) (a : Reg5) (b : Src) (g : Reg3) : Statement (.divu d a b g) :=
  match b with
  | .reg _ => of 0x01 0 rfl rfl
  | .lit _ => of 0x01 1 rfl rfl
theorem rem (d : Reg5) (a : Reg5) (b : Src) (g : Reg3) : Statement (.rem d a b g) :=
  match b with
  | .reg _ => of 0x01 0 rfl rfl
  | .lit _ => of 0x01 1 rfl rfl
theorem remu (d : Reg5) (a : Reg5) (b : Src) (g : Reg3) : Statement (.remu d a b g) :=
  match b with
  | .reg _ => of 0x01 0 rfl rfl
  | .lit _ => of 0x01 1 rfl rfl
theorem and (d : Reg5) (a : Reg5) (b : Src) (g : Reg3) : Statement (.and d a b g) :=
  match b with
  | .reg _ => of 0x01 0 rfl rfl
  | .lit _ => of 0x01 1 rfl rfl
theorem or (d : Reg5) (a : Reg5) (b : Src) (g : Reg3) : Statement (.or d a b g) :=
  match b with
  | .reg _ => of 0x01 0 rfl rfl
  | .lit _ => of 0x01 1 rfl rfl
theorem xor (d : Reg5) (a : Reg5) (b : Src) (g : Reg3) : Statement (.xor d a b g) :=
  match b with
  | .reg _ => of 0x01 0 rfl rfl
  | .lit _ => of 0x01 1 rfl rfl
theorem andn (d : Reg5) (a : Reg5) (b : Src) (g : Reg3) : Statement (.andn d a b g) :=
  match b with
  | .reg _ => of 0x01 0 rfl rfl
  | .lit _ => of 0x01 1 rfl rfl
theorem orn (d : Reg5) (a : Reg5) (b : Src) (g : Reg3) : Statement (.orn d a b g) :=
  match b with
  | .reg _ => of 0x01 0 rfl rfl
  | .lit _ => of 0x01 1 rfl rfl
theorem shl (d : Reg5) (a : Reg5) (b : Src) (g : Reg3) : Statement (.shl d a b g) :=
  match b with
  | .reg _ => of 0x01 0 rfl rfl
  | .lit _ => of 0x01 1 rfl rfl
theorem shr (d : Reg5) (a : Reg5) (b : Src) (g : Reg3) : Statement (.shr d a b g) :=
  match b with
  | .reg _ => of 0x01 0 rfl rfl
  | .lit _ => of 0x01 1 rfl rfl
theorem sra (d : Reg5) (a : Reg5) (b : Src) (g : Reg3) : Statement (.sra d a b g) :=
  match b with
  | .reg _ => of 0x01 0 rfl rfl
  | .lit _ => of 0x01 1 rfl rfl
theorem rotl (d : Reg5) (a : Reg5) (b : Src) (g : Reg3) : Statement (.rotl d a b g) :=
  match b with
  | .reg _ => of 0x01 0 rfl rfl
  | .lit _ => of 0x01 1 rfl rfl
theorem min (d : Reg5) (a : Reg5) (b : Src) (g : Reg3) : Statement (.min d a b g) :=
  match b with
  | .reg _ => of 0x01 0 rfl rfl
  | .lit _ => of 0x01 1 rfl rfl
theorem max (d : Reg5) (a : Reg5) (b : Src) (g : Reg3) : Statement (.max d a b g) :=
  match b with
  | .reg _ => of 0x01 0 rfl rfl
  | .lit _ => of 0x01 1 rfl rfl
theorem minu (d : Reg5) (a : Reg5) (b : Src) (g : Reg3) : Statement (.minu d a b g) :=
  match b with
  | .reg _ => of 0x01 0 rfl rfl
  | .lit _ => of 0x01 1 rfl rfl
theorem maxu (d : Reg5) (a : Reg5) (b : Src) (g : Reg3) : Statement (.maxu d a b g) :=
  match b with
  | .reg _ => of 0x01 0 rfl rfl
  | .lit _ => of 0x01 1 rfl rfl
theorem clz (d : Reg5) (a : Reg5) (g : Reg3) : Statement (.clz d a g) := of 0x02 0 rfl rfl
theorem ctz (d : Reg5) (a : Reg5) (g : Reg3) : Statement (.ctz d a g) := of 0x02 0 rfl rfl
theorem popc (d : Reg5) (a : Reg5) (g : Reg3) : Statement (.popc d a g) := of 0x02 0 rfl rfl
theorem brev (d : Reg5) (a : Reg5) (g : Reg3) : Statement (.brev d a g) := of 0x02 0 rfl rfl
theorem bswap (d : Reg5) (a : Reg5) (g : Reg3) : Statement (.bswap d a g) := of 0x02 0 rfl rfl
theorem sextB (d : Reg5) (a : Reg5) (g : Reg3) : Statement (.sextB d a g) := of 0x02 0 rfl rfl
theorem sextH (d : Reg5) (a : Reg5) (g : Reg3) : Statement (.sextH d a g) := of 0x02 0 rfl rfl
theorem sextW (d : Reg5) (a : Reg5) (g : Reg3) : Statement (.sextW d a g) := of 0x02 0 rfl rfl
theorem zextB (d : Reg5) (a : Reg5) (g : Reg3) : Statement (.zextB d a g) := of 0x02 0 rfl rfl
theorem zextH (d : Reg5) (a : Reg5) (g : Reg3) : Statement (.zextH d a g) := of 0x02 0 rfl rfl
theorem zextW (d : Reg5) (a : Reg5) (g : Reg3) : Statement (.zextW d a g) := of 0x02 0 rfl rfl
theorem mov (d : Reg5) (a : Reg5) (g : Reg3) : Statement (.mov d a g) := of 0x02 0 rfl rfl
theorem sel (d : Reg5) (a : Reg5) (b : Src) (ps : Reg3) (g : Reg3) : Statement (.sel d a b ps g) :=
  match b with
  | .reg _ => of 0x03 0 rfl rfl
  | .lit _ => of 0x03 1 rfl rfl
theorem addi (d : Reg5) (a : Reg5) (i : Imm 14) : Statement (.addi d a i) :=
  match i with
  | .short _ => of 0x04 0 rfl rfl
  | .lit _ => of 0x04 1 rfl rfl
theorem andi (d : Reg5) (a : Reg5) (i : Imm 14) : Statement (.andi d a i) :=
  match i with
  | .short _ => of 0x05 0 rfl rfl
  | .lit _ => of 0x05 1 rfl rfl
theorem ori (d : Reg5) (a : Reg5) (i : Imm 14) : Statement (.ori d a i) :=
  match i with
  | .short _ => of 0x06 0 rfl rfl
  | .lit _ => of 0x06 1 rfl rfl
theorem xori (d : Reg5) (a : Reg5) (i : Imm 14) : Statement (.xori d a i) :=
  match i with
  | .short _ => of 0x07 0 rfl rfl
  | .lit _ => of 0x07 1 rfl rfl
theorem shli (d : Reg5) (a : Reg5) (n : BitVec 6) : Statement (.shli d a n) := of 0x08 0 rfl rfl
theorem shri (d : Reg5) (a : Reg5) (n : BitVec 6) : Statement (.shri d a n) := of 0x08 0 rfl rfl
theorem srai (d : Reg5) (a : Reg5) (n : BitVec 6) : Statement (.srai d a n) := of 0x08 0 rfl rfl
theorem rotli (d : Reg5) (a : Reg5) (n : BitVec 6) : Statement (.rotli d a n) := of 0x08 0 rfl rfl
theorem movi (d : Reg5) (i : BitVec 14) : Statement (.movi d i) := of 0x09 0 rfl rfl
theorem moviLit (d : Reg5) (v : Word) : Statement (.moviLit d v) := of 0x09 1 rfl rfl
theorem cmpEq (d : Reg3) (a : Reg5) (b : Src) (g : Reg3) : Statement (.cmpEq d a b g) :=
  match b with
  | .reg _ => of 0x0A 0 rfl rfl
  | .lit _ => of 0x0A 1 rfl rfl
theorem cmpNe (d : Reg3) (a : Reg5) (b : Src) (g : Reg3) : Statement (.cmpNe d a b g) :=
  match b with
  | .reg _ => of 0x0A 0 rfl rfl
  | .lit _ => of 0x0A 1 rfl rfl
theorem cmpLt (d : Reg3) (a : Reg5) (b : Src) (g : Reg3) : Statement (.cmpLt d a b g) :=
  match b with
  | .reg _ => of 0x0A 0 rfl rfl
  | .lit _ => of 0x0A 1 rfl rfl
theorem cmpLe (d : Reg3) (a : Reg5) (b : Src) (g : Reg3) : Statement (.cmpLe d a b g) :=
  match b with
  | .reg _ => of 0x0A 0 rfl rfl
  | .lit _ => of 0x0A 1 rfl rfl
theorem cmpLtu (d : Reg3) (a : Reg5) (b : Src) (g : Reg3) : Statement (.cmpLtu d a b g) :=
  match b with
  | .reg _ => of 0x0A 0 rfl rfl
  | .lit _ => of 0x0A 1 rfl rfl
theorem cmpLeu (d : Reg3) (a : Reg5) (b : Src) (g : Reg3) : Statement (.cmpLeu d a b g) :=
  match b with
  | .reg _ => of 0x0A 0 rfl rfl
  | .lit _ => of 0x0A 1 rfl rfl
theorem cmpiEq (d : Reg3) (a : Reg5) (i : Imm 11) : Statement (.cmpiEq d a i) :=
  match i with
  | .short _ => of 0x0B 0 rfl rfl
  | .lit _ => of 0x0B 1 rfl rfl
theorem cmpiNe (d : Reg3) (a : Reg5) (i : Imm 11) : Statement (.cmpiNe d a i) :=
  match i with
  | .short _ => of 0x0B 0 rfl rfl
  | .lit _ => of 0x0B 1 rfl rfl
theorem cmpiLt (d : Reg3) (a : Reg5) (i : Imm 11) : Statement (.cmpiLt d a i) :=
  match i with
  | .short _ => of 0x0B 0 rfl rfl
  | .lit _ => of 0x0B 1 rfl rfl
theorem cmpiLe (d : Reg3) (a : Reg5) (i : Imm 11) : Statement (.cmpiLe d a i) :=
  match i with
  | .short _ => of 0x0B 0 rfl rfl
  | .lit _ => of 0x0B 1 rfl rfl
theorem cmpiLtu (d : Reg3) (a : Reg5) (i : Imm 11) : Statement (.cmpiLtu d a i) :=
  match i with
  | .short _ => of 0x0B 0 rfl rfl
  | .lit _ => of 0x0B 1 rfl rfl
theorem cmpiLeu (d : Reg3) (a : Reg5) (i : Imm 11) : Statement (.cmpiLeu d a i) :=
  match i with
  | .short _ => of 0x0B 0 rfl rfl
  | .lit _ => of 0x0B 1 rfl rfl
theorem pand (d : Reg3) (a : Reg3) (b : Reg3) (g : Reg3) : Statement (.pand d a b g) := of 0x0C 0 rfl rfl
theorem por (d : Reg3) (a : Reg3) (b : Reg3) (g : Reg3) : Statement (.por d a b g) := of 0x0C 0 rfl rfl
theorem pxor (d : Reg3) (a : Reg3) (b : Reg3) (g : Reg3) : Statement (.pxor d a b g) := of 0x0C 0 rfl rfl
theorem pnot (d : Reg3) (a : Reg3) (g : Reg3) : Statement (.pnot d a g) := of 0x0C 0 rfl rfl
theorem pmov (d : Reg3) (a : Reg3) (g : Reg3) : Statement (.pmov d a g) := of 0x0C 0 rfl rfl
theorem aput (d : Reg3) (a : Reg5) (g : Reg3) : Statement (.aput d a g) := of 0x0D 0 rfl rfl
theorem aget (d : Reg5) (a : Reg3) (g : Reg3) : Statement (.aget d a g) := of 0x0D 0 rfl rfl
theorem ainc (d : Reg3) (b : Src) (g : Reg3) : Statement (.ainc d b g) :=
  match b with
  | .reg _ => of 0x0D 0 rfl rfl
  | .lit _ => of 0x0D 1 rfl rfl
theorem acfg (d : Reg3) (a : Reg5) (b : Reg5) (g : Reg3) : Statement (.acfg d a b g) := of 0x0D 0 rfl rfl
theorem br (g : Reg3) (disp : BitVec 21) : Statement (.br g disp) := of 0x10 0 rfl rfl
theorem bl (g : Reg3) (disp : BitVec 21) : Statement (.bl g disp) := of 0x11 0 rfl rfl
theorem jr (a : Reg5) (g : Reg3) : Statement (.jr a g) := of 0x12 0 rfl rfl
theorem jlr (a : Reg5) (g : Reg3) : Statement (.jlr a g) := of 0x12 0 rfl rfl
theorem ret (g : Reg3) : Statement (.ret g) := of 0x12 0 rfl rfl
theorem rep (nm1 : Reg5) (n : Count) : Statement (.rep nm1 n) := of 0x13 0 rfl rfl
theorem repStepped (nm1 : Reg5) (n : Count) (s : RepSteps) : Statement (.repStepped nm1 n s) := of 0x13 2 rfl rfl
theorem nop : Statement (.nop) := of 0x14 0 rfl rfl
theorem illegal : Statement (.illegal) := fun _ _ => .inl rfl
theorem ld (d : Reg5) (a : Reg5) (loc : Bool) (z : BitVec 2) (i : BitVec 7) (g : Reg3) : Statement (.ld d a loc z i g) := of 0x18 0 rfl rfl
theorem ldExt (d : Reg5) (a : Reg5) (loc : Bool) (z : BitVec 2) (i : Imm 7) (o : Option Order) (g : Reg3) : Statement (.ldExt d a loc z i o g) :=
  match i, o with
  | .short _, none => of 0x18 0 rfl rfl
  | .short _, some _ => of 0x18 2 rfl rfl
  | .lit _, none => of 0x18 1 rfl rfl
  | .lit _, some _ => of 0x18 3 rfl rfl
theorem lda (d : Reg5) (a : Reg3) (z : BitVec 2) (i : BitVec 7) (o : Option Order) (g : Reg3) : Statement (.lda d a z i o g) :=
  match o with
  | none => of 0x18 0 rfl rfl
  | some _ => of 0x18 2 rfl rfl
theorem ldS (d : Reg5) (a : Reg5) (loc : Bool) (z : BitVec 2) (i : BitVec 7) (g : Reg3) : Statement (.ldS d a loc z i g) := of 0x19 0 rfl rfl
theorem ldSExt (d : Reg5) (a : Reg5) (loc : Bool) (z : BitVec 2) (i : Imm 7) (o : Option Order) (g : Reg3) : Statement (.ldSExt d a loc z i o g) :=
  match i, o with
  | .short _, none => of 0x19 0 rfl rfl
  | .short _, some _ => of 0x19 2 rfl rfl
  | .lit _, none => of 0x19 1 rfl rfl
  | .lit _, some _ => of 0x19 3 rfl rfl
theorem ldaS (d : Reg5) (a : Reg3) (z : BitVec 2) (i : BitVec 7) (o : Option Order) (g : Reg3) : Statement (.ldaS d a z i o g) :=
  match o with
  | none => of 0x19 0 rfl rfl
  | some _ => of 0x19 2 rfl rfl
theorem st (d : Reg5) (a : Reg5) (loc : Bool) (z : BitVec 2) (i : BitVec 7) (g : Reg3) : Statement (.st d a loc z i g) := of 0x1A 0 rfl rfl
theorem stExt (d : Reg5) (a : Reg5) (loc : Bool) (z : BitVec 2) (i : Imm 7) (o : Option Order) (g : Reg3) : Statement (.stExt d a loc z i o g) :=
  match i, o with
  | .short _, none => of 0x1A 0 rfl rfl
  | .short _, some _ => of 0x1A 2 rfl rfl
  | .lit _, none => of 0x1A 1 rfl rfl
  | .lit _, some _ => of 0x1A 3 rfl rfl
theorem sta (d : Reg5) (a : Reg3) (z : BitVec 2) (i : BitVec 7) (o : Option Order) (g : Reg3) : Statement (.sta d a z i o g) :=
  match o with
  | none => of 0x1A 0 rfl rfl
  | some _ => of 0x1A 2 rfl rfl
theorem vld (d : Reg5) (a : Reg5) (s : Space) (off : Option Word) (x : Option VExt) (g : Reg3) : Statement (.vld d a s off x g) :=
  match off, x with
  | none, none => of 0x1B 0 rfl rfl
  | none, some _ => of 0x1B 2 rfl rfl
  | some _, none => of 0x1B 1 rfl rfl
  | some _, some _ => of 0x1B 3 rfl rfl
theorem vst (d : Reg5) (a : Reg5) (s : Space) (off : Option Word) (x : Option VExt) (g : Reg3) : Statement (.vst d a s off x g) :=
  match off, x with
  | none, none => of 0x1B 0 rfl rfl
  | none, some _ => of 0x1B 2 rfl rfl
  | some _, none => of 0x1B 1 rfl rfl
  | some _, some _ => of 0x1B 3 rfl rfl
theorem vlds (d : Reg5) (a : Reg5) (b : Reg5) (s : Space) (w : Bool) (off : Option Word) (x : Option VExt) (g : Reg3) : Statement (.vlds d a b s w off x g) :=
  match off, x with
  | none, none => of 0x1B 0 rfl rfl
  | none, some _ => of 0x1B 2 rfl rfl
  | some _, none => of 0x1B 1 rfl rfl
  | some _, some _ => of 0x1B 3 rfl rfl
theorem vgth (d : Reg5) (a : Reg5) (b : Reg5) (s : Space) (w : Bool) (off : Option Word) (x : Option VExt) (g : Reg3) : Statement (.vgth d a b s w off x g) :=
  match off, x with
  | none, none => of 0x1B 0 rfl rfl
  | none, some _ => of 0x1B 2 rfl rfl
  | some _, none => of 0x1B 1 rfl rfl
  | some _, some _ => of 0x1B 3 rfl rfl
theorem vsct (d : Reg5) (a : Reg5) (b : Reg5) (s : Space) (w : Bool) (off : Option Word) (x : Option VExt) (g : Reg3) : Statement (.vsct d a b s w off x g) :=
  match off, x with
  | none, none => of 0x1B 0 rfl rfl
  | none, some _ => of 0x1B 2 rfl rfl
  | some _, none => of 0x1B 1 rfl rfl
  | some _, some _ => of 0x1B 3 rfl rfl
theorem amo (d : Reg5) (a : Reg5) (b : Reg5) (op : AmoOp) (o : Order) (w : Bool) : Statement (.amo d a b op o w) := of 0x1C 0 rfl rfl
theorem cas (d : Reg5) (a : Reg5) (b : Reg5) (f : CasFail) (o : Order) (w : Bool) : Statement (.cas d a b f o w) := of 0x1C 0 rfl rfl
theorem amoLocal (d : Reg5) (a : Reg5) (b : Reg5) (op : AmoOp) (o : Order) (w : Bool) (p : Bool) : Statement (.amoLocal d a b op o w p) := of 0x1D 0 rfl rfl
theorem casLocal (d : Reg5) (a : Reg5) (b : Reg5) (f : CasFail) (o : Order) (w : Bool) (p : Bool) : Statement (.casLocal d a b f o w p) := of 0x1D 0 rfl rfl
theorem amof (d : Reg3) (a : Reg3) (b : Reg5) (op : AmoOp) (o : Order) (w : Bool) : Statement (.amof d a b op o w) := of 0x1E 0 rfl rfl
theorem fence (o : Order) (s : Scope) (g : Reg3) : Statement (.fence o s g) := of 0x1F 0 rfl rfl
theorem acq (a : Reg5) (g : Reg3) : Statement (.acq a g) := of 0x1F 0 rfl rfl
theorem rel (a : Reg5) (g : Reg3) : Statement (.rel a g) := of 0x1F 0 rfl rfl
theorem pref (a : Reg5) (off : Option Word) (g : Reg3) : Statement (.pref a off g) :=
  match off with
  | none => of 0x1F 0 rfl rfl
  | some _ => of 0x1F 1 rfl rfl
theorem clean (a : Reg5) (off : Option Word) (g : Reg3) : Statement (.clean a off g) :=
  match off with
  | none => of 0x1F 0 rfl rfl
  | some _ => of 0x1F 1 rfl rfl
theorem czero (a : Reg5) (off : Option Word) (g : Reg3) : Statement (.czero a off g) :=
  match off with
  | none => of 0x1F 0 rfl rfl
  | some _ => of 0x1F 1 rfl rfl
theorem sbind (d : BitVec 2) (a : Reg5) (g : Reg3) : Statement (.sbind d a g) := of 0x1F 0 rfl rfl
theorem sfree (d : BitVec 2) (g : Reg3) : Statement (.sfree d g) := of 0x1F 0 rfl rfl
theorem vadd (m : VF) (d : Reg5) (a : Reg5) (b : Reg5) (x : Option VExt) (g : Reg3) : Statement (.vadd m d a b x g) :=
  match m, x with
  | .f32, none => of 0x20 0 rfl rfl
  | .f32, some _ => of 0x20 2 rfl rfl
  | .bf16, none => of 0x21 0 rfl rfl
  | .bf16, some _ => of 0x21 2 rfl rfl
  | .f16, none => of 0x22 0 rfl rfl
  | .f16, some _ => of 0x22 2 rfl rfl
theorem vsub (m : VF) (d : Reg5) (a : Reg5) (b : Reg5) (x : Option VExt) (g : Reg3) : Statement (.vsub m d a b x g) :=
  match m, x with
  | .f32, none => of 0x20 0 rfl rfl
  | .f32, some _ => of 0x20 2 rfl rfl
  | .bf16, none => of 0x21 0 rfl rfl
  | .bf16, some _ => of 0x21 2 rfl rfl
  | .f16, none => of 0x22 0 rfl rfl
  | .f16, some _ => of 0x22 2 rfl rfl
theorem vmul (m : VF) (d : Reg5) (a : Reg5) (b : Reg5) (x : Option VExt) (g : Reg3) : Statement (.vmul m d a b x g) :=
  match m, x with
  | .f32, none => of 0x20 0 rfl rfl
  | .f32, some _ => of 0x20 2 rfl rfl
  | .bf16, none => of 0x21 0 rfl rfl
  | .bf16, some _ => of 0x21 2 rfl rfl
  | .f16, none => of 0x22 0 rfl rfl
  | .f16, some _ => of 0x22 2 rfl rfl
theorem vfma (m : VF) (d : Reg5) (a : Reg5) (b : Reg5) (x : Option VExt) (g : Reg3) : Statement (.vfma m d a b x g) :=
  match m, x with
  | .f32, none => of 0x20 0 rfl rfl
  | .f32, some _ => of 0x20 2 rfl rfl
  | .bf16, none => of 0x21 0 rfl rfl
  | .bf16, some _ => of 0x21 2 rfl rfl
  | .f16, none => of 0x22 0 rfl rfl
  | .f16, some _ => of 0x22 2 rfl rfl
theorem vfms (m : VF) (d : Reg5) (a : Reg5) (b : Reg5) (x : Option VExt) (g : Reg3) : Statement (.vfms m d a b x g) :=
  match m, x with
  | .f32, none => of 0x20 0 rfl rfl
  | .f32, some _ => of 0x20 2 rfl rfl
  | .bf16, none => of 0x21 0 rfl rfl
  | .bf16, some _ => of 0x21 2 rfl rfl
  | .f16, none => of 0x22 0 rfl rfl
  | .f16, some _ => of 0x22 2 rfl rfl
theorem vfnma (m : VF) (d : Reg5) (a : Reg5) (b : Reg5) (x : Option VExt) (g : Reg3) : Statement (.vfnma m d a b x g) :=
  match m, x with
  | .f32, none => of 0x20 0 rfl rfl
  | .f32, some _ => of 0x20 2 rfl rfl
  | .bf16, none => of 0x21 0 rfl rfl
  | .bf16, some _ => of 0x21 2 rfl rfl
  | .f16, none => of 0x22 0 rfl rfl
  | .f16, some _ => of 0x22 2 rfl rfl
theorem vmin (m : VF) (d : Reg5) (a : Reg5) (b : Reg5) (x : Option VExt) (g : Reg3) : Statement (.vmin m d a b x g) :=
  match m, x with
  | .f32, none => of 0x20 0 rfl rfl
  | .f32, some _ => of 0x20 2 rfl rfl
  | .bf16, none => of 0x21 0 rfl rfl
  | .bf16, some _ => of 0x21 2 rfl rfl
  | .f16, none => of 0x22 0 rfl rfl
  | .f16, some _ => of 0x22 2 rfl rfl
theorem vmax (m : VF) (d : Reg5) (a : Reg5) (b : Reg5) (x : Option VExt) (g : Reg3) : Statement (.vmax m d a b x g) :=
  match m, x with
  | .f32, none => of 0x20 0 rfl rfl
  | .f32, some _ => of 0x20 2 rfl rfl
  | .bf16, none => of 0x21 0 rfl rfl
  | .bf16, some _ => of 0x21 2 rfl rfl
  | .f16, none => of 0x22 0 rfl rfl
  | .f16, some _ => of 0x22 2 rfl rfl
theorem vabs (m : VF) (d : Reg5) (a : Reg5) (x : Option VExt) (g : Reg3) : Statement (.vabs m d a x g) :=
  match m, x with
  | .f32, none => of 0x20 0 rfl rfl
  | .f32, some _ => of 0x20 2 rfl rfl
  | .bf16, none => of 0x21 0 rfl rfl
  | .bf16, some _ => of 0x21 2 rfl rfl
  | .f16, none => of 0x22 0 rfl rfl
  | .f16, some _ => of 0x22 2 rfl rfl
theorem vneg (m : VF) (d : Reg5) (a : Reg5) (x : Option VExt) (g : Reg3) : Statement (.vneg m d a x g) :=
  match m, x with
  | .f32, none => of 0x20 0 rfl rfl
  | .f32, some _ => of 0x20 2 rfl rfl
  | .bf16, none => of 0x21 0 rfl rfl
  | .bf16, some _ => of 0x21 2 rfl rfl
  | .f16, none => of 0x22 0 rfl rfl
  | .f16, some _ => of 0x22 2 rfl rfl
theorem vdiv (m : VF) (d : Reg5) (a : Reg5) (b : Reg5) (x : Option VExt) (g : Reg3) : Statement (.vdiv m d a b x g) :=
  match m, x with
  | .f32, none => of 0x20 0 rfl rfl
  | .f32, some _ => of 0x20 2 rfl rfl
  | .bf16, none => of 0x21 0 rfl rfl
  | .bf16, some _ => of 0x21 2 rfl rfl
  | .f16, none => of 0x22 0 rfl rfl
  | .f16, some _ => of 0x22 2 rfl rfl
theorem vsqrt (m : VF) (d : Reg5) (a : Reg5) (x : Option VExt) (g : Reg3) : Statement (.vsqrt m d a x g) :=
  match m, x with
  | .f32, none => of 0x20 0 rfl rfl
  | .f32, some _ => of 0x20 2 rfl rfl
  | .bf16, none => of 0x21 0 rfl rfl
  | .bf16, some _ => of 0x21 2 rfl rfl
  | .f16, none => of 0x22 0 rfl rfl
  | .f16, some _ => of 0x22 2 rfl rfl
theorem vrcp (m : VF) (d : Reg5) (a : Reg5) (x : Option VExt) (g : Reg3) : Statement (.vrcp m d a x g) :=
  match m, x with
  | .f32, none => of 0x20 0 rfl rfl
  | .f32, some _ => of 0x20 2 rfl rfl
  | .bf16, none => of 0x21 0 rfl rfl
  | .bf16, some _ => of 0x21 2 rfl rfl
  | .f16, none => of 0x22 0 rfl rfl
  | .f16, some _ => of 0x22 2 rfl rfl
theorem vrsq (m : VF) (d : Reg5) (a : Reg5) (x : Option VExt) (g : Reg3) : Statement (.vrsq m d a x g) :=
  match m, x with
  | .f32, none => of 0x20 0 rfl rfl
  | .f32, some _ => of 0x20 2 rfl rfl
  | .bf16, none => of 0x21 0 rfl rfl
  | .bf16, some _ => of 0x21 2 rfl rfl
  | .f16, none => of 0x22 0 rfl rfl
  | .f16, some _ => of 0x22 2 rfl rfl
theorem vexp (m : VF) (d : Reg5) (a : Reg5) (x : Option VExt) (g : Reg3) : Statement (.vexp m d a x g) :=
  match m, x with
  | .f32, none => of 0x20 0 rfl rfl
  | .f32, some _ => of 0x20 2 rfl rfl
  | .bf16, none => of 0x21 0 rfl rfl
  | .bf16, some _ => of 0x21 2 rfl rfl
  | .f16, none => of 0x22 0 rfl rfl
  | .f16, some _ => of 0x22 2 rfl rfl
theorem vlog (m : VF) (d : Reg5) (a : Reg5) (x : Option VExt) (g : Reg3) : Statement (.vlog m d a x g) :=
  match m, x with
  | .f32, none => of 0x20 0 rfl rfl
  | .f32, some _ => of 0x20 2 rfl rfl
  | .bf16, none => of 0x21 0 rfl rfl
  | .bf16, some _ => of 0x21 2 rfl rfl
  | .f16, none => of 0x22 0 rfl rfl
  | .f16, some _ => of 0x22 2 rfl rfl
theorem vsig (m : VF) (d : Reg5) (a : Reg5) (x : Option VExt) (g : Reg3) : Statement (.vsig m d a x g) :=
  match m, x with
  | .f32, none => of 0x20 0 rfl rfl
  | .f32, some _ => of 0x20 2 rfl rfl
  | .bf16, none => of 0x21 0 rfl rfl
  | .bf16, some _ => of 0x21 2 rfl rfl
  | .f16, none => of 0x22 0 rfl rfl
  | .f16, some _ => of 0x22 2 rfl rfl
theorem vtanh (m : VF) (d : Reg5) (a : Reg5) (x : Option VExt) (g : Reg3) : Statement (.vtanh m d a x g) :=
  match m, x with
  | .f32, none => of 0x20 0 rfl rfl
  | .f32, some _ => of 0x20 2 rfl rfl
  | .bf16, none => of 0x21 0 rfl rfl
  | .bf16, some _ => of 0x21 2 rfl rfl
  | .f16, none => of 0x22 0 rfl rfl
  | .f16, some _ => of 0x22 2 rfl rfl
theorem viadd (m : VI) (d : Reg5) (a : Reg5) (b : Reg5) (x : Option VExt) (g : Reg3) : Statement (.viadd m d a b x g) :=
  match m, x with
  | .i32, none => of 0x23 0 rfl rfl
  | .i32, some _ => of 0x23 2 rfl rfl
  | .i16, none => of 0x24 0 rfl rfl
  | .i16, some _ => of 0x24 2 rfl rfl
  | .i8, none => of 0x25 0 rfl rfl
  | .i8, some _ => of 0x25 2 rfl rfl
theorem visub (m : VI) (d : Reg5) (a : Reg5) (b : Reg5) (x : Option VExt) (g : Reg3) : Statement (.visub m d a b x g) :=
  match m, x with
  | .i32, none => of 0x23 0 rfl rfl
  | .i32, some _ => of 0x23 2 rfl rfl
  | .i16, none => of 0x24 0 rfl rfl
  | .i16, some _ => of 0x24 2 rfl rfl
  | .i8, none => of 0x25 0 rfl rfl
  | .i8, some _ => of 0x25 2 rfl rfl
theorem vimul (m : VI) (d : Reg5) (a : Reg5) (b : Reg5) (x : Option VExt) (g : Reg3) : Statement (.vimul m d a b x g) :=
  match m, x with
  | .i32, none => of 0x23 0 rfl rfl
  | .i32, some _ => of 0x23 2 rfl rfl
  | .i16, none => of 0x24 0 rfl rfl
  | .i16, some _ => of 0x24 2 rfl rfl
  | .i8, none => of 0x25 0 rfl rfl
  | .i8, some _ => of 0x25 2 rfl rfl
theorem vimin (m : VI) (d : Reg5) (a : Reg5) (b : Reg5) (x : Option VExt) (g : Reg3) : Statement (.vimin m d a b x g) :=
  match m, x with
  | .i32, none => of 0x23 0 rfl rfl
  | .i32, some _ => of 0x23 2 rfl rfl
  | .i16, none => of 0x24 0 rfl rfl
  | .i16, some _ => of 0x24 2 rfl rfl
  | .i8, none => of 0x25 0 rfl rfl
  | .i8, some _ => of 0x25 2 rfl rfl
theorem vimax (m : VI) (d : Reg5) (a : Reg5) (b : Reg5) (x : Option VExt) (g : Reg3) : Statement (.vimax m d a b x g) :=
  match m, x with
  | .i32, none => of 0x23 0 rfl rfl
  | .i32, some _ => of 0x23 2 rfl rfl
  | .i16, none => of 0x24 0 rfl rfl
  | .i16, some _ => of 0x24 2 rfl rfl
  | .i8, none => of 0x25 0 rfl rfl
  | .i8, some _ => of 0x25 2 rfl rfl
theorem vshl (m : VI) (d : Reg5) (a : Reg5) (b : Reg5) (x : Option VExt) (g : Reg3) : Statement (.vshl m d a b x g) :=
  match m, x with
  | .i32, none => of 0x23 0 rfl rfl
  | .i32, some _ => of 0x23 2 rfl rfl
  | .i16, none => of 0x24 0 rfl rfl
  | .i16, some _ => of 0x24 2 rfl rfl
  | .i8, none => of 0x25 0 rfl rfl
  | .i8, some _ => of 0x25 2 rfl rfl
theorem vshr (m : VI) (d : Reg5) (a : Reg5) (b : Reg5) (x : Option VExt) (g : Reg3) : Statement (.vshr m d a b x g) :=
  match m, x with
  | .i32, none => of 0x23 0 rfl rfl
  | .i32, some _ => of 0x23 2 rfl rfl
  | .i16, none => of 0x24 0 rfl rfl
  | .i16, some _ => of 0x24 2 rfl rfl
  | .i8, none => of 0x25 0 rfl rfl
  | .i8, some _ => of 0x25 2 rfl rfl
theorem vsra (m : VI) (d : Reg5) (a : Reg5) (b : Reg5) (x : Option VExt) (g : Reg3) : Statement (.vsra m d a b x g) :=
  match m, x with
  | .i32, none => of 0x23 0 rfl rfl
  | .i32, some _ => of 0x23 2 rfl rfl
  | .i16, none => of 0x24 0 rfl rfl
  | .i16, some _ => of 0x24 2 rfl rfl
  | .i8, none => of 0x25 0 rfl rfl
  | .i8, some _ => of 0x25 2 rfl rfl
theorem vand (m : VI) (d : Reg5) (a : Reg5) (b : Reg5) (x : Option VExt) (g : Reg3) : Statement (.vand m d a b x g) :=
  match m, x with
  | .i32, none => of 0x23 0 rfl rfl
  | .i32, some _ => of 0x23 2 rfl rfl
  | .i16, none => of 0x24 0 rfl rfl
  | .i16, some _ => of 0x24 2 rfl rfl
  | .i8, none => of 0x25 0 rfl rfl
  | .i8, some _ => of 0x25 2 rfl rfl
theorem vor (m : VI) (d : Reg5) (a : Reg5) (b : Reg5) (x : Option VExt) (g : Reg3) : Statement (.vor m d a b x g) :=
  match m, x with
  | .i32, none => of 0x23 0 rfl rfl
  | .i32, some _ => of 0x23 2 rfl rfl
  | .i16, none => of 0x24 0 rfl rfl
  | .i16, some _ => of 0x24 2 rfl rfl
  | .i8, none => of 0x25 0 rfl rfl
  | .i8, some _ => of 0x25 2 rfl rfl
theorem vxor (m : VI) (d : Reg5) (a : Reg5) (b : Reg5) (x : Option VExt) (g : Reg3) : Statement (.vxor m d a b x g) :=
  match m, x with
  | .i32, none => of 0x23 0 rfl rfl
  | .i32, some _ => of 0x23 2 rfl rfl
  | .i16, none => of 0x24 0 rfl rfl
  | .i16, some _ => of 0x24 2 rfl rfl
  | .i8, none => of 0x25 0 rfl rfl
  | .i8, some _ => of 0x25 2 rfl rfl
theorem vnot (m : VI) (d : Reg5) (a : Reg5) (x : Option VExt) (g : Reg3) : Statement (.vnot m d a x g) :=
  match m, x with
  | .i32, none => of 0x23 0 rfl rfl
  | .i32, some _ => of 0x23 2 rfl rfl
  | .i16, none => of 0x24 0 rfl rfl
  | .i16, some _ => of 0x24 2 rfl rfl
  | .i8, none => of 0x25 0 rfl rfl
  | .i8, some _ => of 0x25 2 rfl rfl
theorem vcmp (c : Cc) (f : VF) (d : Reg3) (a : Reg5) (b : Reg5) (x : Option VExt) (g : Reg3) : Statement (.vcmp c f d a b x g) :=
  match x with
  | none => of 0x26 0 rfl rfl
  | some _ => of 0x26 2 rfl rfl
theorem vicmp (c : Cc) (f : VI) (d : Reg3) (a : Reg5) (b : Reg5) (x : Option VExt) (g : Reg3) : Statement (.vicmp c f d a b x g) :=
  match x with
  | none => of 0x26 0 rfl rfl
  | some _ => of 0x26 2 rfl rfl
theorem vmov (e : ES) (d : Reg5) (a : Reg5) (x : Option VExt) (g : Reg3) : Statement (.vmov e d a x g) :=
  match x with
  | none => of 0x27 0 rfl rfl
  | some _ => of 0x27 2 rfl rfl
theorem vbcast (e : ES) (d : Reg5) (a : Reg5) (x : Option VExt) (g : Reg3) : Statement (.vbcast e d a x g) :=
  match x with
  | none => of 0x27 0 rfl rfl
  | some _ => of 0x27 2 rfl rfl
theorem vext (e : ES) (d : Reg5) (a : Reg5) (b : Src) (x : Option VExt) (g : Reg3) : Statement (.vext e d a b x g) :=
  match b, x with
  | .reg _, none => of 0x27 0 rfl rfl
  | .reg _, some _ => of 0x27 2 rfl rfl
  | .lit _, none => of 0x27 1 rfl rfl
  | .lit _, some _ => of 0x27 3 rfl rfl
theorem vins (e : ES) (d : Reg5) (a : Reg5) (b : Src) (x : Option VExt) (g : Reg3) : Statement (.vins e d a b x g) :=
  match b, x with
  | .reg _, none => of 0x27 0 rfl rfl
  | .reg _, some _ => of 0x27 2 rfl rfl
  | .lit _, none => of 0x27 1 rfl rfl
  | .lit _, some _ => of 0x27 3 rfl rfl
theorem vperm (e : ES) (d : Reg5) (a : Reg5) (b : Reg5) (x : Option VExt) (g : Reg3) : Statement (.vperm e d a b x g) :=
  match x with
  | none => of 0x27 0 rfl rfl
  | some _ => of 0x27 2 rfl rfl
theorem vslide (e : ES) (d : Reg5) (a : Reg5) (b : Src) (x : Option VExt) (g : Reg3) : Statement (.vslide e d a b x g) :=
  match b, x with
  | .reg _, none => of 0x27 0 rfl rfl
  | .reg _, some _ => of 0x27 2 rfl rfl
  | .lit _, none => of 0x27 1 rfl rfl
  | .lit _, some _ => of 0x27 3 rfl rfl
theorem vzip (e : ES) (d : Reg5) (a : Reg5) (b : Reg5) (x : Option VExt) (g : Reg3) : Statement (.vzip e d a b x g) :=
  match x with
  | none => of 0x27 0 rfl rfl
  | some _ => of 0x27 2 rfl rfl
theorem vunzip (e : ES) (d : Reg5) (a : Reg5) (b : Reg5) (x : Option VExt) (g : Reg3) : Statement (.vunzip e d a b x g) :=
  match x with
  | none => of 0x27 0 rfl rfl
  | some _ => of 0x27 2 rfl rfl
theorem vcomp (e : ES) (d : Reg5) (a : Reg5) (x : Option VExt) (g : Reg3) : Statement (.vcomp e d a x g) :=
  match x with
  | none => of 0x27 0 rfl rfl
  | some _ => of 0x27 2 rfl rfl
theorem vexpd (e : ES) (d : Reg5) (a : Reg5) (x : Option VExt) (g : Reg3) : Statement (.vexpd e d a x g) :=
  match x with
  | none => of 0x27 0 rfl rfl
  | some _ => of 0x27 2 rfl rfl
theorem viota (e : ES) (d : Reg5) (x : Option VExt) (g : Reg3) : Statement (.viota e d x g) :=
  match x with
  | none => of 0x27 0 rfl rfl
  | some _ => of 0x27 2 rfl rfl
theorem vsel (e : ES) (d : Reg5) (a : Reg5) (b : Reg5) (x : Option VExt) (g : Reg3) : Statement (.vsel e d a b x g) :=
  match x with
  | none => of 0x27 0 rfl rfl
  | some _ => of 0x27 2 rfl rfl
theorem vcvt (df : Fmt) (sf : Fmt) (sat : Bool) (d : Reg5) (a : Reg5) (x : VExt) (g : Reg3) : Statement (.vcvt df sf sat d a x g) := of 0x28 2 rfl rfl
theorem vredAdd (f : FI) (d : Reg5) (a : Reg5) (x : Option VExt) (g : Reg3) : Statement (.vredAdd f d a x g) :=
  match x with
  | none => of 0x29 0 rfl rfl
  | some _ => of 0x29 2 rfl rfl
theorem vredMin (f : FI) (d : Reg5) (a : Reg5) (x : Option VExt) (g : Reg3) : Statement (.vredMin f d a x g) :=
  match x with
  | none => of 0x29 0 rfl rfl
  | some _ => of 0x29 2 rfl rfl
theorem vredMax (f : FI) (d : Reg5) (a : Reg5) (x : Option VExt) (g : Reg3) : Statement (.vredMax f d a x g) :=
  match x with
  | none => of 0x29 0 rfl rfl
  | some _ => of 0x29 2 rfl rfl
theorem vredAnd (f : VI) (d : Reg5) (a : Reg5) (x : Option VExt) (g : Reg3) : Statement (.vredAnd f d a x g) :=
  match x with
  | none => of 0x29 0 rfl rfl
  | some _ => of 0x29 2 rfl rfl
theorem vredOr (f : VI) (d : Reg5) (a : Reg5) (x : Option VExt) (g : Reg3) : Statement (.vredOr f d a x g) :=
  match x with
  | none => of 0x29 0 rfl rfl
  | some _ => of 0x29 2 rfl rfl
theorem vredXor (f : VI) (d : Reg5) (a : Reg5) (x : Option VExt) (g : Reg3) : Statement (.vredXor f d a x g) :=
  match x with
  | none => of 0x29 0 rfl rfl
  | some _ => of 0x29 2 rfl rfl
theorem vbtst (e : ES) (d : Reg3) (a : Reg5) (b : Reg5) (x : Option VExt) (g : Reg3) : Statement (.vbtst e d a b x g) :=
  match x with
  | none => of 0x2A 0 rfl rfl
  | some _ => of 0x2A 2 rfl rfl
theorem vpcnt (e : ES) (d : Reg5) (a : Reg3) (x : Option VExt) (g : Reg3) : Statement (.vpcnt e d a x g) :=
  match x with
  | none => of 0x2A 0 rfl rfl
  | some _ => of 0x2A 2 rfl rfl
theorem vfirst (e : ES) (d : Reg5) (a : Reg3) (x : Option VExt) (g : Reg3) : Statement (.vfirst e d a x g) :=
  match x with
  | none => of 0x2A 0 rfl rfl
  | some _ => of 0x2A 2 rfl rfl
theorem tld (d : Reg3) (a : Reg5) (b : Reg5) (s : Space) (g : Reg3) : Statement (.tld d a b s g) := of 0x2C 0 rfl rfl
theorem tst (d : Reg3) (a : Reg5) (b : Reg5) (s : Space) (g : Reg3) : Statement (.tst d a b s g) := of 0x2C 0 rfl rfl
theorem tldb (d : Reg3) (a : Reg5) (b : Reg5) (s : Space) (g : Reg3) : Statement (.tldb d a b s g) := of 0x2C 0 rfl rfl
theorem tldt (d : Reg3) (a : Reg5) (b : Reg5) (s : Space) (g : Reg3) : Statement (.tldt d a b s g) := of 0x2C 0 rfl rfl
theorem tldLit (op : TileOp) (d : Reg3) (a : Reg5) (b : Reg5) (s : Space) (off : Word) (g : Reg3) : Statement (.tldLit op d a b s off g) := of 0x2C 1 rfl rfl
theorem tzero (d : Reg3) (g : Reg3) : Statement (.tzero d g) := of 0x2D 0 rfl rfl
theorem accz (r : Region) (g : Reg3) : Statement (.accz r g) := of 0x2D 2 rfl rfl
theorem accrd (d : Reg5) (r : Region) (g : Reg3) : Statement (.accrd d r g) := of 0x2D 2 rfl rfl
theorem accwr (a : Reg5) (r : Region) (g : Reg3) : Statement (.accwr a r g) := of 0x2D 2 rfl rfl
theorem accld (a : Reg5) (r : Region) (off : Option Word) (g : Reg3) : Statement (.accld a r off g) :=
  match off with
  | none => of 0x2D 2 rfl rfl
  | some _ => of 0x2D 3 rfl rfl
theorem accst (a : Reg5) (r : Region) (off : Option Word) (g : Reg3) : Statement (.accst a r off g) :=
  match off with
  | none => of 0x2D 2 rfl rfl
  | some _ => of 0x2D 3 rfl rfl
theorem mma (a : Reg3) (b : Reg3) (r : Region) (g : Reg3) : Statement (.mma a b r g) := of 0x2E 2 rfl rfl
theorem mxepi (d : Reg3) (a : Reg5) (r : Region) (act : Act) (sat : Bool) (bias : Bool) (g : Reg3) : Statement (.mxepi d a r act sat bias g) := of 0x2F 2 rfl rfl
theorem mxgate (d : Reg3) (r : Region) (k : Gate) (g : Reg3) : Statement (.mxgate d r k g) := of 0x2F 2 rfl rfl
theorem mxred (int : Bool) (a : Reg5) (r : Region) (off : Option Word) (g : Reg3) : Statement (.mxred int a r off g) :=
  match off with
  | none => of 0x30 2 rfl rfl
  | some _ => of 0x30 3 rfl rfl
theorem mxsend (d : Reg5) (a : Reg5) (b : Reg5) (c : BitVec 2) (g : Reg3) : Statement (.mxsend d a b c g) := of 0x31 0 rfl rfl
theorem gori2 (dbl : Bool) (d : Reg5) (a : Reg5) (b : Reg5) (tb : Bool) (nf : Bool) (g : Reg3) : Statement (.gori2 dbl d a b tb nf g) :=
  match dbl with
  | false => of 0x34 0 rfl rfl
  | true => of 0x35 0 rfl rfl
theorem gori3 (dbl : Bool) (d : Reg5) (a : Reg5) (b : Reg5) (tb : Bool) (nf : Bool) (g : Reg3) : Statement (.gori3 dbl d a b tb nf g) :=
  match dbl with
  | false => of 0x34 0 rfl rfl
  | true => of 0x35 0 rfl rfl
theorem gincir (dbl : Bool) (d : Reg5) (a : Reg5) (b : Reg5) (tb : Bool) (nf : Bool) (g : Reg3) : Statement (.gincir dbl d a b tb nf g) :=
  match dbl with
  | false => of 0x34 0 rfl rfl
  | true => of 0x35 0 rfl rfl
theorem ginsph (dbl : Bool) (d : Reg5) (a : Reg5) (b : Reg5) (tb : Bool) (nf : Bool) (g : Reg3) : Statement (.ginsph dbl d a b tb nf g) :=
  match dbl with
  | false => of 0x34 0 rfl rfl
  | true => of 0x35 0 rfl rfl
theorem gsegx (dbl : Bool) (d : Reg5) (a : Reg5) (b : Reg5) (tb : Bool) (nf : Bool) (g : Reg3) : Statement (.gsegx dbl d a b tb nf g) :=
  match dbl with
  | false => of 0x34 0 rfl rfl
  | true => of 0x35 0 rfl rfl
theorem gsegt (dbl : Bool) (d : Reg5) (a : Reg5) (b : Reg5) (tb : Bool) (nf : Bool) (g : Reg3) : Statement (.gsegt dbl d a b tb nf g) :=
  match dbl with
  | false => of 0x34 0 rfl rfl
  | true => of 0x35 0 rfl rfl
theorem spld (xd : BitVec 8) (a : Reg5) (g : Reg3) : Statement (.spld xd a g) := of 0x36 0 rfl rfl
theorem spldExt (xd : BitVec 8) (a : Reg5) (nm1 : Option (BitVec 4)) (off : Option Word) (g : Reg3) : Statement (.spldExt xd a nm1 off g) :=
  match nm1, off with
  | none, none => of 0x36 0 rfl rfl
  | none, some _ => of 0x36 1 rfl rfl
  | some _, none => of 0x36 2 rfl rfl
  | some _, some _ => of 0x36 3 rfl rfl
theorem spst (xd : BitVec 8) (a : Reg5) (g : Reg3) : Statement (.spst xd a g) := of 0x36 0 rfl rfl
theorem spstExt (xd : BitVec 8) (a : Reg5) (nm1 : Option (BitVec 4)) (off : Option Word) (g : Reg3) : Statement (.spstExt xd a nm1 off g) :=
  match nm1, off with
  | none, none => of 0x36 0 rfl rfl
  | none, some _ => of 0x36 1 rfl rfl
  | some _, none => of 0x36 2 rfl rfl
  | some _, some _ => of 0x36 3 rfl rfl
theorem spmov (xd : BitVec 8) (xa : BitVec 8) (g : Reg3) : Statement (.spmov xd xa g) := of 0x36 0 rfl rfl
theorem spset (xd : BitVec 8) (a : Reg5) (g : Reg3) : Statement (.spset xd a g) := of 0x36 0 rfl rfl
theorem sptree (xd : BitVec 8) (xa : BitVec 8) (e : SpeExt) (g : Reg3) : Statement (.sptree xd xa e g) := of 0x36 2 rfl rfl
theorem spup (xd : BitVec 8) (xa : BitVec 8) (e : SpeExt) (g : Reg3) : Statement (.spup xd xa e g) := of 0x36 2 rfl rfl
theorem spdn (xd : BitVec 8) (xa : BitVec 8) (e : SpeExt) (g : Reg3) : Statement (.spdn xd xa e g) := of 0x36 2 rfl rfl
theorem spnorm (xd : BitVec 8) (xa : BitVec 8) (g : Reg3) : Statement (.spnorm xd xa g) := of 0x36 0 rfl rfl
theorem spcvt (xd : BitVec 8) (xa : BitVec 8) (g : Reg3) : Statement (.spcvt xd xa g) := of 0x36 0 rfl rfl
theorem spmax (xd : BitVec 8) (xa : BitVec 8) (e : SpeExt) (g : Reg3) : Statement (.spmax xd xa e g) := of 0x36 2 rfl rfl
theorem bar (lvl : BitVec 2) (g : Reg3) : Statement (.bar lvl g) := of 0x38 0 rfl rfl
theorem bararv (a : Reg5) (g : Reg3) : Statement (.bararv a g) := of 0x38 0 rfl rfl
theorem barwt (a : Reg5) (g : Reg3) : Statement (.barwt a g) := of 0x38 0 rfl rfl
theorem xph (g : Reg3) : Statement (.xph g) := of 0x38 0 rfl rfl
theorem push (d : Reg5) (e : Engine) (g : Reg3) : Statement (.push d e g) := of 0x39 0 rfl rfl
theorem tlrd (d : Reg5) (t : Reg5) (g : Reg3) : Statement (.tlrd d t g) := of 0x39 0 rfl rfl
theorem tlwt (a : Reg5) (t : Reg5) (g : Reg3) : Statement (.tlwt a t g) := of 0x39 0 rfl rfl
theorem tlwtLit (v : Word) (t : Reg5) (g : Reg3) : Statement (.tlwtLit v t g) := of 0x39 1 rfl rfl
theorem send (d : Reg5) (a : Reg5) (b : Reg5) (g : Reg3) : Statement (.send d a b g) := of 0x3A 0 rfl rfl
theorem recv (d : Reg5) (a : Reg5) (g : Reg3) : Statement (.recv d a g) := of 0x3A 0 rfl rfl
theorem rpoll (d : Reg5) (a : Reg5) (g : Reg3) : Statement (.rpoll d a g) := of 0x3A 0 rfl rfl
theorem qrd (d : Reg5) (q : Reg3) (g : Reg3) : Statement (.qrd d q g) := of 0x3A 0 rfl rfl
theorem qwr (d : Reg5) (a : Reg5) (q : Reg3) (g : Reg3) : Statement (.qwr d a q g) := of 0x3A 0 rfl rfl
theorem start (d : Reg5) (a : Reg5) (b : Reg5) (g : Reg3) : Statement (.start d a b g) := of 0x3B 0 rfl rfl
theorem joinh (a : Reg5) (g : Reg3) : Statement (.joinh a g) := of 0x3B 0 rfl rfl
theorem exit (g : Reg3) : Statement (.exit g) := of 0x3B 0 rfl rfl
theorem region (g : Reg3) : Statement (.region g) := of 0x3B 0 rfl rfl
theorem ckpt (a : Reg5) (g : Reg3) : Statement (.ckpt a g) := of 0x3B 0 rfl rfl
theorem mpub (d : Reg5) (a : Reg5) (b : Reg5) (len : BitVec 11) (g : Reg3) : Statement (.mpub d a b len g) := of 0x3C 2 rfl rfl
theorem mread (d : Reg5) (a : Reg5) (b : Reg5) (len : BitVec 11) (g : Reg3) : Statement (.mread d a b len g) := of 0x3C 2 rfl rfl
theorem mwait (d : Reg5) (a : Reg5) (b : Reg5) (g : Reg3) : Statement (.mwait d a b g) := of 0x3C 0 rfl rfl
theorem time (d : Reg5) (g : Reg3) : Statement (.time d g) := of 0x3C 0 rfl rfl
theorem sleep (b : Reg5) (g : Reg3) : Statement (.sleep b g) := of 0x3C 0 rfl rfl
theorem sleepLit (v : Word) (g : Reg3) : Statement (.sleepLit v g) := of 0x3C 1 rfl rfl
theorem wfe (g : Reg3) : Statement (.wfe g) := of 0x3C 0 rfl rfl
theorem mfs (d : Reg5) (n : BitVec 12) : Statement (.mfs d n) := of 0x3D 0 rfl rfl
theorem mts (a : Reg5) (n : BitVec 12) : Statement (.mts a n) := of 0x3D 0 rfl rfl
theorem trap (c : BitVec 12) : Statement (.trap c) := of 0x3D 0 rfl rfl
theorem eret : Statement (.eret) := of 0x3D 0 rfl rfl
theorem tlbfl : Statement (.tlbfl) := of 0x3D 0 rfl rfl
theorem tlbren (d : Reg5) (a : Reg5) : Statement (.tlbren d a) := of 0x3D 0 rfl rfl
theorem capld (a : Reg5) (c : BitVec 2) : Statement (.capld a c) := of 0x3D 0 rfl rfl
theorem capclr (c : BitVec 2) : Statement (.capclr c) := of 0x3D 0 rfl rfl
theorem chsend (d : Reg5) (a : Reg5) (b : Reg5) (g : Reg3) : Statement (.chsend d a b g) := of 0x3E 0 rfl rfl
theorem chrecv (d : Reg5) (a : Reg5) (b : Reg5) (g : Reg3) : Statement (.chrecv d a b g) := of 0x3E 0 rfl rfl
theorem chclose (a : Reg5) (g : Reg3) : Statement (.chclose a g) := of 0x3E 0 rfl rfl
theorem vcid (d : Reg5) (g : Reg3) : Statement (.vcid d g) := of 0x3E 0 rfl rfl
theorem streamReadAhead (core : Nat) (ctx : Nat) (j : Nat) : Statement (.streamReadAhead core ctx j) := event rfl
theorem sideLogReplay (core : Nat) (n : Nat) : Statement (.sideLogReplay core n) := event rfl
theorem heldAccessResume (core : Nat) (ctx : Nat) : Statement (.heldAccessResume core ctx) := event rfl
theorem faultRecordPost (cluster : Nat) (n : Nat) : Statement (.faultRecordPost cluster n) := event rfl
theorem faultAnswerMapped (token : Word) : Statement (.faultAnswerMapped token) := event rfl
theorem faultAnswerInvalid (token : Word) : Statement (.faultAnswerInvalid token) := event rfl
theorem pageWalkComplete (core : Nat) (va : Word) (write : Bool) (fetch : Bool) : Statement (.pageWalkComplete core va write fetch) := event rfl
theorem tlbEntryExpiry (core : Nat) : Statement (.tlbEntryExpiry core) := event rfl
theorem memoryRequestAtHome (n : Nat) : Statement (.memoryRequestAtHome n) := event rfl
theorem refusedRequestReissue (n : Nat) : Statement (.refusedRequestReissue n) := event rfl
theorem accessResponse (n : Nat) : Statement (.accessResponse n) := event rfl
theorem remoteCoreMemoryAccess (n : Nat) : Statement (.remoteCoreMemoryAccess n) := event rfl
theorem amofArrival (n : Nat) : Statement (.amofArrival n) := event rfl
theorem bararvArrival (n : Nat) : Statement (.bararvArrival n) := event rfl
theorem dramSectorFill (pa : Nat) (crc : Bool) (poison : Bool) : Statement (.dramSectorFill pa crc poison) := event rfl
theorem leaseRenewalWalk (cluster : Nat) (chan : Nat) : Statement (.leaseRenewalWalk cluster chan) := event rfl
theorem clockSkew (core : Nat) (err : Half) : Statement (.clockSkew core err) := event rfl
theorem clockSkewCleared (core : Nat) : Statement (.clockSkewCleared core) := event rfl
theorem scOperationComplete (n : Nat) : Statement (.scOperationComplete n) := event rfl
theorem contextWake (core : Nat) (ctx : Nat) : Statement (.contextWake core ctx) := event rfl
theorem sleepDeadline (core : Nat) (ctx : Nat) : Statement (.sleepDeadline core ctx) := event rfl
theorem barrierArrival (n : Nat) : Statement (.barrierArrival n) := event rfl
theorem sendArrival (n : Nat) : Statement (.sendArrival n) := event rfl
theorem sendAnswer (n : Nat) : Statement (.sendAnswer n) := event rfl
theorem seizureArrival (n : Nat) : Statement (.seizureArrival n) := event rfl
theorem seizureAccept (core : Nat) : Statement (.seizureAccept core) := event rfl
theorem seizureDrainEnd (core : Nat) : Statement (.seizureDrainEnd core) := event rfl
theorem seizureSaveEnd (core : Nat) : Statement (.seizureSaveEnd core) := event rfl
theorem seizureRunEnd (core : Nat) : Statement (.seizureRunEnd core) := event rfl
theorem seizureRestoreEnd (core : Nat) : Statement (.seizureRestoreEnd core) := event rfl
theorem seizureResultAtRing (n : Nat) : Statement (.seizureResultAtRing n) := event rfl
theorem mirrorPublication (n : Nat) : Statement (.mirrorPublication n) := event rfl
theorem mirrorFlip (slot : Nat) : Statement (.mirrorFlip slot) := event rfl
theorem mirrorReadArrival (n : Nat) : Statement (.mirrorReadArrival n) := event rfl
theorem mirrorReadDone (n : Nat) : Statement (.mirrorReadDone n) := event rfl
theorem mirrorGrantWrite (slot : Nat) (word : Nat) (v : Word) : Statement (.mirrorGrantWrite slot word v) := event rfl
theorem mirrorGrantInEffect (slot : Nat) : Statement (.mirrorGrantInEffect slot) := event rfl
theorem periodicTrigger (core : Nat) (bank : Nat) : Statement (.periodicTrigger core bank) := event rfl
theorem watchdog (core : Nat) (bank : Nat) : Statement (.watchdog core bank) := event rfl
theorem trapDelivery (core : Nat) (ctx : Nat) : Statement (.trapDelivery core ctx) := event rfl
theorem rollback (core : Nat) (ctx : Nat) (unit : BitVec 4) : Statement (.rollback core ctx unit) := event rfl
theorem timingReplay (core : Nat) (mask : BitVec 11) : Statement (.timingReplay core mask) := event rfl
theorem lockstepMismatch (core : Nat) : Statement (.lockstepMismatch core) := event rfl
theorem launchTake (core : Nat) : Statement (.launchTake core) := event rfl
theorem launchAdmit (n : Nat) : Statement (.launchAdmit n) := event rfl
theorem superstepBegin (lvl : Nat) (dom : Nat) : Statement (.superstepBegin lvl dom) := event rfl
theorem taskStart (core : Nat) : Statement (.taskStart core) := event rfl
theorem clearSequenceEnd (core : Nat) : Statement (.clearSequenceEnd core) := event rfl
theorem q0EventPost (core : Nat) : Statement (.q0EventPost core) := event rfl
theorem move (cluster : Nat) (chan : Nat) : Statement (.move cluster chan) := event rfl
theorem fill (cluster : Nat) (chan : Nat) : Statement (.fill cluster chan) := event rfl
theorem plan (core : Nat) : Statement (.plan core) := event rfl
theorem expand (cluster : Nat) (chan : Nat) : Statement (.expand cluster chan) := event rfl
theorem engineCommandComplete (cluster : Nat) (chan : Nat) : Statement (.engineCommandComplete cluster chan) := event rfl
theorem permitResume (core : Nat) : Statement (.permitResume core) := event rfl
theorem forcedPreemption (lvl : Nat) (dom : Nat) : Statement (.forcedPreemption lvl dom) := event rfl
theorem preemptLogDrained (lvl : Nat) (dom : Nat) : Statement (.preemptLogDrained lvl dom) := event rfl
theorem preemptSaveDone (lvl : Nat) (dom : Nat) : Statement (.preemptSaveDone lvl dom) := event rfl
theorem preemptedTaskResume (lvl : Nat) (dom : Nat) : Statement (.preemptedTaskResume lvl dom) := event rfl
theorem scrubEnd (core : Nat) : Statement (.scrubEnd core) := event rfl
theorem regionpcWrite (core : Nat) (ctx : Nat) (v : Word) : Statement (.regionpcWrite core ctx v) := event rfl
theorem tshapeWrite (core : Nat) (n : Nat) (v : Word) : Statement (.tshapeWrite core n v) := event rfl
theorem capWordWrite (core : Nat) (ctx : Nat) (n : Nat) (w : Nat) (v : Word) : Statement (.capWordWrite core ctx n w v) := event rfl
theorem capaccWrite (core : Nat) (n : Nat) (v : Word) : Statement (.capaccWrite core n v) := event rfl
theorem segbaseWrite (core : Nat) (n : Nat) (v : Word) : Statement (.segbaseWrite core n v) := event rfl
theorem seglimWrite (core : Nat) (n : Nat) (v : Word) : Statement (.seglimWrite core n v) := event rfl
theorem relcfgWrite (core : Nat) (n : Nat) (v : Word) : Statement (.relcfgWrite core n v) := event rfl
theorem sysregWrite (core : Nat) (ctx : Nat) (n : Nat) (v : Word) : Statement (.sysregWrite core ctx n v) := event rfl
theorem lqtailWrite (v : Nat) (n : Word) : Statement (.lqtailWrite v n) := event rfl
theorem hostLaunchEntry (v : Nat) : Statement (.hostLaunchEntry v) := event rfl
theorem completionQueueEntry (v : Nat) : Statement (.completionQueueEntry v) := event rfl
theorem cqheadWrite (v : Nat) (n : Word) : Statement (.cqheadWrite v n) := event rfl
theorem faultQueueRecord (v : Nat) : Statement (.faultQueueRecord v) := event rfl
theorem fqheadWrite (v : Nat) (n : Word) : Statement (.fqheadWrite v n) := event rfl
theorem fqanswerMapped (v : Nat) : Statement (.fqanswerMapped v) := event rfl
theorem fqanswerInvalid (v : Nat) : Statement (.fqanswerInvalid v) := event rfl
theorem queueCfgWrite (v : Nat) (ring : Nat) (x : Word) : Statement (.queueCfgWrite v ring x) := event rfl
theorem hostRegisterWrite (vf : Option Nat) (off : Nat) (x : Word) : Statement (.hostRegisterWrite vf off x) := event rfl
theorem bar2Access (off : Nat) (size : Nat) (write : Option Word) : Statement (.bar2Access off size write) := event rfl
theorem pcieReadCompletion (n : Nat) : Statement (.pcieReadCompletion n) := event rfl
theorem assignWrite (v : Nat) (x : Word) : Statement (.assignWrite v x) := event rfl
theorem rassignWrite (v : Nat) (x : Word) : Statement (.rassignWrite v x) := event rfl
theorem functionLevelReset (v : Nat) : Statement (.functionLevelReset v) := event rfl
theorem flrDrainEnd (v : Nat) : Statement (.flrDrainEnd v) := event rfl
theorem flrScrubEnd (v : Nat) : Statement (.flrScrubEnd v) := event rfl
theorem flrLeaseWaitEnd (v : Nat) : Statement (.flrLeaseWaitEnd v) := event rfl
theorem freeze : Statement (.freeze) := event rfl
theorem freezeRelease : Statement (.freezeRelease) := event rfl
theorem deviceReset : Statement (.deviceReset) := event rfl
theorem heartbeat : Statement (.heartbeat) := event rfl
theorem containerCapture : Statement (.containerCapture) := event rfl
theorem peerLost : Statement (.peerLost) := event rfl
theorem spareTakeover : Statement (.spareTakeover) := event rfl
theorem fwInstall : Statement (.fwInstall) := event rfl
theorem fwActivate : Statement (.fwActivate) := event rfl
theorem pwrWrite (core : Nat) (x : Word) : Statement (.pwrWrite core x) := event rfl
theorem powerSettingApply (core : Nat) : Statement (.powerSettingApply core) := event rfl
theorem declareFree : Statement (.declareFree) := event rfl
theorem declareInUse : Statement (.declareInUse) := event rfl
theorem dramRepairComplete (chan : Nat) : Statement (.dramRepairComplete chan) := event rfl
theorem repcmdRepair (chan : Nat) : Statement (.repcmdRepair chan) := event rfl
theorem repcmdDecline (chan : Nat) : Statement (.repcmdDecline chan) := event rfl
theorem classifierEntryAgeing (chan : Nat) : Statement (.classifierEntryAgeing chan) := event rfl
theorem objectLoad (v : Nat) (addr : Word) (len : Word) (base : Word) : Statement (.objectLoad v addr len base) := event rfl
theorem eguCompletion (core : Nat) : Statement (.eguCompletion core) := event rfl
theorem speCompletion (core : Nat) : Statement (.speCompletion core) := event rfl
theorem wfeWakeWithNoEvent (core : Nat) (ctx : Nat) : Statement (.wfeWakeWithNoEvent core ctx) := event rfl
theorem fwInstallComplete : Statement (.fwInstallComplete) := event rfl
theorem vfEnable : Statement (.vfEnable) := event rfl

end Sys2Proof.Laws.Framed
end

