-- ==== Sys2Proof/Tests/Slice0.lean ====
section
/-! SUPPORT. Tests: ill-formed terms refused, words decoded, results taken from the spec, and a witness for every statement. -/

set_option Elab.async false

namespace Sys2Proof.Tests

open Sys2Proof Sys2Proof.Machine

/-! ### Helpers -/

/-- The next state, where there is one. -/
def run (i : Instr) (s : State) : Option State :=
  match exec i s with
  | .next t => some t
  | _ => none

/-- Core 0 with its context 0. -/
@[reducible] def core0 (c : CoreSt) : State := { State.reset with cores := [(0, c)] }
@[reducible] def ctx0 (x : Ctx) : State := core0 { ctxs := [(0, x)] }
@[reducible] def regs (g : Tab Word) : State := ctx0 { g := g }
@[reducible] def s0 : State := State.reset

/-- What a computation answers, or d. -/
def got {ε α : Type} (e : Except ε α) (d : α) : α :=
  match e with
  | .ok a => a
  | .error _ => d

/-- A computation answers. -/
def answers {ε α : Type} (e : Except ε α) : Bool :=
  match e with
  | .ok _ => true
  | .error _ => false

theorem got_eq {ε α : Type} (e : Except ε α) (d : α) (h : answers e = true) : e = .ok (got e d) := by
  cases e with
  | ok a => rfl
  | error e => exact absurd h (by simp [answers])

/-- A core with nothing in flight and its two units empty. -/
def still (s : State) : Bool := s.flight.isEmpty && s.me.spe.isEmpty && s.me.egu.isEmpty

theorem calm_of {s : State} (h : still s = true) : s.calm := by
  simp only [still, Bool.and_eq_true, List.isEmpty_iff] at h
  obtain ⟨⟨f, x⟩, g⟩ := h
  simp [State.calm, f, x, g]

theorem unbound_of {s : State} (h : s.my.streams = []) : s.unbound := by
  intro r
  simp [Ctx.stream, h, tget]

/-- An access that reaches p, from what its checks answer. -/
theorem reach_of {s : State} {sp : Space} {acc : Acc} {inf : AddrInfo} {va : Word} {n e : Nat} {p : Place}
    (h : answers (s.check sp acc inf (oneItem va n)) = true)
    (hl : (got (s.check sp acc inf (oneItem va n)) ([], s)).1 = [⟨⟨0, va, va, n, n⟩, some p, e⟩]) :
    s.reach sp acc inf va n p (got (s.check sp acc inf (oneItem va n)) ([], s)).2 :=
  ⟨e, by rw [← hl]; exact got_eq _ _ h⟩

theorem of_got {ε α : Type} {e : Except ε α} {d : α} {q : α → Prop} (h : answers e = true) (hq : q (got e d)) :
    ∃ a, e = .ok a ∧ q a := ⟨got e d, got_eq e d h, hq⟩

/-- A mapping of the first 64 KiB for function 4: readable, writable, executable, dirty. -/
@[reducible] def page0 : TlbEntry :=
  { base := 0, log2 := 16, frame := 0x100000, r := true, w := true, x := true, d := true, vf := 4, cmask := 0xFFFF, lease := 0,
    filled := 0, expiry := 1000 }

/-- A pointer to offset 16 of core 0: K = 22. -/
@[reducible] def ptr0 : Word := BitVec.ofNat 64 (22 * 2 ^ 29 + 16)

/-- A core n, issuing in its context 0. -/
@[reducible] def onCore (n : Nat) (c : CoreSt) : State := { State.reset with cores := [(n, c)], cur := { core := n } }

/-- Doublewords by address. -/
def dwords (l : List (Nat × Word)) : Tab Byte :=
  l.foldl (fun m e => (leBytes 8 e.2.toNat).zipIdx.foldl (fun m b => tset 0 m (e.1 + b.2) b.1) m) []

/-- Function 4's tables: a leaf for the first 64 KiB (frame 0x100000, readable and writable, cluster mask all ones), the range from 64 MiB absent. -/
@[reducible] def mapped : Tab Byte :=
  dwords [(0x4000, 0x8001), (0x8000, 0xC001), (0xC000, 0x10001), (0x10000, 0x100833), (0x10008, 0xFFFF), (0x1DFFF00040, 0x4001)]

/-! ### Witnesses: scalar instructions, control flow, scalar memory -/

theorem test_witness_RefusedWords : (0x0E000000 : Half) ≠ 0 ∧
    (lenMask ((0x0E000000 : Half).extractLsb' 24 6).toNat).getLsbD ((0x0E000000 : Half).extractLsb' 30 2).toNat = false ∧
    (lenMask ((0x42000000 : Half).extractLsb' 24 6).toNat).getLsbD ((0x42000000 : Half).extractLsb' 30 2).toNat = false := by
  decide +kernel

theorem test_witness_DecodeEncode : ∀ i ∈ [Instr.add 1 2 (.lit 0) 0, .rotli 31 31 63, .ldExt 1 2 true 3 (.lit 0) (some .sc) 0, .sfree 3 7,
    .vnot .i8 31 31 none 7, .vfirst .b 31 7 none 0, .tzero 7 7, .spmax 255 255 ⟨0, 255⟩ 0, .bar 3 7, .mfs 31 0xFFF],
    i.isEvent = false := by decide +kernel

theorem test_witness_FalseGuard : guardOf (.mov 1 2 1) = some 1 ∧ (s0.getP 1).getLsbD 0 = false := by decide +kernel

theorem test_witness_ScalarResults : scalarRule (regs [(2, 5)]) (.add 1 2 (.lit (-1)) 0) = some (1, 4) ∧
    scalarRule s0 (.moviLit 0 7) = some (0, 7) ∧ s0.guardHolds (.add 1 2 (.lit (-1)) 0) = true := by decide +kernel

theorem test_witness_DivisionCorners : s0.guardOn 0 = true ∧ s0.src (.reg 3) = 0 ∧
    (regs [(2, 0x8000000000000000), (3, -1)]).src (.reg 3) = 0xFFFFFFFFFFFFFFFF ∧
    (regs [(2, -7), (3, 2)]).getG 2 = -7 ∧ (regs [(2, -7), (3, 2)]).src (.reg 3) = 2 := by decide +kernel

theorem test_witness_PredicateResults : predRule s0 (.cmpiLeu 7 0 (.short 0)) = some (7, BitVec.allOnes 128) ∧
    predRule s0 (.pnot 2 0 0) = some (2, 0) ∧ s0.guardHolds (.pnot 2 0 0) = true := by decide +kernel

theorem test_witness_Transfers : jumpRule (regs [(2, 0x1000)]) (.jlr 2 0) = some (0x1000, true) ∧ legalTarget 0x1000 = true ∧
    jumpRule (regs [(2, 0x1002)]) (.jr 2 0) = some (0x1002, false) ∧ legalTarget 0x1002 = false ∧
    legalTarget 0x0100000000000000 = false := by decide +kernel

theorem test_witness_PointerMovesBack : ptrIn s0.rect ptr0 = true ∧ (ptrMove s0.rect ptr0 64).getLsbD 63 = false := by decide +kernel

theorem test_witness_RepReplays : s0.my.replay = none ∧ (ctx0 { replayM := some ⟨4, 2, 2, 0, 0, none, []⟩ }).my.replay =
    some ⟨4, 2, 2, 0, 0, none, []⟩ := by decide +kernel

/-- Core 0 in the replay of three captured instructions, pass p at instruction k: ADD G4, G5, G6, BR and NOP. -/
@[reducible] def replayState (p k : Nat) (steps : Option RepSteps) : State :=
  { core0 { ctxs := [(0, { run := .running, pc := 16, g := [(5, 7)], replayM := some ⟨16, 3, 4, p, k, steps,
      [encode (.add 4 5 (.reg 6) 0), encode (.br 0 4), encode .nop]⟩ })], itlb := [page0] } with agenda := [.core 0] }

/-- Captured instructions with a step on pass 2 and without one, and one that a block must not contain. -/
theorem test_witness_ReplayIssues : ∀ k ∈ [0, 1], (let s := replayState 2 k (some ⟨1, 0, 0, 8, 1⟩)
    let r : State := { s.tick with agenda := [] }
    let t : State := { r.setCore 0 { r.core 0 with last := 0 } with cur := { core := 0, ctx := 0 } }
    s.frozen = false ∧ r.pick 0 = some 0 ∧ (r.core 0).pair = false ∧ ((r.core 0).ctx 0).canRun = true ∧ t.my.dispatching = none ∧
    t.my.async = [] ∧ t.my.run ≠ .released ∧ t.my.replay.isSome = true ∧ t.waits (.add 4 5 (.reg 6) 0) = false ∧
    decode t.reflex (encode (.add 4 5 (.reg 6) 0)) = .ok (.add 4 5 (.reg 6) 0) ∧ decode t.reflex (encode (.br 0 4)) = .ok (.br 0 4) ∧
    featureStop (.add 4 5 (.reg 6) 0) = none ∧ uncapturable (.br 0 4) = true ∧ uncapturable (.add 4 5 (.reg 6) 0) = false ∧
    t.guardHolds (.add 4 5 (.reg 6) 0) = true ∧
    steppedForm 2 ⟨1, 0, 0, 8, 1⟩ (.add 4 5 (.reg 6) 0) = some (.add 6 5 (.reg 6) 0)) := by decide +kernel

theorem test_witness_NopOnlyMovesOn : (1 : BitVec 24) ≠ 0 ∧ (0x800000 : BitVec 24) ≠ 0 := by decide +kernel

theorem test_witness_ScalarLoads : ∃ (p : Place) (u v : State),
    loadRule (regs [(2, 8)]) (.ldS 1 2 true 2 0 0) = some (⟨.loc, 8, 4, .rlx⟩, 1, true) ∧
    (regs [(2, 8)]).reach .loc .load {} 8 4 p u ∧ u.gate .rlx = .ok v ∧ v.calm ∧ v.poisonedIn p 4 = false ∧
    v.defers .loc .rlx = false :=
  ⟨.core 0 8, regs [(2, 8)], regs [(2, 8)], by decide +kernel, ⟨0, rfl⟩, rfl, calm_of (by decide +kernel), by decide +kernel, by decide +kernel⟩

/-- The same load of global memory where the model performs it later. -/
theorem test_witness_ScalarLoadDefers : (let s : State := { core0 { ctxs := [(0, { g := [(2, 8)] })], dtlb := [page0] } with eager := false }
    (loadRule s (.ldS 1 2 false 2 0 0)).isSome = true ∧ s.flight = [] ∧ s.defers .glob .rlx = true ∧
    (let c := s.check .glob .load {} (oneItem 8 4)
     answers c = true ∧ (got c ([], s)).1.map (·.place) = [some (.dram 0x100008)] ∧ (got c ([], s)).2.flight = [] ∧
     (got c ([], s)).2.poisonedIn (.dram 0x100008) 4 = false)) := by decide +kernel

theorem test_witness_ScalarStores : ∃ (p : Place) (u v : State),
    storeRule (regs [(2, 8)]) (.st 1 2 true 3 0 0) = some (⟨.loc, 8, 8, .rlx⟩, 1) ∧
    (regs [(2, 8)]).reach .loc .store { write := true } 8 8 p u ∧ ¬(State.far (regs [(2, 8)]) .loc p ∧ u.sendsSc .rlx = true) ∧ u.gate .rlx = .ok v ∧ v.calm ∧
    v.later .loc p = false :=
  ⟨.core 0 8, regs [(2, 8)], regs [(2, 8)], by decide +kernel, ⟨0, rfl⟩, by simp [State.sendsSc],
    rfl, calm_of (by decide +kernel), by decide +kernel⟩

/-- Stores that the model performs later: to global memory, and to another core's. -/
theorem test_witness_StoresLater : (let s : State := { s0 with eager := false }
    s.later .glob (.dram 8) = true ∧ s.later .dist (.core 1 0) = true ∧ s.later .dist (.core 0 0) = false) := by decide +kernel

/-- Core 0 in an exchange phase of level 1, with a pointer in A1 to offset 16 of core 1 and the same address in A2 of its own memory. -/
@[reducible] def scState : State :=
  { core0 { ctxs := [(0, { a := [(1, ptr0 + 0x800000), (2, ptr0)] })], sys := [(0x003, 1)], xph := true } with eager := false }

/-- A STA.sc to core 1 that is sent, and takes its place in S. -/
theorem test_witness_StoreSent : storeRule scState (.sta 3 1 3 0 (some .sc) 0) = some (⟨.dist, ptr0 + 0x800000, 8, .sc⟩, 3) ∧
    scState.far .dist (.core 1 16) ∧ scState.sendsSc .sc = true ∧
    (let c := scState.check .dist .store { write := true } (oneItem (ptr0 + 0x800000) 8)
     answers c = true ∧ (got c ([], s0)).1.map (·.place) = [some (.core 1 16)]) :=
  ⟨by decide +kernel, ⟨1, 16, rfl, rfl, by decide +kernel⟩, by decide +kernel, by decide +kernel⟩

/-- A load of the absent page at 0x4000000, and one of a poisoned doubleword of core memory. -/
theorem test_witness_StoppedLoads : (let s : State := { core0 { ctxs := [(0, { g := [(2, 0x4000000)] })], memBad := [(1, 0xFF)] } with dram := mapped }
    let c := s.check .glob .load {} (oneItem 0x4000000 8)
    loadRule s (.ld 1 2 false 3 0 0) = some (⟨.glob, 0x4000000, 8, .rlx⟩, 1, false) ∧ answers c = true ∧
    (got c ([], s)).1.map (·.place) = [none] ∧ s.poisonedIn (.core 0 8) 8 = true ∧ s.my.restart.poisoned = false ∧
    s.my.restart.returns < 3 ∧ s.my.restart.ckpt = false ∧ s.my.restart.replay = none) := by decide +kernel

/-- The state of Tests.mapped in which core 0's page at 0x4000000 has been declared invalid to its context, and what it finds there. -/
theorem test_witness_GlobalChecks : (let s : State := { core0 { ctxs := [(0, { invalidAt := some 0x4000000 })] } with dram := mapped }
    let abs (x : State) : Bool := match (x.xlateCore .load 0x4000000).1 with
      | .absent => true
      | _ => false
    s.reflex = false ∧ 2 ^ 56 < (0xFFFFFFFFFFFFF9 : Word).toNat + 8 ∧ (0xFFFFFFFFFFFFF8 : Word).toNat + 8 ≤ 2 ^ 56 ∧
    (0xFFFFFFFFFFFFF9 : Word).toNat % 8 ≠ 0 ∧ abs s = true ∧ s.my.invalidAt = some 0x4000000 ∧
    abs { s0 with dram := mapped } = true ∧ s0.my.invalidAt ≠ some 0x4000000 ∧
    (match (s.xlateCore .load 8).1 with
      | .place p _ => decide (p = .dram 0x100008) && !s.homeSkewed p.addr
      | _ => false) = true ∧ (s.xlateCore .load 8).2.me.slog = [] ∧
    (match (s0.xlateCore .load 8).1 with
      | .noRoot => true
      | _ => false) = true ∧
    (match (s.xlateCore .load 0x20000).1 with
      | .malformed => true
      | _ => false) = true ∧
    (match ({ s0 with dram := tset 0 mapped 0x10000 0x03 }.xlateCore .load 8).1 with
      | .refused k => k == 1
      | _ => false) = true) := by decide +kernel

/-- Leaves of another function, of another cluster's mask, without W, and a good one; and walks that end before a leaf. -/
theorem test_witness_LeafChecks : (let s (w0 w1 : Word) : State := { s0 with dram := dwords [(0x4000, 0x8001), (0x8000, 0xC001), (0xC000, 0x10001),
      (0x10000, w0), (0x10008, w1), (0x1DFFF00040, 0x4001)] }
    let leaf (s : State) : Bool := match s.walk 4 8 with
      | .leaf _ => true
      | _ => false
    leaf (s 0x100433 0xFFFF) = true ∧ leaf (s 0x100833 0xFFFE) = true ∧ leaf (s 0x100813 0xFFFF) = true ∧ leaf (s 0x100833 0xFFFF) = true ∧
    bits (0x100433 : Word) 9 3 ≠ 4 ∧ bits (0x100833 : Word) 9 3 = 4 ∧ (0xFFFE : Word).getLsbD 0 = false ∧ (0x100813 : Word).getLsbD 5 = false) := by
  decide +kernel

/-- Core 64 with a segment of shared SRAM at 0x1000, readable, one beyond the SRAM's end, and one of core 65's memory. -/
theorem test_witness_SegmentChecks : (let lim (k : Nat) : Nat := if k = 0 then 2 ^ 63 + 2 ^ 51 + 2 ^ 12 else if k = 1 then 2 ^ 63 + 2 ^ 51 + 0x1CFF * 2 ^ 25 + 2 * 2 ^ 12
      else 2 ^ 63 + 2 ^ 61 + 65 * 2 ^ 54 + 2 ^ 52 + 2 ^ 12
    let s := onCore 64 { sys := [(0x180, 0x1000), (0x181, 0x3000), (0x182, 0x5000), (0x188, BitVec.ofNat 64 (lim 0)), (0x189, BitVec.ofNat 64 (lim 1)),
      (0x18A, BitVec.ofNat 64 (lim 2))] }
    s.reflex = true ∧ s.me.segment 0x1000 = some 0 ∧ s.me.segment 0x1FFF = some 0 ∧ s.me.segment 0x2000 = none ∧ s.me.segment 0x4000 = some 1 ∧
    s.me.segment 0x5000 = some 2 ∧ (s.core 65).vf = s.me.vf ∧ (lim 0 / 2 ^ 52) % 2 = 0 ∧ 0x1D00000 < 4096 * 0x1CFF + 0x1000 + 8) := by decide +kernel

/-- Offsets at the edges of core memory: the last doubleword, one byte further, and one that is not aligned. -/
theorem test_witness_LocalChecks : (0x4FFFF8 : Word).toNat + 8 ≤ memSize 0 ∧ (0x4FFFF8 : Word).toNat % 8 = 0 ∧
    memSize 0 < (0x4FFFF9 : Word).toNat + 8 ∧ (0x4FFFF4 : Word).toNat + 8 ≤ memSize 0 ∧ (0x4FFFF4 : Word).toNat % 8 ≠ 0 := by
  decide +kernel

theorem test_witness_PointerResults : pointerRule (ctx0 { a := [(2, ptr0)] }) (.ainc 2 (.lit 8) 0) = some (2, ptr0 + 8) ∧
    ptrOk s0.rect ptr0 0 = true ∧ (ptrMove s0.rect ptr0 8).getLsbD 63 = false ∧ (ptrMove s0.rect ptr0 (-17)).getLsbD 63 = true := by
  decide +kernel

/-- Pointers to this core, past its memory, misaligned, and to core 1 in a compute phase and in an exchange phase. -/
theorem test_witness_PointerChecks : s0.reflex = false ∧ ptrOk s0.rect ptr0 16 = true ∧ ptrOff ptr0 % 16 = 0 ∧
    s0.namedCore ptr0 = s0.cur.core ∧ ptrOk s0.rect (BitVec.ofNat 64 (22 * 2 ^ 29 + 0x4FFFF8)) 16 = false ∧
    ptrOff (ptr0 + 8) % 16 ≠ 0 ∧
    (let s := core0 { sys := [(0x003, 1)] }
     let p : Word := BitVec.ofNat 64 (22 * 2 ^ 29 + 2 ^ 23)
     ptrOk s.rect p 8 = true ∧ ptrOff p % 8 = 0 ∧ s.me.xph = false ∧ s.namedCore p ≠ s.cur.core) ∧
    (core0 { xph := true }).me.xph = true := by decide +kernel

theorem test_witness_Atomics : ∃ (u v : State) (p : Place),
    (let s := core0 { ctxs := [(0, { g := [(2, 8), (3, 5)] })], dtlb := [page0] }
     atomicRule s (.cas 1 2 3 .rlx .rlx true) ≠ none ∧ s.reach .glob .rmw { write := true } 8 8 p u ∧ u.calm ∧
     (∀ a, p ≠ .host a ∧ p ≠ .peer a) ∧ u.poisonedIn p 8 = false ∧ u.gate .rlx = .ok v ∧ v.poisonedIn p 8 = false ∧
     v.defers .glob .rlx = false) :=
  ⟨_, _, .dram 0x100008, by simp [atomicRule], reach_of (e := 1000) (by decide +kernel) (by decide +kernel),
    calm_of (by decide +kernel), fun _ => ⟨nofun, nofun⟩, by decide +kernel, got_eq _ s0 (by decide +kernel), by decide +kernel,
    by decide +kernel⟩

theorem test_witness_AtomicsDefer : ({ s0 with eager := false } : State).defers .glob .rlx = true ∧
    amoOf (.amo 0 2 3 .add .rlx true) = some (.add, 3) ∧ atomicRule s0 (.amo 0 2 3 .add .rlx true) ≠ none :=
  ⟨by decide +kernel, rfl, by simp [atomicRule]⟩

/-- An AMO.sc and an AMOF.sc that are not performed at issue. -/
theorem test_witness_AtomicsSent : scState.sendsSc .sc = true ∧ scState.reflex = false ∧
    (let c := scState.check .loc .rmw { write := true } (oneItem 8 8)
     answers c = true ∧ (got c ([], s0)).1.map (·.place) = [some (.core 0 8)] ∧ (got c ([], s0)).2.sendsSc (atomicOrder (.amoLocal 1 0 3 .add .sc true false) .sc true) = true) ∧
    ptrOk scState.rect (scState.getA 1) 16 = true ∧ ptrOff (scState.getA 1) % 16 = 0 ∧ ptrOk scState.rect (scState.getA 2) 16 = true ∧
    scState.namedCore (scState.getA 1) = 1 ∧ scState.poisonedIn (.core 1 16) 8 = false := by decide +kernel

/-! ### Witnesses: vectors, streams, fences -/

theorem test_witness_VectorLanes : laneRule s0 (.vadd .f32 1 2 3 none 0) ≠ none ∧ laneRule s0 (.vsel .b 1 2 3 (some ⟨1, false⟩) 0) ≠ none ∧
    insertRule s0 (.vins .w 1 2 (.lit 31) none 0) ≠ none ∧ s0.guardHolds (.vadd .f32 1 2 3 none 0) = true ∧ s0.unbound :=
  ⟨by simp [laneRule], by simp [laneRule], by simp [insertRule], by decide +kernel, unbound_of (by decide +kernel)⟩

theorem test_witness_VectorPredicates : vectorPredRule s0 (.vcmp .lt .f16 7 1 2 (some ⟨1, true⟩) 0) ≠ none ∧
    vectorScalarRule s0 (.vredAdd (.f .f32) 1 2 none 0) ≠ none ∧ vectorScalarRule s0 (.vfirst .d 1 2 none 0) ≠ none ∧
    (∀ k ∈ s0.lanes none 8, (s0.getG 3).toNat + laneNat (s0.getV 2) 8 k / 8 < memSize s0.cur.core ∧
      s0.poisonedIn (.core s0.cur.core ((s0.getG 3).toNat + laneNat (s0.getV 2) 8 k / 8)) 1 = false) :=
  ⟨by simp [vectorPredRule], by simp [vectorScalarRule], by simp [vectorScalarRule], by decide +kernel⟩

theorem test_witness_VectorAccesses :
    (let a : Nat → Word := fun i => s0.laneAt .loc 2 none (4 * i)
     answers (s0.check .loc .load {} (s0.laneAccesses 4 none a)) = true ∧
     (∀ l ∈ (got (s0.check .loc .load {} (s0.laneAccesses 4 none a)) ([], s0)).1,
       l.place = some (.core 0 (4 * l.item.lane)) ∧ s0.poisonedIn (.core 0 (4 * l.item.lane)) 4 = false) ∧
     (got (s0.check .loc .load {} (s0.laneAccesses 4 none a)) ([], s0)).2.flight = [] ∧
     answers (s0.check .loc .store { write := true } (s0.laneAccesses 4 none a)) = true ∧
     (∀ l ∈ (got (s0.check .loc .store { write := true } (s0.laneAccesses 4 none a)) ([], s0)).1,
       l.place = some (.core 0 (4 * l.item.lane)))) := by decide +kernel

/-- Lanes of a store to global memory that the model performs later. -/
theorem test_witness_VectorStoresLater : (let s : State := { core0 { dtlb := [page0] } with eager := false }
    let c := s.check .glob .store { write := true } (s.laneAccesses 4 none fun i => s.laneAt .glob 2 none (4 * i))
    (vectorMemRule s (.vst 1 2 .glob none none 0)).isSome = true ∧ answers c = true ∧ (got c ([], s)).2.flight = [] ∧
    (got c ([], s)).1.all (fun l => l.place.isSome && (got c ([], s)).2.away .glob l) = true) := by decide +kernel

/-- A scatter of words to the absent page at 0x4000000, with room in the side log. -/
theorem test_witness_VectorStoresLogged : (let s : State := { core0 {} with dram := mapped }
    let c := s.check .glob .store { write := true } (s.laneAccesses 4 none fun i => BitVec.ofNat 64 (0x4000000 + 8 * i))
    answers c = true ∧ (got c ([], s)).1.all (fun l => l.place.isNone) = true ∧ (got c ([], s)).1.length = 32 ∧
    (got c ([], s)).2.me.slog.length + 32 ≤ 64) := by decide +kernel

/-- Stores on the absent page at 0x4000000 of function 4. -/
theorem test_witness_LoggedStores : (let s : State := { core0 { ctxs := [(0, { g := [(2, 0x4000000)] })] } with dram := mapped }
    let one := s.check .glob .store { write := true } (oneItem 0x4000000 8)
    let two := s.check .glob .store { write := true } [⟨0, 0x4000000, 0x4000000, 128, 1⟩, ⟨0, 0x4000000, 0x4000080, 128, 1⟩]
    (storeRule s (.st 1 2 false 3 0 0)).isSome = true ∧ answers one = true ∧ (got one ([], s)).1.map (·.place) = [none] ∧
    (got one ([], s)).2.flight = [] ∧ (got one ([], s)).2.me.slog.length < 64 ∧ answers two = true ∧
    (got two ([], s)).1.map (·.place) = [none, none]) := by decide +kernel

/-- A descriptor at 64 whose DIR is 1. -/
theorem test_witness_StreamBinding : (let s := core0 { ctxs := [(0, { g := [(2, 64)] })], mem := [(88, 4)] }
    (s.getG 2).toNat + 32 ≤ memSize s.cur.core ∧ (s.getG 2).toNat % 32 = 0 ∧ s.poisonedIn (.core 0 64) 32 = false ∧
    descriptorBad (s.bytesAt (.core 0 64) 32) = false ∧ s.appendPending 0 = false ∧ s.flight = []) ∧
    descriptorBad (s0.bytesAt (.core 0 64) 32) = true ∧ (core0 { egu := [⟨0, 31, 0, false⟩] }).appendPending 3 = true := by decide +kernel

/-- V28 bound to a generator at its end, to one that only appends, to one with a chunk read ahead, and V29 to one that only pops. -/
theorem test_witness_BoundOperands : (let st (dir rc : Nat) (ahead : List (BitVec 1024)) : Stream :=
      { bound := true, base := 0x1000, count := 2, stride := 128, dir := dir, space := 1, rc := rc, ahead := ahead }
    let s (g : Stream) : State := ctx0 { streams := [(0, g)] }
    (streamSources (.vfma .f32 1 28 2 none 0)).isSome = true ∧ (s (st 1 2 [])).my.stream 28 = some (st 1 2 []) ∧ (2 : BitVec 32).toNat ≤ 2 ∧
    (s (st 2 0 [])).my.stream 28 = some (st 2 0 []) ∧ (s (st 1 0 [])).my.stream 1 = none ∧
    answers ((s (st 1 0 [])).readItems .loc .load (streamInfo false (st 1 0 [])) 0 0 (chunkItems 0x1000)) = true ∧
    (let c := (s (st 3 1 [7])).check .loc .load (streamInfo false (st 3 1 [7])) (chunkItems ((st 3 1 [7]).chunk 1))
     answers c = true ∧ (got c ([], s0)).1.all (·.place.isSome) = true) ∧
    (let c := (s (st 2 0 [])).check .loc .store { streamInfo true (st 2 0 []) with write := true } (chunkItems 0x1000)
     answers c = true ∧ (got c ([], s0)).1.all (·.place.isSome) = true ∧ (got c ([], s0)).2.me.slog = [])) := by decide +kernel

theorem test_witness_FencesAndLines : s0.fenceReady .sc .system = true ∧ answers s0.scGate = true ∧
    (let s := core0 { dtlb := [page0] }
     s.reflex = false ∧ (s.xlateCore .load 0).1 = .place (.dram 0x100000) 1000 ∧ (onCore 64 {}).reflex = true ∧
     (let c := s.check .glob .store { write := true } [⟨0, 0, 0, 128, 1⟩, ⟨0, 0, 128, 128, 1⟩]
      answers c = true ∧ (got c ([], s)).1 = [⟨⟨0, 0, 0, 128, 1⟩, some (.dram 0x100000), 1000⟩,
        ⟨⟨0, 0, 128, 128, 1⟩, some (.dram 0x100080), 1000⟩])) := by decide +kernel

/-- No translation is made for a core whose replica is out of bound. -/
theorem test_witness_CleanWaits : (match ((core0 { skewed := true }).xlateCore .load 0).1 with
    | .skewed => true
    | _ => false) = true := by decide +kernel

theorem test_witness_EntryConsistency : (let s := core0 { dtlb := [page0] }
    answers (readObject s 2) = true ∧
    (let r := got (readObject s 2) ([], [], s)
     r.2.1.map (·.place) = [some (.dram 0x100000)] ∧ r.2.1.map (·.item.n) = [64] ∧
     r.2.2.boundPending (boundRegions r.1) = false)) := by decide +kernel

/-! ### Words of every constructor, from the formats of R73 and the tables of R80 (and the spec's own worked encodings) -/

/-- The words decode to the instruction. -/
def reads (e : List Half × Instr) : Bool :=
  match decode false e.1 with
  | .ok i => decide (i = e.2)
  | .error _ => false

theorem test_words_Scalar : ∀ e ∈ ([
    ([0x01190A01], .add 3 4 (.reg 5) 1),
    ([0x41F8800D, 0xFFFFFFFE, 0xFFFFFFFF], .sub 31 2 (.lit (-2)) 5),
    ([0x01190A11], .mul 3 4 (.reg 5) 1),
    ([0x41F8801D, 0xFFFFFFFE, 0xFFFFFFFF], .mulh 31 2 (.lit (-2)) 5),
    ([0x01190A21], .mulhu 3 4 (.reg 5) 1),
    ([0x41F8802D, 0xFFFFFFFE, 0xFFFFFFFF], .div 31 2 (.lit (-2)) 5),
    ([0x01190A31], .divu 3 4 (.reg 5) 1),
    ([0x41F8803D, 0xFFFFFFFE, 0xFFFFFFFF], .rem 31 2 (.lit (-2)) 5),
    ([0x01190A41], .remu 3 4 (.reg 5) 1),
    ([0x41F8804D, 0xFFFFFFFE, 0xFFFFFFFF], .and 31 2 (.lit (-2)) 5),
    ([0x01190A51], .or 3 4 (.reg 5) 1),
    ([0x41F8805D, 0xFFFFFFFE, 0xFFFFFFFF], .xor 31 2 (.lit (-2)) 5),
    ([0x01190A61], .andn 3 4 (.reg 5) 1),
    ([0x41F8806D, 0xFFFFFFFE, 0xFFFFFFFF], .orn 31 2 (.lit (-2)) 5),
    ([0x01190A71], .shl 3 4 (.reg 5) 1),
    ([0x41F8807D, 0xFFFFFFFE, 0xFFFFFFFF], .shr 31 2 (.lit (-2)) 5),
    ([0x01190A81], .sra 3 4 (.reg 5) 1),
    ([0x41F8808D, 0xFFFFFFFE, 0xFFFFFFFF], .rotl 31 2 (.lit (-2)) 5),
    ([0x01190A91], .min 3 4 (.reg 5) 1),
    ([0x41F8809D, 0xFFFFFFFE, 0xFFFFFFFF], .max 31 2 (.lit (-2)) 5),
    ([0x01190AA1], .minu 3 4 (.reg 5) 1),
    ([0x41F880AD, 0xFFFFFFFE, 0xFFFFFFFF], .maxu 31 2 (.lit (-2)) 5),
    ([0x020FC000], .clz 1 31 0),
    ([0x02178009], .ctz 2 30 1),
    ([0x021F4012], .popc 3 29 2),
    ([0x0227001B], .brev 4 28 3),
    ([0x022EC024], .bswap 5 27 4),
    ([0x0236802D], .sextB 6 26 5),
    ([0x023E4036], .sextH 7 25 6),
    ([0x0246003F], .sextW 8 24 7),
    ([0x024DC040], .zextB 9 23 0),
    ([0x02558049], .zextH 10 22 1),
    ([0x025D4052], .zextW 11 21 2),
    ([0x0265005B], .mov 12 20 3),
    ([0x03088784], .sel 1 2 (.reg 3) 6 4),
    ([0x041F7FFF], .addi 3 29 (.short 0x3fff)),
    ([0x051F7FFE], .andi 3 29 (.short 0x3ffe)),
    ([0x061F7FFD], .ori 3 29 (.short 0x3ffd)),
    ([0x071F7FFC], .xori 3 29 (.short 0x3ffc)),
    ([0x081F403C], .shli 3 29 60),
    ([0x081F503D], .shri 3 29 61),
    ([0x081F603E], .srai 3 29 62),
    ([0x081F703F], .rotli 3 29 63),
    ([0x09F02001], .movi 30 0x2001),
    ([0x49380000, 0x56789ABC, 0x00001234], .moviLit 7 0x123456789ABC)] : List (List Half × Instr)), reads e = true := by decide +kernel

theorem test_words_Compare : ∀ e ∈ ([
    ([0x0A17A203], .cmpEq 2 30 (.reg 17) 3),
    ([0x0B178400], .cmpiEq 2 30 (.short 1024)),
    ([0x0A1F620B], .cmpNe 3 29 (.reg 17) 3),
    ([0x0B1F4C01], .cmpiNe 3 29 (.short 1025)),
    ([0x0A272213], .cmpLt 4 28 (.reg 17) 3),
    ([0x0B271402], .cmpiLt 4 28 (.short 1026)),
    ([0x0A2EE21B], .cmpLe 5 27 (.reg 17) 3),
    ([0x0B2EDC03], .cmpiLe 5 27 (.short 1027)),
    ([0x0A36A223], .cmpLtu 6 26 (.reg 17) 3),
    ([0x0B36A404], .cmpiLtu 6 26 (.short 1028)),
    ([0x0A3E622B], .cmpLeu 7 25 (.reg 17) 3),
    ([0x0B3E6C05], .cmpiLeu 7 25 (.short 1029)),
    ([0x0C298E01], .pand 5 6 7 1),
    ([0x0C298E09], .por 5 6 7 1),
    ([0x0C298E11], .pxor 5 6 7 1),
    ([0x0C298019], .pnot 5 6 1),
    ([0x0C298021], .pmov 5 6 1),
    ([0x0D2F8002], .aput 5 30 2),
    ([0x0DF1400A], .aget 30 5 2),
    ([0x4D280012, 0xFFFFFFC0, 0xFFFFFFFF], .ainc 5 (.lit (-64)) 2),
    ([0x0D110A18], .acfg 2 4 5 0)] : List (List Half × Instr)), reads e = true := by decide +kernel

theorem test_words_Control : ∀ e ∈ ([
    ([0x107FFFFC], .br 3 0x1FFFFC),
    ([0x11500001], .bl 2 0x100001),
    ([0x12024001], .jr 9 1),
    ([0x12024009], .jlr 9 1),
    ([0x12000010], .ret 0),
    ([0x13FC4000], .rep 31 (.reg 17)),
    ([0x93000008, 0x10000008, 0x00000001], .repStepped 0 (.imm 8) ⟨1, 0, 0, 8, 1⟩),
    ([0x14000000], .nop),
    ([0x00000000], .illegal)] : List (List Half × Instr)), reads e = true := by decide +kernel

theorem test_words_Memory : ∀ e ∈ ([
    ([0x18405C00], .ld 8 1 true 3 0 0),
    ([0xD8290C00, 0x00000001, 0x00000000, 0x00010000, 0x00000000], .ldExt 5 4 false 3 (.lit 0x10000) (some .acq) 0),
    ([0x1839ABE9], .lda 7 6 2 0x7D none 1),
    ([0x193997E9], .ldS 7 6 true 1 0x7D 1),
    ([0x99398849, 0x00000004, 0x00000000], .ldSExt 7 6 false 2 (.short 9) (some .sc) 1),
    ([0x9939A049, 0x00000001, 0x00000000], .ldaS 7 6 0 9 (some .acq) 1),
    ([0x1A209C70], .st 4 2 true 3 14 0),
    ([0x5A209007, 0xFFFFFFFF, 0xFFFFFFFF], .stExt 4 2 true 0 (.lit (-1)) none 7),
    ([0x9A20AC08, 0x00000002, 0x00000000], .sta 4 2 3 1 (some .rel) 0),
    ([0x9B0A0000, 0x00000030, 0x00000000], .vld 1 8 .glob none (some ⟨1, true⟩) 0),
    ([0x1B08C040], .vst 1 3 .glob none none 0),
    ([0xDB4A0E99, 0x000000E0, 0x00000000, 0x00000040, 0x00000000], .vlds 9 8 7 .loc true (some 0x40) (some ⟨7, false⟩) 1),
    ([0x9B190AC0, 0x00000040, 0x00000000], .vgth 3 4 5 .glob false none (some ⟨2, false⟩) 0),
    ([0x9B458F18, 0x00000080, 0x00000000], .vsct 8 22 7 .loc true none (some ⟨4, false⟩) 0),
    ([0x1C290C0E], .amo 5 4 6 .add .ar true),
    ([0x1C290D92], .cas 5 4 6 .sc .sc true),
    ([0x1D29CD29], .amoLocal 5 7 6 .fadd .rel false true),
    ([0x1D290D44], .casLocal 5 4 6 .rlx .acq false false),
    ([0x1E31FF02], .amof 6 7 31 .swap .rlx true),
    ([0x1F200800], .fence .sc .device 0),
    ([0x1F07C00B], .acq 31 3),
    ([0x1F07C013], .rel 31 3),
    ([0x1F07801B], .pref 30 none 3),
    ([0x5F078023, 0x00000100, 0x00000000], .clean 30 (some 256) 3),
    ([0x1F07802B], .czero 30 none 3),
    ([0x1FE08030], .sbind 0 2 0),
    ([0x1FF80038], .sfree 3 0)] : List (List Half × Instr)), reads e = true := by decide +kernel

theorem test_words_Vector : ∀ e ∈ ([
    ([0xA007C200, 0x00000010, 0x00000000], .vadd .f32 0 31 1 (some ⟨0, true⟩) 0),
    ([0xA10F8409, 0x00000030, 0x00000000], .vsub .bf16 1 30 2 (some ⟨1, true⟩) 1),
    ([0xA2174612, 0x00000050, 0x00000000], .vmul .f16 2 29 3 (some ⟨2, true⟩) 2),
    ([0xA01F081B, 0x00000070, 0x00000000], .vfma .f32 3 28 4 (some ⟨3, true⟩) 3),
    ([0xA126CA24, 0x00000090, 0x00000000], .vfms .bf16 4 27 5 (some ⟨4, true⟩) 4),
    ([0xA22E8C2D, 0x000000B0, 0x00000000], .vfnma .f16 5 26 6 (some ⟨5, true⟩) 5),
    ([0xA0364E36, 0x000000D0, 0x00000000], .vmin .f32 6 25 7 (some ⟨6, true⟩) 6),
    ([0xA13E103F, 0x000000F0, 0x00000000], .vmax .bf16 7 24 8 (some ⟨7, true⟩) 7),
    ([0x2245C040], .vabs .f16 8 23 none 0),
    ([0x204D8049], .vneg .f32 9 22 none 1),
    ([0xA1555652, 0x00000050, 0x00000000], .vdiv .bf16 10 21 11 (some ⟨2, true⟩) 2),
    ([0x225D005B], .vsqrt .f16 11 20 none 3),
    ([0x2064C064], .vrcp .f32 12 19 none 4),
    ([0x216C806D], .vrsq .bf16 13 18 none 5),
    ([0x22744076], .vexp .f16 14 17 none 6),
    ([0x207C007F], .vlog .f32 15 16 none 7),
    ([0x2183C080], .vsig .bf16 16 15 none 0),
    ([0x228B8089], .vtanh .f16 17 14 none 1),
    ([0x2307C200], .viadd .i32 0 31 1 none 0),
    ([0x240F8409], .visub .i16 1 30 2 none 1),
    ([0x25174612], .vimul .i8 2 29 3 none 2),
    ([0x231F081B], .vimin .i32 3 28 4 none 3),
    ([0x2426CA24], .vimax .i16 4 27 5 none 4),
    ([0x252E8C2D], .vshl .i8 5 26 6 none 5),
    ([0x23364E36], .vshr .i32 6 25 7 none 6),
    ([0x243E103F], .vsra .i16 7 24 8 none 7),
    ([0x2545D240], .vand .i8 8 23 9 none 0),
    ([0x234D9449], .vor .i32 9 22 10 none 1),
    ([0x24555652], .vxor .i16 10 21 11 none 2),
    ([0x255D005B], .vnot .i8 11 20 none 3),
    ([0x26100288], .vcmp .lt .bf16 2 0 1 none 0),
    ([0x26114D20], .vicmp .ltu .i16 2 5 6 none 0)] : List (List Half × Instr)), reads e = true := by decide +kernel

theorem test_words_Lanes : ∀ e ∈ ([
    ([0x2707C009], .vmov .h 0 31 none 1),
    ([0x270F8031], .vbcast .w 1 30 none 1),
    ([0x67174059, 0x00000003, 0x00000000], .vext .d 2 29 (.lit 3) none 1),
    ([0xE71F0061, 0x000000A0, 0x00000000, 0x00000003, 0x00000000], .vins .b 3 28 (.lit 3) (some ⟨5, false⟩) 1),
    ([0x2726DA89], .vperm .h 4 27 13 none 1),
    ([0xE72E80B1, 0x000000A0, 0x00000000, 0x00000003, 0x00000000], .vslide .w 5 26 (.lit 3) (some ⟨5, false⟩) 1),
    ([0x27365ED9], .vzip .d 6 25 15 none 1),
    ([0x273E20E1], .vunzip .b 7 24 16 none 1),
    ([0x2745C109], .vcomp .h 8 23 none 1),
    ([0x274D8131], .vexpd .w 9 22 none 1),
    ([0x27500159], .viota .d 10 none 1),
    ([0xA70A4368, 0x000000C0, 0x00000000], .vsel .h 1 9 1 (some ⟨6, false⟩) 0),
    ([0xA8214000, 0x00010300, 0x00000000], .vcvt .e4m3 .fp32 true 4 5 ⟨0, false⟩ 0),
    ([0x294A0002], .vredAdd (.f .f32) 9 8 none 2),
    ([0x294A0052], .vredMin (.f .f16) 9 8 none 2),
    ([0x294A00A2], .vredMax (.i .i16) 9 8 none 2),
    ([0x294A00DA], .vredAnd .i32 9 8 none 2),
    ([0x294A0122], .vredOr .i16 9 8 none 2),
    ([0x294A016A], .vredXor .i8 9 8 none 2),
    ([0x2A190A08], .vbtst .h 3 4 5 none 0),
    ([0x2A30C050], .vpcnt .w 6 3 none 0),
    ([0x2A318088], .vfirst .h 6 6 none 0)] : List (List Half × Instr)), reads e = true := by decide +kernel

theorem test_words_Arrays : ∀ e ∈ ([
    ([0x2C094C10], .tld 1 5 6 .loc 0),
    ([0x2C11D243], .tst 2 7 9 .glob 3),
    ([0x2C19D293], .tldb 3 7 9 .loc 3),
    ([0x2C21D2C3], .tldt 4 7 9 .glob 3),
    ([0x6C1D66D0, 0x00000040, 0x00000000], .tldLit .tldt 3 21 19 .loc 0x40 0),
    ([0x2D380003], .tzero 7 3),
    ([0xAD000008, 0x00001020, 0x00000000], .accz ⟨0, 0, 1, 1⟩ 0),
    ([0xAD480011, 0xFFFE0000, 0x00000000], .accrd 9 ⟨255, 127, 0, 0⟩ 1),
    ([0xAD024019, 0x01040000, 0x00000000], .accwr 9 ⟨1, 2, 0, 0⟩ 1),
    ([0xAD024021, 0x0105FFE0, 0x00000000], .accld 9 ⟨1, 2, 31, 127⟩ none 1),
    ([0xED024029, 0x0105FFE0, 0x00000000, 0x00000010, 0x00000000], .accst 9 ⟨1, 2, 31, 127⟩ (some 16) 1),
    ([0xAE004400, 0x20000000, 0x00000000], .mma 1 2 ⟨32, 0, 0, 0⟩ 0),
    ([0xAF190000, 0x00001020, 0x00000018], .mxepi 3 4 ⟨0, 0, 1, 1⟩ .relu false true 0),
    ([0xAF180008, 0x040A60E0, 0x00000020], .mxgate 3 ⟨4, 5, 6, 7⟩ .mgu 0),
    ([0xF002400A, 0x040A60E0, 0x00000000, 0xFFFFFFFC, 0xFFFFFFFF], .mxred true 9 ⟨4, 5, 6, 7⟩ (some (-4)) 2),
    ([0x31298E08], .mxsend 5 6 7 1 0),
    ([0x34068000], .gori2 false 0 26 0 false false 0),
    ([0x350D2A61], .gori3 true 1 20 21 true false 1),
    ([0x34160092], .gincir false 2 24 0 false true 2),
    ([0x351C6AF3], .ginsph true 3 17 21 true true 3),
    ([0x34260104], .gsegx false 4 24 0 false false 4),
    ([0x352C6B65], .gsegt true 5 17 21 true false 5),
    ([0x36C80901], .spld 200 9 1),
    ([0xB6000100, 0x0000000F, 0x00000000], .spldExt 0 1 (some 15) none 0),
    ([0x36C80909], .spst 200 9 1),
    ([0xB6280208, 0x00000006, 0x00000000], .spstExt 40 2 (some 6) none 0),
    ([0x36111C10], .spmov 17 28 0),
    ([0x36FF1F1F], .spset 255 31 7),
    ([0xB61C0020, 0x10310000, 0x00000000], .sptree 28 0 ⟨0x10, 49⟩ 0),
    ([0xB61C0028, 0x09080000, 0x00000000], .spup 28 0 ⟨9, 8⟩ 0),
    ([0xB6302030, 0x01080000, 0x00000000], .spdn 48 32 ⟨1, 8⟩ 0),
    ([0x36283038], .spnorm 40 48 0),
    ([0x36FEFD40], .spcvt 254 253 0),
    ([0xB61C0048, 0x09080000, 0x00000000], .spmax 28 0 ⟨9, 8⟩ 0)] : List (List Half × Instr)), reads e = true := by decide +kernel

theorem test_words_System : ∀ e ∈ ([
    ([0x38000200], .bar 1 0),
    ([0x38010008], .bararv 4 0),
    ([0x3807C016], .barwt 31 6),
    ([0x38000018], .xph 0),
    ([0x39800200], .push 16 .walk 0),
    ([0x39881209], .tlrd 17 9 1),
    ([0x39015010], .tlwt 5 8 0),
    ([0x79001210, 0x00000003, 0x00000000], .tlwtLit 3 9 0),
    ([0x3A190A00], .send 3 4 5 0),
    ([0x3A600008], .recv 12 0 0),
    ([0x3A634011], .rpoll 12 13 1),
    ([0x3A800419], .qrd 16 2 1),
    ([0x3A190220], .qwr 3 4 1 0),
    ([0x3B088604], .start 1 2 3 4),
    ([0x3B00800C], .joinh 2 4),
    ([0x3B000010], .exit 0),
    ([0x3B000018], .region 0),
    ([0x3B01C020], .ckpt 7 0),
    ([0xBC298E00, 0x00000020, 0x00000000], .mpub 5 6 7 32 0),
    ([0xBC6A0808, 0x00000020, 0x00000000], .mread 13 8 4 32 0),
    ([0x3C088614], .mwait 1 2 3 4),
    ([0x3C48001C], .time 9 4),
    ([0x3C001420], .sleep 10 0),
    ([0x7C000021, 0x00000000, 0x00000100], .sleepLit 0x10000000000 1),
    ([0x3C000029], .wfe 1),
    ([0x3D200018], .mfs 4 0x018),
    ([0x3D025021], .mts 9 0x021),
    ([0x3D0020C1], .trap 0x0C1),
    ([0x3D003000], .eret),
    ([0x3D003040], .tlbfl),
    ([0x3D293080], .tlbren 5 4),
    ([0x3D01F0C3], .capld 7 3),
    ([0x3D003102], .capclr 2),
    ([0x3E190A00], .chsend 3 4 5 0),
    ([0x3E310E08], .chrecv 6 4 7 0),
    ([0x3E010010], .chclose 4 0),
    ([0x3E080018], .vcid 1 0)] : List (List Half × Instr)), reads e = true := by decide +kernel

/-! ### Results that the spec works out -/

/-- What a G register holds after an instruction. -/
def gAfter (i : Instr) (s : State) (r : Reg5) : Option Word := (run i s).map fun t => t.getG r

/-- Bytes by their place. -/
def cells (at_ : Nat) (bs : List Byte) : Tab Byte := bs.zipIdx.foldl (fun m e => tset 0 m (at_ + e.2) e.1) []

/-- R100, the examples below its table. -/
theorem test_div : gAfter (.div 1 2 (.reg 3) 0) (regs [(2, -7), (3, 2)]) 1 = some (-3) ∧
    gAfter (.rem 1 2 (.reg 3) 0) (regs [(2, -7), (3, 2)]) 1 = some (-1) ∧
    gAfter (.divu 1 2 (.reg 3) 0) (regs [(2, 0xFFFFFFFFFFFFFFF9), (3, 2)]) 1 = some 0x7FFFFFFFFFFFFFFC ∧
    gAfter (.rem 1 2 (.reg 3) 0) (regs [(2, 5)]) 1 = some 5 := by decide +kernel

/-- R17, R109: core 36 of cluster 10, DOMLVL.LVL 1; steps 3 and 4 of the walk, and K = 23. -/
theorem test_pointer_walk :
    (run (.acfg 2 4 5 0) (onCore 36 { sys := [(0x003, 1)], ctxs := [(0, { g := [(4, 192), (5, 6)] })] })).map (fun t => t.getA 2)
      = some 0xDA800000 ∧
    (run (.ainc 2 (.lit 64) 0) (onCore 36 { sys := [(0x003, 1)], ctxs := [(0, { a := [(2, 0xDA800000)] })] })).map (fun t => t.getA 2)
      = some 0xD2000040 ∧
    (run (.acfg 2 4 5 0) (onCore 36 { sys := [(0x003, 1)], ctxs := [(0, { g := [(4, 192), (5, 23)] })] })).map (fun t => t.getA 2)
      = some 0x8000000000000000 := by decide +kernel

/-- R118, the last pass that fits and the one beyond: pass p of LD.d G8 by OSTEP 8 from G1 = 0x4FFFE0. -/
theorem test_replayed_load :
    (run (.ld 11 1 true 3 0 0) { ctx0 { g := [(1, 0x4FFFE0)] } with cur := { ostep := 24 } }).map (fun t => t.my.sysr 0x101) = some 0 ∧
    (run (.ld 12 1 true 3 0 0) { ctx0 { g := [(1, 0x4FFFE0)] } with cur := { ostep := 32 } }).map
      (fun t => (t.my.sysr 0x101, t.my.sysr 0x103, t.my.mon)) = some (0x09, 0x500000, true) := by decide +kernel

/-- R132, R68: 0.5 added to 2^24 rounds to 2^24. -/
theorem test_amo_fadd :
    (run (.amoLocal 4 1 2 .fadd .rlx false false) (core0 { ctxs := [(0, { g := [(2, 0x3F000000)] })], mem := cells 0 (leBytes 4 0x4B800000) })).map
      (fun t => (t.getG 4, t.numAt (.core 0 0) 4)) = some (0x4B800000, 0x4B800000) := by decide +kernel

/-- R155, R162: VCOMP.w and VPCNT.w under P3 with bits 1, 4, 5 and 30. -/
theorem test_vcomp :
    (run (.vcomp .w 2 1 (some ⟨3, true⟩) 0) (ctx0 { v := [(1, ofLanes 4 ((List.range 32).map (10 * ·)))], p := [(3, 0x40000032)] })).map
      (fun t => t.getV 2) = some (ofLanes 4 [10, 40, 50, 300]) ∧
    gAfter (.vpcnt .w 6 3 none 0) (ctx0 { p := [(3, 0x40000032)] }) 6 = some 4 := by decide +kernel

/-- R157: 1.0, 300.0 and 500.0 to E4M3 with saturation; OF (bit 2) and NX (bit 4) in FPFLAGS. -/
theorem test_vcvt :
    (run (.vcvt .e4m3 .fp32 true 4 5 ⟨0, false⟩ 0) (ctx0 { v := [(5, ofLanes 4 [0x3F800000, 0x43960000, 0x43FA0000])] })).map
      (fun t => t.getV 4) = some (ofLanes 1 [0x38, 0x79, 0x7E]) := by decide +kernel

/-- R160, R67: 2^24, 1, 1 in lanes 0 to 2, and with the ones in lanes 2 and 3. -/
theorem test_vred_add :
    (run (.vredAdd (.f .f32) 7 3 none 0) (ctx0 { v := [(3, ofLanes 4 [0x4B800000, 0x3F800000, 0x3F800000])] })).map
      (fun t => (t.getG 7, t.my.sysr 0x011)) = some (0x4B800000, 0x10) ∧
    (run (.vredAdd (.f .f32) 7 3 none 0) (ctx0 { v := [(3, ofLanes 4 [0x4B800000, 0, 0x3F800000, 0x3F800000])] })).map
      (fun t => (t.getG 7, t.my.sysr 0x011)) = some (0x4B800001, 0) := by decide +kernel

/-- The tiles of the worked example of R174-R177, shapes E4M3 2 x 16. -/
@[reducible] def mmaCore : CoreSt :=
  { sys := [(0x021, 0x401), (0x022, 0x401), (0x023, 0x401)]
    tiles := [(1, BitVec.ofNat 32768 (leNat (List.replicate 16 0x38 ++ List.replicate 112 0 ++ List.replicate 16 0x40))),
      (2, BitVec.ofNat 32768 (leNat (List.replicate 16 0x30 ++ List.replicate 112 0 ++ List.replicate 8 0x38)))] }

theorem test_mma : (run (.mma 1 2 ⟨0, 0, 0, 0⟩ 0) (core0 mmaCore)).map
    (fun t => (t.me.cell 0 0, t.me.cell 0 1, t.me.cell 1 0, t.me.cell 1 1)) =
      some (0x41000000, 0x41000000, 0x41800000, 0x41800000) := by decide +kernel

/-- R177: bias 1.0 and -20.0 at global address 0, ReLU, E4M3. -/
theorem test_mxepi : (run (.mxepi 3 4 ⟨0, 0, 1, 1⟩ .relu false true 0)
    { core0 { mmaCore with acc := [(0, 0x41000000), (1, 0x41000000), (128, 0x41800000), (129, 0x41800000)], dtlb := [page0] } with
      dram := cells 0x100000 (leBytes 4 0x3F800000 ++ leBytes 4 0xC1A00000) }).map
    (fun t => (tileBytes (t.me.tile 3) 0 0 16, tileBytes (t.me.tile 3) 1 0 16)) =
      some (0x51 :: List.replicate 15 0, 0x58 :: List.replicate 15 0) := by decide +kernel

/-- R181: CAP1.VALID is 0. -/
theorem test_mxsend : gAfter (.mxsend 5 6 7 1 0) s0 5 = some 0x8000000000000101 := by decide +kernel

/-- R187-R198: the worked example of GORI2.D, by its words of FP64 coordinates. -/
theorem test_gori2 : (run (.gori2 true 21 2 0 false false 0) (ctx0 { v := [
      (2, ofLanes 8 [0, 0x3FF0000000000000, 0, 0x3FF0000000000000]), (3, ofLanes 8 [0, 0x3FF0000000000000, 0, 0x3FF0000000000000]),
      (4, ofLanes 8 [0x4010000000000000, 0x4000000000000000, 0x4340000000000000, 0x4000000000000000]),
      (5, ofLanes 8 [0, 0x4000000000000000, 0x4340000000000001, 0x4000000000000000]),
      (6, ofLanes 8 [0, 0x4008000000000000, 0x3FF0000000000000, 0x4008000000000000]),
      (7, ofLanes 8 [0x4008000000000000, 0x4008000000000000, 0x3FF0000000000000, 0x4008000000000000])] })).map
    (fun t => t.getV 21) = some (ofLanes 1 [1, 0, 0xFF]) := by decide +kernel

/-- SP32 images of small values: EXP 381 is 1/4 (R62). -/
def x4 (a b c d : Half) : BitVec 128 := xOf [a, b, c, d]

/-- R205, R206, R208: the worked example's factor and messages; images by the table of R62's format. -/
@[reducible] def speCore : CoreSt :=
  { x := [(0, x4 0xBF000000 0xBF000000 0xBE800000 0xBE800000), (1, x4 0xBF800000 0 0 0), (2, x4 0 0xBF000000 0xBF000000 0),
      (3, x4 0xBF800000 0xBF000000 0 0), (4, x4 0xBF000000 0xBF800000 0xBF000000 0), (5, x4 0 0xBF000000 0xBF800000 0xBF000000),
      (6, x4 0 0 0xBF000000 0xBF800000)] }

theorem test_spup : (run (.spup 16 0 ⟨9, 3⟩ 0) (core0 speCore)).map (fun t => (t.me.getX 16, t.me.getX 17, t.me.getX 18)) =
    some (x4 0xBE000000 0xBE400000 0 0, x4 0xBF800000 0xBF000000 0 0, x4 0xBE800000 0xBF400000 0xBF400000 0xBE800000) := by
  decide +kernel

theorem test_spnorm : (run (.spnorm 37 32 0) (core0 { x := [(32, x4 0xBE000000 0xBE400000 0 0)] })).map (fun t => t.me.getX 37) =
    some (x4 0xBECCCCCD 0xBF19999A 0 0) := by decide +kernel

/-- R228, R227: the SEND that wraps, from core 5 to ring 2 of core 21, LEN 40. -/
@[reducible] def sendState : State :=
  { State.reset with
    cur := { core := 5 }
    cores := [(5, { ctxs := [(0, { g := [(4, 0x215), (5, 0x800)] })], sys := [(0x002, 1)], mem := cells 0x800 [40] }),
      (21, { ctxs := [(0, { g := [(7, 2)] })], sys := [(0x002, 1)],
             mem := cells 0x4FFE40 (leBytes 8 0x8A040000 ++ leBytes 8 0x380 ++ leBytes 8 0x3E0 ++ leBytes 8 0x3E0) })] }

theorem test_send : (run (.send 3 4 5 0) sendState).map (fun t => (t.getG 3, t.bytesAt (.core 21 0x403E0) 3, t.bytesAt (.core 21 0x40000) 8)) =
    some (0x440, [0x10, 0, 0], [0x28, 0, 1, 0, 5, 1, 0, 0]) := by decide +kernel

/-- The stream of the compressed section of R352: NOP, NOP, NOP, RET; one byte less is too short. -/
theorem test_expand :
    (let e := expandBytes [0, 0, 0, 0x14, 0xC1, 0, 0, 0x85, 3, 0, 3, 0x10, 0, 0, 0x12] 4 16
     (e.out, e.bad)) = ([0, 0, 0, 0x14, 0, 0, 0, 0x14, 0, 0, 0, 0x14, 0x10, 0, 0, 0x12], none) ∧
    (expandBytes [0, 0, 0, 0x14, 0xC1, 0, 0, 0x85, 3, 0, 3, 0x10, 0, 0, 0x12] 4 12).bad.isSome = true := by decide +kernel

/-- R112, R337: TRAP 0xC1 is SWTRAP with its code in EINFO; ERET returns to EPC at the saved level. -/
theorem test_trap : (run (.trap 0xC1) (ctx0 { pc := 64, sys := [(0x100, 1)] })).map
    (fun t => (t.my.sysr 0x101, t.my.sysr 0x102, t.my.sysr 0x104, t.my.mon)) = some (0x15, 64, 0xC1, true) ∧
    (run .eret (ctx0 { pc := 64, sys := [(0x100, 1), (0x102, 0x80)] })).map (fun t => (t.my.pc, t.my.mon)) = some (0x80, false) := by
  decide +kernel

/-- R323: the first publication of slot 7 goes into buffer 2; CUR 2 and PREV 0 after it. -/
theorem test_flip : (run (.mpub 5 6 7 32 0) { core0 { ctxs := [(0, { g := [(6, 7), (7, 64)] })] } with
      slots := [(7, { inEffect := [(0, 0x200)] })] }).map (fun t => ((t.slot 7).cur, (t.slot 7).prev)) = some (2, 0) := by decide +kernel

/-! ### Witnesses: a turn, register files, tiles, the matrix unit, geometry, scratch registers -/

/-- Core 0 about to run NOP at 0 in its context 0. -/
@[reducible] def nopState : State :=
  { core0 { ctxs := [(0, { run := .running })], itlb := [page0] } with agenda := [.core 0], dram := cells 0x100000 [0, 0, 0, 0x14] }

/-- That state in core 0's turn, as the fetch finds it. -/
@[reducible] def nopTurn : State :=
  let r : State := { nopState.tick with agenda := [] }
  { r.setCore 0 { r.core 0 with last := 0 } with cur := { core := 0, ctx := 0 } }

theorem test_witness_StepRunsDecoded :
    nopState.frozen = false ∧ (nopState.core 0).pair = false ∧ ({ nopState.tick with agenda := [] } : State).pick 0 = some 0 ∧
    nopTurn.my.dispatching = none ∧ nopTurn.my.async = [] ∧ nopTurn.my.run ≠ .released ∧ nopTurn.my.replay = none ∧
    nopTurn.stubAt nopTurn.my.pc.toNat = none ∧ answers nopTurn.fetched = true ∧
    (let r := got nopTurn.fetched ([], nopTurn)
     decode r.2.reflex r.1 = .ok .nop) ∧ featureStop .nop = none ∧ nopTurn.waits .nop = false ∧
    ({ nopTurn with flight := [.mem 0 0 8 0x100008 1 (.load 1 8 false) .travelling ⟨4, 0, none⟩] } : State).waits .nop = true := by
  decide +kernel

theorem test_witness_StepRunsEvents : Instr.freeze.isEvent = true ∧ nopState.frozen = false := by decide

/-- Core 64 with a segment of shared SRAM from 0 on, readable and executable, that holds NOP at 0. -/
theorem test_witness_FetchReads : (let s : State := { onCore 64 { sys := [(0x188, BitVec.ofNat 64 (2 ^ 63 + 5 * 2 ^ 51 + 2 ^ 12))] } with
      sram := cells 0 [0, 0, 0, 0x14] }
    s.reflex = true ∧ lenOk 0x14000000 = true ∧ wordCount 0x14000000 = 1 ∧ s.segXlate .fetch 0 4 = .place (.sram 0) ∧
    s.numAt (.sram 0) 4 = 0x14000000) := by decide +kernel

theorem test_witness_StepKeepsInvariant : nopState.Inv ∧ (match step nopState with
    | .next t => decide (((t.core 0).ctx 0).pc = 4)
    | _ => false) = true := by
  unfold State.Inv
  decide +kernel

theorem test_witness_RegisterFiles : (31 : Reg5) ≠ 0 ∧ (7 : Reg3) ≠ 0 := by decide

/-- T1 as E4M3 2 x 16 and T2 as BLK, 1 row of 64 bytes; G2 the row stride; two good rows and a good block at 0. -/
@[reducible] def tileState : State :=
  core0 { ctxs := [(0, { g := [(2, 16), (3, 64)] })], sys := [(0x021, 0x401), (0x022, 0x0E60)], mem := [(0, 4), (1, 0x7F)] }

/-- What the checks of a tile load answer. -/
def tileCheck (op : TileOp) (b : Reg5) (h : Shape) : Except Stop (List Loc × State) :=
  tileState.check .loc .load {} (tileState.rowItems .loc 0 0 (tileState.getG b).toInt (rowsOf op h).1 (rowsOf op h).2 (rowAlign op))

/-- The premises of a tile load. -/
def loadable (x : TileOp × Reg5 × Shape) : Bool :=
  let c := tileCheck x.1 x.2.1 x.2.2
  let r := got c ([], s0)
  answers c && r.2.flight.isEmpty && r.1.all (fun l => (l.place.map fun p => r.2.poisonedIn p l.item.n) == some false)
    && (x.1 != .tldb || x.2.2.blocks.all fun e => !blockBad ((r.2.rowBytes r.1 e.1).drop (64 * e.2)))

theorem test_witness_TileLoads :
    (tileLoadRule (.tldb 2 0 3 .loc 0)).isSome = true ∧ tileState.me.shape 1 = some ⟨.e4m3, 2, 16⟩ ∧
    tileState.me.shape 2 = some ⟨.blk, 1, 64⟩ ∧ tileFormatOk .tldb .blk = true ∧ tileFormatOk .tldt .e4m3 = true ∧
    loadable (.tld, 2, ⟨.e4m3, 2, 16⟩) = true ∧ loadable (.tldt, 2, ⟨.e4m3, 2, 16⟩) = true ∧ loadable (.tldb, 3, ⟨.blk, 1, 64⟩) = true := by
  decide +kernel

/-- A tile store to global memory that the model performs later. -/
theorem test_witness_TileStoresLater : (let s : State := { core0 { sys := [(0x021, 0x401)], dtlb := [page0] } with eager := false }
    let c := s.check .glob .store { write := true } (s.rowItems .glob 0 0 16 2 16 16)
    tileStoreRule (.tst 1 0 2 .glob 0) = some (1, 0, 2, .glob, 0) ∧ answers c = true ∧ (got c ([], s)).2.flight = [] ∧
    (got c ([], s)).1.all (fun l => l.place.isSome && (got c ([], s)).2.away .glob l) = true) := by decide +kernel

/-- A tile store to the absent page at 0x4000000, with room in the side log. -/
theorem test_witness_TileStoresLogged : (let s : State := { core0 { ctxs := [(0, { g := [(1, 0x4000000)] })], sys := [(0x021, 0x401)] } with dram := mapped }
    let c := s.check .glob .store { write := true } (s.rowItems .glob 1 0 16 2 16 16)
    answers c = true ∧ (got c ([], s)).1.all (fun l => l.place.isNone) = true ∧ (got c ([], s)).2.me.slog.length + 2 ≤ 64 ∧
    (got c ([], s)).2.me.tileBad = []) := by decide +kernel

theorem test_witness_TileRows : (⟨.e4m3, 2, 16⟩ : Shape).rows ≤ 32 ∧ (⟨.e4m3, 2, 16⟩ : Shape).bpr ≤ 128 ∧
    (∀ k ∈ [0, 1], ((fun r : Nat => List.replicate 16 (BitVec.ofNat 8 r)) k).length = 16) := by decide

theorem test_witness_TileStores : tileStoreRule (.tst 1 0 2 .loc 0) = some (1, 0, 2, .loc, 0) ∧
    (let c := tileState.check .loc .store { write := true } (tileState.rowItems .loc 0 0 16 2 16 16)
     let r := got c ([], s0)
     answers c = true ∧ r.2.flight = [] ∧ r.2.me.tileBad = [] ∧
     (∀ l ∈ r.1, (match l.place with
       | some (.core n _) => decide (n = tileState.cur.core)
       | _ => false) = true)) := by decide +kernel

/-- The region of one cell at the last row and column, and one row beyond it. -/
theorem test_witness_AccumulatorCells : (cellsOf ⟨255, 127, 0, 0⟩ 0).outside s0.accHeight = none ∧
    (cellsOf ⟨255, 127, 1, 0⟩ 0).outside s0.accHeight = some (256, 127) ∧
    (cellsOf ⟨0, 127, 0, 1⟩ 0).outside s0.accHeight = some (0, 128) ∧ s0.me.accBad = [] := by decide +kernel

theorem test_witness_AccumulatorMemory : (cellsOf ⟨255, 0, 0, 127⟩ 0).outside s0.accHeight = none ∧
    (s0.effective 0 0x4FFE00).toNat + 4 * (1 * 128) ≤ memSize 0 ∧ (s0.effective 0 0x4FFE00).toNat % 4 = 0 ∧
    s0.poisonedIn (.core 0 0x4FFE00) 512 = false := by decide +kernel

theorem test_witness_MatrixMultiply : answers (mmaCheck (core0 mmaCore).me 256 1 2 254 126) = true ∧
    answers (mmaCheck (core0 mmaCore).me 256 1 2 255 126) = false ∧ (core0 mmaCore).me.tileBad = [] := by decide +kernel

theorem test_witness_MatrixEpilogues : (core0 mmaCore).me.shape 3 = some ⟨.e4m3, 2, 16⟩ ∧ (core0 mmaCore).srOn = false ∧
    (cellsOf ⟨0, 0, 1, 15⟩ 0).outside 256 = none ∧ epiOk .e4m3 .tanh true = true ∧ gateFmt .e4m3 = true ∧
    (cellsOf ⟨0, 0, 1, 79⟩ 0).nc % gateBlocks .lstm = 0 ∧ (cellsOf ⟨0, 0, 1, 79⟩ 0).nc / gateBlocks .lstm ≤ 16 ∧
    (let s := core0 { dtlb := [page0] }
     let c := s.check .glob .load {} (sectorItems 0 16)
     s.reflex = false ∧ answers c = true ∧ (got c ([], s)).2.flight = [] ∧ (got c ([], s)).1.map (·.place) = [some (.dram 0x100000)] ∧
     (got c ([], s)).2.poisonedIn (.dram 0x100000) 64 = false) := by decide +kernel

theorem test_witness_MatrixReduction : (let s := core0 { dtlb := [page0] }
    s.reflex = false ∧ (cellsOf ⟨0, 0, 0, 31⟩ 0).outside s.accHeight = none ∧
    (let c := s.check .glob .rmw { write := true } (sectorItems 0 32)
     let r := got c ([], s)
     answers c = true ∧ r.2.flight = [] ∧ r.2.me.accBad = [] ∧
     r.1.map (·.place) = [some (.dram 0x100000)] ∧ r.2.poisonedIn (.dram 0x100000) 128 = false)) ∧
    (let s : State := { s0 with dram := mapped, eager := false }
     let c := s.check .glob .rmw { write := true } (sectorItems 0x3FFFF80 64)
     answers c = false ∧
     (let c := s.check .glob .rmw { write := true } (sectorItems 0x4000000 32)
      answers c = true ∧ (got c ([], s)).1.map (·.place) = [none] ∧ (got c ([], s)).2.me.slog = [])) ∧
    (onCore 64 {}).reflex = true := by decide +kernel

/-- A command whose layout R182 accepts: VER 1, TA 1, TB 2, TT 3, shapes 0x0401, sources in the command's core (kind 0). -/
@[reducible] def sendable : Nat := 1 + (0x401 * 2 ^ 32) + (0x403 * 2 ^ 48) + (0x101 * 2 ^ 64) + 1 * 2 ^ 80 + 2 * 2 ^ 84 + 3 * 2 ^ 88

theorem test_witness_SeizureSend :
    (let s := core0 { ctxs := [(0, { g := [(6, 0x4FFFC0), (7, 1)] })] }
     (s.getG 6).toNat + 64 ≤ memSize 0 ∧ (s.getG 6).toNat % 64 = 0 ∧ s.poisonedIn (.core 0 0x4FFFC0) 64 = false ∧
     mxsendCheck s 0 (s.getG 7) 0 ≠ none) ∧
    (let s := ctx0 { sys := [(0x120, 0x8000000400000000), (0x121, 2)] }
     mxsendCheck s 0 1 (BitVec.ofNat 512 sendable) = none) := by decide +kernel

/-- Lane 0 of V2 an infinity. -/
theorem test_witness_Geometry : s0.unbound ∧ s0.eager = true ∧ ({ s0 with eager := false } : State).eager = false ∧ geometryRule (.gori2 true 21 2 0 false false 0) ≠ none ∧
    nonFinite s0 geoOri2 true 2 = none ∧
    nonFinite (ctx0 { v := [(4, ofLanes 8 [0x7FF0000000000000])] }) geoOri2 true 2 = some (0, 4) :=
  ⟨unbound_of (by decide +kernel), rfl, rfl, by simp [geometryRule], by decide +kernel, by decide +kernel⟩

/-- Finite coordinates: 1.0 and -2^-149 of the .s forms, and the least double. -/
theorem test_witness_GeometryValues : coordUnits false 0x3F800000 = some (2 ^ 149) ∧ coordUnits false 0x80000001 = some (-1) ∧
    coordUnits true 1 = some 1 ∧ coordUnits false 0x7F800000 = none ∧ (determinant (.gori2 false 21 2 0 false false 0) fun _ => [0, 0]).isSome = true ∧
    (31 : Nat) < 32 := by decide +kernel

/-- Finite operands and results: 1.0 + 2^-149 and the BF16 elements of zero tiles. -/
theorem test_witness_RoundedValues : fp32Units 0x3F800000 = some (2 ^ 149) ∧ fp32Units 1 = some 1 ∧ fp32Units 0xFF7FFFFF = some (-(0xFFFFFF * 2 ^ 253)) ∧
    s0.unbound ∧
    (let c : CoreSt := { sys := [(0x021, 0x221), (0x022, 0x221)] }
     answers (mmaCheck c 256 1 2 254 126) = true ∧ c.shape 1 = some ⟨.bf16, 2, 32⟩ ∧ fp32Units (tileElem (c.tile 1) .bf16 1 15 * 2 ^ 16) = some 0) :=
  ⟨by decide +kernel, by decide +kernel, by decide +kernel, unbound_of (by decide +kernel), by decide +kernel⟩

theorem test_witness_ScratchResults : (scratchRule (core0 speCore) (.spup 16 0 ⟨9, 3⟩ 0)).map (fun r => r.1.all fun x => x.first + x.n ≤ 256) =
    some true ∧ (core0 speCore).me.xBad = [] ∧ scratchRule s0 (.spset 255 31 0) ≠ none ∧ s0.reflex = false := by decide +kernel

theorem test_witness_ScratchMemory : scratchMemRule s0 (.spstExt 240 0 (some 15) (some 0x4FFF00) 0) = some (true, 240, 16, 0x4FFF00) ∧
    240 + 16 ≤ s0.xCount ∧ (0x4FFF00 : Word).toNat + 256 ≤ memSize 0 ∧ (0x4FFF00 : Word).toNat % 16 = 0 ∧
    s0.poisonedIn (.core 0 0x4FFF00) 256 = false ∧ scratchMemRule s0 (.spld 255 0 0) = some (false, 255, 1, 0) := by decide +kernel

/-! ### Witnesses: synchronisation, queues, contexts, the Mirror, the system -/

theorem test_witness_SendDelivers : sendState.performed = true ∧ sendState.eager = true ∧
    (({ sendState with eager := false } : State).eager && sendState.performed) = false ∧
    got (sendState.sourceBlock 0x800 4096) [] = List.replicate 40 0 ∧ answers (sendState.sourceBlock 0x800 4096) = true ∧
    (let m : Message := { kind := 1, srcctx := 0, src := 5, vf := 1, payload := List.replicate 40 0 }
     sendState.ringCode 21 3 m ≠ 0 ∧ sendState.ringCode 21 2 m = 0 ∧ bits (0x315 : Word) 12 52 = 0 ∧ bits (0x315 : Word) 7 1 = 0 ∧
     Config.isReflex 5 = false ∧ bits (0x7F : Word) 0 7 = 127) := by
  decide +kernel

/-- A ring at 0x10000 of core 0 with an entry of 40 bytes ready at READ. -/
@[reducible] def ringState : State :=
  core0 { sys := [(0x002, 1)], mem := cells 0x10000 [40, 0, 1] ++ cells 0x4FFE00 (leBytes 8 0x8A010000 ++ leBytes 8 0 ++ leBytes 8 64 ++ leBytes 8 0) }

theorem test_witness_RingEntry : (ringState.core 0).pair = false ∧ Config.isReflex 0 = false ∧
    (let r := ringState.ring 0 0
     r.malformed (memSize 0) = false ∧ r.pad 40 = 0 ∧ r.tail.toNat % 16 = 0 ∧ r.base + r.size ≤ 0x4FFE00) := by decide +kernel

theorem test_witness_Receive :
    (let r := ringState.ring 0 0
     r.en = true ∧ r.malformed (memSize 0) = false ∧ ringState.skipPads r 2 r.read ≠ r.tail ∧ (ringState.joinReaders 0 0).behind 0 = false ∧
     ringState.poisonedIn (.core 0 (r.at (ringState.skipPads r 2 r.read))) 16 = false) ∧
    (s0.ring 0 0).en = false ∧ (15 : Word).toNat ≤ 15 ∧ ¬(16 : Word).toNat ≤ 15 ∧
    (let s := core0 { mem := cells 0x4FFE00 (leBytes 8 0x8A010000) }
     (s.ring 0 0).en = true ∧ (s.ring 0 0).malformed (memSize 0) = false ∧ s.skipPads (s.ring 0 0) 2 (s.ring 0 0).read = (s.ring 0 0).tail) := by
  decide +kernel

/-- At level 0 of core 0: nothing behind it; a credit of a barrier passed before the restart point; an arrival owed, with DONE behind it
and not. At level 1 the arrival of one core is not the last. -/
theorem test_witness_CoreBarrier : s0.me.lvl = 0 ∧ s0.me.pair = false ∧ s0.coreDone = true ∧ s0.crossing 0 = false ∧ tget 0 s0.my.credit 0 = 0 ∧
    tget false s0.me.owed 0 = false ∧ tget 0 s0.me.arr 0 = tget 0 s0.me.done 0 ∧ tget 0 s0.arrivals (barKey 0 0) = 0 ∧
    tget 0 (s0.arrive 0 false).me.arr 0 ≤ tget 0 (s0.arrive 0 false).me.done 0 ∧
    (let s := core0 { sys := [(0x003, 1)] }
     barRule s (.xph 0) = some (1, true) ∧ tget 0 (s.arrive 1 true).me.done 1 < tget 0 (s.arrive 1 true).me.arr 1) ∧
    tget 0 (ctx0 { credit := [(0, 2)] }).my.credit 0 ≠ 0 ∧
    (let s := core0 { owed := [(0, true)], arr := [(0, 1)] }
     tget false s.me.owed 0 = true ∧ tget 0 s.me.done 0 < tget 0 s.me.arr 0) ∧
    (let s := core0 { owed := [(0, true)], arr := [(0, 1)], done := [(0, 1)] }
     tget false s.me.owed 0 = true ∧ tget 0 s.me.arr 0 ≤ tget 0 s.me.done 0) := by decide +kernel

theorem test_witness_BarrierRefused : ({ s0 with cur := { ctx := 1 } } : State).cur.ctx ≠ 0 ∧ s0.me.lvl < (1 : BitVec 2).toNat ∧
    ¬s0.me.lvl < (0 : BitVec 2).toNat := by decide +kernel

/-- A barrier cell at 16 of core 0 that needs 2 arrivals, with 1 and with 2 so far. -/
@[reducible] def cellState (n : Nat) : State := core0 { ctxs := [(0, { g := [(2, ptr0)] })], mem := cells 24 (leBytes 8 (n + 2 * 2 ^ 48)) }

theorem test_witness_BarrierCells : ∀ n ∈ [1, 2], (let s := cellState n
    s.reflex = false ∧ ptrOk s.rect (s.getG 2) 16 = true ∧ ptrOff (s.getG 2) % 16 = 0 ∧ s.namedCore (s.getG 2) = 0 ∧
    s.poisonedIn (.core 0 16) 16 = false ∧
    (let w := BitVec.ofNat 64 (s.numAt (.core 0 24) 8)
     (bits w 48 16 ≤ bits w 0 48 ↔ n = 2) ∧ s.performed = true ∧ s.eager = true)) ∧
    (let s := core0 { sys := [(0x003, 1)], ctxs := [(0, { g := [(2, BitVec.ofNat 64 (22 * 2 ^ 29 + 2 ^ 23))] })] }
     s.namedCore (s.getG 2) ≠ 0 ∧ ptrOk s.rect (s.getG 2) 16 = true ∧ ptrOff (s.getG 2) % 16 = 0) := by decide +kernel

theorem test_witness_ForwardedAtomic : (let s := ctx0 { a := [(1, ptr0), (2, ptr0 + 16)] }
    s.reflex = false ∧ s.eager = true ∧ s.performed = true ∧ s.sendsSc .rel = false ∧ answers (s.gate .rel) = true ∧ ptrOk s.rect (s.getA 2) 8 = true ∧
    ptrOff (s.getA 2) % 8 = 0 ∧ ptrOk s.rect (s.getA 1) 16 = true ∧ ptrOff (s.getA 1) % 16 = 0 ∧
    ptrOff (s.getA 1) + 16 ≤ ptrOff (s.getA 2)) ∧
    (({ s0 with eager := false } : State).eager && s0.performed) = false := by decide +kernel

/-- A queue with no room. -/
@[reducible] def fullQ1 : State := core0 { q1 := List.replicate 64 (.inline 0 0) }

theorem test_witness_QueuePushes : (s0.enqueue .copy).isSome = true ∧ (s0.enqueue .dispenser).isSome = true ∧
    (fullQ1.enqueue .dispenser).isNone = true ∧ s0.q1Full = false ∧ fullQ1.q1Full = true ∧ (s0.getG 2).toNat % 64 = 0 ∧
    (s0.enqueue .walk).isSome = true ∧ ((regs [(2, 32)]).getG 2).toNat % 64 ≠ 0 := by
  decide +kernel

theorem test_witness_Timelines : (let s := core0 { ctxs := [(0, { g := [(2, 3)] })], c9 := 3 }
    s.timeline 9 = (3, .going) ∧ (s.getG 2).toNat ≤ 3 ∧ (2 : Word).toNat ≤ 3 ∧
    (core0 { ctxs := [(0, { g := [(2, 4)] })], c9 := 3 }).timeline 9 = (3, .going)) ∧
    (core0 { twe := { stop := .stopped 8 } }).timeline 8 = (0, .stopped 8) := by decide +kernel

theorem test_witness_QueueReads : (let s := core0 { q0 := [(1, 2)], q2 := [5], q3 := [7] }
    s.my.mon = true ∧ s.me.q0 = [(1, 2)] ∧ s.me.q2 = [5] ∧ s.me.q3 = [7] ∧
    (∀ r ∈ [16, 18, 19], (s.joinReaders 0 r).behind r = false)) ∧ s0.me.q0 = [] ∧ s0.me.q2 = [] ∧ s0.me.q3 = [] ∧
    (ctx0 { sys := [(0x100, 0)] }).my.mon = false := by decide +kernel

theorem test_witness_Helpers : legalTarget (s0.getG 2) = true ∧ s0.performed = true ∧ s0.cur.ctx = 0 ∧
    ((List.range 11).drop 1).find? (fun k => (s0.me.ctx k).run == .free) = some 1 ∧
    (let s := core0 { ctxs := (0, { g := [(2, 1), (3, 2)] }) :: (((List.range 11).drop 1).map fun k => (k, { run := .running })) }
     ((List.range 11).drop 1).find? (fun k => (s.me.ctx k).run == .free) = none ∧ s.me.helperLive (s.getG 2).toNat = true) ∧
    (ctx0 { g := [(2, 1)] }).me.helperLive 1 = false ∧ ({ s0 with cur := { ctx := 1 } } : State).cur.ctx ≠ 0 ∧
    legalTarget ((regs [(2, 2)]).getG 2) = false ∧ legalTarget ((regs [(2, 0x100000000000000)]).getG 2) = false := by decide +kernel

theorem test_witness_RestartPoints : bits (s0.me.sysr 0x032) 0 16 = 0 ∧
    (let s := core0 { ctxs := [(0, { g := [(2, 3)] })], sys := [(0x032, 2)] }
     (s.getG 2).toNat % bits (s.me.sysr 0x032) 0 16 ≠ 0) := by decide +kernel

/-- A checkpoint header at 0x1000 that names every G register and T7, on lap 4 of period 2. -/
@[reducible] def ckptState : State :=
  core0 { ctxs := [(0, { g := [(2, 4)] })], sys := [(0x031, 0x1000), (0x032, 2)],
          mem := cells 0x1000 (leBytes 8 (0x80000000FFFFFFFF)) }

theorem test_witness_Checkpoint : (let s := ckptState
    let base := s.me.ckptBase
    let w (k : Nat) : Word := BitVec.ofNat 64 (s.numAt (.core 0 (base + 8 * k)) 8)
    base = 0x1000 ∧ bits (s.me.sysr 0x032) 0 16 = 2 ∧ s.poisonedIn (.core 0 base) 16 = false ∧ bits (w 0) 32 8 = 0 ∧
    bits (w 1) 32 32 = 0 ∧ s.numAt (.core 0 (base + 32)) 32 = 0 ∧ (ckptEntries (w 0) (w 1)).length = 33 ∧
    (∀ e ∈ placeLayout (base + 64) (ckptEntries (w 0) (w 1)), e.2.2.2 + e.2.2.1 ≤ memSize 0) ∧ s.me.tileBad = []) := by decide +kernel

/-- Slot 7 of a function that may publish and read, version 3. -/
@[reducible] def slotState : State :=
  { ctx0 { g := [(6, 7), (7, 64), (8, 2)] } with slots := [(7, { inEffect := [(0, 0x210)], vers := 3, plen := 4 })] }

theorem test_witness_MirrorPublish : (let x := slotState.slot 7
    x.grants true slotState.me.vf = true ∧ (slotState.getG 7).toNat % 16 = 0 ∧ slotState.flight = [] ∧
    slotState.poisonedIn (.core 0 64) 1024 = false ∧
    (slotState.eager && slotState.performed && !slotState.pubs.any (·.publishes 7)) = true ∧ x.cur < 3 ∧ x.prev < 3 ∧ x.cur ≠ x.prev) ∧
    (({ slotState with eager := false } : State).eager && slotState.performed) = false := by decide +kernel

theorem test_witness_MirrorAccess : (let x := slotState.slot 7
    x.grants false slotState.me.vf = true ∧ (slotState.getG 7).toNat % 16 = 0 ∧
    (slotState.eager && !slotState.pubs.any (·.publishes 7) && !slotState.flight.any (·.publishedBy 0 0)) = true ∧ x.bad = [] ∧
    (slotState.getG 8).toNat < x.vers.toNat ∧ x.vers.toNat ≤ (3 : Word).toNat) ∧
    (({ slotState with eager := false } : State).eager && !slotState.pubs.any (·.publishes 7)) = false := by decide +kernel

theorem test_witness_MirrorRefused : 4095 < ((regs [(6, 4096)]).getG 6).toNat ∧ (s0.getG 6).toNat ≤ 4095 ∧
    (s0.slot 0).grants false s0.me.vf = false ∧ (s0.slot 0).grants true s0.me.vf = false ∧
    memSize 0 < 0x4FFFF0 + 32 ∧ 0x4FFFE0 + (32 : Nat) ≤ memSize 0 ∧ (8 : Nat) % 16 ≠ 0 := by decide +kernel

theorem test_witness_TimeAndEvents : (s0.getG 2).toNat ≤ s0.replica 0 ∧ s0.replica 0 < ((ctx0 { g := [(2, 1)] }).getG 2).toNat ∧
    (0 : Word).toNat ≤ s0.replica 0 ∧ s0.replica 0 < (1 : Word).toNat ∧ (ctx0 { event := true }).my.event = true ∧ s0.my.event = false := by decide +kernel

theorem test_witness_SystemRegisters : got (sysCheck true false 0x101) () = () ∧ answers (sysCheck true false 0x101) = true ∧
    s0.flagsWait 0x101 = false ∧ answers (sysCheck true true 0x102) = true ∧ sysIgnored false 0x102 = false ∧
    sysReserved 0x102 (s0.getG 2) = false ∧ answers (sysCheck false true 0x010) = true ∧ sysReserved 0x010 (s0.getG 2) = false ∧
    sysIgnored true 0x001 = true ∧ sysReserved 0x010 (-1) = true ∧ sysIgnored false 0x010 = false := by
  decide +kernel

theorem test_witness_SystemPrivilege : (ctx0 { sys := [(0x100, 0)] }).my.mon = false ∧ 0x100 ≤ (0x100 : BitVec 12).toNat := by
  decide +kernel

/-- Numbers that are not assigned, at the edges of what is; read-only registers; and those that only the monitor writes. -/
theorem test_witness_SystemRefused : s0.my.mon = true ∧ (ctx0 { sys := [(0x100, 0)] }).my.mon = false ∧
    (∀ k ∈ [0x008, 0x012, 0x01A, 0x028, 0x033, 0x048, 0x106, 0x113, 0x123, 0x148, 0x194], answers (sysCheck true false k) = false) ∧
    (∀ k ∈ [0x000, 0x004, 0x019, 0x040, 0x047], answers (sysCheck true false k) = true ∧ answers (sysCheck true true k) = false) ∧
    (∀ k ∈ [0x001, 0x003, 0x005, 0x007, 0x030], answers (sysCheck false false k) = true ∧ answers (sysCheck false true k) = false) := by
  decide +kernel

/-- A vector table at 0x200 whose doubleword for SWTRAP (0x15) is 0x1000, in a page of core 0. -/
@[reducible] def vectorState : State :=
  { core0 { ctxs := [(0, { pc := 64 })], dtlb := [page0], sys := [(0x110, 0x200), (0x112, 2)] } with
    dram := cells (0x100000 + 0x200 + 8 * 0x15) (leBytes 8 0x1000) }

@[reducible] def trap0 : Trap := { code := 0x15, epc := 64, eaddr := 0, einfo := 0, eword := 0 }

/-- The doubleword is a legal target; there is none, where no root is; its page is absent. -/
theorem test_witness_TrapVector : (vectorState.me.sysr 0x112).getLsbD 1 = true ∧ (s0.me.sysr 0x112).getLsbD 1 = false ∧
    (vectorState.dispatch (vectorState.vectors trap0)).2.1 = .value 0x1000 ∧
    (let s := core0 { sys := [(0x112, 2)] }
     (s.dispatch (s.vectors trap0)).2.1 = .fails) ∧
    (let s : State := { core0 { sys := [(0x110, 0x4000000), (0x112, 2)] } with dram := mapped }
     (match (s.dispatch (s.vectors trap0)).2.1 with
       | .holds _ => true
       | _ => false) = true) := by decide +kernel

theorem test_witness_ReturnFromTrap : (ctx0 { sys := [(0x100, 1), (0x102, 0x80)] }).my.mon = true ∧ legalTarget 0x80 = true ∧
    s0.my.replayT = none ∧ (ctx0 { replayT := some ⟨4, 2, 2, 0, 0, none, []⟩ }).my.replayT = some ⟨4, 2, 2, 0, 0, none, []⟩ ∧
    (((ctx0 { sys := [(0x100, 1)] }).my.sysr 0x100).getLsbD 1) = false ∧ legalTarget 2 = false ∧
    (ctx0 { sys := [(0x100, 0)] }).my.mon = false := by decide +kernel

theorem test_witness_TranslationAndCapabilities : s0.reflex = false ∧ s0.my.mon = true ∧
    answers (s0.renew (pagesOf (s0.getG 2).toNat (s0.getG 3).toNat)) = true ∧ (s0.getG 4).toNat + 24 ≤ memSize 0 ∧
    s0.flight = [] ∧ 2 ^ 26 < ((regs [(2, 0x4000001)]).getG 2).toNat ∧ (onCore 64 {}).reflex = true ∧
    (ctx0 { sys := [(0x100, 0)] }).my.mon = false ∧ s0.poisonedIn (.core 0 0) 24 = false ∧ capReserved (BitVec.ofNat 64 (s0.numAt (.core 0 0) 8)) = false := by decide +kernel

/-- Core 0 of function 2 with entries of functions 2 and 4, and a cluster whose two walkers are out of bound. -/
theorem test_witness_TranslationKept : (core0 { sys := [(0x002, 2)], dtlb := [page0, { page0 with vf := 2 }] }).me.vf = 2 ∧
    ({ s0 with clusters := [(0, { skewed := true, skewed2 := true })] } : State).noFill = true ∧
    ({ s0 with clusters := [(0, { skewed := true })] } : State).noFill = false := by decide +kernel

/-- Function 4's program with one channel of MAXLEN 16 and one message, run by core 0. -/
@[reducible] def channelState : State :=
  { core0 { ctxs := [(0, { g := [(3, 64), (4, 0x100)] })], mem := cells 64 [2] } with
    programs := [(4, [{ chans := [{ maxlen := 16, msgs := [(0, [1, 2])] }], cores := [(0, 0)], live := [0] }])] }

theorem test_witness_Channels :
    (let c : YChannel := { maxlen := 16, msgs := [(0, [1, 2])] }
     answers (channelState.channelOf (channelState.getG 2)) = true ∧ got (channelState.channelOf (channelState.getG 2)) ⟨0, none, none, [], false⟩ = c ∧
     answers (channelState.sourceBlock (channelState.getG 3) 16) = true ∧ channelState.performed = true ∧
     (channelState.getG 4).toNat % 16 = 0 ∧ (channelState.getG 4).toNat + 32 ≤ memSize 0 ∧
     answers (channelState.fixedTo none 0) = true ∧ channelState.virtualCore = some 0) ∧
    answers (channelState.fixedTo (some 0) 0) = true ∧
    (let s : State := { s0 with programs := [(4, [{ chans := [{ maxlen := 16, closed := true }, { maxlen := 16 }] }])] }
     got (s.channelOf 0) { maxlen := 0 } = { maxlen := 16, closed := true } ∧ got (s.channelOf 1) { maxlen := 0 } = { maxlen := 16 }) := by
  decide +kernel

theorem test_witness_ChannelWithRoom : (⟨16, none, none, [], false⟩ : YChannel).full 0 = false ∧
    (⟨16, none, none, List.replicate (max 1 (Config.channelRoom 0)) (0, [1]), false⟩ : YChannel).full 0 = true := by
  simp [YChannel.full]

/-! ### Witnesses: what is in flight, the Mirror, banks -/

/-- One thing in flight. -/
@[reducible] def fly1 (f : Flight) : State := { s0 with flight := [f] }

/-- What function 4's request of core 0 at instruction 0 keeps of it. -/
@[reducible] def org0 : Origin := ⟨4, 0, none⟩
/-- A load of 8 bytes at 8 into G1, and an AMO there. -/
@[reducible] def load0 (e : Nat) (p : ReqPhase) : Flight := .mem 0 0 8 0x100008 e (.load 1 8 false) p org0
@[reducible] def amo0 (e : Nat) (p : ReqPhase) : Flight := .mem 0 0 8 0x100008 e (.amo .add 8 1) p org0

theorem test_witness_HomeRequests : (fly1 (load0 1 .travelling)).earlierFlight 0 = false ∧
    ({ s0 with flight := [amo0 1 .travelling, load0 1 .travelling] } : State).earlierFlight 1 = true ∧
    s0.now < 1 ∧ 0 ≤ s0.now ∧ s0.homeSkewed 0x100008 = false ∧ s0.poisonedIn (placeOf 0x100008) 8 = false ∧
    ({ s0 with skewedHomes := [homeSlice 0x100008] } : State).homeSkewed 0x100008 = true ∧ inWindow 0x100008 = false := by decide +kernel

theorem test_witness_LoadAnswers : ((fly1 (load0 1 (.answered 7))).flight.take 0).any (·.unperformed 0 0) = false ∧
    (fly1 (.pcieRead 0 0 8 0x1D00000000 1 1 8 false org0)).flight[0]? = some (.pcieRead 0 0 8 0x1D00000000 1 1 8 false org0) ∧
    s0.now < 1 ∧ s0.homeSkewed 0x1D00000000 = false := by decide +kernel

/-- A read whose lease has lapsed when it has crossed PCI Express. -/
theorem test_witness_LoadLapses : (fly1 (.pcieRead 0 0 8 0x1D00000000 0 1 8 false org0)).now = 0 ∧
    ((fly1 (.pcieRead 0 0 8 0x1D00000000 0 1 8 false org0)).flight.take 0).any (·.unperformed 0 0) = false := by decide +kernel

/-- A place, and whether there is one. -/
def placeIs (x : Xlate) : Option Place := match x with
  | .place p _ => some p
  | _ => none

/-- The fresh translation of a request of core 0's context 0 for function 4. -/
def freshFor (s : State) (va : Nat) (a : Acc) : Xlate := ((s.at 0 0).xlateFor { (s.at 0 0).asker with vf := 4 } a va).1

/-- Tests.mapped with its page in the PCIe window. -/
def windowLeaf : Tab Byte := tset 0 (mapped.filter fun e => e.1 ≠ 0x10002) 0x10004 0x40

/-- A logged store of one byte at global address 8. -/
@[reducible] def entry0 : LogEntry := { sector := 0, data := 0x55 <<< 64, mask := 1 <<< 8, op := .write, vf := 4, ctx := 0 }

/-- The fresh translation of a refused request: a place; none, in tables without a root, which is no skew. -/
theorem test_witness_RefusedRequests : (let s : State := { fly1 (load0 0 .refused) with dram := mapped }
    placeIs ((s.at 0 0).xlateFor { (s.at 0 0).asker with vf := 4 } .load 8).1 = some (.dram 0x100008)) ∧
    (let x := ((s0.at 0 0).xlateFor { (s0.at 0 0).asker with vf := 4 } .load 8).1
     placeIs x = none ∧ (match x with
       | .skewed => true
       | _ => false) = false) ∧ (MemOp.amo .add 8 1).acc = .rmw ∧ inWindow 0x100008 = false := by decide +kernel

/-- The other outcomes: an entry of the log before it, the window, a full log, a page that refuses a store, an absent one, no walk. -/
theorem test_witness_RefusedOutcomes :
    ((core0 { slog := [entry0] }).loggedBefore 0 0 4 8 (.store 8 1) = true ∧
     (match placeIs (freshFor { s0 with dram := windowLeaf } 8 .rmw) with
       | some p => inWindow p.addr
       | none => false) = true ∧
     (match freshFor { s0 with dram := tset 0 mapped 0x10000 0x13 } 8 .store with
       | .refused _ => true
       | _ => false) = true ∧
     (match freshFor { s0 with dram := mapped } 0x4000000 .store with
       | .absent => true
       | _ => false) = true ∧
     (match freshFor (core0 { skewed := true }) 8 .store with
       | .skewed => true
       | _ => false) = true ∧
     64 ≤ ((core0 { slog := List.replicate 64 entry0 }).core 0).slog.length) := by decide +kernel

theorem test_witness_BankAccesses : (fly1 (.remote 0 0 1 16 [1])).earlierFlight 0 = false ∧
    ({ s0 with flight := [.remote 0 0 1 16 [1], .remote 0 0 1 16 [2]] } : State).earlierFlight 1 = true ∧
    (let f : Flight := .amof 0 0 1 0 .add 8 1 2 32 false
     (fly1 f).releaseDone 0 0 0 = true ∧ ({ s0 with flight := [.remote 0 0 1 16 [1], f] } : State).releaseDone 1 0 0 = false) ∧
    (∀ q ∈ s0.pairCores 1, q ∉ s0.pairCores 2) := by decide +kernel

theorem test_witness_ArrivalEvents : (s0.core 63).pair = false ∧
    (fly1 (.bararv 0 0 0 16)).releaseDone 0 0 0 = true ∧ (fly1 (.send 0 0 1 0 [] 4)).releaseDone 0 0 0 = true ∧
    (∀ f ∈ [Flight.bararv 0 0 0 16, .send 0 0 1 0 [] 4],
      ({ s0 with flight := [.remote 0 0 1 16 [1], f] } : State).releaseDone 1 0 0 = false) ∧
    ((core0 { q0Held := [(1, 2)] }).core 0).q0.length < 64 := by decide +kernel

theorem test_witness_OrderedCompletion : (let o : ScOp := { window := 0, core := 0, pos := 0, ctx := 0 }
    let s : State := { s0 with sc := [o], now := 48 }
    firstSc s.sc o = true ∧ (o.window + 3) * 16 ≤ s.replica 0 ∧ s.scPerformed o = true ∧ s0.replica 0 < (o.window + 3) * 16) := by
  decide +kernel

/-- Sent operations whose lease runs, or whose function is being reset. -/
theorem test_witness_OrderedSent : (let p : Place := .dram 0x100008
    p.travels = true ∧ s0.homeSkewed p.addr = false ∧ s0.now < 1 ∧ ({ s0 with resets := [⟨4, 2, 0, 15⟩] } : State).closing 4 = true ∧
    s0.poisonedIn (s0.readPlace p) 8 = false ∧ (Place.core 1 16).travels = false ∧ (∀ q ∈ s0.pairCores 1, q ∉ s0.pairCores 2)) := by decide +kernel

theorem test_witness_MirrorEvents : (fly1 (.mpub 0 0 1 7 [1, 2])).releaseDone 0 0 0 = true ∧
    ((fly1 (.mpub 0 0 1 7 [1, 2])).flight.take 0).any (·.publishedBy 0 0) = false ∧ Config.isReflex 0 = false ∧
    (s0.slot 7).bad = [] ∧ (fly1 (.mread 0 0 1 7 64 32)).readWaits 0 = some 0 ∧ (fly1 (.mread 64 0 1 7 64 32)).readWaits 0 = some 64 ∧
    (fly1 (.mread 64 0 1 7 64 32)).readChannels = 0 ∧ (fly1 (.mpub 0 0 1 7 [1, 2])).slotBusy 7 = true ∧
    ({ s0 with pubs := [.mpub 0 0 1 7 [1, 2]] } : State).pubs.find? (·.publishes 7) = some (.mpub 0 0 1 7 [1, 2]) ∧
    grantReserved 0 (-1) = true ∧ grantReserved 0 0x3FF = false ∧ grantReserved 3 0 = false ∧ s0.slotBusy 4095 = false := by decide +kernel

theorem test_witness_WakeEvents : ((core0 { egu := [⟨0, 1, 5, false⟩] }).core 0).egu = [⟨0, 1, 5, false⟩] ∧
    ((core0 { spe := [⟨0, none, 0, [], [], 0, false, true⟩] }).core 0).spe = [⟨0, none, 0, [], [], 0, false, true⟩] ∧
    ((ctx0 { run := .barrier 1 }).ctxAt 0 0).run = .barrier 1 ∧ ((ctx0 { run := .sleeping }).ctxAt 0 0).run = .sleeping ∧
    ((ctx0 { run := .wfe }).ctxAt 0 0).run = .wfe := by decide +kernel

theorem test_witness_WakeUnbound : ∀ r, ((core0 { egu := [⟨0, 1, 5, false⟩] }).ctxAt 0 0).stream r = none :=
  unbound_of (s := core0 { egu := [⟨0, 1, 5, false⟩] }) (by decide +kernel)

/-- Bank 0 of core 64, enabled, periodic with PERIOD 64, deadline 64 ns; core 64 starts with RELCFG 0 at 0x190. -/
@[reducible] def bankCfg : Word := BitVec.ofNat 64 (2 ^ 63 + 64 * 2 ^ 39 + 1)
@[reducible] def bankState (x : Ctx) : State := onCore 64 { ctxs := [(0, x)], sys := [(0x190, bankCfg)] }

theorem test_witness_BankTimers : Config.isReflex 64 = true ∧
    (let v := bankCfg
     v.getLsbD 63 = true ∧ bits v 61 2 = 0 ∧ bits v 39 22 ≠ 0 ∧ bits v 0 17 ≠ 0 ∧ nextTrigger v 0 = 0) ∧
    ((bankState {}).core 64).relcfg 0 = bankCfg ∧ ((bankState {}).ctxAt 64 0).isReleased = false ∧
    ((bankState { isReleased := true }).ctxAt 64 0).fired = false ∧ ((bankState { isReleased := true, fired := true }).ctxAt 64 0).fired = true ∧
    ((bankState { isReleased := true }).ctxAt 64 0).pend = false ∧ ((bankState { isReleased := true, pend := true }).ctxAt 64 0).pend = true ∧
    ({ bankState { isReleased := true } with now := 64 } : State).deadline 64 0 ≤
      ({ bankState { isReleased := true } with now := 64 } : State).replica 64 := by decide +kernel

theorem test_witness_ControlWrites : sysReserved 0x030 0x100 = false ∧ (shapeOf 0x401).isSome = true ∧ sysReserved 0x12E 0 = false ∧
    capReserved 0 = false ∧ Config.isReflex 95 = true ∧ sysReserved 0x187 0 = false ∧ seglimReserved 0 = false ∧
    relcfgReserved (BitVec.ofNat 64 (64 * 2 ^ 39)) = false ∧ sysReserved 0x010 1 = false := by decide +kernel

theorem test_witness_BankConfiguration : Config.isReflex 64 = true ∧ relcfgReserved bankCfg = false ∧ s0.scPending 64 0 = false ∧
    (0 : Word).getLsbD 63 = false ∧ bankCfg.getLsbD 63 = true ∧ s0.rassigned 64 = false ∧
    (let s : State := { onCore 64 { mem := cells (bankRecord 0) (leBytes 8 0x1000) } with rassign := [(4, 1)] }
     s.rassigned 64 = true ∧ legalTarget (BitVec.ofNat 64 (s.numAt (.core 64 (bankRecord 0)) 8)) = true) := by decide +kernel

/-! ### Witnesses: streams, faults, translation, seizure, traps -/

/-- V28 bound to two chunks of core memory at 0x1000. -/
@[reducible] def streamState : State :=
  ctx0 { streams := [(0, { bound := true, base := 0x1000, count := 2, stride := 128, dir := 1, space := 1 })] }

@[reducible] def logState : State := { core0 { slog := [entry0] } with dram := mapped }

theorem test_witness_StreamAndLogEvents :
    (let g := tget {} (streamState.ctxAt 0 0).streams 0
     g.bound = true ∧ g.dir ≠ 2 ∧ g.rc + g.ahead.length < g.count.toNat ∧ g.ahead.length < 8 ∧
     answers ((streamState.at 0 0).readItems g.space' .load (streamInfo false g) 0 0 (chunkItems (g.chunk 0))) = true) ∧
    (let r := logState.xlateWalk { (logState.at 0 0).asker with vf := 4 } entry0.acc 0
     placeIs r.2.1 = some (.dram 0x100000) ∧ entry0.windowed (.dram 0x100000) = false ∧ entry0.has 8 = true) ∧
    ((logState.core 0).slog.take 0).any (·.before entry0) = false ∧ logState.scDue 0 entry0 = true ∧ (logState.at 0 0).noFill = false ∧
    (let s : State := { core0 { slog := [entry0] } with dram := mapped.map fun e => if e.1 = 0x10000 then (e.1, 0x13) else e }
     let r := s.xlateWalk { (s.at 0 0).asker with vf := 4 } entry0.acc 0
     (match r.2.1 with
       | .refused _ => true
       | _ => false) = true) ∧
    ((ctx0 { run := .holding }).ctxAt 0 0).run = .holding := by decide +kernel

/-- A reduction and a CZERO that come to the window, a store that does not stop there, and a home out of bound. -/
theorem test_witness_LogWindows : ({ entry0 with op := .amo .add 4 } : LogEntry).windowed (.host 0) = true ∧
    ({ entry0 with op := .zero } : LogEntry).windowed (.peer 0) = true ∧ entry0.windowed (.host 0) = false ∧
    ({ logState with skewedHomes := [homeSlice 0x100000] } : State).homeSkewed 0x100000 = true := by decide +kernel

/-- Context 0 of core 0 holds on the absent page at 0x4000000; the same with a record outstanding. -/
@[reducible] def faultState (l : List FaultRec) : State :=
  { core0 { ctxs := [(0, { run := .holding, holdPage := some (0x4000000, 0) })] } with dram := mapped, clusters := [(0, { faults := l })] }
@[reducible] def fault0 : FaultRec := { va := 0x4000000, vf := 4, kind := 0, core := 0, src := 0, time := 0, token := 9 }

theorem test_witness_FaultService : (faultState []).clusterWaits 0 = [(0, 4, 0x4000000, 0, 0)] ∧
    (match (faultState []).walk 4 0x4000000 with
      | .absent => true
      | _ => false) = true ∧ ((faultState []).cluster 0).faults.length < 32 ∧
    (faultState [fault0]).recordOf 9 = some (0, fault0) ∧ ((faultState [fault0]).core 0).holdsOn 0 4 0x4000000 = true ∧
    (let s : State := { faultState [fault0] with queues := [(4, { regs := [(0x060, 9)] })] }
     s.reachable 4 = true ∧ (s.block 4).get 0x060 = 9) := by decide +kernel

theorem test_witness_TranslationEvents :
    placeIs ((({ s0 with dram := mapped }).at 0 0).xlateCore .store 0xFFFF).1 = some (.dram 0x10FFFF) ∧ Config.isReflex 0 = false ∧
    (let e : TlbEntry := { page0 with x := false, d := false, lease := 0, expiry := 1 }
     e.due s0.now = true ∧ (({ s0 with dram := mapped }).renewHeld e 15).isSome = true) ∧ 16 < (17 : Half).toInt.natAbs ∧
    16 < (-17 : Half).toInt.natAbs := by decide +kernel

/-- A command for core 1, whose accepted table holds its capability, at each phase. -/
@[reducible] def seizure0 : Seizure := { core := 0, ctx := 0, vf := 4, bits := BitVec.ofNat 512 sendable, capid := 7, expiry := 100, number := 1 }
@[reducible] def seizState (p : SeizPhase) : State :=
  { State.reset with cores := [(1, { seiz := [seizure0], seizPhase := p, sys := [(0x140, 0x8000000400000007)] })] }

theorem test_witness_SeizureSequence :
    (let s : State := { State.reset with flight := [.seizure 1 seizure0], cores := [(1, { sys := [(0x140, 0x8000000400000007)] })] }
     s.releaseDone 0 0 0 = true ∧ s.seizureRefusal 1 seizure0 = none) ∧
    (fly1 (.seizure 1 seizure0)).seizureRefusal 1 seizure0 ≠ none ∧ (seizState .idle).seizMayStop 1 = true ∧
    ((seizState .accepted).seizMayStop 1 = true) ∧ (core0 { clearing := true }).seizMayStop 0 = false ∧
    ({ s0 with flight := [.remote 0 0 1 16 [1], .seizure 1 seizure0] } : State).releaseDone 1 0 0 = false ∧
    ((seizState .saved).core 1).seizStatus = 0 ∧ (seizState .ran).closedToSeizure 1 = false ∧ ((seizState .drained).core 1).memBad = [] ∧
    (seizState .drained).memWf = true ∧
    (let m : Message := { kind := 2, srcctx := 0, src := 1, vf := 1, payload := List.replicate 32 0 }
     ringState.ringCode 0 0 m = 0 ∧ (ringState.core 0).c9 + 1 = 1 ∧ s0.ringCode 0 0 m = 2 ∧
     (let full := core0 { sys := [(0x002, 1)], mem := cells 0x4FFE00 (leBytes 8 0x8A010000 ++ leBytes 8 0 ++ leBytes 8 0x400 ++ leBytes 8 0) }
      full.ringCode 0 0 m = 1)) := by decide +kernel

theorem test_witness_AsyncTraps :
    ((ctx0 { run := .running, async := [⟨0x12, 0, 0⟩] }).ctxAt 0 0).dueAsync = some ⟨0x12, 0, 0⟩ ∧
    ((ctx0 { run := .running, async := [⟨0x06, 8, 0⟩] }).ctxAt 0 0).dueAsync = some ⟨0x06, 8, 0⟩ ∧ s0.atBoundary 0 0 = true ∧
    (s0.core 0).seizPhase = .idle ∧ (s0.core 0).preempting = false ∧ (s0.core 0).scrubbing = false := by decide +kernel

theorem test_witness_TrapEvents : (s0.ctxAt 0 0).restart.ckpt = false ∧ (s0.ctxAt 0 0).restart.replay = none ∧
    ((ctx0 { run := .running }).ctxAt 0 0).alive = true ∧ ((ctx0 { run := .running }).ctxAt 0 0).restart.returns < 3 ∧
    3 ≤ ((ctx0 { run := .running, restart := { returns := 3 } }).ctxAt 0 0).restart.returns ∧ (s0.ctxAt 0 0).asyncHeld = false ∧
    (4 : BitVec 4).toNat ≤ 4 ∧ 5 ≤ (5 : BitVec 4).toNat ∧ 10 < Config.numContexts 0 ∧ (0x400 : BitVec 11).getLsbD 10 = true ∧
    (let s : State := { State.reset with cores := [(0, { pair := true, ctxs := [(0, { run := .running })] }), (1, { pair := true, ctxs := [(0, { run := .running })] })] }
     (s.core 0).pair = true ∧ (s.core 0).live 0 = [0] ∧ (s.core 1).pair = true ∧ (s.ctxAt 1 0).alive = true ∧
     (s.ctxAt 1 0).restart.returns < 3 ∧ (s.ctxAt 1 0).run ≠ .released ∧ (s.ctxAt 0 0).restart.returns < 3) := by decide +kernel

/-! ### Witnesses: launches, engines, pre-emption -/

theorem test_witness_Exit : s0.exitWaits = false ∧ s0.reflex = false ∧ (List.range 11).any s0.me.helperLive = false ∧
    ({ s0 with cur := { ctx := 1 } } : State).cur.ctx ≠ 0 ∧ s0.me.spe = [] ∧
    (fly1 (load0 1 .travelling)).exitWaits = true ∧
    (List.range 11).any (core0 { ctxs := [(1, { run := .running })] }).me.helperLive = true ∧
    (bankState {}).reflex = true ∧ (bankState {}).my.pend = false ∧ bits ((bankState {}).me.relcfg 0) 61 2 ≠ 1 ∧
    ((bankState {}).ring 64 0).read = ((bankState {}).ring 64 0).tail ∧ (bankState { pend := true }).my.pend = true ∧
    (bankState {}).exitWaits = false := by decide +kernel

/-- Bank 0 of core 64, triggered by ring 0, whose ring holds an entry when the release ends. -/
theorem test_witness_ExitRing : (let v : Word := bankCfg + (1 <<< 61)
    let s : State := onCore 64 { ctxs := [(0, { run := .running, isReleased := true })], sys := [(0x190, v)],
                                 mem := cells (ringBase 64 0) (leBytes 8 0x8A010000 ++ leBytes 8 0x40 ++ leBytes 8 0x80 ++ leBytes 8 0x40) }
    s.exitWaits = false ∧ s.reflex = true ∧ s.my.pend = false ∧ v.getLsbD 63 = true ∧ bits v 61 2 = 1 ∧ (s.ring 64 0).read ≠ (s.ring 64 0).tail) := by
  decide +kernel

/-- An inline header of RSCOPE 2 without tasks, and one of a launch with one task whose record lies at 0x8000. -/
@[reducible] def header0 : BitVec 512 := BitVec.ofNat 512 (2 * 2 ^ 80)
@[reducible] def header1 : BitVec 512 := BitVec.ofNat 512 (0x8000 + 2 ^ 64 + 2 * 2 ^ 80)
/-- A record of level 0, entry 0x1000, G1 5. -/
@[reducible] def record0 : BitVec 1024 := BitVec.ofNat 1024 (0x1000 + 5 * 2 ^ 128)
@[reducible] def launch0 (v : BitVec 512) : Launch := { id := 0, addr := 0, bits := v, vf := 4, submitter := some 0 }
@[reducible] def launchState : State :=
  { core0 { q1 := [.inline header0 4] } with
    dram := mapped.foldl (fun m e => tset 0 m e.1 e.2) (dwords [(0x108000, 0x1000), (0x108010, 5)]), assign := [(4, 0xFFFFFFFFFFFFFFFF)] }

theorem test_witness_LaunchEvents :
    headerFault header0 true = false ∧ launchState.taking 0 = false ∧ launchState.quiet 0 = true ∧ launchState.closedTo 4 = false ∧
    hdrNtask header0 = 0 ∧ hdrNsucc header0 = 0 ∧ hdrDone header0 = 0 ∧ headerFault header1 false = false ∧ hdrNtask header1 = 1 ∧
    headerFault 0 true = true ∧ ({ s0 with resets := [⟨4, 2, 0, 15⟩] } : State).closedTo 4 = true ∧ (32 : Word).toNat % 64 ≠ 0 ∧
    (let s : State := { core0 { q1 := [.header 0 4] } with dram := mapped }
     answers ((s.setCore 0 { s.core 0 with q1 := [] }).readGlobal (s.dispAsker 4 (some 0)) [] 0 64) = true) ∧
    (let c := launchState.readGlobal (launchState.dispAsker 4 (some 0)) [] 0 0
     let u := (got c ([], s0)).2
     answers c = true ∧ answers (u.readRecords (launch0 header1) 0 1) = true ∧
     (got (u.readRecords (launch0 header1) 0 1) ([], s0)).1.map (fun r => recField r.1 640 32) = [0]) := by decide +kernel

/-- THOT and POWCAP above what any sensor or meter of the model reads: no row is withheld (log 16). -/
theorem rows_free (s : State) (h : s.thot = 256) (k : s.powcap = 65536) (r : Nat) : s.rowWithheld r = false := by
  have a := (Config.rowSensor s.now r).isLt
  have b := (Config.measuredDraw s.now).isLt
  simp only [State.rowWithheld, h, k, Bool.or_eq_false_iff, Bool.and_eq_false_iff, decide_eq_false_iff_not]
  constructor
  · simp; omega
  · left; simp; omega

/-- One ready task of level 0, on a device that withholds no row. -/
@[reducible] def readyState : State :=
  { State.reset with pool := [{ launch := 0, index := 0, bits := record0, vf := 4, prio := 0, entered := 0 }],
                     assign := [(4, 0xFFFFFFFFFFFFFFFF)], thot := 256, powcap := 65536 }

theorem test_witness_SuperstepBegin : readyState.chosen = some (0, 0) := by
  have h : readyState.coreFree = fun c => ((readyState.core c).idleShare && (readyState.core c).inStep.isNone &&
      !(readyState.core c).scrubbing && !(readyState.hold.getLsbD c || !((readyState.core c).pwrNext.getD (readyState.core c).pwr).getLsbD 2 || false ||
        (readyState.leaving.find? fun e => e.1 == c).isSome)) := by
    funext c
    simp only [State.coreFree, State.withheld, rows_free readyState rfl rfl]
  have g : readyState.startable = fun d => ((domCores d.1 d.2).all readyState.coreFree && !readyState.supersteps.any (overlapDom d) &&
      !readyState.preempts.any (fun p => p.blocks && overlapDom d (p.lvl, p.dom)) && readyState.pool.any (readyState.eligible d) &&
      !readyState.pool.any (readyState.reservedFrom d)) := rfl
  unfold State.chosen
  rw [g, h]
  decide +kernel

/-- A share of one task of level 0; a pair's two shares of a tiled task of level 1; a core whose clear sequence runs. -/
theorem test_witness_TaskStart : (let c : CoreSt := { share := [{ launch := 0, index := 0, bits := record0, vf := 4 }], inStep := some (0, 0) }
    recPair record0 = false ∧ c.canStart = true ∧ c.share.head?.isSome = true) ∧
    (let v : BitVec 1024 := BitVec.ofNat 1024 (0x1000 + 2 ^ 98 + 3 * 2 ^ 100)
     let p : Placed := { launch := 0, index := 0, bits := v, vf := 4 }
     let c : CoreSt := { share := [p], inStep := some (1, 0) }
     let s : State := { State.reset with cores := [(2, c), (3, c)] }
     recPair v = true ∧ ∀ k ∈ [3 / 2 * 2, 3 / 2 * 2 + 1], (s.core k).share.head? = some p ∧ (s.core k).canStart = true) ∧
    ((core0 { clearing := true }).core 0).clearing = true := by decide +kernel

/-- A MOVE of two rows of 16 bytes from core 0 at 0x1000 to core 1 at 0x2000, a FILL and an EXPAND there, TLV 3. -/
@[reducible] def move0 : BitVec 512 := BitVec.ofNat 512 (1 + 3 * 2 ^ 64 + 0x1000 * 2 ^ 128 + 0x2000 * 2 ^ 192 + 16 * 2 ^ 256 + 2 * 2 ^ 288 +
  16 * 2 ^ 320 + 16 * 2 ^ 352 + 1 * 2 ^ 384 + 1 * 2 ^ 386 + 2 ^ 449)
@[reducible] def engineState (v : BitVec 512) (taken : Bool) (plan : List (BitVec 512)) (stop : EngineStop) : State :=
  { State.reset with cores := [(0, { xph := true }), (1, { xph := true })],
                     clusters := [(0, { chans := [(0, { queue := [{ bits := v, vf := 4, core := 0, refused := none }], taken := taken, plan := plan, stop := stop })] })] }

theorem test_witness_EngineEvents :
    (let s := engineState move0 false [] .going
     (s.chan 0 0).queue.length = 1 ∧ s.quiet 0 = true ∧ cmdOp move0 = 1 ∧ s.refusal false { bits := move0, vf := 4, core := 0, refused := none } = none) ∧
    (let s := engineState move0 true [move0] .going
     s.permitted { bits := move0, vf := 4, core := 0, refused := none } move0 = true ∧ cmdDkind move0 = 1 ∧ cmdSkind move0 = 1 ∧
     cmdDests move0 = [1] ∧ (s.chan 0 0).row + 1 < cmdRows move0) ∧
    (let s := engineState move0 true [] .going
     (s.chan 0 0).plan = [] ∧ cmdEvt move0 = false ∧ cmdEvt (move0 ||| BitVec.ofNat 512 (2 ^ 15)) = true ∧
     (s.core 0).q0.length < 64 ∧ (s.core 0).q0Held = []) ∧
    (let s := engineState move0 true [move0] (.waiting none)
     (s.chan 0 0).stop = .waiting none ∧ (0, 0) ∈ (List.range 16).flatMap clusterEngines ∧ 1 ∈ cmdCores move0) := by decide +kernel

/-- An EXPAND of a dictionary of 4 bytes and 4 of stream at global address 0 into core 1, bound 16. -/
theorem test_witness_Expand : (let v : BitVec 512 := BitVec.ofNat 512 (4 + 2 ^ 386 + 2 ^ 449 + 3 * 2 ^ 64 + 0x2000 * 2 ^ 192)
    let s := { engineState v true [v] .going with dram := mapped }
    cmdOp v = 4 ∧ cmdDkind v = 1 ∧ cmdDests v = [1] ∧
    (let cmd : Command := { bits := v, vf := 4, core := 0, refused := none }
     s.permitted cmd v = true ∧ answers (s.operand 0 0 cmd .load 0 (cmdSrc v) (xpDict v + xpSlen v) []) = true)) := by decide +kernel

theorem test_witness_PreemptionEvents : (let s : State := { core0 {} with supersteps := [(0, 0)] }
    s.preemptible (0, 0) = true ∧ s.stoppable (0, 0) = true ∧ domCores 0 0 = [0]) ∧
    (let s : State := { core0 { clearing := true } with supersteps := [(0, 0)] }
     s.preemptible (0, 0) = true ∧ s.stoppable (0, 0) = false) ∧
    (let s (n : Nat) : State := { s0 with preempts := [{ lvl := 0, dom := 0, phase := n, save := true }] }
     (s 1).preemptOf (0, 0) = some { lvl := 0, dom := 0, phase := 1, save := true } ∧ (s 1).drained 0 = true ∧
     answers ((s 2).writeSaves [0]) = true ∧ (s 3).supersteps = []) ∧
    ({ s0 with leaving := [(0, 4)] } : State).mayScrub 0 = true := by decide +kernel

theorem test_witness_Resume : (domCores 0 0).all ({ readyState with pool := [] } : State).coreFree = true := by
  have h : ∀ c, ({ readyState with pool := [] } : State).coreFree c = ((s0.core c).idleShare && (s0.core c).inStep.isNone &&
      !(s0.core c).scrubbing && !(s0.hold.getLsbD c || !((s0.core c).pwrNext.getD (s0.core c).pwr).getLsbD 2 || false || (s0.leaving.find? fun e => e.1 == c).isSome)) := by
    intro c
    simp only [State.coreFree, State.withheld, rows_free { readyState with pool := [] } rfl rfl]
    rfl
  have e : domCores 0 0 = [0] := by decide +kernel
  rw [e, List.all_cons, h]
  decide +kernel

/-! ### Witnesses: the host, resets, service, the peer -/

/-- Queue rings of 16 entries at bus address 0x1000, with one entry in each that has room. -/
@[reducible] def hostState : State :=
  { s0 with queues := [(4, { regs := [(0x000, 0x1000), (0x008, 0x8000000000000004), (0x010, 1), (0x020, 0x2000), (0x028, 0x8000000000000004),
                                      (0x040, 0x3000), (0x048, 0x8000000000000004)],
                             completions := [(1, 2)], faultsWaiting := [fault0] })],
            dram := mapped, host := dwords [(0x1000, 0x40)] }

theorem test_witness_HostQueues : hostState.reachable 4 = true ∧ (hostState.block 4).en 0 = true ∧
    bits (0x8000000000000004 : Word) 0 4 = 4 ∧ (s0.block 4).en 0 = false ∧
    (let q := hostState.block 4
     let h := (q.get 0x018).toNat
     let e := Place.host (q.entry 0 h 16)
     let va := BitVec.ofNat 64 (hostState.numAt e 8)
     let w := hostState.setBlock 4 (q.set 0x018 (BitVec.ofNat 64 (h + 1)))
     h < (q.get 0x010).toNat ∧ hostState.numAt (e.plus 8) 8 = 0 ∧ hostState.closedTo 4 = false ∧ va = 0x40 ∧
     answers (w.readGlobal (w.dispAsker 4 none) [] va.toNat 64) = true ∧ q.room 1 = true ∧ q.room 2 = true) := by decide +kernel

theorem test_witness_HostAccesses : s0.booted = true ∧ ({ s0 with vfEnabled := true } : State).reachable 3 = true ∧
    inParity 0 = false ∧ inParity 7 = false ∧ (4 : Nat) % 8 ≠ 0 := by decide +kernel

theorem test_witness_Resets : s0.closedTo 4 = false ∧ s0.overlaps false 4 1 = false ∧ s0.overlaps true 4 (1 &&& 0xFFFFFFFF) = false ∧
    (∀ n ∈ [2, 3, 4], (let s : State := { s0 with resets := [⟨4, n, 0, 15⟩], now := 2 ^ 25 + 64 }
      s.resetAt 4 n = some ⟨4, n, 0, 15⟩ ∧ 0 + 2 ^ (15 + 10) + 64 ≤ s.now)) ∧
    (s0.coresOf 4).all (fun c => (s0.core c).seizPhase == .idle) = true ∧ s0.scOwed 4 = false ∧ ({ s0 with debugOpen := false } : State).debugOpen = false ∧
    (let s : State := { s0 with frozen := true, debugOpen := true, heldHost := [.event .freeze] }
     s.frozen = true ∧ s.debugOpen = true) := by decide +kernel

theorem test_witness_ServiceEvents : 0 < 0x1E00000000 ∧ tget false ({ s0 with freeRows := [(0, true)] } : State).freeRows 0 = true ∧
    tget false s0.freeRows 0 = false ∧ ((s0.dctl 3).table.length < 256) ∧
    (let s : State := { s0 with drams := [(3, { repairing := some (.row 1 2), asked := some (.lane 5) }), (4, { repairing := some (.lane 5) })] }
     (s.dctl 3).repairing = some (.row 1 2) ∧ (s.dctl 3).asked = some (.lane 5) ∧ (s.dctl 4).repairing = some (.lane 5)) ∧
    ({ s0 with freelen := 256 } : State).freeRange = some (0, 256) ∧
    (let c := (core0 { pwrNext := some 2 }).core 0
     c.pwrNext = some 2 ∧ c.idleShare = true ∧ c.seizPhase = .idle) ∧
    s0.fwBusy = false ∧ (∀ n < 64, (s0.core n).share = [] ∧ (s0.core n).taskOn = false) ∧
    (∀ n < 32, (∀ k < 4, ((s0.core (64 + n)).relcfg k).getLsbD 63 = false) ∧ ∀ e ∈ (s0.core (64 + n)).ctxs, e.2.fwPending = false) ∧
    ((core0 { taskOn := true }).core 0).taskOn = true := by decide +kernel

/-- Core 0 runs a task with SAVE = 0x40. -/
@[reducible] def savedTask : CoreSt :=
  { share := [{ launch := 0, index := 0, bits := BitVec.ofNat 1024 (0x1000 + 0x40 * 2 ^ 832), vf := 4 }], taskOn := true, inStep := some (0, 0) }

theorem test_witness_PeerAndLoader :
    (let s : State := { core0 savedTask with peerctl := 0x8000000000000000, now := 1000000, cperiod := 1, supersteps := [(0, 0)] }
     s.peerIs false = true ∧ s.hbSent + 100000 ≤ s.now ∧ s.captured + s.cperiod.toNat * 1000000 ≤ s.now ∧ s.captures = [] ∧
     s.captureDomains = [(0, 0)] ∧ s.captureDomains.all s.stoppable = true) ∧
    (let s : State := { s0 with cringlen := 0x100000, supersteps := [(0, 0)], preempts := [{ lvl := 0, dom := 0, phase := 1, save := false }] }
     s.captures = [(0, 0)] ∧ s.capturable 0 = true ∧ 4096 + s.captureSet.1.length ≤ s.cringlen.toNat) ∧
    (let s : State := { s0 with peerctl := 0xC000000000000064, now := 100000, dram := dwords [(8, 1)] }
     s.peerIs true = true ∧ s.numAt (.dram 0) 8 = s.hbSeen ∧ s.hbAt + bits s.peerctl 0 32 * 1000 ≤ s.now ∧ s.numAt (.dram 8) 8 ≠ 0 ∧
     answers (s.restoreSet (s.bytesAt (.dram 4096) (s.numAt (.dram 16) 8)) 64) = true) ∧
    (let s : State := { s0 with peerctl := 0xC000000000000064, dram := dwords [(0, 1)] }
     s.numAt (.dram 0) 8 ≠ s.hbSeen) ∧
    (let s : State := { s0 with dram := mapped }
     let c := s.readGlobal (s.monitorAsker 4) [] 0 64
     answers c = true ∧ answers ((got c ([], s0)).2.checkObject 4 (got c ([], s0)).1 0x10000) = false ∧
     answers (s.readGlobal (s.monitorAsker 4) [] 0x4000000 64) = false ∧ answers (s.readGlobal (s.monitorAsker 4) [] 0x100000000000000 64) = false) := by
  decide +kernel

/-- An object of a header and no section, at global address 0 of function 4. -/
theorem test_witness_ObjectLoad : (let s : State := { s0 with dram := List.foldl (fun m e => tset 0 m e.1 e.2) mapped (cells 0x100000 [0x46, 0x4F, 0x46, 0, 128, 0, 0, 0, 128]) }
    let c := s.readGlobal (s.monitorAsker 4) [] 0 128
    answers c = true ∧
    (let r := (got c ([], s0)).2.checkObject 4 (got c ([], s0)).1 0x10000
     let im := got r ⟨[], []⟩
     answers r = true ∧ im.parts.length = 0 ∧ s.loadWaits 4 im = none ∧ (partsOf im.parts 9).isEmpty = true ∧
     (partsOf im.parts 10).isEmpty = true ∧ (partsOf im.parts 12).isEmpty = true)) := by decide +kernel

/-- An object with one section at global address 0 of function 4: its type, address and 16 bytes. -/
@[reducible] def objectState (type : Byte) (addr : Nat) (bs : List Byte) : State :=
  { s0 with dram := (cells 0x100000 [0x46, 0x4F, 0x46, 0, 128, 0, 1, 0, 128] ++ cells 0x100080 [type] ++ cells 0x100088 [176] ++
                  cells 0x100090 [16] ++ cells 0x100098 [16] ++ cells 0x1000A0 (leBytes 8 addr) ++ cells 0x1000B0 bs).foldl
                  (fun m e => tset 0 m e.1 e.2) mapped }

/-- A section on an absent page waits for it; a shape out of range refuses the load. -/
theorem test_witness_ObjectStops : (let image (s : State) : State × Image :=
      let c := got (s.readGlobal (s.monitorAsker 4) [] 0 192) ([], s0)
      (c.2, got (c.2.checkObject 4 c.1 0x10000) ⟨[], []⟩)
    (let r := image (objectState 2 0x4000000 [1])
     r.1.loadWaits 4 r.2 = some 0x4000000) ∧
    (let r := image (objectState 10 0 (List.replicate 16 0xFF))
     r.2.parts.length = 1 ∧ r.1.loadWaits 4 r.2 = none ∧ (partsOf r.2.parts 10).all (fun e => shapesOk e.2) = false)) := by decide +kernel

/-- An object whose YIL section the translator refuses, by step 9. -/
theorem test_witness_ObjectUntranslated : (let s := objectState 12 0 [1]
    let c := got (s.readGlobal (s.monitorAsker 4) [] 0 192) ([], s0)
    let im := got (c.2.checkObject 4 c.1 0x10000) ⟨[], []⟩
    im.parts.length = 1 ∧ c.2.loadWaits 4 im = none ∧ (partsOf im.parts 9) = [] ∧ (partsOf im.parts 10) = [] ∧
    (translateAll 4 (c.2.coresAssigned 4) (partsOf im.parts 12) (c.2.stubsTaken 4) (partsOf im.parts 1)).isNone = true) := by decide +kernel

theorem test_witness_FirmwareInstall : ({ s0 with fwstat := 0x4000000000000000 } : State).fwstat.getLsbD 62 = true ∧
    s0.fwlen.toNat ≤ 2 ^ 24 := by decide +kernel

/-! ### Ill-formed terms, one for each check (R74, R78, R80, R81; the events' numbers, R1, R31) -/

@[reducible] def zr : Region := ⟨0, 0, 0, 0⟩
@[reducible] def zmx : Option VExt := some ⟨0, true⟩
@[reducible] def lpx : Option VExt := some ⟨1, false⟩

theorem test_wf_scalar : ∀ i ∈ ([.rep 0 (.reg 0), .repStepped 0 (.reg 0) ⟨0, 0, 0, 0, 0⟩,
    .repStepped 0 (.imm 1) ⟨0, 0, 0, 0, 2⟩, .ldS 1 1 false 3 0 0, .ldExt 1 1 false 0 (.short 0) none 0,
    .ldExt 1 1 false 0 (.short 0) (some .rel) 0, .ldExt 1 1 false 0 (.short 0) (some .ar) 0,
    .ldSExt 1 1 false 3 (.lit 0) none 0, .ldSExt 1 1 false 0 (.short 0) none 0, .ldSExt 1 1 false 0 (.lit 0) (some .rel) 0,
    .stExt 1 1 false 0 (.short 0) none 0, .stExt 1 1 false 0 (.lit 0) (some .acq) 0, .lda 1 1 0 0 (some .rel) 0,
    .ldaS 1 1 3 0 none 0, .ldaS 1 1 0 0 (some .ar) 0, .sta 1 1 0 0 (some .acq) 0] : List Instr), i.wf = false := by
  decide +kernel

theorem test_wf_memory : ∀ i ∈ ([.vld 0 8 .dist none none 0, .vld 0 1 .dist (some 0) none 0, .vst 0 8 .dist none none 0,
    .vst 0 1 .glob none zmx 0, .vlds 0 1 2 .dist false none none 0, .vgth 0 1 2 .dist false none none 0,
    .vsct 0 1 2 .dist false none none 0, .vsct 0 1 2 .glob false none zmx 0, .amo 1 2 3 .fadd .rlx true,
    .amoLocal 1 2 3 .fadd .rlx true false, .amoLocal 1 8 3 .add .rlx false true, .amof 1 2 3 .fadd .rlx true,
    .cas 1 2 3 .acq .rel false, .cas 1 2 3 .sc .ar false, .casLocal 1 2 3 .acq .rlx false false,
    .casLocal 1 8 3 .rlx .rlx false true, .fence .rlx .core 0, .fence .sc .core 0] : List Instr), i.wf = false := by
  decide +kernel

theorem test_wf_vector : ∀ i ∈ ([.vcmp .ltu .f32 1 1 1 none 0, .vcmp .leu .f32 1 1 1 none 0, .vext .w 1 1 (.reg 1) lpx 0,
    .vext .w 1 1 (.reg 1) zmx 0, .vins .w 1 1 (.reg 1) zmx 0, .vsel .w 1 1 1 zmx 0,
    .vcvt .fp32 .fp32 false 1 1 ⟨0, false⟩ 0, .vcvt .blk .fp32 false 1 1 ⟨0, false⟩ 0,
    .vcvt .fp32 .blk false 1 1 ⟨0, false⟩ 0, .vcvt .sp32 .bf16 false 1 1 ⟨0, false⟩ 0,
    .vcvt .int8 .sp32 false 1 1 ⟨0, false⟩ 0, .vcvt .fp16 .fp32 true 1 1 ⟨0, false⟩ 0, .vredAdd (.f .f32) 1 1 zmx 0,
    .vredMin (.f .f32) 1 1 zmx 0, .vredMax (.f .f32) 1 1 zmx 0, .vredAnd .i32 1 1 zmx 0, .vredOr .i32 1 1 zmx 0,
    .vredXor .i32 1 1 zmx 0, .vpcnt .w 1 1 zmx 0, .vfirst .w 1 1 zmx 0] : List Instr), i.wf = false := by
  decide +kernel

theorem test_wf_units : ∀ i ∈ ([.tld 0 8 1 .dist 0, .tst 0 8 1 .dist 0, .tldb 0 1 1 .dist 0, .tldt 0 1 1 .dist 0,
    .tldLit .tld 0 1 1 .dist 0 0, .accrd 1 ⟨0, 0, 1, 0⟩ 0, .accrd 1 ⟨0, 0, 0, 1⟩ 0, .accwr 1 ⟨0, 0, 1, 0⟩ 0,
    .accwr 1 ⟨0, 0, 0, 1⟩ 0, .mma 0 1 ⟨0, 0, 1, 0⟩ 0, .mma 0 1 ⟨0, 0, 0, 1⟩ 0, .mxepi 0 1 zr .none false false 0,
    .gori2 false 1 27 0 false false 0, .gori2 false 1 0 1 false false 0, .gori3 false 1 21 0 false false 0,
    .gincir false 1 25 0 false false 0, .gsegx false 1 25 0 false false 0, .ginsph false 1 18 0 false false 0,
    .gsegt false 1 18 0 false false 0, .spldExt 0 1 none none 0, .spstExt 0 1 none none 0, .sptree 0 0 ⟨15, 0⟩ 0,
    .sptree 0 0 ⟨24, 0⟩ 0, .spup 0 0 ⟨16, 1⟩ 0, .spdn 0 0 ⟨24, 0⟩ 0, .spmax 0 0 ⟨16, 1⟩ 0] : List Instr), i.wf = false := by
  decide +kernel

theorem test_wf_system : ∀ i ∈ ([.tlrd 1 10 0, .tlwt 1 10 0, .tlwtLit 1 10 0, .qrd 1 1 0, .qrd 31 0 0, .qrd 25 2 0,
    .qwr 1 1 0 0, .qwr 1 1 2 0, .qwr 1 1 3 0, .mpub 1 1 1 0 0, .mpub 1 1 1 1025 0, .mread 1 1 1 0 0,
    .mread 1 1 1 1025 0] : List Instr), i.wf = false := by
  decide +kernel

theorem test_wf_events : ∀ i ∈ ([.streamReadAhead 0 0 4, .streamReadAhead 96 0 0, .taskStart 96, .contextWake 0 11,
    .trapDelivery 64 4, .faultRecordPost 16 0, .dramSectorFill 0x1E00000000 false false, .move 16 64, .move 0 8,
    .fill 17 0, .mirrorFlip 4096, .mirrorGrantInEffect 4096, .mirrorGrantWrite 4096 0 0, .mirrorGrantWrite 0 4 0,
    .superstepBegin 0 64, .superstepBegin 1 16, .superstepBegin 2 4, .superstepBegin 3 1, .superstepBegin 4 0,
    .tshapeWrite 0 8 0, .capaccWrite 96 0 0, .relcfgWrite 0 4 0, .hostLaunchEntry 5, .queueCfgWrite 0 3 0,
    .queueCfgWrite 5 0 0, .hostRegisterWrite (some 5) 0 0, .bar2Access 0 9 none, .pwrWrite 64 0, .powerSettingApply 64,
    .repcmdRepair 16] : List Instr), i.wf = false := by
  decide +kernel

/-- The same forms at the edge of what is allowed. -/
theorem test_wf_allowed : ∀ i ∈ ([.rep 0 (.reg 1), .repStepped 0 (.imm 1) ⟨0, 0, 0, 0, 1⟩, .ldS 1 1 false 2 0 0,
    .ldExt 1 1 false 0 (.short 0) (some .acq) 0, .stExt 1 1 false 0 (.lit 0) none 0, .vld 0 7 .dist none none 0,
    .vst 0 8 .loc (some 0) lpx 0, .casLocal 1 7 3 .acq .ar false true, .fence .sc .device 0, .fence .acq .core 0,
    .vcvt .e4m3 .fp32 true 1 1 ⟨0, false⟩ 0, .vcvt .sp32 .fp32 false 1 1 ⟨0, false⟩ 0, .vcmp .le .f32 1 1 1 none 0,
    .tld 0 8 1 .glob 0, .mxepi 0 1 zr .none false true 0, .gori2 false 1 26 0 false false 0,
    .ginsph false 1 17 1 true false 0, .spldExt 0 1 none (some 0) 0, .sptree 0 0 ⟨0x17, 0⟩ 0, .spup 0 0 ⟨15, 1⟩ 0,
    .tlrd 1 9 0, .qrd 30 0 0, .qrd 24 2 0, .mpub 1 1 1 1024 0, .contextWake 0 10, .trapDelivery 64 3, .move 16 63,
    .superstepBegin 1 15, .pwrWrite 63 0] : List Instr), i.wf = true := by
  decide +kernel

end Sys2Proof.Tests
end

section
/-! SUPPORT. The canonical form of the memories (log 2) through a body: what each way to end owes, and the updates that change no
memory. -/

set_option Elab.async false

namespace Sys2Proof.Machine

/-! ### Bodies that may stop -/

theorem keepsO_ite {c : Prop} [Decidable c] {a b : Host.Outcome State Fault Refusal} (ha : KeepsO a) (hb : KeepsO b) :
    KeepsO (if c then a else b) := by split <;> assumption

theorem keeps_bind_state {r : Except Stop State} {f : State → Except Stop State} (hr : Keeps r)
    (hf : ∀ t, t.memWf = true → Keeps (f t)) : Keeps (r >>= f) := keeps_bind fun t ht => hf t (hr t ht)
theorem keeps_bind_pair {α : Type} {r : Except Stop (α × State)} {f : α × State → Except Stop State} (hr : KeepsV r)
    (hf : ∀ a t, t.memWf = true → Keeps (f (a, t))) : Keeps (r >>= f) := keeps_bind fun _ ht => hf _ _ (hr _ _ ht)
theorem keepsV_bind_pair {α β : Type} {r : Except Stop (α × State)} {f : α × State → Except Stop (β × State)}
    (hr : KeepsV r) (hf : ∀ a t, t.memWf = true → KeepsV (f (a, t))) : KeepsV (r >>= f) :=
  keepsV_bind fun _ ht => hf _ _ (hr _ _ ht)

/-- A body that ends with two values and a state keeps the form. -/
def KeepsW {α β : Type} (r : Except Stop (α × β × State)) : Prop := ∀ a b t, r = .ok (a, b, t) → t.memWf = true

theorem keepsW_ok {α β : Type} {a : α} {b : β} {t : State} (h : t.memWf = true) : KeepsW (.ok (a, b, t)) := by
  rintro _ _ _ ⟨⟩; exact h
theorem keepsW_error {α β : Type} (e : Stop) : KeepsW (.error e : Except Stop (α × β × State)) := by rintro _ _ _ ⟨⟩
theorem keepsW_bind {α β γ : Type} {r : Except Stop α} {f : α → Except Stop (β × γ × State)}
    (h : ∀ a, r = .ok a → KeepsW (f a)) : KeepsW (r >>= f) := by
  cases r with
  | error e => exact keepsW_error e
  | ok a => exact h a rfl
theorem keepsW_bind_pair {α β γ : Type} {r : Except Stop (α × State)} {f : α × State → Except Stop (β × γ × State)}
    (hr : KeepsV r) (hf : ∀ a t, t.memWf = true → KeepsW (f (a, t))) : KeepsW (r >>= f) :=
  keepsW_bind fun _ ht => hf _ _ (hr _ _ ht)
theorem keepsW_ite {α β : Type} {c : Prop} [Decidable c] {a b : Except Stop (α × β × State)} (ha : KeepsW a)
    (hb : KeepsW b) : KeepsW (if c then a else b) := by split <;> assumption
theorem State.keeping_keepsW {α β : Type} {s : State} (sp : Space) (acc : Acc) (is : List Item)
    {b : Except Stop (α × β × State)} (hb : KeepsW b) : KeepsW (s.keeping sp acc is b) := by
  cases b with
  | error e => exact keepsW_error _
  | ok a => exact hb
theorem keeps_bind_triple {α β : Type} {r : Except Stop (α × β × State)} {f : α × β × State → Except Stop State}
    (hr : KeepsW r) (hf : ∀ a b t, t.memWf = true → Keeps (f (a, b, t))) : Keeps (r >>= f) :=
  keeps_bind fun _ ht => hf _ _ _ (hr _ _ _ ht)

/-- A state that there may be keeps the form. -/
def KeepsSome (r : Option State) : Prop := ∀ t, r = some t → t.memWf = true

theorem keepsSome_none : KeepsSome none := by rintro _ ⟨⟩
theorem keepsSome_some {t : State} (h : t.memWf = true) : KeepsSome (some t) := by rintro _ ⟨⟩; exact h
theorem keepsSome_ite {c : Prop} [Decidable c] {a b : Option State} (ha : KeepsSome a) (hb : KeepsSome b) :
    KeepsSome (if c then a else b) := by split <;> assumption

/-- What a body that carries a state out of both its endings owes: P of what it stops with, Q of what it gives. -/
def EndsIn {ε α : Type} (P : ε → Prop) (Q : α → Prop) : Except ε α → Prop
  | .error e => P e
  | .ok a => Q a

theorem endsIn_bind {ε α β : Type} {P : ε → Prop} {Q : α → Prop} {R : β → Prop} {r : Except ε α} {f : α → Except ε β}
    (hr : EndsIn P Q r) (hf : ∀ a, Q a → EndsIn P R (f a)) : EndsIn P R (r >>= f) := by
  cases r with
  | error e => exact hr
  | ok a => exact hf a hr
theorem endsIn_ite {ε α : Type} {P : ε → Prop} {Q : α → Prop} {c : Prop} [Decidable c] {a b : Except ε α}
    (ha : EndsIn P Q a) (hb : EndsIn P Q b) : EndsIn P Q (if c then a else b) := by split <;> assumption
theorem of_endsIn_ok {ε α : Type} {P : ε → Prop} {Q : α → Prop} {r : Except ε α} {a : α} (e : r = .ok a)
    (h : EndsIn P Q r) : Q a := by
  subst e; exact h
theorem of_endsIn_error {ε α : Type} {P : ε → Prop} {Q : α → Prop} {r : Except ε α} {a : ε} (e : r = .error a)
    (h : EndsIn P Q r) : P a := by
  subst e; exact h

/-! ### The state in a result that a match has taken apart -/

theorem snd_memWf {α : Type} {p : α × State} {a : α} {t : State} (e : p = (a, t)) (h : p.2.memWf = true) :
    t.memWf = true := by
  subst e; exact h
theorem snd_snd_memWf {α β : Type} {p : α × β × State} {a : α} {b : β} {t : State} (e : p = (a, b, t))
    (h : p.2.2.memWf = true) : t.memWf = true := by
  subst e; exact h
theorem memWf_of_some {r : Option State} {t : State} (e : r = some t) (h : KeepsSome r) : t.memWf = true := h t e
theorem memWf_of_ok {r : Except Stop State} {t : State} (e : r = .ok t) (h : Keeps r) : t.memWf = true := h t e

/-! ### Cores -/

theorem ite_core_memWf {c : Prop} [Decidable c] {a b : CoreSt} (ha : a.memWf = true) (hb : b.memWf = true) :
    (if c then a else b).memWf = true := by split <;> assumption
theorem foldl_core_memWf {α : Type} (f : CoreSt → α → CoreSt) (hf : ∀ c a, c.memWf = true → (f c a).memWf = true)
    (l : List α) {c : CoreSt} (h : c.memWf = true) : (l.foldl f c).memWf = true := by
  induction l generalizing c with
  | nil => exact h
  | cons a l ih => exact ih (hf c a h)

theorem CoreSt.memWf_iff {c : CoreSt} : c.memWf = true ↔ twf 0 c.mem = true ∧ twf 0 c.tbuf = true := Bool.and_eq_true_iff
/-- An update of fields that are no memories keeps the form: each equation is closed by reading the two records. -/
theorem CoreSt.memWf_of_eq {c d : CoreSt} (hc : c.memWf = true) (hmem : d.mem = c.mem := by dsimp only)
    (htbuf : d.tbuf = c.tbuf := by dsimp only) : d.memWf = true := by
  rw [CoreSt.memWf_iff] at hc ⊢
  rwa [hmem, htbuf]
/-- A core given another local memory in canonical form. -/
theorem CoreSt.memWf_of_twf_mem {c : CoreSt} (h : c.memWf = true) {m : Tab Byte} (hm : twf 0 m = true) (bad : Tab Byte) :
    ({ c with mem := m, memBad := bad } : CoreSt).memWf = true := CoreSt.memWf_iff.mpr ⟨hm, (CoreSt.memWf_iff.mp h).2⟩

theorem CoreSt.setCtx_memWf_of {c : CoreSt} (h : c.memWf = true) (k : Nat) (x : Ctx) : (c.setCtx k x).memWf = true := h
theorem CoreSt.setSysr_memWf_of {c : CoreSt} (h : c.memWf = true) (n : Nat) (v : Word) : (c.setSysr n v).memWf = true := h
theorem CoreSt.setTile_memWf_of {c : CoreSt} (h : c.memWf = true) (t : Nat) (v : BitVec 32768) :
    (c.setTile t v).memWf = true := h
theorem CoreSt.setCell_memWf_of {c : CoreSt} (h : c.memWf = true) (i j : Nat) (v : Half) : (c.setCell i j v).memWf = true := h
theorem CoreSt.setX_memWf_of {c : CoreSt} (h : c.memWf = true) (r : Nat) (v : BitVec 128) : (c.setX r v).memWf = true := h

/-! ### The machine -/

/-- An update of fields that are no memories keeps the form: each equation is closed by reading the two records. -/
theorem State.memWf_of_eq {s t : State} (h : s.memWf = true) (hdram : t.dram = s.dram := by dsimp only)
    (hhost : t.host = s.host := by dsimp only) (hpeer : t.peer = s.peer := by dsimp only)
    (hsram : t.sram = s.sram := by dsimp only) (hcores : t.cores = s.cores := by dsimp only) : t.memWf = true := by
  rw [memWf_def] at h ⊢
  rwa [hdram, hhost, hpeer, hsram, hcores]

theorem State.at_memWf_of {s : State} (h : s.memWf = true) (n k : Nat) : (s.at n k).memWf = true := h
theorem State.setCluster_memWf_of {s : State} (h : s.memWf = true) (k : Nat) (c : Cluster) :
    (s.setCluster k c).memWf = true := h
theorem State.setSlot_memWf_of {s : State} (h : s.memWf = true) (n : Nat) (x : Slot) : (s.setSlot n x).memWf = true := h

/-- A core replaced by one that has its memories keeps the form. -/
theorem State.setCore_own_memWf {s : State} (h : s.memWf = true) (n : Nat) (c : CoreSt)
    (hmem : c.mem = (s.core n).mem := by rfl) (htbuf : c.tbuf = (s.core n).tbuf := by rfl) : (s.setCore n c).memWf = true :=
  State.setCore_memWf h n (CoreSt.memWf_of_eq (State.core_memWf h n) hmem htbuf)
theorem State.setMe_own_memWf {s : State} (h : s.memWf = true) (c : CoreSt)
    (hmem : c.mem = s.me.mem := by rfl) (htbuf : c.tbuf = s.me.tbuf := by rfl) : (s.setMe c).memWf = true :=
  State.setCore_own_memWf h _ c hmem htbuf

/-- Changing every core alike, in a way that keeps its memories canonical, keeps the form. -/
theorem State.mapCores_memWf {s : State} (h : s.memWf = true) {f : CoreSt → CoreSt}
    (hf : ∀ c, c.memWf = true → (f c).memWf = true) :
    ({ s with cores := s.cores.map fun e => (e.1, f e.2) } : State).memWf = true := by
  obtain ⟨hdram, hhost, hpeer, hsram, hcores⟩ := (memWf_def s).mp h
  refine (memWf_def _).mpr ⟨hdram, hhost, hpeer, hsram, fun e he => ?_⟩
  obtain ⟨d, hd, rfl⟩ := List.mem_map.mp he
  exact hf _ (hcores d hd)

theorem twf_foldl {α β : Type} [DecidableEq β] {d : β} {f : Tab β → α → Tab β}
    (hf : ∀ t a, twf d t = true → twf d (f t a) = true) (l : List α) {t : Tab β} (h : twf d t = true) :
    twf d (l.foldl f t) = true := by
  induction l generalizing t with
  | nil => exact h
  | cons a l ih => exact ih (hf t a h)

end Sys2Proof.Machine
end

section
/-! SUPPORT. The instructions of a core keep every memory canonical. -/

set_option Elab.async false

namespace Sys2Proof.Machine

/-! ### Flags -/

theorem State.raise_memWf {s : State} (h : s.memWf = true) (f : Flags) : (s.raise f).memWf = true :=
  State.setMy_memWf h _
theorem CoreSt.spFlag_memWf {c : CoreSt} (hc : c.memWf = true) (sat uf : Bool) : (c.spFlag sat uf).memWf = true :=
  CoreSt.setSysr_memWf_of hc _ _

/-! ### Numbers -/

theorem State.drawn_memWf {s : State} (h : s.memWf = true) (n : Nat) : (s.drawn n).2.memWf = true :=
  State.setMe_own_memWf h _

/-! ### The shared operations -/

theorem State.sweepSc_memWf {s : State} (h : s.memWf = true) : s.sweepSc.memWf = true := h
theorem State.fly_memWf {s : State} (h : s.memWf = true) (l : List Flight) : (s.fly l).memWf = true := h
theorem State.goBack_memWf {s : State} (h : s.memWf = true) (unit : BitVec 4) (engid : Nat) :
    (s.goBack unit engid).memWf = true := by
  unfold State.goBack
  dsimp only
  refine ite_memWf (State.countReturn_memWf (State.restore_memWf h) _) ?_
  exact State.failAt_memWf (State.countReturn_memWf (State.restore_memWf h) _) _ _ _
theorem State.sendSc_memWf {s : State} (h : s.memWf = true) (act : ScAct) (len : Nat) :
    (s.sendSc act len).memWf = true := State.holdOn_memWf (State.sent_memWf (State.newSc_memWf h _) _) _

/-! ### Operands and streams -/

theorem State.discardAhead_memWf {s : State} (h : s.memWf = true) : s.discardAhead.memWf = true :=
  ite_memWf h (State.setMy_memWf h _)
theorem State.scGate_keeps {s : State} (h : s.memWf = true) : Keeps s.scGate := by
  unfold State.scGate
  split
  · exact keeps_ite (keeps_ok h) (keeps_error _)
  · exact keeps_ite (keeps_error _) (keeps_ite (keeps_ok h) (keeps_error _))
theorem State.gate_keeps {s : State} (h : s.memWf = true) (o : Order) : Keeps (s.gate o) := by
  unfold State.gate
  split
  · exact keeps_ok h
  · exact keeps_ok h
  · exact keeps_ite (keeps_ok h) (keeps_error _)
  · exact keeps_ite (keeps_ok h) (keeps_error _)
  · exact keeps_ite (State.scGate_keeps h) (keeps_ite (keeps_error _) (keeps_error _))
theorem State.acquired_memWf {s : State} (h : s.memWf = true) (o : Order) : (s.acquired o).memWf = true :=
  ite_memWf (State.discardAhead_memWf h) h
theorem State.pop_keeps {s : State} (h : s.memWf = true) (r : Nat) : Keeps (s.pop r) := by
  unfold State.pop
  split
  · exact keeps_ok h
  · dsimp only
    refine keeps_ite (keeps_error _) ?_
    split
    · refine State.keeping_keeps _ _ _ ?_
      refine keeps_bind_pair (State.check_keeps h _ _ _ _) fun _ t ht => ?_
      exact keeps_bind fun _ _ => keeps_ok (State.setMy_memWf ht _)
    · exact keeps_bind_pair (State.readItems_keeps h _ _ _ _ _ _) fun _ t ht => keeps_ok (State.setMy_memWf ht _)
theorem State.popEach_keeps {s : State} (h : s.memWf = true) (rs : List Nat) : Keeps (s.popEach rs) := by
  induction rs generalizing s with
  | nil => exact keeps_ok h
  | cons r rs ih => exact keeps_bind_state (State.pop_keeps h r) fun t ht => ih ht
theorem State.pops_keeps {s : State} (h : s.memWf = true) (l : List Nat) : Keeps (s.pops l) := State.popEach_keeps h _
theorem State.putV_keeps {s : State} (h : s.memWf = true) (r : Nat) (v : Vec) : Keeps (s.putV r v) := by
  unfold State.putV
  split
  · exact keeps_ok (State.setMy_memWf h _)
  · dsimp only
    refine keeps_ite (keeps_error _) ?_
    exact keeps_bind_state (State.writeItems_keeps h _ _ _ _) fun t ht => keeps_ok (State.setMy_memWf ht _)

/-! ### Scalar instructions -/

theorem scalar_keeps {s : State} (h : s.memWf = true) (d a : Reg5) (b : Src) (g : Reg3) (op : Word → Word → Word) :
    KeepsO (scalar d a b g op s) := keepsO_done h _ _ (State.setG_memWf h _ _)
theorem scalar1_keeps {s : State} (h : s.memWf = true) (d a : Reg5) (g : Reg3) (op : Word → Word) :
    KeepsO (scalar1 d a g op s) := keepsO_done h _ _ (State.setG_memWf h _ _)
theorem scalarImm_keeps {s : State} (h : s.memWf = true) (d a : Reg5) (i : Imm 14) (op : Word → Word → Word) :
    KeepsO (scalarImm d a i op s) := keepsO_done h _ _ (State.setG_memWf h _ _)
theorem shiftImm_keeps {s : State} (h : s.memWf = true) (d a : Reg5) (n : BitVec 6) (op : Word → Word → Word) :
    KeepsO (shiftImm d a n op s) := keepsO_done h _ _ (State.setG_memWf h _ _)
theorem compare_keeps {s : State} (h : s.memWf = true) (d : Reg3) (a : Reg5) (b : Src) (g : Reg3)
    (c : Word → Word → Bool) : KeepsO (compare d a b g c s) := keepsO_done h _ _ (State.setP_memWf h _ _)
theorem compareImm_keeps {s : State} (h : s.memWf = true) (d : Reg3) (a : Reg5) (i : Imm 11)
    (c : Word → Word → Bool) : KeepsO (compareImm d a i c s) := keepsO_done h _ _ (State.setP_memWf h _ _)
theorem predicate_keeps {s : State} (h : s.memWf = true) (d : Reg3) (v : Pred) (g : Reg3) :
    KeepsO (predicate d v g s) := keepsO_done h _ _ (State.setP_memWf h _ _)

/-! ### Scalar loads and stores -/

theorem loadAt_keeps {s : State} (h : s.memWf = true) (sp : Space) (va : Word) (n : Nat) (signed : Bool) (d : Reg5)
    (o : Order) : Keeps (loadAt s sp va n signed d o) := by
  unfold loadAt
  refine State.keeping_keeps _ _ _ ?_
  refine keeps_bind_pair (State.check_keeps h _ _ _ _) fun _ t ht => ?_
  dsimp only
  refine keeps_bind fun _ _ => ?_
  refine keeps_bind_state (State.gate_keeps ht _) fun u hu => ?_
  refine keeps_bind fun _ _ => ?_
  refine keeps_bind fun _ _ => ?_
  refine keeps_ite (keeps_ok (State.fly_memWf hu _)) ?_
  exact keeps_ok (State.setG_memWf (State.acquired_memWf hu _) _ _)
theorem State.logSc_keeps {s : State} (h : s.memWf = true) (e : LogEntry) : Keeps (s.logSc e) := by
  unfold State.logSc
  refine keeps_ite (keeps_error _) ?_
  exact keeps_bind_state (State.enterLog_keeps h _) fun t ht => keeps_ok (State.newSc_memWf ht _)
theorem State.awaitSc_memWf {s : State} (h : s.memWf = true) : s.awaitSc.memWf = true :=
  ite_memWf (State.holdOn_memWf h _) h
theorem storeAt_keeps {s : State} (h : s.memWf = true) (sp : Space) (va : Word) (n : Nat) (v : Word) (o : Order) :
    Keeps (storeAt s sp va n v o) := by
  unfold storeAt
  refine State.keeping_keeps _ _ _ ?_
  refine keeps_bind_pair (State.check_keeps h _ _ _ _) fun _ t ht => ?_
  dsimp only
  refine keeps_ite ?_ ?_
  · refine keeps_bind fun _ _ => ?_
    exact keeps_bind_state (State.logSc_keeps ht _) fun u hu => keeps_ok (State.discardAhead_memWf hu)
  · refine keeps_bind_state (State.gate_keeps ht _) fun u hu => ?_
    refine keeps_bind fun _ _ => ?_
    refine keeps_ite ?_ ?_
    · exact keeps_ok (State.discardAhead_memWf (State.writeLocs_memWf hu _))
    · exact keeps_ite (keeps_ok (State.fly_memWf hu _)) (State.storeLocs_keeps hu _ _ _)
theorem loadForm_keeps {s : State} (h : s.memWf = true) (d a : Reg5) (loc : Bool) (z : BitVec 2) (i : Imm 7)
    (o : Order) (signed : Bool) (g : Reg3) (len : Nat) : KeepsO (loadForm d a loc z i o signed g len s) := by
  unfold loadForm
  refine keepsO_guarded h _ _ ?_
  exact keeps_bind_state (loadAt_keeps h _ _ _ _ _ _) fun t ht => keeps_ok (State.advance_memWf ht _)
theorem storeForm_keeps {s : State} (h : s.memWf = true) (d a : Reg5) (loc : Bool) (z : BitVec 2) (i : Imm 7)
    (o : Order) (g : Reg3) (len : Nat) : KeepsO (storeForm d a loc z i o g len s) := by
  unfold storeForm
  refine keepsO_guarded h _ _ ?_
  refine keeps_bind_state (storeAt_keeps h _ _ _ _ _) fun t ht => ?_
  exact keeps_ok (State.awaitSc_memWf (State.advance_memWf ht _))
theorem loadPtr_keeps {s : State} (h : s.memWf = true) (d : Reg5) (a : Reg3) (z : BitVec 2) (i : BitVec 7)
    (o : Option Order) (signed : Bool) (g : Reg3) : KeepsO (loadPtr d a z i o signed g s) := by
  unfold loadPtr
  dsimp only
  refine keepsO_guarded h _ _ ?_
  refine keeps_bind_state (loadAt_keeps h _ _ _ _ _ _) fun t ht => ?_
  exact keeps_ok (State.advance_memWf (State.setA_memWf ht _ _) _)
theorem State.sendBytes_memWf {s : State} (h : s.memWf = true) (l : Loc) (bs : List Byte) (now : Bool) :
    (s.sendBytes l bs now).memWf = true := by
  unfold State.sendBytes
  split
  · exact ite_memWf (State.setBytes_memWf h _ _) (ite_memWf (State.putCore_memWf h _ _ _) h)
  · exact State.setBytes_memWf h _ _
  · exact h
theorem storePtr_keeps {s : State} (h : s.memWf = true) (d : Reg5) (a : Reg3) (z : BitVec 2) (i : BitVec 7)
    (o : Option Order) (g : Reg3) : KeepsO (storePtr d a z i o g s) := by
  unfold storePtr
  dsimp only
  refine keepsO_guarded h _ _ ?_
  refine keeps_bind_pair (State.check_keeps h _ _ _ _) fun _ t ht => ?_
  refine keeps_ite ?_ ?_
  · refine keeps_bind fun _ _ => ?_
    exact keeps_ok (State.sendSc_memWf (State.setA_memWf (State.discardAhead_memWf ht) _ _) _ _)
  · refine keeps_bind_state (State.gate_keeps ht _) fun u hu => ?_
    refine keeps_bind fun _ _ => ?_
    refine keeps_ok ?_
    refine ite_memWf ?_ ?_
    · refine State.sent_memWf ?_ _
      refine State.setA_memWf ?_ _ _
      refine ite_memWf ?_ ?_
      · exact State.discardAhead_memWf (foldl_memWf _ (fun _ _ hs => State.sendBytes_memWf hs _ _ _) _ hu)
      · exact foldl_memWf _ (fun _ _ hs => State.sendBytes_memWf hs _ _ _) _ hu
    · refine State.advance_memWf ?_ _
      refine State.setA_memWf ?_ _ _
      refine ite_memWf ?_ ?_
      · exact State.discardAhead_memWf (foldl_memWf _ (fun _ _ hs => State.sendBytes_memWf hs _ _ _) _ hu)
      · exact foldl_memWf _ (fun _ _ hs => State.sendBytes_memWf hs _ _ _) _ hu

/-! ### Vector loads and stores -/

theorem vloadForm_keeps {s : State} (h : s.memWf = true) (d a : Reg5) (sp : Space) (eb : Nat)
    (dist : State → Nat → Int) (srcs : List Nat) (off : Option Word) (x : Option VExt) (g : Reg3) :
    KeepsO (vloadForm d a sp eb dist srcs off x g s) := by
  unfold vloadForm
  dsimp only
  refine keepsO_guarded h _ _ ?_
  refine keeps_bind_state (State.pops_keeps h _) fun t ht => ?_
  refine keeps_bind_pair (State.readItems_keeps ht _ _ _ _ _ _) fun _ u hu => ?_
  exact keeps_bind_state (State.putV_keeps hu _ _) fun v hv => keeps_ok (State.advance_memWf hv _)
theorem vstoreForm_keeps {s : State} (h : s.memWf = true) (d a : Reg5) (sp : Space) (eb : Nat)
    (dist : State → Nat → Int) (srcs : List Nat) (off : Option Word) (x : Option VExt) (g : Reg3) :
    KeepsO (vstoreForm d a sp eb dist srcs off x g s) := by
  unfold vstoreForm
  dsimp only
  refine keepsO_guarded h _ _ ?_
  refine keeps_bind_state (State.pops_keeps h _) fun t ht => ?_
  refine State.keeping_keeps _ _ _ ?_
  refine keeps_bind_pair (State.check_keeps ht _ _ _ _) fun _ u hu => ?_
  refine keeps_bind fun _ _ => ?_
  refine keeps_ite ?_ ?_
  · refine keeps_ok ?_
    refine ite_memWf ?_ ?_
    · exact State.sent_memWf (foldl_memWf _ (fun _ _ hs => State.sendBytes_memWf hs _ _ _) _ hu) _
    · exact State.advance_memWf (foldl_memWf _ (fun _ _ hs => State.sendBytes_memWf hs _ _ _) _ hu) _
  · exact keeps_bind_state (State.storeLocs_keeps hu _ _ _) fun v hv => keeps_ok (State.advance_memWf hv _)
theorem execSbind_keeps {s : State} (h : s.memWf = true) (d : BitVec 2) (a : Reg5) (g : Reg3) :
    KeepsO (execSbind d a g s) := by
  unfold execSbind
  refine keepsO_guarded h _ _ ?_
  refine keeps_ite (keeps_error _) ?_
  dsimp only
  refine keeps_bind_pair (State.readItems_keeps h _ _ _ _ _ _) fun _ t ht => ?_
  exact keeps_ite (keeps_error _) (keeps_ok (State.advance_memWf (State.setMy_memWf ht _) _))
theorem execSfree_keeps {s : State} (h : s.memWf = true) (d : BitVec 2) (g : Reg3) : KeepsO (execSfree d g s) :=
  keepsO_ite (keepsO_next (State.holdOn_memWf h _)) (keepsO_done h _ _ (State.setMy_memWf h _))
theorem State.writeBack_memWf {s : State} (h : s.memWf = true) (x : Nat) : (s.writeBack x).memWf = true := h
theorem State.cleanLine_memWf {s : State} (h : s.memWf = true) (pa : Nat) : (s.cleanLine pa).memWf = true :=
  State.writeBack_memWf (State.writeBack_memWf h _) _
theorem State.codeClean_memWf {s : State} (h : s.memWf = true) (p : Place) : (s.codeClean p).memWf = true :=
  ite_memWf h (State.setMy_memWf h _)
theorem State.staleLines_memWf {s : State} (h : s.memWf = true) (ls : List Place) :
    (s.staleLines ls).memWf = true := by
  refine State.mapCores_memWf h (f := fun c => if c.icache.isEmpty then c else { c with istale := c.istale ++ ls })
    fun c hc => ?_
  exact ite_core_memWf hc hc
theorem CoreSt.freshCode_memWf {c : CoreSt} (hc : c.memWf = true) : c.freshCode.memWf = true := hc
theorem State.codePublish_memWf {s : State} (h : s.memWf = true) : s.codePublish.memWf = true := by
  unfold State.codePublish
  split
  · exact h
  · exact State.staleLines_memWf (State.setMy_memWf h _) _
theorem execFence_keeps {s : State} (h : s.memWf = true) (o : Order) (sc : Scope) (g : Reg3) :
    KeepsO (execFence o sc g s) := by
  unfold execFence
  refine keepsO_guarded h _ _ ?_
  refine keeps_ite (keeps_error _) ?_
  refine keeps_ite (keeps_error _) ?_
  dsimp only
  refine keeps_ite ?_ ?_
  · refine keeps_bind_state (State.scGate_keeps h) fun t ht => ?_
    refine keeps_ok ?_
    exact State.advance_memWf (State.discardAhead_memWf (ite_memWf (State.codePublish_memWf ht) ht)) _
  · refine keeps_bind_state (keeps_ok h) fun t ht => ?_
    refine keeps_ok ?_
    exact State.advance_memWf (State.discardAhead_memWf (ite_memWf (State.codePublish_memWf ht) ht)) _
theorem readObject_keeps {s : State} (h : s.memWf = true) (a : Reg5) : KeepsW (readObject s a) := by
  unfold readObject
  dsimp only
  refine State.keeping_keepsW _ _ _ ?_
  refine keepsW_bind_pair (State.check_keeps h _ _ _ _) fun _ t ht => ?_
  refine keepsW_bind fun _ _ => ?_
  refine keepsW_bind fun _ _ => ?_
  exact keepsW_bind fun _ _ => keepsW_bind fun _ _ => keepsW_ite (keepsW_error _) (keepsW_ok ht)
theorem execAcq_keeps {s : State} (h : s.memWf = true) (a : Reg5) (g : Reg3) : KeepsO (execAcq a g s) := by
  unfold execAcq
  refine keepsO_guarded h _ _ ?_
  refine keeps_bind_triple (readObject_keeps h _) fun _ _ t ht => ?_
  exact keeps_ok (State.advance_memWf (State.discardAhead_memWf ht) _)
theorem execRel_keeps {s : State} (h : s.memWf = true) (a : Reg5) (g : Reg3) : KeepsO (execRel a g s) := by
  unfold execRel
  refine keepsO_guarded h _ _ ?_
  refine keeps_bind_triple (readObject_keeps h _) fun _ _ t ht => ?_
  exact keeps_ite (keeps_error _) (keeps_ok (State.sent_memWf (State.writeLocs_memWf ht _) _))
theorem execClean_keeps {s : State} (h : s.memWf = true) (a : Reg5) (off : Option Word) (g : Reg3) :
    KeepsO (execClean a off g s) := by
  unfold execClean
  dsimp only
  refine keepsO_guarded h _ _ ?_
  refine keeps_ite (keeps_error _) ?_
  refine keeps_ite ?_ ?_
  · split
    · exact keeps_ok (State.advance_memWf (State.codeClean_memWf h _) _)
    · exact keeps_ok (State.advance_memWf h _)
  · split
    next heq =>
      refine keeps_ok ?_
      refine State.advance_memWf ?_ _
      exact State.codeClean_memWf (State.cleanLine_memWf (snd_memWf heq (State.xlateCore_memWf h _ _)) _) _
    · exact keeps_error _
    next heq =>
      exact keeps_ok (State.advance_memWf (snd_memWf heq (State.xlateCore_memWf h _ _)) _)
theorem execCzero_keeps {s : State} (h : s.memWf = true) (a : Reg5) (off : Option Word) (g : Reg3) :
    KeepsO (execCzero a off g s) := by
  unfold execCzero
  dsimp only
  refine keepsO_guarded h _ _ ?_
  refine State.keeping_keeps _ _ _ ?_
  refine keeps_bind_pair (State.check_keeps h _ _ _ _) fun _ t ht => ?_
  refine keeps_bind fun _ _ => ?_
  exact keeps_bind_state (State.storeLocs_keeps ht _ _ _) fun u hu => keeps_ok (State.advance_memWf hu _)

/-! ### Atomics, fences and what is in flight -/

theorem atomicCheck_keeps {s : State} (h : s.memWf = true) (sp : Space) (va : Word) (n : Nat) :
    KeepsV (atomicCheck s sp va n) := by
  unfold atomicCheck
  refine keepsV_bind_pair (State.check_keeps h _ _ _ _) fun _ t ht => ?_
  exact keepsV_bind fun _ _ => keepsV_bind fun _ _ => keepsV_ok ht
theorem State.sendAtomic_keeps {t : State} (h : t.memWf = true) (ord : Order) (locs : List Loc)
    (act : Place → Nat → ScAct) {perform : Except Stop State} (hp : Keeps perform) :
    Keeps (t.sendAtomic ord locs act perform) := by
  unfold State.sendAtomic
  split
  · exact keeps_ok (State.sendSc_memWf (State.discardAhead_memWf h) _ _)
  · exact hp
theorem amoAt_keeps {s : State} (h : s.memWf = true) (sp : Space) (va : Word) (d b : Reg5) (op : AmoOp) (o : Order)
    (w : Bool) : Keeps (amoAt s sp va d b op o w) := by
  unfold amoAt
  dsimp only
  refine State.keeping_keeps _ _ _ ?_
  refine keeps_bind_pair (atomicCheck_keeps h _ _ _) fun _ t ht => ?_
  refine keeps_ite ?_ ?_
  · exact keeps_bind_state (State.enterLog_keeps ht _) fun u hu => keeps_ok (State.sent_memWf hu _)
  · refine keeps_bind fun _ _ => ?_
    refine keeps_bind fun _ _ => ?_
    refine State.sendAtomic_keeps ht _ _ _ ?_
    refine keeps_bind_state (State.gate_keeps ht _) fun u hu => ?_
    refine keeps_ite (keeps_ok (State.sent_memWf (State.fly_memWf hu _) _)) ?_
    refine keeps_ok ?_
    exact State.sent_memWf (State.setG_memWf (State.acquired_memWf (State.writeLocs_memWf hu _) _) _ _) _
theorem casRead_keeps {s : State} (h : s.memWf = true) (sp : Space) (va : Word) (n : Nat) :
    KeepsW (casRead s sp va n) := by
  unfold casRead
  refine keepsW_bind_pair (atomicCheck_keeps h _ _ _) fun _ t ht => ?_
  exact keepsW_bind fun _ _ => keepsW_bind fun _ _ => keepsW_ok ht
theorem casAt_keeps {s : State} (h : s.memWf = true) (sp : Space) (va : Word) (d b : Reg5) (f : CasFail) (o : Order)
    (w : Bool) : Keeps (casAt s sp va d b f o w) := by
  unfold casAt
  dsimp only
  refine State.keeping_keeps _ _ _ ?_
  refine keeps_bind_triple (casRead_keeps h _ _ _) fun _ _ t ht => ?_
  refine State.sendAtomic_keeps ht _ _ _ ?_
  refine keeps_bind_state (State.gate_keeps ht _) fun u hu => ?_
  refine keeps_ok ?_
  refine State.sent_memWf ?_ _
  exact State.setG_memWf (State.acquired_memWf (ite_memWf (State.writeLocs_memWf hu _) hu) _) _ _
theorem State.arriveCell_memWf {s : State} (h : s.memWf = true) (core off : Nat) :
    (s.arriveCell core off).memWf = true := State.putCore_memWf h _ _ _
theorem State.amofPerform_memWf {s : State} (h : s.memWf = true) (target off : Nat) (op : AmoOp)
    (n b dst dstOff : Nat) : (s.amofPerform target off op n b dst dstOff).memWf = true :=
  State.arriveCell_memWf (State.putCore_memWf (State.putCore_memWf h _ _ _) _ _ _) _ _
theorem execAmof_keeps {s : State} (h : s.memWf = true) (d a : Reg3) (b : Reg5) (op : AmoOp) (o : Order) (w : Bool) :
    KeepsO (execAmof d a b op o w s) := by
  unfold execAmof
  dsimp only
  refine keepsO_run h ?_
  refine keeps_bind_pair (State.checkDist_keeps h _ _ _) fun _ t ht => ?_
  refine keeps_bind fun _ _ => ?_
  refine keeps_ite (keeps_ok (State.sendSc_memWf (State.discardAhead_memWf ht) _ _)) ?_
  refine keeps_bind_state (State.gate_keeps ht _) fun u hu => ?_
  refine keeps_ok ?_
  refine State.sent_memWf ?_ _
  refine ite_memWf ?_ (State.fly_memWf hu _)
  exact State.amofPerform_memWf (State.acquired_memWf hu _) _ _ _ _ _ _ _
theorem State.unfly_memWf {s : State} (h : s.memWf = true) (n : Nat) : (s.unfly n).memWf = true := h
theorem State.refly_memWf {s : State} (h : s.memWf = true) (n : Nat) (f : Flight) : (s.refly n f).memWf = true := h
theorem execMemoryRequestAtHome_keeps {s : State} (h : s.memWf = true) (n : Nat) :
    KeepsO (execMemoryRequestAtHome n s) := by
  unfold execMemoryRequestAtHome
  refine keepsO_next ?_
  split
  · refine ite_memWf h ?_
    refine ite_memWf (State.refly_memWf h _ _) ?_
    dsimp only
    split
    · refine ite_memWf ?_ (State.refly_memWf h _ _)
      exact State.memWf_of_eq (State.consumePoison_memWf (State.at_memWf_of h _ _) _ _ _ _ _)
    · exact State.unfly_memWf (State.setBytes_memWf h _ _) _
    · exact State.unfly_memWf (State.setBytes_memWf h _ _) _
  · exact h
theorem State.pendAsync_memWf {s : State} (h : s.memWf = true) (core ctx : Nat) (a : Async) :
    (s.pendAsync core ctx a).memWf = true := State.setCtxAt_memWf h _ _ _
theorem State.reissueLoad_memWf {s : State} (h : s.memWf = true) (n c k : Nat) (org : Origin) :
    (s.reissueLoad n c k org).memWf = true := by
  unfold State.reissueLoad
  exact State.memWf_of_eq (State.setCtxAt_memWf h _ _ _)
theorem execRefusedRequestReissue_keeps {s : State} (h : s.memWf = true) (n : Nat) :
    KeepsO (execRefusedRequestReissue n s) := by
  unfold execRefusedRequestReissue
  refine keepsO_next ?_
  split
  · dsimp only
    split
    · refine ite_memWf h ?_
      refine ite_memWf ?_ ?_
      · refine State.pendAsync_memWf ?_ _ _ _
        exact State.unfly_memWf (State.memWf_of_eq (State.xlateFor_memWf (State.at_memWf_of h _ _) _ _ _)) _
      · refine State.refly_memWf ?_ _ _
        exact State.memWf_of_eq (State.xlateFor_memWf (State.at_memWf_of h _ _) _ _ _)
    · refine ite_memWf (State.reissueLoad_memWf h _ _ _ _) ?_
      exact State.pendAsync_memWf (State.unfly_memWf h _) _ _ _
    · refine ite_memWf (State.reissueLoad_memWf h _ _ _ _) ?_
      exact State.pendAsync_memWf (State.unfly_memWf h _) _ _ _
    · refine ite_memWf (State.reissueLoad_memWf h _ _ _ _) ?_
      exact State.pendAsync_memWf (State.unfly_memWf h _) _ _ _
    · refine ite_memWf (State.reissueLoad_memWf h _ _ _ _) ?_
      exact State.pendAsync_memWf (State.unfly_memWf h _) _ _ _
    · exact h
    · refine ite_memWf (State.reissueLoad_memWf h _ _ _ _) ?_
      refine ite_memWf h ?_
      exact State.postFault_memWf (State.setCore_own_memWf (State.unfly_memWf h _) _ _) _ _ _ _ _
  · exact h
theorem execAccessResponse_keeps {s : State} (h : s.memWf = true) (n : Nat) : KeepsO (execAccessResponse n s) := by
  unfold execAccessResponse
  refine keepsO_next ?_
  split
  · exact ite_memWf h (State.deliver_memWf (State.unfly_memWf h _) _ _ _ _ _)
  · exact h
theorem execRemoteCoreMemoryAccess_keeps {s : State} (h : s.memWf = true) (n : Nat) :
    KeepsO (execRemoteCoreMemoryAccess n s) := by
  unfold execRemoteCoreMemoryAccess
  refine keepsO_next ?_
  split
  · exact ite_memWf h (State.putCore_memWf (State.unfly_memWf h _) _ _ _)
  · exact h
theorem State.readBy_memWf {t : State} (h : t.memWf = true) {s : State} (core ctx : Nat) (q : Place) (n : Nat) :
    (t.readBy s core ctx q n).memWf = true := by
  unfold State.readBy
  refine ite_memWf ?_ h
  exact State.memWf_of_eq (State.consumePoison_memWf (State.at_memWf_of h _ _) _ _ _ _ _)
theorem execAmofArrival_keeps {s : State} (h : s.memWf = true) (n : Nat) : KeepsO (execAmofArrival n s) := by
  unfold execAmofArrival
  refine keepsO_next ?_
  split
  · refine ite_memWf h ?_
    dsimp only
    refine State.readBy_memWf ?_ _ _ _ _
    refine ite_memWf ?_ ?_
    · exact State.setCtxAt_memWf (State.amofPerform_memWf (State.unfly_memWf h _) _ _ _ _ _ _ _) _ _ _
    · exact State.amofPerform_memWf (State.unfly_memWf h _) _ _ _ _ _ _ _
  · exact h
theorem execPcieReadCompletion_keeps {s : State} (h : s.memWf = true) (n : Nat) :
    KeepsO (execPcieReadCompletion n s) := by
  unfold execPcieReadCompletion
  refine keepsO_next ?_
  split
  · refine ite_memWf h ?_
    exact ite_memWf (State.refly_memWf h _ _) (State.deliver_memWf (State.unfly_memWf h _) _ _ _ _ _)
  · exact h
theorem State.scFinish_memWf {s : State} (h : s.memWf = true) (n : Nat) (o : ScOp) (d : Nat) (v : Word) :
    (s.scFinish n o d v).memWf = true := State.setCtxAt_memWf (State.deliver_memWf h _ _ _ _ _) _ _ _
theorem State.scWord_memWf {s : State} (h : s.memWf = true) (n : Nat) (o : ScOp) (p : Place) (size d : Nat)
    (new : Nat → Option Nat) : (s.scWord n o p size d new).memWf = true := by
  unfold State.scWord
  dsimp only
  refine State.readBy_memWf ?_ _ _ _ _
  refine State.scFinish_memWf ?_ _ _ _ _
  split
  · split
    · exact State.putCore_memWf h _ _ _
    · exact State.setBytes_memWf h _ _
  · exact h
theorem State.scTranslate_memWf {s : State} (h : s.memWf = true) (n : Nat) (o : ScOp) (va : Word)
    (act : Place → Nat → ScAct) : (s.scTranslate n o va act).memWf = true := by
  unfold State.scTranslate
  dsimp only
  split
  · refine ite_memWf ?_ (State.memWf_of_eq (State.xlateFor_memWf (State.at_memWf_of h _ _) _ _ _))
    refine State.pendAsync_memWf ?_ _ _ _
    refine State.scFinish_memWf ?_ _ _ _ _
    exact State.memWf_of_eq (State.xlateFor_memWf (State.at_memWf_of h _ _) _ _ _)
  · refine ite_memWf ?_ ?_
    · exact State.pendAsync_memWf (State.scFinish_memWf h _ _ _ _) _ _ _
    · exact State.memWf_of_eq (State.holdOn_memWf (State.at_memWf_of h _ _) _)
  · exact State.pendAsync_memWf (State.scFinish_memWf h _ _ _ _) _ _ _
  · exact State.pendAsync_memWf (State.scFinish_memWf h _ _ _ _) _ _ _
  · exact State.pendAsync_memWf (State.scFinish_memWf h _ _ _ _) _ _ _
  · exact State.pendAsync_memWf (State.scFinish_memWf h _ _ _ _) _ _ _
  · exact h
theorem State.scLeased_memWf {s : State} (h : s.memWf = true) {perform : State} (hperform : perform.memWf = true)
    (n : Nat) (o : ScOp) (va : Word) (p : Place) (e : Nat) (act : Place → Nat → ScAct) :
    (s.scLeased n o va p e act perform).memWf = true :=
  ite_memWf hperform (ite_memWf h (ite_memWf (State.scTranslate_memWf h _ _ _ _) hperform))
theorem State.scPerform_memWf {s : State} (h : s.memWf = true) (n : Nat) (o : ScOp) :
    (s.scPerform n o).memWf = true := by
  unfold State.scPerform
  split
  · exact h
  · exact h
  · exact State.scLeased_memWf h (State.scWord_memWf h _ _ _ _ _ _) _ _ _ _ _ _
  · exact State.scLeased_memWf h (State.scWord_memWf h _ _ _ _ _ _) _ _ _ _ _ _
  · refine State.readBy_memWf ?_ _ _ _ _
    exact State.scFinish_memWf (State.amofPerform_memWf h _ _ _ _ _ _ _) _ _ _ _
  · exact State.scFinish_memWf (State.putCore_memWf h _ _ _) _ _ _ _
theorem execScOperationComplete_keeps {s : State} (h : s.memWf = true) (n : Nat) :
    KeepsO (execScOperationComplete n s) := by
  unfold execScOperationComplete
  refine keepsO_next ?_
  split
  · exact ite_memWf (State.scPerform_memWf h _ _) h
  · exact h

/-! ### Exact geometry -/

theorem geoForm_keeps {s : State} (h : s.memWf = true) (o : GeoOp) (dbl : Bool) (d a b : Reg5) (tb nf : Bool)
    (g : Reg3) : KeepsO (geoForm o dbl d a b tb nf g s) := by
  unfold geoForm
  refine keepsO_guarded h _ _ ?_
  dsimp only
  refine keeps_bind_state (State.pops_keeps h _) fun t ht => ?_
  split
  · exact keeps_error _
  · refine keeps_bind_state (State.putV_keeps (State.raise_memWf ht _) _ _) fun u hu => ?_
    refine keeps_ite (keeps_ok (State.advance_memWf hu _)) ?_
    exact keeps_ok (State.advance_memWf (State.setMe_own_memWf ht _) _)
theorem CoreSt.withOwn_memWf {a b : CoreSt} (hb : b.memWf = true) : (a.withOwn b).memWf = true := hb
theorem CoreSt.follows_memWf {b u : CoreSt} (hu : u.memWf = true) : (b.follows u).memWf = true := hu
theorem State.eguLands_keeps {s : State} (h : s.memWf = true) (core : Nat) (p : Pending) (ps : List Pending) :
    KeepsSome (s.eguLands core p ps) := by
  unfold State.eguLands
  split
  next u hu =>
    have hu : u.memWf = true := by
      refine State.putV_keeps (State.raise_memWf (State.at_memWf_of ?_ _ _) _) _ _ u hu
      exact State.setCore_memWf h _ (State.core_memWf h core)
    refine keepsSome_some (State.memWf_of_eq ?_)
    exact State.setCore_memWf hu _ (State.core_memWf hu core)
  next => exact keepsSome_none
theorem execEguCompletion_keeps {s : State} (h : s.memWf = true) (core : Nat) :
    KeepsO (execEguCompletion core s) := by
  unfold execEguCompletion
  refine keepsO_next ?_
  split
  · exact h
  · split
    · exact h
    next heq1 =>
      dsimp only
      refine ite_memWf ?_ (State.eguLands_keeps h _ _ _ _ heq1)
      split
      next heq2 =>
        refine State.setCore_memWf (State.eguLands_keeps h _ _ _ _ heq1) _ ?_
        refine CoreSt.follows_memWf ?_
        refine State.core_memWf ?_ _
        refine memWf_of_some heq2 ?_
        refine State.eguLands_keeps ?_ _ _ _
        exact State.setCore_memWf h _ (CoreSt.withOwn_memWf (State.core_memWf h _))
      · exact h

/-! ### Vector instructions -/

theorem vecForm_keeps {s : State} (h : s.memWf = true) (d : Reg5) (srcs : List Reg5) (eb : Nat) (x : Option VExt)
    (g : Reg3) (len : Nat) (f : State → Nat → Nat × Flags) : KeepsO (vecForm d srcs eb x g len s f) := by
  unfold vecForm
  refine keepsO_guarded h _ _ ?_
  refine keeps_bind_state (State.pops_keeps h _) fun t ht => ?_
  dsimp only
  refine keeps_bind_state (State.putV_keeps (State.raise_memWf ht _) _ _) fun u hu => ?_
  exact keeps_ok (State.advance_memWf hu _)
theorem vf1_keeps {s : State} (h : s.memWf = true) (m : VF) (d a : Reg5) (x : Option VExt) (g : Reg3)
    (op : State → Nat → Nat × Flags) : KeepsO (vf1 m d a x g s op) := vecForm_keeps h _ _ _ _ _ _ _
theorem vf2_keeps {s : State} (h : s.memWf = true) (m : VF) (d a b : Reg5) (x : Option VExt) (g : Reg3)
    (op : State → Nat → Nat → Nat × Flags) : KeepsO (vf2 m d a b x g s op) := vecForm_keeps h _ _ _ _ _ _ _
theorem vf3_keeps {s : State} (h : s.memWf = true) (m : VF) (d a b : Reg5) (x : Option VExt) (g : Reg3)
    (op : Fp → Fp → Fp → Fp × Fp × Fp) : KeepsO (vf3 m d a b x g s op) := vecForm_keeps h _ _ _ _ _ _ _
theorem vi2_keeps {s : State} (h : s.memWf = true) (m : VI) (d a b : Reg5) (x : Option VExt) (g : Reg3)
    (op : (w : Nat) → BitVec w → BitVec w → BitVec w) : KeepsO (vi2 m d a b x g s op) := vecForm_keeps h _ _ _ _ _ _ _
theorem predForm_keeps {s : State} (h : s.memWf = true) (d : Reg3) (a b : Reg5) (eb : Nat) (x : Option VExt)
    (g : Reg3) (f : State → Nat → Bool × Flags) : KeepsO (predForm d a b eb x g s f) := by
  unfold predForm
  dsimp only
  refine keepsO_guarded h _ _ ?_
  refine keeps_bind_state (State.pops_keeps h _) fun t ht => ?_
  exact keeps_ok (State.advance_memWf (State.setP_memWf (State.raise_memWf ht _) _ _) _)
theorem moveForm_keeps {s : State} (h : s.memWf = true) (e : ES) (d : Reg5) (srcs : List Reg5) (x : Option VExt)
    (g : Reg3) (len : Nat) (f : State → Nat → Nat) : KeepsO (moveForm e d srcs x g len s f) :=
  vecForm_keeps h _ _ _ _ _ _ _
theorem execVext_keeps {s : State} (h : s.memWf = true) (e : ES) (d a : Reg5) (b : Src) (x : Option VExt) (g : Reg3) :
    KeepsO (execVext e d a b x g s) := by
  unfold execVext
  refine keepsO_guarded h _ _ ?_
  refine keeps_bind_state (State.pops_keeps h _) fun t ht => ?_
  exact keeps_ok (State.advance_memWf (State.setG_memWf ht _ _) _)
theorem execVins_keeps {s : State} (h : s.memWf = true) (e : ES) (d a : Reg5) (b : Src) (x : Option VExt) (g : Reg3) :
    KeepsO (execVins e d a b x g s) := by
  unfold execVins
  dsimp only
  refine keepsO_guarded h _ _ ?_
  exact keeps_bind_state (State.putV_keeps h _ _) fun t ht => keeps_ok (State.advance_memWf ht _)
theorem execVcomp_keeps {s : State} (h : s.memWf = true) (e : ES) (d a : Reg5) (x : Option VExt) (g : Reg3) :
    KeepsO (execVcomp e d a x g s) := by
  unfold execVcomp
  dsimp only
  refine keepsO_guarded h _ _ ?_
  refine keeps_bind_state (State.pops_keeps h _) fun t ht => ?_
  exact keeps_bind_state (State.putV_keeps ht _ _) fun u hu => keeps_ok (State.advance_memWf hu _)
theorem State.roundings_memWf {s : State} (h : s.memWf = true) (df : Fmt) (n : Nat) :
    (s.roundings df n).2.memWf = true := by
  unfold State.roundings
  split
  · exact State.drawn_memWf h _
  · exact h
theorem execVcvt_keeps {s : State} (h : s.memWf = true) (df sf : Fmt) (sat : Bool) (d a : Reg5) (x : VExt)
    (g : Reg3) : KeepsO (execVcvt df sf sat d a x g s) := by
  unfold execVcvt
  refine keepsO_guarded h _ _ ?_
  refine keeps_bind_state (State.pops_keeps h _) fun t ht => ?_
  dsimp only
  refine keeps_bind_state ?_ fun u hu => keeps_ok (State.advance_memWf hu _)
  refine State.putV_keeps ?_ _ _
  refine ite_memWf ?_ (State.raise_memWf (State.roundings_memWf ht _ _) _)
  refine State.setMe_memWf (State.raise_memWf (State.roundings_memWf ht _ _) _) ?_
  exact CoreSt.spFlag_memWf (State.me_memWf (State.raise_memWf (State.roundings_memWf ht _ _) _)) _ _
theorem redForm_keeps {s : State} (h : s.memWf = true) (α : Type) (f : FI) (d a : Reg5) (x : Option VExt) (g : Reg3)
    (lane : Nat → α) (op : State → α → α → α × Flags) (word : Option α → Word) :
    KeepsO (redForm f d a x g s lane op word) := by
  unfold redForm
  dsimp only
  refine keepsO_guarded h _ _ ?_
  refine keeps_bind_state (State.pops_keeps h _) fun t ht => ?_
  exact keeps_ok (State.advance_memWf (State.setG_memWf (State.raise_memWf ht _) _ _) _)
theorem execVredAdd_keeps {s : State} (h : s.memWf = true) (f : FI) (d a : Reg5) (x : Option VExt) (g : Reg3) :
    KeepsO (execVredAdd f d a x g s) := by
  unfold execVredAdd
  split
  · exact redForm_keeps h _ _ _ _ _ _ _ _ _
  · exact redForm_keeps h _ _ _ _ _ _ _ _ _
theorem execVredMin_keeps {s : State} (h : s.memWf = true) (f : FI) (d a : Reg5) (x : Option VExt) (g : Reg3) :
    KeepsO (execVredMin f d a x g s) := by
  unfold execVredMin
  split
  · exact redForm_keeps h _ _ _ _ _ _ _ _ _
  · exact redForm_keeps h _ _ _ _ _ _ _ _ _
theorem execVredMax_keeps {s : State} (h : s.memWf = true) (f : FI) (d a : Reg5) (x : Option VExt) (g : Reg3) :
    KeepsO (execVredMax f d a x g s) := by
  unfold execVredMax
  split
  · exact redForm_keeps h _ _ _ _ _ _ _ _ _
  · exact redForm_keeps h _ _ _ _ _ _ _ _ _
theorem redBits_keeps {s : State} (h : s.memWf = true) (f : VI) (d a : Reg5) (x : Option VExt) (g : Reg3)
    (op : Nat → Nat → Nat) (empty : Nat) : KeepsO (redBits f d a x g s op empty) := redForm_keeps h _ _ _ _ _ _ _ _ _
theorem execVbtst_keeps {s : State} (h : s.memWf = true) (e : ES) (d : Reg3) (a b : Reg5) (x : Option VExt)
    (g : Reg3) : KeepsO (execVbtst e d a b x g s) := by
  unfold execVbtst
  dsimp only
  refine keepsO_guarded h _ _ ?_
  refine keeps_bind_state (State.pops_keeps h _) fun t ht => ?_
  refine keeps_bind fun _ _ => ?_
  refine keeps_bind fun _ _ => ?_
  exact keeps_bind fun _ _ => keeps_ok (State.advance_memWf (State.setP_memWf ht _ _) _)

/-! ### Tiles -/

theorem CoreSt.writeTile_memWf {c : CoreSt} (hc : c.memWf = true) (t v : Nat) (written : List Nat) :
    (c.writeTile t v written).memWf = true := hc
theorem State.readRows_keeps {s : State} (h : s.memWf = true) (sp : Space) (items : List Item) :
    KeepsV (s.readRows sp items) := by
  unfold State.readRows
  refine State.keeping_keepsV _ _ _ ?_
  refine keepsV_bind_pair (State.check_keeps h _ _ _ _) fun _ t ht => ?_
  exact keepsV_bind fun _ _ => keepsV_bind fun _ _ => keepsV_bind fun _ _ => keepsV_ok ht
theorem tileLoad_keeps {s : State} (h : s.memWf = true) (op : TileOp) (d : Reg3) (a b : Reg5) (sp : Space)
    (off : Word) (len : Nat) : Keeps (tileLoad op d a b sp off len s) := by
  unfold tileLoad
  refine keeps_bind fun _ _ => ?_
  dsimp only
  refine keeps_bind_pair (State.readRows_keeps h _ _) fun _ t ht => ?_
  refine keeps_ite ?_ ?_
  · split
    · refine keeps_bind fun _ _ => ?_
      refine keeps_ok ?_
      exact State.advance_memWf (State.setMe_memWf ht (CoreSt.writeTile_memWf (State.me_memWf ht) _ _ _)) _
    · refine keeps_ok ?_
      exact State.advance_memWf (State.setMe_memWf ht (CoreSt.writeTile_memWf (State.me_memWf ht) _ _ _)) _
  · refine keeps_ok ?_
    exact State.advance_memWf (State.setMe_memWf ht (CoreSt.writeTile_memWf (State.me_memWf ht) _ _ _)) _
theorem tileStore_keeps {s : State} (h : s.memWf = true) (d : Reg3) (a b : Reg5) (sp : Space) (off : Word)
    (len : Nat) : Keeps (tileStore d a b sp off len s) := by
  unfold tileStore
  refine keeps_bind fun _ _ => ?_
  dsimp only
  refine State.keeping_keeps _ _ _ ?_
  refine keeps_bind_pair (State.check_keeps h _ _ _ _) fun _ t ht => ?_
  refine keeps_bind fun _ _ => ?_
  refine keeps_bind fun _ _ => ?_
  refine keeps_ite ?_ ?_
  · refine keeps_ok ?_
    refine ite_memWf ?_ ?_
    · exact State.sent_memWf (foldl_memWf _ (fun _ _ hs => State.sendBytes_memWf hs _ _ _) _ ht) _
    · exact State.advance_memWf (foldl_memWf _ (fun _ _ hs => State.sendBytes_memWf hs _ _ _) _ ht) _
  · exact keeps_bind_state (State.storeLocs_keeps ht _ _ _) fun u hu => keeps_ok (State.advance_memWf hu _)
theorem tileForm_keeps {s : State} (h : s.memWf = true) (op : TileOp) (d : Reg3) (a b : Reg5) (sp : Space)
    (off : Word) (len : Nat) (g : Reg3) : KeepsO (tileForm op d a b sp off len g s) := by
  unfold tileForm
  refine keepsO_guarded h _ _ ?_
  split
  · exact tileStore_keeps h _ _ _ _ _ _
  · exact tileLoad_keeps h _ _ _ _ _ _ _
theorem execTzero_keeps {s : State} (h : s.memWf = true) (d g : Reg3) : KeepsO (execTzero d g s) :=
  keepsO_done h _ _ (State.setMe_memWf h (CoreSt.writeTile_memWf (State.me_memWf h) _ _ _))
theorem CoreSt.setCells_memWf {c : CoreSt} (hc : c.memWf = true) (l : List ((Nat × Nat) × Half)) :
    (c.setCells l).memWf = true := foldl_core_memWf _ (fun _ _ hs => CoreSt.setCell_memWf_of hs _ _ _) _ hc
theorem execAccz_keeps {s : State} (h : s.memWf = true) (r : Region) (g : Reg3) : KeepsO (execAccz r g s) := by
  unfold execAccz
  refine keepsO_guarded h _ _ ?_
  dsimp only
  refine keeps_bind fun _ _ => ?_
  refine keeps_ok ?_
  exact State.advance_memWf (State.setMe_memWf h (CoreSt.setCells_memWf (State.me_memWf h) _)) _
theorem execAccrd_keeps {s : State} (h : s.memWf = true) (d : Reg5) (r : Region) (g : Reg3) :
    KeepsO (execAccrd d r g s) := by
  unfold execAccrd
  refine keepsO_guarded h _ _ ?_
  dsimp only
  refine keeps_bind fun _ _ => ?_
  exact keeps_bind fun _ _ => keeps_ok (State.advance_memWf (State.setG_memWf h _ _) _)
theorem execAccwr_keeps {s : State} (h : s.memWf = true) (a : Reg5) (r : Region) (g : Reg3) :
    KeepsO (execAccwr a r g s) := by
  unfold execAccwr
  refine keepsO_guarded h _ _ ?_
  exact keeps_bind fun _ _ => keeps_ok (State.advance_memWf (State.setMe_own_memWf h _) _)
theorem execAccld_keeps {s : State} (h : s.memWf = true) (a : Reg5) (r : Region) (off : Option Word) (g : Reg3) :
    KeepsO (execAccld a r off g s) := by
  unfold execAccld
  dsimp only
  refine keepsO_guarded h _ _ ?_
  refine keeps_bind fun _ _ => ?_
  refine keeps_bind_pair (State.readItems_keeps h _ _ _ _ _ _) fun _ t ht => ?_
  refine keeps_ok ?_
  exact State.advance_memWf (State.setMe_memWf ht (CoreSt.setCells_memWf (State.me_memWf ht) _)) _
theorem execAccst_keeps {s : State} (h : s.memWf = true) (a : Reg5) (r : Region) (off : Option Word) (g : Reg3) :
    KeepsO (execAccst a r off g s) := by
  unfold execAccst
  dsimp only
  refine keepsO_guarded h _ _ ?_
  refine keeps_bind fun _ _ => ?_
  refine keeps_bind fun _ _ => ?_
  exact keeps_bind_state (State.writeItems_keeps h _ _ _ _) fun t ht => keeps_ok (State.advance_memWf ht _)

/-! ### The matrix unit -/

theorem execMma_keeps {s : State} (h : s.memWf = true) (a b : Reg3) (r : Region) (g : Reg3) :
    KeepsO (execMma a b r g s) := by
  unfold execMma
  refine keepsO_guarded h _ _ ?_
  dsimp only
  refine keeps_bind fun _ _ => ?_
  refine keeps_bind fun _ _ => ?_
  refine keeps_bind fun _ _ => ?_
  refine keeps_bind fun _ _ => ?_
  refine keeps_ok ?_
  refine State.advance_memWf ?_ _
  refine State.setMe_memWf (State.raise_memWf h _) ?_
  exact CoreSt.setCells_memWf (State.me_memWf (State.raise_memWf h _)) _
theorem epilogue_memWf {c : CoreSt} (hc : c.memWf = true) (t : Nat) (f : Fmt) (k : Cells) (act : Act) (sat : Bool)
    (bias : List Half) (rs : List Rounding) : (epilogue c t f k act sat bias rs).1.memWf = true :=
  CoreSt.writeTile_memWf hc _ _ _
theorem readBias_keeps {s : State} (h : s.memWf = true) (bias : Bool) (a : Reg5) (n : Nat) :
    KeepsV (readBias s bias a n) := by
  unfold readBias
  refine keepsV_ite (keepsV_ok h) ?_
  refine keepsV_ite (keepsV_error _) ?_
  refine keepsV_bind fun _ _ => ?_
  exact keepsV_bind_pair (State.readItems_keeps h _ _ _ _ _ _) fun _ t ht => keepsV_ok ht
theorem execMxepi_keeps {s : State} (h : s.memWf = true) (d : Reg3) (a : Reg5) (r : Region) (act : Act)
    (sat bias : Bool) (g : Reg3) : KeepsO (execMxepi d a r act sat bias g s) := by
  unfold execMxepi
  refine keepsO_guarded h _ _ ?_
  dsimp only
  refine keeps_bind fun _ _ => ?_
  refine keeps_bind fun _ _ => ?_
  refine keeps_bind_pair (readBias_keeps h _ _ _) fun _ t ht => ?_
  refine keeps_bind fun _ _ => ?_
  refine keeps_ok ?_
  refine State.advance_memWf ?_ _
  refine State.raise_memWf ?_ _
  refine State.setMe_memWf (State.roundings_memWf ht _ _) ?_
  exact epilogue_memWf (State.me_memWf (State.roundings_memWf ht _ _)) _ _ _ _ _ _ _
theorem execMxgate_keeps {s : State} (h : s.memWf = true) (d : Reg3) (r : Region) (k : Gate) (g : Reg3) :
    KeepsO (execMxgate d r k g s) := by
  unfold execMxgate
  refine keepsO_guarded h _ _ ?_
  dsimp only
  refine keeps_bind fun _ _ => ?_
  refine keeps_bind fun _ _ => ?_
  refine keeps_bind fun _ _ => ?_
  refine keeps_ok ?_
  refine State.advance_memWf ?_ _
  refine State.raise_memWf ?_ _
  refine State.setMe_memWf (State.roundings_memWf h _ _) ?_
  refine CoreSt.writeTile_memWf ?_ _ _ _
  exact CoreSt.setCells_memWf (State.me_memWf (State.roundings_memWf h _ _)) _
theorem State.reduceAt_memWf {s : State} (h : s.memWf = true) (op : AmoOp) (p : Place) (vs : List Half) :
    (s.reduceAt op p vs).memWf = true := by
  induction vs generalizing s p with
  | nil => exact h
  | cons v vs ih => exact ih (State.setBytes_memWf h _ _) _
theorem State.reduceParts_memWf {s : State} (h : s.memWf = true) (op : AmoOp) (parts : List (Loc × List Half)) :
    (s.reduceParts op parts).memWf = true := by
  unfold State.reduceParts
  refine ite_memWf ?_ (State.fly_memWf h _)
  refine foldl_memWf _ (fun s a hs => ?_) _ h
  split
  · exact State.reduceAt_memWf hs _ _ _
  · exact hs
theorem execMxred_keeps {s : State} (h : s.memWf = true) (int : Bool) (a : Reg5) (r : Region) (off : Option Word)
    (g : Reg3) : KeepsO (execMxred int a r off g s) := by
  unfold execMxred
  dsimp only
  refine keepsO_guarded h _ _ ?_
  refine keeps_bind fun _ _ => ?_
  refine keeps_ite (keeps_error _) ?_
  refine keeps_bind fun _ _ => ?_
  refine State.keeping_keeps _ _ _ ?_
  refine keeps_bind_pair (State.check_keeps h _ _ _ _) fun _ t ht => ?_
  refine keeps_bind fun _ _ => ?_
  refine keeps_bind fun _ _ => ?_
  refine keeps_bind fun _ _ => ?_
  refine keeps_bind fun _ _ => ?_
  refine keeps_bind_state (State.enterLog_keeps ht _) fun u hu => ?_
  exact keeps_ok (State.sent_memWf (State.reduceParts_memWf hu _ _) _)
theorem execMxsend_keeps {s : State} (h : s.memWf = true) (d a b : Reg5) (c : BitVec 2) (g : Reg3) :
    KeepsO (execMxsend d a b c g s) := by
  unfold execMxsend
  refine keepsO_guarded h _ _ ?_
  dsimp only
  refine keeps_bind_pair (State.readItems_keeps h _ _ _ _ _ _) fun _ t ht => ?_
  split
  · exact keeps_ok (State.advance_memWf (State.setG_memWf ht _ _) _)
  · refine keeps_ok ?_
    exact State.sent_memWf (State.setG_memWf (State.fly_memWf (State.setMe_own_memWf ht _) _) _ _) _

/-! ### The sum-product engine -/

theorem CoreSt.setXs_memWf {c : CoreSt} (hc : c.memWf = true) (first : Nat) (vs : List (BitVec 128)) :
    (c.setXs first vs).memWf = true := by
  induction vs generalizing c first with
  | nil => exact hc
  | cons v vs ih => exact ih (CoreSt.setX_memWf_of hc _ _) _
theorem State.speFlags_memWf {s : State} (h : s.memWf = true) (p : SpePend) : (s.speFlags p).memWf = true :=
  State.setMe_memWf h (CoreSt.spFlag_memWf (CoreSt.setCtx_memWf_of (State.me_memWf h) _ _) _ _)
theorem State.putSpe_memWf {s : State} (h : s.memWf = true) (first : Nat) (vs : List (BitVec 128)) (rs : List SpeRes)
    (mem : Option (Nat × Nat)) : (s.putSpe first vs rs mem).memWf = true := by
  unfold State.putSpe
  dsimp only
  refine ite_memWf ?_ ?_
  · exact State.speFlags_memWf (State.setMe_memWf h (CoreSt.setXs_memWf (State.me_memWf h) _ _)) _
  · exact State.setMe_own_memWf (State.setMe_memWf h (CoreSt.setXs_memWf (State.me_memWf h) _ _)) _
theorem speUp_keeps {s : State} (h : s.memWf = true) (max : Bool) (xd xa : BitVec 8) (x : SpeExt) (g : Reg3) :
    KeepsO (speUp max xd xa x g s) := by
  unfold speUp
  refine keepsO_guarded h _ _ ?_
  refine keeps_bind fun _ _ => ?_
  refine keeps_bind fun _ _ => ?_
  exact keeps_bind fun _ _ => keeps_ok (State.advance_memWf (State.putSpe_memWf h _ _ _ _) _)
theorem execSpdn_keeps {s : State} (h : s.memWf = true) (xd xa : BitVec 8) (e : SpeExt) (g : Reg3) :
    KeepsO (execSpdn xd xa e g s) := by
  unfold execSpdn
  refine keepsO_guarded h _ _ ?_
  refine keeps_bind fun _ _ => ?_
  refine keeps_bind fun _ _ => ?_
  exact keeps_bind fun _ _ => keeps_ok (State.advance_memWf (State.putSpe_memWf h _ _ _ _) _)
theorem execSptree_keeps {s : State} (h : s.memWf = true) (xd xa : BitVec 8) (e : SpeExt) (g : Reg3) :
    KeepsO (execSptree xd xa e g s) := by
  unfold execSptree
  refine keepsO_guarded h _ _ ?_
  refine keeps_bind fun _ _ => ?_
  refine keeps_bind fun _ _ => ?_
  exact keeps_bind fun _ _ => keeps_ok (State.advance_memWf (State.putSpe_memWf h _ _ _ _) _)
theorem speMem_keeps {s : State} (h : s.memWf = true) (store : Bool) (xd : BitVec 8) (a : Reg5) (n : Nat)
    (off : Option Word) (len : Nat) (g : Reg3) : KeepsO (speMem store xd a n off len g s) := by
  unfold speMem
  refine keepsO_guarded h _ _ ?_
  refine keeps_bind fun _ _ => ?_
  dsimp only
  refine keeps_ite ?_ ?_
  · refine keeps_bind_pair (State.check_keeps h _ _ _ _) fun _ t ht => ?_
    refine keeps_bind fun _ _ => ?_
    exact keeps_bind_state (State.storeLocs_keeps ht _ _ _) fun u hu => keeps_ok (State.advance_memWf hu _)
  · refine keeps_bind_pair (State.readItems_keeps h _ _ _ _ _ _) fun _ t ht => ?_
    exact keeps_ok (State.advance_memWf (State.putSpe_memWf ht _ _ _ _) _)
theorem execSpmov_keeps {s : State} (h : s.memWf = true) (xd xa : BitVec 8) (g : Reg3) :
    KeepsO (execSpmov xd xa g s) := by
  unfold execSpmov
  refine keepsO_guarded h _ _ ?_
  refine keeps_bind fun _ _ => ?_
  exact keeps_bind fun _ _ => keeps_ok (State.advance_memWf (State.putSpe_memWf h _ _ _ _) _)
theorem execSpset_keeps {s : State} (h : s.memWf = true) (xd : BitVec 8) (a : Reg5) (g : Reg3) :
    KeepsO (execSpset xd a g s) := by
  unfold execSpset
  refine keepsO_guarded h _ _ ?_
  exact keeps_bind fun _ _ => keeps_ok (State.advance_memWf (State.putSpe_memWf h _ _ _ _) _)
theorem execSpnorm_keeps {s : State} (h : s.memWf = true) (xd xa : BitVec 8) (g : Reg3) :
    KeepsO (execSpnorm xd xa g s) := by
  unfold execSpnorm
  refine keepsO_guarded h _ _ ?_
  refine keeps_bind fun _ _ => ?_
  exact keeps_bind fun _ _ => keeps_ok (State.advance_memWf (State.putSpe_memWf h _ _ _ _) _)
theorem execSpcvt_keeps {s : State} (h : s.memWf = true) (xd xa : BitVec 8) (g : Reg3) :
    KeepsO (execSpcvt xd xa g s) := by
  unfold execSpcvt
  refine keepsO_guarded h _ _ ?_
  refine keeps_bind fun _ _ => ?_
  exact keeps_bind fun _ _ => keeps_ok (State.advance_memWf (State.putSpe_memWf h _ _ _ _) _)
theorem execSpeCompletion_keeps {s : State} (h : s.memWf = true) (core : Nat) :
    KeepsO (execSpeCompletion core s) := by
  unfold execSpeCompletion
  refine keepsO_next ?_
  split
  · exact h
  · dsimp only
    refine State.memWf_of_eq ?_
    exact State.setMe_own_memWf (State.speFlags_memWf (State.at_memWf_of h _ _) _) _

end Sys2Proof.Machine
end

section
/-! SUPPORT. Messages, the Mirror and the system registers keep every memory canonical. -/

set_option Elab.async false

namespace Sys2Proof.Machine

/-! ### Messages, barriers, timelines and tasks -/

theorem State.dispatchFlight_memWf {s : State} (h : s.memWf = true) (f : Flight) {act : State → Nat → State}
    (hact : ∀ t n, t.memWf = true → (act t n).memWf = true) : (s.dispatchFlight f act).memWf = true :=
  ite_memWf (hact _ _ (State.fly_memWf h _)) (State.fly_memWf h _)
theorem State.countRecord_memWf {s : State} (h : s.memWf = true) (core off : Nat) :
    (s.countRecord core off).memWf = true := State.setBytes_memWf h _ _
theorem State.beginRelease_memWf {s : State} (h : s.memWf = true) (core bank : Nat) (t : Word) :
    (s.beginRelease core bank t).memWf = true :=
  State.setCtxAt_memWf (State.countRecord_memWf (State.setBytes_memWf h _ _) _ _) _ _ _
theorem State.trigger_memWf {s : State} (h : s.memWf = true) (core bank : Nat) (t : Word) :
    (s.trigger core bank t).memWf = true := by
  unfold State.trigger
  dsimp only
  refine ite_memWf h ?_
  refine ite_memWf (State.beginRelease_memWf h _ _ _) ?_
  exact ite_memWf (State.countRecord_memWf h _ _) (State.setCtxAt_memWf h _ _ _)
theorem State.ringTriggers_memWf {s : State} (h : s.memWf = true) (core ring : Nat) :
    (s.ringTriggers core ring).memWf = true :=
  ite_memWf (foldl_memWf _ (fun _ _ hs => State.trigger_memWf hs _ _ _) _ h) h
theorem State.ringWrite_memWf {s : State} (h : s.memWf = true) (core ring : Nat) (m : Message) :
    (s.ringWrite core ring m).memWf = true := by
  unfold State.ringWrite
  dsimp only
  refine State.ringTriggers_memWf ?_ _ _
  refine State.wake_memWf ?_ _
  refine State.putCore_memWf ?_ _ _ _
  exact State.putCore_memWf (ite_memWf h (State.putCore_memWf h _ _ _)) _ _ _
theorem State.sendResult_memWf {s : State} (h : s.memWf = true) (handle : Word) (m : Message) :
    (s.sendResult handle m).2.memWf = true := by
  unfold State.sendResult
  dsimp only
  split
  · split
    · exact h
    · exact State.ringWrite_memWf h _ _ _
  · split
    · exact h
    · exact State.ringWrite_memWf h _ _ _
theorem State.sendArrive_memWf {s : State} (h : s.memWf = true) (n : Nat) : (s.sendArrive n).memWf = true := by
  unfold State.sendArrive
  split
  · exact State.refly_memWf (State.sendResult_memWf h _ _) _ _
  · exact h
theorem State.answerArrive_memWf {s : State} (h : s.memWf = true) (n : Nat) : (s.answerArrive n).memWf = true := by
  unfold State.answerArrive
  split
  · exact State.deliver_memWf (State.unfly_memWf h _) _ _ _ _ _
  · exact h
theorem execSend_keeps {s : State} (h : s.memWf = true) (d a b : Reg5) (g : Reg3) : KeepsO (execSend d a b g s) := by
  unfold execSend
  refine keepsO_guarded h _ _ ?_
  refine keeps_bind fun _ _ => ?_
  dsimp only
  refine keeps_ok ?_
  refine State.dispatchFlight_memWf (State.sent_memWf h _) _ ?_
  exact fun t _ ht => State.answerArrive_memWf (State.sendArrive_memWf ht _) _
theorem execSendArrival_keeps {s : State} (h : s.memWf = true) (n : Nat) : KeepsO (execSendArrival n s) := by
  unfold execSendArrival
  refine keepsO_next ?_
  split
  · exact ite_memWf (State.sendArrive_memWf h _) h
  · exact h
theorem State.joinReaders_memWf {s : State} (h : s.memWf = true) (g : Reg3) (r : Nat) :
    (s.joinReaders g r).memWf = true := by
  unfold State.joinReaders
  refine ite_memWf h ?_
  exact State.setMy_memWf (State.setMe_memWf h (CoreSt.memWf_of_eq (State.me_memWf h))) _
theorem execRecv_keeps {s : State} (h : s.memWf = true) (d a : Reg5) (g : Reg3) : KeepsO (execRecv d a g s) := by
  unfold execRecv
  dsimp only
  refine keepsO_guarded (State.joinReaders_memWf h _ _) _ _ ?_
  refine keeps_bind fun _ _ => ?_
  refine keeps_ite (keeps_error _) ?_
  refine keeps_bind fun _ _ => ?_
  refine keeps_bind fun _ _ => ?_
  refine keeps_ok ?_
  refine State.advance_memWf ?_ _
  refine State.setG_memWf ?_ _ _
  exact State.discardAhead_memWf (State.setBytes_memWf (State.joinReaders_memWf h _ _) _ _)
theorem execRpoll_keeps {s : State} (h : s.memWf = true) (d a : Reg5) (g : Reg3) : KeepsO (execRpoll d a g s) := by
  unfold execRpoll
  refine keepsO_guarded h _ _ ?_
  exact keeps_bind fun _ _ => keeps_ok (State.advance_memWf (State.setG_memWf h _ _) _)
theorem CoreSt.barDone_memWf {c : CoreSt} (hc : c.memWf = true) (lvl : Nat) (explicit ph : Bool) :
    (c.barDone lvl explicit ph).memWf = true := by
  unfold CoreSt.barDone
  dsimp only
  refine ite_core_memWf ?_ ?_
  · refine CoreSt.memWf_of_eq ?_
    refine ite_core_memWf ?_ ?_
    · exact CoreSt.memWf_of_eq hc
    · exact CoreSt.memWf_of_eq hc
  · refine ite_core_memWf ?_ ?_
    · exact CoreSt.memWf_of_eq hc
    · exact CoreSt.memWf_of_eq hc
theorem State.endStep_memWf {s : State} (h : s.memWf = true) (d : Nat × Nat) : (s.endStep d).memWf = true :=
  ite_memWf (foldl_memWf _ (fun _ _ hs => State.setCore_own_memWf hs _ _) _ h) h
theorem State.endSteps_memWf {s : State} (h : s.memWf = true) : s.endSteps.memWf = true :=
  foldl_memWf _ (fun _ _ hs => State.endStep_memWf hs _) _ h
theorem State.barCheck_memWf {s : State} (h : s.memWf = true) (lvl dom : Nat) :
    (s.barCheck lvl dom).memWf = true := by
  unfold State.barCheck
  dsimp only
  refine ite_memWf ?_ h
  refine State.endSteps_memWf ?_
  refine foldl_memWf _ (fun s a hs => ?_) _ h
  refine State.wake_memWf ?_ _
  exact State.setCore_memWf hs _ (CoreSt.barDone_memWf (State.core_memWf hs _) _ _ _)
theorem State.barArrive_memWf {s : State} (h : s.memWf = true) (core lvl dom : Nat) (ph : Bool) :
    (s.barArrive core lvl dom ph).memWf = true := by
  unfold State.barArrive
  dsimp only
  refine State.barCheck_memWf ?_ _ _
  exact State.memWf_of_eq h
theorem State.arrive_memWf {s : State} (h : s.memWf = true) (lvl : Nat) (ph : Bool) :
    (s.arrive lvl ph).memWf = true := by
  unfold State.arrive
  dsimp only
  refine ite_memWf ?_ ?_
  · refine State.barArrive_memWf ?_ _ _ _ _
    exact foldl_memWf _ (fun _ _ hs => State.setCore_own_memWf hs _ _) _ h
  · exact State.fly_memWf (foldl_memWf _ (fun _ _ hs => State.setCore_own_memWf hs _ _) _ h) _
theorem State.passBar_memWf {s : State} (h : s.memWf = true) (lvl : Nat) : (s.passBar lvl).memWf = true :=
  State.advance_memWf (State.discardAhead_memWf (State.setMy_memWf h _)) _
theorem State.settleBar_memWf {s : State} (h : s.memWf = true) (lvl : Nat) : (s.settleBar lvl).memWf = true := by
  unfold State.settleBar
  exact State.setMe_memWf h (CoreSt.memWf_of_eq (State.me_memWf h))
theorem barrierBody_keeps {s : State} (h : s.memWf = true) (lvl : Nat) (ph : Bool) :
    Keeps (barrierBody s lvl ph) := by
  unfold barrierBody
  dsimp only
  refine keeps_ite (keeps_ok (State.passBar_memWf (State.setMy_memWf h _) _)) ?_
  refine keeps_ite ?_ ?_
  · refine keeps_bind_state (keeps_ok (State.barCheck_memWf h _ _)) fun t ht => ?_
    refine keeps_ite ?_ (keeps_ok (State.setMy_memWf ht _))
    exact keeps_ok (State.passBar_memWf (State.settleBar_memWf ht _) _)
  · refine keeps_ite ?_ ?_
    · refine keeps_bind_state (keeps_ok (State.arrive_memWf h _ _)) fun t ht => ?_
      refine keeps_ite ?_ (keeps_ok (State.setMy_memWf ht _))
      exact keeps_ok (State.passBar_memWf (State.settleBar_memWf ht _) _)
    · refine keeps_bind_state (keeps_error _) fun t ht => ?_
      refine keeps_ite ?_ (keeps_ok (State.setMy_memWf ht _))
      exact keeps_ok (State.passBar_memWf (State.settleBar_memWf ht _) _)
theorem execBarrierArrival_keeps {s : State} (h : s.memWf = true) (n : Nat) : KeepsO (execBarrierArrival n s) := by
  unfold execBarrierArrival
  refine keepsO_next ?_
  split
  · exact State.barArrive_memWf (State.unfly_memWf h _) _ _ _ _
  · exact h
theorem execBararv_keeps {s : State} (h : s.memWf = true) (a : Reg5) (g : Reg3) : KeepsO (execBararv a g s) := by
  unfold execBararv
  refine keepsO_guarded h _ _ ?_
  dsimp only
  refine keeps_bind_pair (State.checkDist_keeps h _ _ _) fun _ t ht => ?_
  refine keeps_ok ?_
  refine State.dispatchFlight_memWf (State.sent_memWf ht _) _ ?_
  exact fun u _ hu => State.arriveCell_memWf (State.unfly_memWf hu _) _ _
theorem execBararvArrival_keeps {s : State} (h : s.memWf = true) (n : Nat) : KeepsO (execBararvArrival n s) := by
  unfold execBararvArrival
  refine keepsO_next ?_
  split
  · exact ite_memWf (State.arriveCell_memWf (State.unfly_memWf h _) _ _) h
  · exact h
theorem execBarwt_keeps {s : State} (h : s.memWf = true) (a : Reg5) (g : Reg3) : KeepsO (execBarwt a g s) := by
  unfold execBarwt
  refine keepsO_guarded h _ _ ?_
  dsimp only
  refine keeps_ite (keeps_error _) ?_
  refine keeps_bind_pair (State.checkDist_keeps h _ _ _) fun _ t ht => ?_
  refine keeps_bind fun _ _ => ?_
  refine keeps_bind fun _ _ => ?_
  exact keeps_ite (keeps_ok (State.advance_memWf (State.discardAhead_memWf ht) _)) (keeps_error _)
theorem State.setChan_memWf {s : State} (h : s.memWf = true) (cluster chan : Nat) (c : Channel) :
    (s.setChan cluster chan c).memWf = true := by
  unfold State.setChan
  refine ite_memWf (State.setCluster_memWf_of h _ _) ?_
  exact State.setCore_memWf h _ (CoreSt.memWf_of_eq (State.core_memWf h _))
theorem State.enqueue_keeps {s : State} (h : s.memWf = true) (e : Engine) : KeepsSome (s.enqueue e) := by
  unfold State.enqueue
  dsimp only
  split
  · exact keepsSome_ite keepsSome_none (keepsSome_some (State.setMe_own_memWf h _))
  · exact keepsSome_ite keepsSome_none (keepsSome_some (State.setChan_memWf h _ _ _))
  · exact keepsSome_ite keepsSome_none (keepsSome_some (State.setMe_own_memWf h _))
theorem execPush_keeps {s : State} (h : s.memWf = true) (d : Reg5) (e : Engine) (g : Reg3) :
    KeepsO (execPush d e g s) := by
  unfold execPush
  refine keepsO_guarded h _ _ ?_
  split
  next heq =>
    exact keeps_ok (State.sent_memWf (State.setG_memWf (State.enqueue_keeps h _ _ heq) _ _) _)
  · exact keeps_ok (State.advance_memWf (State.setG_memWf h _ _) _)
theorem timelineWait_keeps {s : State} (h : s.memWf = true) (t : Nat) (v : Word) (len : Nat) :
    Keeps (timelineWait s t v len) := by
  unfold timelineWait
  dsimp only
  refine keeps_ite (keeps_ok (State.advance_memWf (State.discardAhead_memWf h) _)) ?_
  split
  · exact keeps_error _
  · exact keeps_error _
theorem CoreSt.takePort_memWf {c d : CoreSt} (hc : c.memWf = true) {q : Nat} {ws : List Word}
    (hd : c.takePort q = some (ws, d)) : d.memWf = true := by
  unfold CoreSt.takePort at hd
  split at hd <;> split at hd <;> cases hd <;> exact hc
theorem execQrd_keeps {s : State} (h : s.memWf = true) (d : Reg5) (q g : Reg3) : KeepsO (execQrd d q g s) := by
  have hs := State.joinReaders_memWf h g (16 + q.toNat)
  unfold execQrd
  dsimp only
  refine keepsO_guarded hs _ _ (keeps_ite (keeps_error _) (keeps_ite (keeps_error _) (keeps_ite (keeps_error _) ?_)))
  split
  · exact keeps_error _
  next ws c hc =>
    have ht := State.setMy_memWf (State.setMe_memWf hs (CoreSt.takePort_memWf (State.me_memWf hs) hc))
    exact keeps_ok (State.advance_memWf (ite_memWf (State.discardAhead_memWf (ht _)) (ht _)) _)
theorem execQwr_keeps {s : State} (h : s.memWf = true) (d a : Reg5) (q g : Reg3) : KeepsO (execQwr d a q g s) := by
  unfold execQwr
  refine keepsO_guarded h _ _ ?_
  dsimp only
  refine keeps_ite (keeps_error _) ?_
  refine keeps_ite (keeps_error _) ?_
  refine keeps_ite ?_ ?_
  · exact keeps_ok (State.advance_memWf (State.setG_memWf h _ _) _)
  · exact keeps_ok (State.sent_memWf (State.setG_memWf (State.setMe_own_memWf h _) _ _) _)
theorem execQ0EventPost_keeps {s : State} (h : s.memWf = true) (core : Nat) : KeepsO (execQ0EventPost core s) := by
  unfold execQ0EventPost
  dsimp only
  refine keepsO_next ?_
  split
  · exact h
  · exact ite_memWf (State.wake_memWf (State.setCore_own_memWf h _ _) _) h
theorem execStart_keeps {s : State} (h : s.memWf = true) (d a b : Reg5) (g : Reg3) :
    KeepsO (execStart d a b g s) := by
  unfold execStart
  refine keepsO_guarded h _ _ ?_
  dsimp only
  refine keeps_ite (keeps_error _) ?_
  split
  · exact keeps_error _
  · split
    · exact keeps_ok (State.advance_memWf (State.setG_memWf h _ _) _)
    · refine keeps_ok ?_
      refine State.sent_memWf ?_ _
      refine State.setG_memWf ?_ _ _
      exact ite_memWf (State.setMe_own_memWf h _) (State.fly_memWf (State.setMe_own_memWf h _) _)
theorem State.startArrive_memWf {s : State} (h : s.memWf = true) (n : Nat) : (s.startArrive n).memWf = true := by
  unfold State.startArrive
  split
  · exact ite_memWf (State.setCtxAt_memWf (State.unfly_memWf h _) _ _ _) h
  · exact h
theorem execJoinh_keeps {s : State} (h : s.memWf = true) (a : Reg5) (g : Reg3) : KeepsO (execJoinh a g s) := by
  unfold execJoinh
  refine keepsO_guarded h _ _ ?_
  dsimp only
  refine keeps_ite (keeps_error _) ?_
  exact keeps_ite (keeps_error _) (keeps_ok (State.advance_memWf (State.discardAhead_memWf h) _))
theorem State.setMe_setSysr_memWf {s : State} (h : s.memWf = true) (n : Nat) (v : Word) :
    (s.setMe (s.me.setSysr n v)).memWf = true := State.setMe_own_memWf h _
theorem execCkpt_keeps {s : State} (h : s.memWf = true) (a : Reg5) (g : Reg3) : KeepsO (execCkpt a g s) := by
  unfold execCkpt
  refine keepsO_guarded h _ _ ?_
  dsimp only
  refine keeps_ite (keeps_ok (State.advance_memWf h _)) (keeps_ite (keeps_error _) ?_)
  refine keeps_bind fun _ _ => ?_
  refine keeps_bind fun _ _ => ?_
  refine keeps_ite (keeps_error _) (keeps_ite (keeps_error _) ?_)
  refine keeps_bind fun _ _ => ?_
  refine keeps_bind fun _ _ => ?_
  refine keeps_ok (State.setMy_memWf (State.advance_memWf
    (State.setMe_setSysr_memWf (State.setBytes_memWf ?_ _ _) _ _) _) _)
  exact foldl_memWf _ (fun _ _ hs => State.setBytes_memWf hs _ _) _ h

/-! ### The Mirror -/

theorem State.publish_memWf {s : State} (h : s.memWf = true) (n : Nat) : (s.publish n).memWf = true := by
  unfold State.publish
  split
  · exact State.memWf_of_eq (State.setSlot_memWf_of (State.unfly_memWf h _) _ _)
  · exact h
theorem State.postQ3_memWf {s : State} (h : s.memWf = true) (core slot : Nat) (vers : Word) :
    (s.postQ3 core slot vers).memWf = true := by
  unfold State.postQ3
  dsimp only
  refine ite_memWf (State.wake_memWf (State.setCore_own_memWf h _ _) _) ?_
  exact ite_memWf (State.setCore_own_memWf h _ _) (State.setCore_own_memWf h _ _)
theorem State.flip_memWf {s : State} (h : s.memWf = true) (slot : Nat) : (s.flip slot).memWf = true := by
  unfold State.flip
  split
  · refine foldl_memWf _ (fun t _ ht => ite_memWf ?_ ht) _ ?_
    · exact foldl_memWf _ (fun _ _ hs => State.trigger_memWf hs _ _ _) _ ht
    · refine foldl_memWf _ (fun _ _ hs => ite_memWf (State.postQ3_memWf hs _ _ _) hs) _ ?_
      exact State.deliver_memWf (State.memWf_of_eq (State.setSlot_memWf_of h _ _)) _ _ _ _ _
  · exact h
theorem execMpub_keeps {s : State} (h : s.memWf = true) (d a b : Reg5) (len : BitVec 11) (g : Reg3) :
    KeepsO (execMpub d a b len g s) := by
  unfold execMpub
  refine keepsO_guarded h _ _ ?_
  dsimp only
  refine keeps_bind fun _ _ => ?_
  refine keeps_bind fun _ _ => ?_
  refine keeps_bind fun _ _ => ?_
  refine keeps_ok ?_
  refine State.dispatchFlight_memWf (State.sent_memWf h _) _ ?_
  exact fun t _ ht => ite_memWf ht (State.flip_memWf (State.publish_memWf ht _) _)
theorem execMirrorPublication_keeps {s : State} (h : s.memWf = true) (n : Nat) :
    KeepsO (execMirrorPublication n s) := by
  unfold execMirrorPublication
  refine keepsO_next ?_
  split
  · exact ite_memWf (State.publish_memWf h _) h
  · exact h
theorem State.mirrorRead_memWf {s : State} (h : s.memWf = true) (slot len : Nat) :
    (s.mirrorRead slot len).2.2.memWf = true := by
  unfold State.mirrorRead
  dsimp only
  split
  · exact h
  · split
    all_goals
      dsimp only
      exact State.report_memWf h _
theorem State.readArrive_memWf {s : State} (h : s.memWf = true) (n : Nat) : (s.readArrive n).memWf = true := by
  unfold State.readArrive
  split
  · exact State.refly_memWf (State.mirrorRead_memWf h _ _) _ _
  · exact h
theorem State.readDone_memWf {s : State} (h : s.memWf = true) (n : Nat) : (s.readDone n).memWf = true := by
  unfold State.readDone
  split
  · dsimp only
    refine State.memWf_of_eq ?_
    refine State.discardAhead_memWf ?_
    refine State.at_memWf_of ?_ _ _
    exact State.setCtxAt_memWf (State.putCore_memWf (State.unfly_memWf h _) _ _ _) _ _ _
  · exact h
theorem execMread_keeps {s : State} (h : s.memWf = true) (d a b : Reg5) (len : BitVec 11) (g : Reg3) :
    KeepsO (execMread d a b len g s) := by
  unfold execMread
  refine keepsO_guarded h _ _ ?_
  dsimp only
  refine keeps_bind fun _ _ => ?_
  refine keeps_bind fun _ _ => ?_
  refine keeps_ok ?_
  refine ite_memWf ?_ (State.fly_memWf (State.advance_memWf h _) _)
  exact State.readDone_memWf (State.readArrive_memWf (State.fly_memWf (State.advance_memWf h _) _) _) _
theorem execMirrorReadArrival_keeps {s : State} (h : s.memWf = true) (n : Nat) :
    KeepsO (execMirrorReadArrival n s) := by
  unfold execMirrorReadArrival
  refine keepsO_next ?_
  split
  · exact h
  · refine ite_memWf (State.readArrive_memWf h _) ?_
    exact ite_memWf h (State.memWf_of_eq (State.readArrive_memWf h _))
theorem execMwait_keeps {s : State} (h : s.memWf = true) (d a b : Reg5) (g : Reg3) :
    KeepsO (execMwait d a b g s) := by
  unfold execMwait
  refine keepsO_guarded h _ _ ?_
  refine keeps_bind fun _ _ => ?_
  exact keeps_ite (keeps_ok (State.advance_memWf (State.setG_memWf h _ _) _)) (keeps_error _)
theorem sleepUntil_keeps {s : State} (h : s.memWf = true) (t : Word) (len : Nat) : Keeps (sleepUntil s t len) :=
  keeps_ite (keeps_ok (State.advance_memWf h _)) (keeps_error _)
theorem execWfe_keeps {s : State} (h : s.memWf = true) (g : Reg3) : KeepsO (execWfe g s) := by
  unfold execWfe
  refine keepsO_guarded h _ _ ?_
  exact keeps_ok (ite_memWf (State.advance_memWf (State.setMy_memWf h _) _) (State.setMy_memWf h _))
theorem State.wakeCtx_memWf {s : State} (h : s.memWf = true) (core ctx : Nat) :
    (s.wakeCtx core ctx).memWf = true := by
  unfold State.wakeCtx
  dsimp only
  split
  · exact State.setCtxAt_memWf h _ _ _
  · exact State.setCtxAt_memWf h _ _ _
  · exact State.setCtxAt_memWf h _ _ _
  · split
    · exact State.startArrive_memWf h _
    · exact h
  · exact h
theorem execPeriodicTrigger_keeps {s : State} (h : s.memWf = true) (core bank : Nat) :
    KeepsO (execPeriodicTrigger core bank s) :=
  keepsO_event h _ (State.trigger_memWf (State.setCtxAt_memWf h _ _ _) _ _ _)
theorem execWatchdog_keeps {s : State} (h : s.memWf = true) (core bank : Nat) : KeepsO (execWatchdog core bank s) :=
  keepsO_event h _ (State.pendAsync_memWf (State.setCtxAt_memWf h _ _ _) _ _ _)

/-! ### System registers and reflex banks -/

theorem execMfs_keeps {s : State} (h : s.memWf = true) (d : Reg5) (n : BitVec 12) : KeepsO (execMfs d n s) := by
  unfold execMfs
  refine keepsO_run h ?_
  refine keeps_bind fun _ _ => ?_
  exact keeps_ite (keeps_error _) (keeps_ok (State.advance_memWf (State.setG_memWf h _ _) _))
theorem State.fwCount_memWf {s : State} (h : s.memWf = true) : s.fwCount.memWf = true := h
theorem State.fwSwitch_memWf {s : State} (h : s.memWf = true) (core k : Nat) : (s.fwSwitch core k).memWf = true := by
  unfold State.fwSwitch
  generalize hc : s.core core = c
  have hcore : c.memWf = true := hc ▸ s.core_memWf h core
  dsimp only
  split
  · exact h
  · generalize hd : (if Config.isReflex core then c.setCtx k { c.ctx k with fwPending := false } else c) = d
    have hd : d.memWf = true := by subst hd; exact ite_core_memWf hcore hcore
    generalize he : (if d.fwBank == s.fwstat.getLsbD 63 then
      { d.setSysr 0x110 (bankTable (!s.fwstat.getLsbD 63)) with fwBank := !s.fwstat.getLsbD 63 } else d) = e
    have he : e.memWf = true := by subst he; exact ite_core_memWf hd hd
    refine ite_memWf (State.setCore_memWf h _ he) (State.fwCount_memWf (State.setCore_memWf h _ ?_))
    exact he
theorem State.fwIdle_memWf {s : State} (h : s.memWf = true) (core : Nat) : (s.fwIdle core).memWf = true := by
  unfold State.fwIdle
  refine ite_memWf ?_ (ite_memWf (State.fwSwitch_memWf h _ _) h)
  exact foldl_memWf _ (fun _ _ hs => State.fwSwitch_memWf hs _ _) _ h
theorem State.configure_memWf {s : State} (h : s.memWf = true) (n : Nat) (v : Word) :
    (s.configure n v).memWf = true := by
  unfold State.configure
  extract_lets core t rec0 entry arg u c0 c1 c2 c3
  have hu : u.memWf = true := State.setBytes_memWf (State.memWf_of_eq h) _ _
  clear_value u
  have hc2 : c2.memWf = true := State.me_memWf hu
  clear_value c2
  have hc3 : c3.memWf = true := ite_core_memWf (CoreSt.freshCode_memWf hc2) hc2
  clear_value c3
  exact State.fwIdle_memWf (State.setMe_memWf hu (CoreSt.setCtx_memWf_of hc3 _ _)) _
theorem State.writeSys_keeps {s : State} (h : s.memWf = true) (n : Nat) (v : Word) : Keeps (s.writeSys n v) := by
  unfold State.writeSys
  refine keeps_ite (keeps_ok h) ?_
  refine keeps_ite (keeps_error _) ?_
  refine keeps_ite ?_ ?_
  · exact keeps_ite (keeps_error _) (keeps_ite (keeps_error _) (keeps_ok (State.configure_memWf h _ _)))
  · refine keeps_ite (keeps_ok (State.setMy_memWf h _)) ?_
    refine keeps_ite (keeps_ok (State.setSysr_memWf h _ _)) ?_
    exact keeps_ite (keeps_ok (State.setSysr_memWf h _ _)) (keeps_ok (State.setSysr_memWf h _ _))
theorem execMts_keeps {s : State} (h : s.memWf = true) (a : Reg5) (n : BitVec 12) : KeepsO (execMts a n s) := by
  unfold execMts
  refine keepsO_run h ?_
  refine keeps_bind fun _ _ => ?_
  refine keeps_ite (keeps_error _) ?_
  refine keeps_ite (keeps_error _) ?_
  exact keeps_bind_state (State.writeSys_keeps h _ _) fun t ht => keeps_ok (State.advance_memWf ht _)
theorem State.controlWrite_memWf {s : State} (h : s.memWf = true) (core ctx n : Nat) (v : Word) :
    (s.controlWrite core ctx n v).memWf = true := by
  unfold State.controlWrite
  dsimp only
  split
  next heq1 =>
    refine State.memWf_of_eq ?_
    refine memWf_of_ok heq1 ?_
    refine State.writeSys_keeps ?_ _ _
    exact State.at_memWf_of h _ _
  · exact h
theorem State.leave_memWf {s : State} (h : s.memWf = true) : s.leave.memWf = true := State.setMy_memWf h _
theorem execEret_keeps {s : State} (h : s.memWf = true) : KeepsO (execEret s) := by
  unfold execEret
  refine keepsO_run h ?_
  refine keeps_ite (keeps_error _) ?_
  split
  · exact keeps_error _
  · exact keeps_ok (State.leave_memWf h)
theorem execTlbfl_keeps {s : State} (h : s.memWf = true) : KeepsO (execTlbfl s) :=
  keepsO_next (State.advance_memWf (ite_memWf h (State.setMe_own_memWf h _)) _)
theorem State.renewPage_keeps {s : State} (h : s.memWf = true) (va : Nat) : KeepsSome (s.renewPage va) := by
  unfold State.renewPage
  dsimp only
  split
  · refine keepsSome_ite (keepsSome_ite (keepsSome_some h) keepsSome_none) ?_
    exact keepsSome_ite (keepsSome_some h) (keepsSome_some (State.xlateWalk_memWf h _ _ _))
  · exact keepsSome_some h
theorem State.renew_endsIn {s : State} (h : s.memWf = true) (ps : List Nat) :
    EndsIn (fun e => e.2.memWf = true) (fun t => t.memWf = true) (s.renew ps) := by
  induction ps generalizing s with
  | nil => exact h
  | cons va ps ih =>
    unfold State.renew
    split
    · exact h
    next hu => exact ih (State.renewPage_keeps h va _ hu)
theorem execTlbren_keeps {s : State} (h : s.memWf = true) (d a : Reg5) : KeepsO (execTlbren d a s) := by
  unfold execTlbren
  refine keepsO_ite (keepsO_run h (keeps_error _)) (keepsO_ite (keepsO_run h (keeps_error _)) ?_)
  have hr := State.renew_endsIn h (pagesOf (s.getG a).toNat (s.getG d).toNat)
  split
  next t ht =>
    rw [ht] at hr
    exact keepsO_next (State.advance_memWf hr _)
  next e t ht =>
    rw [ht] at hr
    exact keepsO_run hr (keeps_error _)
theorem execCapld_keeps {s : State} (h : s.memWf = true) (a : Reg5) (c : BitVec 2) : KeepsO (execCapld a c s) := by
  unfold execCapld
  refine keepsO_run h ?_
  refine keeps_ite (keeps_error _) ?_
  dsimp only
  refine keeps_bind_pair (State.readItems_keeps h _ _ _ _ _ _) fun _ t ht => ?_
  exact keeps_ite (keeps_error _) (keeps_ok (State.advance_memWf (State.setMy_memWf ht _) _))

end Sys2Proof.Machine
end

section
/-! SUPPORT. Faults, seizures and upsets keep every memory canonical. -/

set_option Elab.async false

namespace Sys2Proof.Machine

/-! ### Faults and recovery -/

theorem execStreamReadAhead_keeps {s : State} (h : s.memWf = true) (core ctx j : Nat) :
    KeepsO (execStreamReadAhead core ctx j s) := by
  unfold execStreamReadAhead
  dsimp only
  refine keepsO_next ?_
  refine ite_memWf h ?_
  split
  next heq =>
    refine State.memWf_of_eq ?_
    exact State.setMy_memWf (State.readItems_keeps (State.at_memWf_of h _ _) _ _ _ _ _ _ _ _ heq) _
  · exact h
theorem State.replayEntry_memWf {s : State} (h : s.memWf = true) (e : LogEntry) (p : Place) :
    (s.replayEntry e p).memWf = true := by
  unfold State.replayEntry
  split
  · exact foldl_memWf _ (fun _ _ hs => ite_memWf (State.setByte_memWf hs _ _) hs) _ h
  · exact foldl_memWf _ (fun _ _ hs => ite_memWf (State.setByte_memWf hs _ _) hs) _ h
  · exact foldl_memWf _ (fun _ _ hs => State.setBytes_memWf hs _ _) _ h
theorem State.dropEntry_memWf {s : State} (h : s.memWf = true) (core n : Nat) :
    (s.dropEntry core n).memWf = true := by
  unfold State.dropEntry
  exact State.sweepSc_memWf (State.setCore_memWf h _ (CoreSt.memWf_of_eq (State.core_memWf h _)))
theorem State.replayLog_memWf {s : State} (h : s.memWf = true) (core n : Nat) :
    (s.replayLog core n).memWf = true := by
  unfold State.replayLog
  split
  · exact h
  · refine ite_memWf h ?_
    dsimp only
    split
    next heq1 =>
      refine ite_memWf h ?_
      refine ite_memWf ?_ ?_
      · refine State.pendAsync_memWf ?_ _ _ _
        exact State.dropEntry_memWf (snd_snd_memWf heq1 (State.xlateWalk_memWf h _ _ _)) _ _
      · refine State.dropEntry_memWf ?_ _ _
        exact State.replayEntry_memWf (snd_snd_memWf heq1 (State.xlateWalk_memWf h _ _ _)) _ _
    · exact State.postFault_memWf h _ _ _ _ _
    · exact State.pendAsync_memWf (State.dropEntry_memWf h _ _) _ _ _
    · exact State.pendAsync_memWf (State.dropEntry_memWf h _ _) _ _ _
    · exact State.pendAsync_memWf (State.dropEntry_memWf h _ _) _ _ _
    · exact State.pendAsync_memWf (State.dropEntry_memWf h _ _) _ _ _
    · exact h
theorem execFaultRecordPost_keeps {s : State} (h : s.memWf = true) (cluster n : Nat) :
    KeepsO (execFaultRecordPost cluster n s) := by
  unfold execFaultRecordPost
  refine keepsO_next ?_
  split
  · exact ite_memWf (State.postFault_memWf h _ _ _ _ _) h
  · exact h
theorem State.dropRecord_memWf {s : State} (h : s.memWf = true) (k : Nat) (f : FaultRec) :
    (s.dropRecord k f).memWf = true := by
  unfold State.dropRecord
  dsimp only
  refine ite_memWf ?_ (State.setCluster_memWf_of h _ _)
  exact State.memWf_of_eq (State.setCluster_memWf_of h _ _)
theorem State.releaseHolders_memWf {s : State} (h : s.memWf = true) (vf page : Nat) (invalid : Bool) :
    (s.releaseHolders vf page invalid).memWf = true :=
  foldl_memWf _ (fun _ _ hs => foldl_memWf _ (fun _ _ hs => State.setCtxAt_memWf hs _ _ _) _ hs) _ h
theorem State.putPieces_memWf {s : State} (h : s.memWf = true) (l : List (Place × Nat)) (bs : List Byte) :
    (s.putPieces l bs).memWf = true := by
  induction l generalizing s bs with
  | nil => exact h
  | cons p l ih => exact ih (State.setBytes_memWf h _ _) _
theorem State.looseRow_memWf {s : State} (h : s.memWf = true) (cluster chan : Nat) (cmd : Command) :
    (s.looseRow cluster chan cmd).memWf = true := by
  unfold State.looseRow
  dsimp only
  split
  · refine ite_memWf ?_ h
    exact foldl_memWf _ (fun _ _ hs => State.memWf_of_eq (State.putPieces_memWf hs _ _)) _ h
  · exact h
theorem State.stopEngine_memWf {s : State} (h : s.memWf = true) (cluster chan : Nat) (cmd : Command) (addr : Word) :
    (s.stopEngine cluster chan cmd addr).memWf = true :=
  State.postQ0_memWf (State.setChan_memWf (State.looseRow_memWf h _ _ _) _ _ _) _ _
theorem State.releaseEngines_memWf {s : State} (h : s.memWf = true) (vf page : Nat) (invalid : Bool) :
    (s.releaseEngines vf page invalid).memWf = true := by
  unfold State.releaseEngines
  refine foldl_memWf _ (fun s a hs => ?_) _ h
  split
  · exact ite_memWf hs (ite_memWf (State.stopEngine_memWf hs _ _ _ _) (State.setChan_memWf hs _ _ _))
  · exact hs
theorem State.discardLogged_memWf {s : State} (h : s.memWf = true) (vf page : Nat) :
    (s.discardLogged vf page).memWf = true := by
  unfold State.discardLogged
  refine foldl_memWf _ (fun s a hs => ?_) _ h
  dsimp only
  refine foldl_memWf _ (fun _ _ hs => State.pendAsync_memWf hs _ _ _) _ ?_
  exact State.sweepSc_memWf (State.setCore_own_memWf hs _ _)
theorem State.answerMapped_memWf {s : State} (h : s.memWf = true) (token : Word) :
    (s.answerMapped token).memWf = true := by
  unfold State.answerMapped
  split
  · exact h
  · refine State.releaseEngines_memWf ?_ _ _ _
    exact State.releaseHolders_memWf (State.dropRecord_memWf h _ _) _ _ _
theorem execPageWalkComplete_keeps {s : State} (h : s.memWf = true) (core : Nat) (va : Word) (write fetch : Bool) :
    KeepsO (execPageWalkComplete core va write fetch s) := by
  unfold execPageWalkComplete
  dsimp only
  refine keepsO_next ?_
  refine ite_memWf h ?_
  split
  next heq =>
    refine State.memWf_of_eq ?_
    refine snd_memWf heq ?_
    refine State.xlateCore_memWf ?_ _ _
    exact State.at_memWf_of h _ _
  · exact h
theorem execTlbEntryExpiry_keeps {s : State} (h : s.memWf = true) (core : Nat) :
    KeepsO (execTlbEntryExpiry core s) := by
  unfold execTlbEntryExpiry
  dsimp only
  refine keepsO_next ?_
  refine ite_memWf (State.setCore_own_memWf h _ _) ?_
  exact State.setCluster_memWf_of (State.setCore_own_memWf h _ _) _ _
theorem State.skewCore_memWf {s : State} (h : s.memWf = true) (core : Nat) (err : Half) :
    (s.skewCore core err).memWf = true := by
  unfold State.skewCore
  dsimp only
  split
  · exact State.pendAsync_memWf (State.report_memWf (State.setCore_own_memWf h _ _) _) _ _ _
  · exact State.report_memWf (State.setCore_own_memWf h _ _) _
theorem State.skewWalker_memWf {s : State} (h : s.memWf = true) (cluster walker : Nat) (skewed : Bool) :
    (s.skewWalker cluster walker skewed).memWf = true := State.setCluster_memWf_of h _ _
theorem State.skewHome_memWf {s : State} (h : s.memWf = true) (n : Nat) (skewed : Bool) :
    (s.skewHome n skewed).memWf = true := h
theorem State.skewOther_memWf {s : State} (h : s.memWf = true) (n : Nat) (skewed : Bool) :
    (s.skewOther n skewed).memWf = true := by
  unfold State.skewOther
  refine ite_memWf (State.skewWalker_memWf h _ _ _) ?_
  exact ite_memWf (State.skewHome_memWf h _ _) (State.skewWalker_memWf h _ _ _)
theorem execClockSkew_keeps {s : State} (h : s.memWf = true) (n : Nat) (err : Half) :
    KeepsO (execClockSkew n err s) :=
  keepsO_event h _ (ite_memWf (State.skewCore_memWf h _ _) (State.skewOther_memWf h _ _))
theorem execClockSkewCleared_keeps {s : State} (h : s.memWf = true) (n : Nat) :
    KeepsO (execClockSkewCleared n s) := by
  unfold execClockSkewCleared
  refine keepsO_next ?_
  refine ite_memWf ?_ (State.skewOther_memWf h _ _)
  exact State.setCore_memWf h _ (CoreSt.memWf_of_eq (State.core_memWf h _))
theorem State.takeAsync_memWf {s : State} (h : s.memWf = true) (a : Async) : (s.takeAsync a).memWf = true := by
  unfold State.takeAsync
  dsimp only
  refine State.takeTrap_memWf ?_ _
  exact ite_memWf (State.report_memWf (State.setMy_memWf h _) _) (State.setMy_memWf h _)
theorem execTrapDelivery_keeps {s : State} (h : s.memWf = true) (core ctx : Nat) :
    KeepsO (execTrapDelivery core ctx s) := by
  unfold execTrapDelivery
  dsimp only
  refine keepsO_next ?_
  split
  · refine ite_memWf ?_ h
    refine State.memWf_of_eq ?_
    refine State.takeAsync_memWf ?_ _
    exact State.memWf_of_eq (State.at_memWf_of h _ _)
  · exact h
theorem State.mismatch_memWf {s : State} (h : s.memWf = true) (core ctx cls : Nat) (kind unit : BitVec 4) :
    (s.mismatch core ctx cls kind unit).memWf = true := by
  unfold State.mismatch
  dsimp only
  refine ite_memWf ?_ h
  exact State.memWf_of_eq (State.goBack_memWf (State.report_memWf (State.at_memWf_of h _ _) _) _ _)
theorem CoreSt.takeBack_memWf {c : CoreSt} (hc : c.memWf = true) (p : SpePend) : (c.takeBack p).memWf = true := by
  unfold CoreSt.takeBack
  exact CoreSt.memWf_of_eq (foldl_core_memWf _ (fun _ _ hs => CoreSt.setX_memWf_of hs _ _) _ hc)
theorem CoreSt.undoSpe_memWf {c : CoreSt} (hc : c.memWf = true) (ctx : Nat) : (c.undoSpe ctx).memWf = true :=
  foldl_core_memWf _ (fun _ _ hs => CoreSt.takeBack_memWf hs _) _ hc
theorem State.mended_memWf {s : State} (h : s.memWf = true) (kind inst : Nat) (cmd : Option Command) :
    (s.mended kind inst cmd).memWf = true := State.report_memWf h _
theorem execRollback_keeps {s : State} (h : s.memWf = true) (core ctx : Nat) (unit : BitVec 4) :
    KeepsO (execRollback core ctx unit s) := by
  unfold execRollback
  refine keepsO_next ?_
  split
  · refine ite_memWf ?_ h
    refine State.mismatch_memWf ?_ _ _ _ _ _
    exact State.setCore_memWf h _ (CoreSt.undoSpe_memWf (State.core_memWf h _) _)
  · exact State.mended_memWf h _ _ _
  · exact State.mended_memWf h _ _ _
  · exact State.mended_memWf h _ _ _
  · exact ite_memWf (State.mismatch_memWf h _ _ _ _ _) h
theorem execTimingReplay_keeps {s : State} (h : s.memWf = true) (core : Nat) (mask : BitVec 11) :
    KeepsO (execTimingReplay core mask s) :=
  keepsO_next (foldl_memWf _ (fun _ _ hs => State.mismatch_memWf hs _ _ _ _ _) _ h)
theorem State.returnAll_memWf {s : State} (h : s.memWf = true) (core : Nat) (stop : Bool) :
    (s.returnAll core stop).memWf = true := by
  unfold State.returnAll
  dsimp only
  refine State.memWf_of_eq ?_
  exact foldl_memWf _ (fun _ _ hs => State.setMy_memWf (State.restore_memWf (State.at_memWf_of hs _ _)) _) _ h
theorem State.pairMismatch_memWf {s : State} (h : s.memWf = true) (core : Nat) : (s.pairMismatch core).memWf = true :=
  State.returnAll_memWf (State.returnAll_memWf (State.report_memWf h _) _ _) _ _

/-! ### Seizures -/

theorem execSeizureArrival_keeps {s : State} (h : s.memWf = true) (n : Nat) : KeepsO (execSeizureArrival n s) := by
  unfold execSeizureArrival
  refine keepsO_next ?_
  split
  · refine ite_memWf h ?_
    split
    · exact State.refly_memWf h _ _
    · exact State.setCore_memWf (State.unfly_memWf h _) _ (CoreSt.memWf_of_eq (State.core_memWf h _))
  · exact h
theorem CoreSt.dropHeld_memWf {c : CoreSt} (hc : c.memWf = true) : c.dropHeld.memWf = true := hc
theorem State.seizStop_memWf {s : State} (h : s.memWf = true) (core : Nat) : (s.seizStop core).memWf = true :=
  foldl_memWf _ (fun _ _ hs => State.setCore_memWf hs _ (CoreSt.dropHeld_memWf (State.core_memWf hs _))) _ h
theorem execSeizureAccept_keeps {s : State} (h : s.memWf = true) (core : Nat) :
    KeepsO (execSeizureAccept core s) := by
  unfold execSeizureAccept
  dsimp only
  refine keepsO_event h _ ?_
  refine ite_memWf ?_ (State.setCore_own_memWf h _ _)
  exact State.seizStop_memWf (State.setCore_own_memWf h _ _) _
theorem execSeizureDrainEnd_keeps {s : State} (h : s.memWf = true) (core : Nat) :
    KeepsO (execSeizureDrainEnd core s) :=
  keepsO_event h _ (State.setCore_own_memWf (ite_memWf (State.seizStop_memWf h _) h) _ _)
theorem State.sourceRows_memWf {s : State} (hw : s.memWf = true) (core : Nat) (v : BitVec 512) (byte strideByte : Nat)
    (h : Shape) : (s.sourceRows core v byte strideByte h).2.memWf = true := by
  unfold State.sourceRows
  dsimp only
  split
  · exact hw
  · exact State.mirrorRead_memWf hw _ _
  · exact hw
theorem CoreSt.putRows_memWf {c : CoreSt} (hc : c.memWf = true) (t : Nat) (rows : List (List Byte)) (h : Shape) :
    (c.putRows t rows h).memWf = true := CoreSt.writeTile_memWf hc _ _ _
theorem State.seizLoad_memWf {s : State} (h : s.memWf = true) (core : Nat) (z : Seizure) :
    (s.seizLoad core z).1.memWf = true := by
  unfold State.seizLoad
  dsimp only
  split
  · split
    next heq2 =>
      exact snd_memWf heq2 (State.sourceRows_memWf h _ _ _ _ _)
    next heq2 =>
      split
      next heq3 =>
        exact snd_memWf heq3 (State.sourceRows_memWf (snd_memWf heq2 (State.sourceRows_memWf h _ _ _ _ _)) _ _ _ _ _)
      next heq3 =>
        dsimp only
        refine State.setCore_memWf ?_ _ ?_
        · exact snd_memWf heq3 (State.sourceRows_memWf
            (snd_memWf heq2 (State.sourceRows_memWf h _ _ _ _ _)) _ _ _ _ _)
        · refine CoreSt.setCells_memWf ?_ _
          refine CoreSt.setSysr_memWf_of ?_ _ _
          refine CoreSt.setSysr_memWf_of ?_ _ _
          refine CoreSt.setSysr_memWf_of ?_ _ _
          refine CoreSt.putRows_memWf ?_ _ _ _
          refine CoreSt.putRows_memWf ?_ _ _ _
          refine State.core_memWf ?_ _
          exact snd_memWf heq3 (State.sourceRows_memWf
            (snd_memWf heq2 (State.sourceRows_memWf h _ _ _ _ _)) _ _ _ _ _)
  · exact h
theorem State.seizMismatch_memWf {s : State} (h : s.memWf = true) (core : Nat) :
    (s.seizMismatch core).memWf = true := by
  unfold State.seizMismatch
  dsimp only
  refine ite_memWf (State.setCore_own_memWf h _ _) ?_
  exact State.report_memWf (State.setCore_own_memWf h _ _) _
theorem State.seizBegin_memWf {s : State} (h : s.memWf = true) (core : Nat) (z : Seizure) :
    (s.seizBegin core z).memWf = true := by
  unfold State.seizBegin
  dsimp only
  split
  · exact State.seizMismatch_memWf (State.report_memWf h _) _
  · exact State.setCore_own_memWf (State.seizLoad_memWf h _ _) _ _
/-- The step that writes the save area (R329) fills bytes of the core's own memory. -/
theorem CoreSt.fillSaveArea_memWf {c : CoreSt} (hc : c.memWf = true) (f : Nat → Byte) (bad : Tab Byte) :
    ({ c with mem := tfill 0 c.mem saveArea saveAreaSize f, memBad := bad } : CoreSt).memWf = true :=
  CoreSt.memWf_of_twf_mem hc (twf_tfill _ _ _ _ (CoreSt.memWf_iff.mp hc).1) bad
theorem execSeizureSaveEnd_keeps {s : State} (h : s.memWf = true) (core : Nat) :
    KeepsO (execSeizureSaveEnd core s) := by
  unfold execSeizureSaveEnd
  dsimp only
  split
  · refine keepsO_event h _ (State.seizBegin_memWf (ite_memWf (State.memWf_of_eq ?_) h) _ _)
    exact State.setCore_memWf h _ (CoreSt.fillSaveArea_memWf (State.core_memWf h _) _ _)
  · exact keepsO_next h
theorem CoreSt.seizProduct_memWf {c : CoreSt} (hc : c.memWf = true) (v : BitVec 512) :
    (c.seizProduct v).1.memWf = true := by
  unfold CoreSt.seizProduct
  split
  · dsimp only
    split
    · exact epilogue_memWf (CoreSt.setCells_memWf hc _) _ _ _ _ _ _ _
    · exact hc
theorem execSeizureRunEnd_keeps {s : State} (h : s.memWf = true) (core : Nat) :
    KeepsO (execSeizureRunEnd core s) := by
  unfold execSeizureRunEnd
  dsimp only
  split
  · refine keepsO_event h _ ?_
    refine State.setCore_memWf h _ ?_
    refine CoreSt.memWf_of_eq ?_
    split
    · exact CoreSt.seizProduct_memWf (State.core_memWf h _) _
    · exact State.core_memWf h _
  · exact keepsO_next h
theorem CoreSt.restoreSet_memWf {c : CoreSt} (hc : c.memWf = true) (v : BitVec 512) :
    (c.restoreSet v).memWf = true := by
  unfold CoreSt.restoreSet
  dsimp only
  refine CoreSt.memWf_of_eq ?_
  refine foldl_core_memWf _ (fun _ _ hs => CoreSt.setSysr_memWf_of hs _ _) _ ?_
  exact foldl_core_memWf _ (fun _ _ hs => CoreSt.setTile_memWf_of hs _ _) _ hc
theorem execSeizureRestoreEnd_keeps {s : State} (h : s.memWf = true) (core : Nat) :
    KeepsO (execSeizureRestoreEnd core s) := by
  unfold execSeizureRestoreEnd
  dsimp only
  split
  · refine keepsO_event h _ ?_
    refine State.fly_memWf ?_ _
    refine State.setCore_memWf h _ ?_
    exact CoreSt.memWf_of_eq (CoreSt.restoreSet_memWf (State.core_memWf h _) _)
  · exact keepsO_next h
theorem State.advanceC9_memWf {s : State} (h : s.memWf = true) (core v : Nat) :
    (s.advanceC9 core v).memWf = true := by
  unfold State.advanceC9
  exact State.wake_memWf (State.setCore_memWf h _ (CoreSt.memWf_of_eq (State.core_memWf h _))) _
theorem execSeizureResultAtRing_keeps {s : State} (h : s.memWf = true) (n : Nat) :
    KeepsO (execSeizureResultAtRing n s) := by
  unfold execSeizureResultAtRing
  refine keepsO_next ?_
  split
  · refine ite_memWf h ?_
    dsimp only
    split
    · exact State.advanceC9_memWf (State.ringWrite_memWf (State.unfly_memWf h _) _ _ _) _ _
    · exact h
    · exact State.advanceC9_memWf (State.report_memWf (State.unfly_memWf h _) _) _ _
  · exact h

/-! ### Upsets -/

theorem State.harmless_memWf {s : State} (h : s.memWf = true) (u : Upset) (cls : Nat) :
    (s.harmless u cls).memWf = true := State.report_memWf h _
theorem State.refetch_memWf {s : State} (h : s.memWf = true) (u : Upset) : (s.refetch u).memWf = true := by
  unfold State.refetch
  refine State.harmless_memWf ?_ _ _
  split
  · exact State.setCore_memWf h _ (CoreSt.memWf_of_eq (State.core_memWf h _))
  · exact State.setCore_memWf h _ (CoreSt.memWf_of_eq (State.core_memWf h _))
  · exact State.setCore_memWf h _ (CoreSt.memWf_of_eq (State.core_memWf h _))
  · exact State.setCluster_memWf_of h _ _
  · exact h
theorem State.latchPoison_memWf {s : State} (h : s.memWf = true) (core : Nat) (mask : BitVec 11) :
    (s.latchPoison core mask).memWf = true := by
  unfold State.latchPoison
  dsimp only
  split
  · exact h
  · exact State.memWf_of_eq (State.consumePoison_memWf (State.at_memWf_of h _ _) _ _ _ _ _)
theorem State.upset_memWf {s : State} (h : s.memWf = true) (u : Upset) (corrected : Bool) :
    (s.upset u corrected).memWf = true := by
  unfold State.upset
  refine ite_memWf h ?_
  split
  · exact State.refetch_memWf h _
  · exact State.refetch_memWf h _
  · exact State.refetch_memWf h _
  · exact State.refetch_memWf h _
  · exact State.latchPoison_memWf h _ _
  · exact State.seizMismatch_memWf h _
  · refine ite_memWf (State.harmless_memWf h _ _) ?_
    split
    · exact State.poison_memWf h _
    · exact State.setCore_memWf h _ (CoreSt.memWf_of_eq (State.core_memWf h _))
    · exact State.setCore_memWf h _ (CoreSt.memWf_of_eq (State.core_memWf h _))
    · exact State.setCore_memWf h _ (CoreSt.memWf_of_eq (State.core_memWf h _))
    · exact State.setSlot_memWf_of h _ _
    · exact h

end Sys2Proof.Machine
end

section
/-! SUPPORT. The Dispenser, the engines and pre-emption keep every memory canonical. -/

set_option Elab.async false

namespace Sys2Proof.Machine

/-! ### The Dispenser -/

/-- A walk of the dispenser or an engine keeps the form, whether it reaches the bytes or stops. -/
theorem State.locate_endsIn {s : State} (h : s.memWf = true) (who : Asker) (acc : Acc) (bad : List Nat)
    (ps : List (Nat × Nat)) : EndsIn (·.2.memWf = true) (·.2.memWf = true) (s.locate who acc bad ps) := by
  induction ps generalizing s with
  | nil => exact h
  | cons p ps ih =>
    have ht := State.xlateSecond_memWf h who acc p.1
    unfold State.locate
    refine endsIn_ite h (endsIn_ite h ?_)
    split
    next heq =>
      rw [heq] at ht
      exact endsIn_ite ht (endsIn_bind (ih ht) fun _ hs => hs)
    all_goals exact h
theorem State.readGlobal_endsIn {s : State} (h : s.memWf = true) (who : Asker) (bad : List Nat) (va n : Nat) :
    EndsIn (·.2.memWf = true) (·.2.memWf = true) (s.readGlobal who bad va n) :=
  endsIn_bind (State.locate_endsIn h who _ bad _) fun _ hs => hs
theorem State.postLaunch_memWf {s : State} (h : s.memWf = true) (submitter : Option Nat) (vf : Nat)
    (e : Word × Word) : (s.postLaunch submitter vf e).memWf = true := by
  unfold State.postLaunch
  split
  · exact State.postQ0_memWf h _ _
  · exact h
theorem State.badLaunch_memWf {s : State} (h : s.memWf = true) (submitter : Option Nat) (vf : Nat) (addr : Word)
    (value : Nat) : (s.badLaunch submitter vf addr value).memWf = true := State.postLaunch_memWf h _ _ _
theorem State.setLaunch_memWf {s : State} (h : s.memWf = true) (l : Launch) : (s.setLaunch l).memWf = true := h
theorem State.dropLaunch_memWf {s : State} (h : s.memWf = true) (id : Nat) : (s.dropLaunch id).memWf = true := h
theorem State.makeReady_memWf {s : State} (h : s.memWf = true) (l : Launch) (i : Nat) :
    (s.makeReady l i).memWf = true := by
  unfold State.makeReady
  split
  · exact h
  · exact h
theorem State.signal_memWf {s : State} (h : s.memWf = true) (vf : Nat) (addr : Word) :
    (s.signal vf addr).memWf = true := h
theorem State.doneUpdate_endsIn {s : State} (h : s.memWf = true) (l : Launch) :
    EndsIn (·.2.memWf = true) (·.memWf = true) (s.doneUpdate l) := by
  unfold State.doneUpdate
  dsimp only
  refine endsIn_ite h ?_
  have hl := State.locate_endsIn h (s.dispAsker l.vf l.submitter) .rmw l.bad [(hdrDone l.bits, 8)]
  split
  next heq =>
    have ht := (of_endsIn_ok heq hl :)
    exact ite_memWf (State.postLaunch_memWf ht _ _ _) (State.setBytes_memWf ht _ _)
  next heq => exact State.postLaunch_memWf (of_endsIn_ok heq hl :) _ _ _
  next heq => exact (of_endsIn_error heq hl :)
  next heq => exact (of_endsIn_error heq hl :)
  next heq => exact State.postLaunch_memWf (of_endsIn_error heq hl :) _ _ _
theorem State.finishLaunch_memWf {s : State} (h : s.memWf = true) (l : Launch) : (s.finishLaunch l).memWf = true := by
  unfold State.finishLaunch
  refine ite_memWf h ?_
  split
  next heq =>
    exact State.postFault_memWf (of_endsIn_error heq (State.doneUpdate_endsIn h _) :) _ _ _ _ _
  next heq =>
    exact (of_endsIn_error heq (State.doneUpdate_endsIn h _) :)
  next heq =>
    dsimp only
    refine foldl_memWf _ (fun _ _ hs => State.signal_memWf hs _ _) _ ?_
    refine State.postLaunch_memWf ?_ _ _ _
    exact State.dropLaunch_memWf (of_endsIn_ok heq (State.doneUpdate_endsIn h _) :) _
theorem State.taskDone_memWf {s : State} (h : s.memWf = true) (l : Launch) (i : Nat) :
    (s.taskDone l i).memWf = true := by
  unfold State.taskDone
  dsimp only
  refine State.finishLaunch_memWf ?_ _
  refine foldl_memWf _ (fun _ _ hs => State.makeReady_memWf hs _ _) _ ?_
  refine ite_memWf ?_ (State.setLaunch_memWf h _)
  exact State.postLaunch_memWf (State.setLaunch_memWf h _) _ _ _
theorem State.instanceDone_memWf {s : State} (h : s.memWf = true) (p : Placed) : (s.instanceDone p).memWf = true := by
  unfold State.instanceDone
  split
  · exact h
  · exact ite_memWf (State.taskDone_memWf (State.setLaunch_memWf h _) _ _) (State.setLaunch_memWf h _)
theorem State.takeLaunch_memWf {s : State} (h : s.memWf = true) (sub : Submission) (submitter : Option Nat) :
    (s.takeLaunch sub submitter).memWf = true := by
  unfold State.takeLaunch
  split
  · exact ite_memWf (State.badLaunch_memWf h _ _ _ _) h
  · dsimp only
    refine ite_memWf (State.badLaunch_memWf h _ _ _ _) ?_
    split
    next heq =>
      exact (of_endsIn_ok heq (State.readGlobal_endsIn h _ _ _ _) :)
    next heq =>
      refine State.memWf_of_eq ?_
      exact State.postFault_memWf (of_endsIn_error heq (State.readGlobal_endsIn h _ _ _ _) :) _ _ _ _ _
    next heq =>
      exact (of_endsIn_error heq (State.readGlobal_endsIn h _ _ _ _) :)
    next heq =>
      exact State.badLaunch_memWf (of_endsIn_error heq (State.readGlobal_endsIn h _ _ _ _) :) _ _ _ _
theorem execLaunchTake_keeps {s : State} (h : s.memWf = true) (core : Nat) : KeepsO (execLaunchTake core s) := by
  unfold execLaunchTake
  refine keepsO_next ?_
  split
  · exact h
  · refine ite_memWf h ?_
    refine State.takeLaunch_memWf ?_ _ _
    exact State.setCore_memWf h _ (CoreSt.memWf_of_eq (State.core_memWf h _))
theorem State.readRecord_endsIn {s : State} (h : s.memWf = true) (l : Launch) (i : Nat) :
    EndsIn (·.2.memWf = true) (·.2.2.memWf = true) (s.readRecord l i) := by
  unfold State.readRecord
  dsimp only
  split
  next heq => exact (of_endsIn_error heq (State.readGlobal_endsIn h _ _ _ _) :)
  next t heq =>
    have ht : t.memWf = true := (of_endsIn_ok heq (State.readGlobal_endsIn h _ _ _ _) :)
    refine endsIn_ite ht ?_
    split
    next heq => exact (of_endsIn_error heq (State.readGlobal_endsIn ht _ _ _ _) :)
    next u heq =>
      have hu : u.memWf = true := (of_endsIn_ok heq (State.readGlobal_endsIn ht _ _ _ _) :)
      exact endsIn_ite hu hu
theorem State.readRecords_endsIn {s : State} (h : s.memWf = true) (l : Launch) (i n : Nat) :
    EndsIn (·.2.2.memWf = true) (·.2.memWf = true) (s.readRecords l i n) := by
  induction n generalizing s i with
  | zero => exact h
  | succ n ih =>
    have hr := State.readRecord_endsIn h l i
    unfold State.readRecords
    split
    next heq => exact (of_endsIn_error heq hr :)
    next heq => exact endsIn_bind (ih (of_endsIn_ok heq hr :) _) fun _ hs => hs
theorem State.readLaunch_endsIn {s : State} (h : s.memWf = true) (l : Launch) :
    EndsIn (·.2.2.memWf = true) (·.2.2.memWf = true) (s.readLaunch l) := by
  unfold State.readLaunch
  split
  next heq => exact (of_endsIn_error heq (State.readGlobal_endsIn h _ _ _ _) :)
  next heq =>
    have ht := (of_endsIn_ok heq (State.readGlobal_endsIn h _ _ _ _) :)
    exact endsIn_bind (State.readRecords_endsIn ht _ _ _) fun _ hs => hs
theorem State.letIn_memWf {s : State} (h : s.memWf = true) (l : Launch) : (s.letIn l).memWf = true := by
  unfold State.letIn
  dsimp only
  refine ite_memWf (State.badLaunch_memWf (State.dropLaunch_memWf h _) _ _ _ _) ?_
  refine ite_memWf h ?_
  split
  next heq =>
    exact State.postFault_memWf (of_endsIn_error heq (State.readLaunch_endsIn h _) :) _ _ _ _ _
  next heq =>
    exact (of_endsIn_error heq (State.readLaunch_endsIn h _) :)
  next heq =>
    refine State.badLaunch_memWf ?_ _ _ _ _
    exact State.dropLaunch_memWf (of_endsIn_error heq (State.readLaunch_endsIn h _) :) _
  next heq =>
    refine State.finishLaunch_memWf ?_ _
    refine foldl_memWf _ (fun _ _ hs => State.makeReady_memWf hs _ _) _ ?_
    exact State.setLaunch_memWf (of_endsIn_ok heq (State.readLaunch_endsIn h _) :) _
theorem State.readHeader_memWf {s : State} (h : s.memWf = true) (l : Launch) : (s.readHeader l).memWf = true := by
  unfold State.readHeader
  split
  next heq =>
    exact (of_endsIn_ok heq (State.readGlobal_endsIn h _ _ _ _) :)
  next heq =>
    exact State.postFault_memWf (of_endsIn_error heq (State.readGlobal_endsIn h _ _ _ _) :) _ _ _ _ _
  next heq =>
    exact (of_endsIn_error heq (State.readGlobal_endsIn h _ _ _ _) :)
  next heq =>
    refine State.badLaunch_memWf ?_ _ _ _ _
    exact State.dropLaunch_memWf (of_endsIn_error heq (State.readGlobal_endsIn h _ _ _ _) :) _
theorem State.releaseLaunches_memWf {s : State} (h : s.memWf = true) (vf page : Nat) :
    (s.releaseLaunches vf page).memWf = true := h
theorem State.answerInvalid_memWf {s : State} (h : s.memWf = true) (token : Word) :
    (s.answerInvalid token).memWf = true := by
  unfold State.answerInvalid
  split
  · exact h
  · refine State.releaseLaunches_memWf ?_ _ _
    refine State.releaseEngines_memWf ?_ _ _ _
    exact State.discardLogged_memWf (State.releaseHolders_memWf (State.dropRecord_memWf h _ _) _ _ _) _ _
theorem execLaunchAdmit_keeps {s : State} (h : s.memWf = true) (n : Nat) : KeepsO (execLaunchAdmit n s) := by
  unfold execLaunchAdmit
  refine keepsO_next ?_
  split
  · exact h
  · refine ite_memWf (State.readHeader_memWf h _) ?_
    exact ite_memWf (State.finishLaunch_memWf h _) (ite_memWf h (State.letIn_memWf h _))
theorem State.place_memWf {s : State} (h : s.memWf = true) (d : Nat × Nat) (t : Ready) :
    (s.place d t).memWf = true := by
  unfold State.place
  dsimp only
  refine ite_memWf ?_ ?_
  · refine ite_memWf ?_ h
    refine State.memWf_of_eq ?_
    exact foldl_memWf _ (fun _ _ hs => State.setCore_own_memWf hs _ _) _ h
  · split
    · refine ite_memWf ?_ h
      refine State.memWf_of_eq ?_
      exact State.setCore_own_memWf h _ _
    · exact h
theorem State.beginStep_memWf {s : State} (h : s.memWf = true) (d : Nat × Nat) : (s.beginStep d).memWf = true := by
  unfold State.beginStep
  dsimp only
  refine foldl_memWf _ (fun _ _ hs => State.place_memWf hs _ _) _ ?_
  exact foldl_memWf _ (fun _ _ hs => State.setCore_own_memWf hs _ _) _ h
theorem CoreSt.startTask_memWf {c : CoreSt} (hc : c.memWf = true) (p : Placed) : (c.startTask p).memWf = true := by
  unfold CoreSt.startTask
  dsimp only
  refine CoreSt.memWf_of_eq ?_
  refine CoreSt.setCtx_memWf_of ?_ _ _
  refine CoreSt.setSysr_memWf_of ?_ _ _
  refine CoreSt.setSysr_memWf_of ?_ _ _
  refine CoreSt.setSysr_memWf_of ?_ _ _
  refine CoreSt.setSysr_memWf_of ?_ _ _
  split
  · exact CoreSt.setSysr_memWf_of (CoreSt.freshCode_memWf hc) _ _
  · exact CoreSt.freshCode_memWf hc
theorem State.startShare_memWf {s : State} (h : s.memWf = true) (core : Nat) : (s.startShare core).memWf = true := by
  unfold State.startShare
  split
  · exact h
  · refine ite_memWf ?_ ?_
    · dsimp only
      refine ite_memWf ?_ h
      refine State.setCore_memWf ?_ _ (CoreSt.startTask_memWf (State.core_memWf h _) _)
      exact State.setCore_memWf h _ (CoreSt.startTask_memWf (State.core_memWf h _) _)
    · exact ite_memWf (State.setCore_memWf h _ (CoreSt.startTask_memWf (State.core_memWf h _) _)) h
theorem State.beginVirtual_memWf {s : State} (h : s.memWf = true) (p : YProgram) (core k n : Nat) :
    (s.beginVirtual p core k n).memWf = true :=
  ite_memWf (State.setCtxAt_memWf h _ _ _) (ite_memWf (State.setCtxAt_memWf h _ _ _) h)
theorem State.startVirtual_memWf {s : State} (h : s.memWf = true) (core : Nat) :
    (s.startVirtual core).memWf = true := by
  unfold State.startVirtual
  dsimp only
  split
  · exact h
  · exact State.memWf_of_eq (foldl_memWf _ (fun _ _ hs => State.beginVirtual_memWf hs _ _ _ _) _ h)
theorem State.endVirtual_memWf {s : State} (h : s.memWf = true) (core ctx : Nat) :
    (s.endVirtual core ctx).memWf = true := by
  unfold State.endVirtual
  dsimp only
  split
  · exact h
  · exact h
theorem execTaskStart_keeps {s : State} (h : s.memWf = true) (core : Nat) : KeepsO (execTaskStart core s) :=
  keepsO_next (ite_memWf h (State.startVirtual_memWf (State.startShare_memWf h _) _))
theorem CoreSt.clearTask_memWf {c : CoreSt} (hc : c.memWf = true) : c.clearTask.memWf = true := by
  unfold CoreSt.clearTask
  exact CoreSt.memWf_of_eq (CoreSt.setCtx_memWf_of hc _ _)
theorem State.clearEnd_memWf {s : State} (h : s.memWf = true) (core : Nat) : (s.clearEnd core).memWf = true := by
  unfold State.clearEnd
  dsimp only
  refine State.endSteps_memWf ?_
  refine foldl_memWf _ (fun _ _ hs => State.barCheck_memWf hs _ _) _ ?_
  refine foldl_memWf _ (fun s a hs => ?_) _ h
  refine State.setCore_memWf hs _ ?_
  exact CoreSt.memWf_of_eq (CoreSt.clearTask_memWf (State.core_memWf hs _))
theorem State.speDrain_memWf {s : State} (h : s.memWf = true) (core : Nat) : (s.speDrain core).memWf = true := by
  unfold State.speDrain
  dsimp only
  refine State.memWf_of_eq ?_
  refine State.setCore_own_memWf ?_ _ _
  exact foldl_memWf _ (fun _ _ hs => State.speFlags_memWf (State.at_memWf_of hs _ _) _) _ h
theorem State.retire_memWf {s : State} (h : s.memWf = true) (core : Nat) : (s.retire core).memWf = true := by
  unfold State.retire
  dsimp only
  split
  · refine foldl_memWf _ (fun _ _ hs => State.instanceDone_memWf hs _) _ ?_
    refine foldl_memWf _ (fun s a hs => ?_) _ ?_
    · exact State.fwSwitch_memWf (State.setCore_own_memWf (State.speDrain_memWf hs _) _ _) _ _
    · exact State.endVirtual_memWf h _ _
  · refine foldl_memWf _ (fun s a hs => ?_) _ ?_
    · exact State.fwSwitch_memWf (State.setCore_own_memWf (State.speDrain_memWf hs _) _ _) _ _
    · exact State.endVirtual_memWf h _ _
theorem State.endRelease_memWf {s : State} (h : s.memWf = true) : s.endRelease.memWf = true := by
  unfold State.endRelease
  dsimp only
  refine ite_memWf ?_ ?_
  · refine State.beginRelease_memWf ?_ _ _ _
    exact State.setMy_memWf (State.fwSwitch_memWf (State.setMy_memWf (State.sent_memWf h _) _) _ _) _
  · refine ite_memWf ?_ (State.fwSwitch_memWf (State.setMy_memWf (State.sent_memWf h _) _) _ _)
    refine State.beginRelease_memWf ?_ _ _ _
    exact State.fwSwitch_memWf (State.setMy_memWf (State.sent_memWf h _) _) _ _
theorem execExit_keeps {s : State} (h : s.memWf = true) (g : Reg3) : KeepsO (execExit g s) := by
  unfold execExit
  refine keepsO_guarded h _ _ ?_
  refine keeps_ite (keeps_error _) ?_
  refine keeps_ite (keeps_ok (State.endRelease_memWf h)) ?_
  refine keeps_ite ?_ ?_
  · exact keeps_ok (State.setMy_memWf (State.endVirtual_memWf (State.speDrain_memWf h _) _ _) _)
  · exact keeps_ite (keeps_error _) (keeps_ok (State.retire_memWf h _))

/-! ### The engines -/

theorem State.postCommand_memWf {s : State} (h : s.memWf = true) (cluster chan : Nat) (cmd : Command) (status : Nat) :
    (s.postCommand cluster chan cmd status).1.memWf = true := by
  unfold State.postCommand
  dsimp only
  split
  · exact h
  · split
    · exact State.setChan_memWf (State.postQ0_memWf h _ _) _ _ _
    · exact State.postQ0_memWf h _ _
theorem State.takeCommand_memWf {s : State} (h : s.memWf = true) (cluster chan : Nat) :
    (s.takeCommand cluster chan).memWf = true := by
  unfold State.takeCommand
  dsimp only
  split
  · exact h
  · refine ite_memWf h ?_
    refine ite_memWf ?_ (State.setChan_memWf h _ _ _)
    refine ite_memWf ?_ (State.postCommand_memWf h _ _ _ _)
    exact State.setChan_memWf (State.postCommand_memWf h _ _ _ _) _ _ _
theorem State.atHome_endsIn {α : Type} {s : State} (h : s.memWf = true) (p : Place) {r : α} {Q : α → Prop}
    (hr : Q r) : EndsIn (·.2.memWf = true) Q (s.atHome p r) := endsIn_ite h hr
theorem State.enginePiece_endsIn {s : State} (h : s.memWf = true) (who : Asker) (acc : Acc) (held : List TlbEntry)
    (va : Nat) : EndsIn (·.2.memWf = true) (·.2.2.memWf = true) (s.enginePiece who acc held va) := by
  unfold State.enginePiece
  dsimp only
  split
  · refine endsIn_ite h (endsIn_ite (State.atHome_endsIn h _ h) (endsIn_ite h ?_))
    split
    next heq =>
      have ht := snd_snd_memWf heq (State.xlateWalk_memWf h _ _ _)
      exact endsIn_ite (State.atHome_endsIn ht _ ht) ht
    · exact h
  · refine endsIn_ite h ?_
    split
    next heq =>
      have ht := snd_snd_memWf heq (State.xlateSecond_memWf h _ _ _)
      exact State.atHome_endsIn ht _ ht
    · exact h
    · exact h
theorem State.enginePieces_endsIn {s : State} (h : s.memWf = true) (who : Asker) (acc : Acc) (held : List TlbEntry)
    (ps : List (Nat × Nat)) : EndsIn (·.2.memWf = true) (·.2.2.memWf = true) (s.enginePieces who acc held ps) := by
  induction ps generalizing s held with
  | nil => exact h
  | cons p ps ih =>
    refine endsIn_ite h (endsIn_bind (State.enginePiece_endsIn h _ _ _ _) fun _ ht => ?_)
    exact endsIn_bind (ih ht _) fun _ hs => hs
theorem State.operand_endsIn {s : State} (h : s.memWf = true) (cluster chan : Nat) (cmd : Command) (acc : Acc)
    (kind addr n : Nat) (cores : List Nat) :
    EndsIn (·.2.memWf = true) (·.2.memWf = true) (s.operand cluster chan cmd acc kind addr n cores) := by
  unfold State.operand
  split
  · exact endsIn_bind (State.enginePieces_endsIn h _ _ _ _) fun _ ht => State.setChan_memWf ht _ _ _
  · exact h
  · exact h
theorem State.poisonPieces_memWf {s : State} (h : s.memWf = true) (ps : List (Place × Nat)) (bad : List Bool) :
    (s.poisonPieces ps bad).memWf = true := by
  induction ps generalizing s bad with
  | nil => exact h
  | cons p ps ih => exact ih (foldl_memWf _ (fun _ _ hs => State.poison_memWf hs _) _ h) _
theorem State.putCopy_memWf {s : State} (h : s.memWf = true) (bs : List (Byte × Bool)) (ps : List (Place × Nat)) :
    (s.putCopy bs ps).memWf = true := by
  unfold State.putCopy
  dsimp only
  split
  · exact foldl_memWf _ (fun _ _ hs => State.poisonPieces_memWf (State.putPieces_memWf hs _ _) _ _) _ h
  · exact State.poisonPieces_memWf (State.putPieces_memWf h _ _) _ _
theorem State.engineRecord_memWf {s : State} (h : s.memWf = true) (cluster chan : Nat) (cmd : Command) (va : Nat)
    (hit : Option (Nat × Place × Nat)) : (s.engineRecord cluster chan cmd va hit).memWf = true := by
  unfold State.engineRecord
  split
  · exact h
  · exact State.report_memWf h _
theorem State.rowSource_endsIn {s : State} (h : s.memWf = true) (cluster chan : Nat) (cmd : Command) (v : BitVec 512)
    (r : Nat) : EndsIn (·.2.memWf = true) (·.2.2.memWf = true) (s.rowSource cluster chan cmd v r) :=
  endsIn_ite h (endsIn_bind (State.operand_endsIn h _ _ _ _ _ _ _ _) fun _ hs => hs)
theorem State.moveRow_endsIn {s : State} (h : s.memWf = true) (cluster chan : Nat) (cmd : Command) (v : BitVec 512)
    (r : Nat) : EndsIn (·.2.memWf = true) (·.memWf = true) (s.moveRow cluster chan cmd v r) := by
  refine endsIn_bind (State.rowSource_endsIn h _ _ _ _ _) fun _ ht => endsIn_ite ht ?_
  refine endsIn_bind (State.operand_endsIn ht _ _ _ _ _ _ _ _) fun _ hu => ?_
  exact State.engineRecord_memWf (foldl_memWf _ (fun _ _ hs => State.putCopy_memWf hs _ _) _ hu) _ _ _ _ _
theorem State.rowStopped_memWf {s : State} (h : s.memWf = true) (cluster chan : Nat) (cmd : Command) (v : BitVec 512)
    (l : RowStop) : (s.rowStopped cluster chan cmd v l).memWf = true := by
  unfold State.rowStopped
  split
  · exact h
  · exact State.postFault_memWf (State.setChan_memWf h _ _ _) _ _ _ _ _
  · dsimp only
    refine ite_memWf ?_ (State.stopEngine_memWf h _ _ _ _)
    exact State.engineRecord_memWf (State.stopEngine_memWf h _ _ _ _) _ _ _ _ _
theorem State.stepRow_memWf {s : State} (h : s.memWf = true) (cluster chan : Nat) :
    (s.stepRow cluster chan).memWf = true := by
  unfold State.stepRow
  dsimp only
  split
  · refine ite_memWf h ?_
    refine ite_memWf (State.setChan_memWf h _ _ _) ?_
    split
    next heq2 =>
      exact State.rowStopped_memWf (of_endsIn_error heq2 (State.moveRow_endsIn h _ _ _ _ _) :) _ _ _ _ _
    next heq2 =>
      exact State.setChan_memWf (of_endsIn_ok heq2 (State.moveRow_endsIn h _ _ _ _ _) :) _ _ _
  · exact h
theorem execMove_keeps {s : State} (h : s.memWf = true) (cluster chan : Nat) : KeepsO (execMove cluster chan s) := by
  unfold execMove
  dsimp only
  refine keepsO_next ?_
  exact ite_memWf (ite_memWf (State.takeCommand_memWf h _ _) h) (ite_memWf (State.stepRow_memWf h _ _) h)
theorem execFill_keeps {s : State} (h : s.memWf = true) (cluster chan : Nat) : KeepsO (execFill cluster chan s) := by
  unfold execFill
  dsimp only
  refine keepsO_next ?_
  exact ite_memWf h (ite_memWf (State.stepRow_memWf h _ _) (State.takeCommand_memWf h _ _))
theorem State.expandAll_endsIn {s : State} (h : s.memWf = true) (cluster chan : Nat) (cmd : Command) :
    EndsIn (·.2.memWf = true) (·.memWf = true) (s.expandAll cluster chan cmd) := by
  refine endsIn_bind (State.operand_endsIn h _ _ _ _ _ _ _ _) fun _ ht => ?_
  refine endsIn_bind (State.operand_endsIn ht _ _ _ _ _ _ _ _) fun _ hu => ?_
  refine State.setChan_memWf (State.engineRecord_memWf ?_ _ _ _ _ _) _ _ _
  exact foldl_memWf _ (fun _ _ hs => State.putCopy_memWf hs _ _) _ hu
theorem execExpand_keeps {s : State} (h : s.memWf = true) (cluster chan : Nat) :
    KeepsO (execExpand cluster chan s) := by
  unfold execExpand
  dsimp only
  refine keepsO_next ?_
  refine ite_memWf h ?_
  refine ite_memWf (State.takeCommand_memWf h _ _) ?_
  split
  · refine ite_memWf h ?_
    refine ite_memWf (State.setChan_memWf h _ _ _) ?_
    split
    next heq1 =>
      exact State.rowStopped_memWf (of_endsIn_error heq1 (State.expandAll_endsIn h _ _ _) :) _ _ _ _ _
    next heq1 =>
      exact (of_endsIn_ok heq1 (State.expandAll_endsIn h _ _ _) :)
  · exact h
theorem State.completeCommand_memWf {s : State} (h : s.memWf = true) (cluster chan : Nat) :
    (s.completeCommand cluster chan).memWf = true := by
  unfold State.completeCommand
  dsimp only
  split
  · exact h
  · refine ite_memWf h ?_
    refine ite_memWf ?_ ?_
    · split
      · exact State.postCommand_memWf h _ _ _ _
      · exact h
    · refine foldl_memWf _ (fun _ _ hs => State.wake_memWf hs _) _ ?_
      refine State.setChan_memWf ?_ _ _ _
      split
      · exact State.postCommand_memWf h _ _ _ _
      · exact h
theorem execEngineCommandComplete_keeps {s : State} (h : s.memWf = true) (cluster chan : Nat) :
    KeepsO (execEngineCommandComplete cluster chan s) :=
  keepsO_next (ite_memWf (State.completeCommand_memWf h _ _) (State.takeCommand_memWf h _ _))
theorem State.renewHeld_memWf {s t : State} (h : s.memWf = true) {e n : TlbEntry} {lcap : Nat}
    (ht : s.renewHeld e lcap = some (n, t)) : t.memWf = true := by
  unfold State.renewHeld at ht
  split at ht
  · dsimp only at ht
    split at ht
    · cases ht
      exact State.markLeaf_memWf h _ _
    · cases ht
  · cases ht
theorem State.renewAll_endsIn {s : State} (h : s.memWf = true) (lcap : Nat) (es : List TlbEntry) :
    EndsIn (·.2.memWf = true) (·.2.memWf = true) (s.renewAll lcap es) := by
  induction es generalizing s with
  | nil => exact h
  | cons e es ih =>
    refine endsIn_ite (endsIn_bind (Q := fun r : TlbEntry × State => r.2.memWf = true) ?_ fun _ ht => ?_) ?_
    · split
      next heq => exact State.renewHeld_memWf h heq
      · exact h
    · exact endsIn_bind (ih ht) fun _ hs => hs
    · refine endsIn_bind (Q := fun r : TlbEntry × State => r.2.memWf = true) h fun _ ht => ?_
      exact endsIn_bind (ih ht) fun _ hs => hs
theorem execLeaseRenewalWalk_keeps {s : State} (h : s.memWf = true) (cluster chan : Nat) :
    KeepsO (execLeaseRenewalWalk cluster chan s) := by
  unfold execLeaseRenewalWalk
  dsimp only
  refine keepsO_next ?_
  split
  · refine ite_memWf h ?_
    split
    next heq1 =>
      exact State.stopEngine_memWf (of_endsIn_error heq1 (State.renewAll_endsIn h _ _) :) _ _ _ _
    next heq1 =>
      exact State.setChan_memWf (of_endsIn_ok heq1 (State.renewAll_endsIn h _ _) :) _ _ _
  · exact h
theorem execPermitResume_keeps {s : State} (h : s.memWf = true) (core : Nat) : KeepsO (execPermitResume core s) := by
  unfold execPermitResume
  refine keepsO_next ?_
  refine foldl_memWf _ (fun s a hs => ?_) _ h
  dsimp only
  split
  · exact ite_memWf (State.setChan_memWf hs _ _ _) hs
  · exact hs

/-! ### Pre-emption, clearing and scrubbing -/

theorem CoreSt.stopForSave_memWf {c : CoreSt} (hc : c.memWf = true) : c.stopForSave.memWf = true := by
  unfold CoreSt.stopForSave
  exact CoreSt.memWf_of_eq (CoreSt.dropHeld_memWf hc)
theorem State.beginPreempt_memWf {s : State} (h : s.memWf = true) (d : Nat × Nat) (save : Bool) :
    (s.beginPreempt d save).memWf = true := by
  unfold State.beginPreempt
  dsimp only
  refine foldl_memWf _ (fun s a hs => ?_) _ h
  refine State.dropSc_memWf ?_ _ _
  exact State.setCore_memWf hs _ (CoreSt.stopForSave_memWf (State.core_memWf hs _))
theorem State.retryPreempt_memWf {s : State} (h : s.memWf = true) (d : Nat × Nat) : (s.retryPreempt d).memWf = true :=
  ite_memWf h (ite_memWf (State.beginPreempt_memWf h _ _) h)
theorem State.setPreempt_memWf {s : State} (h : s.memWf = true) (p : Preempt) : (s.setPreempt p).memWf = true := h
theorem execPreemptLogDrained_keeps {s : State} (h : s.memWf = true) (lvl dom : Nat) :
    KeepsO (execPreemptLogDrained lvl dom s) := by
  unfold execPreemptLogDrained
  split
  · refine keepsO_event h _ ?_
    exact foldl_memWf _ (fun _ _ hs => State.speDrain_memWf hs _) _ (State.setPreempt_memWf h _)
  · exact keepsO_next h
theorem State.writeSave_endsIn {s : State} (h : s.memWf = true) (p : Placed) (core : Nat) :
    EndsIn (·.memWf = true) (·.memWf = true) (s.writeSave p core) := by
  unfold State.writeSave
  dsimp only
  split
  next t heq =>
    have ht : t.memWf = true := (of_endsIn_ok heq (State.locate_endsIn h _ _ _ _) :)
    exact State.memWf_of_eq (State.putPieces_memWf ht _ _)
  next t heq =>
    have ht : t.memWf = true := (of_endsIn_error heq (State.locate_endsIn h _ _ _ _) :)
    exact State.postFault_memWf ht _ _ _ _ _
  next heq => exact (of_endsIn_error heq (State.locate_endsIn h _ _ _ _) :)
  next heq => exact (of_endsIn_error heq (State.locate_endsIn h _ _ _ _) :)
theorem State.writeSaves_endsIn {s : State} (h : s.memWf = true) (cs : List Nat) :
    EndsIn (·.memWf = true) (·.memWf = true) (s.writeSaves cs) := by
  induction cs generalizing s with
  | nil => exact h
  | cons c cs ih =>
    unfold State.writeSaves
    split
    · exact ih h
    · exact endsIn_bind (State.writeSave_endsIn h _ _) fun _ ht => ih ht
theorem CoreSt.vacate_memWf {c : CoreSt} (hc : c.memWf = true) : c.vacate.memWf = true := by
  unfold CoreSt.vacate
  exact CoreSt.memWf_of_eq (CoreSt.clearTask_memWf hc)
theorem State.finishSave_memWf {s : State} (h : s.memWf = true) (p : Preempt) : (s.finishSave p).memWf = true := by
  unfold State.finishSave
  dsimp only
  split
  next heq =>
    exact (of_endsIn_error heq (State.writeSaves_endsIn h _) :)
  next heq =>
    refine State.memWf_of_eq ?_
    refine foldl_memWf _ (fun s a hs => ?_) _ ?_
    · exact State.fwIdle_memWf (State.setCore_memWf hs _ (CoreSt.vacate_memWf (State.core_memWf hs _))) _
    · exact State.setPreempt_memWf (of_endsIn_ok heq (State.writeSaves_endsIn h _) :) _
theorem execPreemptSaveDone_keeps {s : State} (h : s.memWf = true) (lvl dom : Nat) :
    KeepsO (execPreemptSaveDone lvl dom s) := by
  unfold execPreemptSaveDone
  split
  · exact keepsO_event h _ (State.finishSave_memWf h _)
  · exact keepsO_next h
theorem CoreSt.restoreMem_memWf {c : CoreSt} (hc : c.memWf = true) (k : SavedCore) (fresh : Nat) :
    (c.restoreMem k fresh).memWf = true := CoreSt.memWf_of_twf_mem hc (twf_tfill _ _ _ _ (twf_tfill _ _ _ _ rfl)) _
theorem State.loadCore_memWf {s : State} (h : s.memWf = true) (d : Nat × Nat) (k : SavedCore) :
    (s.loadCore d k).memWf = true := by
  unfold State.loadCore
  dsimp only
  refine State.memWf_of_eq ?_
  refine State.setCore_memWf h _ ?_
  refine CoreSt.memWf_of_eq ?_
  refine ite_core_memWf ?_ ?_
  · refine CoreSt.restoreMem_memWf ?_ _ _
    exact foldl_core_memWf _ (fun _ _ hs => CoreSt.setSysr_memWf_of hs _ _) _ (State.core_memWf h _)
  · exact foldl_core_memWf _ (fun _ _ hs => CoreSt.setSysr_memWf_of hs _ _) _ (State.core_memWf h _)
theorem State.reloadCkpts_memWf {s : State} (h : s.memWf = true) (core : Nat) :
    (s.reloadCkpts core).memWf = true := by
  unfold State.reloadCkpts
  dsimp only
  refine State.memWf_of_eq ?_
  exact foldl_memWf _ (fun _ _ hs => ite_memWf (State.ckptReload_memWf (State.at_memWf_of hs _ _)) hs) _ h
theorem execPreemptedTaskResume_keeps {s : State} (h : s.memWf = true) (lvl dom : Nat) :
    KeepsO (execPreemptedTaskResume lvl dom s) := by
  unfold execPreemptedTaskResume
  dsimp only
  split
  · refine keepsO_event h _ ?_
    exact foldl_memWf _ (fun _ _ hs => State.reloadCkpts_memWf (State.loadCore_memWf hs _ _) _) _ h
  · exact keepsO_next h
theorem CoreSt.scrub_memWf {c : CoreSt} (hc : c.memWf = true) : c.scrub.memWf = true :=
  CoreSt.memWf_iff.mpr ⟨rfl, (CoreSt.memWf_iff.mp hc).2⟩
theorem execScrubEnd_keeps {s : State} (h : s.memWf = true) (core : Nat) : KeepsO (execScrubEnd core s) := by
  unfold execScrubEnd
  refine keepsO_event h _ ?_
  refine State.fwIdle_memWf ?_ _
  dsimp only
  refine State.memWf_of_eq ?_
  refine State.setCore_memWf h _ ?_
  exact CoreSt.setSysr_memWf_of (CoreSt.scrub_memWf (State.core_memWf h _)) _ _

end Sys2Proof.Machine
end

section
/-! SUPPORT. Resets, the host and service keep every memory canonical. -/

set_option Elab.async false

namespace Sys2Proof.Machine

/-! ### Resets -/

theorem State.writeAssign_memWf {s : State} (h : s.memWf = true) (reflex : Bool) (v : Nat) (x : Word) :
    (s.writeAssign reflex v x).memWf = true := ite_memWf h (ite_memWf h (ite_memWf h h))
theorem State.closeFunction_memWf {s : State} (h : s.memWf = true) (v : Nat) : (s.closeFunction v).memWf = true := by
  unfold State.closeFunction
  exact State.memWf_of_eq (State.setBytes_memWf h _ _)
theorem CoreSt.stopForReset_memWf {c : CoreSt} (hc : c.memWf = true) : c.stopForReset.memWf = true := by
  unfold CoreSt.stopForReset
  exact CoreSt.memWf_of_eq (CoreSt.dropHeld_memWf hc)
theorem State.resetFunction_memWf {s : State} (h : s.memWf = true) (v : Nat) : (s.resetFunction v).memWf = true := by
  unfold State.resetFunction
  refine ite_memWf h ?_
  dsimp only
  refine foldl_memWf _ (fun s a hs => ?_) _ (State.closeFunction_memWf h _)
  refine State.fwIdle_memWf ?_ _
  refine State.dropSc_memWf ?_ _ _
  exact State.setCore_memWf hs _ (CoreSt.stopForReset_memWf (State.core_memWf hs _))
theorem State.setReset_memWf {s : State} (h : s.memWf = true) (r : Reset) : (s.setReset r).memWf = true := h
theorem State.endFlight_memWf {s : State} (h : s.memWf = true) (n : Nat) (f : Flight) :
    (s.endFlight n f).memWf = true := by
  unfold State.endFlight
  split
  · dsimp only
    refine ite_memWf ?_ (State.memWf_of_eq (State.unfly_memWf h _))
    exact State.memWf_of_eq (State.setBytes_memWf (State.unfly_memWf h _) _ _)
  · exact State.unfly_memWf (State.setBytes_memWf h _ _) _
  · exact State.putCore_memWf (State.unfly_memWf h _) _ _ _
  · exact State.amofPerform_memWf (State.unfly_memWf h _) _ _ _ _ _ _ _
  · exact State.arriveCell_memWf (State.unfly_memWf h _) _ _
  · exact State.unfly_memWf (State.sendArrive_memWf h _) _
  · exact State.publish_memWf (State.refly_memWf h _ _) _
  · exact State.unfly_memWf h _
theorem State.endFlights_memWf {s : State} (h : s.memWf = true) (mine : Flight → Bool) (fuel n : Nat) :
    (s.endFlights mine fuel n).memWf = true := by
  induction fuel generalizing s n with
  | zero => exact h
  | succ fuel ih =>
    unfold State.endFlights
    split
    · exact h
    · exact ite_memWf (ih (State.endFlight_memWf h _ _) _) (ih h _)
theorem State.endPublications_memWf {s : State} (h : s.memWf = true) (mine : Flight → Bool) :
    (s.endPublications mine).memWf = true := foldl_memWf _ (fun _ _ hs => State.flip_memWf hs _) _ h
theorem State.endService_memWf {s : State} (h : s.memWf = true) (v : Nat) : (s.endService v).memWf = true := by
  unfold State.endService
  dsimp only
  refine State.memWf_of_eq ?_
  refine foldl_memWf _ (fun _ _ hs => State.setCluster_memWf_of hs _ _) _ ?_
  exact foldl_memWf _ (fun _ _ hs => State.setChan_memWf hs _ _ _) _ h
theorem State.refuseQueued_memWf {s : State} (h : s.memWf = true) (core : Nat) : (s.refuseQueued core).memWf = true :=
  State.fly_memWf (State.setCore_own_memWf h _ _) _
theorem State.loseResults_memWf {s : State} (h : s.memWf = true) (cs : List Nat) :
    (s.loseResults cs).memWf = true := by
  unfold State.loseResults
  extract_lets mark
  exact State.memWf_of_eq (State.mapCores_memWf h (f := fun c => { c with seiz := c.seiz.map mark }) fun _ hc => hc)
theorem State.drainFunction_memWf {s : State} (h : s.memWf = true) (v : Nat) : (s.drainFunction v).memWf = true := by
  unfold State.drainFunction
  dsimp only
  refine State.memWf_of_eq ?_
  refine State.endService_memWf ?_ _
  refine foldl_memWf _ (fun _ _ hs => State.refuseQueued_memWf (State.setCore_own_memWf hs _ _) _) _ ?_
  exact State.loseResults_memWf (State.endPublications_memWf (State.endFlights_memWf h _ _ _) _) _
theorem execFlrDrainEnd_keeps {s : State} (h : s.memWf = true) (v : Nat) : KeepsO (execFlrDrainEnd v s) := by
  unfold execFlrDrainEnd
  split
  · exact keepsO_event h _ (State.setReset_memWf (State.drainFunction_memWf h _) _)
  · exact keepsO_next h
theorem CoreSt.revoke_memWf {c : CoreSt} (hc : c.memWf = true) (v : Nat) : (c.revoke v).memWf = true := hc
theorem State.scrubFunction_memWf {s : State} (h : s.memWf = true) (v : Nat) : (s.scrubFunction v).memWf = true := by
  unfold State.scrubFunction
  extract_lets u
  have hu : u.memWf = true := foldl_memWf _ (fun _ _ ht =>
    State.fwIdle_memWf (State.setCore_memWf ht _ (CoreSt.scrub_memWf (State.core_memWf ht _))) _) _ h
  exact State.memWf_of_eq (State.mapCores_memWf hu fun _ hc => CoreSt.revoke_memWf hc v)
theorem execFlrScrubEnd_keeps {s : State} (h : s.memWf = true) (v : Nat) : KeepsO (execFlrScrubEnd v s) := by
  unfold execFlrScrubEnd
  split
  · exact keepsO_next (State.setReset_memWf (State.scrubFunction_memWf h _) _)
  · exact keepsO_next h
theorem State.endReset_memWf {s : State} (h : s.memWf = true) (v : Nat) : (s.endReset v).memWf = true := by
  unfold State.endReset
  exact State.memWf_of_eq (State.report_memWf h _)
theorem execFlrLeaseWaitEnd_keeps {s : State} (h : s.memWf = true) (v : Nat) : KeepsO (execFlrLeaseWaitEnd v s) := by
  unfold execFlrLeaseWaitEnd
  split
  · dsimp only
    refine keepsO_event h _ ?_
    exact foldl_memWf _ (fun _ _ hs => State.writeAssign_memWf hs _ _ _) _ (State.endReset_memWf h _)
  · exact keepsO_next h
theorem State.lostSectors_twf {s : State} (h : s.memWf = true) : twf 0 s.lostSectors = true :=
  twf_foldl (fun _ _ => twf_tfill _ _ _ _) _ ((memWf_def s).mp h).1
theorem State.deviceReset_memWf {s : State} (h : s.memWf = true) : s.deviceReset.memWf = true := by
  unfold State.deviceReset
  extract_lets b bank core r t u
  have ht : t.memWf = true := by
    obtain ⟨_, hhost, hpeer, _, _⟩ := (memWf_def s).mp h
    refine (memWf_def t).mpr ⟨State.lostSectors_twf h, hhost, hpeer, rfl, fun e he => ?_⟩
    obtain ⟨n, _, rfl⟩ := List.mem_map.mp he
    rfl
  clear_value t
  have hu : u.memWf = true := foldl_memWf _ (fun _ _ hs => State.setBytes_memWf hs _ _) _ ht
  exact State.memWf_of_eq (State.setBytes_memWf hu _ _)

/-! ### The host port -/

theorem State.setBlock_memWf {s : State} (h : s.memWf = true) (v : Nat) (q : QueueBlock) :
    (s.setBlock v q).memWf = true := h
theorem State.onBlock_memWf {s : State} (h : s.memWf = true) (v : Nat) (f : QueueBlock → QueueBlock) :
    (s.onBlock v f).memWf = true := ite_memWf (State.setBlock_memWf h _ _) h
theorem State.takeHostLaunch_memWf {s : State} (h : s.memWf = true) (v : Nat) :
    (s.takeHostLaunch v).memWf = true := by
  unfold State.takeHostLaunch
  dsimp only
  refine ite_memWf h ?_
  refine ite_memWf ?_ ?_
  · exact State.badLaunch_memWf (State.setBlock_memWf h _ _) _ _ _ _
  · exact State.takeLaunch_memWf (State.setBlock_memWf h _ _) _ _
theorem State.putEntry_memWf {s : State} (h : s.memWf = true) (v ring n : Nat) (bs : List Byte) :
    (s.putEntry v ring n bs).memWf = true := State.setBlock_memWf (State.setBytes_memWf h _ _) _ _
theorem State.postCompletion_memWf {s : State} (h : s.memWf = true) (v : Nat) :
    (s.postCompletion v).memWf = true := by
  unfold State.postCompletion
  dsimp only
  split
  · exact h
  · exact ite_memWf (State.putEntry_memWf (State.setBlock_memWf h _ _) _ _ _ _) h
theorem State.postRecord_memWf {s : State} (h : s.memWf = true) (v : Nat) : (s.postRecord v).memWf = true := by
  unfold State.postRecord
  dsimp only
  split
  · exact h
  · exact ite_memWf (State.putEntry_memWf (State.setBlock_memWf h _ _) _ _ _ _) h
theorem State.writePower_memWf {s : State} (h : s.memWf = true) (off : Nat) (x : Word) :
    (s.writePower off x).memWf = true := ite_memWf (ite_memWf h h) (ite_memWf (ite_memWf h h) (ite_memWf h h))
theorem State.writePeer_memWf {s : State} (h : s.memWf = true) (off : Nat) (x : Word) :
    (s.writePeer off x).memWf = true := by
  unfold State.writePeer
  refine ite_memWf (ite_memWf h h) ?_
  exact ite_memWf (ite_memWf h h) (ite_memWf (ite_memWf h h) (ite_memWf (ite_memWf h h) h))
theorem State.writeFirmware_memWf {s : State} (h : s.memWf = true) (off : Nat) (x : Word) :
    (s.writeFirmware off x).memWf = true := ite_memWf h h
theorem State.writeDramService_memWf {s : State} (h : s.memWf = true) (off : Nat) (x : Word) :
    (s.writeDramService off x).memWf = true := ite_memWf h (ite_memWf h (ite_memWf h h))
theorem State.writePf_memWf {s : State} (h : s.memWf = true) (off : Nat) (x : Word) :
    (s.writePf off x).memWf = true := by
  unfold State.writePf
  refine ite_memWf (State.writeFirmware_memWf h _ _) ?_
  refine ite_memWf h ?_
  refine ite_memWf (State.setBlock_memWf h _ _) ?_
  refine ite_memWf (State.writePower_memWf h _ _) ?_
  exact ite_memWf (State.writeDramService_memWf h _ _) (ite_memWf (State.writePeer_memWf h _ _) h)
theorem execHostRegisterWrite_keeps {s : State} (h : s.memWf = true) (vf : Option Nat) (off : Nat) (x : Word) :
    KeepsO (execHostRegisterWrite vf off x s) := by
  unfold execHostRegisterWrite
  refine keepsO_next ?_
  refine ite_memWf h ?_
  split
  · exact State.writePf_memWf h _ _
  · exact ite_memWf (State.onBlock_memWf h _ _) h
theorem State.bar2_memWf {s : State} (h : s.memWf = true) (off n : Nat) (write : Option Word) :
    (s.bar2 off n write).memWf = true := by
  unfold State.bar2
  refine ite_memWf h ?_
  split
  · exact ite_memWf h (State.setBytes_memWf h _ _)
  · exact ite_memWf h h
theorem execPeerLost_keeps {s : State} (h : s.memWf = true) : KeepsO (execPeerLost s) := by
  refine keepsO_next (ite_memWf h (ite_memWf (State.memWf_of_eq h) (ite_memWf ?_ h)))
  exact State.memWf_of_eq h

/-! ### DRAM service, power and firmware -/

theorem State.setDctl_memWf {s : State} (h : s.memWf = true) (chan : Nat) (d : DramCtl) :
    (s.setDctl chan d).memWf = true := h
theorem State.actOn_memWf {s : State} (h : s.memWf = true) (chan pa cls : Nat) (r : Repair) (detail : Word) :
    (s.actOn chan pa cls r detail).memWf = true := by
  unfold State.actOn
  dsimp only
  refine ite_memWf (State.report_memWf h _) ?_
  refine ite_memWf h ?_
  refine ite_memWf (State.report_memWf h _) ?_
  exact ite_memWf (State.report_memWf (State.setDctl_memWf h _ _) _) (State.setDctl_memWf h _ _)
theorem State.corrected_memWf {s : State} (h : s.memWf = true) (pa : Nat) : (s.corrected pa).memWf = true := by
  unfold State.corrected
  dsimp only
  split
  · refine State.report_memWf ?_ _
    refine State.setDctl_memWf ?_ _ _
    exact State.memWf_of_eq h
  · refine State.actOn_memWf ?_ _ _ _ _ _
    refine State.report_memWf ?_ _
    refine State.setDctl_memWf ?_ _ _
    exact State.memWf_of_eq h
  · refine State.actOn_memWf ?_ _ _ _ _ _
    refine State.report_memWf ?_ _
    refine State.setDctl_memWf ?_ _ _
    exact State.memWf_of_eq h
theorem State.evict_memWf {s : State} (h : s.memWf = true) (pa : Nat) : (s.evict pa).memWf = true :=
  State.writeBack_memWf h _
theorem execDramSectorFill_keeps {s : State} (h : s.memWf = true) (pa : Nat) (crc poison : Bool) :
    KeepsO (execDramSectorFill pa crc poison s) := by
  unfold execDramSectorFill
  refine keepsO_next ?_
  refine ite_memWf h ?_
  dsimp only
  refine ite_memWf (State.evict_memWf h _) ?_
  refine ite_memWf (State.poison_memWf (State.evict_memWf h _) _) ?_
  exact ite_memWf (State.corrected_memWf (State.evict_memWf h _) _) (State.evict_memWf h _)
theorem State.finishRepair_memWf {s : State} (h : s.memWf = true) (chan : Nat) :
    (s.finishRepair chan).memWf = true := by
  unfold State.finishRepair
  dsimp only
  split
  · exact h
  · split
    · exact State.report_memWf (State.setDctl_memWf h _ _) _
    · exact State.report_memWf (State.setDctl_memWf h _ _) _
theorem execDeclareFree_keeps {s : State} (h : s.memWf = true) : KeepsO (execDeclareFree s) := by
  refine keepsO_next ?_
  split
  · exact h
  · obtain ⟨hdram, hrest⟩ := (memWf_def s).mp h
    exact (memWf_def _).mpr ⟨twf_foldl (fun _ _ ht => twf_terase _ _ _ ht) _ hdram, hrest⟩
theorem execDeclareInUse_keeps {s : State} (h : s.memWf = true) : KeepsO (execDeclareInUse s) := by
  refine keepsO_next ?_
  split
  · exact h
  · obtain ⟨hdram, hrest⟩ := (memWf_def s).mp h
    exact (memWf_def _).mpr ⟨twf_foldl (fun _ _ => twf_tfill _ _ _ _) _ hdram, hrest⟩
theorem execPwrWrite_keeps {s : State} (h : s.memWf = true) (core : Nat) (x : Word) :
    KeepsO (execPwrWrite core x s) :=
  keepsO_event h _ (State.setCore_memWf h _ (CoreSt.memWf_of_eq (State.core_memWf h _)))
theorem execPowerSettingApply_keeps {s : State} (h : s.memWf = true) (core : Nat) :
    KeepsO (execPowerSettingApply core s) := by
  unfold execPowerSettingApply
  dsimp only
  refine keepsO_next ?_
  split
  · exact ite_memWf (State.setCore_own_memWf h _ _) h
  · exact h
theorem State.installDone_memWf {s : State} (h : s.memWf = true) : s.installDone.memWf = true :=
  ite_memWf h (ite_memWf h h)
theorem CoreSt.toSwitch_memWf {c : CoreSt} (hc : c.memWf = true) (core : Nat) : (c.toSwitch core).memWf = true :=
  ite_core_memWf (foldl_core_memWf _ (fun _ _ hs => CoreSt.setCtx_memWf_of hs _ _) _ hc) hc
theorem State.activate_memWf {s : State} (h : s.memWf = true) : s.activate.memWf = true := by
  unfold State.activate
  dsimp only
  refine foldl_memWf _ (fun _ _ hs => State.fwIdle_memWf hs _) _ ?_
  exact foldl_memWf _ (fun _ _ hs => State.setCore_memWf hs _ (CoreSt.toSwitch_memWf (State.core_memWf hs _) _)) _ h
theorem State.hostRead_memWf {s : State} (h : s.memWf = true) (vf : Option Nat) (off n : Nat) :
    (s.hostRead vf off n).memWf = true := ite_memWf h h

end Sys2Proof.Machine
end

section
/-! SUPPORT. The loader and containers keep every memory canonical; then every arm of the opcode table does. -/

set_option Elab.async false

namespace Sys2Proof.Machine

/-! ### Channels -/

theorem State.setProgram_memWf {s : State} (h : s.memWf = true) (p : YProgram) : (s.setProgram p).memWf = true := h
theorem State.stubbed_memWf {s : State} (h : s.memWf = true) : s.stubbed.memWf = true := by
  unfold State.stubbed
  exact State.memWf_of_eq (State.setMy_memWf h _)
theorem execChsend_keeps {s : State} (h : s.memWf = true) (d a b : Reg5) (g : Reg3) :
    KeepsO (execChsend d a b g s) := by
  unfold execChsend
  refine keepsO_guarded h _ _ ?_
  dsimp only
  refine keeps_bind fun _ _ => ?_
  refine keeps_bind fun _ _ => ?_
  refine keeps_bind fun _ _ => ?_
  refine keeps_ite (keeps_ok (State.advance_memWf (State.setG_memWf (State.stubbed_memWf h) _ _) _)) ?_
  refine keeps_ite (keeps_error _) ?_
  refine keeps_ite (keeps_error _) ?_
  refine keeps_ok ?_
  exact State.sent_memWf (State.setG_memWf (State.stubbed_memWf (State.setProgram_memWf h _)) _ _) _
theorem execChrecv_keeps {s : State} (h : s.memWf = true) (d a b : Reg5) (g : Reg3) :
    KeepsO (execChrecv d a b g s) := by
  unfold execChrecv
  refine keepsO_guarded h _ _ ?_
  dsimp only
  refine keeps_bind fun _ _ => ?_
  refine keeps_ite (keeps_error _) ?_
  refine keeps_ite (keeps_error _) ?_
  refine keeps_bind fun _ _ => ?_
  refine keeps_bind fun _ _ => ?_
  split
  · refine keeps_ite ?_ (keeps_error _)
    exact keeps_ok (State.advance_memWf (State.setG_memWf (State.stubbed_memWf h) _ _) _)
  · refine keeps_ok ?_
    refine State.advance_memWf ?_ _
    refine State.setG_memWf ?_ _ _
    refine State.stubbed_memWf ?_
    exact State.discardAhead_memWf (State.setBytes_memWf (State.setProgram_memWf h _) _ _)
theorem execChclose_keeps {s : State} (h : s.memWf = true) (a : Reg5) (g : Reg3) : KeepsO (execChclose a g s) := by
  unfold execChclose
  refine keepsO_guarded h _ _ ?_
  dsimp only
  refine keeps_bind fun _ _ => ?_
  refine keeps_ite (keeps_error _) ?_
  exact keeps_ok (State.sent_memWf (State.stubbed_memWf (State.setProgram_memWf h _)) _)

/-! ### The loader -/

theorem State.permit_memWf {s : State} (h : s.memWf = true) (x : Section) (l : Leaf) : (s.permit x l).memWf = true :=
  foldl_memWf _ (fun _ _ hs => State.setBytes_memWf hs _ _) _ h
theorem State.placePiece_memWf {s : State} (h : s.memWf = true) (v : Nat) (x : Section) (va : Nat) (bs : List Byte) :
    (s.placePiece v x va bs).memWf = true := by
  unfold State.placePiece
  split
  · dsimp only
    refine ite_memWf ?_ (State.setBytes_memWf (State.permit_memWf h _ _) _ _)
    refine State.staleLines_memWf ?_ _
    refine foldl_memWf _ (fun _ _ hs => State.cleanLine_memWf hs _) _ ?_
    exact State.setBytes_memWf (State.permit_memWf h _ _) _ _
  · exact h
theorem State.placePieces_memWf {s : State} (h : s.memWf = true) (v : Nat) (x : Section) (ps : List (Nat × Nat))
    (bs : List Byte) : (s.placePieces v x ps bs).memWf = true := by
  induction ps generalizing s bs with
  | nil => exact h
  | cons p ps ih => exact ih (State.placePiece_memWf h _ _ _ _) _
theorem State.placeSection_memWf {s : State} (h : s.memWf = true) (v : Nat) (p : Section × Nat × List Byte) :
    (s.placeSection v p).memWf = true := by
  unfold State.placeSection
  dsimp only
  refine ite_memWf (State.placePieces_memWf h _ _ _ _) ?_
  exact ite_memWf (foldl_memWf _ (fun _ _ hs => State.setBytes_memWf hs _ _) _ h) h
theorem State.placeParts_memWf {s : State} (h : s.memWf = true) (v : Nat) (ps : List (Section × Nat × List Byte)) :
    (s.placeParts v ps).memWf = true := foldl_memWf _ (fun _ _ hs => State.placeSection_memWf hs _ _) _ h
theorem State.bind_memWf {s : State} (h : s.memWf = true) (v : Nat) (b : Binding) : (s.bind v b).memWf = true := by
  unfold State.bind
  split
  · exact ite_memWf (State.putPieces_memWf h _ _) h
  · exact h
theorem State.install_memWf {s : State} (h : s.memWf = true) (v : Nat) (im : Image) (progs : List YProgram) :
    (s.install v im progs).memWf = true := by
  unfold State.install
  dsimp only
  refine State.memWf_of_eq ?_
  refine ite_memWf ?_ ?_
  · exact foldl_memWf _ (fun _ _ hs => State.bind_memWf hs _ _) _ h
  · exact State.memWf_of_eq (foldl_memWf _ (fun _ _ hs => State.bind_memWf hs _ _) _ h)
theorem State.refuseLoad_memWf {s : State} (h : s.memWf = true) (v step : Nat) (bs : List Byte) (base : Nat) :
    (s.refuseLoad v step bs base).memWf = true := by
  unfold State.refuseLoad
  dsimp only
  refine State.memWf_of_eq ?_
  refine ite_memWf h ?_
  refine foldl_memWf _ (fun s a hs => ?_) _ h
  split
  · exact State.memWf_of_eq (State.putPieces_memWf hs _ _)
  · exact hs
theorem State.finishLoad_memWf {s : State} (h : s.memWf = true) (v : Nat) (bs : List Byte) (base : Nat) (im : Image) :
    (s.finishLoad v bs base im).memWf = true := by
  unfold State.finishLoad
  dsimp only
  refine ite_memWf (State.refuseLoad_memWf h _ _ _ _) ?_
  split
  · exact State.postFault_memWf h _ _ _ _ _
  · exact State.refuseLoad_memWf h _ _ _ _
  · split
    · exact State.refuseLoad_memWf h _ _ _ _
    · refine State.install_memWf ?_ _ _ _
      refine ite_memWf (State.placeParts_memWf h _ _) ?_
      exact State.placeParts_memWf (State.placeParts_memWf h _ _) _ _
theorem State.loadObject_memWf {s : State} (h : s.memWf = true) (v addr len base : Nat) :
    (s.loadObject v addr len base).memWf = true := by
  unfold State.loadObject
  split
  next heq =>
    exact State.postFault_memWf (of_endsIn_error heq (State.readGlobal_endsIn h _ _ _ _) :) _ _ _ _ _
  next heq =>
    exact (of_endsIn_error heq (State.readGlobal_endsIn h _ _ _ _) :)
  next heq =>
    exact (of_endsIn_error heq (State.readGlobal_endsIn h _ _ _ _) :)
  next heq =>
    split
    · exact State.refuseLoad_memWf (of_endsIn_ok heq (State.readGlobal_endsIn h _ _ _ _) :) _ _ _ _
    · split
      · exact State.postFault_memWf (of_endsIn_ok heq (State.readGlobal_endsIn h _ _ _ _) :) _ _ _ _ _
      · refine ite_memWf ?_ ?_
        · exact State.refuseLoad_memWf (of_endsIn_ok heq (State.readGlobal_endsIn h _ _ _ _) :) _ _ _ _
        · exact State.finishLoad_memWf (of_endsIn_ok heq (State.readGlobal_endsIn h _ _ _ _) :) _ _ _ _

/-! ### Containers -/

theorem State.codeAt_endsIn {s : State} (h : s.memWf = true) (v va n : Nat) :
    EndsIn (·.2.memWf = true) (fun _ => True) (s.codeAt v va n) := by
  induction n generalizing va with
  | zero => trivial
  | succ n ih =>
    refine endsIn_bind (State.readGlobal_endsIn h _ _ _ _) fun _ _ => ?_
    refine endsIn_bind (State.readGlobal_endsIn h _ _ _ _) fun _ _ => ?_
    exact endsIn_bind (ih _) fun _ _ => trivial
theorem State.replayFrom_endsIn {s : State} (h : s.memWf = true) (v : Nat) (bs : List Byte) :
    EndsIn (·.2.memWf = true) (fun _ => True) (s.replayFrom v bs) := by
  refine endsIn_ite trivial (endsIn_bind (State.codeAt_endsIn h _ _ _) fun _ _ => endsIn_ite ?_ trivial)
  exact endsIn_bind (State.readGlobal_endsIn h _ _ _ _) fun _ _ => trivial
theorem coreFrom_memWf {c : CoreSt} (hc : c.memWf = true) (fs : List CField) (replays : List (Option Replay)) :
    (coreFrom c fs replays).memWf = true := by
  unfold coreFrom
  extract_lets d c1 c2 c3 rows c4 c5 c6 c7
  have hc2 : c2.memWf = true := hc
  clear_value c2
  have hc3 : c3.memWf = true := ite_core_memWf hc2
    (foldl_core_memWf _ (fun _ _ hs => CoreSt.setSysr_memWf_of (CoreSt.setTile_memWf_of hs _ _) _ _) _ hc2)
  clear_value c3
  have hc4 : c4.memWf = true :=
    foldl_core_memWf _ (fun _ _ hs => foldl_core_memWf _ (fun _ _ hs => CoreSt.setCell_memWf_of hs _ _ _) _ hs) _ hc3
  clear_value c4
  have hc5 : c5.memWf = true := foldl_core_memWf _ (fun _ _ hs => CoreSt.setX_memWf_of hs _ _) _ hc4
  clear_value c5
  have hc6 : c6.memWf = true :=
    CoreSt.setSysr_memWf_of (CoreSt.setSysr_memWf_of (CoreSt.setSysr_memWf_of hc5 _ _) _ _) _ _
  clear_value c6
  have hc7 : c7.memWf = true := foldl_core_memWf _ (fun _ _ hs => CoreSt.setSysr_memWf_of hs _ _) _ hc6
  obtain ⟨hmem, htbuf⟩ := CoreSt.memWf_iff.mp hc7
  exact CoreSt.memWf_iff.mpr ⟨twf_twrites _ _ _ hmem, htbuf⟩
theorem State.replaysFrom_endsIn {s : State} (h : s.memWf = true) (v : Nat) (bs : List Byte) (n : Nat) :
    EndsIn (·.2.memWf = true) (fun _ => True) (s.replaysFrom v bs n) := by
  induction n generalizing bs with
  | zero => trivial
  | succ n ih => exact endsIn_bind (State.replayFrom_endsIn h _ _) fun _ _ => endsIn_bind (ih _) fun _ _ => trivial
theorem State.restoreContainer_endsIn {s : State} (h : s.memWf = true) (core : Nat) (bs : List Byte) :
    EndsIn (·.memWf = true) (·.memWf = true) (s.restoreContainer core bs) := by
  unfold State.restoreContainer
  split
  · exact h
  next fs _ =>
    refine endsIn_ite h ?_
    split
    next t heq =>
      have ht : t.memWf = true := (of_endsIn_error heq (State.replaysFrom_endsIn h _ _ _) :)
      exact State.postFault_memWf ht _ _ _ _ _
    · exact h
    · exact State.reloadCkpts_memWf
        (State.memWf_of_eq (State.setCore_memWf h _ (coreFrom_memWf (State.core_memWf h _) _ _))) _
theorem State.goOn_memWf {s : State} (h : s.memWf = true) (core : Nat) : (s.goOn core).memWf = true := by
  unfold State.goOn
  dsimp only
  refine State.memWf_of_eq ?_
  refine foldl_memWf _ (fun _ _ hs => State.restore_memWf (State.at_memWf_of hs _ _)) _ ?_
  exact State.setCore_own_memWf h _ _
theorem State.captureSet_memWf {s : State} (h : s.memWf = true) : s.captureSet.2.memWf = true := by
  unfold State.captureSet
  dsimp only
  refine foldl_memWf _ (fun _ _ hs => State.goOn_memWf hs _) _ ?_
  exact State.memWf_of_eq (foldl_memWf _ (fun _ _ hs => State.speDrain_memWf hs _) _ h)
theorem State.writeSet_memWf {s : State} (h : s.memWf = true) : s.writeSet.memWf = true := by
  unfold State.writeSet
  dsimp only
  refine ite_memWf (State.captureSet_memWf h) ?_
  exact State.memWf_of_eq (State.setBytes_memWf (State.setBytes_memWf (State.captureSet_memWf h) _ _) _ _)
theorem State.finishCapture_memWf {s : State} (h : s.memWf = true) : s.finishCapture.memWf = true :=
  ite_memWf (State.writeSet_memWf h) h
theorem State.beginCapture_memWf {s : State} (h : s.memWf = true) : s.beginCapture.memWf = true := by
  unfold State.beginCapture
  dsimp only
  refine ite_memWf h ?_
  refine ite_memWf ?_ ?_
  · exact State.writeSet_memWf (foldl_memWf _ (fun _ _ hs => State.beginPreempt_memWf hs _ _) _ h)
  · exact foldl_memWf _ (fun _ _ hs => State.beginPreempt_memWf hs _ _) _ h
theorem execContainerCapture_keeps {s : State} (h : s.memWf = true) : KeepsO (execContainerCapture s) := by
  unfold execContainerCapture
  refine keepsO_next ?_
  exact ite_memWf (State.finishCapture_memWf h) (ite_memWf (State.beginCapture_memWf h) h)
theorem State.restoreSet_endsIn {s : State} (h : s.memWf = true) (bs : List Byte) (n : Nat) :
    EndsIn (·.memWf = true) (·.memWf = true) (s.restoreSet bs n) := by
  induction n generalizing s bs with
  | zero => exact h
  | succ n ih => exact endsIn_ite h (endsIn_bind (State.restoreContainer_endsIn h _ _) fun _ ht => ih ht _)
theorem State.memWf_of_restoreSet_ok {s t : State} (h : s.memWf = true) {bs : List Byte} {n : Nat}
    (ht : s.restoreSet bs n = .ok t) : t.memWf = true := (of_endsIn_ok ht (State.restoreSet_endsIn h bs n) :)
theorem State.memWf_of_restoreSet_error {s t : State} (h : s.memWf = true) {bs : List Byte} {n : Nat}
    (ht : s.restoreSet bs n = .error t) : t.memWf = true := (of_endsIn_error ht (State.restoreSet_endsIn h bs n) :)
theorem execSpareTakeover_keeps {s : State} (h : s.memWf = true) : KeepsO (execSpareTakeover s) := by
  unfold execSpareTakeover
  extract_lets base n bs t
  refine keepsO_event h _ ?_
  unfold t
  clear_value bs
  split
  next heq => exact State.memWf_of_eq (State.memWf_of_restoreSet_ok h heq)
  next heq => exact State.memWf_of_restoreSet_error h heq

/-! ### Control flow -/

theorem jumpTo_keeps {s : State} (h : s.memWf = true) (t : Word) (link : Option Word) : Keeps (jumpTo s t link) := by
  unfold jumpTo
  split
  · exact keeps_error _
  · split
    · exact keeps_ok (State.jump_memWf (State.setG_memWf h _ _) _)
    · exact keeps_ok (State.jump_memWf h _)
theorem startReplay_memWf {s : State} (h : s.memWf = true) (nm1 : Reg5) (n : Count) (steps : Option RepSteps) :
    (startReplay s nm1 n steps).memWf = true := State.setMy_memWf (State.advance_memWf h _) _

/-! ### Every instruction and every event -/

/-- Every arm of the opcode table keeps every memory canonical: forms that several instructions share stand together. -/
theorem exec_keeps {s : State} (h : s.memWf = true) (i : Instr) : KeepsO (exec i s) := by
  unfold exec
  cases i with
  | add | sub | mul | mulh | mulhu | div | divu | rem | remu | and | or | xor | andn | orn | shl | shr | sra | rotl
    | min | max | minu | maxu => exact scalar_keeps h _ _ _ _ _
  | clz | ctz | popc | brev | bswap | sextB | sextH | sextW | zextB | zextH | zextW
    | mov => exact scalar1_keeps h _ _ _ _
  | sel | movi | moviLit | aget | vpcnt | vfirst | tlrd => exact keepsO_done h _ _ (State.setG_memWf h _ _)
  | addi | andi | ori | xori => exact scalarImm_keeps h _ _ _ _
  | shli | shri | srai | rotli => exact shiftImm_keeps h _ _ _ _
  | cmpEq | cmpNe | cmpLt | cmpLe | cmpLtu | cmpLeu => exact compare_keeps h _ _ _ _ _
  | cmpiEq | cmpiNe | cmpiLt | cmpiLe | cmpiLtu | cmpiLeu => exact compareImm_keeps h _ _ _ _
  | pand | por | pxor | pnot | pmov => exact predicate_keeps h _ _ _
  | aput | ainc | acfg => exact keepsO_done h _ _ (State.setA_memWf h _ _)
  | br | bl | jr | jlr | ret => exact keepsO_guarded h _ _ (jumpTo_keeps h _ _)
  | rep | repStepped => exact keepsO_next (startReplay_memWf h _ _ _)
  | nop => exact keepsO_next (State.advance_memWf h _)
  | illegal | trap => exact keepsO_run h (keeps_error _)
  | ld | ldExt | ldS | ldSExt => exact loadForm_keeps h _ _ _ _ _ _ _ _ _
  | lda | ldaS => exact loadPtr_keeps h _ _ _ _ _ _ _
  | st | stExt => exact storeForm_keeps h _ _ _ _ _ _ _ _
  | sta => exact storePtr_keeps h _ _ _ _ _ _
  | vld | vlds | vgth => exact vloadForm_keeps h _ _ _ _ _ _ _ _ _
  | vst | vsct => exact vstoreForm_keeps h _ _ _ _ _ _ _ _ _
  | amo | amoLocal => exact keepsO_run h (amoAt_keeps h _ _ _ _ _ _ _)
  | cas | casLocal => exact keepsO_run h (casAt_keeps h _ _ _ _ _ _ _)
  | amof => exact execAmof_keeps h _ _ _ _ _ _
  | fence => exact execFence_keeps h _ _ _
  | acq => exact execAcq_keeps h _ _
  | rel => exact execRel_keeps h _ _
  | pref => exact keepsO_done h _ _ h
  | clean => exact execClean_keeps h _ _ _
  | czero => exact execCzero_keeps h _ _ _
  | sbind => exact execSbind_keeps h _ _ _
  | sfree => exact execSfree_keeps h _ _
  | vadd | vsub | vmul | vmin | vmax | vdiv => exact vf2_keeps h _ _ _ _ _ _ _
  | vfma | vfms | vfnma => exact vf3_keeps h _ _ _ _ _ _ _
  | vabs | vneg | vsqrt | vrcp | vrsq | vexp | vlog | vsig | vtanh => exact vf1_keeps h _ _ _ _ _ _
  | viadd | visub | vimul | vimin | vimax | vshl | vshr | vsra | vand | vor | vxor => exact vi2_keeps h _ _ _ _ _ _ _
  | vnot => exact vecForm_keeps h _ _ _ _ _ _ _
  | vcmp | vicmp => exact predForm_keeps h _ _ _ _ _ _ _
  | vmov | vbcast | vperm | vslide | vzip | vunzip | vexpd | viota | vsel => exact moveForm_keeps h _ _ _ _ _ _ _
  | vext => exact execVext_keeps h _ _ _ _ _ _
  | vins => exact execVins_keeps h _ _ _ _ _ _
  | vcomp => exact execVcomp_keeps h _ _ _ _ _
  | vcvt => exact execVcvt_keeps h _ _ _ _ _ _ _
  | vredAdd => exact execVredAdd_keeps h _ _ _ _ _
  | vredMin => exact execVredMin_keeps h _ _ _ _ _
  | vredMax => exact execVredMax_keeps h _ _ _ _ _
  | vredAnd | vredOr | vredXor => exact redBits_keeps h _ _ _ _ _ _ _
  | vbtst => exact execVbtst_keeps h _ _ _ _ _ _
  | tld | tst | tldb | tldt | tldLit => exact tileForm_keeps h _ _ _ _ _ _ _ _
  | tzero => exact execTzero_keeps h _ _
  | accz => exact execAccz_keeps h _ _
  | accrd => exact execAccrd_keeps h _ _ _
  | accwr => exact execAccwr_keeps h _ _ _
  | accld => exact execAccld_keeps h _ _ _ _
  | accst => exact execAccst_keeps h _ _ _ _
  | mma => exact execMma_keeps h _ _ _ _
  | mxepi => exact execMxepi_keeps h _ _ _ _ _ _ _
  | mxgate => exact execMxgate_keeps h _ _ _ _
  | mxred => exact execMxred_keeps h _ _ _ _ _
  | mxsend => exact execMxsend_keeps h _ _ _ _ _
  | gori2 | gori3 | gincir | ginsph | gsegx | gsegt => exact geoForm_keeps h _ _ _ _ _ _ _ _
  | spld | spldExt | spst | spstExt => exact speMem_keeps h _ _ _ _ _ _ _
  | spmov => exact execSpmov_keeps h _ _ _
  | spset => exact execSpset_keeps h _ _ _
  | sptree => exact execSptree_keeps h _ _ _ _
  | spup | spmax => exact speUp_keeps h _ _ _ _ _
  | spdn => exact execSpdn_keeps h _ _ _ _
  | spnorm => exact execSpnorm_keeps h _ _ _
  | spcvt => exact execSpcvt_keeps h _ _ _
  | bar | xph => exact keepsO_guarded h _ _ (keeps_ite (keeps_error _) (barrierBody_keeps h _ _))
  | bararv => exact execBararv_keeps h _ _
  | barwt => exact execBarwt_keeps h _ _
  | push => exact execPush_keeps h _ _ _
  | tlwt | tlwtLit => exact keepsO_guarded h _ _ (timelineWait_keeps h _ _ _)
  | send => exact execSend_keeps h _ _ _ _
  | recv => exact execRecv_keeps h _ _ _
  | rpoll => exact execRpoll_keeps h _ _ _
  | qrd => exact execQrd_keeps h _ _ _
  | qwr => exact execQwr_keeps h _ _ _ _
  | start => exact execStart_keeps h _ _ _ _
  | joinh => exact execJoinh_keeps h _ _
  | exit => exact execExit_keeps h _
  | region => exact keepsO_done h _ _ (State.setMy_memWf h _)
  | ckpt => exact execCkpt_keeps h _ _
  | mpub => exact execMpub_keeps h _ _ _ _ _
  | mread => exact execMread_keeps h _ _ _ _ _
  | mwait => exact execMwait_keeps h _ _ _ _
  | time => exact keepsO_done h _ _ (State.setG_memWf (State.setMy_memWf h _) _ _)
  | sleep | sleepLit => exact keepsO_guarded h _ _ (sleepUntil_keeps h _ _)
  | wfe => exact execWfe_keeps h _
  | mfs => exact execMfs_keeps h _ _
  | mts => exact execMts_keeps h _ _
  | eret => exact execEret_keeps h
  | tlbfl => exact execTlbfl_keeps h
  | tlbren => exact execTlbren_keeps h _ _
  | capld => exact execCapld_keeps h _ _
  | capclr => exact keepsO_next (State.advance_memWf (State.setMy_memWf h _) _)
  | chsend => exact execChsend_keeps h _ _ _ _
  | chrecv => exact execChrecv_keeps h _ _ _ _
  | chclose => exact execChclose_keeps h _ _
  | vcid => exact keepsO_done h _ _ (State.setG_memWf (State.stubbed_memWf h) _ _)
  | streamReadAhead => exact execStreamReadAhead_keeps h _ _ _
  | sideLogReplay => exact keepsO_next (State.replayLog_memWf h _ _)
  | heldAccessResume | wfeWakeWithNoEvent => exact keepsO_event h _ (State.setCtxAt_memWf h _ _ _)
  | faultRecordPost => exact execFaultRecordPost_keeps h _ _
  | faultAnswerMapped => exact keepsO_next (State.answerMapped_memWf h _)
  | faultAnswerInvalid => exact keepsO_next (State.answerInvalid_memWf h _)
  | pageWalkComplete => exact execPageWalkComplete_keeps h _ _ _ _
  | tlbEntryExpiry => exact execTlbEntryExpiry_keeps h _
  | memoryRequestAtHome => exact execMemoryRequestAtHome_keeps h _
  | refusedRequestReissue => exact execRefusedRequestReissue_keeps h _
  | accessResponse => exact execAccessResponse_keeps h _
  | remoteCoreMemoryAccess => exact execRemoteCoreMemoryAccess_keeps h _
  | amofArrival => exact execAmofArrival_keeps h _
  | bararvArrival => exact execBararvArrival_keeps h _
  | dramSectorFill => exact execDramSectorFill_keeps h _ _ _
  | leaseRenewalWalk => exact execLeaseRenewalWalk_keeps h _ _
  | clockSkew => exact execClockSkew_keeps h _ _
  | clockSkewCleared => exact execClockSkewCleared_keeps h _
  | scOperationComplete => exact execScOperationComplete_keeps h _
  | contextWake => exact keepsO_next (State.wakeCtx_memWf h _ _)
  | sleepDeadline => exact keepsO_next (ite_memWf (State.wakeCtx_memWf h _ _) h)
  | barrierArrival => exact execBarrierArrival_keeps h _
  | sendArrival => exact execSendArrival_keeps h _
  | sendAnswer => exact keepsO_next (State.answerArrive_memWf h _)
  | seizureArrival => exact execSeizureArrival_keeps h _
  | seizureAccept => exact execSeizureAccept_keeps h _
  | seizureDrainEnd => exact execSeizureDrainEnd_keeps h _
  | seizureSaveEnd => exact execSeizureSaveEnd_keeps h _
  | seizureRunEnd => exact execSeizureRunEnd_keeps h _
  | seizureRestoreEnd => exact execSeizureRestoreEnd_keeps h _
  | seizureResultAtRing => exact execSeizureResultAtRing_keeps h _
  | mirrorPublication => exact execMirrorPublication_keeps h _
  | mirrorFlip => exact keepsO_next (State.flip_memWf h _)
  | mirrorReadArrival => exact execMirrorReadArrival_keeps h _
  | mirrorReadDone => exact keepsO_next (State.readDone_memWf h _)
  | mirrorGrantWrite | mirrorGrantInEffect => exact keepsO_event h _ (State.setSlot_memWf_of h _ _)
  | periodicTrigger => exact execPeriodicTrigger_keeps h _ _
  | watchdog => exact execWatchdog_keeps h _ _
  | trapDelivery => exact execTrapDelivery_keeps h _ _
  | rollback => exact execRollback_keeps h _ _ _
  | timingReplay => exact execTimingReplay_keeps h _ _
  | lockstepMismatch => exact keepsO_event h _ (State.pairMismatch_memWf h _)
  | launchTake => exact execLaunchTake_keeps h _
  | launchAdmit => exact execLaunchAdmit_keeps h _
  | superstepBegin => exact keepsO_event h _ (State.beginStep_memWf h _)
  | taskStart => exact execTaskStart_keeps h _
  | clearSequenceEnd => exact keepsO_event h _ (State.clearEnd_memWf h _)
  | q0EventPost => exact execQ0EventPost_keeps h _
  | move => exact execMove_keeps h _ _
  | fill => exact execFill_keeps h _ _
  | plan => exact keepsO_event h _ (State.takeCommand_memWf h _ _)
  | expand => exact execExpand_keeps h _ _
  | engineCommandComplete => exact execEngineCommandComplete_keeps h _ _
  | permitResume => exact execPermitResume_keeps h _
  | forcedPreemption => exact keepsO_event h _ (ite_memWf (State.beginPreempt_memWf h _ _) h)
  | preemptLogDrained => exact execPreemptLogDrained_keeps h _ _
  | preemptSaveDone => exact execPreemptSaveDone_keeps h _ _
  | preemptedTaskResume => exact execPreemptedTaskResume_keeps h _ _
  | scrubEnd => exact execScrubEnd_keeps h _
  | regionpcWrite => exact keepsO_next (State.controlWrite_memWf h _ _ _ _)
  | tshapeWrite | capWordWrite | capaccWrite | segbaseWrite | seglimWrite | relcfgWrite
    | sysregWrite => exact keepsO_event h _ (State.controlWrite_memWf h _ _ _ _)
  | lqtailWrite | cqheadWrite | fqheadWrite => exact keepsO_next (State.onBlock_memWf h _ _)
  | hostLaunchEntry => exact keepsO_next (State.takeHostLaunch_memWf h _)
  | completionQueueEntry => exact keepsO_next (State.postCompletion_memWf h _)
  | faultQueueRecord => exact keepsO_next (State.postRecord_memWf h _)
  | fqanswerMapped => exact keepsO_next (ite_memWf (State.answerMapped_memWf h _) h)
  | fqanswerInvalid => exact keepsO_next (ite_memWf (State.answerInvalid_memWf h _) h)
  | queueCfgWrite => exact keepsO_next (ite_memWf (State.onBlock_memWf h _ _) h)
  | hostRegisterWrite => exact execHostRegisterWrite_keeps h _ _ _
  | bar2Access => exact keepsO_next (State.bar2_memWf h _ _ _)
  | pcieReadCompletion => exact execPcieReadCompletion_keeps h _
  | assignWrite | rassignWrite => exact keepsO_next (State.writeAssign_memWf h _ _ _)
  | functionLevelReset => exact keepsO_next (State.resetFunction_memWf h _)
  | flrDrainEnd => exact execFlrDrainEnd_keeps h _
  | flrScrubEnd => exact execFlrScrubEnd_keeps h _
  | flrLeaseWaitEnd => exact execFlrLeaseWaitEnd_keeps h _
  | freeze => exact keepsO_next h
  | freezeRelease | fwInstall | vfEnable => exact keepsO_event h _ h
  | deviceReset => exact keepsO_next (State.deviceReset_memWf h)
  | heartbeat => exact keepsO_event h _ (State.memWf_of_eq (State.setBytes_memWf h _ _))
  | containerCapture => exact execContainerCapture_keeps h
  | peerLost => exact execPeerLost_keeps h
  | spareTakeover => exact execSpareTakeover_keeps h
  | fwActivate => exact keepsO_event h _ (State.activate_memWf h)
  | pwrWrite => exact execPwrWrite_keeps h _ _
  | powerSettingApply => exact execPowerSettingApply_keeps h _
  | declareFree => exact execDeclareFree_keeps h
  | declareInUse => exact execDeclareInUse_keeps h
  | dramRepairComplete => exact keepsO_next (State.finishRepair_memWf h _)
  | repcmdRepair => exact keepsO_event h _ (State.setDctl_memWf h _ _)
  | repcmdDecline => exact keepsO_event h _ (State.report_memWf (State.setDctl_memWf h _ _) _)
  | classifierEntryAgeing => exact keepsO_next (State.setDctl_memWf h _ _)
  | objectLoad => exact keepsO_next (State.loadObject_memWf h _ _ _ _)
  | eguCompletion => exact execEguCompletion_keeps h _
  | speCompletion => exact execSpeCompletion_keeps h _
  | fwInstallComplete => exact keepsO_event h _ (State.installDone_memWf h)

end Sys2Proof.Machine
end

section
/-! PROOF. One step keeps every memory canonical: fetch and issue, what moves by itself, and the turn. -/

set_option Elab.async false

namespace Sys2Proof.Machine

/-! ### One turn of the machine -/

theorem State.wordAt_memWf {s : State} (h : s.memWf = true) (p : Place) : (s.wordAt p).2.memWf = true := by
  unfold State.wordAt
  dsimp only
  split
  · exact h
  · exact h
  · split
    · exact State.setMe_own_memWf h _
    · split
      · exact h
      · exact h
theorem State.fetchWord_endsIn {s : State} (h : s.memWf = true) (va : Nat) :
    EndsIn (·.2.2.memWf = true) (·.2.memWf = true) (s.fetchWord va) := by
  have hx := State.xlateCore_memWf h .fetch va
  unfold State.fetchWord
  refine endsIn_ite ?_ ?_
  · split
    · exact State.wordAt_memWf h _
    · exact h
  · split <;> rename_i heq <;> rw [heq] at hx
    · exact State.wordAt_memWf hx _
    · exact State.postFault_memWf hx _ _ _ _ _
    all_goals exact hx
theorem State.fetchRest_endsIn {s : State} (h : s.memWf = true) (va n : Nat) :
    EndsIn (·.2.memWf = true) (·.2.memWf = true) (s.fetchRest va n) := by
  induction n generalizing s va with
  | zero => exact h
  | succ n ih =>
    have hw := State.fetchWord_endsIn h va
    unfold State.fetchRest
    refine endsIn_ite h ?_
    split
    next heq => exact (of_endsIn_error heq hw :)
    next heq => exact endsIn_bind (ih (of_endsIn_ok heq hw :) _) fun _ hs => hs
/-- A fetch keeps the form in the state that it stops in as in the one that it leaves. -/
theorem State.fetched_endsIn {s : State} (h : s.memWf = true) :
    EndsIn (·.2.2.memWf = true) (·.2.memWf = true) s.fetched := by
  unfold State.fetched
  dsimp only
  refine endsIn_ite h ?_
  have hw := State.fetchWord_endsIn h s.my.pc.toNat
  split
  next heq => exact (of_endsIn_error heq hw :)
  next t heq =>
    have ht : t.memWf = true := (of_endsIn_ok heq hw :)
    refine endsIn_ite ht ?_
    split
    next heq => exact (of_endsIn_error heq (State.fetchRest_endsIn ht _ _) :)
    next heq => exact (of_endsIn_ok heq (State.fetchRest_endsIn ht _ _) :)
theorem State.decodeAt_endsIn {s : State} (h : s.memWf = true) (ws : List Half) :
    EndsIn (·.2.2.memWf = true) (·.2.memWf = true) (s.decodeAt ws) := by
  unfold State.decodeAt
  split
  · exact h
  · split
    · exact h
    · exact h
theorem State.capture_endsIn {s : State} (h : s.memWf = true) (r : Replay) :
    EndsIn (·.2.2.memWf = true) (·.2.memWf = true) (s.capture r) :=
  endsIn_ite h (endsIn_bind (State.fetched_endsIn h) fun _ ht => State.setMy_memWf ht _)
theorem State.issueReplay_endsIn {s : State} (h : s.memWf = true) (r : Replay) :
    EndsIn (·.2.2.memWf = true) (·.2.memWf = true) (s.issueReplay r) := by
  refine endsIn_bind (State.capture_endsIn h r) fun _ ht => endsIn_bind (State.decodeAt_endsIn ht _) fun _ hu => ?_
  refine endsIn_ite (State.setMy_memWf hu _) ?_
  dsimp only
  split
  · exact hu
  · refine endsIn_ite hu ?_
    split
    · exact hu
    · exact hu
    · exact hu
theorem State.skipReplay_endsIn {s : State} (h : s.memWf = true) (r : Replay) :
    EndsIn (·.2.2.memWf = true) (·.memWf = true) (s.skipReplay r) :=
  endsIn_bind (State.capture_endsIn h r) fun _ ht => State.setMy_memWf ht _
theorem State.refuse_memWf {e : Stop × Word × State} (h : e.2.2.memWf = true) : (State.refuse e).memWf = true :=
  State.settle_memWf (State.memWf_of_eq h) (keeps_error _)
theorem State.runOrWait_keeps {s : State} (h : s.memWf = true) {t : State} (ht : t.memWf = true) (i : Instr) :
    KeepsO (s.runOrWait i t) := keepsO_ite (keepsO_next h) (exec_keeps ht _)
theorem State.issueStub_keeps {s : State} (h : s.memWf = true) (b : Stub) : KeepsO (s.issueStub b) := by
  unfold State.issueStub
  split
  · exact keepsO_next h
  next i _ =>
    extract_lets site x r c u
    have hu : u.memWf = true := State.memWf_of_eq (State.setMy_memWf h _)
    clear_value u
    refine keepsO_ite (keepsO_next h) ?_
    split
    next v hv =>
      have hv := exec_keeps hu i v hv
      exact keepsO_next (ite_memWf (State.setMy_memWf hv _) hv)
    · exact exec_keeps hu i
theorem State.issueNext_keeps {s : State} (h : s.memWf = true) : KeepsO s.issueNext := by
  unfold State.issueNext
  split
  next r _ =>
    refine keepsO_ite (keepsO_next ?_) ?_
    · split
      next heq => exact (of_endsIn_ok heq (State.skipReplay_endsIn h r) :)
      next heq => exact State.refuse_memWf (of_endsIn_error heq (State.skipReplay_endsIn h r) :)
    · split
      next heq => exact keepsO_next (State.refuse_memWf (of_endsIn_error heq (State.issueReplay_endsIn h r) :))
      next heq => exact State.runOrWait_keeps h (of_endsIn_ok heq (State.issueReplay_endsIn h r) :) _
  · split
    · exact State.issueStub_keeps h _
    · have hf := endsIn_bind (State.fetched_endsIn h) fun r ht => State.decodeAt_endsIn (s := r.2) ht r.1
      split
      next heq => exact keepsO_next (State.refuse_memWf (of_endsIn_error heq hf :))
      next heq => exact State.runOrWait_keeps h (of_endsIn_ok heq hf :) _
theorem State.issue_keeps {s : State} (h : s.memWf = true) : KeepsO s.issue := by
  unfold State.issue
  split
  · exact keepsO_next (State.deliverTrap_memWf h _)
  · split
    · exact keepsO_next (State.takeAsync_memWf h _)
    · exact keepsO_ite (keepsO_next h) (State.issueNext_keeps h)
theorem State.issueFrom_keeps {s : State} (h : s.memWf = true) (n k : Nat) : KeepsO (s.issueFrom n k) := by
  unfold State.issueFrom
  dsimp only
  refine State.issue_keeps ?_
  refine State.memWf_of_eq ?_
  refine State.setCore_memWf h _ ?_
  exact ite_core_memWf (CoreSt.memWf_of_eq (State.core_memWf h _)) (CoreSt.memWf_of_eq (State.core_memWf h _))
theorem State.issuePair_keeps {s : State} (h : s.memWf = true) (n k : Nat) : KeepsO (s.issuePair n k) := by
  have hs := State.issueFrom_keeps h n k
  have hown := State.issueFrom_keeps (State.setCore_memWf h n
    (CoreSt.withOwn_memWf (a := s.core n) (State.core_memWf h (n + 1)))) n k
  unfold State.issuePair
  dsimp only
  split
  next t u ht hu =>
    have ht := hs t ht
    have hu := hown u hu
    refine keepsO_ite (keepsO_next (State.setCore_memWf ht _ ?_)) (keepsO_next (State.pairMismatch_memWf h _))
    exact CoreSt.follows_memWf (State.core_memWf hu n)
  · exact hown
  · exact hs
theorem State.issueAt_keeps {s : State} (h : s.memWf = true) (n k : Nat) : KeepsO (s.issueAt n k) := by
  unfold State.issueAt
  refine keepsO_ite ?_ (State.issueFrom_keeps h _ _)
  exact keepsO_ite (keepsO_next h) (State.issuePair_keeps h _ _)
theorem State.issueCore_keeps {s : State} (h : s.memWf = true) (n : Nat) : KeepsO (s.issueCore n) := by
  unfold State.issueCore
  split
  · exact keepsO_next h
  · exact State.issueAt_keeps h _ _
theorem State.moveFlight_keeps {s : State} (h : s.memWf = true) (n : Nat) (f : Flight) :
    KeepsO (s.moveFlight n f) := by
  unfold State.moveFlight
  split
  · exact execMemoryRequestAtHome_keeps h _
  · exact execRefusedRequestReissue_keeps h _
  · exact execAccessResponse_keeps h _
  · exact execRemoteCoreMemoryAccess_keeps h _
  · exact execAmofArrival_keeps h _
  · exact execBararvArrival_keeps h _
  · exact execBarrierArrival_keeps h _
  · exact execSendArrival_keeps h _
  · exact keepsO_next (State.answerArrive_memWf h _)
  · exact execSeizureArrival_keeps h _
  · exact execSeizureResultAtRing_keeps h _
  · exact execMirrorPublication_keeps h _
  · exact execMirrorReadArrival_keeps h _
  · exact keepsO_next (State.readDone_memWf h _)
  · exact execPcieReadCompletion_keeps h _
  · exact keepsO_next (State.startArrive_memWf h _)
theorem State.moveEngine_keeps {s : State} (h : s.memWf = true) (cl ch : Nat) : KeepsO (s.moveEngine cl ch) := by
  unfold State.moveEngine
  dsimp only
  refine keepsO_ite (execLeaseRenewalWalk_keeps h _ _) ?_
  refine keepsO_ite ?_ ?_
  · refine keepsO_next ?_
    split
    · exact ite_memWf (State.setChan_memWf h _ _ _) h
    · exact h
  · refine keepsO_ite (keepsO_next (State.takeCommand_memWf h _ _)) ?_
    refine keepsO_ite (keepsO_next (State.completeCommand_memWf h _ _)) ?_
    exact keepsO_ite (execExpand_keeps h _ _) (keepsO_next (State.stepRow_memWf h _ _))
theorem State.movePreempt_keeps {s : State} (h : s.memWf = true) (p : Preempt) : KeepsO (s.movePreempt p) := by
  unfold State.movePreempt
  refine keepsO_ite (execContainerCapture_keeps h) ?_
  split
  · exact execPreemptLogDrained_keeps h _ _
  · exact execPreemptSaveDone_keeps h _ _
  · exact keepsO_ite (keepsO_next h) (execPreemptedTaskResume_keeps h _ _)
  · exact execPreemptedTaskResume_keeps h _ _
theorem State.moveDispenser_keeps {s : State} (h : s.memWf = true) (n : Nat) : KeepsO (s.moveDispenser n) := by
  unfold State.moveDispenser
  dsimp only
  split
  · split
    · exact execLaunchTake_keeps h _
    · exact keepsO_next h
  · exact keepsO_ite (keepsO_next h) (execLaunchAdmit_keeps h _)
  · split
    · exact keepsO_event h _ (State.beginStep_memWf h _)
    · exact keepsO_next h
  · split
    · exact execTaskStart_keeps h _
    · exact keepsO_next h
  · split
    · exact State.movePreempt_keeps h _
    · exact keepsO_next h
  · split
    · exact keepsO_next (State.retryPreempt_memWf h _)
    · exact keepsO_next h
  · split
    · exact keepsO_event h _ (State.clearEnd_memWf h _)
    · exact keepsO_next h
theorem State.moveSeizure_keeps {s : State} (h : s.memWf = true) (c : Nat) : KeepsO (s.moveSeizure c) := by
  unfold State.moveSeizure
  split
  · exact execSeizureAccept_keeps h _
  · exact execSeizureAccept_keeps h _
  · exact execSeizureDrainEnd_keeps h _
  · exact execSeizureDrainEnd_keeps h _
  · exact execSeizureSaveEnd_keeps h _
  · exact execSeizureRunEnd_keeps h _
  · exact execSeizureRestoreEnd_keeps h _
theorem State.moveUnit_keeps {s : State} (h : s.memWf = true) (n : Nat) : KeepsO (s.moveUnit n) := by
  unfold State.moveUnit
  dsimp only
  split
  · split
    · exact State.moveSeizure_keeps h _
    · exact keepsO_next h
  · split
    · exact execEguCompletion_keeps h _
    · exact keepsO_next h
  · split
    · exact execSpeCompletion_keeps h _
    · exact keepsO_next h
  · split
    · exact keepsO_next (State.replayLog_memWf h _ _)
    · exact keepsO_next h
  · split
    · exact execQ0EventPost_keeps h _
    · exact keepsO_next h
theorem State.moveShared_keeps {s : State} (h : s.memWf = true) (n : Nat) : KeepsO (s.moveShared n) := by
  unfold State.moveShared
  split
  · split
    · exact keepsO_next (State.flip_memWf h _)
    · exact keepsO_next h
  · split
    · exact keepsO_event h _ (State.setSlot_memWf_of h _ _)
    · exact keepsO_next h
  · exact keepsO_ite (keepsO_next h) (execScOperationComplete_keeps h _)
  · exact keepsO_ite (keepsO_next h) (execFaultRecordPost_keeps h _ _)
theorem State.moveReset_keeps {s : State} (h : s.memWf = true) (r : Reset) : KeepsO (s.moveReset r) := by
  unfold State.moveReset
  split
  · exact execFlrDrainEnd_keeps h _
  · exact execFlrScrubEnd_keeps h _
  · exact execFlrLeaseWaitEnd_keeps h _
theorem State.moveService_keeps {s : State} (h : s.memWf = true) (n : Nat) : KeepsO (s.moveService n) := by
  unfold State.moveService
  split
  · split
    · exact keepsO_next (State.takeHostLaunch_memWf h _)
    · exact keepsO_next h
  · split
    · exact keepsO_next (State.postCompletion_memWf h _)
    · exact keepsO_next h
  · split
    · exact keepsO_next (State.postRecord_memWf h _)
    · exact keepsO_next h
  · split
    · exact State.moveReset_keeps h _
    · exact keepsO_next h
  · split
    · exact execScrubEnd_keeps h _
    · exact keepsO_next h
  · split
    · exact execPowerSettingApply_keeps h _
    · exact keepsO_ite (keepsO_event h _ (State.installDone_memWf h)) (keepsO_next h)
  · split
    · exact keepsO_next (State.finishRepair_memWf h _)
    · exact keepsO_next h
theorem State.moveTimer_keeps {s : State} (h : s.memWf = true) (n : Nat) : KeepsO (s.moveTimer n) := by
  unfold State.moveTimer
  split
  · exact keepsO_ite (execPeriodicTrigger_keeps h _ _) (execWatchdog_keeps h _ _)
  · exact keepsO_next h
theorem State.tick_memWf {s : State} (h : s.memWf = true) : s.tick.memWf = true := by
  unfold State.tick
  split
  · exact h
  · exact h
theorem keepsO_fault (f : Fault) : KeepsO (.fault f) := by rintro _ ⟨⟩
theorem State.takeEvent_keeps {s : State} (h : s.memWf = true) (e : Instr) : KeepsO (s.takeEvent e) := by
  refine keepsO_ite (keepsO_fault _) (keepsO_ite (keepsO_next (ite_memWf h h)) ?_)
  exact keepsO_ite (keepsO_next h) (exec_keeps h e)
theorem State.tryAgain_keeps {s : State} (h : s.memWf = true) (n k : Nat) : KeepsO (s.tryAgain n k) := by
  unfold State.tryAgain
  split
  next t ht =>
    have ht := State.issueAt_keeps h n k t ht
    refine keepsO_ite (keepsO_next ?_) (keepsO_next ht)
    refine foldl_memWf _ (fun u c hu => State.setCore_memWf hu c ?_) _ h
    exact State.core_memWf hu c
  · exact State.issueAt_keeps h n k
theorem State.free_keeps {s : State} (h : s.memWf = true) : KeepsO s.free := by
  unfold State.free
  extract_lets n r issue m
  have hr : r.memWf = true := h
  have hissue : KeepsO issue := by
    unfold issue
    split
    · exact State.issueCore_keeps (State.memWf_of_eq hr) _
    · exact keepsO_next hr
  clear_value issue r
  refine keepsO_ite hissue ?_
  split
  · split
    · exact State.moveFlight_keeps hr _ _
    · exact hissue
  · split
    · exact State.moveEngine_keeps hr _ _
    · exact hissue
  · exact State.moveDispenser_keeps hr _
  · exact State.moveUnit_keeps hr _
  · exact State.moveShared_keeps hr _
  · exact State.moveService_keeps hr _
  · exact State.moveTimer_keeps hr _
  · split
    · split
      · exact State.tryAgain_keeps (State.memWf_of_eq hr) _ _
      · exact keepsO_next hr
    · exact hissue
theorem State.takeTurn_keeps {s : State} (h : s.memWf = true) : KeepsO s.takeTurn := by
  unfold State.takeTurn
  extract_lets u
  have hu : u.memWf = true := ite_memWf h (State.tick_memWf h)
  clear_value u
  split
  · exact State.takeEvent_keeps (State.memWf_of_eq hu) _
  · exact keepsO_ite (keepsO_next (State.memWf_of_eq hu)) (State.issueCore_keeps (State.memWf_of_eq hu) _)
  · exact keepsO_next (ite_memWf (State.memWf_of_eq hu) (State.upset_memWf (State.memWf_of_eq hu) _ _))
  · exact keepsO_next (ite_memWf (State.memWf_of_eq hu) (State.hostRead_memWf (State.memWf_of_eq hu) _ _ _))
  · exact keepsO_ite (keepsO_next hu) (State.free_keeps hu)

/-! ### One step -/

theorem step_keeps {s : State} (h : s.memWf = true) : KeepsO (step s) := State.takeTurn_keeps h

/-- Settles O60: a step is one turn, and every turn keeps the canonical form. -/
theorem stepKeepsMemoryCanonical : Obligations.StepKeepsMemoryCanonical := fun _ t hs ht => step_keeps hs t ht

end Sys2Proof.Machine
end

section
/-! SUPPORT. Frames: what the updates of the machine leave as it was. One rule for each way in which an instruction ends; the
proofs of the statements cite these and do not unfold the state again. -/

namespace Sys2Proof.Machine

open Sys2Proof

/-! ### Bytes of every memory -/

theorem State.sameBytes.trans {s t u : State} (h : s.sameBytes t) (h' : t.sameBytes u) : s.sameBytes u :=
  fun p => (h' p).trans (h p)

/-- An update of fields that are no memories changes no byte: each equation is closed by reading the two records. -/
theorem State.byteAt_of_eq {s t : State} (p : Place) (hdram : t.dram = s.dram := by rfl) (hhost : t.host = s.host := by rfl)
    (hpeer : t.peer = s.peer := by rfl) (hsram : t.sram = s.sram := by rfl) (hcores : t.cores = s.cores := by rfl) :
    t.byteAt p = s.byteAt p := by
  cases p <;> simp only [State.byteAt, State.core, hdram, hhost, hpeer, hsram, hcores]

/-- A core replaced by one that has its memories changes no byte. -/
theorem State.byteAt_setCore_own (s : State) (n : Nat) (c : CoreSt) (p : Place) (hmem : c.mem = (s.core n).mem := by rfl)
    (htbuf : c.tbuf = (s.core n).tbuf := by rfl) : (s.setCore n c).byteAt p = s.byteAt p := by
  have hcore : ∀ m, ((s.setCore n c).core m).mem = (s.core m).mem ∧ ((s.setCore n c).core m).tbuf = (s.core m).tbuf := by
    intro m
    rw [State.core_setCore_if]
    split
    · next h => rw [h]; exact ⟨hmem, htbuf⟩
    · exact ⟨rfl, rfl⟩
  cases p <;> simp [State.byteAt, hcore]

theorem State.byteAt_setMe_own (s : State) (c : CoreSt) (p : Place) (hmem : c.mem = s.me.mem := by rfl)
    (htbuf : c.tbuf = s.me.tbuf := by rfl) : (s.setMe c).byteAt p = s.byteAt p := s.byteAt_setCore_own _ c p hmem htbuf

@[simp] theorem State.byteAt_at (s : State) (n k : Nat) (p : Place) : (s.at n k).byteAt p = s.byteAt p := s.byteAt_of_eq p

/-- A run of updates each of which changes no byte changes none. -/
theorem State.byteAt_foldl {α : Type} {f : State → α → State} (hf : ∀ s a p, (f s a).byteAt p = s.byteAt p) (l : List α)
    (s : State) (p : Place) : (l.foldl f s).byteAt p = s.byteAt p := by
  induction l generalizing s with
  | nil => rfl
  | cons a l ih => exact (ih (f s a)).trans (hf s a p)

/-! ### The issuing core and context -/

theorem State.core_setMy (s : State) (x : Ctx) (n : Nat) :
    (s.setMy x).core n = if n = s.cur.core then s.me.setCtx s.cur.ctx x else s.core n := by
  rw [State.setMy, State.setMe, State.core_setCore_if]

/-- A core replaced by one that has its contexts leaves the issuing one. -/
theorem State.my_setMe_own (s : State) (c : CoreSt) (h : c.ctxs = s.me.ctxs := by rfl) : (s.setMe c).my = s.my := by
  simp only [State.my, State.me_setMe, CoreSt.ctx, h]; rfl

/-- Writing registers of the issuing context leaves the engines of every core. -/
@[simp] theorem State.chan_setMy (s : State) (x : Ctx) (k ch : Nat) : (s.setMy x).chan k ch = s.chan k ch := by
  unfold State.chan
  split
  · rfl
  · rw [State.core_setMy]
    split
    · next h => rw [h]; rfl
    · rfl

/-! ### Completing -/

@[simp] theorem Ctx.replay_setG (x : Ctx) (r : Nat) (v : Word) : (x.setG r v).replay = x.replay := by
  unfold Ctx.setG; split <;> rfl
@[simp] theorem Ctx.getP_setG (x : Ctx) (r q : Nat) (v : Word) : (x.setG r v).getP q = x.getP q := by simp [Ctx.getP]
@[simp] theorem Ctx.getV_setG (x : Ctx) (r q : Nat) (v : Word) : (x.setG r v).getV q = x.getV q := by simp [Ctx.getV]
@[simp] theorem Ctx.getA_setG (x : Ctx) (r q : Nat) (v : Word) : (x.setG r v).getA q = x.getA q := by simp [Ctx.getA]
@[simp] theorem Ctx.sysr_setG (x : Ctx) (r n : Nat) (v : Word) : (x.setG r v).sysr n = x.sysr n := by simp [Ctx.sysr]

/-- Completing with a new context changes the issuing context alone. -/
theorem State.onlyMy_advance (s : State) (x : Ctx) (len : Nat) : s.onlyMy ((s.setMy x).advance len) := by
  rw [State.onlyMy, State.my_advance, State.advance, State.setMy_setMy]

/-- A context that goes on past an instruction, outside a replay, moves on by its length (R72). -/
theorem State.movesOn_of_pc {s t : State} {x : Ctx} {len : Nat} (ht : t.my.pc = (x.awake.next len).pc) (hp : x.pc = s.my.pc)
    (hr : x.replay = s.my.replay) : s.movesOn t len := by
  intro h
  rw [ht, Ctx.next_pc (by rw [Ctx.replay_awake, hr, h])]
  exact congrArg (· + _) hp

/-- An instruction that writes its context and completes moves on by its length. -/
theorem State.movesOn_advance (s : State) {x : Ctx} (hp : x.pc = s.my.pc) (hr : x.replay = s.my.replay) (len : Nat) :
    s.movesOn ((s.setMy x).advance len) len :=
  State.movesOn_of_pc (by rw [State.my_advance, State.my_setMy]) hp hr

/-- An instruction that gives gd a value and completes changes nothing else. -/
theorem State.onlyResult_setG (s : State) (d : Reg5) (v : Word) (len : Nat) : s.onlyResult ((s.setG d v).advance len) d v := by
  refine ⟨?_, ?_, s.onlyMy_advance _ _, fun p => by simp⟩
  · rw [State.getG_advance, State.getG_setG]
    by_cases hd : d = 0
    · subst hd; simp [State.getG]
    · rw [if_pos ⟨rfl, hd⟩, if_neg hd]
  · rw [State.my_advance, State.setG, State.my_setMy]
    exact ⟨fun r hr => by simp [Ctx.getG_setG_ne _ _ hr], fun r => by simp, fun r => by simp, fun r => by simp,
      fun n => by simp, by simp⟩

theorem State.movesOn_setG (s : State) (d : Reg5) (v : Word) (len : Nat) : s.movesOn ((s.setG d v).advance len) len :=
  s.movesOn_advance (x := s.my.setG d.toNat v) (by simp) (by simp) len

/-- An instruction that only completes changes no register and no byte. -/
theorem State.onlyPasses_advance (s : State) (len : Nat) : s.onlyPasses (s.advance len) := by
  refine ⟨?_, ?_, fun p => by simp⟩
  · rw [State.my_advance]
    exact ⟨fun r => by simp, fun r => by simp, fun r => by simp, fun r => by simp, fun n => by simp, by simp⟩
  · rw [State.onlyMy, State.my_advance, State.advance]

theorem State.movesOn_self (s : State) (len : Nat) : s.movesOn (s.advance len) len :=
  State.movesOn_of_pc (x := s.my) (by rw [State.my_advance]) rfl rfl

/-! ### The send of a region-closing instruction (R217) -/

/-- The context after the send of a region-closing instruction: a restart point at its pc, with the loads that it owes. -/
def Ctx.closed (x : Ctx) (owed : List Nat) : Ctx :=
  let y := (x.record x.pc false 0).setReg false
  { y with restart := { y.restart with owed := owed } }

theorem State.sent_eq (s : State) (len : Nat) :
    s.sent len = s.setMy ((s.my.awake.next len).closed (s.flight.filterMap (Flight.loadFor s.cur.core s.cur.ctx))) := by
  simp [State.sent, State.owing, State.advance, Ctx.closed]

@[simp] theorem Ctx.closed_pc (x : Ctx) (o : List Nat) : (x.closed o).pc = x.pc := rfl
@[simp] theorem Ctx.getG_closed (x : Ctx) (o : List Nat) (r : Nat) : (x.closed o).getG r = x.getG r := rfl
theorem Ctx.sysr_closed (x : Ctx) (o : List Nat) : (x.closed o).sysr 0x030 = x.pc := by
  change ((x.setSysr 0x030 x.pc).setReg false).sysr 0x030 = x.pc
  rw [Ctx.setReg, Ctx.sysr_setSysr_ne _ _ (by decide), Ctx.sysr_setSysr]

@[simp] theorem State.byteAt_sent (s : State) (len : Nat) (p : Place) : (s.sent len).byteAt p = s.byteAt p := by
  rw [State.sent_eq, State.byteAt_setMy]
@[simp] theorem State.chan_sent (s : State) (len k ch : Nat) : (s.sent len).chan k ch = s.chan k ch := by
  rw [State.sent_eq, State.chan_setMy]
@[simp] theorem State.getG_sent (s : State) (len : Nat) (r : Reg5) : (s.sent len).getG r = s.getG r := by
  simp [State.getG, State.sent_eq]
theorem State.me_sent (s : State) (len : Nat) : ∃ x, (s.sent len).me = s.me.setCtx s.cur.ctx x :=
  ⟨_, by rw [State.sent_eq, State.me_setMy]⟩
/-- The restart point lies after the region-closing instruction. -/
theorem State.regionpc_sent (s : State) (len : Nat) : (s.sent len).my.sysr 0x030 = (s.sent len).my.pc := by
  rw [State.sent_eq, State.my_setMy, Ctx.sysr_closed, Ctx.closed_pc]
theorem State.pc_sent (s : State) (len : Nat) : (s.sent len).my.pc = (s.my.awake.next len).pc := by
  rw [State.sent_eq, State.my_setMy, Ctx.closed_pc]

/-! ### Acquires (R130) -/

/-- A generator that has discarded what it read ahead. -/
theorem tget_dropAhead (t : Tab Stream) (j : Nat) : (tget {} (dropAhead t) j : Stream) = { (tget {} t j : Stream) with ahead := [] } := by
  induction t with
  | nil => rfl
  | cons e t ih =>
    obtain ⟨k, v⟩ := e
    simp only [dropAhead, List.map_cons, tget] at ih ⊢
    split
    · rfl
    · split
      · rfl
      · exact ih

/-- An acquire leaves everything but what the generators of the issuing context have read ahead. -/
theorem State.discardAhead_cases (s : State) :
    (s.my.streams = [] ∧ s.discardAhead = s) ∨ s.discardAhead = s.setMy { s.my with streams := dropAhead s.my.streams } := by
  unfold State.discardAhead
  cases h : s.my.streams with
  | nil => exact .inl ⟨rfl, rfl⟩
  | cons e t => exact .inr rfl

/-- An instruction that acquires and completes. -/
theorem State.acquires_discardAhead (s : State) (len : Nat) : s.acquires (s.discardAhead.advance len) := by
  rcases s.discardAhead_cases with ⟨hs, h⟩ | h <;> rw [h]
  · obtain ⟨⟨hg, hp, hv, ha, hsys, hstr⟩, hmy, hb⟩ := s.onlyPasses_advance len
    exact ⟨hg, hp, hv, ha, hsys, hmy, hb, fun j => by rw [hstr, hs]; rfl⟩
  · refine ⟨?_, ?_, ?_, ?_, ?_, s.onlyMy_advance _ _, fun p => by simp, fun j => ?_⟩ <;>
      simp only [State.my_advance, State.my_setMy]
    · exact fun r => by simp [Ctx.getG]
    · exact fun r => by simp [Ctx.getP]
    · exact fun r => by simp [Ctx.getV]
    · exact fun r => by simp [Ctx.getA]
    · exact fun r => by simp [Ctx.sysr]
    · simpa using tget_dropAhead _ j

theorem State.movesOn_discardAhead (s : State) (len : Nat) : s.movesOn (s.discardAhead.advance len) len := by
  rcases s.discardAhead_cases with ⟨-, h⟩ | h <;> rw [h]
  · exact s.movesOn_self len
  · exact s.movesOn_advance (x := { s.my with streams := dropAhead s.my.streams }) rfl rfl len

/-! ### Sleeping (R216) -/

theorem State.sleeps_stopped (s : State) : s.sleeps (s.stopped .sleep) := by
  unfold State.sleeps
  rw [State.stopped, State.my_setMy]
  exact ⟨rfl, rfl, ⟨fun _ => rfl, fun _ => rfl, fun _ => rfl, fun _ => rfl, fun _ => rfl, rfl⟩, fun p => s.byteAt_setMy _ p⟩

end Sys2Proof.Machine
end

section
/-! PROOF. Registers that read as constants, and instructions whose guard is false (R12, R13, R75). -/

namespace Sys2Proof.Machine

open Sys2Proof

/-- An instruction that runs its body under a guard which is false only completes, with the length of its encoding. -/
theorem exec_guard_off_of {i : Instr} {s : State} {g g' : Reg3} {len : Nat} {b : Except Stop State}
    (hg : guardOf i = some g) (hi : guardOf i = some g') (h : s.guardOn g = false) (hx : exec i s = s.guarded g' len b)
    (hw : len = words i) : exec i s = .next (s.advance (words i)) := by
  obtain rfl : g = g' := Option.some.inj (hg.symm.trans hi)
  rw [hx, State.guarded_off h, hw]

/-- An instruction whose guard is false joins no queue of readers (R25, R229). -/
theorem State.joinReaders_off {s : State} {g : Reg3} (h : s.guardOn g = false) (r : Nat) : s.joinReaders g r = s := by
  simp [State.joinReaders, h]

/-- Every instruction that has a guard only completes where it is false (R75). -/
theorem exec_guard_off {i : Instr} {s : State} {g : Reg3} (hg : guardOf i = some g) (h : s.guardOn g = false) :
    exec i s = .next (s.advance (words i)) := by
  cases i with
  | add _ _ b _ | sub _ _ b _ | mul _ _ b _ | mulh _ _ b _ | mulhu _ _ b _ | div _ _ b _ | divu _ _ b _ | rem _ _ b _
  | remu _ _ b _ | and _ _ b _ | or _ _ b _ | xor _ _ b _ | andn _ _ b _ | orn _ _ b _ | shl _ _ b _ | shr _ _ b _
  | sra _ _ b _ | rotl _ _ b _ | min _ _ b _ | max _ _ b _ | minu _ _ b _ | maxu _ _ b _ | sel _ _ b _ _ | cmpEq _ _ b _
  | cmpNe _ _ b _ | cmpLt _ _ b _ | cmpLe _ _ b _ | cmpLtu _ _ b _ | cmpLeu _ _ b _ | ainc _ b _ =>
    exact exec_guard_off_of hg rfl h rfl (by cases b <;> rfl)
  | clz _ _ _ | ctz _ _ _ | popc _ _ _ | brev _ _ _ | bswap _ _ _ | sextB _ _ _ | sextH _ _ _ | sextW _ _ _ | zextB _ _ _
  | zextH _ _ _ | zextW _ _ _ | mov _ _ _ | pand _ _ _ _ | por _ _ _ _ | pxor _ _ _ _ | pnot _ _ _ | pmov _ _ _ | aput _ _ _
  | aget _ _ _ | acfg _ _ _ _ | br _ _ | bl _ _ | jr _ _ | jlr _ _ | ret _ | ld _ _ _ _ _ _ | ldS _ _ _ _ _ _
  | st _ _ _ _ _ _ | fence _ _ _ | acq _ _ | rel _ _ | sbind _ _ _ | vcvt _ _ _ _ _ _ _ | tld _ _ _ _ _ | tst _ _ _ _ _
  | tldb _ _ _ _ _ | tldt _ _ _ _ _ | tldLit _ _ _ _ _ _ _ | tzero _ _ | accz _ _ | accrd _ _ _ | accwr _ _ _ | mma _ _ _ _
  | mxepi _ _ _ _ _ _ _ | mxgate _ _ _ _ | mxsend _ _ _ _ _ | gori2 _ _ _ _ _ _ _ | gori3 _ _ _ _ _ _ _
  | gincir _ _ _ _ _ _ _ | ginsph _ _ _ _ _ _ _ | gsegx _ _ _ _ _ _ _ | gsegt _ _ _ _ _ _ _ | spld _ _ _ | spst _ _ _
  | spmov _ _ _ | spset _ _ _ | sptree _ _ _ _ | spup _ _ _ _ | spdn _ _ _ _ | spnorm _ _ _ | spcvt _ _ _ | spmax _ _ _ _
  | bar _ _ | bararv _ _ | barwt _ _ | xph _ | push _ _ _ | tlrd _ _ _ | tlwt _ _ _ | tlwtLit _ _ _ | send _ _ _ _
  | rpoll _ _ _ | qwr _ _ _ _ | start _ _ _ _ | joinh _ _ | exit _ | region _ | ckpt _ _ | mpub _ _ _ _ _ | mread _ _ _ _ _
  | mwait _ _ _ _ | time _ _ | sleep _ _ | sleepLit _ _ | wfe _ | chsend _ _ _ _ | chrecv _ _ _ _ | chclose _ _ | vcid _ _ =>
    exact exec_guard_off_of hg rfl h rfl rfl
  | ldExt _ _ _ _ i o _ | ldSExt _ _ _ _ i o _ | stExt _ _ _ _ i o _ =>
    exact exec_guard_off_of hg rfl h rfl (by cases i <;> cases o <;> rfl)
  | lda _ _ _ _ o _ | ldaS _ _ _ _ o _ | sta _ _ _ _ o _ => exact exec_guard_off_of hg rfl h rfl (by cases o <;> rfl)
  | vld _ _ _ off x _ | vst _ _ _ off x _ | vlds _ _ _ _ _ off x _ | vgth _ _ _ _ _ off x _ | vsct _ _ _ _ _ off x _ =>
    exact exec_guard_off_of hg rfl h rfl (by cases off <;> cases x <;> rfl)
  | pref _ off _ | clean _ off _ | czero _ off _ | accld _ _ off _ | accst _ _ off _ | mxred _ _ _ off _ =>
    exact exec_guard_off_of hg rfl h rfl (by cases off <;> rfl)
  | vadd _ _ _ _ x _ | vsub _ _ _ _ x _ | vmul _ _ _ _ x _ | vfma _ _ _ _ x _ | vfms _ _ _ _ x _ | vfnma _ _ _ _ x _
  | vmin _ _ _ _ x _ | vmax _ _ _ _ x _ | vabs _ _ _ x _ | vneg _ _ _ x _ | vdiv _ _ _ _ x _ | vsqrt _ _ _ x _
  | vrcp _ _ _ x _ | vrsq _ _ _ x _ | vexp _ _ _ x _ | vlog _ _ _ x _ | vsig _ _ _ x _ | vtanh _ _ _ x _ | viadd _ _ _ _ x _
  | visub _ _ _ _ x _ | vimul _ _ _ _ x _ | vimin _ _ _ _ x _ | vimax _ _ _ _ x _ | vshl _ _ _ _ x _ | vshr _ _ _ _ x _
  | vsra _ _ _ _ x _ | vand _ _ _ _ x _ | vor _ _ _ _ x _ | vxor _ _ _ _ x _ | vnot _ _ _ x _ | vcmp _ _ _ _ _ x _
  | vicmp _ _ _ _ _ x _ | vmov _ _ _ x _ | vbcast _ _ _ x _ | vperm _ _ _ _ x _ | vzip _ _ _ _ x _ | vunzip _ _ _ _ x _
  | vcomp _ _ _ x _ | vexpd _ _ _ x _ | viota _ _ x _ | vsel _ _ _ _ x _ | vredAnd _ _ _ x _ | vredOr _ _ _ x _
  | vredXor _ _ _ x _ | vbtst _ _ _ _ x _ | vpcnt _ _ _ x _ | vfirst _ _ _ x _ =>
    exact exec_guard_off_of hg rfl h rfl (by cases x <;> rfl)
  | vext _ _ _ b x _ | vins _ _ _ b x _ | vslide _ _ _ b x _ =>
    exact exec_guard_off_of hg rfl h rfl (by cases b <;> cases x <;> rfl)
  | spldExt _ _ nm1 off _ | spstExt _ _ nm1 off _ => exact exec_guard_off_of hg rfl h rfl (by cases nm1 <;> cases off <;> rfl)
  | vredAdd f _ _ x _ | vredMin f _ _ x _ | vredMax f _ _ x _ =>
    cases f <;> exact exec_guard_off_of hg rfl h rfl (by cases x <;> rfl)
  | sfree d q =>
    obtain rfl : q = g := Option.some.inj hg
    change (if s.guardOn q && s.appendPending d then _ else s.done q 1 _) = _
    rw [h, Bool.false_and, if_neg Bool.false_ne_true, State.done_off h]
    rfl
  | recv d a q =>
    obtain rfl : q = g := Option.some.inj hg
    change (s.joinReaders q (s.getG a).toNat).guarded q 1 _ = _
    rw [State.joinReaders_off h, State.guarded_off h]
    rfl
  | qrd d p q =>
    obtain rfl : q = g := Option.some.inj hg
    change (s.joinReaders q (16 + p.toNat)).guarded q 1 _ = _
    rw [State.joinReaders_off h, State.guarded_off h]
    rfl
  | _ => exact (Option.some_ne_none g hg.symm).elim

/-- Settles O7: the register files by their laws of reading after writing, the guards by one case for each instruction. -/
theorem registersAndGuards : Obligations.RegistersAndGuards := by
  refine ⟨fun s r q p o v w => ⟨rfl, rfl, ?_, ?_, ?_, ?_⟩, fun i s g hg h => exec_guard_off hg h⟩
  · intro hr; rw [State.getG_setG, if_pos ⟨rfl, hr⟩]
  · intro hp; rw [State.getP_setP, if_pos ⟨rfl, hp⟩]
  · intro hq; rw [State.getG_setG, if_neg fun e => hq e.1]
  · intro ho; rw [State.getP_setP, if_neg fun e => ho e.1]

end Sys2Proof.Machine
end

section
/-! PROOF. Pointers: their fields, the linear position that a pointer names over its rectangle, and moves forth and back
(R15, R16, R107-R109). -/

namespace Sys2Proof.Machine

open Sys2Proof

/-! ### Fields of words -/

theorem bits_eq_extract (v : Word) (lo n : Nat) : bits v lo n = (v.extractLsb' lo n).toNat := by
  rw [bits, BitVec.extractLsb'_toNat, Nat.shiftRight_eq_div_pow]

theorem bits_lt (v : Word) (lo n : Nat) : bits v lo n < 2 ^ n := Nat.mod_lt _ (Nat.two_pow_pos n)

@[simp] theorem getLsbD_setBit_self (v : Word) {i : Nat} (h : i < 64) (b : Bool) : (setBit v i b).getLsbD i = b := by
  unfold setBit
  cases b <;> simp [h]

/-! ### Positions over a rectangle (R16) -/

/-- The byte that block, row, column and offset name, in the order of R16, over h rows and w columns at interleave k. -/
def linearOf (h w k blk row col within : Nat) : Nat := ((blk * h + row) * w + col) * k + within

section Positions
variable {h w k blk row col within : Nat} (hr : row < h) (hc : col < w) (ht : within < k)
include ht

theorem linearOf_mod : linearOf h w k blk row col within % k = within := by
  rw [linearOf, Nat.mul_comm _ k, Nat.mul_add_mod, Nat.mod_eq_of_lt ht]

theorem linearOf_div : linearOf h w k blk row col within / k = (blk * h + row) * w + col := by
  rw [linearOf, Nat.mul_comm _ k, Nat.mul_add_div (by omega), Nat.div_eq_of_lt ht, Nat.add_zero]

include hc

theorem linearOf_col : linearOf h w k blk row col within / k % w = col := by
  rw [linearOf_div ht, Nat.mul_comm _ w, Nat.mul_add_mod, Nat.mod_eq_of_lt hc]

theorem linearOf_rows : linearOf h w k blk row col within / k / w = blk * h + row := by
  rw [linearOf_div ht, Nat.mul_comm _ w, Nat.mul_add_div (by omega), Nat.div_eq_of_lt hc, Nat.add_zero]

include hr

theorem linearOf_row : linearOf h w k blk row col within / k / w % h = row := by
  rw [linearOf_rows hc ht, Nat.mul_comm _ h, Nat.mul_add_mod, Nat.mod_eq_of_lt hr]

theorem linearOf_blk : linearOf h w k blk row col within / k / w / h = blk := by
  rw [linearOf_rows hc ht, Nat.mul_comm _ h, Nat.mul_add_div (by omega), Nat.div_eq_of_lt hr, Nat.add_zero]

end Positions

/-- Every byte is the one that its own block, row, column and offset name. -/
theorem linearOf_parts (h w k n : Nat) : linearOf h w k (n / k / w / h) (n / k / w % h) (n / k % w) (n % k) = n := by
  rw [linearOf, Nat.mul_comm _ h, Nat.div_add_mod, Nat.mul_comm _ w, Nat.div_add_mod, Nat.mul_comm _ k, Nat.div_add_mod]

/-- The block of a byte, as R16 bounds it. -/
theorem block_eq (h w k n : Nat) : n / (k * w * h) = n / k / w / h := by rw [← Nat.div_div_eq_div_mul, ← Nat.div_div_eq_div_mul]

/-! ### Pointers -/

/-- The linear position that a pointer names over a rectangle (R16). -/
def ptrLinear (r : Rect) (p : Word) : Nat :=
  linearOf r.h r.w (2 ^ ptrK p) (ptrOff p / 2 ^ ptrK p) (ptrRow p - r.row) (ptrCol p - r.col) (ptrOff p % 2 ^ ptrK p)

/-- The pointer p put at linear position n of a rectangle (R16). -/
def ptrPut (r : Rect) (p : Word) (n : Nat) : Word :=
  let k := 2 ^ ptrK p
  p.extractLsb' 29 35 ++ BitVec.ofNat 2 (r.row + n / k / r.w % r.h) ++ BitVec.ofNat 4 (r.col + n / k % r.w) ++
    BitVec.ofNat 23 (n / k / r.w / r.h * k + n % k)

/-- The block of position n lies within the memory that a pointer's offset can name. -/
abbrev ptrFits (r : Rect) (p : Word) (n : Nat) : Prop := n / 2 ^ ptrK p / r.w / r.h * 2 ^ ptrK p < 2 ^ 23

/-- A rectangle within the mesh whose rows and columns a pointer can name. -/
structure Rect.InMesh (r : Rect) : Prop where
  rows : r.row + r.h ≤ 4
  cols : r.col + r.w ≤ 16
  h_pos : 0 < r.h
  w_pos : 0 < r.w

/-- What ptrIn asks of the position of a pointer. -/
theorem ptrIn_fields {r : Rect} {p : Word} (h : ptrIn r p = true) :
    ptrK p ≤ 22 ∧ r.row ≤ ptrRow p ∧ ptrRow p < r.row + r.h ∧ r.col ≤ ptrCol p ∧ ptrCol p < r.col + r.w := by
  simp only [ptrIn, Bool.and_eq_true, decide_eq_true_eq] at h
  obtain ⟨⟨⟨⟨⟨-, hk⟩, hr⟩, hr'⟩, hc⟩, hc'⟩ := h
  exact ⟨hk, hr, hr', hc, hc'⟩

/-- A rectangle of R30 that holds the position of a pointer lies within the mesh. -/
theorem rectOf_inMesh {core lvl : Nat} {p : Word} (h : ptrIn (rectOf core lvl) p = true) : (rectOf core lvl).InMesh := by
  obtain ⟨-, hr, -, hc, -⟩ := ptrIn_fields h
  have hrow : ptrRow p < 4 := bits_lt p 27 2
  have hcol : ptrCol p < 16 := bits_lt p 23 4
  match lvl with
  | 0 | 1 | 2 | _ + 3 => constructor <;> simp only [rectOf] at hr hc ⊢ <;> omega

/-- The positions of a pointer within its rectangle. -/
theorem ptrMove_eq {r : Rect} {p : Word} (h : ptrIn r p = true) (inc : Int) :
    ptrMove r p inc =
      if (ptrLinear r p : Int) + inc < 0 ∨ ¬ ptrFits r p ((ptrLinear r p : Int) + inc).toNat then setBit p 63 true
      else ptrPut r p ((ptrLinear r p : Int) + inc).toNat := by
  obtain ⟨-, hr, -, hc, -⟩ := ptrIn_fields h
  have hlin : ((((ptrOff p / 2 ^ ptrK p : Nat) : Int) * r.h + ((ptrRow p : Int) - r.row)) * r.w + ((ptrCol p : Int) - r.col))
      * (2 ^ ptrK p : Nat) + (ptrOff p % 2 ^ ptrK p : Nat) = (ptrLinear r p : Int) := by
    rw [ptrLinear, linearOf]
    push_cast [hr, hc]
    ring
  unfold ptrMove
  dsimp only
  rw [hlin]
  simp only [block_eq, ptrFits, Nat.not_lt]
  rfl

section Put
variable {r : Rect} {p : Word} (n : Nat)

@[simp] theorem ptrK_ptrPut : ptrK (ptrPut r p n) = ptrK p := by
  simp only [ptrK, bits_eq_extract, ptrPut]
  rw [ext_hi _ _ (by decide), ext_hi _ _ (by decide), ext_hi _ _ (by decide), ext_ext _ (by decide)]

theorem ptrTop_ptrPut : (ptrPut r p n).extractLsb' 29 35 = p.extractLsb' 29 35 := by
  simp only [ptrPut]
  rw [ext_hi _ _ (by decide), ext_hi _ _ (by decide), ext_hi _ _ (by decide), ext_ext _ (by decide)]

theorem ptrPut_ptrPut (m : Nat) : ptrPut r (ptrPut r p m) n = ptrPut r p n := by
  rw [ptrPut, ptrTop_ptrPut, ptrK_ptrPut]; rfl

variable {n} (hm : r.InMesh)
include hm

theorem ptrRow_ptrPut : ptrRow (ptrPut r p n) = r.row + n / 2 ^ ptrK p / r.w % r.h := by
  have := Nat.mod_lt (n / 2 ^ ptrK p / r.w) hm.h_pos
  have := hm.rows
  simp only [ptrRow, bits_eq_extract, ptrPut]
  rw [ext_hi _ _ (by decide), ext_hi _ _ (by decide), ext_lo _ _ (by decide), ext_all, BitVec.toNat_ofNat]
  exact Nat.mod_eq_of_lt (by omega)

theorem ptrCol_ptrPut : ptrCol (ptrPut r p n) = r.col + n / 2 ^ ptrK p % r.w := by
  have := Nat.mod_lt (n / 2 ^ ptrK p) hm.w_pos
  have := hm.cols
  simp only [ptrCol, bits_eq_extract, ptrPut]
  rw [ext_hi _ _ (by decide), ext_lo _ _ (by decide), ext_all, BitVec.toNat_ofNat]
  exact Nat.mod_eq_of_lt (by omega)

omit hm

/-- Offsets within a block do not leave the 8 MiB that a pointer's offset can name. -/
theorem offset_lt {K b t : Nat} (hK : K ≤ 22) (hb : b * 2 ^ K < 2 ^ 23) (ht : t < 2 ^ K) : b * 2 ^ K + t < 2 ^ 23 := by
  have hs : 2 ^ 23 = 2 ^ (23 - K) * 2 ^ K := by rw [← Nat.pow_add]; congr 1; omega
  rw [hs] at hb ⊢
  have : b + 1 ≤ 2 ^ (23 - K) := Nat.lt_of_mul_lt_mul_right hb
  calc b * 2 ^ K + t < b * 2 ^ K + 2 ^ K := by omega
    _ = (b + 1) * 2 ^ K := by ring
    _ ≤ 2 ^ (23 - K) * 2 ^ K := Nat.mul_le_mul_right _ this

theorem ptrOff_ptrPut (hK : ptrK p ≤ 22) (hf : ptrFits r p n) :
    ptrOff (ptrPut r p n) = n / 2 ^ ptrK p / r.w / r.h * 2 ^ ptrK p + n % 2 ^ ptrK p := by
  simp only [ptrOff, bits_eq_extract, ptrPut]
  rw [ext_lo _ _ (by decide), ext_all, BitVec.toNat_ofNat]
  exact Nat.mod_eq_of_lt (offset_lt hK hf (Nat.mod_lt _ (Nat.two_pow_pos _)))

include hm

/-- A pointer put at a position names that position. -/
theorem ptrLinear_ptrPut (hK : ptrK p ≤ 22) (hf : ptrFits r p n) : ptrLinear r (ptrPut r p n) = n := by
  have ht : n % 2 ^ ptrK p < 2 ^ ptrK p := Nat.mod_lt _ (Nat.two_pow_pos _)
  rw [ptrLinear, ptrK_ptrPut, ptrRow_ptrPut hm, ptrCol_ptrPut hm, ptrOff_ptrPut hK hf, Nat.add_sub_cancel_left,
    Nat.add_sub_cancel_left, Nat.mul_comm (n / 2 ^ ptrK p / r.w / r.h), Nat.mul_add_div (Nat.two_pow_pos _), Nat.div_eq_of_lt ht,
    Nat.add_zero, Nat.mul_add_mod, Nat.mod_eq_of_lt ht]
  exact linearOf_parts _ _ _ n

/-- A pointer put at a position that fits names a position over the rectangle, if it did before. -/
theorem ptrIn_ptrPut (h : ptrIn r p = true) : ptrIn r (ptrPut r p n) = true := by
  have hr := Nat.mod_lt (n / 2 ^ ptrK p / r.w) hm.h_pos
  have hc := Nat.mod_lt (n / 2 ^ ptrK p) hm.w_pos
  have htop : bits (ptrPut r p n) 34 30 = bits p 34 30 := by
    simp only [bits_eq_extract, ptrPut]
    rw [ext_hi _ _ (by decide), ext_hi _ _ (by decide), ext_hi _ _ (by decide), ext_ext _ (by decide)]
  simp only [ptrIn, htop, ptrK_ptrPut, ptrRow_ptrPut hm, ptrCol_ptrPut hm, Bool.and_eq_true, decide_eq_true_eq] at h ⊢
  obtain ⟨⟨⟨⟨hk, -⟩, -⟩, -⟩, -⟩ := h
  exact ⟨⟨⟨⟨hk, by omega⟩, by omega⟩, by omega⟩, by omega⟩

end Put

/-- The offset of a pointer is one that its block and its byte within the block name. -/
theorem ptrLinear_parts {r : Rect} {p : Word} (h : ptrIn r p = true) :
    ptrLinear r p % 2 ^ ptrK p = ptrOff p % 2 ^ ptrK p ∧ r.col + ptrLinear r p / 2 ^ ptrK p % r.w = ptrCol p ∧
      r.row + ptrLinear r p / 2 ^ ptrK p / r.w % r.h = ptrRow p ∧
      ptrLinear r p / 2 ^ ptrK p / r.w / r.h = ptrOff p / 2 ^ ptrK p := by
  obtain ⟨-, hr, hr', hc, hc'⟩ := ptrIn_fields h
  have ht : ptrOff p % 2 ^ ptrK p < 2 ^ ptrK p := Nat.mod_lt _ (Nat.two_pow_pos _)
  have hrow : ptrRow p - r.row < r.h := by omega
  have hcol : ptrCol p - r.col < r.w := by omega
  refine ⟨linearOf_mod ht, ?_, ?_, linearOf_blk hrow hcol ht⟩
  · rw [ptrLinear, linearOf_col hcol ht]; omega
  · rw [ptrLinear, linearOf_row hrow hcol ht]; omega

theorem ptrFits_ptrLinear {r : Rect} {p : Word} (h : ptrIn r p = true) : ptrFits r p (ptrLinear r p) := by
  rw [ptrFits, (ptrLinear_parts h).2.2.2]
  exact Nat.lt_of_le_of_lt (Nat.div_mul_le_self _ _) (bits_lt p 0 23)

/-- A pointer put at the position that it names is itself. -/
theorem ptrPut_ptrLinear {r : Rect} {p : Word} (h : ptrIn r p = true) : ptrPut r p (ptrLinear r p) = p := by
  obtain ⟨hw, hc, hr, hb⟩ := ptrLinear_parts h
  rw [ptrPut, hw, hc, hr, hb, Nat.div_add_mod']
  simp only [ptrRow, ptrCol, ptrOff, bits_eq_extract, BitVec.ofNat_toNat, BitVec.setWidth_eq]
  rw [ext_join (lo := 27) (w := 2) (v := 35), ext_join (lo := 23) (w := 4) (v := 37)]
  have := ext_join (lo := 0) (w := 23) (v := 41) p
  rw [Nat.zero_add] at this
  rw [this, ext_all]

/-- A move that stays in range puts the pointer at its new position (R16). -/
theorem ptrMove_inRange {r : Rect} {p : Word} (h : ptrIn r p = true) {n : Int} (hn : (ptrMove r p n).getLsbD 63 = false) :
    0 ≤ (ptrLinear r p : Int) + n ∧ ptrFits r p ((ptrLinear r p : Int) + n).toNat ∧
      ptrMove r p n = ptrPut r p ((ptrLinear r p : Int) + n).toNat := by
  rw [ptrMove_eq h] at hn ⊢
  split at hn
  · rw [getLsbD_setBit_self _ (by decide)] at hn; cases hn
  · next hc =>
    rw [not_or, not_not, Int.not_lt] at hc
    exact ⟨hc.1, hc.2, if_neg (by rw [not_or, not_not, Int.not_lt]; exact hc)⟩

/-- Moving a pointer forth and back is no move, where the first move stays in range (R16, R108). -/
theorem ptrMove_back {core lvl : Nat} {p : Word} {n : Int} (h : ptrIn (rectOf core lvl) p = true)
    (hn : (ptrMove (rectOf core lvl) p n).getLsbD 63 = false) :
    ptrMove (rectOf core lvl) (ptrMove (rectOf core lvl) p n) (-n) = p := by
  have hm := rectOf_inMesh h
  obtain ⟨hpos, hfits, hput⟩ := ptrMove_inRange h hn
  have hback : ((((ptrLinear (rectOf core lvl) p : Int) + n).toNat : Int) + -n).toNat = ptrLinear (rectOf core lvl) p := by omega
  rw [hput, ptrMove_eq (ptrIn_ptrPut hm h), ptrLinear_ptrPut hm (ptrIn_fields h).1 hfits, hback, if_neg, ptrPut_ptrPut,
    ptrPut_ptrLinear h]
  rw [not_or, not_not, ptrFits, ptrK_ptrPut]
  exact ⟨by omega, ptrFits_ptrLinear h⟩

/-! ### Pointer instructions -/

/-- The context that an instruction leaves whose one effect is a new pointer. -/
theorem onlyA_setA_next (x : Ctx) (d : Nat) (v : Word) (len : Nat) : x.onlyA ((x.setA d v).awake.next len) d := by
  refine ⟨fun r hr => ?_, fun r => ?_, fun r => ?_, fun r => ?_, fun n => ?_, ?_⟩
  · rw [Ctx.getA_next, Ctx.getA_awake, Ctx.getA_setA_ne _ _ hr]
  · rw [Ctx.getG_next, Ctx.getG_awake]; rfl
  · rw [Ctx.getP_next, Ctx.getP_awake]; rfl
  · rw [Ctx.getV_next, Ctx.getV_awake]; rfl
  · rw [Ctx.sysr_next, Ctx.sysr_awake]; rfl
  · rw [Ctx.next_streams]; rfl

/-- What an instruction does whose one effect is a new pointer. -/
theorem pointer_effect (s : State) {i : Instr} {g : Reg3} {len : Nat} (d : Reg3) (v : Word) (hg : s.guardOn g = true)
    (hx : exec i s = s.done g len (s.setA d v)) (hw : len = words i) :
    ∃ t, exec i s = .next t ∧ t.getA d = v ∧ s.my.onlyA t.my d.toNat ∧ s.onlyMy t ∧ s.sameBytes t ∧ s.movesOn t (words i) := by
  subst hw
  refine ⟨_, hx.trans (State.done_on hg _), ?_, ?_, s.onlyMy_advance _ _, fun p => ?_, s.movesOn_advance (x := s.my.setA d.toNat v) rfl rfl _⟩
  · rw [State.getA_advance, State.getA_setA, if_pos rfl]
  · rw [State.my_advance, State.setA, State.my_setMy]; exact onlyA_setA_next _ _ _ _
  · rw [State.byteAt_advance, State.setA, State.byteAt_setMy]

theorem setBit_top (v : Word) : setBit v 63 true = v ||| 0x8000000000000000 := rfl

/-- Settles O10: each pointer instruction writes one pointer, and a move of a pointer is one of its linear position. -/
theorem pointerResults : Obligations.PointerResults := by
  refine ⟨fun i s d v hv hg => ?_, fun s p n h hn => ptrMove_back h hn⟩
  cases i with
  | aput d a g =>
    cases hv
    exact pointer_effect s d _ hg rfl rfl
  | ainc d b g =>
    cases hv
    exact pointer_effect s d _ hg rfl (by cases b <;> rfl)
  | acfg d a b g =>
    cases hv
    exact pointer_effect s d _ hg rfl rfl
  | _ => exact (Option.some_ne_none _ hv.symm).elim

end Sys2Proof.Machine
end

section
/-! PROOF. The machine after reset (R14, R20, R28, R35, R379, R384). -/

namespace Sys2Proof.Machine

open Sys2Proof

@[simp] theorem core_reset (n : Nat) : State.reset.core n = {} := rfl
@[simp] theorem ctxAt_reset (n k : Nat) : State.reset.ctxAt n k = {} := rfl

theorem Ctx.getG_empty (r : Nat) : ({} : Ctx).getG r = 0 := by unfold Ctx.getG; split <;> rfl

/-- A context that nothing has written is at monitor level (R28). -/
theorem mon_empty : ({} : Ctx).mon = true := by decide

/-- The shape registers hold 0x1FF where nothing has written them (R20). -/
theorem sysReset_shape {j : Nat} (h : j < 8) : sysReset (0x020 + j) = 0x1FF := by
  unfold sysReset; rw [if_neg (by omega), if_pos (by omega)]

theorem byteAt_reset (p : Place) : State.reset.byteAt p = 0 := by cases p <;> rfl

/-- Settles O59: every table of the machine after reset is empty, so that everything reads as what nothing has written. -/
theorem atReset : Obligations.AtReset := by
  refine ⟨rfl, rfl, rfl, rfl, rfl, fun v ring => BitVec.getLsbD_zero, fun n k => ⟨?_, ?_, ?_, ?_, mon_empty, rfl, ?_, rfl, rfl⟩,
    byteAt_reset⟩
  · intro r; rw [ctxAt_reset]; exact Ctx.getG_empty r
  · exact fun _ => rfl
  · exact fun _ => rfl
  · exact fun _ => rfl
  · exact fun j hj => sysReset_shape hj

end Sys2Proof.Machine
end

section
/-! PROOF. Queues and timelines: PUSH and QWR enter, QRD takes, TLRD and TLWT read and wait (R25, R223, R224, R231). -/

namespace Sys2Proof.Machine

open Sys2Proof

/-! ### Engines' queues -/

theorem State.chan_setChan (s : State) (k ch : Nat) (c : Channel) : (s.setChan k ch c).chan k ch = c := by
  unfold State.chan State.setChan
  split
  · simp [State.cluster, State.setCluster]
  · simp

/-- An engine's queue lies outside the registers of every context. -/
theorem State.my_setChan (s : State) (k ch : Nat) (c : Channel) : (s.setChan k ch c).my = s.my := by
  unfold State.setChan
  split
  · rfl
  · unfold State.my State.me
    rw [State.core_setCore_if]
    split
    · next h => rw [show s.cur.core = ch from h]; rfl
    · rfl

@[simp] theorem State.byteAt_setChan (s : State) (k ch : Nat) (c : Channel) (p : Place) : (s.setChan k ch c).byteAt p = s.byteAt p := by
  unfold State.setChan
  split
  · exact s.byteAt_of_eq p
  · exact s.byteAt_setCore_own _ _ p

/-- What an accepted block changes: a queue, and no register, pc or byte. -/
theorem State.enqueue_frame {s u : State} {e : Engine} (h : s.enqueue e = some u) :
    u.my = s.my ∧ ∀ p, u.byteAt p = s.byteAt p := by
  unfold State.enqueue at h
  cases e <;> dsimp only at h <;> split at h <;> obtain ⟨⟩ := h
  case copy => exact ⟨State.my_setChan _ _ _ _, fun p => State.byteAt_setChan _ _ _ _ p⟩
  case dispenser => exact ⟨s.my_setMe_own _, fun p => s.byteAt_setMe_own _ p⟩
  case walk => exact ⟨s.my_setMe_own _, fun p => s.byteAt_setMe_own _ p⟩

theorem ite_none_iff {α : Type} {c : Prop} [Decidable c] {a : α} : (if c then none else some a) = none ↔ c := by
  by_cases h : c <;> simp [h]

/-- A queue refuses a block exactly where it is full (R223, R303). -/
theorem State.enqueue_none (s : State) (e : Engine) : s.enqueue e = none ↔ match e with
    | .dispenser => s.q1Full = true
    | .copy => 16 ≤ (s.chan (clusterOf s.cur.core) (s.my.pushBlock.toNat / 2 ^ 8 % 8)).queue.length
    | .walk => 16 ≤ s.me.twe.queue.length := by
  unfold State.enqueue
  cases e with
  | dispenser => by_cases h : s.q1Full = true <;> simp [h]
  | copy => exact ite_none_iff
  | walk => exact ite_none_iff

/-- The command that a PUSH hands over (R223). -/
def State.pushed (s : State) : Command := { bits := s.my.pushBlock, vf := s.me.vf, core := s.cur.core, refused := none }

/-- An accepted block stands last in the queue of the engine that PUSH names. -/
theorem State.enqueue_entered {s u : State} {e : Engine} (h : s.enqueue e = some u) : match e with
    | .dispenser => u.me.q1 = s.me.q1 ++ [.inline s.my.pushBlock s.me.vf]
    | .copy => (u.chan (clusterOf s.cur.core) (s.my.pushBlock.toNat / 2 ^ 8 % 8)).queue =
        (s.chan (clusterOf s.cur.core) (s.my.pushBlock.toNat / 2 ^ 8 % 8)).queue ++ [s.pushed]
    | .walk => u.me.twe.queue = s.me.twe.queue ++ [s.pushed] := by
  unfold State.enqueue at h
  cases e <;> dsimp only at h ⊢ <;> split at h <;> obtain ⟨⟩ := h
  case copy => exact congrArg Channel.queue (State.chan_setChan _ _ _ _)
  case dispenser => rw [State.me_setMe]
  case walk => rw [State.me_setMe]; rfl

/-- A region-closing instruction that gives gd the value 0 and sends its thing (R217). -/
theorem sent_result {s u : State} (hmy : u.my = s.my) (d : Reg5) :
    let t := (u.setG d 0).sent 1
    t.getG d = 0 ∧ (∀ r : Reg5, r ≠ d → t.getG r = s.getG r) ∧ t.my.sysr 0x030 = t.my.pc ∧ s.movesOn t 1 := by
  have hg : ∀ r, u.getG r = s.getG r := fun r => by rw [State.getG, State.getG, hmy]
  refine ⟨?_, fun r hr => ?_, State.regionpc_sent _ _, ?_⟩
  · rw [State.getG_sent, State.getG_setG]
    split
    · rfl
    · next h => rw [not_and, not_not] at h; rw [h rfl]; rfl
  · rw [State.getG_sent, State.getG_setG, if_neg fun h => hr h.1, hg]
  · refine State.movesOn_of_pc (State.pc_sent _ _) ?_ ?_ <;> simp [State.setG, hmy]

theorem push_clause (s : State) (d : Reg5) (e : Engine) (g : Reg3) (hg : s.guardOn g = true) :
    (s.enqueue e = none → ∃ t, exec (.push d e g) s = .next t ∧ s.onlyResult t d 1 ∧ s.movesOn t 1) ∧
      (∀ u, s.enqueue e = some u → exec (.push d e g) s = .next ((u.setG d 0).sent 1)) := by
  have hx : exec (.push d e g) s = s.guarded g 1 (match s.enqueue e with
    | some t => .ok ((t.setG d 0).sent 1)
    | none => .ok ((s.setG d 1).advance 1)) := rfl
  refine ⟨fun h => ⟨_, ?_, s.onlyResult_setG d 1 1, s.movesOn_setG d 1 1⟩, fun u h => ?_⟩ <;>
    rw [hx, h, State.guarded_ok hg]

/-! ### Timelines -/

theorem setBit_63_false (v : Word) : setBit v 63 false = v &&& 0x7FFFFFFFFFFFFFFF := rfl

/-- TLWT passes and acquires, takes LOAD_FAULT or sleeps (R224). -/
theorem timelineWait_clause {s : State} {n k : Nat} {st : EngineStop} (w : Word) (len : Nat) : s.timeline n = (k, st) →
    (w.toNat ≤ k → timelineWait s n w len = .ok (s.discardAhead.advance len)) ∧
      (k < w.toNat → timelineWait s n w len = match st with
        | .stopped a => .error (.trap 0x06 a ({ eng := true, engid := BitVec.ofNat 16 (s.engineId n) } : AddrInfo).word)
        | _ => .error .sleep) := by
  intro h
  unfold timelineWait
  rw [h]
  exact ⟨fun hw => if_pos hw, fun hw => (if_neg (Nat.not_le.mpr hw)).trans (by cases st <;> rfl)⟩

/-- An instruction that waits on a timeline. -/
theorem wait_clause {s : State} {g : Reg3} {i : Instr} {n k len : Nat} {st : EngineStop} {w : Word} (hg : s.guardOn g = true)
    (hx : exec i s = s.guarded g len (timelineWait s n w len)) : s.timeline n = (k, st) →
    (w.toNat ≤ k → ∃ u, exec i s = .next u ∧ s.acquires u ∧ s.movesOn u len) ∧
      (k < w.toNat → match st with
        | .stopped ea => exec i s = .next (s.trapAt 0x06 ea ({ eng := true, engid := BitVec.ofNat 16 (s.engineId n) } : AddrInfo).word)
        | _ => ∃ u, exec i s = .next u ∧ s.sleeps u) := by
  intro h
  obtain ⟨hpass, hwait⟩ := timelineWait_clause w len h
  refine ⟨fun hw => ⟨_, ?_, s.acquires_discardAhead len, s.movesOn_discardAhead len⟩, fun hw => ?_⟩
  · rw [hx, hpass hw, State.guarded_ok hg]
  · rw [hx, hwait hw, State.guarded_on hg]
    cases st with
    | stopped a => rfl
    | going => exact ⟨_, rfl, s.sleeps_stopped⟩
    | waiting p => exact ⟨_, rfl, s.sleeps_stopped⟩

/-! ### Queue ports -/

/-- A reader's place among those of its port leaves its registers, the ports and the bytes (R25). -/
theorem State.joinReaders_cases (s : State) (g : Reg3) (r : Nat) :
    s.joinReaders g r = s ∨ s.joinReaders g r =
      (s.setMe { s.me with readOrder := s.me.readOrder + 1 }).setMy { s.my with place := some (r, s.me.readOrder) } := by
  unfold State.joinReaders
  split
  · exact .inl rfl
  · exact .inr rfl

/-- What a reader keeps when it takes its place. -/
structure State.Joined (s t : State) : Prop where
  g : t.my.g = s.my.g
  p : t.my.p = s.my.p
  v : t.my.v = s.my.v
  a : t.my.a = s.my.a
  sys : t.my.sys = s.my.sys
  streams : t.my.streams = s.my.streams
  pc : t.my.pc = s.my.pc
  replay : t.my.replay = s.my.replay
  q0 : t.me.q0 = s.me.q0
  q2 : t.me.q2 = s.me.q2
  q3 : t.me.q3 = s.me.q3
  q3Ovf : t.me.q3Ovf = s.me.q3Ovf
  bytes : ∀ p, t.byteAt p = s.byteAt p

theorem State.joinReaders_joined (s : State) (g : Reg3) (r : Nat) : s.Joined (s.joinReaders g r) := by
  rcases s.joinReaders_cases g r with h | h <;> rw [h]
  · exact ⟨rfl, rfl, rfl, rfl, rfl, rfl, rfl, rfl, rfl, rfl, rfl, rfl, fun _ => rfl⟩
  · refine ⟨by simp, by simp, by simp, by simp, by simp, by simp, by simp, ?_, by simp, by simp, by simp, by simp, fun p => ?_⟩
    · rw [State.my_setMy]; rfl
    · rw [State.byteAt_setMy]; exact s.byteAt_setMe_own _ p

section Joined
variable {s t : State} (h : s.Joined t)
include h

theorem State.Joined.getG (r : Nat) : t.my.getG r = s.my.getG r := by rw [Ctx.getG, Ctx.getG, h.g]
theorem State.Joined.guardOn (g : Reg3) : t.guardOn g = s.guardOn g := by
  rw [State.guardOn, State.guardOn, State.getP, State.getP, Ctx.getP, Ctx.getP, h.p]
theorem State.Joined.sysr (n : Nat) : t.my.sysr n = s.my.sysr n := by rw [Ctx.sysr, Ctx.sysr, h.sys]
theorem State.Joined.mon : t.my.mon = s.my.mon := by rw [Ctx.mon, Ctx.mon, h.sysr]
theorem State.Joined.sameRegs : s.my.sameRegs t.my :=
  ⟨h.getG, fun r => by rw [Ctx.getP, Ctx.getP, h.p], fun r => by rw [Ctx.getV, Ctx.getV, h.v],
    fun r => by rw [Ctx.getA, Ctx.getA, h.a], h.sysr, h.streams⟩

/-- A reader that goes to sleep after it has taken its place sleeps. -/
theorem State.Joined.sleeps {u : State} (hu : t.sleeps u) : s.sleeps u := by
  obtain ⟨hrun, hpc, ⟨hg, hp, hv, ha, hsys, hstr⟩, hb⟩ := hu
  obtain ⟨hg', hp', hv', ha', hsys', hstr'⟩ := h.sameRegs
  exact ⟨hrun, hpc.trans h.pc, ⟨fun r => (hg r).trans (hg' r), fun r => (hp r).trans (hp' r), fun r => (hv r).trans (hv' r),
    fun r => (ha r).trans (ha' r), fun n => (hsys n).trans (hsys' n), hstr.trans hstr'⟩, fun p => (hb p).trans (h.bytes p)⟩

end Joined

/-- Words written to consecutive registers: those and no others (R231). -/
theorem Ctx.getG_setWords_out (x : Ctx) (d r : Nat) (ws : List Word) (h : ∀ k < ws.length, r ≠ d + k) :
    (x.setWords d ws).getG r = x.getG r := by
  induction ws generalizing x d with
  | nil => rfl
  | cons w ws ih =>
    rw [Ctx.setWords, ih _ _ fun k hk e => h (k + 1) (by simpa using hk) (by omega)]
    exact Ctx.getG_setG_ne _ _ (h 0 (by simp))

theorem Ctx.getG_setWords_in (x : Ctx) (d k : Nat) (ws : List Word) (hk : k < ws.length) :
    (x.setWords d ws).getG (d + k) = if d + k = 0 then 0 else ws[k] := by
  induction ws generalizing x d k with
  | nil => simp at hk
  | cons w ws ih =>
    cases k with
    | zero =>
      rw [Ctx.setWords, Ctx.getG_setWords_out _ _ _ _ fun k _ => by omega]
      split
      · next h => rw [h]; rfl
      · next h => exact Ctx.getG_setG _ _ h
    | succ k =>
      have := ih (x.setG d w) (d + 1) k (by simpa using hk)
      rwa [Nat.add_assoc, Nat.add_comm 1 k] at this

/-- Registers written one after another leave everything else of the context. -/
theorem Ctx.setWords_frame (x : Ctx) (d : Nat) (ws : List Word) : (x.setWords d ws).pc = x.pc ∧ (x.setWords d ws).replay = x.replay := by
  induction ws generalizing x d with
  | nil => exact ⟨rfl, rfl⟩
  | cons w ws ih =>
    obtain ⟨hpc, hr⟩ := ih (x.setG d w) (d + 1)
    exact ⟨hpc.trans (by simp), hr.trans (by simp)⟩

/-- A port's entry leaves the core; its contexts and its memories stay. -/
theorem CoreSt.takePort_frame {c c' : CoreSt} {q : Nat} {ws : List Word} (h : c.takePort q = some (ws, c')) :
    c'.ctxs = c.ctxs ∧ c'.mem = c.mem ∧ c'.tbuf = c.tbuf := by
  unfold CoreSt.takePort at h
  split at h <;> split at h <;> obtain ⟨⟩ := h <;> exact ⟨rfl, rfl, rfl⟩

/-- The state that QRD leaves when it takes the words ws and leaves the core c. -/
def State.took (s : State) (d : Reg5) (q : Reg3) (ws : List Word) (c : CoreSt) : State :=
  let t := s.setMe c
  let t := t.setMy (t.my.setWords d.toNat ws)
  (if q = 0 then t.discardAhead else t).advance 1

theorem qrd_eq (s : State) (d : Reg5) (q : Reg3) (g : Reg3) : exec (.qrd d q g) s =
    (s.joinReaders g (16 + q.toNat)).guarded g 1 (
      if 4 ≤ q.toNat then .error reservedAtExec
      else if q = 2 ∧ !(s.joinReaders g (16 + q.toNat)).my.mon then .error (privilege 2 0)
      else if (s.joinReaders g (16 + q.toNat)).behind (16 + q.toNat) then .error .sleep
      else match (s.joinReaders g (16 + q.toNat)).me.takePort q.toNat with
        | none => .error .sleep
        | some (ws, c) => .ok ((s.joinReaders g (16 + q.toNat)).took d q ws c)) := rfl

/-- What the reader of a port leaves: the words in its registers, the port without them, and no byte changed. -/
theorem State.took_spec {s : State} {c : CoreSt} {q : Reg3} {ws : List Word} (d : Reg5) (hc : s.me.takePort q.toNat = some (ws, c)) :
    (∀ k (h : k < ws.length), (s.took d q ws c).my.getG (d.toNat + k) = if d.toNat + k = 0 then 0 else ws[k]) ∧
      (∀ r, (∀ k < ws.length, r ≠ d.toNat + k) → (s.took d q ws c).my.getG r = s.my.getG r) ∧
      (∃ x, (s.took d q ws c).me = c.setCtx s.cur.ctx x) ∧ s.sameBytes (s.took d q ws c) ∧ s.movesOn (s.took d q ws c) 1 := by
  obtain ⟨hctx, hmem, htbuf⟩ := CoreSt.takePort_frame hc
  have hmy : (s.setMe c).my = s.my := s.my_setMe_own c hctx
  obtain ⟨hpc, hr⟩ := s.my.setWords_frame d.toNat ws
  obtain ⟨y, hy, hyg, hypc, hyr⟩ : ∃ y : Ctx, s.took d q ws c = ((s.setMe c).setMy y).advance 1 ∧
      (∀ r, y.getG r = (s.my.setWords d.toNat ws).getG r) ∧ y.pc = s.my.pc ∧ y.replay = s.my.replay := by
    unfold State.took
    dsimp only
    rw [hmy]
    split
    · rcases State.discardAhead_cases ((s.setMe c).setMy (s.my.setWords d.toNat ws)) with ⟨-, h⟩ | h <;> rw [h]
      · exact ⟨_, rfl, fun _ => rfl, hpc, hr⟩
      · rw [State.setMy_setMy, State.my_setMy]; exact ⟨_, rfl, fun _ => rfl, hpc, hr⟩
    · exact ⟨_, rfl, fun _ => rfl, hpc, hr⟩
  rw [hy]
  refine ⟨fun k hk => ?_, fun r hr => ?_, ⟨y.awake.next 1, by simp⟩, fun p => ?_, State.movesOn_of_pc (x := y) (by simp) hypc hyr⟩
  · simp only [State.my_advance, State.my_setMy, Ctx.getG_next, Ctx.getG_awake, hyg]
    exact Ctx.getG_setWords_in _ _ _ _ hk
  · simp only [State.my_advance, State.my_setMy, Ctx.getG_next, Ctx.getG_awake, hyg]
    exact Ctx.getG_setWords_out _ _ _ _ hr
  · rw [State.byteAt_advance, State.byteAt_setMy]
    exact s.byteAt_setMe_own _ p hmem htbuf

/-- QRD of a reader whom nobody precedes at a port that holds an entry (R25, R231). -/
theorem qrd_takes {s : State} {d : Reg5} {q : Reg3} {g : Reg3} {ws : List Word} {c : CoreSt} (hg : s.guardOn g = true)
    (hq : q.toNat < 4) (hm : q = 2 → s.my.mon = true) (hf : s.first g (16 + q.toNat))
    (hc : (s.joinReaders g (16 + q.toNat)).me.takePort q.toNat = some (ws, c)) :
    ∃ t, exec (.qrd d q g) s = .next t ∧
      (∀ k (h : k < ws.length), t.my.getG (d.toNat + k) = if d.toNat + k = 0 then 0 else ws[k]) ∧
      (∀ r, (∀ k < ws.length, r ≠ d.toNat + k) → t.my.getG r = s.my.getG r) ∧ (∃ m x, t.me = c.setCtx m x) ∧ s.sameBytes t ∧
      s.movesOn t 1 := by
  have hj := s.joinReaders_joined g (16 + q.toNat)
  obtain ⟨hin, hout, ⟨x, hme⟩, hb, hmove⟩ := State.took_spec d hc
  refine ⟨_, ?_, hin, fun r hr => (hout r hr).trans (hj.getG r), ⟨_, x, hme⟩, fun p => (hb p).trans (hj.bytes p), fun h => ?_⟩
  · rw [qrd_eq, if_neg (by omega), if_neg, if_neg (by rw [hf]; decide), hc, State.guarded_ok (hj.guardOn g ▸ hg)]
    rintro ⟨h2, hn⟩
    rw [hj.mon, hm h2] at hn
    cases hn
  · rw [hmove (hj.replay.trans h), hj.pc]

/-- QRD at an empty port sleeps (R231). -/
theorem qrd_sleeps {s : State} {d : Reg5} {q : Reg3} {g : Reg3} (hg : s.guardOn g = true) (hq : q.toNat < 4)
    (hm : q = 2 → s.my.mon = true) (hc : (s.joinReaders g (16 + q.toNat)).me.takePort q.toNat = none) :
    ∃ t, exec (.qrd d q g) s = .next t ∧ s.sleeps t := by
  have hj := s.joinReaders_joined g (16 + q.toNat)
  refine ⟨_, ?_, hj.sleeps (State.sleeps_stopped _)⟩
  rw [qrd_eq, if_neg (by omega), if_neg, hc, ite_self, State.guarded_on (hj.guardOn g ▸ hg)]
  · rfl
  · rintro ⟨h2, hn⟩
    rw [hj.mon, hm h2] at hn
    cases hn

/-- QRD of a port that there is not, or that the level may not read (R231). -/
theorem qrd_refused {s : State} (d : Reg5) (q : Reg3) {g : Reg3} (hg : s.guardOn g = true) :
    (4 ≤ q.toNat → exec (.qrd d q g) s = .next ((s.joinReaders g (16 + q.toNat)).trapAt 0x02 0 0x400)) ∧
      (s.my.mon = false → exec (.qrd d 2 g) s = .next ((s.joinReaders g 18).trapAt 0x04 0 0x2000)) := by
  have hj := fun q : Reg3 => s.joinReaders_joined g (16 + q.toNat)
  constructor
  · intro hq
    rw [qrd_eq, if_pos hq, State.guarded_on ((hj q).guardOn g ▸ hg)]
    rfl
  · intro hm
    rw [qrd_eq, if_neg (by decide), if_pos ⟨rfl, by rw [(hj 2).mon, hm]; rfl⟩, State.guarded_on ((hj 2).guardOn g ▸ hg)]
    rfl

/-- Settles O33: each instruction through what its queue, timeline or port answers. -/
theorem queuesAndTimelines : Obligations.QueuesAndTimelines := by
  refine ⟨fun s d e g hg => ?_, fun s d a q g hg => ?_, fun s d a t g v k st hg ht => ?_, fun s d q g hg => ?_⟩
  · obtain ⟨hfull, htaken⟩ := push_clause s d e g hg
    refine ⟨s.enqueue_none e, hfull, fun hne => ?_⟩
    obtain ⟨u, hu⟩ := Option.ne_none_iff_exists'.mp hne
    obtain ⟨hmy, hb⟩ := State.enqueue_frame hu
    obtain ⟨h0, hother, hpoint, hmove⟩ := sent_result hmy d
    refine ⟨_, ⟨htaken u hu, h0, hother, hpoint, fun p => ?_, hmove⟩, ?_⟩
    · rw [State.byteAt_sent, State.byteAt_setG, hb]
    · have hin := State.enqueue_entered hu
      obtain ⟨x, hme⟩ := (u.setG d 0).me_sent 1
      cases e <;> dsimp only at hin ⊢
      case copy => rw [State.chan_sent, State.setG, State.chan_setMy]; exact hin
      case dispenser => rw [hme, CoreSt.setCtx_q1, State.setG, State.me_setMy, CoreSt.setCtx_q1]; exact hin
      case walk => rw [hme, CoreSt.setCtx_twe, State.setG, State.me_setMy, CoreSt.setCtx_twe]; exact hin
  · have hx : ∀ q : Reg3, exec (.qwr d a q g) s = s.guarded g 1 (
        if 4 ≤ q.toNat then .error reservedAtExec
        else if (s.getG a).toNat % 64 ≠ 0 then .error (.trap cAlign (s.getG a) 0)
        else if s.q1Full then .ok ((s.setG d 1).advance 1)
        else .ok (((s.setMe { s.me with q1 := s.me.q1 ++ [.header (s.getG a) s.me.vf] }).setG d 0).sent 1)) := fun _ => rfl
    refine ⟨fun hal => ⟨fun hroom => ?_, fun hfull => ?_⟩, fun hal => ?_, fun hq => ?_⟩
    · have hmy : (s.setMe { s.me with q1 := s.me.q1 ++ [.header (s.getG a) s.me.vf] }).my = s.my := s.my_setMe_own _
      obtain ⟨h0, hother, hpoint, hmove⟩ := sent_result hmy d
      refine ⟨_, ?_, h0, hother, ?_, hpoint, fun p => ?_, hmove⟩
      · rw [hx, if_neg (by decide), if_neg (not_not.mpr hal), hroom, if_neg Bool.false_ne_true, State.guarded_ok hg]
      · obtain ⟨x, hme⟩ := ((s.setMe { s.me with q1 := s.me.q1 ++ [.header (s.getG a) s.me.vf] }).setG d 0).me_sent 1
        rw [hme, CoreSt.setCtx_q1, State.setG, State.me_setMy, CoreSt.setCtx_q1, State.me_setMe]
      · rw [State.byteAt_sent, State.byteAt_setG]; exact s.byteAt_setMe_own _ p
    · refine ⟨_, ?_, s.onlyResult_setG d 1 1, s.movesOn_setG d 1 1⟩
      rw [hx, if_neg (by decide), if_neg (not_not.mpr hal), if_pos hfull, State.guarded_ok hg]
    · rw [hx, if_neg (by decide), if_pos hal, State.guarded_on hg]; rfl
    · rw [hx, if_pos hq, State.guarded_on hg]; rfl
  · refine ⟨⟨_, ?_, s.onlyResult_setG d _ 1, s.movesOn_setG d _ 1⟩, wait_clause hg rfl ht, wait_clause hg rfl ht⟩
    change (let (v, st) := s.timeline t.toNat
      let stop := match st with
        | .stopped _ => true
        | _ => false
      s.done g 1 (s.setG d (setBit (BitVec.ofNat 64 v) 63 stop))) = _
    rw [ht]
    cases st <;> exact State.done_on hg 1
  · obtain ⟨hres, hpriv⟩ := qrd_refused d q hg
    have hj := fun r => s.joinReaders_joined g r
    refine ⟨hres, hpriv, fun hd hf a b rest hq0 => ?_, fun hd hf v rest hq2 hm => ?_, fun hf v rest hq3 => ?_, ?_⟩
    · obtain ⟨t, hx, hin, hout, ⟨m, x, hme⟩, hb, hmove⟩ := qrd_takes (d := d) (q := 0) (ws := [a, b]) hg (by decide) (absurd · (by decide)) hf
        (by rw [CoreSt.takePort.eq_def]; simp only [(hj _).q0, hq0]; rfl)
      refine ⟨t, hx, hin 0 (by simp), hin 1 (by simp), fun r h0 h1 => hout r fun k hk => ?_, by rw [hme]; rfl, hb, hmove⟩
      match k, hk with
      | 0, _ => exact h0
      | 1, _ => exact h1
    · obtain ⟨t, hx, hin, hout, ⟨m, x, hme⟩, hb, hmove⟩ := qrd_takes (d := d) (q := 2)
        (ws := (List.range 8).map fun k => v.extractLsb' (64 * k) 64) hg (by decide) (fun _ => hm) hf
        (by rw [CoreSt.takePort.eq_def]; simp only [(hj _).q2, hq2]; rfl)
      refine ⟨t, hx, fun k hk => ?_, fun r hr => hout r fun k hk => hr k (by simpa using hk), by rw [hme]; rfl, hb, hmove⟩
      exact (hin k (by simpa using hk)).trans (by simp)
    · obtain ⟨t, hx, hin, hout, ⟨m, x, hme⟩, hb, hmove⟩ := qrd_takes (d := d) (q := 3) (ws := [setBit v 63 s.me.q3Ovf]) hg
        (by decide) (absurd · (by decide)) hf (by rw [CoreSt.takePort.eq_def]; simp only [(hj _).q3, (hj _).q3Ovf, hq3]; rfl)
      refine ⟨t, hx, hin 0 (by simp), fun r hr => hout r fun k hk => ?_, by rw [hme]; rfl, by rw [hme]; rfl, hb, hmove⟩
      match k, hk with
      | 0, _ => exact hr
    · rintro (⟨rfl, h⟩ | ⟨rfl, h, hm⟩ | ⟨rfl, h⟩)
      · exact qrd_sleeps hg (by decide) (absurd · (by decide)) (by rw [CoreSt.takePort.eq_def]; simp only [(hj _).q0, h]; rfl)
      · exact qrd_sleeps hg (by decide) (fun _ => hm) (by rw [CoreSt.takePort.eq_def]; simp only [(hj _).q2, h]; rfl)
      · exact qrd_sleeps hg (by decide) (absurd · (by decide)) (by rw [CoreSt.takePort.eq_def]; simp only [(hj _).q3, h]; rfl)

end Sys2Proof.Machine
end

section
/-! PROOF. System registers: what MFS reads, what MTS writes, and where they trap (R26-R28, R34, R244). -/

namespace Sys2Proof.Machine

open Sys2Proof

/-! ### Reading after writing -/

/-- A system register after a write of one, in the context or in the core (R27). -/
theorem State.sysr_setSysr_if (s : State) (n k : Nat) (v : Word) : (s.setSysr n v).sysr k = if k = n then v else s.sysr k := by
  unfold State.setSysr State.sysr
  by_cases hn : sysIsCtx n = true
  · simp only [hn, if_true, State.my_setMy, State.me_setMy]
    by_cases hk : k = n
    · rw [if_pos hk, hk, if_pos hn, Ctx.sysr_setSysr]
    · rw [if_neg hk, Ctx.sysr_setSysr_ne _ _ hk]; rfl
  · simp only [hn, if_false, State.me_setMe, Bool.false_eq_true, s.my_setMe_own (s.me.setSysr n v)]
    by_cases hk : k = n
    · rw [if_pos hk, hk, if_neg hn, CoreSt.sysr_setSysr]
    · rw [if_neg hk, CoreSt.sysr_setSysr_ne _ _ hk]

@[simp] theorem State.sysr_advance (s : State) (len k : Nat) : (s.advance len).sysr k = s.sysr k := by
  unfold State.sysr
  rw [State.my_advance, State.me_advance, Ctx.sysr_next, Ctx.sysr_awake]
  rfl

/-- What a write of system register n of the issuing context or core leaves: the register at v, and everything else as it was. -/
structure State.Wrote (s u : State) (n : Nat) (v : Word) : Prop where
  cur : u.cur = s.cur
  value : u.sysr n = v
  other : ∀ k, k ≠ n → u.sysr k = s.sysr k
  g : s.my.sameG u.my
  p : s.my.sameP u.my
  v : s.my.sameV u.my
  a : s.my.sameA u.my
  bytes : s.sameBytes u
  pc : u.my.pc = s.my.pc
  replay : n ≠ 0x100 → u.my.replay = s.my.replay

theorem State.wrote_setSysr (s : State) (n : Nat) (v : Word) : s.Wrote (s.setSysr n v) n v := by
  have hval := fun k => s.sysr_setSysr_if n k v
  by_cases hn : sysIsCtx n = true
  · have he : s.setSysr n v = s.setMy (s.my.setSysr n v) := if_pos hn
    refine ⟨by rw [he]; rfl, by rw [hval, if_pos rfl], fun k hk => by rw [hval, if_neg hk], ?_, ?_, ?_, ?_, ?_, ?_, fun h => ?_⟩ <;>
      simp only [he, State.my_setMy]
    · exact fun _ => rfl
    · exact fun _ => rfl
    · exact fun _ => rfl
    · exact fun _ => rfl
    · exact fun p => s.byteAt_setMy _ p
    · rfl
    · rw [Ctx.replay, Ctx.replay, Ctx.mon, Ctx.mon, Ctx.sysr_setSysr_ne _ _ h.symm]; rfl
  · have he : s.setSysr n v = s.setMe (s.me.setSysr n v) := if_neg hn
    have hmy : (s.setMe (s.me.setSysr n v)).my = s.my := s.my_setMe_own _
    refine ⟨by rw [he]; rfl, by rw [hval, if_pos rfl], fun k hk => by rw [hval, if_neg hk], ?_, ?_, ?_, ?_, ?_, ?_, fun _ => ?_⟩ <;>
      simp only [he, hmy]
    · exact fun _ => rfl
    · exact fun _ => rfl
    · exact fun _ => rfl
    · exact fun _ => rfl
    · exact fun p => s.byteAt_setMe_own _ p

/-- Moving the restart address is a write of REGIONPC (R34). -/
theorem State.wrote_moveRestart (s : State) (v : Word) : s.Wrote (s.setMy (s.my.moveRestart v)) 0x030 v := by
  have hval : ∀ k, (s.setMy (s.my.moveRestart v)).sysr k = if k = 0x030 then v else s.sysr k := by
    intro k
    have := s.sysr_setSysr_if 0x030 k v
    rw [← this]
    unfold State.sysr State.setSysr
    rw [if_pos (show sysIsCtx 0x030 = true by decide), State.my_setMy, State.me_setMy, State.my_setMy, State.me_setMy]
    rfl
  refine ⟨rfl, by rw [hval, if_pos rfl], fun k hk => by rw [hval, if_neg hk], ?_, ?_, ?_, ?_, fun p => s.byteAt_setMy _ p, ?_,
    fun _ => ?_⟩ <;> rw [State.my_setMy]
  · exact fun _ => rfl
  · exact fun _ => rfl
  · exact fun _ => rfl
  · exact fun _ => rfl
  · rfl
  · change (if ((s.my.setSysr 0x030 v).sysr 0x100).getLsbD 0 then _ else _) = _
    rw [Ctx.sysr_setSysr_ne _ _ (by decide)]; rfl

/-- The value that system register n holds after a write of v: CKPTLAP's low half, and MON and PMON of STATUS (R28, R34). -/
def State.sysWritten (s : State) (n : Nat) (v : Word) : Word :=
  if n = 0x032 then (s.sysr 0x032).extractLsb' 32 32 ++ v.extractLsb' 0 32
  else if n = 0x100 then setBit (setBit (s.sysr 0x100) 0 (v.getLsbD 0)) 1 (v.getLsbD 1) else v

/-- A legal write of a register other than RELCFG (R26, R34, R244). -/
theorem State.writeSys_wrote {s : State} {n : Nat} {v : Word} (hi : sysIgnored s.reflex n = false)
    (hr : sysReserved n v = false) (hn : n < 0x190) :
    ∃ u, s.writeSys n v = .ok u ∧ s.Wrote u n (s.sysWritten n v) ∧
      (n = 0x030 → u.my.restart.replay = none ∧ u.my.restart.ckpt = false) := by
  unfold State.writeSys
  rw [hi, hr, if_neg Bool.false_ne_true, if_neg Bool.false_ne_true, if_neg (by omega)]
  unfold State.sysWritten
  by_cases h30 : n = 0x030
  · subst h30
    exact ⟨_, if_pos rfl, s.wrote_moveRestart v, fun _ => by rw [State.my_setMy]; exact ⟨rfl, rfl⟩⟩
  rw [if_neg h30]
  by_cases h32 : n = 0x032
  · subst h32
    exact ⟨_, if_pos rfl, s.wrote_setSysr _ _, fun h => absurd h h30⟩
  rw [if_neg h32, if_neg h32]
  by_cases h100 : n = 0x100
  · subst h100
    exact ⟨_, if_pos rfl, s.wrote_setSysr _ _, fun h => absurd h h30⟩
  rw [if_neg h100, if_neg h100]
  exact ⟨_, rfl, s.wrote_setSysr _ _, fun h => absurd h h30⟩

/-- A write of a register that this kind of core ignores, and of a value with a reserved bit. -/
theorem State.writeSys_ignored {s : State} {n : Nat} (v : Word) (hi : sysIgnored s.reflex n = true) : s.writeSys n v = .ok s := by
  unfold State.writeSys; rw [hi, if_pos rfl]
theorem State.writeSys_reserved {s : State} {n : Nat} {v : Word} (hi : sysIgnored s.reflex n = false)
    (hr : sysReserved n v = true) : s.writeSys n v = .error reservedAtExec := by
  unfold State.writeSys; rw [hi, hr, if_neg Bool.false_ne_true, if_pos rfl]

/-! ### MFS and MTS -/

section Instr
variable {s : State} {d a : Reg5} {n : BitVec 12} {e : Stop}

theorem mfs_refused (h : sysCheck s.my.mon false n.toNat = .error e) : exec (.mfs d n) s = .next (s.stopped e) := by
  change s.run (sysCheck s.my.mon false n.toNat >>= _) = _
  rw [h]; rfl

theorem mts_refused (h : sysCheck s.my.mon true n.toNat = .error e) : exec (.mts a n) s = .next (s.stopped e) := by
  change s.run (sysCheck s.my.mon true n.toNat >>= _) = _
  rw [h]; rfl

theorem mfs_reads (h : sysCheck s.my.mon false n.toNat = .ok ()) (hf : s.flagsWait n.toNat = false) :
    exec (.mfs d n) s = .next ((s.setG d (s.readSys n.toNat)).advance 1) := by
  change s.run (sysCheck s.my.mon false n.toNat >>= fun _ =>
    if s.flagsWait n.toNat then .error (.hold none) else .ok ((s.setG d (s.readSys n.toNat)).advance 1)) = _
  rw [h, hf]; rfl

theorem mts_writes (h : sysCheck s.my.mon true n.toNat = .ok ()) (hf : s.flagsWait n.toNat = false)
    (hown : ¬(s.reflex = true ∧ n.toNat = 0x190 + s.cur.ctx)) :
    exec (.mts a n) s = s.run (s.writeSys n.toNat (s.getG a) >>= fun t => .ok (t.advance 1)) := by
  change s.run (sysCheck s.my.mon true n.toNat >>= fun _ =>
    if s.flagsWait n.toNat then .error (.hold none)
    else if s.reflex ∧ n.toNat = 0x190 + s.cur.ctx then .error reservedAtExec
    else s.writeSys n.toNat (s.getG a) >>= fun t => .ok (t.advance 1)) = _
  rw [h, hf]
  change s.run (if s.reflex ∧ n.toNat = 0x190 + s.cur.ctx then _ else _) = _
  rw [if_neg hown]

end Instr

/-! ### The checks of R26 -/

/-- EINFO of PRIVILEGE for a system register is its number (R335). -/
theorem privilege_sreg {n : Nat} (h : n < 4096) : privilege 0 n = .trap 0x04 0 (BitVec.ofNat 64 n) := by
  have hw : (0 : BitVec 49) ++ BitVec.ofNat 3 0 ++ BitVec.ofNat 12 n = BitVec.ofNat 64 n := by
    apply BitVec.eq_of_toNat_eq
    simp only [BitVec.toNat_append, BitVec.toNat_ofNat, Nat.zero_mod, Nat.zero_shiftLeft, Nat.zero_or,
      show (0 : BitVec 49).toNat = 0 from rfl]
    rw [Nat.mod_eq_of_lt (by omega), Nat.mod_eq_of_lt (by omega)]
  unfold privilege
  rw [hw]; rfl

/-- At program level nothing numbered 0x100 or above may be reached (R26). -/
theorem sysCheck_program (write : Bool) {n : Nat} (h : 0x100 ≤ n) : sysCheck false write n = .error (privilege 0 n) :=
  if_pos ⟨rfl, h⟩

/-- Elsewhere the access code decides (R26). -/
theorem sysCheck_access {mon : Bool} {n : Nat} (write : Bool) (h : mon = true ∨ n < 0x100) : sysCheck mon write n =
    match sysAccess n with
    | none => .error illegalAtExec
    | some .ro => if write then .error (privilege 0 n) else .ok ()
    | some .tm => if write ∧ !mon then .error (privilege 0 n) else .ok ()
    | some .rw => .ok ()
    | some .m => .ok () := by
  refine if_neg ?_
  rintro ⟨hm, hn⟩
  rcases h with rfl | h
  · cases hm
  · omega

theorem sysAccess_readOnly {n : Nat} (h : n = 0x000 ∨ n = 0x004 ∨ n = 0x019 ∨ (0x040 ≤ n ∧ n ≤ 0x047)) :
    sysAccess n = some .ro := if_pos h

theorem sysAccess_monitorWrites {n : Nat} (h : (0x001 ≤ n ∧ n ≤ 0x003) ∨ (0x005 ≤ n ∧ n ≤ 0x007) ∨ n = 0x030) :
    sysAccess n = some .tm := (if_neg (by omega)).trans (if_pos h)

theorem sysAccess_unassigned {n : Nat}
    (h : ¬(n ≤ 0x007 ∨ n = 0x010 ∨ n = 0x011 ∨ n = 0x018 ∨ n = 0x019 ∨ (0x020 ≤ n ∧ n ≤ 0x027) ∨ (0x030 ≤ n ∧ n ≤ 0x032) ∨
      (0x040 ≤ n ∧ n ≤ 0x047) ∨ (0x100 ≤ n ∧ n ≤ 0x105) ∨ (0x110 ≤ n ∧ n ≤ 0x112) ∨ (0x120 ≤ n ∧ n ≤ 0x12F ∧ n % 4 ≠ 3) ∨
      (0x140 ≤ n ∧ n ≤ 0x147) ∨ (0x180 ≤ n ∧ n ≤ 0x193))) : sysAccess n = none := by
  unfold sysAccess
  rw [if_neg (by omega), if_neg (by omega), if_neg (by omega), if_neg (by omega)]

/-- MTS of a legal value to a register that the level may write. -/
theorem mts_wrote {s : State} {a : Reg5} {n : BitVec 12} (h : sysCheck s.my.mon true n.toNat = .ok ())
    (hf : s.flagsWait n.toNat = false) (hi : sysIgnored s.reflex n.toNat = false)
    (hr : sysReserved n.toNat (s.getG a) = false) (hn : n.toNat < 0x190) :
    ∃ u, exec (.mts a n) s = .next (u.advance 1) ∧ s.Wrote u n.toNat (s.sysWritten n.toNat (s.getG a)) ∧
      (n.toNat = 0x030 → u.my.restart.replay = none ∧ u.my.restart.ckpt = false) := by
  obtain ⟨u, hu, hw, hp⟩ := State.writeSys_wrote hi hr hn
  refine ⟨u, ?_, hw, hp⟩
  rw [mts_writes h hf fun h => by omega, hu]; rfl

/-- Settles O38: the checks of R26 by access code, and the writes by what each register keeps of a value. -/
theorem systemRegisters : Obligations.SystemRegisters := by
  refine ⟨fun s d a n => ⟨fun hc hf => ?_, fun hc hf hcore => ⟨fun hi => ?_, fun hi hr => ?_, fun hi hr hn => ?_⟩⟩,
    fun s d a n hm hn => ?_, fun s d a n hlevel => ⟨fun hna => ?_, fun hro => ?_, fun hmw hm => ?_⟩⟩
  · exact ⟨_, mfs_reads hc hf, s.onlyResult_setG _ _ _, s.movesOn_setG _ _ _⟩
  · refine ⟨_, ?_, s.onlyPasses_advance 1, s.movesOn_self 1⟩
    rw [mts_writes hc hf ?_, State.writeSys_ignored _ hi]
    · rfl
    · rintro ⟨h, h'⟩; rw [h] at hcore; simp at hcore; omega
  · rw [mts_writes hc hf ?_, State.writeSys_reserved hi hr]
    · rfl
    · rintro ⟨h, h'⟩; rw [h] at hcore; simp at hcore; omega
  · obtain ⟨u, hx, hw, hp⟩ := mts_wrote hc hf hi hr hn
    have hnum : ∀ k : BitVec 12, n = k ↔ n.toNat = k.toNat := fun k => BitVec.toNat_inj.symm
    refine ⟨_, hx, ?_, fun k hk => by rw [State.sysr_advance, hw.other k hk], fun h30 => ?_, ?_, ?_, ?_, ?_, fun p => ?_, fun h100 => ?_⟩
    · rw [State.sysr_advance, hw.value, State.sysWritten]
      simp only [hnum]
      rfl
    · obtain ⟨hrep, hck⟩ := hp (by rw [h30]; rfl)
      rw [State.my_advance, Ctx.next_restart]
      exact ⟨hrep, hck⟩
    · exact fun r => by rw [State.my_advance, Ctx.getG_next, Ctx.getG_awake, hw.g]
    · exact fun r => by rw [State.my_advance, Ctx.getP_next, Ctx.getP_awake, hw.p]
    · exact fun r => by rw [State.my_advance, Ctx.getV_next, Ctx.getV_awake, hw.v]
    · exact fun r => by rw [State.my_advance, Ctx.getA_next, Ctx.getA_awake, hw.a]
    · rw [State.byteAt_advance, hw.bytes]
    · exact State.movesOn_of_pc (x := u.my) (by rw [State.my_advance]) hw.pc
        (hw.replay fun h => h100 ((hnum 0x100).mpr h))
  · have hp := privilege_sreg n.isLt
    have hc : ∀ w, sysCheck s.my.mon w n.toNat = .error (privilege 0 n.toNat) := fun w => by rw [hm, sysCheck_program w hn]
    constructor
    · rw [mfs_refused (hc false), hp]; rfl
    · rw [mts_refused (hc true), hp]; rfl
  · have hnone := sysAccess_unassigned hna
    constructor
    · rw [mfs_refused ((sysCheck_access false hlevel).trans (by rw [hnone]))]; rfl
    · rw [mts_refused ((sysCheck_access true hlevel).trans (by rw [hnone]))]; rfl
  · rw [mts_refused ((sysCheck_access true hlevel).trans (by rw [sysAccess_readOnly hro]; rfl)), privilege_sreg n.isLt]; rfl
  · rw [mts_refused ((sysCheck_access true hlevel).trans (by rw [sysAccess_monitorWrites hmw, hm]; rfl)), privilege_sreg n.isLt]; rfl

end Sys2Proof.Machine
end

section
/-! PROOF. Writes of system registers by the monitor's control path, and the configuration of reflex banks (R18, R22, R26, R34,
R287, R315-R317, R327, R372). -/

namespace Sys2Proof.Machine

open Sys2Proof

/-! ### Numbers in memory -/

theorem State.bytesAt_congr {s t : State} (h : s.sameBytes t) (p : Place) (n : Nat) : t.bytesAt p n = s.bytesAt p n := by
  induction n generalizing p with
  | zero => rfl
  | succ n ih => rw [State.bytesAt, State.bytesAt, h p, ih]

@[simp] theorem State.setByte_cur (s : State) (p : Place) (b : Byte) : (s.setByte p b).cur = s.cur := by cases p <;> rfl
@[simp] theorem State.setBytes_cur (s : State) (p : Place) (bs : List Byte) : (s.setBytes p bs).cur = s.cur := by
  induction bs generalizing s p with
  | nil => rfl
  | cons b bs ih => rw [State.setBytes, ih, State.setByte_cur]

theorem State.numAt_congr {s t : State} (h : s.sameBytes t) (p : Place) (n : Nat) : t.numAt p n = s.numAt p n := by
  rw [State.numAt, State.numAt, State.bytesAt_congr h]

theorem leNat_zeroes (n : Nat) : leNat (List.replicate n 0) = 0 := by
  induction n with
  | zero => rfl
  | succ n ih => rw [List.replicate_succ, leNat, ih]; rfl

/-- Bytes zeroed read as the number 0. -/
theorem State.numAt_zeroes (s : State) (p : Place) (n : Nat) : (s.setBytes p (List.replicate n 0)).numAt p n = 0 := by
  have h := s.bytesAt_setBytes p (List.replicate n 0)
  rw [List.length_replicate] at h
  rw [State.numAt, h, leNat_zeroes]

/-! ### Plain registers -/

/-- The monitor's control path reaches every assigned register that is not read-only (R26). -/
theorem sysCheck_monitor {n : Nat} {a : SysAccess} (h : sysAccess n = some a) (ha : a ≠ .ro) : sysCheck true true n = .ok () := by
  rw [sysCheck_access true (.inl rfl), h]
  cases a with
  | ro => exact absurd rfl ha
  | rw | tm | m => rfl

/-- A control write of a legal value to a register other than RELCFG puts it there, and changes no byte. -/
theorem State.controlWrite_wrote {s : State} {c n : Nat} {v : Word} (k : Nat) (hc : sysCheck true true n = .ok ())
    (hi : sysIgnored (Config.isReflex c) n = false) (hr : sysReserved n v = false) (hn : n < 0x190) (h32 : n ≠ 0x032)
    (h100 : n ≠ 0x100) : ((s.controlWrite c k n v).at c k).sysr n = v ∧ s.sameBytes (s.controlWrite c k n v) := by
  obtain ⟨u, hu, hw, -⟩ := State.writeSys_wrote (s := s.at c k) (n := n) (v := v) hi hr hn
  have he : s.controlWrite c k n v = { u with cur := s.cur } := by
    unfold State.controlWrite
    dsimp only
    rw [hc, hu]
  have hval : u.sysr n = v := by rw [hw.value, State.sysWritten, if_neg h32, if_neg h100]
  rw [he]
  refine ⟨?_, fun p => ?_⟩
  · have hcur := hw.cur
    unfold State.sysr State.my State.me at hval ⊢
    rw [hcur] at hval
    exact hval
  · exact ((State.byteAt_of_eq p).trans (hw.bytes p)).trans (s.byteAt_at c k p)

theorem State.sysr_at_ctx (s : State) (c k : Nat) {n : Nat} (h : sysIsCtx n = true) : (s.at c k).sysr n = (s.ctxAt c k).sysr n := by
  rw [State.sysr, if_pos h, State.my_at]
theorem State.sysr_at_core (s : State) (c k : Nat) {n : Nat} (h : sysIsCtx n = false) : (s.at c k).sysr n = (s.core c).sysr n := by
  rw [State.sysr, h, if_neg Bool.false_ne_true, State.me_at]

theorem State.event_on {s t : State} {b : Bool} (h : b = true) : s.event b t = .next t := by rw [State.event, if_pos h]
theorem State.event_off {s t : State} {b : Bool} (h : b = false) : s.event b t = .next s := by
  rw [State.event, h, if_neg Bool.false_ne_true]

/-- No register of a core numbered below 0x120, but those of tasks, is one that a kind of core ignores (R27, R37). -/
theorem sysIgnored_shared (reflex : Bool) {n : Nat} (h : 8 ≤ n) (h' : n < 0x180) : sysIgnored reflex n = false := by
  cases reflex <;> simp [sysIgnored] <;> omega
theorem sysIgnored_reflex {n : Nat} (h : 8 ≤ n) : sysIgnored true n = false := by simp [sysIgnored]; omega

theorem sysIsCtx_cap {n : Nat} (h : 0x120 ≤ n) (h' : n ≤ 0x12F) : sysIsCtx n = true := by simp [sysIsCtx]; omega
theorem sysIsCtx_core {n : Nat} (h : 0x12F < n) : sysIsCtx n = false := by simp [sysIsCtx]; omega
theorem sysIsCtx_shape {j : Nat} (h : j < 8) : sysIsCtx (0x020 + j) = false := by simp [sysIsCtx]; omega

/-- Access codes and legal values, by range of the map (R22, R26, R27, R287, R327). -/
theorem sysAccess_shape {j : Nat} (h : j < 8) : sysAccess (0x020 + j) = some .rw := by
  unfold sysAccess; rw [if_neg (by omega), if_neg (by omega), if_pos (by omega)]
theorem sysAccess_monitor {n : Nat} (h : 0x120 ≤ n) (h' : (n ≤ 0x12F ∧ n % 4 ≠ 3) ∨ (0x140 ≤ n ∧ n ≤ 0x147) ∨ (0x180 ≤ n ∧ n ≤ 0x193)) :
    sysAccess n = some .m := by
  unfold sysAccess; rw [if_neg (by omega), if_neg (by omega), if_neg (by omega), if_pos (by omega)]
theorem sysReserved_shape {j : Nat} (v : Word) (h : j < 8) : sysReserved (0x020 + j) v = (shapeOf v).isNone := by
  unfold sysReserved
  rw [if_neg (by omega), if_neg (by omega), if_neg (by omega), if_neg (by omega), if_neg (by omega), if_neg (by omega), if_pos (by omega)]

theorem sysReserved_monitor {n : Nat} (v : Word) (h : 0x130 ≤ n) : sysReserved n v =
    if 0x140 ≤ n ∧ n ≤ 0x147 then capReserved v
    else if 0x180 ≤ n ∧ n ≤ 0x187 then bits v 56 8 != 0 || bits v 0 12 != 0
    else if 0x188 ≤ n ∧ n ≤ 0x18F then seglimReserved v
    else if 0x190 ≤ n ∧ n ≤ 0x193 then relcfgReserved v
    else false := by
  unfold sysReserved
  rw [if_neg (by omega), if_neg (by omega), if_neg (by omega), if_neg (by omega), if_neg (by omega), if_neg (by omega), if_neg (by omega),
    if_neg (by omega), if_neg (by omega), if_neg (by omega), if_neg (by omega), if_neg (by omega), if_neg (by omega), if_neg (by omega),
    if_neg (by omega)]

/-! ### What switching firmware banks leaves (R376) -/

/-- A core whose firmware bank has been switched: EMUBASE and the marks of the switch apart, it is as it was. -/
structure CoreSt.Switched (c d : CoreSt) : Prop where
  ctx : ∀ k, ∃ b, d.ctx k = { c.ctx k with fwPending := b }
  sysr : ∀ n, n ≠ 0x110 → d.sysr n = c.sysr n
  mem : d.mem = c.mem
  tbuf : d.tbuf = c.tbuf

theorem CoreSt.Switched.trans {c d e : CoreSt} (h : c.Switched d) (h' : d.Switched e) : c.Switched e := by
  refine ⟨fun k => ?_, fun n hn => (h'.sysr n hn).trans (h.sysr n hn), h'.mem.trans h.mem, h'.tbuf.trans h.tbuf⟩
  obtain ⟨b, hb⟩ := h.ctx k
  obtain ⟨b', hb'⟩ := h'.ctx k
  exact ⟨b', by rw [hb', hb]⟩

/-- A machine some of whose cores have switched. -/
structure State.Switched (s t : State) : Prop where
  core : ∀ n, (s.core n).Switched (t.core n)
  bytes : s.sameBytes t

theorem CoreSt.Switched.rfl (c : CoreSt) : c.Switched c :=
  ⟨fun k => ⟨(c.ctx k).fwPending, Eq.refl _⟩, fun _ _ => Eq.refl _, Eq.refl _, Eq.refl _⟩
theorem State.Switched.rfl (s : State) : s.Switched s := ⟨fun _ => .rfl _, fun _ => Eq.refl _⟩
theorem State.Switched.trans {s t u : State} (h : s.Switched t) (h' : t.Switched u) : s.Switched u :=
  ⟨fun n => (h.core n).trans (h'.core n), h.bytes.trans h'.bytes⟩

theorem State.setCore_switched {s : State} {n : Nat} {c : CoreSt} (h : (s.core n).Switched c) : s.Switched (s.setCore n c) := by
  refine ⟨fun m => ?_, fun p => s.byteAt_setCore_own n c p h.mem h.tbuf⟩
  rw [State.core_setCore_if]
  split
  · next hm => rw [hm]; exact h
  · exact .rfl _

theorem CoreSt.setCtx_switched (c : CoreSt) (k : Nat) (b : Bool) : c.Switched (c.setCtx k { c.ctx k with fwPending := b }) := by
  refine ⟨fun j => ?_, fun _ _ => Eq.refl _, Eq.refl _, Eq.refl _⟩
  by_cases hj : j = k
  · subst hj; exact ⟨b, CoreSt.ctx_setCtx _ _ _⟩
  · rw [CoreSt.ctx_setCtx_ne _ _ hj]; exact (CoreSt.Switched.rfl c).ctx j

theorem State.fwSwitch_switched (s : State) (n k : Nat) : s.Switched (s.fwSwitch n k) := by
  unfold State.fwSwitch
  extract_lets c d c1 old d1 c2
  have h1 : c.Switched c1 := by
    unfold c1; split
    · exact c.setCtx_switched k false
    · exact .rfl c
  have h2 : c.Switched c2 := h1.trans (by
    unfold c2; split
    · exact ⟨(CoreSt.Switched.rfl c1).ctx, fun _ hn => CoreSt.sysr_setSysr_ne _ _ hn, Eq.refl _, Eq.refl _⟩
    · exact .rfl c1)
  clear_value c2
  split
  · exact .rfl s
  · split
    · exact State.setCore_switched h2
    · have h3 := State.setCore_switched (s := s) (n := n) (c := { c2 with fwPending := false })
        (h2.trans ⟨(CoreSt.Switched.rfl c2).ctx, fun _ _ => Eq.refl _, Eq.refl _, Eq.refl _⟩)
      exact ⟨h3.core, fun p => (State.byteAt_of_eq p).trans (h3.bytes p)⟩

theorem State.fwIdle_switched (s : State) (n : Nat) : s.Switched (s.fwIdle n) := by
  unfold State.fwIdle
  split
  · generalize (s.core n).banks _ = l
    induction l generalizing s with
    | nil => exact .rfl s
    | cons b l ih => exact (s.fwSwitch_switched n b).trans (ih _)
  · split
    · exact s.fwSwitch_switched n 0
    · exact .rfl s

/-! ### The configuration of a bank (R315-R317) -/

/-- The context of a bank that RELCFG configures with the value v, from its record's ENTRY and ARG at a chip time. -/
def Ctx.configured (x : Ctx) (v entry arg time : Word) : Ctx :=
  let y := ({ x with sys := [], isReleased := false, pend := false, tpend := 0, fired := false, run := .free } : Ctx).cleared.setSysr 0x100 0
  if v.getLsbD 63 then { y.begin entry arg false with run := .released, tcfg := time } else y

theorem Ctx.configured_off {x : Ctx} {v : Word} (h : v.getLsbD 63 = false) (entry arg time : Word) :
    (x.configured v entry arg time).isReleased = false ∧ (x.configured v entry arg time).run = .free := by
  unfold Ctx.configured
  rw [h]; exact ⟨rfl, rfl⟩

/-- An enabled bank sleeps at its entry with its argument, at task level (R317, R318). -/
theorem Ctx.configured_on {x : Ctx} {v : Word} (h : v.getLsbD 63 = true) (entry arg time : Word) :
    (x.configured v entry arg time).run = .released ∧ (x.configured v entry arg time).pc = entry ∧
      (x.configured v entry arg time).getG 1 = arg ∧ (∀ r, r ≠ 1 → (x.configured v entry arg time).getG r = 0) ∧
      (x.configured v entry arg time).mon = false ∧ (x.configured v entry arg time).sysr 0x030 = entry := by
  unfold Ctx.configured
  rw [h, if_pos rfl]
  refine ⟨rfl, rfl, ?_, fun r hr => ?_, ?_, ?_⟩
  · exact Ctx.getG_setG _ _ (by decide)
  · refine (Ctx.getG_setG_ne _ _ hr).trans ?_
    unfold Ctx.getG; split <;> rfl
  · change ((Ctx.setSysr (Ctx.setSysr _ 0x100 0) 0x030 entry).sysr 0x100).getLsbD 0 = false
    rw [Ctx.sysr_setSysr_ne _ _ (by decide), Ctx.sysr_setSysr]; rfl
  · exact Ctx.sysr_setSysr _ _ _

/-- The machine with what bank n of the issuing core has in flight owed to no register, and RELT0 to RELCNT of its record zeroed. -/
def State.bankReset (s : State) (n : Nat) : State :=
  { s with flight := s.flight.map (Flight.unregistered s.cur.core n), pubs := s.pubs.map (Flight.unregistered s.cur.core n) }.setBytes
    (.core s.cur.core (bankRecord n + 16)) (List.replicate 16 0)

/-- The issuing core with RELCFG of bank n at v. -/
def State.bankCore (s : State) (n : Nat) (v : Word) : CoreSt :=
  let c := { s.me.setSysr (0x190 + n) v with egu := s.me.egu.filter fun e => e.ctx != n }
  if v.getLsbD 63 then c.freshCode else c

/-- ENTRY and ARG of a bank's record (R315). -/
def State.bankWord (s : State) (core off : Nat) : Word := BitVec.ofNat 64 (s.numAt (.core core off) 8)

theorem State.configure_eq (s : State) (n : Nat) (v : Word) : s.configure n v =
    ((s.bankReset n).setMe (((s.bankReset n).bankCore n v).setCtx n
      ((((s.bankReset n).bankCore n v).ctx n).configured v (s.bankWord s.cur.core (bankRecord n))
        (s.bankWord s.cur.core (bankRecord n + 8)) (BitVec.ofNat 64 ((s.bankReset n).replica s.cur.core))))).fwIdle s.cur.core := by
  have h : ∀ off, s.bankWord s.cur.core off =
      ({ s with flight := s.flight.map (Flight.unregistered s.cur.core n), pubs := s.pubs.map (Flight.unregistered s.cur.core n) } :
        State).bankWord s.cur.core off := fun off =>
    congrArg (BitVec.ofNat 64) (State.numAt_congr (s := s) (fun p => State.byteAt_of_eq p) _ _).symm
  rw [h, h]
  rfl

theorem State.bankCore_frame (s : State) (n : Nat) (v : Word) : (s.bankCore n v).relcfg n = v ∧ (s.bankCore n v).mem = s.me.mem ∧
    (s.bankCore n v).tbuf = s.me.tbuf := by
  unfold State.bankCore
  dsimp only
  split <;> exact ⟨CoreSt.sysr_setSysr _ _ _, rfl, rfl⟩

/-- What the configuration of a bank leaves on its core. -/
theorem State.configure_spec (s : State) (n : Nat) (v : Word) :
    ((s.configure n v).core s.cur.core).relcfg n = v ∧
      (s.configure n v).numAt (.core s.cur.core (bankRecord n + 16)) 16 = 0 ∧
      ∃ x b time, (s.configure n v).ctxAt s.cur.core n = { Ctx.configured x v (s.bankWord s.cur.core (bankRecord n))
        (s.bankWord s.cur.core (bankRecord n + 8)) time with fwPending := b } := by
  rw [State.configure_eq]
  generalize (((s.bankReset n).bankCore n v).ctx n) = x
  generalize BitVec.ofNat 64 ((s.bankReset n).replica s.cur.core) = time
  generalize hy : x.configured v (s.bankWord s.cur.core (bankRecord n)) (s.bankWord s.cur.core (bankRecord n + 8)) time = y
  have hcur : (s.bankReset n).cur = s.cur := State.setBytes_cur _ _ _
  obtain ⟨hrel, hmem, htbuf⟩ := (s.bankReset n).bankCore_frame n v
  obtain ⟨hcore, hbytes⟩ := ((s.bankReset n).setMe (((s.bankReset n).bankCore n v).setCtx n y)).fwIdle_switched s.cur.core
  have hme : ((s.bankReset n).setMe (((s.bankReset n).bankCore n v).setCtx n y)).core s.cur.core =
      ((s.bankReset n).bankCore n v).setCtx n y := by rw [State.setMe, hcur, State.core_setCore]
  obtain ⟨hctx, hsys, -, -⟩ := hcore s.cur.core
  rw [hme] at hctx hsys
  refine ⟨(hsys _ (by omega)).trans hrel, ?_, ?_⟩
  · rw [State.numAt_congr hbytes, State.numAt_congr fun p => State.byteAt_setMe_own (s.bankReset n) (CoreSt.setCtx _ n y) p hmem htbuf]
    exact State.numAt_zeroes _ _ 16
  · obtain ⟨b, hb⟩ := hctx n
    rw [CoreSt.ctx_setCtx] at hb
    refine ⟨x, b, time, ?_⟩
    rw [hy]
    exact hb

/-- A target that may be reached passes the checks of R83. -/
theorem targetStop_legal {t : Word} (h : legalTarget t = true) : targetStop t = none := by
  simp only [legalTarget, Bool.and_eq_true, decide_eq_true_eq] at h
  unfold targetStop bits
  rw [if_neg (by omega), if_neg (by omega)]

/-- A legal write of RELCFG by the control path configures its bank (R317). -/
theorem State.controlWrite_relcfg {s : State} {c n : Nat} {v : Word} (hc : Config.isReflex c = true) (hn : n < 4)
    (hr : relcfgReserved v = false) (hp : s.scPending c n = false)
    (he : v.getLsbD 63 = true → legalTarget (s.bankWord c (bankRecord n)) = true) :
    s.controlWrite c 0 (0x190 + n) v = { (s.at c 0).configure n v with cur := s.cur } := by
  have hres : sysReserved (0x190 + n) v = false := by
    rw [sysReserved_monitor v (by omega), if_neg (by omega), if_neg (by omega), if_neg (by omega), if_pos (by omega), hr]
  have hentry : ¬(v.getLsbD 63 = true ∧ (s.at c 0).entryBad (0x190 + n - 0x190) = true) := by
    rintro ⟨hv, hbad⟩
    rw [Nat.add_sub_cancel_left, State.entryBad] at hbad
    have hnone := targetStop_legal (he hv)
    unfold State.bankWord at hnone
    rw [show (s.at c 0).numAt (.core (s.at c 0).cur.core (bankRecord n)) 8 = s.numAt (.core c (bankRecord n)) 8 from
      State.numAt_congr (fun p => s.byteAt_at c 0 p) _ _, hnone] at hbad
    cases hbad
  have hw : (s.at c 0).writeSys (0x190 + n) v = .ok ((s.at c 0).configure n v) := by
    unfold State.writeSys
    rw [show (s.at c 0).reflex = true from hc, sysIgnored_reflex (by omega), hres, if_neg Bool.false_ne_true, if_neg Bool.false_ne_true,
      if_pos (by omega), if_neg hentry, Nat.add_sub_cancel_left]
    exact if_neg (by rw [show (s.at c 0).scPending (s.at c 0).cur.core n = s.scPending c n from rfl, hp]; exact Bool.false_ne_true)
  unfold State.controlWrite
  dsimp only
  rw [sysCheck_monitor (sysAccess_monitor (by omega) (by omega)) (by decide), hw]

/-- The control path puts a legal value into a register of a context or of a core. -/
theorem State.controlWrite_register {s : State} {c k n : Nat} {v : Word} {b : Bool} {i : Instr}
    (hx : exec i s = s.event b (s.controlWrite c k n v)) (hb : b = true) (hc : sysCheck true true n = .ok ())
    (hi : sysIgnored (Config.isReflex c) n = false) (hr : sysReserved n v = false) (hn : n < 0x190) (h32 : n ≠ 0x032)
    (h100 : n ≠ 0x100) : ∃ t, exec i s = .next t ∧ (t.at c k).sysr n = v ∧ s.sameBytes t :=
  ⟨_, hx.trans (State.event_on hb), State.controlWrite_wrote k hc hi hr hn h32 h100⟩

/-- The event of RELCFG, where it is enabled (R317, R372). -/
theorem relcfgWrite_configures {s : State} {c n : Nat} {v : Word} (hc : Config.isReflex c = true) (hn : n < 4)
    (hr : relcfgReserved v = false) (hp : s.scPending c n = false)
    (he : v.getLsbD 63 = true → legalTarget (s.bankWord c (bankRecord n)) = true) (hen : (!v.getLsbD 63 || s.rassigned c) = true) :
    ∃ t, exec (.relcfgWrite c n v) s = .next t ∧ (t.core c).relcfg n = v ∧ t.numAt (.core c (bankRecord n + 16)) 16 = 0 ∧
      ∃ x b time, t.ctxAt c n = { Ctx.configured x v (s.bankWord c (bankRecord n)) (s.bankWord c (bankRecord n + 8)) time with
        fwPending := b } := by
  have hx : exec (.relcfgWrite c n v) s =
      s.event (decide (n < 4) && (!v.getLsbD 63 || s.rassigned c)) (s.controlWrite c 0 (0x190 + n) v) := rfl
  have hword : ∀ off, (s.at c 0).bankWord c off = s.bankWord c off := fun off =>
    congrArg (BitVec.ofNat 64) (State.numAt_congr (fun p => s.byteAt_at c 0 p) _ _)
  obtain ⟨hrel, hzero, hctx⟩ := (s.at c 0).configure_spec n v
  have hcur : (s.at c 0).cur.core = c := rfl
  rw [hcur] at hrel hzero hctx
  rw [hword, hword] at hctx
  refine ⟨{ (s.at c 0).configure n v with cur := s.cur }, ?_, hrel, (State.numAt_congr (fun p => State.byteAt_of_eq p) _ _).trans hzero, hctx⟩
  rw [hx, State.event_on (by rw [hen, decide_eq_true hn]; rfl), State.controlWrite_relcfg hc hn hr hp he]

/-- Settles O47: every register through the one checked write of the control path, RELCFG through the configuration of its bank. -/
theorem controlWrites : Obligations.ControlWrites := by
  refine ⟨fun s c k n w v => ⟨fun hr => ?_, fun hn hv => ?_, fun hn hw hr => ?_, fun hn hr => ?_, fun hn hc hr => ?_,
    fun hn hc hr => ?_, fun hc hi hr hn h30 h32 h100 => ?_⟩, fun s c n v hc hn hr hp => ⟨fun hv => ?_, fun hv ha he => ?_, fun hv ha => ?_⟩⟩
  · obtain ⟨hval, hb⟩ := State.controlWrite_wrote (s := s) (c := c) (v := v) k (sysCheck_monitor (n := 0x030) rfl (by decide))
      (sysIgnored_shared _ (by decide) (by decide)) hr (by decide) (by decide) (by decide)
    exact ⟨_, rfl, by rwa [State.sysr_at_ctx _ _ _ rfl] at hval, hb⟩
  · obtain ⟨t, hx, hval, hb⟩ := State.controlWrite_register (s := s) (i := .tshapeWrite c n v) rfl (decide_eq_true hn)
      (sysCheck_monitor (sysAccess_shape hn) (by decide)) (sysIgnored_shared _ (by omega) (by omega))
      (by rw [sysReserved_shape v hn, Option.isNone_eq_false_iff, hv]) (by omega) (by omega) (by omega)
    exact ⟨t, hx, by rwa [State.sysr_at_core _ _ _ (sysIsCtx_shape hn)] at hval, hb⟩
  · obtain ⟨t, hx, hval, hb⟩ := State.controlWrite_register (s := s) (i := .capWordWrite c k n w v) rfl
      (by simp [hn, hw]) (sysCheck_monitor (sysAccess_monitor (by omega) (by omega)) (by decide))
      (sysIgnored_shared _ (by omega) (by omega)) hr (by omega) (by omega) (by omega)
    exact ⟨t, hx, by rwa [State.sysr_at_ctx _ _ _ (sysIsCtx_cap (by omega) (by omega))] at hval, hb⟩
  · obtain ⟨t, hx, hval, hb⟩ := State.controlWrite_register (s := s) (i := .capaccWrite c n v) rfl (decide_eq_true hn)
      (sysCheck_monitor (sysAccess_monitor (by omega) (by omega)) (by decide)) (sysIgnored_shared _ (by omega) (by omega))
      (by rw [sysReserved_monitor v (by omega), if_pos (by omega), hr]) (by omega) (by omega) (by omega)
    exact ⟨t, hx, by rwa [State.sysr_at_core _ _ _ (sysIsCtx_core (by omega))] at hval, hb⟩
  · obtain ⟨t, hx, hval, hb⟩ := State.controlWrite_register (s := s) (i := .segbaseWrite c n v) rfl (decide_eq_true hn)
      (sysCheck_monitor (sysAccess_monitor (by omega) (by omega)) (by decide)) (by rw [hc]; exact sysIgnored_reflex (by omega)) hr
      (by omega) (by omega) (by omega)
    exact ⟨t, hx, by rwa [State.sysr_at_core _ _ _ (sysIsCtx_core (by omega))] at hval, hb⟩
  · obtain ⟨t, hx, hval, hb⟩ := State.controlWrite_register (s := s) (i := .seglimWrite c n v) rfl (decide_eq_true hn)
      (sysCheck_monitor (sysAccess_monitor (by omega) (by omega)) (by decide)) (by rw [hc]; exact sysIgnored_reflex (by omega))
      (by rw [sysReserved_monitor v (by omega), if_neg (by omega), if_neg (by omega), if_pos (by omega), hr]) (by omega) (by omega)
      (by omega)
    exact ⟨t, hx, by rwa [State.sysr_at_core _ _ _ (sysIsCtx_core (by omega))] at hval, hb⟩
  · refine State.controlWrite_register (s := s) (i := .sysregWrite c k n v) rfl ?_ hc hi hr hn h32 h100
    rw [show (n / 4 != 0x64) = true from bne_iff_ne.mpr (by omega)]; rfl
  · obtain ⟨t, hx, hrel, -, x, b, time, hctx⟩ := relcfgWrite_configures hc hn hr hp (fun h => by rw [hv] at h; cases h) (by rw [hv]; rfl)
    obtain ⟨hoff, hrun⟩ := Ctx.configured_off (x := x) hv (s.bankWord c (bankRecord n)) (s.bankWord c (bankRecord n + 8)) time
    exact ⟨t, hx, hrel, (congrArg Ctx.isReleased hctx).trans hoff, (congrArg Ctx.run hctx).trans hrun⟩
  · obtain ⟨t, hx, hrel, hzero, x, b, time, hctx⟩ := relcfgWrite_configures hc hn hr hp (fun _ => he) (by rw [ha, Bool.or_true])
    obtain ⟨hrun, hpc, hg1, hg, hmon, hpoint⟩ :=
      Ctx.configured_on (x := x) hv (s.bankWord c (bankRecord n)) (s.bankWord c (bankRecord n + 8)) time
    exact ⟨t, hx, hrel, (congrArg Ctx.run hctx).trans hrun, (congrArg Ctx.pc hctx).trans hpc, (congrArg (Ctx.getG · 1) hctx).trans hg1,
      fun r hr => (congrArg (Ctx.getG · r) hctx).trans (hg r hr), (congrArg Ctx.mon hctx).trans hmon,
      (congrArg (Ctx.sysr · 0x030) hctx).trans hpoint, hzero⟩
  · exact State.event_off (by rw [hv, ha]; exact Bool.and_false _)

end Sys2Proof.Machine
end

section
/-! PROOF. Addresses: what the checks of one access answer in each space, what a walk answers, and what the segments of a reflex
core answer (R17, R120, R121, R141, R277, R278, R287, R288). -/

namespace Sys2Proof.Machine

open Sys2Proof

/-! ### Checks of one item -/

theorem firstBad_one {α : Type} (a : α) (bad : α → Option Stop) : firstBad [a] bad = match bad a with
    | some e => .error e
    | none => .ok () := by
  unfold firstBad
  rw [List.findSome?_cons]
  cases bad a <;> rfl

theorem firstBad_if {α : Type} {c : α → Prop} [DecidablePred c] (a : α) (e : α → Stop) :
    (firstBad [a] fun i => if c i then some (e i) else none) = if c a then .error (e a) else .ok () := by
  rw [firstBad_one]
  by_cases h : c a <;> simp [h]

/-- A check that stops a body where its condition holds. -/
theorem stop_bind {β : Type} {c : Prop} [Decidable c] {e : Stop} {f : Unit → Except Stop β} :
    ((if c then .error e else .ok ()) >>= f) = if c then .error e else f () := by split <;> rfl

/-- The one piece of an access of n bytes. -/
def accItem (va : Word) (n : Nat) : Item := ⟨0, va, va, n, n⟩

/-- The trap of an access of one piece (R121, R335). -/
def accTrap (code : BitVec 8) (va : Word) (inf : AddrInfo) : Stop := .trap code va ({ inf with lane := 0 } : AddrInfo).word

theorem misaligned_iff {n a : Nat} (hn : 0 < n) : (n = 0 ∨ a % n ≠ 0) ↔ a % n ≠ 0 :=
  ⟨fun h => h.resolve_left (by omega), .inr⟩

/-! ### Core-local accesses and pointers (R17, R120) -/

theorem State.check_loc (s : State) (acc : Acc) (inf : AddrInfo) (va : Word) {n : Nat} (hn : 0 < n) :
    s.check .loc acc inf (oneItem va n) =
      if memSize s.cur.core < va.toNat + n then .error (accTrap 0x09 va { inf with space := 1 })
      else if va.toNat % n ≠ 0 then .error (accTrap 0x08 va { inf with space := 1 })
      else .ok ([⟨accItem va n, some (.core s.cur.core va.toNat), 0⟩], s) := by
  change s.checkLocal inf [accItem va n] = _
  unfold State.checkLocal
  simp only [firstBad_if, stop_bind, accItem, misaligned_iff hn]
  rfl

theorem State.check_dist (s : State) (acc : Acc) (inf : AddrInfo) (va : Word) {n : Nat} (hn : 0 < n) (hr : s.reflex = false) :
    s.check .dist acc inf (oneItem va n) =
      if ¬ptrOk s.rect va n then .error (accTrap 0x09 va { inf with space := 2 })
      else if ptrOff va % n ≠ 0 then .error (accTrap 0x08 va { inf with space := 2 })
      else if !s.me.xph && s.namedCore va != s.cur.core then .error (accTrap 0x0A va { inf with space := 2 })
      else .ok ([⟨accItem va n, some (.core (s.namedCore va) (ptrOff va)), 0⟩], s) := by
  change s.checkDist inf [accItem va n] = _
  unfold State.checkDist
  simp only [firstBad_if, stop_bind, accItem, misaligned_iff hn, hr, Bool.false_eq_true, false_or, Bool.not_false, Bool.true_and]
  rfl

/-! ### Global accesses of a reasoning core (R121, R141, R278) -/

/-- What the translation of one piece stops with (R121, R283). -/
def State.xlateStop (s : State) (i : Item) (inf : AddrInfo) : Xlate → Option Stop
  | .refused k => some (i.trap cProtection { inf with pkind := k })
  | .invalid | .noRoot => some (i.trap cLoadFault inf)
  | .malformed => some (i.trap cLoadFault { inf with malformed := true })
  | .absent => if s.declaredInvalid i then some (i.trap cLoadFault inf) else none
  | .skewed => some (.hold none)
  | .place p _ => if s.homeSkewed p.addr then some (.hold none) else none

theorem State.checkGlobal_one (s : State) (acc : Acc) (inf : AddrInfo) (va : Word) {n : Nat} (hn : 0 < n) :
    s.checkGlobal acc inf [accItem va n] =
      if 2 ^ 56 < va.toNat + n then .error (accTrap 0x09 va inf)
      else if va.toNat % n ≠ 0 then .error (accTrap 0x08 va inf)
      else match s.xlateStop (accItem va n) inf (s.xlateCore acc va.toNat).1 with
        | some e => .error e
        | none => .ok (locsOf [(accItem va n, (s.xlateCore acc va.toNat).1)], (s.xlateCore acc va.toNat).2) := by
  unfold State.checkGlobal
  simp only [firstBad_if, stop_bind, accItem, misaligned_iff hn]
  split
  · rfl
  split
  · rfl
  simp only [State.xlateAll]
  generalize s.xlateCore acc va.toNat = x
  obtain ⟨x, t⟩ := x
  simp only [firstBad_one]
  cases x with
  | refused k => rfl
  | invalid => rfl
  | noRoot => rfl
  | malformed => rfl
  | skewed => rfl
  | absent =>
    dsimp only [State.xlateStop]
    split <;> rfl
  | place p e =>
    dsimp only [State.xlateStop]
    split <;> rfl

theorem State.check_glob (s : State) (acc : Acc) (inf : AddrInfo) (va : Word) (n : Nat) (hr : s.reflex = false) :
    s.check .glob acc inf (oneItem va n) = s.checkGlobal acc inf [accItem va n] >>= fun r =>
      r.2.clearOfLog r.1 >>= fun _ => .ok r := by
  unfold State.check
  rw [hr]
  rfl

theorem State.clearOfLog_absent (t : State) (i : Item) (e : Nat) : t.clearOfLog [⟨i, none, e⟩] = .ok () := by
  unfold State.clearOfLog
  rw [if_neg]
  simp

theorem State.clearOfLog_clear {t : State} {i : Item} (p : Option Place) (e : Nat) (h : ∀ g ∈ t.me.slog, g.holds i.va.toNat i.n = false) :
    t.clearOfLog [⟨i, p, e⟩] = .ok () := by
  unfold State.clearOfLog
  rw [if_neg]
  simp only [List.any_eq_true, Bool.and_eq_true, List.any_cons, List.any_nil, Bool.or_false, not_exists, not_and]
  intro g hg _ _
  rw [h g hg]
  exact Bool.false_ne_true

/-- A global access whose address is in range and aligned ends as its translation does. -/
theorem State.check_glob_stop {s : State} {acc : Acc} {inf : AddrInfo} {va : Word} {n : Nat} {e : Stop} (hn : 0 < n)
    (hr : s.reflex = false) (h56 : va.toNat + n ≤ 2 ^ 56) (hal : va.toNat % n = 0)
    (h : s.xlateStop (accItem va n) inf (s.xlateCore acc va.toNat).1 = some e) :
    s.check .glob acc inf (oneItem va n) = .error e := by
  rw [State.check_glob _ _ _ _ _ hr, State.checkGlobal_one _ _ _ _ hn, if_neg (by omega), if_neg (by omega), h]
  rfl

theorem State.check_glob_pass {s : State} {acc : Acc} {inf : AddrInfo} {va : Word} {n : Nat} {p : Option Place} {e : Nat} (hn : 0 < n)
    (hr : s.reflex = false) (h56 : va.toNat + n ≤ 2 ^ 56) (hal : va.toNat % n = 0)
    (h : s.xlateStop (accItem va n) inf (s.xlateCore acc va.toNat).1 = none)
    (hl : locsOf [(accItem va n, (s.xlateCore acc va.toNat).1)] = [⟨accItem va n, p, e⟩])
    (hc : (s.xlateCore acc va.toNat).2.clearOfLog [⟨accItem va n, p, e⟩] = .ok ()) :
    s.check .glob acc inf (oneItem va n) = .ok ([⟨accItem va n, p, e⟩], (s.xlateCore acc va.toNat).2) := by
  rw [State.check_glob _ _ _ _ _ hr, State.checkGlobal_one _ _ _ _ hn, if_neg (by omega), if_neg (by omega), h, hl]
  change (State.clearOfLog _ _ >>= fun _ => _) = _
  rw [hc]
  rfl

/-! ### Walks (R277, R278) -/

/-- The permissions that an access needs of a leaf or a segment (R278, R288). -/
theorem granted_iff (acc : Acc) (r w x : Bool) : acc.granted r w x = true ↔ match acc with
    | .load => r = true
    | .store => w = true
    | .rmw => r = true ∧ w = true
    | .fetch => x = true
    | .hint => True := by
  cases acc <;> simp [Acc.granted]

/-- What a leaf refuses, in the order of R278. -/
theorem Leaf.refusal_eq (l : Leaf) (who : Asker) (acc : Acc) : l.refusal who acc =
    if bits l.w0 9 3 ≠ who.vf then some 2
    else if ¬∀ c, who.cluster = some c → l.w1.getLsbD c = true then some 3
    else if ¬acc.granted (l.w0.getLsbD 4) (l.w0.getLsbD 5) (l.w0.getLsbD 6) = true then some 1 else none := by
  unfold Leaf.refusal
  cases hc : who.cluster with
  | none => simp
  | some c => simp

theorem State.xlateWalk_leaf {s : State} {who : Asker} {va : Nat} {l : Leaf} (acc : Acc) (h : s.walk who.vf va = .leaf l) :
    (∀ k, l.refusal who acc = some k → (s.xlateWalk who acc va).2.1 = .refused k) ∧
      (l.refusal who acc = none →
        ∃ e, (s.xlateWalk who acc va).2.1 = .place (placeOf (leafFrame (l.marked acc) + va % 2 ^ l.log2)) e) := by
  unfold State.xlateWalk
  rw [h]
  dsimp only
  refine ⟨fun k hk => by rw [hk], fun hk => ⟨((l.entry acc va s.now).copyFor who.lcap).expiry, ?_⟩⟩
  rw [hk]
  have hoff : va - va / 2 ^ l.log2 * 2 ^ l.log2 = va % 2 ^ l.log2 := by
    rw [Nat.mod_def, Nat.mul_comm]
  exact congrArg (fun o => Xlate.place (placeOf (leafFrame (l.marked acc) + o)) _) hoff

theorem State.xlateWalk_none {s : State} {who : Asker} {acc : Acc} {va : Nat} :
    (s.walk who.vf va = .absent → (s.xlateWalk who acc va).2.1 = .absent) ∧
      (s.walk who.vf va = .invalid → (s.xlateWalk who acc va).2.1 = .invalid) ∧
      (s.walk who.vf va = .malformed → (s.xlateWalk who acc va).2.1 = .malformed) ∧
      (s.walk who.vf va = .noRoot → (s.xlateWalk who acc va).2.1 = .noRoot) := by
  unfold State.xlateWalk
  refine ⟨fun h => ?_, fun h => ?_, fun h => ?_, fun h => ?_⟩ <;> rw [h]

/-! ### Segments (R287, R288) -/

/-- Segment k of a core holds an address. -/
def CoreSt.segmentHolds (c : CoreSt) (k a : Nat) : Prop :=
  (c.sysr (0x188 + k)).getLsbD 63 = true ∧ 4096 * bits (c.sysr (0x180 + k)) 12 44 ≤ a ∧
    a < 4096 * bits (c.sysr (0x180 + k)) 12 44 + 4096 * bits (c.sysr (0x188 + k)) 12 13

theorem segHolds_iff (c : CoreSt) (k a : Nat) :
    segHolds (c.sysr (0x180 + k)) (c.sysr (0x188 + k)) a = true ↔ c.segmentHolds k a := by
  unfold segHolds CoreSt.segmentHolds
  simp only [Bool.and_eq_true, decide_eq_true_eq, and_assoc]
  rw [Nat.add_mul, Nat.mul_comm 4096, Nat.mul_comm 4096]

theorem CoreSt.segment_eq_none {c : CoreSt} {a : Nat} : c.segment a = none ↔ ∀ k < 8, ¬c.segmentHolds k a := by
  simp only [CoreSt.segment, List.find?_eq_none, List.mem_range, segHolds_iff]

/-- The segment that translates is the lowest one that holds the address. -/
theorem CoreSt.segment_eq_some {c : CoreSt} {a k : Nat} :
    c.segment a = some k ↔ k < 8 ∧ c.segmentHolds k a ∧ ∀ j < k, ¬c.segmentHolds j a := by
  simp only [CoreSt.segment, List.find?_range_eq_some, segHolds_iff, List.mem_range, Bool.not_eq_true', ← Bool.not_eq_true]
  tauto

/-- The offset in its target that segment k gives an address, and the target's size. -/
def CoreSt.segmentOff (c : CoreSt) (k a : Nat) : Nat :=
  4096 * bits (c.sysr (0x188 + k)) 25 13 + (a - 4096 * bits (c.sysr (0x180 + k)) 12 44)
def CoreSt.segmentSize (c : CoreSt) (k : Nat) : Nat := if bits (c.sysr (0x188 + k)) 61 2 = 0 then 0x1D00000 else 0x18000

theorem State.segXlate_outside {s : State} {acc : Acc} {a n : Nat} (h : s.me.segment a = none) : s.segXlate acc a n = .illegal := by
  unfold State.segXlate
  dsimp only
  rw [h]

/-- What the segment that holds the first byte of an access answers. -/
theorem State.segXlate_inside {s : State} {acc : Acc} {a n k : Nat} (h : s.me.segment a = some k) : s.segXlate acc a n =
    if s.me.segment (a + n - 1) ≠ some k then .illegal
    else if s.me.segmentSize k < s.me.segmentOff k a + n then .illegal
    else if ¬acc.granted ((s.me.sysr (0x188 + k)).getLsbD 51) ((s.me.sysr (0x188 + k)).getLsbD 52) ((s.me.sysr (0x188 + k)).getLsbD 53) = true
      then .refused 4
    else if bits (s.me.sysr (0x188 + k)) 61 2 ≠ 0 ∧ (s.core (bits (s.me.sysr (0x188 + k)) 54 7)).vf ≠ s.me.vf then .refused 2
    else .place (if bits (s.me.sysr (0x188 + k)) 61 2 = 0 then .sram (s.me.segmentOff k a)
      else .core (bits (s.me.sysr (0x188 + k)) 54 7) (s.me.segmentOff k a)) := by
  unfold State.segXlate CoreSt.segmentOff CoreSt.segmentSize
  dsimp only
  rw [h]
  simp only [bne_iff_ne, ne_eq, Bool.not_eq_true', Bool.not_eq_true, Nat.mul_comm 4096]

/-- What the segment answers of an access that lies inside it and inside its target. -/
theorem State.segXlate_whole {s : State} {acc : Acc} {a n k : Nat} (h : s.me.segment a = some k) (hend : s.me.segment (a + n - 1) = some k)
    (hfit : s.me.segmentOff k a + n ≤ s.me.segmentSize k) : s.segXlate acc a n =
    if ¬acc.granted ((s.me.sysr (0x188 + k)).getLsbD 51) ((s.me.sysr (0x188 + k)).getLsbD 52) ((s.me.sysr (0x188 + k)).getLsbD 53) = true
      then .refused 4
    else if bits (s.me.sysr (0x188 + k)) 61 2 ≠ 0 ∧ (s.core (bits (s.me.sysr (0x188 + k)) 54 7)).vf ≠ s.me.vf then .refused 2
    else .place (if bits (s.me.sysr (0x188 + k)) 61 2 = 0 then .sram (s.me.segmentOff k a)
      else .core (bits (s.me.sysr (0x188 + k)) 54 7) (s.me.segmentOff k a)) := by
  rw [State.segXlate_inside h, if_neg (not_not.mpr hend), if_neg (not_lt.mpr hfit)]

theorem State.check_segments (s : State) (acc : Acc) (inf : AddrInfo) (va : Word) {n : Nat} (hn : 0 < n) (hr : s.reflex = true)
    (h56 : va.toNat + n ≤ 2 ^ 56) :
    s.check .glob acc inf (oneItem va n) =
      if s.segXlate acc va.toNat n = .illegal then .error (accTrap 0x09 va inf)
      else if va.toNat % n ≠ 0 then .error (accTrap 0x08 va inf)
      else match s.segXlate acc va.toNat n with
        | .refused k => .error (accTrap 0x07 va { inf with pkind := k })
        | .place p => .ok ([⟨accItem va n, some p, 0⟩], s)
        | .illegal => .ok ([⟨accItem va n, none, 0⟩], s) := by
  unfold State.check
  rw [hr]
  change s.checkSegments acc inf [accItem va n] = _
  unfold State.checkSegments
  simp only [accItem, misaligned_iff hn, not_lt.mpr h56, ne_eq, not_true, or_false, false_or, firstBad_one, List.map_cons,
    List.map_nil]
  cases s.segXlate acc va.toNat n with
  | illegal => rfl
  | refused k =>
    by_cases hal : va.toNat % n = 0 <;> simp only [hal, reduceCtorEq, not_true, not_false_eq_true, if_true, if_false] <;> rfl
  | place p =>
    by_cases hal : va.toNat % n = 0 <;> simp only [hal, reduceCtorEq, not_true, not_false_eq_true, if_true, if_false] <;> rfl

/-! ### The checks of one access, space by space -/

/-- A core-local access (R120, R121). -/
theorem local_checked (s : State) (acc : Acc) (inf : AddrInfo) (va : Word) {n : Nat} (hn : 0 < n) :
    (va.toNat + n ≤ memSize s.cur.core → va.toNat % n = 0 → s.reach .loc acc inf va n (.core s.cur.core va.toNat) s) ∧
    (memSize s.cur.core < va.toNat + n → s.check .loc acc inf (oneItem va n) = .error (accTrap 0x09 va { inf with space := 1 })) ∧
    (va.toNat + n ≤ memSize s.cur.core → va.toNat % n ≠ 0 →
      s.check .loc acc inf (oneItem va n) = .error (accTrap 0x08 va { inf with space := 1 })) := by
  unfold State.reach
  rw [s.check_loc acc inf va hn]
  refine ⟨fun hin hal => ⟨0, ?_⟩, fun hout => if_pos hout, fun hin hal => ?_⟩
  · rw [if_neg (not_lt.mpr hin), if_neg (not_not.mpr hal)]
    rfl
  · rw [if_neg (not_lt.mpr hin), if_pos hal]

/-- An access through a pointer (R17, R121). -/
theorem pointer_checked (s : State) (acc : Acc) (inf : AddrInfo) (va : Word) {n : Nat} (hn : 0 < n) (hr : s.reflex = false) :
    (ptrOk s.rect va n = true → ptrOff va % n = 0 → (s.me.xph = true ∨ s.namedCore va = s.cur.core) →
      s.reach .dist acc inf va n (.core (s.namedCore va) (ptrOff va)) s) ∧
    (ptrOk s.rect va n = false → s.check .dist acc inf (oneItem va n) = .error (accTrap 0x09 va { inf with space := 2 })) ∧
    (ptrOk s.rect va n = true → ptrOff va % n ≠ 0 →
      s.check .dist acc inf (oneItem va n) = .error (accTrap 0x08 va { inf with space := 2 })) ∧
    (ptrOk s.rect va n = true → ptrOff va % n = 0 → s.me.xph = false → s.namedCore va ≠ s.cur.core →
      s.check .dist acc inf (oneItem va n) = .error (accTrap 0x0A va { inf with space := 2 })) := by
  unfold State.reach
  rw [s.check_dist acc inf va hn hr]
  refine ⟨fun hok hal hc => ⟨0, ?_⟩, fun hok => if_pos (by rw [hok]; exact Bool.false_ne_true), fun hok hal => ?_, fun hok hal hx hc => ?_⟩
  · have hreach : ¬((!s.me.xph && s.namedCore va != s.cur.core) = true) := by
      rcases hc with hc | hc <;> simp [hc]
    rw [if_neg (not_not.mpr hok), if_neg (not_not.mpr hal), if_neg hreach]
    rfl
  · rw [if_neg (not_not.mpr hok), if_pos hal]
  · rw [if_neg (not_not.mpr hok), if_neg (not_not.mpr hal), if_pos (by simp [hx, hc])]

/-- A global access of a reasoning core, in range and aligned, ends as its translation does (R121, R141, R278). -/
theorem translation_checked {s : State} {acc : Acc} {inf : AddrInfo} {va : Word} {n : Nat} (hn : 0 < n) (hr : s.reflex = false)
    (h56 : va.toNat + n ≤ 2 ^ 56) (hal : va.toNat % n = 0) {x : Xlate} (hx : (s.xlateCore acc va.toNat).1 = x) :
    (∀ k, x = .refused k → s.check .glob acc inf (oneItem va n) = .error (accTrap 0x07 va { inf with pkind := k })) ∧
    (x = .invalid ∨ x = .noRoot → s.check .glob acc inf (oneItem va n) = .error (accTrap 0x06 va inf)) ∧
    (x = .malformed → s.check .glob acc inf (oneItem va n) = .error (accTrap 0x06 va { inf with malformed := true })) ∧
    (x = .absent → s.my.invalidAt = some (va.toNat / 65536 * 65536) →
      s.check .glob acc inf (oneItem va n) = .error (accTrap 0x06 va inf)) ∧
    (x = .absent → s.my.invalidAt ≠ some (va.toNat / 65536 * 65536) →
      s.check .glob acc inf (oneItem va n) = .ok ([⟨accItem va n, none, 0⟩], (s.xlateCore acc va.toNat).2)) ∧
    (∀ p e, x = .place p e → s.homeSkewed p.addr = false → (∀ g ∈ (s.xlateCore acc va.toNat).2.me.slog, g.holds va.toNat n = false) →
      s.check .glob acc inf (oneItem va n) = .ok ([⟨accItem va n, some p, e⟩], (s.xlateCore acc va.toNat).2)) := by
  have hstop : ∀ {e}, s.xlateStop (accItem va n) inf x = some e → s.check .glob acc inf (oneItem va n) = .error e := by
    intro e h
    exact State.check_glob_stop hn hr h56 hal (by rw [hx, h])
  refine ⟨fun k h => hstop ?_, fun h => hstop ?_, fun h => hstop ?_, fun h hd => hstop ?_, fun h hd => ?_, fun p e h hs hl => ?_⟩
  · rw [h]
    rfl
  · rcases h with h | h <;> rw [h] <;> rfl
  · rw [h]
    rfl
  · rw [h]
    exact if_pos (by unfold State.declaredInvalid; rw [hd]; exact beq_self_eq_true _)
  · refine State.check_glob_pass hn hr h56 hal ?_ (by rw [hx, h]; rfl) (State.clearOfLog_absent _ _ _)
    rw [hx, h]
    exact if_neg (by unfold State.declaredInvalid; exact fun h => hd (beq_iff_eq.mp h))
  · refine State.check_glob_pass hn hr h56 hal ?_ (by rw [hx, h]; rfl) (State.clearOfLog_clear _ _ hl)
    rw [hx, h]
    exact if_neg (by rw [hs]; exact Bool.false_ne_true)

/-- An access of a reflex core through the lowest segment that holds its first byte (R287, R288). -/
theorem segment_checked {s : State} {acc : Acc} {inf : AddrInfo} {va : Word} {n k : Nat} (hn : 0 < n) (hr : s.reflex = true)
    (h56 : va.toNat + n ≤ 2 ^ 56) (hk : s.me.segment va.toNat = some k) :
    (s.me.segment (va.toNat + n - 1) ≠ some k → s.check .glob acc inf (oneItem va n) = .error (accTrap 0x09 va inf)) ∧
    (s.me.segmentSize k < s.me.segmentOff k va.toNat + n → s.check .glob acc inf (oneItem va n) = .error (accTrap 0x09 va inf)) ∧
    (s.me.segment (va.toNat + n - 1) = some k → s.me.segmentOff k va.toNat + n ≤ s.me.segmentSize k → va.toNat % n ≠ 0 →
      s.check .glob acc inf (oneItem va n) = .error (accTrap 0x08 va inf)) ∧
    (s.me.segment (va.toNat + n - 1) = some k → s.me.segmentOff k va.toNat + n ≤ s.me.segmentSize k → va.toNat % n = 0 →
      let lim := s.me.sysr (0x188 + k)
      let may := acc.granted (lim.getLsbD 51) (lim.getLsbD 52) (lim.getLsbD 53)
      (may ≠ true → s.check .glob acc inf (oneItem va n) = .error (accTrap 0x07 va { inf with pkind := 4 })) ∧
      (may = true → (bits lim 61 2 = 0 ∨ (s.core (bits lim 54 7)).vf = s.me.vf) →
        s.reach .glob acc inf va n (if bits lim 61 2 = 0 then .sram (s.me.segmentOff k va.toNat)
          else .core (bits lim 54 7) (s.me.segmentOff k va.toNat)) s)) := by
  have hx := State.segXlate_inside (acc := acc) (n := n) hk
  have hcheck := s.check_segments acc inf va hn hr h56
  refine ⟨fun hacross => hcheck.trans (if_pos (hx.trans (if_pos hacross))), fun hpast => hcheck.trans (if_pos (hx.trans ?_)),
    fun hin hfit hal => ?_, fun hin hfit hal => ⟨fun hno => ?_, fun hyes hown => ⟨0, ?_⟩⟩⟩
  · rw [if_pos hpast, ite_self]
  · have hlegal : s.segXlate acc va.toNat n ≠ .illegal := by
      rw [State.segXlate_whole hk hin hfit]
      split
      · exact SegRes.noConfusion
      · split <;> exact SegRes.noConfusion
    exact hcheck.trans ((if_neg hlegal).trans (if_pos hal))
  · have hwhole := State.segXlate_whole (acc := acc) hk hin hfit
    rw [if_pos hno] at hwhole
    rw [hwhole, if_neg SegRes.noConfusion, if_neg (not_not.mpr hal)] at hcheck
    exact hcheck
  · have hwhole := State.segXlate_whole (acc := acc) hk hin hfit
    rw [if_neg (not_not.mpr hyes), if_neg (fun h => hown.elim h.1 h.2)] at hwhole
    rw [hwhole, if_neg SegRes.noConfusion, if_neg (not_not.mpr hal)] at hcheck
    exact hcheck

/-- What a walk that reaches a leaf answers, in the order of R278. -/
theorem State.xlateWalk_order {s : State} {who : Asker} {va : Nat} {l : Leaf} (acc : Acc) (h : s.walk who.vf va = .leaf l) :
    let out := (s.xlateWalk who acc va).2.1
    let own := bits l.w0 9 3 = who.vf
    let near := ∀ c, who.cluster = some c → l.w1.getLsbD c = true
    let may := acc.granted (l.w0.getLsbD 4) (l.w0.getLsbD 5) (l.w0.getLsbD 6) = true
    (¬own → out = .refused 2) ∧ (own → ¬near → out = .refused 3) ∧ (own → near → ¬may → out = .refused 1) ∧
      (own → near → may → ∃ e, out = .place (placeOf (leafFrame (l.marked acc) + va % 2 ^ l.log2)) e) := by
  obtain ⟨href, hpass⟩ := State.xlateWalk_leaf acc h
  rw [Leaf.refusal_eq] at href hpass
  refine ⟨fun hown => href 2 (if_pos hown), fun hown hnear => href 3 ?_, fun hown hnear hno => href 1 ?_, fun hown hnear hyes => hpass ?_⟩
  · rw [if_neg (not_not.mpr hown), if_pos hnear]
  · rw [if_neg (not_not.mpr hown), if_neg (not_not.mpr hnear), if_pos hno]
  · rw [if_neg (not_not.mpr hown), if_neg (not_not.mpr hnear), if_neg (not_not.mpr hyes)]

/-- Settles O15: the checks of one access in each space, the answers of a walk, and those of the lowest segment. -/
theorem addressChecks : Obligations.AddressChecks := by
  refine ⟨fun s acc inf va n hn => local_checked s acc inf va hn, fun s acc inf va n hn hr => pointer_checked s acc inf va hn hr,
    fun s acc inf va n hn hr => ⟨fun h56 => ?_, fun h56 hal => ?_, fun h56 hal => ?_⟩, fun s who acc va => ?_,
    fun s acc inf va n hn hr h56 => ⟨fun hnone => ?_, fun k hk => ?_⟩⟩
  · change s.check .glob acc inf (oneItem va n) = _
    rw [State.check_glob _ _ _ _ _ hr, State.checkGlobal_one _ _ _ _ hn, if_pos h56]
    rfl
  · change s.check .glob acc inf (oneItem va n) = _
    rw [State.check_glob _ _ _ _ _ hr, State.checkGlobal_one _ _ _ _ hn, if_neg (not_lt.mpr h56), if_pos hal]
    rfl
  · obtain ⟨href, hinv, hmal, hdecl, habs, hplace⟩ := translation_checked (inf := inf) hn hr h56 hal rfl
    exact ⟨href, hinv, hmal, hdecl, fun hx hd => ⟨0, habs hx hd⟩, fun p e hx hs hl => ⟨e, hplace p e hx hs hl⟩⟩
  · obtain ⟨habs, hinv, hmal, hroot⟩ := State.xlateWalk_none (s := s) (who := who) (acc := acc) (va := va)
    refine ⟨habs, hinv, hmal, hroot, fun l hl => ?_⟩
    have horder := State.xlateWalk_order acc hl
    simp only [granted_iff acc (l.w0.getLsbD 4) (l.w0.getLsbD 5) (l.w0.getLsbD 6)] at horder
    exact horder
  · exact (s.check_segments acc inf va hn hr h56).trans (if_pos (State.segXlate_outside (CoreSt.segment_eq_none.mpr hnone)))
  · obtain ⟨hacross, hpast, halign, hwhole⟩ := segment_checked (acc := acc) (inf := inf) hn hr h56 (CoreSt.segment_eq_some.mpr hk)
    have hend := CoreSt.segment_eq_some (c := s.me) (a := va.toNat + n - 1) (k := k)
    have hmay := granted_iff acc ((s.me.sysr (0x188 + k)).getLsbD 51) ((s.me.sysr (0x188 + k)).getLsbD 52) ((s.me.sysr (0x188 + k)).getLsbD 53)
    refine ⟨fun h => hacross fun h' => h (hend.mp h'), hpast, fun hin => halign (hend.mpr hin), fun hin hfit hal => ?_⟩
    obtain ⟨hno, hyes⟩ := hwhole (hend.mpr hin) hfit hal
    exact ⟨fun h => hno fun h' => h (hmay.mp h'), fun h => hyes (hmay.mpr h)⟩

end Sys2Proof.Machine
end

section
/-! SUPPORT. Translations and the checks of an access leave the registers of the issuing context, and do not depend on them: with
another context in its place they answer the same, and leave that one. -/

namespace Sys2Proof.Machine

open Sys2Proof

/-! ### Walks -/

theorem State.walkFrom_setMy (s : State) (x : Ctx) (va level pa : Nat) : (s.setMy x).walkFrom va level pa = s.walkFrom va level pa := by
  induction level generalizing pa with
  | zero => rfl
  | succ l ih =>
    unfold State.walkFrom
    simp only [ih]
    rfl

theorem State.walk_setMy (s : State) (x : Ctx) (vf va : Nat) : (s.setMy x).walk vf va = s.walk vf va := s.walkFrom_setMy x va 4 _

theorem State.setBytes_dram_cores (s : State) (a : Nat) (bs : List Byte) : (s.setBytes (.dram a) bs).cores = s.cores := by
  induction bs generalizing s a with
  | nil => rfl
  | cons b bs ih => exact ih (s.setByte (.dram a) b) (a + 1)

theorem State.setBytes_dram_setMy (s : State) (x : Ctx) (a : Nat) (bs : List Byte) :
    (s.setMy x).setBytes (.dram a) bs = (s.setBytes (.dram a) bs).setMy x := by
  induction bs generalizing s a with
  | nil => rfl
  | cons b bs ih => exact ih (s.setByte (.dram a) b) (a + 1)

theorem State.markLeaf_frame (s : State) (l : Leaf) (acc : Acc) :
    (s.markLeaf l acc).cores = s.cores ∧ (s.markLeaf l acc).cur = s.cur := by
  unfold State.markLeaf
  split
  · exact ⟨rfl, rfl⟩
  · exact ⟨s.setBytes_dram_cores _ _, State.setBytes_cur _ _ _⟩

theorem State.markLeaf_setMy (s : State) (x : Ctx) (l : Leaf) (acc : Acc) : (s.setMy x).markLeaf l acc = (s.markLeaf l acc).setMy x := by
  unfold State.markLeaf
  split
  · rfl
  · exact s.setBytes_dram_setMy x _ _

/-- A walk's answer, with the state that it leaves seen with another context. -/
def withMy {α : Type} (x : Ctx) (r : α × State) : α × State := (r.1, r.2.setMy x)
def withMy₂ {α β : Type} (x : Ctx) (r : α × β × State) : α × β × State := (r.1, withMy x r.2)

theorem State.xlateWalk_frame (s : State) (who : Asker) (acc : Acc) (va : Nat) :
    (s.xlateWalk who acc va).2.2.cores = s.cores ∧ (s.xlateWalk who acc va).2.2.cur = s.cur := by
  unfold State.xlateWalk
  cases s.walk who.vf va with
  | leaf l =>
    dsimp only
    cases l.refusal who acc with
    | some k => exact ⟨rfl, rfl⟩
    | none => cases who.cluster <;> exact s.markLeaf_frame l acc
  | absent | invalid | noRoot | malformed => exact ⟨rfl, rfl⟩

theorem State.xlateWalk_setMy (s : State) (x : Ctx) (who : Asker) (acc : Acc) (va : Nat) :
    (s.setMy x).xlateWalk who acc va = withMy₂ x (s.xlateWalk who acc va) := by
  unfold State.xlateWalk
  rw [State.walk_setMy]
  cases s.walk who.vf va with
  | leaf l =>
    dsimp only
    cases l.refusal who acc with
    | some k => rfl
    | none =>
      dsimp only
      rw [State.markLeaf_setMy]
      cases who.cluster <;> rfl
  | absent | invalid | noRoot | malformed => rfl

theorem State.xlateSecond_cases (s : State) (who : Asker) (acc : Acc) (va : Nat) :
    (∃ e p, ∀ x, s.xlateSecond who acc va = (some e, p, s) ∧ (s.setMy x).xlateSecond who acc va = (some e, p, s.setMy x)) ∨
      ∀ x, s.xlateSecond who acc va = s.xlateWalk who acc va ∧ (s.setMy x).xlateSecond who acc va = (s.setMy x).xlateWalk who acc va := by
  have hcluster : ∀ (x : Ctx) k, (s.setMy x).cluster k = s.cluster k := fun _ _ => rfl
  unfold State.xlateSecond
  simp only [hcluster]
  split
  · next e _ => exact .inl ⟨e, _, fun x => ⟨rfl, rfl⟩⟩
  · exact .inr fun x => ⟨rfl, rfl⟩

theorem State.xlateSecond_frame (s : State) (who : Asker) (acc : Acc) (va : Nat) :
    (s.xlateSecond who acc va).2.2.cores = s.cores ∧ (s.xlateSecond who acc va).2.2.cur = s.cur := by
  rcases s.xlateSecond_cases who acc va with ⟨e, p, h⟩ | h
  · rw [(h s.my).1]; exact ⟨rfl, rfl⟩
  · rw [(h s.my).1]; exact s.xlateWalk_frame who acc va

theorem State.xlateSecond_setMy (s : State) (x : Ctx) (who : Asker) (acc : Acc) (va : Nat) :
    (s.setMy x).xlateSecond who acc va = withMy₂ x (s.xlateSecond who acc va) := by
  rcases s.xlateSecond_cases who acc va with ⟨e, p, h⟩ | h
  · rw [(h x).1, (h x).2]; rfl
  · rw [(h x).1, (h x).2, State.xlateWalk_setMy]

/-! ### Fills of the issuing core -/

theorem State.fillCore_frame {s : State} {r : Option TlbEntry × Xlate × State} (who : Asker) (acc : Acc)
    (h : r.2.2.cores = s.cores ∧ r.2.2.cur = s.cur) :
    (s.fillCore who acc r).2.cur = s.cur ∧ (s.fillCore who acc r).2.my = s.my := by
  obtain ⟨o, p, t⟩ := r
  obtain ⟨hcores, hcur⟩ := h
  have hcore : ∀ n, t.core n = s.core n := fun n => congrArg (fun c => tget ({} : CoreSt) c n) hcores
  have hmy : t.my = s.my := by rw [State.my, State.me, hcur, hcore]; rfl
  cases o with
  | none => exact ⟨hcur, hmy⟩
  | some e =>
    unfold State.fillCore
    dsimp only
    have hown : ∀ c : CoreSt, c.ctxs = t.me.ctxs → (t.setCore s.cur.core c).my = s.my := by
      intro c hc
      rw [← hmy, ← hcur]
      exact t.my_setMe_own c hc
    rw [← hcur] at hown ⊢
    split <;> exact ⟨rfl, hown _ rfl⟩

theorem State.fillCore_setMy {s : State} (x : Ctx) {r : Option TlbEntry × Xlate × State} (who : Asker) (acc : Acc)
    (h : r.2.2.cur = s.cur) : (s.setMy x).fillCore who acc (withMy₂ x r) = withMy x (s.fillCore who acc r) := by
  obtain ⟨o, p, t⟩ := r
  cases o with
  | none => rfl
  | some e =>
    have hset : ∀ f : CoreSt → CoreSt, (∀ c, f (c.setCtx t.cur.ctx x) = (f c).setCtx t.cur.ctx x) →
        (t.setMy x).setCore t.cur.core (f ((t.setMy x).core t.cur.core)) = (t.setCore t.cur.core (f (t.core t.cur.core))).setMy x := by
      intro f hf
      have hown : (t.setMy x).core t.cur.core = t.me.setCtx t.cur.ctx x := t.me_setMy x
      have hme : (t.setCore t.cur.core (f (t.core t.cur.core))).me = f t.me := t.me_setMe _
      rw [hown, hf, State.setMy, State.setMe, State.setCore_setCore, State.setMy, hme, State.setMe]
      exact (State.setCore_setCore _ _ _ _).symm
    unfold State.fillCore withMy₂ withMy
    dsimp only at h ⊢
    rw [State.setMy_cur, ← h]
    by_cases hf : acc = .fetch
    · rw [if_pos hf, if_pos hf]
      exact congrArg (Prod.mk p) (hset (fun c => { c with itlb := tlbInsert 64 c.itlb (e.copyFor who.lcap) }) fun c => rfl)
    · rw [if_neg hf, if_neg hf]
      exact congrArg (Prod.mk p) (hset (fun c => { c with dtlb := tlbInsert 128 c.dtlb (e.copyFor who.lcap) }) fun c => rfl)

/-! ### Translations -/

theorem State.xlateCore_frame (s : State) (acc : Acc) (va : Nat) :
    (s.xlateCore acc va).2.cur = s.cur ∧ (s.xlateCore acc va).2.my = s.my := by
  unfold State.xlateCore State.xlateFor
  dsimp only
  split
  · split
    · exact ⟨rfl, rfl⟩
    split
    · exact ⟨rfl, rfl⟩
    · exact State.fillCore_frame _ _ (s.xlateWalk_frame _ _ _)
  · split
    · exact ⟨rfl, rfl⟩
    · exact State.fillCore_frame _ _ (s.xlateSecond_frame _ _ _)

theorem State.asker_setMy (s : State) (x : Ctx) : (s.setMy x).asker = s.asker := by
  have hreplica : (s.setMy x).replica s.cur.core = s.replica s.cur.core := by
    rw [State.replica, State.replica, State.core_setMy, if_pos rfl]; rfl
  unfold State.asker
  rw [State.me_setMy, State.setMy_cur, hreplica]
  rfl

theorem State.xlateCore_setMy (s : State) (x : Ctx) (acc : Acc) (va : Nat) :
    (s.setMy x).xlateCore acc va = withMy x (s.xlateCore acc va) := by
  have hnoFill : (s.setMy x).noFill = s.noFill := by unfold State.noFill; rw [State.me_setMy]; rfl
  have hitlb : (s.setMy x).me.itlb = s.me.itlb := by rw [State.me_setMy]; rfl
  have hdtlb : (s.setMy x).me.dtlb = s.me.dtlb := by rw [State.me_setMy]; rfl
  unfold State.xlateCore
  rw [State.asker_setMy]
  unfold State.xlateFor
  rw [hnoFill, hitlb, hdtlb]
  dsimp only
  split
  · split
    · rfl
    split
    · rfl
    · rw [State.xlateWalk_setMy, State.fillCore_setMy x _ _ (s.xlateWalk_frame _ _ _).2]
  · split
    · rfl
    · rw [State.xlateSecond_setMy, State.fillCore_setMy x _ _ (s.xlateSecond_frame _ _ _).2]

theorem State.xlateAll_frame (s : State) (acc : Acc) (is : List Item) :
    (s.xlateAll acc is).2.cur = s.cur ∧ (s.xlateAll acc is).2.my = s.my := by
  induction is generalizing s with
  | nil => exact ⟨rfl, rfl⟩
  | cons i is ih =>
    obtain ⟨hcur, hmy⟩ := s.xlateCore_frame acc i.va.toNat
    obtain ⟨hcur', hmy'⟩ := ih (s.xlateCore acc i.va.toNat).2
    exact ⟨hcur'.trans hcur, hmy'.trans hmy⟩

theorem State.xlateAll_setMy (s : State) (x : Ctx) (acc : Acc) (is : List Item) :
    (s.setMy x).xlateAll acc is = withMy x (s.xlateAll acc is) := by
  induction is generalizing s with
  | nil => rfl
  | cons i is ih =>
    simp only [State.xlateAll, State.xlateCore_setMy, withMy]
    rw [ih]
    rfl

/-! ### Checks -/

/-- A check's answer and its state, seen with another context. -/
def checkedWith (x : Ctx) (r : Except Stop (List Loc × State)) : Except Stop (List Loc × State) := r.map (withMy x)

theorem checked_bind {α : Type} (x : Ctx) (r : Except Stop α) (f : α → Except Stop (List Loc × State)) :
    checkedWith x (r >>= f) = r >>= fun a => checkedWith x (f a) := by cases r <;> rfl

/-- The stops of a check that its bodies pass through. -/
theorem stop_bind_ok {α β : Type} {r : Except Stop α} {f : α → Except Stop β} {b : β} (h : r >>= f = .ok b) :
    ∃ a, r = .ok a ∧ f a = .ok b := by
  cases r with
  | error e => cases h
  | ok a => exact ⟨a, rfl, h⟩

theorem State.checkGlobal_frame {s t : State} {acc : Acc} {inf : AddrInfo} {is : List Item} {ls : List Loc}
    (h : s.checkGlobal acc inf is = .ok (ls, t)) : t.cur = s.cur ∧ t.my = s.my := by
  obtain ⟨-, -, h⟩ := stop_bind_ok h
  obtain ⟨-, -, h⟩ := stop_bind_ok h
  obtain ⟨-, -, h⟩ := stop_bind_ok h
  obtain ⟨-, -, h⟩ := stop_bind_ok h
  obtain ⟨-, -, h⟩ := stop_bind_ok h
  cases h
  exact s.xlateAll_frame acc is

theorem State.checkGlobal_setMy (s : State) (x : Ctx) (hx : x.invalidAt = s.my.invalidAt) (acc : Acc) (inf : AddrInfo) (is : List Item) :
    (s.setMy x).checkGlobal acc inf is = checkedWith x (s.checkGlobal acc inf is) := by
  have hdecl : ∀ i, (s.setMy x).declaredInvalid i = s.declaredInvalid i := by
    intro i
    rw [State.declaredInvalid, State.my_setMy, hx]; rfl
  have hskew : ∀ a, (s.setMy x).homeSkewed a = s.homeSkewed a := fun _ => rfl
  unfold State.checkGlobal
  rw [State.xlateAll_setMy]
  simp only [hdecl, hskew, withMy]
  simp only [checked_bind]
  rfl

theorem State.check_frame {s t : State} {sp : Space} {acc : Acc} {inf : AddrInfo} {is : List Item} {ls : List Loc}
    (h : s.check sp acc inf is = .ok (ls, t)) : t.cur = s.cur ∧ t.my = s.my := by
  unfold State.check at h
  cases sp with
  | glob =>
    dsimp only at h
    split at h
    · obtain ⟨-, -, h⟩ := stop_bind_ok h
      obtain ⟨-, -, h⟩ := stop_bind_ok h
      obtain ⟨-, -, h⟩ := stop_bind_ok h
      cases h
      exact ⟨rfl, rfl⟩
    · obtain ⟨⟨ls', t'⟩, hg, h⟩ := stop_bind_ok h
      obtain ⟨-, -, h⟩ := stop_bind_ok h
      cases h
      exact State.checkGlobal_frame hg
  | loc =>
    obtain ⟨-, -, h⟩ := stop_bind_ok h
    obtain ⟨-, -, h⟩ := stop_bind_ok h
    cases h
    exact ⟨rfl, rfl⟩
  | dist =>
    obtain ⟨-, -, h⟩ := stop_bind_ok h
    obtain ⟨-, -, h⟩ := stop_bind_ok h
    obtain ⟨-, -, h⟩ := stop_bind_ok h
    cases h
    exact ⟨rfl, rfl⟩

theorem State.clearOfLog_setMy (s : State) (x : Ctx) (ls : List Loc) : (s.setMy x).clearOfLog ls = s.clearOfLog ls := by
  unfold State.clearOfLog
  rw [State.me_setMy]
  rfl

theorem State.checkSegments_setMy (s : State) (x : Ctx) (acc : Acc) (inf : AddrInfo) (is : List Item) :
    (s.setMy x).checkSegments acc inf is = checkedWith x (s.checkSegments acc inf is) := by
  have hvf : ∀ n, ((s.setMy x).core n).vf = (s.core n).vf := by
    intro n
    rw [State.core_setMy]
    split
    · next h => rw [h]; rfl
    · rfl
  have hseg : ∀ a n, (s.setMy x).segXlate acc a n = s.segXlate acc a n := by
    intro a n
    unfold State.segXlate
    rw [State.me_setMy]
    simp only [hvf]
    rfl
  unfold State.checkSegments
  rw [State.me_setMy]
  simp only [hseg, checked_bind]
  rfl

theorem State.namedCore_setMy (s : State) (x : Ctx) (p : Word) : (s.setMy x).namedCore p = s.namedCore p := by
  have hpair : ∀ n, ((s.setMy x).core n).pair = (s.core n).pair := by
    intro n
    rw [State.core_setMy]
    split
    · next h => rw [h]; rfl
    · rfl
  unfold State.namedCore State.pairHead
  rw [State.me_setMy]
  simp only [hpair]
  rfl

theorem State.checkDist_setMy (s : State) (x : Ctx) (inf : AddrInfo) (is : List Item) :
    (s.setMy x).checkDist inf is = checkedWith x (s.checkDist inf is) := by
  have hrect : (s.setMy x).rect = s.rect := by unfold State.rect; rw [State.me_setMy]; rfl
  have hreflex : (s.setMy x).reflex = s.reflex := rfl
  unfold State.checkDist
  rw [State.me_setMy]
  simp only [hrect, hreflex, State.namedCore_setMy, checked_bind]
  rfl

theorem State.check_setMy (s : State) (x : Ctx) (hx : x.invalidAt = s.my.invalidAt) (sp : Space) (acc : Acc) (inf : AddrInfo)
    (is : List Item) : (s.setMy x).check sp acc inf is = checkedWith x (s.check sp acc inf is) := by
  have hreflex : (s.setMy x).reflex = s.reflex := rfl
  unfold State.check
  cases sp with
  | glob =>
    dsimp only
    rw [hreflex]
    split
    · exact s.checkSegments_setMy x acc inf is
    · unfold State.checkLogged
      rw [State.checkGlobal_setMy s x hx]
      cases s.checkGlobal acc inf is with
      | error e => rfl
      | ok r =>
        change (State.clearOfLog (r.2.setMy x) r.1 >>= fun _ => .ok (withMy x r)) = checkedWith x (r.2.clearOfLog r.1 >>= fun _ => .ok r)
        rw [State.clearOfLog_setMy, checked_bind]
        rfl
  | loc => unfold State.checkLocal; simp only [checked_bind]; rfl
  | dist => exact s.checkDist_setMy x inf is

end Sys2Proof.Machine
end

section
/-! PROOF. Stream generators: binding and unbinding them, and vector operands that pop and append (R14, R127-R131, R149). -/

namespace Sys2Proof.Machine

open Sys2Proof

/-! ### Fields of a descriptor (R128) -/

theorem State.bytesAt_take (s : State) (p : Place) {k n : Nat} (h : k ≤ n) : (s.bytesAt p n).take k = s.bytesAt p k := by
  induction k generalizing p n with
  | zero => rfl
  | succ k ih =>
    obtain ⟨m, rfl⟩ := Nat.exists_eq_add_of_le' (Nat.lt_of_lt_of_le (Nat.succ_pos k) h)
    simp only [State.bytesAt, List.take_succ_cons, ih (p.plus 1) (Nat.le_of_succ_le_succ h)]

theorem State.bytesAt_drop (s : State) (p : Place) (k n : Nat) : (s.bytesAt p (k + n)).drop k = s.bytesAt (p.plus k) n := by
  induction k generalizing p with
  | zero => cases p <;> simp [Place.plus]
  | succ k ih =>
    rw [Nat.add_right_comm, State.bytesAt, List.drop_succ_cons, ih, Place.plus_plus, Nat.add_comm 1 k]

/-- A doubleword inside bytes that were read is the number there. -/
theorem wordAt_bytesAt (s : State) (p : Place) {k n : Nat} (h : k + 8 ≤ n) :
    wordAt (s.bytesAt p n) k = BitVec.ofNat 64 (s.numAt (p.plus k) 8) := by
  obtain ⟨m, rfl⟩ := Nat.exists_eq_add_of_le (Nat.le_of_add_right_le h)
  rw [wordAt, State.bytesAt_drop, State.bytesAt_take _ _ (by omega)]
  rfl

theorem leNat_lt (bs : List Byte) : leNat bs < 256 ^ bs.length := by
  induction bs with
  | nil => exact Nat.one_pos
  | cons b bs ih =>
    have hb := b.isLt
    rw [leNat, List.length_cons, Nat.pow_succ]
    omega

theorem State.numAt_lt (s : State) (p : Place) (n : Nat) : s.numAt p n < 256 ^ n := by
  have h := leNat_lt (s.bytesAt p n)
  rwa [s.length_bytesAt p n] at h

theorem leNat_append (as bs : List Byte) : leNat (as ++ bs) = leNat as + 256 ^ as.length * leNat bs := by
  induction as with
  | nil => simp [leNat]
  | cons a as ih => rw [List.cons_append, leNat, ih, leNat, List.length_cons, Nat.pow_succ]; ring

/-- A number's low and high parts. -/
theorem State.numAt_add (s : State) (p : Place) (m n : Nat) : s.numAt p (m + n) = s.numAt p m + 256 ^ m * s.numAt (p.plus m) n := by
  rw [State.numAt, ← List.take_append_drop m (s.bytesAt p (m + n)), s.bytesAt_take p (Nat.le_add_right m n), s.bytesAt_drop p m n,
    leNat_append, s.length_bytesAt p m]
  rfl

/-- A doubleword's halves. -/
theorem State.numAt_halves (s : State) (p : Place) :
    s.numAt p 8 % 2 ^ 32 = s.numAt p 4 ∧ s.numAt p 8 / 2 ^ 32 % 2 ^ 32 = s.numAt (p.plus 4) 4 := by
  have hsum := s.numAt_add p 4 4
  have hlow := s.numAt_lt p 4
  have hhigh := s.numAt_lt (p.plus 4) 4
  norm_num at hsum hlow hhigh ⊢
  omega

/-- The generator that a descriptor at p binds, field by field. -/
structure State.Describes (s : State) (p : Place) (b : Stream) : Prop where
  bound : b.bound = true
  rc : b.rc = 0
  wc : b.wc = 0
  ahead : b.ahead = []
  base : b.base.toNat = s.numAt p 8
  stride : b.stride.toNat = s.numAt (p.plus 8) 4
  count : b.count.toNat = s.numAt (p.plus 12) 4
  wrap : b.wrap.toNat = s.numAt (p.plus 20) 4
  dir : b.dir.toNat = s.numAt (p.plus 24) 8 / 4 % 4
  space : b.space.toNat = s.numAt (p.plus 24) 8 % 4

theorem describes_streamOf (s : State) (p : Place) : s.Describes p (streamOf (s.bytesAt p 32)) := by
  have hword : ∀ k, k + 8 ≤ 32 → (wordAt (s.bytesAt p 32) k).toNat = s.numAt (p.plus k) 8 := by
    intro k hk
    rw [wordAt_bytesAt s p hk, BitVec.toNat_ofNat]
    exact Nat.mod_eq_of_lt (s.numAt_lt _ 8)
  have hplus : p.plus 0 = p := by cases p <;> rfl
  have hhalves : ∀ k, s.numAt (p.plus k) 8 % 2 ^ 32 = s.numAt (p.plus k) 4 ∧
      s.numAt (p.plus k) 8 / 2 ^ 32 % 2 ^ 32 = s.numAt (p.plus (k + 4)) 4 := by
    intro k
    rw [← Place.plus_plus]
    exact s.numAt_halves _
  refine ⟨rfl, rfl, rfl, rfl, ?_, ?_, ?_, ?_, ?_, ?_⟩
  · exact (hword 0 (by omega)).trans (by rw [hplus])
  · simp only [streamOf, BitVec.extractLsb'_toNat, hword 8 (by omega), Nat.shiftRight_zero, hhalves 8]
  · simp only [streamOf, BitVec.extractLsb'_toNat, hword 8 (by omega), Nat.shiftRight_eq_div_pow, hhalves 8]
  · simp only [streamOf, BitVec.extractLsb'_toNat, hword 16 (by omega), Nat.shiftRight_eq_div_pow, hhalves 16]
  · simp only [streamOf, BitVec.extractLsb'_toNat, hword 24 (by omega), Nat.shiftRight_eq_div_pow]
  · simp only [streamOf, BitVec.extractLsb'_toNat, hword 24 (by omega), Nat.shiftRight_zero]

/-! ### Reading and clearing -/

/-- A context with nothing under way waits for no earlier access (R251). -/
theorem State.clearOf_calm {s : State} (h : s.calm) (ls : List Loc) : s.clearOf ls = .ok () := by
  obtain ⟨hflight, hspe, hegu⟩ := h
  have hf : (s.flight.any fun f => f.owner == some (s.cur.core, s.cur.ctx) && ls.any f.meetsLoc) = false := by
    rw [List.any_eq_false]
    intro f hf hmeets
    have hown := hflight f hf
    rw [Flight.ofCtx] at hown
    rw [hown] at hmeets
    exact Bool.false_ne_true hmeets
  have hs : ls.any s.speMeets = false := by
    rw [List.any_eq_false]
    intro l _ hmeets
    obtain ⟨p, hp, hmeets⟩ := List.any_eq_true.mp hmeets
    rw [Bool.and_eq_true, beq_iff_eq] at hmeets
    rw [hspe p hp hmeets.1] at hmeets
    exact Bool.false_ne_true hmeets.2
  have ha : ls.any s.appendMeets = false := by
    rw [List.any_eq_false]
    intro l _ hmeets
    obtain ⟨p, hp, hmeets⟩ := List.any_eq_true.mp hmeets
    rw [Bool.and_eq_true, beq_iff_eq] at hmeets
    rw [hegu p hp hmeets.1] at hmeets
    exact Bool.false_ne_true hmeets.2
  unfold State.clearOf
  rw [hf, hs, ha]
  rfl

/-- A read of core memory by a context with nothing under way. -/
theorem State.readItems_loc {s : State} {va : Word} {n : Nat} (kind : Nat) (unit : BitVec 4) (hn : 0 < n) (hcalm : s.calm)
    (hin : va.toNat + n ≤ memSize s.cur.core) (hal : va.toNat % n = 0) (hgood : s.poisonedIn (.core s.cur.core va.toNat) n = false) :
    s.readItems .loc .load {} kind unit [⟨0, va, va, n, n⟩] = .ok ([s.bytesAt (.core s.cur.core va.toNat) n], s) := by
  have hcheck : s.check .loc .load {} [⟨0, va, va, n, n⟩] = .ok ([⟨accItem va n, some (.core s.cur.core va.toNat), 0⟩], s) := by
    have h := s.check_loc .load {} va hn
    rwa [if_neg (not_lt.mpr hin), if_neg (not_not.mpr hal)] at h
  unfold State.readItems
  rw [hcheck]
  change s.keeping _ _ _ (State.clearOf _ _ >>= _) = _
  rw [State.clearOf_calm hcalm]
  change s.keeping _ _ _ (State.consume _ _ _ >>= _) = _
  have hconsume : s.consume unit [⟨accItem va n, some (.core s.cur.core va.toNat), 0⟩] = .ok () := by
    unfold State.consume
    rw [firstBad_one]
    simp only [accItem, hgood, Bool.false_eq_true, if_false]
  rw [hconsume]
  rfl

/-! ### Binding and unbinding (R127, R128, R131) -/

/-- An instruction that only gives generator j another state. -/
def State.rebound (s : State) (j : Nat) (b : Stream) : State :=
  (s.setMy { s.my with streams := tput s.my.streams j b }).advance 1

structure State.Rebinds (s t : State) (j : Nat) (b : Stream) : Prop where
  own : tget {} t.my.streams j = b
  others : ∀ k, k ≠ j → tget {} t.my.streams k = tget {} s.my.streams k
  g : s.my.sameG t.my
  p : s.my.sameP t.my
  v : s.my.sameV t.my
  a : s.my.sameA t.my
  sys : s.my.sameSys t.my
  onlyMy : s.onlyMy t
  bytes : s.sameBytes t
  moves : s.movesOn t 1

theorem State.rebinds (s : State) (j : Nat) (b : Stream) : s.Rebinds (s.rebound j b) j b := by
  have hmy : (s.rebound j b).my = ({ s.my with streams := tput s.my.streams j b } : Ctx).awake.next 1 := by
    rw [State.rebound, State.my_advance, State.my_setMy]
  refine ⟨?_, fun k hk => ?_, fun r => ?_, fun r => ?_, fun r => ?_, fun r => ?_, fun n => ?_, s.onlyMy_advance _ _, fun p => ?_,
    s.movesOn_advance (x := { s.my with streams := tput s.my.streams j b }) rfl rfl 1⟩
  · rw [hmy, Ctx.next_streams, Ctx.awake_streams, tget_tput_self]
  · rw [hmy, Ctx.next_streams, Ctx.awake_streams, tget_tput_ne _ _ _ hk]
  · rw [hmy, Ctx.getG_next, Ctx.getG_awake]; rfl
  · rw [hmy, Ctx.getP_next, Ctx.getP_awake]; rfl
  · rw [hmy, Ctx.getV_next, Ctx.getV_awake]; rfl
  · rw [hmy, Ctx.getA_next, Ctx.getA_awake]; rfl
  · rw [hmy, Ctx.sysr_next, Ctx.sysr_awake]; rfl
  · rw [State.rebound, State.byteAt_advance, State.byteAt_setMy]

theorem Ctx.stream_eq (x : Ctx) (j : Nat) : x.stream (28 + j) = if (tget {} x.streams j).bound then some (tget {} x.streams j) else none := by
  unfold Ctx.stream
  rw [if_pos (Nat.le_add_right 28 j), Nat.add_sub_cancel_left]

/-- SBIND of a generator with no append still owed (R127, R128, R131). -/
theorem exec_sbind {s : State} {j : BitVec 2} {a : Reg5} {g : Reg3} (hg : s.guardOn g = true) (hown : s.appendPending j = false)
    (hcalm : s.calm) (hin : (s.getG a).toNat + 32 ≤ memSize s.cur.core) (hal : (s.getG a).toNat % 32 = 0)
    (hgood : s.poisonedIn (.core s.cur.core (s.getG a).toNat) 32 = false) :
    exec (.sbind j a g) s = s.run (if descriptorBad (s.bytesAt (.core s.cur.core (s.getG a).toNat) 32) then .error reservedAtExec
      else .ok (s.rebound j.toNat (streamOf (s.bytesAt (.core s.cur.core (s.getG a).toNat) 32)))) := by
  change execSbind j a g s = _
  unfold execSbind
  rw [State.guarded_on hg, hown]
  change s.run (s.readItems .loc .load {} 0 0 [⟨0, s.getG a, s.getG a, 32, 32⟩] >>= _) = _
  rw [State.readItems_loc 0 0 (by omega) hcalm hin hal hgood]
  change s.run (if descriptorBad (List.flatten [_]) then _ else _) = _
  rw [List.flatten_singleton]
  rfl

/-- SFREE of a generator with no append still owed. -/
theorem exec_sfree {s : State} {j : BitVec 2} {g : Reg3} (hg : s.guardOn g = true) (hown : s.appendPending j = false) :
    exec (.sfree j g) s = .next (s.rebound j.toNat { tget {} s.my.streams j.toNat with bound := false, ahead := [] }) := by
  change execSfree j g s = _
  unfold execSfree
  rw [hg, hown, if_neg (by decide), State.done, State.guarded_on hg]
  rfl

/-- A generator to which the geometry unit still owes an append is neither bound nor unbound (R131). -/
theorem exec_bound_held {s : State} {j : BitVec 2} {g : Reg3} (hg : s.guardOn g = true) (hown : s.appendPending j = true) (a : Reg5) :
    ∀ i ∈ [Instr.sbind j a g, .sfree j g], exec i s = .next (s.holdOn none) := by
  intro i hi
  rw [List.mem_cons, List.mem_singleton] at hi
  rcases hi with rfl | rfl
  · change execSbind j a g s = _
    unfold execSbind
    rw [State.guarded_on hg, hown]
    rfl
  · change execSfree j g s = _
    unfold execSfree
    rw [hg, hown]
    rfl

theorem State.holdOn_none_my (s : State) : (s.holdOn none).my = { s.my with run := .holding, holdPage := none } := State.my_setMy _ _

/-! ### Lanes of a vector -/

/-- The digits of a number, gathered, are its low part. -/
theorem foldr_digits (w v n : Nat) :
    ((List.range n).map fun i => v / 2 ^ (w * i) % 2 ^ w).foldr (fun d acc => d % 2 ^ w + 2 ^ w * acc) 0 = v % 2 ^ (w * n) := by
  induction n generalizing v with
  | zero => simp [Nat.mod_one]
  | succ n ih =>
    have hdigit : (fun i => v / 2 ^ (w * (i + 1)) % 2 ^ w) = fun i => v / 2 ^ w / 2 ^ (w * i) % 2 ^ w := by
      funext i
      rw [Nat.div_div_eq_div_mul, ← Nat.pow_add, Nat.mul_add, Nat.mul_one, Nat.add_comm]
    rw [List.range_succ_eq_map, List.map_cons, List.map_map, List.foldr_cons]
    change _ + _ * List.foldr _ 0 ((List.range n).map fun i => v / 2 ^ (w * (i + 1)) % 2 ^ w) = _
    rw [hdigit, ih, Nat.mul_zero, Nat.pow_zero, Nat.div_one, Nat.mod_mod, Nat.mul_add, Nat.mul_one, Nat.add_comm (w * n), Nat.pow_add,
      Nat.mod_mul]

/-- All lanes of one vector are that vector. -/
theorem ofLanes_laneNat (v : Vec) (e : ES) : ofLanes (esBytes e) ((List.range (128 / esBytes e)).map (laneNat v (esBytes e))) = v := by
  have hlanes : 8 * esBytes e * (128 / esBytes e) = 1024 := by cases e <;> rfl
  have h := foldr_digits (8 * esBytes e) v.toNat (128 / esBytes e)
  unfold ofLanes
  refine (congrArg (BitVec.ofNat 1024) h).trans ?_
  rw [hlanes, BitVec.toNat_mod_cancel, BitVec.ofNat_toNat, BitVec.setWidth_eq]

theorem State.merge_all (s : State) (v old : Vec) (e : ES) : s.merge none (esBytes e) old (laneNat v (esBytes e)) = v :=
  ofLanes_laneNat v e

theorem flagsOf_none {α : Type} (l : List α) : flagsOf (l.map fun _ => {}) = {} := by
  induction l with
  | nil => rfl
  | cons a l ih => rw [List.map_cons, flagsOf, ih]; rfl

/-- The context with its flags written as they are. -/
def Ctx.reflagged (x : Ctx) : Ctx := x.setSysr 0x011 (x.sysr 0x011 ||| ({} : Flags).word)

theorem State.raise_none (s : State) : s.raise {} = s.setMy s.my.reflagged := rfl

/-! ### Pops -/

theorem vecForm_pops {s : State} {g : Reg3} (hg : s.guardOn g = true) (d : Reg5) (srcs : List Reg5) (eb : Nat) (x : Option VExt) (len : Nat)
    (f : State → Nat → Nat × Flags) : ∃ k, vecForm d srcs eb x g len s f = s.run (s.pops (srcs.map (·.toNat)) >>= k) :=
  ⟨_, State.guarded_on hg _ _⟩

/-- Every lane-wise instruction pops its sources first (R149). -/
theorem exec_pops {i : Instr} {s : State} {l : List Reg5} (h : streamSources i = some l) (hg : s.guardHolds i = true) :
    ∃ k, exec i s = s.run (s.pops (l.map (·.toNat)) >>= k) := by
  unfold streamSources at h
  split at h <;> cases h <;> exact vecForm_pops hg _ _ _ _ _ _

theorem mem_distinct {r : Nat} {l : List Nat} : r ∈ distinct l ↔ r ∈ l := by
  induction l with
  | nil => rfl
  | cons a l ih =>
    rw [distinct, List.mem_cons, List.mem_filter, ih, List.mem_cons, bne_iff_ne]
    tauto

/-- The pops before one that stops are of unbound registers. -/
theorem State.popEach_stop {s : State} {r : Nat} {e : Stop} {l : List Nat} (hr : r ∈ l) (hstop : s.pop r = .error e)
    (hother : ∀ q ∈ l, q ≠ r → s.my.stream q = none) : s.popEach l = .error e := by
  induction l with
  | nil => cases hr
  | cons q l ih =>
    rw [State.popEach]
    by_cases hq : q = r
    · rw [hq, hstop]; rfl
    · have hpop : s.pop q = .ok s := by unfold State.pop; rw [hother q (List.mem_cons_self ..) hq]
      rw [hpop]
      exact ih ((List.mem_cons.mp hr).resolve_left (Ne.symm hq)) fun p hp => hother p (List.mem_cons_of_mem _ hp)

/-- A pop of an exhausted generator, or of one that only appends (R129). -/
theorem State.pop_stop {s : State} {r : Nat} {g : Stream} (hs : s.my.stream r = some g) (hend : g.dir = 2 ∨ g.count.toNat ≤ g.rc) :
    s.pop r = .error (.trap 0x09 (g.chunk g.rc) ({ stream := true, space := g.space } : AddrInfo).word) := by
  unfold State.pop
  rw [hs]
  exact if_pos hend

theorem State.pops_one (s : State) (r : Nat) : s.pops [r] = s.pop r := by
  change (s.pop r >>= fun t => .ok t) = _
  cases s.pop r <;> rfl

/-- The context after a pop of a value from register r's generator. -/
def Ctx.popped (x : Ctx) (r : Nat) (v : Vec) (g : Stream) : Ctx := { x.setV r v with streams := tput x.streams (r - 28) g }

/-- A pop of the next chunk, from memory (R129). -/
theorem State.pop_read {s u : State} {r : Nat} {g : Stream} {bs : List (List Byte)} (hs : s.my.stream r = some g)
    (hgo : ¬(g.dir = 2 ∨ g.count.toNat ≤ g.rc)) (hahead : g.ahead = [])
    (hread : s.readItems g.space' .load (streamInfo false g) 0 0 (chunkItems (g.chunk g.rc)) = .ok (bs, u)) :
    s.pop r = .ok (u.setMy (u.my.popped r (BitVec.ofNat 1024 (leNat bs.flatten)) { g with rc := g.rc + 1 })) := by
  unfold State.pop
  rw [hs]
  dsimp only
  rw [if_neg hgo, hahead]
  dsimp only
  rw [hread]
  rfl

theorem State.keeping_ok {α : Type} {s : State} {sp : Space} {acc : Acc} {is : List Item} {b : Except Stop α} {v : α}
    (h : s.keeping sp acc is b = .ok v) : b = .ok v := by
  cases b with
  | ok w => exact h
  | error e => cases h

theorem State.check_of_readItems {s u : State} {sp : Space} {acc : Acc} {inf : AddrInfo} {kind : Nat} {unit : BitVec 4} {is : List Item}
    {bs : List (List Byte)} (h : s.readItems sp acc inf kind unit is = .ok (bs, u)) : ∃ ls, s.check sp acc inf is = .ok (ls, u) := by
  obtain ⟨⟨ls, t⟩, hcheck, h⟩ := stop_bind_ok (State.keeping_ok h)
  obtain ⟨-, -, h⟩ := stop_bind_ok h
  obtain ⟨-, -, h⟩ := stop_bind_ok h
  obtain ⟨-, -, h⟩ := stop_bind_ok h
  cases h
  exact ⟨ls, hcheck⟩

theorem holdIfAbsent_placed {ls : List Loc} (h : placed ls) (kind : Nat) : holdIfAbsent kind ls = .ok () := by
  unfold holdIfAbsent firstBad
  rw [List.findSome?_eq_none_iff.mpr]
  intro l hl
  obtain ⟨p, hp⟩ := Option.isSome_iff_exists.mp (h l hl)
  rw [hp]

/-- A pop of a chunk that was read ahead (R130). -/
theorem State.pop_ahead {s u : State} {r : Nat} {g : Stream} {v : Vec} {rest : List Vec} {ls : List Loc} (hs : s.my.stream r = some g)
    (hgo : ¬(g.dir = 2 ∨ g.count.toNat ≤ g.rc)) (hahead : g.ahead = v :: rest)
    (hcheck : s.check g.space' .load (streamInfo false g) (chunkItems (g.chunk g.rc)) = .ok (ls, u)) (hplaced : placed ls) :
    s.pop r = .ok (u.setMy (u.my.popped r v { g with rc := g.rc + 1, ahead := rest })) := by
  unfold State.pop
  rw [hs]
  dsimp only
  rw [if_neg hgo, hahead]
  dsimp only
  rw [hcheck]
  change s.keeping _ _ _ (holdIfAbsent 0 ls >>= _) = _
  rw [holdIfAbsent_placed hplaced]
  rfl

/-- VMOV without a lane predicate: a pop, then the whole value to the destination (R149, R154). -/
theorem exec_vmov {s : State} {q : Reg3} (hg : s.guardOn q = true) (e : ES) (d a : Reg5) :
    exec (.vmov e d a none q) s = s.run (s.pop a.toNat >>= fun t =>
      (t.setMy t.my.reflagged).putV d.toNat (t.getV a) >>= fun t' => .ok (t'.advance 1)) := by
  have hmerge : ∀ t : State, t.merge none (esBytes e) (t.getV d) (fun i => laneNat (t.getV a) (esBytes e) i) = t.getV a :=
    fun t => t.merge_all _ _ e
  change execVmov e d a none q s = _
  unfold execVmov moveForm vecForm
  rw [State.guarded_on hg]
  change s.run (s.pops [a.toNat] >>= _) = _
  rw [State.pops_one]
  simp only [flagsOf_none, hmerge, State.raise_none]
  rfl

theorem Ctx.sysr_reflagged (x : Ctx) (n : Nat) : x.reflagged.sysr n = x.sysr n := by
  have hflags : x.sysr 0x011 ||| ({} : Flags).word = x.sysr 0x011 := BitVec.or_zero
  rw [Ctx.reflagged, hflags]
  by_cases h : n = 0x011
  · rw [h, Ctx.sysr_setSysr]
  · exact Ctx.sysr_setSysr_ne _ _ h

theorem Ctx.replay_reflagged (x : Ctx) : x.reflagged.replay = x.replay := by
  have hmon : x.reflagged.mon = x.mon := by unfold Ctx.mon; rw [Ctx.sysr_reflagged]
  unfold Ctx.replay
  rw [hmon]
  rfl

theorem Ctx.stream_reflagged (x : Ctx) (r : Nat) : x.reflagged.stream r = x.stream r := rfl

theorem Ctx.le_of_stream {x : Ctx} {r : Nat} {g : Stream} (h : x.stream r = some g) : 28 ≤ r := by
  unfold Ctx.stream at h
  split at h
  · assumption
  · cases h

/-- A pop from one register's generator leaves the others. -/
theorem Ctx.stream_popped_ne (x : Ctx) {r q : Nat} (v : Vec) (g : Stream) (hr : 28 ≤ r) (hq : q ≠ r) :
    (x.popped r v g).stream q = x.stream q := by
  unfold Ctx.stream Ctx.popped
  dsimp only
  split
  · rw [tget_tput_ne _ _ _ (by omega)]
  · rfl

/-- VMOV from a register whose pop gives v, to an unbound one. -/
theorem exec_vmov_pop {s u : State} {d a : Reg5} {q : Reg3} {g g' : Stream} {v : Vec} (hg : s.guardOn q = true) (e : ES)
    (ha : s.my.stream a.toNat = some g) (hd : s.my.stream d.toNat = none) (hu : u.my = s.my)
    (hpop : s.pop a.toNat = .ok (u.setMy (u.my.popped a.toNat v g'))) :
    ∃ t, exec (.vmov e d a none q) s = .next t ∧ t.getV d = v ∧ u.sameBytes t ∧ tget {} t.my.streams (a.toNat - 28) = g' ∧
      u.movesOn t 1 := by
  have hne : d.toNat ≠ a.toNat := fun h => by rw [h, ha] at hd; cases hd
  have hval : (u.setMy (u.my.popped a.toNat v g')).getV a = v := by
    rw [State.getV, State.my_setMy]
    exact Ctx.getV_setV _ _ _
  have hput : ((u.setMy (u.my.popped a.toNat v g')).setMy (u.my.popped a.toNat v g').reflagged).putV d.toNat v =
      .ok (u.setMy ((u.my.popped a.toNat v g').reflagged.setV d.toNat v)) := by
    unfold State.putV
    rw [State.setMy_setMy, State.my_setMy, Ctx.stream_reflagged, Ctx.stream_popped_ne _ _ _ (Ctx.le_of_stream ha) hne, hu, hd]
    dsimp only
    rw [State.setMy_setMy]
  refine ⟨(u.setMy ((u.my.popped a.toNat v g').reflagged.setV d.toNat v)).advance 1, ?_, ?_, fun p => ?_, ?_, ?_⟩
  · rw [exec_vmov hg, hpop]
    change s.run (State.putV _ _ _ >>= _) = _
    rw [hval, State.my_setMy, hput]
    rfl
  · rw [State.getV, State.my_advance, State.my_setMy, Ctx.getV_next, Ctx.getV_awake]
    exact Ctx.getV_setV _ _ _
  · rw [State.byteAt_advance, State.byteAt_setMy]
  · rw [State.my_advance, State.my_setMy, Ctx.next_streams, Ctx.awake_streams]
    exact tget_tput_self _ _ _ _
  · exact u.movesOn_advance (x := (u.my.popped a.toNat v g').reflagged.setV d.toNat v) rfl
      (Ctx.replay_reflagged (u.my.popped a.toNat v g')) 1

/-! ### Appends (R129) -/

theorem State.putLoc_eq (s : State) (p : Place) (bs : List Byte) :
    s.putLoc p bs = (s.copies p).foldl (fun (s : State) q => s.setBytes q bs) s := by
  cases p with
  | core n off =>
    simp only [State.putLoc, State.copies]
    split
    · rfl
    · rw [State.putCore, List.foldl_map]
  | dram a | host a | peer a | sram o | tbuf n o => rfl

/-- Located writes are the writes of their bytes, one after the other. -/
theorem State.writeLocs_eq (s : State) (ws : List (Loc × List Byte)) : s.writeLocs ws = s.written ws := by
  induction ws generalizing s with
  | nil => rfl
  | cons w ws ih =>
    obtain ⟨l, bs⟩ := w
    rw [State.writeLocs, State.written, ih]
    cases l.place with
    | none => rfl
    | some p => exact congrArg (fun t : State => t.written ws) (s.putLoc_eq p bs)

theorem logWrites_placed {ws : List (Loc × List Byte)} (h : ∀ w ∈ ws, w.1.place.isSome = true) (vf ctx : Nat) (gen : Option Nat) :
    logWrites vf ctx gen .write ws = [] := by
  cases ws with
  | nil => rfl
  | cons w ws =>
    have hnone : (w :: ws).filter (fun x => x.1.place.isNone) = [] := by
      rw [List.filter_eq_nil_iff]
      intro x hx
      rw [Option.isNone_iff_eq_none]
      exact fun hn => by have := h x hx; rw [hn] at this; cases this
    rw [logWrites, hnone]
    · rfl
    · exact List.cons_ne_nil _ _

/-- What writing bytes leaves of every core: whatever does not read its memories. -/
theorem State.setByte_core {α : Type} (f : CoreSt → α) (hmem : ∀ c m b, f { c with mem := m, memBad := b } = f c)
    (htbuf : ∀ c m b, f { c with tbuf := m, tbufBad := b } = f c) (s : State) (p : Place) (b : Byte) (n : Nat) :
    f ((s.setByte p b).core n) = f (s.core n) := by
  cases p with
  | core m off =>
    rw [State.setByte, State.core_setCore_if]
    split
    · next h => rw [h]; exact hmem _ _ _
    · rfl
  | tbuf m off =>
    rw [State.setByte, State.core_setCore_if]
    split
    · next h => rw [h]; exact htbuf _ _ _
    · rfl
  | dram _ | host _ | peer _ | sram _ => rfl

/-- Two states that read alike and name the same core, whose cores are paired alike. -/
structure State.Alike (s t : State) : Prop where
  bytes : s.sameBytes t
  cur : t.cur = s.cur
  pair : ∀ n, (t.core n).pair = (s.core n).pair

theorem State.Alike.setByte {s t : State} (h : s.Alike t) (p : Place) (b : Byte) : (s.setByte p b).Alike (t.setByte p b) where
  bytes q := by rw [State.byteAt_setByte, State.byteAt_setByte, h.bytes]
  cur := by rw [State.setByte_cur, State.setByte_cur, h.cur]
  pair n := by
    have hpair := State.setByte_core (·.pair) (fun _ _ _ => rfl) (fun _ _ _ => rfl)
    exact (hpair t p b n).trans ((h.pair n).trans (hpair s p b n).symm)

theorem State.Alike.setBytes {s t : State} (h : s.Alike t) (p : Place) (bs : List Byte) : (s.setBytes p bs).Alike (t.setBytes p bs) := by
  induction bs generalizing s t p with
  | nil => exact h
  | cons b bs ih => exact ih (h.setByte p b) (p.plus 1)

theorem State.Alike.copies {s t : State} (h : s.Alike t) (p : Place) : t.copies p = s.copies p := by
  cases p with
  | core n off => simp only [State.copies, State.pairCores, h.cur, h.pair]
  | dram _ | host _ | peer _ | sram _ | tbuf _ _ => rfl

theorem State.Alike.written {s t : State} (h : s.Alike t) (ws : List (Loc × List Byte)) : (s.written ws).Alike (t.written ws) := by
  have hfold : ∀ (ps : List Place) (bs : List Byte) {s t : State}, s.Alike t →
      (ps.foldl (fun (s : State) q => s.setBytes q bs) s).Alike (ps.foldl (fun (s : State) q => s.setBytes q bs) t) := by
    intro ps bs
    induction ps with
    | nil => exact fun h => h
    | cons p ps ih => exact fun h => ih (h.setBytes p bs)
  induction ws generalizing s t with
  | nil => exact h
  | cons w ws ih =>
    obtain ⟨l, bs⟩ := w
    rw [State.written, State.written]
    cases l.place with
    | none => exact ih h
    | some p =>
      refine ih ?_
      dsimp only
      rw [h.copies]
      exact hfold _ bs h

theorem State.alike_setMy (s : State) (x : Ctx) : s.Alike (s.setMy x) where
  bytes p := s.byteAt_setMy x p
  cur := rfl
  pair n := by
    rw [State.core_setMy]
    split
    · next h => rw [h]; rfl
    · rfl

/-- Writing bytes leaves the issuing context. -/
theorem State.setBytes_my (s : State) (p : Place) (bs : List Byte) : (s.setBytes p bs).my = s.my := by
  induction bs generalizing s p with
  | nil => rfl
  | cons b bs ih =>
    have hctxs := State.setByte_core (·.ctxs) (fun _ _ _ => rfl) (fun _ _ _ => rfl) s p b s.cur.core
    rw [State.setBytes, ih, State.my, State.me, State.setByte_cur, CoreSt.ctx, hctxs]
    rfl

theorem State.written_my (s : State) (ws : List (Loc × List Byte)) : (s.written ws).my = s.my := by
  have hfold : ∀ (ps : List Place) (bs : List Byte) (s : State), (ps.foldl (fun (s : State) q => s.setBytes q bs) s).my = s.my := by
    intro ps bs
    induction ps with
    | nil => exact fun _ => rfl
    | cons p ps ih => exact fun s => (ih _).trans (s.setBytes_my p bs)
  induction ws generalizing s with
  | nil => rfl
  | cons w ws ih =>
    obtain ⟨l, bs⟩ := w
    rw [State.written, ih]
    cases l.place with
    | none => rfl
    | some p => exact hfold _ bs s

/-- The words of a chunk. -/
def chunkBytes (v : Vec) : List (List Byte) := (List.range 32).map fun k => leBytes 4 (v.extractLsb' (32 * k) 32).toNat

/-- An append by a context with nothing under way, whose chunk is mapped and whose earlier appends are all performed. -/
theorem State.storeLocs_append {s : State} {ls : List Loc} {bs : List (List Byte)} {j : Nat} (hcalm : s.calm) (hplaced : placed ls)
    (hgen : ∀ x ∈ s.me.slog, x.ctx = s.cur.ctx → x.gen ≠ some j) : s.storeLocs (ls.zip bs) (some j) = .ok (s.written (ls.zip bs)) := by
  have hlog : (s.me.slog.any fun x => x.ctx == s.cur.ctx && x.gen == some j) = false := by
    rw [List.any_eq_false]
    intro x hx h
    rw [Bool.and_eq_true, beq_iff_eq, beq_iff_eq] at h
    exact hgen x hx h.1 h.2
  unfold State.storeLocs
  rw [State.clearOf_calm hcalm, hlog, logWrites_placed fun w hw => hplaced w.1 (List.of_mem_zip hw).1, ← State.writeLocs_eq]
  exact congrArg Except.ok (if_pos (by simp))

theorem chunkItems_zip (a : Word) (v : Vec) :
    ((chunkItems a).zip (chunkBytes v)).map (·.1) = chunkItems a ∧ ((chunkItems a).zip (chunkBytes v)).map (·.2) = chunkBytes v := by
  have hi : (chunkItems a).length = 32 := by rw [chunkItems, List.length_map, List.length_range]
  have hb : (chunkBytes v).length = 32 := by rw [chunkBytes, List.length_map, List.length_range]
  exact ⟨List.map_fst_zip (by rw [hi, hb]), List.map_snd_zip (by rw [hi, hb])⟩

/-- A result appended to a bound register: the chunk is written, and the write cursor moves on (R129). -/
theorem State.putV_append {s u : State} {r : Nat} {g : Stream} {v : Vec} {ls : List Loc} (hs : s.my.stream r = some g)
    (hgo : ¬(g.dir = 1 ∨ g.count.toNat ≤ g.wc))
    (hcheck : s.check g.space' .store { streamInfo true g with write := true } (chunkItems (g.chunk g.wc)) = .ok (ls, u))
    (hcalm : u.calm) (hplaced : placed ls) (hgen : ∀ x ∈ u.me.slog, x.ctx = u.cur.ctx → x.gen ≠ some (r - 28)) :
    s.putV r v = .ok ((u.written (ls.zip (chunkBytes v))).setMy
      ((u.written (ls.zip (chunkBytes v))).my.popped r v { g with wc := g.wc + 1 })) := by
  obtain ⟨hfst, hsnd⟩ := chunkItems_zip (g.chunk g.wc) v
  have hwrite : s.writeItems g.space' (streamInfo true g) ((chunkItems (g.chunk g.wc)).zip (chunkBytes v)) (some (r - 28)) =
      .ok (u.written (ls.zip (chunkBytes v))) := by
    unfold State.writeItems
    rw [hfst, hsnd, hcheck]
    change s.keeping _ _ _ (u.storeLocs _ _) = _
    rw [State.storeLocs_append hcalm hplaced hgen]
    rfl
  unfold State.putV
  rw [hs]
  dsimp only
  rw [if_neg hgo]
  change (s.writeItems _ _ ((chunkItems (g.chunk g.wc)).zip (chunkBytes v)) _ >>= _) = _
  rw [hwrite]
  rfl

theorem State.putV_stop {s : State} {r : Nat} {g : Stream} (hs : s.my.stream r = some g) (hend : g.dir = 1 ∨ g.count.toNat ≤ g.wc)
    (v : Vec) : s.putV r v =
      .error (.trap 0x09 (g.chunk g.wc) ({ stream := true, write := true, space := g.space } : AddrInfo).word) := by
  unfold State.putV
  rw [hs]
  exact if_pos hend

theorem State.calm_setMy {s : State} (h : s.calm) {x : Ctx} (hx : x.streams = s.my.streams) : (s.setMy x).calm := by
  obtain ⟨hflight, hspe, hegu⟩ := h
  refine ⟨hflight, fun p hp => hspe p ?_, fun p hp hctx => ?_⟩
  · rw [State.me_setMy] at hp; exact hp
  · rw [State.me_setMy] at hp
    rw [State.my_setMy, Ctx.stream, hx]
    exact hegu p hp hctx

/-- VMOV from an unbound register to one whose generator takes an append. -/
theorem exec_vmov_append {s u : State} {d a : Reg5} {q : Reg3} {g : Stream} {ls : List Loc} (hg : s.guardOn q = true) (e : ES)
    (ha : s.my.stream a.toNat = none) (hd : s.my.stream d.toNat = some g) (hgo : ¬(g.dir = 1 ∨ g.count.toNat ≤ g.wc))
    (hcheck : s.check g.space' .store { streamInfo true g with write := true } (chunkItems (g.chunk g.wc)) = .ok (ls, u))
    (hcalm : u.calm) (hplaced : placed ls) (hgen : ∀ x ∈ u.me.slog, x.ctx = s.cur.ctx → x.gen ≠ some (d.toNat - 28)) :
    ∃ t, exec (.vmov e d a none q) s = .next t ∧ (∀ b, t.byteAt b = (u.written (ls.zip (chunkBytes (s.getV a)))).byteAt b) ∧
      t.getV d = s.getV a ∧ (tget {} t.my.streams (d.toNat - 28)).wc = g.wc + 1 ∧ u.movesOn t 1 := by
  obtain ⟨hcur, hmy⟩ := State.check_frame hcheck
  have hpop : s.pop a.toNat = .ok s := by unfold State.pop; rw [ha]
  have hcheck' : (s.setMy s.my.reflagged).check g.space' .store { streamInfo true g with write := true } (chunkItems (g.chunk g.wc)) =
      .ok (ls, u.setMy s.my.reflagged) := by
    rw [State.check_setMy s s.my.reflagged rfl, hcheck]
    rfl
  have hcalm' : (u.setMy s.my.reflagged).calm := State.calm_setMy hcalm (by rw [hmy]; rfl)
  have hput := State.putV_append (v := s.getV a) (s := s.setMy s.my.reflagged) (r := d.toNat)
    (by rw [State.my_setMy, Ctx.stream_reflagged, hd]) hgo hcheck' hcalm' hplaced (fun x hx hctx => by
      rw [State.me_setMy] at hx
      exact hgen x hx (hctx.trans (congrArg (·.ctx) hcur)))
  have hwmy := (u.setMy s.my.reflagged).written_my (ls.zip (chunkBytes (s.getV a)))
  rw [State.my_setMy] at hwmy
  generalize hw : (u.setMy s.my.reflagged).written (ls.zip (chunkBytes (s.getV a))) = w at hput hwmy
  refine ⟨(w.setMy (w.my.popped d.toNat (s.getV a) { g with wc := g.wc + 1 })).advance 1, ?_, fun b => ?_, ?_, ?_, ?_⟩
  · rw [exec_vmov hg, hpop]
    change s.run (State.putV _ _ _ >>= _) = _
    rw [hput]
    rfl
  · rw [State.byteAt_advance, State.byteAt_setMy, ← hw]
    exact ((u.alike_setMy s.my.reflagged).written _).bytes b
  · rw [State.getV, State.my_advance, State.my_setMy, Ctx.getV_next, Ctx.getV_awake]
    exact Ctx.getV_setV _ _ _
  · rw [State.my_advance, State.my_setMy, Ctx.next_streams, Ctx.awake_streams]
    exact congrArg Stream.wc (tget_tput_self _ _ _ _)
  · refine State.movesOn_of_pc (x := w.my.popped d.toNat (s.getV a) { g with wc := g.wc + 1 }) ?_ ?_ ?_
    · rw [State.my_advance, State.my_setMy]
    · rw [hwmy, hmy]
      rfl
    · rw [hwmy, hmy]
      exact Ctx.replay_reflagged s.my

/-- Settles O20: SBIND reads its descriptor, lane-wise instructions pop, and VMOV appends. -/
theorem streamBinding : Obligations.StreamBinding := by
  refine ⟨fun s j a g hg => ⟨fun hown hcalm hin hal hgood => ⟨fun hok => ?_, fun hbad => ?_⟩, fun hown => ?_, fun hown i hi => ?_⟩,
    fun i s l r g hl hg hr hother hs hend => ?_, fun s e d a q g hq => ⟨fun ha hd hdir hleft => ⟨fun bs u hahead hread => ?_,
      fun v rest ls u hahead hcheck hplaced => ?_⟩, fun ha hd => ⟨fun hend => ?_, fun ls u hdir hleft hcheck hcalm hplaced hgen => ?_⟩⟩⟩
  · have hdesc := describes_streamOf s (.core s.cur.core (s.getG a).toNat)
    have hre := s.rebinds j.toNat (streamOf (s.bytesAt (.core s.cur.core (s.getG a).toNat) 32))
    refine ⟨_, streamOf (s.bytesAt (.core s.cur.core (s.getG a).toNat) 32), ?_, ?_, hdesc.rc, hdesc.wc, hdesc.ahead, hdesc.base, hdesc.stride,
      hdesc.count, hdesc.wrap, hdesc.dir, hdesc.space, hre.g, hre.p, hre.v, hre.a, hre.sys, hre.others, hre.onlyMy, hre.bytes, hre.moves⟩
    · rw [exec_sbind hg hown hcalm hin hal hgood, hok]
      rfl
    · rw [Ctx.stream_eq, hre.own, hdesc.bound]
      rfl
  · rw [exec_sbind hg hown hcalm hin hal hgood, hbad]
    rfl
  · have hre := s.rebinds j.toNat { tget {} s.my.streams j.toNat with bound := false, ahead := [] }
    refine ⟨_, exec_sfree hg hown, ?_, hre.g, hre.p, hre.v, hre.a, hre.sys, hre.others, hre.onlyMy, hre.bytes, hre.moves⟩
    rw [Ctx.stream_eq, hre.own]
    rfl
  · refine ⟨_, exec_bound_held hg hown a i hi, ?_⟩
    rw [State.holdOn_none_my]
    exact ⟨rfl, rfl, fun _ => rfl, fun _ => rfl, fun _ => rfl, fun _ => rfl, fun _ => rfl, rfl⟩
  · obtain ⟨k, hk⟩ := exec_pops hl hg
    have hpops : s.pops (l.map (·.toNat)) = .error _ := State.popEach_stop (mem_distinct.mpr (List.mem_map_of_mem hr)) (State.pop_stop hs hend)
      fun n hn hne => by
        obtain ⟨p, hp, rfl⟩ := List.mem_map.mp (mem_distinct.mp hn)
        exact hother p hp fun h => hne (congrArg _ h)
    rw [hk, hpops]
    rfl
  · have hgo : ¬(g.dir = 2 ∨ g.count.toNat ≤ g.rc) := fun h => h.elim hdir (by omega)
    obtain ⟨ls, hcheck⟩ := State.check_of_readItems hread
    obtain ⟨t, ht, hv, hbytes, hstream, hmoves⟩ := exec_vmov_pop hq e ha hd (State.check_frame hcheck).2 (State.pop_read ha hgo hahead hread)
    exact ⟨t, ht, hv, hbytes, congrArg (·.rc) hstream, hmoves⟩
  · have hgo : ¬(g.dir = 2 ∨ g.count.toNat ≤ g.rc) := fun h => h.elim hdir (by omega)
    obtain ⟨t, ht, hv, hbytes, hstream, hmoves⟩ := exec_vmov_pop hq e ha hd (State.check_frame hcheck).2
      (State.pop_ahead ha hgo hahead hcheck hplaced)
    exact ⟨t, ht, hv, hbytes, congrArg (·.rc) hstream, congrArg (·.ahead) hstream, hmoves⟩
  · have hpop : s.pop a.toNat = .ok s := by unfold State.pop; rw [ha]
    rw [exec_vmov hq, hpop]
    change s.run (State.putV _ _ _ >>= _) = _
    rw [State.putV_stop (by rw [State.my_setMy, Ctx.stream_reflagged, hd]) hend]
    rfl
  · exact exec_vmov_append hq e ha hd (fun h => h.elim hdir (by omega)) hcheck hcalm hplaced hgen

end Sys2Proof.Machine
end

section
/-! PROOF. The start of a task on a core to which the translator mapped a virtual core of a program (R300, R361). -/

namespace Sys2Proof.Machine

open Sys2Proof

/-- A task at 0x1000 in the share of core 0, whose control context is a virtual core that begins at 0x2000. -/
def mappedTask : Placed := { launch := 0, index := 0, bits := BitVec.ofNat 1024 0x1000, vf := 4 }
def mappedState : State :=
  { State.reset with cores := [(0, { share := [mappedTask] })], programs := [(4, [{ cores := [(0, 0)], entries := [(0x2000, 7)] }])] }

/-- The virtual core begins in the place of the task: at its own ENTRY. -/
theorem mappedState_starts : (((mappedState.startShare 0).startVirtual 0).ctxAt 0 0).pc = 0x2000 := by decide +kernel

theorem exec_taskStart {s : State} {core : Nat} (h : (s.core core).taskOn = false) :
    exec (.taskStart core) s = .next ((s.startShare core).startVirtual core) := by
  change execTaskStart core s = _
  rw [execTaskStart, h, if_neg Bool.false_ne_true]

/-- Refutes O52: the first task on a core after the load of a program that maps a virtual core to its control context does not start at
its record's entry; the virtual core's ENTRY takes its place (log 32). -/
theorem not_launchEvents : ¬Obligations.LaunchEvents := by
  rintro ⟨-, -, -, -, hstart, -⟩
  obtain ⟨hone, -⟩ := hstart mappedState 0 mappedTask
  obtain ⟨t, ht, ⟨-, -, -, hpc, -⟩, -⟩ := hone (by decide +kernel) rfl (by decide +kernel)
  rw [exec_taskStart (by decide +kernel)] at ht
  injection ht with ht
  rw [← ht, mappedState_starts] at hpc
  exact absurd hpc (by decide +kernel)

end Sys2Proof.Machine
end

section
/-! PROOF. Forced pre-emption of a domain, its save and its resumption, and the scrub of a core (R41, R309-R311). -/

namespace Sys2Proof.Machine

open Sys2Proof

/-! ### Work on the cores of a domain, one after the other -/

/-- What each step establishes for its own element, and keeps for every other, holds for all of them in the end. -/
theorem foldl_forall {σ α : Type} {P : σ → α → Prop} {R : α → α → Prop} {f : σ → α → σ} (hown : ∀ s a, P (f s a) a)
    (hkeep : ∀ s a b, P s a → R a b → P (f s b) a) (l : List α) (s : σ) (hl : l.Pairwise R) : ∀ a ∈ l, P (l.foldl f s) a := by
  have hrest : ∀ (l : List α) s a, P s a → (∀ b ∈ l, R a b) → P (l.foldl f s) a := by
    intro l
    induction l with
    | nil => exact fun s a h _ => h
    | cons b l ih =>
      exact fun s a h hr => ih (f s b) a (hkeep s a b h (hr b (List.mem_cons_self ..))) fun c hc => hr c (List.mem_cons_of_mem _ hc)
  induction l generalizing s with
  | nil => exact fun a ha => nomatch ha
  | cons b l ih =>
    obtain ⟨hb, hl⟩ := List.pairwise_cons.mp hl
    intro a ha
    rcases List.mem_cons.mp ha with rfl | ha
    · exact hrest l (f s a) a (hown s a) hb
    · exact ih (f s b) hl a ha

/-- The same where a step on another core leaves a core as it was. -/
theorem foldl_cores {P : State → Nat → Prop} {f : State → Nat → State} (hown : ∀ s a, P (f s a) a)
    (hkeep : ∀ s a b, P s a → a ≠ b → P (f s b) a) (l : List Nat) (s : State) : ∀ a ∈ l, P (l.foldl f s) a := by
  refine foldl_forall (R := fun _ _ => True) hown (fun s a b h _ => ?_) l s (List.pairwise_of_forall fun _ _ => trivial)
  by_cases hab : a = b
  · rw [hab]; exact hown s b
  · exact hkeep s a b h hab

/-- What no step changes is as it was. -/
theorem foldl_field {σ α β : Type} (g : σ → β) {f : σ → α → σ} (hf : ∀ s a, g (f s a) = g s) (l : List α) (s : σ) :
    g (l.foldl f s) = g s := by
  induction l generalizing s with
  | nil => rfl
  | cons a l ih => exact (ih (f s a)).trans (hf s a)

/-! ### Stopping (R309) -/

/-- What an SC operation's leaving S changes of a core: its side log only. -/
theorem State.dropSc_core {α : Type} (g : CoreSt → α) (hg : ∀ c l, g { c with slog := l } = g c) (s : State) (n : Nat) (k : Nat → Bool)
    (m : Nat) : g ((s.dropSc n k).core m) = g (s.core m) := by
  unfold State.dropSc
  dsimp only
  split
  · rw [State.core_setCore_if]
    split
    · next h => rw [h]; exact hg _ _
    · rfl
  · rfl

@[simp] theorem State.byteAt_dropSc (s : State) (n : Nat) (k : Nat → Bool) (p : Place) : (s.dropSc n k).byteAt p = s.byteAt p := by
  unfold State.dropSc
  dsimp only
  split
  · exact State.byteAt_setCore_own _ _ _ p
  · exact State.byteAt_of_eq p

theorem State.dropSc_preempts (s : State) (n : Nat) (k : Nat → Bool) : (s.dropSc n k).preempts = s.preempts := by
  unfold State.dropSc
  dsimp only
  split <;> rfl

/-- A core stopped for a save: no context of it holds. -/
def CoreSt.Stopped (c : CoreSt) : Prop := c.preempting = true ∧ ∀ e ∈ c.ctxs, e.2.run ≠ .holding

theorem CoreSt.stopForSave_stopped (c : CoreSt) : c.stopForSave.Stopped := by
  refine ⟨rfl, fun e he => ?_⟩
  obtain ⟨e, -, rfl⟩ := List.mem_map.mp he
  dsimp only
  split
  · exact Run.noConfusion
  · assumption

/-- A core's step of a pre-emption. -/
def State.stopCore (s : State) (c : Nat) : State := (s.setCore c (s.core c).stopForSave).dropSc c fun _ => true

theorem State.stopCore_stopped (s : State) (c : Nat) : ((s.stopCore c).core c).Stopped := by
  have h := State.dropSc_core CoreSt.Stopped (fun _ _ => rfl) (s.setCore c (s.core c).stopForSave) c (fun _ => true) c
  rw [State.core_setCore] at h
  exact h.mpr (s.core c).stopForSave_stopped

theorem State.stopCore_stopped_ne {s : State} {a : Nat} (h : (s.core a).Stopped) (b : Nat) (hab : a ≠ b) : ((s.stopCore b).core a).Stopped := by
  have hs := State.dropSc_core CoreSt.Stopped (fun _ _ => rfl) (s.setCore b (s.core b).stopForSave) b (fun _ => true) a
  rw [State.core_setCore_ne _ _ hab] at hs
  exact hs.mpr h

theorem State.byteAt_stopCore (s : State) (c : Nat) (p : Place) : (s.stopCore c).byteAt p = s.byteAt p :=
  (State.byteAt_dropSc _ _ _ p).trans (s.byteAt_setCore_own c _ p)

/-! ### Draining (R309, R214) -/

/-- The flags of one instruction that leaves the sum-product engine change its own core only, and no memory. -/
theorem State.speFlags_core (s : State) (core : Nat) (p : SpePend) {n : Nat} (h : n ≠ core) :
    ((s.at core p.ctx).speFlags p).core n = s.core n := State.core_setCore_ne _ _ h

theorem State.byteAt_speFlags (s : State) (core : Nat) (p : SpePend) (q : Place) : ((s.at core p.ctx).speFlags p).byteAt q = s.byteAt q :=
  (State.byteAt_setMe_own (s.at core p.ctx) _ q).trans (s.byteAt_at core p.ctx q)

theorem State.speDrain_own (s : State) (core : Nat) : ((s.speDrain core).core core).spe = [] :=
  congrArg CoreSt.spe (State.core_setCore _ core _)

theorem State.speDrain_core_ne (s : State) {core n : Nat} (h : n ≠ core) : (s.speDrain core).core n = s.core n :=
  (State.core_setCore_ne _ _ h).trans
    (foldl_field (fun s : State => s.core n) (fun (s : State) (p : SpePend) => s.speFlags_core core p h) (s.core core).spe s)

theorem State.byteAt_speDrain (s : State) (core : Nat) (q : Place) : (s.speDrain core).byteAt q = s.byteAt q :=
  (State.byteAt_setCore_own _ core _ q).trans (State.byteAt_foldl (fun s p => s.byteAt_speFlags core p) _ s q)

theorem State.speDrain_preempts (s : State) (core : Nat) : (s.speDrain core).preempts = s.preempts :=
  foldl_field (·.preempts) (fun (s : State) (p : SpePend) => (rfl : ((s.at core p.ctx).speFlags p).preempts = s.preempts)) _ s

/-! ### The pre-emption's record -/

theorem State.preemptOf_eq_some {s : State} {lvl dom : Nat} {p : Preempt} (h : s.preemptOf (lvl, dom) = some p) :
    p ∈ s.preempts ∧ p.save = true ∧ p.lvl = lvl ∧ p.dom = dom := by
  have hp := List.find?_some h
  simp only [Bool.and_eq_true, beq_iff_eq] at hp
  exact ⟨List.mem_of_find?_eq_some h, hp.1.1, hp.1.2, hp.2⟩

theorem State.mem_setPreempt {s : State} {p q : Preempt} (h : p ∈ s.preempts) (hsave : p.save = true) (hlvl : q.lvl = p.lvl)
    (hdom : q.dom = p.dom) : q ∈ (s.setPreempt q).preempts :=
  List.mem_map.mpr ⟨p, h, if_pos ⟨hsave, hlvl.symm, hdom.symm⟩⟩

/-! ### The firmware switch of an idle core (R376) -/

/-- What a firmware switch of a core or a bank leaves: whatever does not read the marks of the switch nor EMUBASE. -/
structure FwBlind {α : Type} (g : CoreSt → α) : Prop where
  ctx : ∀ (c : CoreSt) k, g (c.setCtx k { c.ctx k with fwPending := false }) = g c
  bank : ∀ (c : CoreSt) v b, g { c.setSysr 0x110 v with fwBank := b } = g c
  done : ∀ c : CoreSt, g { c with fwPending := false } = g c

/-- The core that a firmware switch puts in a core's place: its bank's mark cleared, then its own bank changed. -/
def CoreSt.fwUnmarked (c : CoreSt) (core k : Nat) : CoreSt :=
  if Config.isReflex core then c.setCtx k { c.ctx k with fwPending := false } else c
def CoreSt.fwBanked (c : CoreSt) (old : Bool) : CoreSt :=
  if c.fwBank == old then { c.setSysr 0x110 (bankTable (!old)) with fwBank := !old } else c
def State.fwSwitched (s : State) (core k : Nat) : CoreSt := ((s.core core).fwUnmarked core k).fwBanked (s.fwstat.getLsbD 63)

theorem State.fwSwitch_eq (s : State) (core k : Nat) : s.fwSwitch core k =
    if !(s.core core).fwPending then s
    else if Config.isReflex core && (s.fwSwitched core k).ctxs.any (fun e => e.2.fwPending) then s.setCore core (s.fwSwitched core k)
    else (s.setCore core { s.fwSwitched core k with fwPending := false }).fwCount := rfl

theorem State.fwSwitched_blind {α : Type} {g : CoreSt → α} (h : FwBlind g) (s : State) (core k : Nat) :
    g (s.fwSwitched core k) = g (s.core core) := by
  have hmark : g ((s.core core).fwUnmarked core k) = g (s.core core) := by
    unfold CoreSt.fwUnmarked
    split
    · exact h.ctx _ k
    · rfl
  unfold State.fwSwitched CoreSt.fwBanked
  split
  · exact (h.bank _ _ _).trans hmark
  · exact hmark

theorem State.fwSwitch_core {α : Type} {g : CoreSt → α} (h : FwBlind g) (s : State) (core k n : Nat) :
    g ((s.fwSwitch core k).core n) = g (s.core n) := by
  have hset : ∀ c, g c = g (s.core core) → g ((s.setCore core c).core n) = g (s.core n) := by
    intro c hc
    rw [State.core_setCore_if]
    split
    · next hn => rw [hc, hn]
    · rfl
  rw [State.fwSwitch_eq]
  split
  · rfl
  split
  · exact hset _ (s.fwSwitched_blind h core k)
  · exact hset { s.fwSwitched core k with fwPending := false } ((h.done _).trans (s.fwSwitched_blind h core k))

theorem State.byteAt_fwSwitch (s : State) (core k : Nat) (p : Place) : (s.fwSwitch core k).byteAt p = s.byteAt p := by
  have hmem : (s.fwSwitched core k).mem = (s.core core).mem :=
    s.fwSwitched_blind (g := CoreSt.mem) ⟨fun _ _ => rfl, fun _ _ _ => rfl, fun _ => rfl⟩ core k
  have htbuf : (s.fwSwitched core k).tbuf = (s.core core).tbuf :=
    s.fwSwitched_blind (g := CoreSt.tbuf) ⟨fun _ _ => rfl, fun _ _ _ => rfl, fun _ => rfl⟩ core k
  rw [State.fwSwitch_eq]
  split
  · rfl
  split
  · exact s.byteAt_setCore_own core _ p hmem htbuf
  · exact (State.byteAt_of_eq p).trans (s.byteAt_setCore_own core { s.fwSwitched core k with fwPending := false } p hmem htbuf)

theorem State.fwSwitch_preempts (s : State) (core k : Nat) :
    (s.fwSwitch core k).preempts = s.preempts ∧ (s.fwSwitch core k).leaving = s.leaving := by
  rw [State.fwSwitch_eq]
  split
  · exact ⟨rfl, rfl⟩
  split <;> exact ⟨rfl, rfl⟩

/-- An idle core's switch is none, or some switches, one after the other. -/
theorem State.fwIdle_eq (s : State) (core : Nat) : ∃ l : List Nat, s.fwIdle core = l.foldl (fun s b => s.fwSwitch core b) s := by
  unfold State.fwIdle
  split
  · exact ⟨_, rfl⟩
  split
  · exact ⟨[0], rfl⟩
  · exact ⟨[], rfl⟩

theorem State.fwIdle_core {α : Type} {g : CoreSt → α} (h : FwBlind g) (s : State) (core n : Nat) :
    g ((s.fwIdle core).core n) = g (s.core n) := by
  obtain ⟨l, hl⟩ := s.fwIdle_eq core
  rw [hl]
  exact foldl_field (fun s : State => g (s.core n)) (fun (s : State) k => s.fwSwitch_core h core k n) l s

theorem State.byteAt_fwIdle (s : State) (core : Nat) (p : Place) : (s.fwIdle core).byteAt p = s.byteAt p := by
  obtain ⟨l, hl⟩ := s.fwIdle_eq core
  rw [hl]
  exact State.byteAt_foldl (fun s k => s.byteAt_fwSwitch core k) l s p

theorem State.fwIdle_preempts (s : State) (core : Nat) :
    (s.fwIdle core).preempts = s.preempts ∧ (s.fwIdle core).leaving = s.leaving := by
  obtain ⟨l, hl⟩ := s.fwIdle_eq core
  rw [hl]
  exact ⟨foldl_field (·.preempts) (fun (s : State) k => (s.fwSwitch_preempts core k).1) l s,
    foldl_field (·.leaving) (fun (s : State) k => (s.fwSwitch_preempts core k).2) l s⟩

/-! ### Saving (R309) -/

theorem State.setBytes_preempts (s : State) (p : Place) (bs : List Byte) : (s.setBytes p bs).preempts = s.preempts := by
  induction bs generalizing s p with
  | nil => rfl
  | cons b bs ih =>
    have hbyte : (s.setByte p b).preempts = s.preempts := by cases p <;> rfl
    exact (ih _ _).trans hbyte

theorem State.xlateSecond_preempts (s : State) (who : Asker) (acc : Acc) (va : Nat) :
    (s.xlateSecond who acc va).2.2.preempts = s.preempts := by
  have hwalk : (s.xlateWalk who acc va).2.2.preempts = s.preempts := by
    have hmark : ∀ l, (s.markLeaf l acc).preempts = s.preempts := by
      intro l
      unfold State.markLeaf
      split
      · rfl
      · exact s.setBytes_preempts _ _
    unfold State.xlateWalk
    cases s.walk who.vf va with
    | leaf l =>
      dsimp only
      cases l.refusal who acc with
      | some k => rfl
      | none => cases who.cluster <;> exact hmark l
    | absent | invalid | noRoot | malformed => rfl
  rcases s.xlateSecond_cases who acc va with ⟨e, p, h⟩ | h
  · rw [(h s.my).1]
  · rw [(h s.my).1, hwalk]

theorem State.locate_preempts {s : State} {l : List Preempt} (h : s.preempts = l) (who : Asker) (acc : Acc) (bad : List Nat)
    (cs : List (Nat × Nat)) : EndsIn (·.2.preempts = l) (·.2.preempts = l) (s.locate who acc bad cs) := by
  induction cs generalizing s with
  | nil => exact h
  | cons c cs ih =>
    have hsecond := (s.xlateSecond_preempts who acc c.1).trans h
    unfold State.locate
    refine endsIn_ite h (endsIn_ite h ?_)
    split
    · next hx =>
      rw [hx] at hsecond
      exact endsIn_ite hsecond (endsIn_bind (ih hsecond) fun _ hs => hs)
    all_goals exact h

theorem State.putPieces_preempts (s : State) (ps : List (Place × Nat)) (bs : List Byte) : (s.putPieces ps bs).preempts = s.preempts := by
  induction ps generalizing s bs with
  | nil => rfl
  | cons p ps ih => exact (ih _ _).trans (s.setBytes_preempts _ _)

theorem State.writeSave_preempts {s u : State} {p : Placed} {core : Nat} (h : s.writeSave p core = .ok u) : u.preempts = s.preempts := by
  unfold State.writeSave at h
  dsimp only at h
  have hlocate := State.locate_preempts (s := s) rfl { vf := p.vf, cluster := some (clusterOf core), lcap := 15, replica := s.now } .store []
    (cuts (recSave p.bits) (saveBytes p.bits))
  split at h
  · next hl =>
    cases h
    have ht := of_endsIn_ok hl hlocate
    exact (State.putPieces_preempts _ _ _).trans ht
  · cases h
  · cases h
  · next hl =>
    cases h
    have ht := of_endsIn_error hl hlocate
    exact ht

theorem State.writeSaves_preempts {s u : State} {cs : List Nat} (h : s.writeSaves cs = .ok u) : u.preempts = s.preempts := by
  induction cs generalizing s with
  | nil => cases h; rfl
  | cons c cs ih =>
    rw [State.writeSaves] at h
    split at h
    · exact ih h
    · cases hsave : s.writeSave _ c with
      | error e => rw [hsave] at h; cases h
      | ok t =>
        rw [hsave] at h
        exact (ih h).trans (State.writeSave_preempts hsave)

/-- A core that its save has left. -/
def CoreSt.Vacated (c : CoreSt) : Prop := c.clearing = true ∧ c.share = [] ∧ c.preempting = false

/-- A core's step after the save. -/
def State.vacateCore (t : State) (c : Nat) : State := (t.setCore c (t.core c).vacate).fwIdle c

theorem vacated_fwBlind : FwBlind CoreSt.Vacated := ⟨fun _ _ => rfl, fun _ _ _ => rfl, fun _ => rfl⟩

theorem State.vacateCore_own (t : State) (c : Nat) : ((t.vacateCore c).core c).Vacated := by
  have h := (t.setCore c (t.core c).vacate).fwIdle_core vacated_fwBlind c c
  rw [State.core_setCore] at h
  exact h.mpr ⟨rfl, rfl, rfl⟩

theorem State.vacateCore_ne {t : State} {a : Nat} (h : (t.core a).Vacated) (b : Nat) (hab : a ≠ b) : ((t.vacateCore b).core a).Vacated := by
  have hb := (t.setCore b (t.core b).vacate).fwIdle_core vacated_fwBlind b a
  rw [State.core_setCore_ne _ _ hab] at hb
  exact hb.mpr h

theorem State.byteAt_vacateCore (t : State) (c : Nat) (p : Place) : (t.vacateCore c).byteAt p = t.byteAt p :=
  (State.byteAt_fwIdle _ c p).trans (t.byteAt_setCore_own c _ p)

theorem State.vacateCore_preempts (t : State) (c : Nat) : (t.vacateCore c).preempts = t.preempts := (State.fwIdle_preempts _ c).1

/-! ### Resumption (R310) -/

/-- A core holds a saved share again, in a superstep of d. -/
def CoreSt.Resumed (c : CoreSt) (d : Nat × Nat) (k : SavedCore) : Prop :=
  c.inStep = some d ∧ c.share = k.share ∧ c.taskOn = k.taskOn ∧ c.xph = k.xph

/-- What one entry of a checkpoint area reloads: registers of the issuing core. -/
structure CkptBlind {α : Type} (g : CoreSt → α) : Prop where
  ctx : ∀ (c : CoreSt) k x, g (c.setCtx k x) = g c
  sysr : ∀ (c : CoreSt) n v, g (c.setSysr n v) = g c
  tile : ∀ (c : CoreSt) i v, g (c.setTile i v) = g c

theorem State.setMe_field {α : Type} (g : CoreSt → α) (s : State) {c : CoreSt} (h : g c = g s.me) (n : Nat) :
    g ((s.setMe c).core n) = g (s.core n) := by
  rw [State.setMe, State.core_setCore_if]
  split
  · next hn => rw [h, hn]; rfl
  · rfl

theorem State.ckptLoad_core {α : Type} {g : CoreSt → α} (h : CkptBlind g) (s : State) (e : Nat × Nat × Nat × Nat) (n : Nat) :
    g ((s.ckptLoad e).core n) = g (s.core n) := by
  have hmy : ∀ x, g ((s.setMy x).core n) = g (s.core n) := fun x => s.setMe_field g (h.ctx _ _ _) n
  unfold State.ckptLoad
  dsimp only
  split
  · exact hmy _
  · exact hmy _
  · exact hmy _
  · exact hmy _
  · exact s.setMe_field g (h.sysr _ _ _) n
  · exact s.setMe_field g (h.tile _ _ _) n

theorem State.ckptLoad_supersteps (s : State) (e : Nat × Nat × Nat × Nat) : (s.ckptLoad e).supersteps = s.supersteps := by
  unfold State.ckptLoad
  dsimp only
  split <;> rfl

theorem State.reloadCkpts_core {α : Type} {g : CoreSt → α} (h : CkptBlind g) (s : State) (core n : Nat) :
    g ((s.reloadCkpts core).core n) = g (s.core n) := by
  refine foldl_field (fun s : State => g (s.core n)) (fun s k => ?_) ((s.core core).live core) s
  split
  · exact foldl_field (fun s : State => g (s.core n)) (fun (s : State) e => s.ckptLoad_core h e n) _ (s.at core k)
  · rfl

theorem State.reloadCkpts_supersteps (s : State) (core : Nat) : (s.reloadCkpts core).supersteps = s.supersteps := by
  refine foldl_field (·.supersteps) (fun (s : State) k => ?_) ((s.core core).live core) s
  split
  · exact foldl_field (·.supersteps) (fun (s : State) e => s.ckptLoad_supersteps e) _ (s.at core k)
  · rfl

/-- A core's step of the resumption. -/
def State.resumeCore (d : Nat × Nat) (t : State) (k : SavedCore) : State := (t.loadCore d k).reloadCkpts k.core

theorem resumed_ckptBlind (d : Nat × Nat) (k : SavedCore) : CkptBlind (fun c : CoreSt => c.Resumed d k) :=
  ⟨fun _ _ _ => rfl, fun _ _ _ => rfl, fun _ _ _ => rfl⟩

theorem State.resumeCore_own (d : Nat × Nat) (t : State) (k : SavedCore) : ((t.resumeCore d k).core k.core).Resumed d k := by
  have hload : ((t.loadCore d k).core k.core).Resumed d k := by
    have hcore : ∃ c : CoreSt, (t.loadCore d k).core k.core = c ∧ c.Resumed d k := ⟨_, State.core_setCore _ _ _, rfl, rfl, rfl, rfl⟩
    obtain ⟨c, hc, hr⟩ := hcore
    rw [hc]
    exact hr
  exact (State.reloadCkpts_core (resumed_ckptBlind d k) (t.loadCore d k) k.core k.core).mpr hload

theorem State.resumeCore_ne {d : Nat × Nat} {t : State} {a : SavedCore} (h : (t.core a.core).Resumed d a) (b : SavedCore)
    (hab : a.core ≠ b.core) : ((t.resumeCore d b).core a.core).Resumed d a := by
  have hload : (t.loadCore d b).core a.core = t.core a.core := State.core_setCore_ne t _ hab
  refine (State.reloadCkpts_core (resumed_ckptBlind d a) (t.loadCore d b) b.core a.core).mpr ?_
  rw [hload]
  exact h

theorem State.resumeCore_supersteps (d : Nat × Nat) (t : State) (k : SavedCore) : (t.resumeCore d k).supersteps = t.supersteps :=
  State.reloadCkpts_supersteps _ _

/-! ### The scrub (R41) -/

/-- The core that the scrub leaves, with its new tag. -/
def State.scrubbed (s : State) (core : Nat) : CoreSt := (s.core core).scrub.setSysr 0x002 (BitVec.ofNat 64 (s.ownerOf core))

theorem ctx_getG_fwBlind (k r : Nat) : FwBlind (fun c : CoreSt => (c.ctx k).getG r) where
  ctx c j := by
    by_cases h : k = j
    · rw [h, CoreSt.ctx_setCtx]
      rfl
    · rw [CoreSt.ctx_setCtx_ne _ _ h]
  bank _ _ _ := rfl
  done _ := rfl

theorem sysr_fwBlind {n : Nat} (h : n ≠ 0x110) : FwBlind (fun c : CoreSt => c.sysr n) :=
  ⟨fun _ _ => rfl, fun c v _ => c.sysr_setSysr_ne v h, fun _ => rfl⟩

/-- Every context of a scrubbed core reads zero in every G register. -/
theorem State.scrubbed_getG (s : State) (core k r : Nat) : ((s.scrubbed core).ctx k).getG r = 0 := by
  have hctx : (s.scrubbed core).ctx k = {} ∨ (s.scrubbed core).ctx k = ({} : Ctx).setSysr 0x100 0 := by
    rcases tget_mem ({} : Ctx) (s.scrubbed core).ctxs k with h | ⟨e, he, h⟩
    · exact .inl h
    · obtain ⟨o, -, rfl⟩ := List.mem_map.mp he
      exact .inr h
  unfold Ctx.getG
  rcases hctx with h | h <;> rw [h] <;> split <;> rfl

theorem exec_scrubEnd {s : State} {core : Nat} (h : s.mayScrub core = true) : exec (.scrubEnd core) s =
    .next ({ s.setCore core (s.scrubbed core) with leaving := s.leaving.filter fun e => e.1 != core }.fwIdle core) :=
  State.event_on h

theorem exec_preemptLogDrained {s : State} {lvl dom : Nat} {p : Preempt} (h : s.preemptOf (lvl, dom) = some p) :
    exec (.preemptLogDrained lvl dom) s = s.event (p.phase == 1 && (domCores lvl dom).all s.drained)
      ((domCores lvl dom).foldl State.speDrain (s.setPreempt { p with phase := 2 })) := by
  change execPreemptLogDrained lvl dom s = _
  rw [execPreemptLogDrained, h]

/-- The record of a pre-emption that has been saved, and the state that its save leaves. -/
def State.saveRecord (s : State) (p : Preempt) : Preempt :=
  { p with phase := 3, cores := (domCores p.lvl p.dom).map s.saveCore, arrivals := s.arrivals.filter fun e => barriersIn (p.lvl, p.dom) e.1 }
def State.savedBy (s : State) (p : Preempt) (u : State) : State :=
  let t := (domCores p.lvl p.dom).foldl State.vacateCore (u.setPreempt (s.saveRecord p))
  { t with supersteps := t.supersteps.erase (p.lvl, p.dom), arrivals := t.arrivals.filter fun e => !barriersIn (p.lvl, p.dom) e.1 }

theorem State.finishSave_eq {s u : State} {p : Preempt} (h : s.writeSaves (domCores p.lvl p.dom) = .ok u) : s.finishSave p = s.savedBy p u := by
  unfold State.finishSave
  dsimp only
  rw [h]
  rfl

theorem exec_preemptSaveDone {s : State} {lvl dom : Nat} {p : Preempt} (h : s.preemptOf (lvl, dom) = some p) :
    exec (.preemptSaveDone lvl dom) s =
      s.event (p.phase == 2 && (domCores lvl dom).all fun c => (s.core c).seizPhase == .idle) (s.finishSave p) := by
  change execPreemptSaveDone lvl dom s = _
  rw [execPreemptSaveDone, h]

/-- The state in which a pre-empted domain's cores are loaded. -/
def State.resumes (s : State) (p : Preempt) (d : Nat × Nat) : State :=
  { s with preempts := s.preempts.erase p, supersteps := s.supersteps ++ [d],
           arrivals := p.arrivals.foldl (fun t e => tset 0 t e.1 e.2) s.arrivals }

theorem exec_preemptedTaskResume {s : State} {lvl dom : Nat} {p : Preempt} (h : s.preemptOf (lvl, dom) = some p) :
    exec (.preemptedTaskResume lvl dom) s =
      s.event (decide (3 ≤ p.phase) && (domCores lvl dom).all s.coreFree && !s.supersteps.any (overlapDom (lvl, dom)))
        (p.cores.foldl (State.resumeCore (lvl, dom)) (s.resumes p (lvl, dom))) := by
  change execPreemptedTaskResume lvl dom s = _
  unfold execPreemptedTaskResume
  dsimp only
  rw [h]
  rfl

/-! ### The events -/

/-- A domain that may be pre-empted, and stopped, stops at once (R309). -/
theorem forcedPreemption_stops {s : State} {lvl dom : Nat} (hmay : s.preemptible (lvl, dom) = true) (hstop : s.stoppable (lvl, dom) = true) :
    ∃ t, exec (.forcedPreemption lvl dom) s = .next t ∧
      (∃ p ∈ t.preempts, p.lvl = lvl ∧ p.dom = dom ∧ p.phase = 1 ∧ p.save = true) ∧ s.sameBytes t ∧
      ∀ c ∈ domCores lvl dom, (t.core c).Stopped := by
  refine ⟨s.beginPreempt (lvl, dom) true, (State.event_on hmay).trans (congrArg _ (if_pos hstop)), ?_, fun q => ?_, ?_⟩
  · have hpre := foldl_field (·.preempts) (f := State.stopCore)
      (fun s c => State.dropSc_preempts (s.setCore c (s.core c).stopForSave) c _) (domCores lvl dom)
    exact ⟨⟨lvl, dom, 1, true, [], []⟩, (hpre _).symm ▸ List.mem_append_right _ (List.mem_singleton.mpr rfl), rfl, rfl, rfl, rfl⟩
  · exact (State.byteAt_foldl (fun s c => s.byteAt_stopCore c) (domCores lvl dom) _ q).trans (State.byteAt_of_eq q)
  · exact foldl_cores (P := fun s c => (s.core c).Stopped) State.stopCore_stopped (fun _ _ b h hab => State.stopCore_stopped_ne h b hab)
      (domCores lvl dom) _

/-- While it may not be stopped, the request is kept (R311). -/
theorem forcedPreemption_kept {s : State} {lvl dom : Nat} (hmay : s.preemptible (lvl, dom) = true) (hstop : s.stoppable (lvl, dom) = false) :
    exec (.forcedPreemption lvl dom) s = .next { s with preemptAsked := s.preemptAsked.erase (lvl, dom) ++ [(lvl, dom)] } :=
  (State.event_on hmay).trans (congrArg _ (if_neg (by rw [hstop]; exact Bool.false_ne_true)))

section Recorded
variable {s : State} {p : Preempt} (hp : s.preemptOf (p.lvl, p.dom) = some p)
include hp

/-- A drained domain goes on to its save (R309). -/
theorem preemptLogDrained_goesOn (hphase : p.phase = 1) (hdrained : ∀ c ∈ domCores p.lvl p.dom, s.drained c = true) :
    ∃ t, exec (.preemptLogDrained p.lvl p.dom) s = .next t ∧ (∃ q ∈ t.preempts, q.lvl = p.lvl ∧ q.dom = p.dom ∧ q.phase = 2) ∧
      s.sameBytes t ∧ ∀ c ∈ domCores p.lvl p.dom, (t.core c).spe = [] := by
  obtain ⟨hmem, hsave, -, -⟩ := State.preemptOf_eq_some hp
  refine ⟨(domCores p.lvl p.dom).foldl State.speDrain (s.setPreempt { p with phase := 2 }), ?_, ?_, fun q => ?_, ?_⟩
  · rw [exec_preemptLogDrained hp]
    refine State.event_on ?_
    rw [hphase, List.all_eq_true.mpr hdrained]
    rfl
  · have hpre := foldl_field (·.preempts) (f := State.speDrain) State.speDrain_preempts (domCores p.lvl p.dom)
      (s.setPreempt { p with phase := 2 })
    exact ⟨{ p with phase := 2 }, hpre.symm ▸ State.mem_setPreempt hmem hsave rfl rfl, rfl, rfl, rfl⟩
  · exact (State.byteAt_foldl (fun s c => s.byteAt_speDrain c) (domCores p.lvl p.dom) _ q).trans (State.byteAt_of_eq q)
  · refine foldl_cores (P := fun s c => (s.core c).spe = []) State.speDrain_own (fun s a b h hab => ?_) (domCores p.lvl p.dom) _
    rw [State.speDrain_core_ne _ hab]
    exact h

/-- A saved domain's cores are vacated (R309). -/
theorem preemptSaveDone_vacates {u : State} (hphase : p.phase = 2) (hidle : ∀ c ∈ domCores p.lvl p.dom, (s.core c).seizPhase = .idle)
    (hsaves : s.writeSaves (domCores p.lvl p.dom) = .ok u) :
    ∃ t, exec (.preemptSaveDone p.lvl p.dom) s = .next t ∧
      (∃ q ∈ t.preempts, q.lvl = p.lvl ∧ q.dom = p.dom ∧ q.phase = 3 ∧ q.cores = (domCores p.lvl p.dom).map s.saveCore) ∧ u.sameBytes t ∧
      ∀ c ∈ domCores p.lvl p.dom, (t.core c).Vacated := by
  obtain ⟨hmem, hsave, -, -⟩ := State.preemptOf_eq_some hp
  refine ⟨s.savedBy p u, ?_, ?_, fun q => ?_, ?_⟩
  · rw [exec_preemptSaveDone hp, State.finishSave_eq hsaves]
    refine State.event_on ?_
    rw [hphase, Bool.and_eq_true, List.all_eq_true]
    exact ⟨rfl, fun c hc => beq_iff_eq.mpr (hidle c hc)⟩
  · have hpre := foldl_field (·.preempts) (f := State.vacateCore) State.vacateCore_preempts (domCores p.lvl p.dom)
      (u.setPreempt (s.saveRecord p))
    refine ⟨s.saveRecord p, hpre.symm ▸ State.mem_setPreempt ?_ hsave rfl rfl, rfl, rfl, rfl, rfl⟩
    rw [State.writeSaves_preempts hsaves]
    exact hmem
  · exact (State.byteAt_of_eq q).trans ((State.byteAt_foldl (fun s c => s.byteAt_vacateCore c) (domCores p.lvl p.dom) _ q).trans
      (State.byteAt_of_eq q))
  · exact foldl_cores (P := fun s c => (s.core c).Vacated) State.vacateCore_own (fun _ _ b h hab => State.vacateCore_ne h b hab)
      (domCores p.lvl p.dom) (u.setPreempt (s.saveRecord p))

/-- A resumed domain's cores hold their shares again (R310). -/
theorem preemptedTaskResume_resumes (hphase : 3 ≤ p.phase) (hfree : (domCores p.lvl p.dom).all s.coreFree = true)
    (hover : s.supersteps.any (overlapDom (p.lvl, p.dom)) = false) (hnodup : (p.cores.map (·.core)).Nodup) :
    ∃ t, exec (.preemptedTaskResume p.lvl p.dom) s = .next t ∧ (p.lvl, p.dom) ∈ t.supersteps ∧
      ∀ k ∈ p.cores, (t.core k.core).Resumed (p.lvl, p.dom) k := by
  refine ⟨p.cores.foldl (State.resumeCore (p.lvl, p.dom)) (s.resumes p (p.lvl, p.dom)), ?_, ?_, ?_⟩
  · rw [exec_preemptedTaskResume hp]
    refine State.event_on ?_
    rw [hfree, hover, decide_eq_true hphase]
    rfl
  · have hsteps := foldl_field (·.supersteps) (f := State.resumeCore (p.lvl, p.dom)) (State.resumeCore_supersteps (p.lvl, p.dom)) p.cores
      (s.resumes p (p.lvl, p.dom))
    rw [hsteps]
    exact List.mem_append_right _ (List.mem_singleton.mpr rfl)
  · exact foldl_forall (P := fun (s : State) (k : SavedCore) => (s.core k.core).Resumed (p.lvl, p.dom) k) (State.resumeCore_own _)
      (fun _ _ b h hab => State.resumeCore_ne h b hab) p.cores _ (List.pairwise_map.mp hnodup)

end Recorded

/-- A scrubbed core is zeroed and carries its new tag (R41). -/
theorem scrubEnd_zeroes {s : State} {core : Nat} (h : s.mayScrub core = true) :
    ∃ t, exec (.scrubEnd core) s = .next t ∧ (∀ off, t.byteAt (.core core off) = 0) ∧
      (t.core core).sysr 0x002 = BitVec.ofNat 64 (s.ownerOf core) ∧ (∀ k r, (t.ctxAt core k).getG r = 0) ∧
      (t.core core).q0 = [] ∧ (∀ e ∈ t.leaving, e.1 ≠ core) := by
  refine ⟨_, exec_scrubEnd h, fun off => ?_, ?_, fun k r => ?_, ?_, fun e he => ?_⟩
  · rw [State.byteAt_fwIdle]
    exact congrArg (fun c : CoreSt => tget 0 c.mem off) (State.core_setCore s core _)
  · refine (State.fwIdle_core (sysr_fwBlind (n := 0x002) (by decide)) _ core core).trans ?_
    exact (congrArg (fun c : CoreSt => c.sysr 0x002) (State.core_setCore s core _)).trans (CoreSt.sysr_setSysr _ _ _)
  · refine (State.fwIdle_core (ctx_getG_fwBlind k r) _ core core).trans ?_
    exact (congrArg (fun c : CoreSt => (c.ctx k).getG r) (State.core_setCore s core _)).trans (s.scrubbed_getG core k r)
  · refine (State.fwIdle_core (g := CoreSt.q0) ⟨fun _ _ => rfl, fun _ _ _ => rfl, fun _ => rfl⟩ _ core core).trans ?_
    exact congrArg CoreSt.q0 (State.core_setCore s core _)
  · rw [(State.fwIdle_preempts _ core).2] at he
    exact bne_iff_ne.mp (List.mem_filter.mp he).2

/-- Settles O54: pre-emption, its save and resumption core by core, and the scrub. -/
theorem preemptionEvents : Obligations.PreemptionEvents := by
  refine fun s lvl dom => ⟨fun hmay => ⟨forcedPreemption_stops hmay, fun hstop => ?_⟩, fun p hp => ?_, fun core => scrubEnd_zeroes⟩
  · exact ⟨_, forcedPreemption_kept hmay hstop, List.mem_append_right _ (List.mem_singleton.mpr rfl), rfl, rfl, fun q => State.byteAt_of_eq q⟩
  · obtain ⟨-, -, rfl, rfl⟩ := State.preemptOf_eq_some hp
    exact ⟨preemptLogDrained_goesOn hp, fun u => preemptSaveDone_vacates hp, preemptedTaskResume_resumes hp⟩

end Sys2Proof.Machine
end

section
/-! PROOF. Exact values: a finite number as a multiple of a power of two, its sums and its products (R43, R44, R64). -/

namespace Sys2Proof.Machine

open Sys2Proof

/-! ### Signs and magnitudes -/

/-- The integer of a sign and a magnitude. -/
def signedInt (neg : Bool) (m : Nat) : Int := if neg then -(m : Int) else m

@[simp] theorem signedInt_zero (neg : Bool) : signedInt neg 0 = 0 := by cases neg <;> rfl

@[simp] theorem natAbs_signedInt (neg : Bool) (m : Nat) : (signedInt neg m).natAbs = m := by cases neg <;> simp [signedInt]

theorem signedInt_mul (a b : Bool) (m n : Nat) : signedInt (a != b) (m * n) = signedInt a m * signedInt b n := by
  cases a <;> cases b <;> simp [signedInt]

theorem signedInt_mul_pow (neg : Bool) (m k : Nat) : signedInt neg (m * 2 ^ k) = signedInt neg m * 2 ^ k := by
  cases neg <;> simp [signedInt]

theorem signedInt_natAbs (v : Int) : signedInt (decide (v < 0)) v.natAbs = v := by
  unfold signedInt
  split
  · next h => rw [decide_eq_true_eq] at h; omega
  · next h => rw [decide_eq_true_eq] at h; omega

/-! ### A number in units -/

/-- The number is v units of 2^-n, and its own exponent is not below that unit. -/
inductive Fp.HasUnits (n : Nat) : Fp → Int → Prop
  | fin (neg : Bool) (m k : Nat) : HasUnits n (.fin neg m ((k : Int) - n)) (signedInt neg (m * 2 ^ k))

theorem Fp.HasUnits.of_eq {n k : Nat} {neg : Bool} {m : Nat} {e v : Int} (he : e = (k : Int) - n) (hv : v = signedInt neg (m * 2 ^ k)) :
    (Fp.fin neg m e).HasUnits n v := by
  rw [he, hv]
  exact .fin neg m k

/-- An exact zero, whatever its sign. -/
theorem hasUnits_zero (n : Nat) (neg : Bool) : (Fp.fin neg 0 0).HasUnits n 0 := .of_eq (k := n) (by omega) (by simp)

/-- A finite integer mantissa with its sign. -/
theorem hasUnits_ofInt {n k : Nat} {e : Int} (v : Int) (he : e = (k : Int) - n) :
    (Fp.fin (decide (v < 0)) v.natAbs e).HasUnits n (v * 2 ^ k) := by
  refine .of_eq he ?_
  rw [signedInt_mul_pow, signedInt_natAbs]

/-- A number in smaller units. -/
theorem Fp.HasUnits.refine {n : Nat} {x : Fp} {v : Int} (h : x.HasUnits n v) (j : Nat) : x.HasUnits (n + j) (v * 2 ^ j) := by
  obtain ⟨neg, m, k⟩ := h
  refine .of_eq (k := k + j) (by omega) ?_
  rw [pow_add, ← Nat.mul_assoc, signedInt_mul_pow _ (m * 2 ^ k)]

/-! ### Sums and products -/

/-- A pair of an integer and an exponent is a number of units. -/
def PairUnits (n : Nat) (r : Int × Int) (v : Int) : Prop := ∃ k : Nat, r.2 = (k : Int) - n ∧ r.1 * 2 ^ k = v

/-- A sum at the smaller of two exponents is the sum of the units. -/
theorem addExact_units (n1 : Bool) (m1 k1 : Nat) (n2 : Bool) (m2 k2 n : Nat) :
    PairUnits n (addExact n1 m1 ((k1 : Int) - n) n2 m2 ((k2 : Int) - n)) (signedInt n1 (m1 * 2 ^ k1) + signedInt n2 (m2 * 2 ^ k2)) := by
  have he : (if (k1 : Int) - n ≤ k2 - n then (k1 : Int) - n else k2 - n) = (min k1 k2 : Nat) - n := by split <;> omega
  have hscale : ∀ (neg : Bool) (m k : Nat), min k1 k2 ≤ k →
      signedInt neg (m * 2 ^ ((k : Int) - n - ((min k1 k2 : Nat) - n)).toNat) * 2 ^ min k1 k2 = signedInt neg (m * 2 ^ k) := by
    intro neg m k hk
    have hexp : ((k : Int) - n - ((min k1 k2 : Nat) - n)).toNat + min k1 k2 = k := by omega
    rw [← signedInt_mul_pow, Nat.mul_assoc, ← pow_add, hexp]
  unfold addExact
  simp only [he]
  refine ⟨min k1 k2, rfl, ?_⟩
  rw [add_mul]
  exact congrArg₂ (· + ·) (hscale n1 m1 k1 (Nat.min_le_left _ _)) (hscale n2 m2 k2 (Nat.min_le_right _ _))

/-- The sum of two finite numbers is exact (R54). -/
theorem Fp.HasUnits.add {n : Nat} {x y : Fp} {a b : Int} (hx : x.HasUnits n a) (hy : y.HasUnits n b) (rm : BitVec 2) :
    (Fp.add rm x y).1.HasUnits n (a + b) := by
  obtain ⟨n1, m1, k1⟩ := hx
  obtain ⟨n2, m2, k2⟩ := hy
  obtain ⟨k, he, hv⟩ := addExact_units n1 m1 k1 n2 m2 k2 n
  rw [← hv]
  unfold Fp.add
  dsimp only
  split
  · next h => rw [h, Int.zero_mul]; exact hasUnits_zero n _
  · exact hasUnits_ofInt _ he

/-- The product of two finite numbers is exact. -/
theorem Fp.HasUnits.mul {n1 n2 : Nat} {x y : Fp} {a b : Int} (hx : x.HasUnits n1 a) (hy : y.HasUnits n2 b) :
    (Fp.mul x y).1.HasUnits (n1 + n2) (a * b) := by
  obtain ⟨s1, m1, k1⟩ := hx
  obtain ⟨s2, m2, k2⟩ := hy
  refine .of_eq (k := k1 + k2) (by omega) ?_
  rw [← signedInt_mul]
  congr 1
  ring

/-- One more term of a run sum. -/
def addTerm (acc : Int × Int) (x : Fp) : Int × Int :=
  match x with
  | .fin n m e => addExact (decide (acc.1 < 0)) acc.1.natAbs acc.2 n m e
  | _ => acc

theorem addTerm_units {n : Nat} {acc : Int × Int} {v a : Int} {x : Fp} (h : PairUnits n acc v) (hx : x.HasUnits n a) :
    PairUnits n (addTerm acc x) (v + a) := by
  obtain ⟨w, e⟩ := acc
  obtain ⟨k, rfl, rfl⟩ := h
  obtain ⟨s, m, j⟩ := hx
  have h := addExact_units (decide (w < 0)) w.natAbs k s m j n
  rwa [signedInt_mul_pow _ w.natAbs, signedInt_natAbs] at h

theorem foldl_addTerm_units {n : Nat} {α : Type} {term : α → Fp} {units : α → Int} {l : List α}
    (h : ∀ i ∈ l, (term i).HasUnits n (units i)) {acc : Int × Int} {v : Int} (hacc : PairUnits n acc v) :
    PairUnits n ((l.map term).foldl addTerm acc) (l.foldl (fun e i => e + units i) v) := by
  induction l generalizing acc v with
  | nil => exact hacc
  | cons i l ih =>
    exact ih (fun j hj => h j (List.mem_cons_of_mem i hj)) (addTerm_units hacc (h i List.mem_cons_self))

theorem sumFinite_eq (l : List Fp) : ∃ neg, sumFinite l =
    if (l.foldl addTerm (0, 0)).1 = 0 then .fin neg 0 0
    else .fin (decide ((l.foldl addTerm (0, 0)).1 < 0)) (l.foldl addTerm (0, 0)).1.natAbs (l.foldl addTerm (0, 0)).2 := ⟨_, rfl⟩

/-- The sum of a run of finite products is exact (R64). -/
theorem sumFinite_units {n : Nat} {α : Type} {term : α → Fp} {units : α → Int} {l : List α}
    (h : ∀ i ∈ l, (term i).HasUnits n (units i)) :
    (sumFinite (l.map term)).HasUnits n (l.foldl (fun e i => e + units i) 0) := by
  obtain ⟨k, he, hv⟩ := foldl_addTerm_units h (acc := (0, 0)) (v := 0) ⟨n, by omega, Int.zero_mul _⟩
  obtain ⟨neg, hsum⟩ := sumFinite_eq (l.map term)
  rw [hsum, ← hv]
  split
  · next h => rw [h, Int.zero_mul]; exact hasUnits_zero n neg
  · exact hasUnits_ofInt _ he

/-! ### Decoding (R43, R44) -/

/-- The magnitude of a finite encoding with exponent field e and fraction f of w bits, in units of its format's smallest number. -/
def fieldUnits (w e f : Nat) : Nat := if e = 0 then f else (2 ^ w + f) * 2 ^ (e - 1)

/-- An encoding has units where its exponent field is not all ones. -/
theorem finiteUnits_eq_some {w x v : Nat} {z : Int} : finiteUnits w x v = some z ↔
    v / 2 ^ w % 2 ^ x ≠ 2 ^ x - 1 ∧ z = signedInt (v.testBit (x + w)) (fieldUnits w (v / 2 ^ w % 2 ^ x) (v % 2 ^ w)) := by
  unfold finiteUnits signedInt
  rw [Nat.testBit_eq_decide_div_mod_eq, Nat.add_comm x]
  dsimp only
  split
  · next h => simp [h]
  · next h => simp [h, fieldUnits, eq_comm]

theorem finiteUnits_eq_none {w x v : Nat} : finiteUnits w x v = none ↔ v / 2 ^ w % 2 ^ x = 2 ^ x - 1 := by
  unfold finiteUnits
  dsimp only
  split
  · next h => simp [h]
  · next h => simp [h]

/-- A finite encoding of a format with infinities, in units of its smallest number. -/
theorem dec_units {f : FpFmt} (hieee : f.ieee = true) (hone : f.oneNan = false) (hbias : 0 < f.bias) {v : Nat} {x : Int}
    (h : finiteUnits f.mbits f.ebits v = some x) : (f.dec v).HasUnits (f.bias + f.mbits - 1) x := by
  obtain ⟨htop, rfl⟩ := finiteUnits_eq_some.mp h
  unfold FpFmt.dec fieldUnits
  rw [hieee, hone]
  dsimp only
  rw [if_neg (by rw [Bool.true_and, beq_iff_eq]; exact htop), if_neg (by simp)]
  split
  · refine .of_eq (k := 0) ?_ (by rw [pow_zero, Nat.mul_one])
    unfold FpFmt.emin
    omega
  · exact .of_eq (k := v / 2 ^ f.mbits % 2 ^ f.ebits - 1) (by omega) rfl

theorem fp32_dec_units {v : Nat} {x : Int} (h : fp32Units v = some x) : (fFP32.dec v).HasUnits 149 x :=
  dec_units (f := fFP32) rfl rfl (by decide) h

/-- A NaN or an infinity. -/
def Fp.NotFinite (x : Fp) : Prop := x = .nan ∨ ∃ neg, x = .inf neg

/-- An encoding that is not finite is a NaN or an infinity. -/
theorem fp32_dec_of_none {v : Nat} (h : fp32Units v = none) : (fFP32.dec v).NotFinite := by
  have htop : (fFP32.ieee && v / 2 ^ fFP32.mbits % 2 ^ fFP32.ebits == fFP32.emax) = true := by
    rw [show fFP32.ieee = true from rfl, Bool.true_and, beq_iff_eq]
    exact finiteUnits_eq_none.mp h
  unfold FpFmt.dec
  dsimp only
  rw [if_pos htop]
  split
  · exact .inr ⟨_, rfl⟩
  · exact .inl rfl

/-- A BF16 element is the FP32 number of its bits followed by zeros. -/
theorem bf16_dec_units {v : Nat} {x : Int} (h : fp32Units (v * 2 ^ 16) = some x) : (fBF16.dec v).HasUnits 149 x := by
  obtain ⟨htop, rfl⟩ := finiteUnits_eq_some.mp h
  have hexp : v * 2 ^ 16 / 2 ^ 23 = v / 2 ^ 7 := by omega
  have hfrac : v * 2 ^ 16 % 2 ^ 23 = v % 2 ^ 7 * 2 ^ 16 := by omega
  have hsign : (v * 2 ^ 16).testBit (8 + 23) = v.testBit (8 + 7) := by rw [Nat.testBit_mul_two_pow]; rfl
  have hfield : ∀ e f, fieldUnits 23 e (f * 2 ^ 16) = fieldUnits 7 e f * 2 ^ 16 := by
    intro e f
    unfold fieldUnits
    split
    · rfl
    · ring
  rw [hexp] at htop
  rw [hexp, hfrac, hsign, hfield, signedInt_mul_pow]
  exact (dec_units (f := fBF16) rfl rfl (by decide) (finiteUnits_eq_some.mpr ⟨htop, rfl⟩)).refine 16

end Sys2Proof.Machine
end

section
/-! PROOF. Rounding to FP32: the grid position of an exact value, its two neighbours, and the one that a mode takes (R55). -/

namespace Sys2Proof.Machine

open Sys2Proof

/-! ### What makes an encoding the rounded value -/

/-- The mode rounds a number of this sign to the neighbour of smaller magnitude (R55). -/
def TowardZero (rm : BitVec 2) (neg : Bool) : Prop := rm = 1 ∨ (rm = 2 ∧ neg = true) ∨ (rm = 3 ∧ neg = false)

/-- The mode rounds a number of this sign to the neighbour of larger magnitude (R55). -/
def AwayFromZero (rm : BitVec 2) (neg : Bool) : Prop := (rm = 2 ∧ neg = false) ∨ (rm = 3 ∧ neg = true)

theorem rounding_cases (rm : BitVec 2) (neg : Bool) : rm = 0 ∨ TowardZero rm neg ∨ AwayFromZero rm neg := by
  unfold TowardZero AwayFromZero
  revert rm neg
  decide

@[simp] theorem abs_signedInt (neg : Bool) (m : Nat) : |signedInt neg m| = m := by cases neg <;> simp [signedInt]

section Rounded
variable {neg : Bool} {K M Z r : Nat}

/-- The largest finite magnitude that is not above the exact one. -/
theorem roundedTo_toward {rm : BitVec 2} (hrm : TowardZero rm neg) (hr : fp32Units r = some (signedInt neg Z)) (hle : Z * K ≤ M)
    (hmax : ∀ w v, fp32Units w = some v → v.natAbs * K ≤ M → v.natAbs ≤ Z) : roundedTo rm K (signedInt neg M) r := by
  refine ⟨_, hr, fun w v hw => ?_⟩
  have hv := hmax w v hw
  zify at hle hv
  rcases hrm with rfl | ⟨rfl, rfl⟩ | ⟨rfl, rfl⟩
  · refine ⟨?_, ?_, fun h _ => ?_⟩
    · rwa [abs_mul, abs_signedInt, abs_signedInt, Nat.abs_cast]
    · rw [← signedInt_mul, bne_self_eq_false]
      exact Int.natCast_nonneg _
    · rw [abs_mul, abs_signedInt, Nat.abs_cast] at h
      rw [abs_signedInt]
      exact hv h
  · change -(M : Int) ≤ -Z * K ∧ (-(M : Int) ≤ v * K → -(Z : Int) ≤ v)
    refine ⟨by linarith, fun h => ?_⟩
    rcases le_or_gt 0 v with hpos | hneg
    · omega
    · rw [abs_of_neg hneg] at hv
      linarith [hv (by linarith)]
  · change (Z : Int) * K ≤ M ∧ (v * K ≤ (M : Int) → v ≤ (Z : Int))
    refine ⟨hle, fun h => ?_⟩
    rcases le_or_gt 0 v with hpos | hneg
    · rw [abs_of_nonneg hpos] at hv
      exact hv h
    · omega

/-- The smallest finite magnitude that is not below the exact one. -/
theorem roundedTo_away {rm : BitVec 2} (hrm : AwayFromZero rm neg) (hr : fp32Units r = some (signedInt neg Z)) (hK : 0 < K)
    (hle : M ≤ Z * K) (hmin : ∀ w v, fp32Units w = some v → M ≤ v.natAbs * K → Z ≤ v.natAbs) :
    roundedTo rm K (signedInt neg M) r := by
  refine ⟨_, hr, fun w v hw => ?_⟩
  have hv := hmin w v hw
  zify at hle hv hK
  rcases hrm with ⟨rfl, rfl⟩ | ⟨rfl, rfl⟩
  · change (M : Int) ≤ Z * K ∧ ((M : Int) ≤ v * K → (Z : Int) ≤ v)
    refine ⟨hle, fun h => ?_⟩
    have hpos : 0 ≤ v := nonneg_of_mul_nonneg_left (le_trans (Int.natCast_nonneg M) h) hK
    rw [abs_of_nonneg hpos] at hv
    exact hv h
  · change -(Z : Int) * K ≤ -M ∧ (v * K ≤ -(M : Int) → v ≤ -(Z : Int))
    refine ⟨by linarith, fun h => ?_⟩
    have hneg : 0 ≤ -v := nonneg_of_mul_nonneg_left (by linarith [Int.natCast_nonneg M]) hK
    rw [abs_of_nonpos (by linarith)] at hv
    linarith [hv (by linarith)]

/-- A finite magnitude as near to the exact one as any other, and even where another is as near. -/
theorem roundedTo_nearest (hr : fp32Units r = some (signedInt neg Z)) (hK : 0 < K)
    (hnear : ∀ w v, fp32Units w = some v → |(Z : Int) * K - M| ≤ |(v.natAbs : Int) * K - M| ∧
      (v.natAbs ≠ Z → |(Z : Int) * K - M| = |(v.natAbs : Int) * K - M| → r % 2 = 0)) : roundedTo 0 K (signedInt neg M) r := by
  have hsame : |signedInt neg Z * K - signedInt neg M| = |(Z : Int) * K - M| := by
    cases neg
    · rfl
    · rw [← abs_neg]
      congr 1
      simp only [signedInt, if_true]
      ring
  have hother : |(-signedInt neg Z) * K - signedInt neg M| = (Z : Int) * K + M := by
    rw [← abs_of_nonneg (by positivity : 0 ≤ (Z : Int) * K + M), ← abs_neg]
    cases neg
    · congr 1
      simp only [signedInt, Bool.false_eq_true, if_false]
      ring
    · rw [← abs_neg]
      congr 1
      simp only [signedInt, if_true]
      ring
  refine ⟨_, hr, fun w v hw => ?_⟩
  obtain ⟨hv, htie⟩ := hnear w v hw
  have hfar : |(v.natAbs : Int) * K - M| ≤ |v * K - signedInt neg M| := by
    have h := abs_abs_sub_abs_le (v * K) (signedInt neg M)
    rwa [abs_mul, Nat.abs_cast, abs_signedInt, Int.abs_eq_natAbs v] at h
  change |signedInt neg Z * K - signedInt neg M| ≤ |v * K - signedInt neg M| ∧
    (v ≠ signedInt neg Z → |signedInt neg Z * K - signedInt neg M| = |v * K - signedInt neg M| → r % 2 = 0)
  rw [hsame]
  refine ⟨hv.trans hfar, fun hne heq => htie (fun habs => hne ?_) (le_antisymm hv (heq ▸ hfar))⟩
  rw [← natAbs_signedInt neg Z, Int.natAbs_eq_natAbs_iff] at habs
  refine habs.resolve_right fun hminus => hne ?_
  rw [hminus, hother] at heq
  have hzero := (hnear 0 0 (by decide)).1
  have hZ : (Z : Int) * K = 0 := by
    rw [Int.natAbs_zero, Nat.cast_zero, Int.zero_mul, Int.zero_sub, abs_neg, Nat.abs_cast, heq] at hzero
    exact le_antisymm (by linarith) (by positivity)
  obtain rfl : Z = 0 := by simpa [hK.ne'] using hZ
  simpa using hminus

end Rounded

/-! ### The grid (R55) -/

/-- The position of an exact magnitude of M units of 2^-(149 + n) on FP32's grid: its lower neighbour is y spacings of 2^u units of
2^-149, and what is recorded of the part beyond it is true. -/
structure Grid.Locates (g : Grid) (n M u : Nat) : Prop where
  spacing : g.q = (u : Int) - 149
  width : g.y < 2 ^ 24
  normal : u = 0 ∨ 2 ^ 23 ≤ g.y
  lower : g.y * 2 ^ (u + n) ≤ M
  upper : M < (g.y + 1) * 2 ^ (u + n)
  inexact : g.inexact = true ↔ g.y * 2 ^ (u + n) ≠ M
  up : g.up = true ↔ (2 * g.y + 1) * 2 ^ (u + n) < 2 * M ∨ ((2 * g.y + 1) * 2 ^ (u + n) = 2 * M ∧ g.y % 2 = 1)

/-- A value that is a multiple of the spacing. -/
theorem locates_exact {m k n u : Nat} (hle : u + n ≤ k) (hwidth : m * 2 ^ (k - (u + n)) < 2 ^ 24)
    (hnormal : u = 0 ∨ 2 ^ 23 ≤ m * 2 ^ (k - (u + n))) :
    Grid.Locates ⟨m * 2 ^ (k - (u + n)), (u : Int) - 149, false, 0, false⟩ n (m * 2 ^ k) u := by
  have hM : m * 2 ^ (k - (u + n)) * 2 ^ (u + n) = m * 2 ^ k := by rw [Nat.mul_assoc, ← pow_add, Nat.sub_add_cancel hle]
  have hW := Nat.two_pow_pos (u + n)
  refine ⟨rfl, hwidth, hnormal, hM.le, ?_, by simp [hM], ?_⟩
  · dsimp only
    rw [Nat.add_mul, hM]
    omega
  · dsimp only
    rw [Nat.add_mul, Nat.mul_assoc, hM]
    simp

/-- A value with a part below the spacing, which is compared with one half of it. -/
theorem locates_truncated {m k n u d : Nat} (hd : u + n = d + k) (hwidth : m / 2 ^ d < 2 ^ 24) (hnormal : u = 0 ∨ 2 ^ 23 ≤ m / 2 ^ d)
    (g16 : Nat) : Grid.Locates ⟨m / 2 ^ d, (u : Int) - 149, m % 2 ^ d != 0 || false, g16,
      decide (2 ^ d < 2 * (m % 2 ^ d)) || (2 * (m % 2 ^ d) == 2 ^ d && (false || m / 2 ^ d % 2 == 1))⟩ n (m * 2 ^ k) u := by
  have hdiv := Nat.div_add_mod' m (2 ^ d)
  have hrem := Nat.mod_lt m (Nat.two_pow_pos d)
  have hP := Nat.two_pow_pos k
  have hW : 2 ^ (u + n) = 2 ^ d * 2 ^ k := by rw [hd, pow_add]
  have hhalf : (2 * (m / 2 ^ d) + 1) * 2 ^ d = 2 * (m / 2 ^ d * 2 ^ d) + 2 ^ d := by ring
  refine ⟨rfl, hwidth, hnormal, ?_, ?_, ?_, ?_⟩ <;> dsimp only <;> rw [hW, ← Nat.mul_assoc]
  · exact Nat.mul_le_mul_right _ (by omega)
  · rw [Nat.mul_lt_mul_right hP, Nat.add_mul]
    omega
  · rw [Ne, Nat.mul_left_inj hP.ne']
    simp
    omega
  · rw [← Nat.mul_assoc 2, Nat.mul_lt_mul_right hP, Nat.mul_left_inj hP.ne', hhalf]
    simp
    omega

/-- The grid position of a magnitude is that of its exact value, subnormal spacings included (R47, R55). -/
theorem grid_locates {m : Nat} (hm : m ≠ 0) (k n : Nat) :
    ∃ u, (fFP32.grid m ((k : Int) - (149 + n : Nat)) false).Locates n (m * 2 ^ k) u := by
  have hlog := Nat.log2_self_le hm
  have hlog' := Nat.lt_log2_self (n := m)
  -- the spacing's exponent: the subnormal one, or 23 bits below the leading one
  obtain ⟨u, hu, hcase⟩ : ∃ u : Nat, (if (k : Int) - (149 + n : Nat) + m.log2 < fFP32.emin then fFP32.emin
      else (k : Int) - (149 + n : Nat) + m.log2) - fFP32.mbits = (u : Int) - 149 ∧
      (k + m.log2 = u + n + 23 ∨ (u = 0 ∧ k + m.log2 ≤ n + 23)) := by
    have hmin : fFP32.emin = -126 := rfl
    have hbits : fFP32.mbits = 23 := rfl
    rw [hmin, hbits]
    by_cases h : (k : Int) - (149 + n : Nat) + m.log2 < -126
    · exact ⟨0, by rw [if_pos h]; omega, by omega⟩
    · exact ⟨k + m.log2 - n - 23, by rw [if_neg h]; omega, by omega⟩
  refine ⟨u, ?_⟩
  unfold FpFmt.grid
  dsimp only
  rw [hu]
  by_cases hle : u + n ≤ k
  · have hsh : (-((u : Int) - 149 - (k - (149 + n : Nat)))).toNat = k - (u + n) := by omega
    rw [if_pos (by omega), hsh]
    refine locates_exact hle ?_ ?_
    · calc m * 2 ^ (k - (u + n)) < 2 ^ (m.log2 + 1) * 2 ^ (k - (u + n)) := Nat.mul_lt_mul_of_pos_right hlog' (Nat.two_pow_pos _)
        _ = 2 ^ (m.log2 + 1 + (k - (u + n))) := (pow_add ..).symm
        _ ≤ 2 ^ 24 := Nat.pow_le_pow_right (by omega) (by omega)
    · refine hcase.elim (fun h => .inr ?_) fun h => .inl h.1
      calc 2 ^ 23 = 2 ^ (m.log2 + (k - (u + n))) := by congr 1; omega
        _ = 2 ^ m.log2 * 2 ^ (k - (u + n)) := pow_add ..
        _ ≤ m * 2 ^ (k - (u + n)) := Nat.mul_le_mul_right _ hlog
  · obtain ⟨d, hd⟩ := Nat.exists_eq_add_of_le' (Nat.le_of_not_le hle)
    have hsh : ((u : Int) - 149 - (k - (149 + n : Nat))).toNat = d := by omega
    rw [if_neg (by omega), hsh]
    refine locates_truncated hd ?_ ?_ _
    · rw [Nat.div_lt_iff_lt_mul (Nat.two_pow_pos d), ← pow_add]
      exact hlog'.trans_le (Nat.pow_le_pow_right (by omega) (by omega))
    · refine hcase.elim (fun h => .inr ?_) fun h => .inl h.1
      rw [Nat.le_div_iff_mul_le (Nat.two_pow_pos d), ← pow_add]
      exact (Nat.pow_le_pow_right (by omega) (by omega)).trans hlog

/-! ### Encodings -/

/-- The largest finite magnitude, in units of 2^-149 (R43). -/
def maxUnits : Nat := (2 ^ 24 - 1) * 2 ^ 253

/-- A finite magnitude has 24 significant bits, and is not above the largest. -/
theorem natAbs_fp32Units {w : Nat} {v : Int} (h : fp32Units w = some v) :
    (∃ a b, a < 2 ^ 24 ∧ v.natAbs = a * 2 ^ b) ∧ v.natAbs ≤ maxUnits := by
  obtain ⟨htop, rfl⟩ := finiteUnits_eq_some.mp h
  have hfrac := Nat.mod_lt w (Nat.two_pow_pos 23)
  have hexp := Nat.mod_lt (w / 2 ^ 23) (Nat.two_pow_pos 8)
  rw [natAbs_signedInt]
  unfold fieldUnits
  split
  · refine ⟨⟨w % 2 ^ 23, 0, by omega, by rw [pow_zero, Nat.mul_one]⟩, ?_⟩
    unfold maxUnits
    omega
  · exact ⟨⟨_, _, by omega, rfl⟩, Nat.mul_le_mul (by omega) (Nat.pow_le_pow_right (by omega) (by omega))⟩

/-- No finite magnitude lies between the neighbours of a grid position. -/
theorem not_between {y u w : Nat} {v : Int} (hnormal : u = 0 ∨ 2 ^ 23 ≤ y) (h : fp32Units w = some v) :
    v.natAbs ≤ y * 2 ^ u ∨ (y + 1) * 2 ^ u ≤ v.natAbs := by
  obtain ⟨⟨a, b, ha, hv⟩, -⟩ := natAbs_fp32Units h
  rw [hv]
  rcases Nat.lt_or_ge b u with hlt | hge
  · refine .inl ?_
    have hy : 2 ^ 23 ≤ y := hnormal.resolve_left (by omega)
    calc a * 2 ^ b ≤ 2 ^ 24 * 2 ^ b := Nat.mul_le_mul_right _ ha.le
      _ = 2 ^ 23 * 2 ^ (b + 1) := by ring
      _ ≤ y * 2 ^ u := Nat.mul_le_mul hy (Nat.pow_le_pow_right (by omega) hlt)
  · obtain ⟨j, rfl⟩ := Nat.exists_eq_add_of_le' hge
    rw [pow_add, ← Nat.mul_assoc]
    exact (Nat.lt_or_ge y (a * 2 ^ j)).symm.imp (Nat.mul_le_mul_right _) (Nat.mul_le_mul_right _)

theorem fp32_sign (neg : Bool) : fFP32.sign neg = neg.toNat * 2 ^ 31 := by cases neg <;> rfl

/-- The encoding with a sign and fields e and f. -/
theorem fp32Units_fields (neg : Bool) {e f : Nat} (he : e < 255) (hf : f < 2 ^ 23) :
    fp32Units (fFP32.sign neg + e * 2 ^ 23 + f) = some (signedInt neg (fieldUnits 23 e f)) := by
  have hneg := neg.toNat_lt
  have hexp : (neg.toNat * 2 ^ 31 + e * 2 ^ 23 + f) / 2 ^ 23 % 2 ^ 8 = e := by omega
  have hfrac : (neg.toNat * 2 ^ 31 + e * 2 ^ 23 + f) % 2 ^ 23 = f := by omega
  have htop : (neg.toNat * 2 ^ 31 + e * 2 ^ 23 + f) / 2 ^ (8 + 23) % 2 = neg.toNat := by omega
  rw [fp32_sign]
  refine finiteUnits_eq_some.mpr ⟨by omega, ?_⟩
  rw [Nat.testBit_eq_decide_div_mod_eq, htop, hexp, hfrac]
  cases neg <;> rfl

/-- What a rounded magnitude y * 2^u within range is encoded as. -/
structure EncodedAs (r : Nat) (neg : Bool) (y u : Nat) : Prop where
  units : fp32Units r = some (signedInt neg (y * 2 ^ u))
  parity : r % 2 = y % 2
  bound : r < 2 ^ 32

theorem encodedAs_fields {neg : Bool} {e f y u : Nat} (he : e < 255) (hf : f < 2 ^ 23) (hunits : fieldUnits 23 e f = y * 2 ^ u)
    (hparity : f % 2 = y % 2) : EncodedAs (fFP32.sign neg + e * 2 ^ 23 + f) neg y u := by
  have hsign := fp32_sign neg
  have hneg := neg.toNat_lt
  exact ⟨hunits ▸ fp32Units_fields neg he hf, by omega, by omega⟩

/-- The encoding of a magnitude that is not above the largest (R43, R44). -/
theorem enc_encodedAs (neg : Bool) {y u : Nat} (hwidth : y ≤ 2 ^ 24) (hnormal : u = 0 ∨ 2 ^ 23 ≤ y) (hmax : y * 2 ^ u ≤ maxUnits) :
    EncodedAs (fFP32.enc neg y ((u : Int) - 149)) neg y u := by
  have hbits : fFP32.mbits = 23 := rfl
  have hbias : fFP32.bias = 127 := rfl
  have hu : 2 ^ 23 ≤ y → u ≤ 253 := by
    intro hy
    by_contra hlt
    have hover : 2 ^ 23 * 2 ^ 254 ≤ y * 2 ^ u := Nat.mul_le_mul hy (Nat.pow_le_pow_right (by omega) (by omega))
    unfold maxUnits at hmax
    omega
  unfold FpFmt.enc
  rw [hbits, hbias]
  split
  · obtain rfl : u = 0 := by omega
    have h := encodedAs_fields (neg := neg) (e := 0) (f := y) (y := y) (u := 0) (by omega) ‹_› (by simp [fieldUnits]) rfl
    rwa [Nat.zero_mul, Nat.add_zero] at h
  · split
    · have hq : ((u : Int) - 149 + (23 : Nat) + (127 : Nat)).toNat = u + 1 := by omega
      rw [hq]
      refine encodedAs_fields (by omega) (by omega) ?_ (by omega)
      unfold fieldUnits
      rw [if_neg (by omega), Nat.add_sub_cancel' (by omega), Nat.add_sub_cancel]
    · obtain rfl : y = 2 ^ 24 := by omega
      have hu' : u ≠ 253 := by
        rintro rfl
        unfold maxUnits at hmax
        omega
      have hq : ((u : Int) - 149 + 1 + (23 : Nat) + (127 : Nat)).toNat = u + 2 := by omega
      rw [hq]
      have hunits : fieldUnits 23 (u + 2) 0 = 2 ^ 24 * 2 ^ u := by
        unfold fieldUnits
        rw [if_neg (by omega), show u + 2 - 1 = u + 1 by omega]
        ring
      have h := encodedAs_fields (neg := neg) (show u + 2 < 255 by omega) (Nat.two_pow_pos 23) hunits rfl
      rwa [Nat.add_zero] at h

/-- A magnitude exceeds the largest finite one (R55). -/
theorem over_eq (y u : Nat) : fFP32.over y ((u : Int) - 149) = decide (maxUnits < y * 2 ^ u) := by
  have hdec : fFP32.dec fFP32.maxEnc = .fin false (2 ^ 24 - 1) 104 := by decide
  unfold FpFmt.over
  rw [hdec]
  dsimp only
  split
  · obtain ⟨j, hj⟩ := Nat.exists_eq_add_of_le' (show u ≤ 253 by omega)
    have hsh : ((104 : Int) - (u - 149)).toNat = j := by omega
    have hmax : maxUnits = (2 ^ 24 - 1) * 2 ^ j * 2 ^ u := by rw [maxUnits, hj, pow_add, Nat.mul_assoc]
    exact decide_eq_decide.mpr (by rw [hsh, hmax, Nat.mul_lt_mul_right (Nat.two_pow_pos u)])
  · obtain ⟨j, rfl⟩ := Nat.exists_eq_add_of_le' (show 253 ≤ u by omega)
    have hsh : (((j + 253 : Nat) : Int) - 149 - 104).toNat = j := by omega
    exact decide_eq_decide.mpr (by rw [hsh, maxUnits, pow_add, ← Nat.mul_assoc, Nat.mul_lt_mul_right (Nat.two_pow_pos 253)])

/-! ### Rounding (R55) -/

theorem roundsUp_nearest (g : Grid) (neg : Bool) : g.roundsUp 0 neg = g.up := rfl

theorem roundsUp_toward (g : Grid) {rm : BitVec 2} {neg : Bool} (h : TowardZero rm neg) : g.roundsUp rm neg = false := by
  rcases h with rfl | ⟨rfl, rfl⟩ | ⟨rfl, rfl⟩
  · rfl
  · exact Bool.and_false _
  · exact Bool.and_false _

theorem roundsUp_away (g : Grid) {rm : BitVec 2} {neg : Bool} (h : AwayFromZero rm neg) : g.roundsUp rm neg = g.inexact := by
  rcases h with ⟨rfl, rfl⟩ | ⟨rfl, rfl⟩ <;> exact Bool.and_true _

/-- The magnitude that a mode takes, in spacings. -/
def Grid.taken (g : Grid) (rm : BitVec 2) (neg : Bool) : Nat := if g.roundsUp rm neg then g.y + 1 else g.y

theorem Grid.taken_toward (g : Grid) {rm : BitVec 2} {neg : Bool} (h : TowardZero rm neg) : g.taken rm neg = g.y := by
  rw [Grid.taken, roundsUp_toward g h]
  rfl

/-- Of two neighbours of M the nearer one is as near as anything beyond them, and something else is as near only halfway. -/
theorem nearest_of_neighbours {a b z v M : Nat} (ha : a ≤ M) (hb : M < b) (hz : z = a ∧ 2 * M ≤ a + b ∨ z = b ∧ a + b ≤ 2 * M)
    (hv : v ≤ a ∨ b ≤ v) :
    |(z : Int) - M| ≤ |(v : Int) - M| ∧ (v ≠ z → |(z : Int) - M| = |(v : Int) - M| → 2 * M = a + b) := by
  rcases abs_cases ((z : Int) - M) with ⟨hzabs, _⟩ | ⟨hzabs, _⟩ <;>
    rcases abs_cases ((v : Int) - M) with ⟨hvabs, _⟩ | ⟨hvabs, _⟩ <;> rw [hzabs, hvabs] <;> omega

section Located
variable {g : Grid} {n M u : Nat} (hg : g.Locates n M u)
include hg

theorem Grid.Locates.taken_le (rm : BitVec 2) (neg : Bool) : g.taken rm neg ≤ 2 ^ 24 := by
  have := hg.width
  unfold Grid.taken
  split <;> omega

theorem Grid.Locates.taken_normal (rm : BitVec 2) (neg : Bool) : u = 0 ∨ 2 ^ 23 ≤ g.taken rm neg := by
  refine hg.normal.imp_right fun h => ?_
  unfold Grid.taken
  split <;> omega

/-- A finite magnitude is on one side of the exact one with the neighbour there. -/
theorem Grid.Locates.not_between {w : Nat} {v : Int} (h : fp32Units w = some v) :
    v.natAbs * 2 ^ n ≤ g.y * 2 ^ (u + n) ∨ (g.y + 1) * 2 ^ (u + n) ≤ v.natAbs * 2 ^ n := by
  rw [pow_add, ← Nat.mul_assoc, ← Nat.mul_assoc]
  exact (Machine.not_between hg.normal h).imp (Nat.mul_le_mul_right _) (Nat.mul_le_mul_right _)

/-- The neighbour taken to nearest is as near as any magnitude V beyond the two, and even where V is as near (R55). -/
theorem Grid.Locates.nearest {neg : Bool} {V r : Nat} (hr : r % 2 = g.taken 0 neg % 2)
    (hV : V * 2 ^ n ≤ g.y * 2 ^ (u + n) ∨ (g.y + 1) * 2 ^ (u + n) ≤ V * 2 ^ n) :
    |((g.taken 0 neg * 2 ^ u : Nat) : Int) * (2 ^ n : Nat) - M| ≤ |(V : Int) * (2 ^ n : Nat) - M| ∧
      (V ≠ g.taken 0 neg * 2 ^ u →
        |((g.taken 0 neg * 2 ^ u : Nat) : Int) * (2 ^ n : Nat) - M| = |(V : Int) * (2 ^ n : Nat) - M| → r % 2 = 0) := by
  have hlower := hg.lower
  have hupper := hg.upper
  have hup := hg.up
  have hZ : g.taken 0 neg * 2 ^ u * 2 ^ n = g.taken 0 neg * 2 ^ (u + n) := by rw [Nat.mul_assoc, ← pow_add]
  have hne : V ≠ g.taken 0 neg * 2 ^ u → V * 2 ^ n ≠ g.taken 0 neg * 2 ^ (u + n) := by
    intro h heq
    exact h (Nat.eq_of_mul_eq_mul_right (Nat.two_pow_pos n) (heq.trans hZ.symm))
  have hhalf : (2 * g.y + 1) * 2 ^ (u + n) = g.y * 2 ^ (u + n) + (g.y + 1) * 2 ^ (u + n) := by ring
  rw [hhalf] at hup
  rw [← Nat.cast_mul, ← Nat.cast_mul, hZ]
  unfold Grid.taken at hr hne ⊢
  rw [roundsUp_nearest] at hr hne ⊢
  by_cases h : g.up = true
  · rw [if_pos h] at hr hne ⊢
    have hmid := hup.mp h
    obtain ⟨hle, htie⟩ := nearest_of_neighbours hlower hupper (.inr ⟨rfl, by omega⟩) hV
    exact ⟨hle, fun hVne heq => by have := htie (hne hVne) heq; omega⟩
  · rw [if_neg h] at hr hne ⊢
    have hmid := mt hup.mpr h
    obtain ⟨hle, htie⟩ := nearest_of_neighbours hlower hupper (.inl ⟨rfl, by omega⟩) hV
    exact ⟨hle, fun hVne heq => by have := htie (hne hVne) heq; omega⟩

/-- A magnitude within range is rounded to the encoding of what the mode takes. -/
theorem Grid.Locates.roundedTo {rm : BitVec 2} {neg : Bool} {r : Nat} (hr : EncodedAs r neg (g.taken rm neg) u) :
    roundedTo rm ((2 ^ n : Nat) : Int) (signedInt neg M) r := by
  have hK := Nat.two_pow_pos n
  have hlower := hg.lower
  have hupper := hg.upper
  rcases rounding_cases rm neg with rfl | hrm | hrm
  · refine roundedTo_nearest hr.units hK fun w v hw => ?_
    exact hg.nearest hr.parity (hg.not_between hw)
  · rw [g.taken_toward hrm] at hr
    refine roundedTo_toward hrm hr.units (by rwa [Nat.mul_assoc, ← pow_add]) fun w v hw hle => ?_
    refine le_of_mul_le_mul_right ?_ hK
    rw [Nat.mul_assoc, ← pow_add]
    exact (hg.not_between hw).resolve_right (by omega)
  · have hexact := hg.inexact
    have htaken : g.taken rm neg * 2 ^ u * 2 ^ n = if g.inexact then (g.y + 1) * 2 ^ (u + n) else g.y * 2 ^ (u + n) := by
      rw [Nat.mul_assoc, ← pow_add, Grid.taken, roundsUp_away g hrm, ite_mul]
    refine roundedTo_away hrm hr.units hK ?_ fun w v hw hle => le_of_mul_le_mul_right ?_ hK <;> rw [htaken] <;> split
    · exact hupper.le
    · next hin => exact (not_not.mp (mt hexact.mpr hin)).ge
    · next hin => exact (hg.not_between hw).resolve_left fun hbelow => hexact.mp hin (hlower.antisymm (hle.trans hbelow))
    · exact hlower.trans hle

end Located

/-- What a rounded magnitude within range delivers. -/
theorem deliver_of_le {rm : BitVec 2} {neg inexact : Bool} {y u : Nat} (h : y * 2 ^ u ≤ maxUnits) :
    (fFP32.deliver .byMode rm neg y ((u : Int) - 149) inexact).1 = fFP32.enc neg y ((u : Int) - 149) := by
  unfold FpFmt.deliver
  rw [over_eq, decide_eq_false (Nat.not_lt.mpr h)]
  rfl

theorem deliver_of_lt {rm : BitVec 2} {neg inexact : Bool} {y u : Nat} (h : maxUnits < y * 2 ^ u) :
    (fFP32.deliver .byMode rm neg y ((u : Int) - 149) inexact).1 = (fFP32.overflow .byMode rm neg).1 := by
  unfold FpFmt.deliver
  rw [over_eq, decide_eq_true h]
  rfl

/-- An overflow is an infinity, or toward zero the largest finite encoding (R60). -/
theorem overflow_cases (rm : BitVec 2) (neg : Bool) :
    (TowardZero rm neg ∧ EncodedAs (fFP32.overflow .byMode rm neg).1 neg (2 ^ 24 - 1) 253) ∨
      (fp32Units (fFP32.overflow .byMode rm neg).1 = none ∧ (fFP32.overflow .byMode rm neg).1 < 2 ^ 32) := by
  have hmax : fFP32.maxEnc = 254 * 2 ^ 23 + (2 ^ 23 - 1) := rfl
  have hcond : (rm = 1 ∨ (rm = 2 ∧ neg) ∨ (rm = 3 ∧ ¬neg)) ↔ TowardZero rm neg := by rw [Bool.not_eq_true]; rfl
  unfold FpFmt.overflow
  dsimp only
  rw [hmax, ← Nat.add_assoc]
  by_cases hrm : TowardZero rm neg
  · rw [if_pos (hcond.mpr hrm)]
    exact .inl ⟨hrm, encodedAs_fields (by decide) (by decide) (by decide) (by decide)⟩
  · rw [if_neg (mt hcond.mp hrm)]
    refine .inr ?_
    cases neg <;> decide

/-- The rounded encoding of a magnitude that is not zero. -/
theorem round_of_ne_zero {m : Nat} (hm : m ≠ 0) (rm : BitVec 2) (neg : Bool) (e : Int) :
    (fFP32.round .byMode rm neg m e).1 = (fFP32.deliver .byMode rm neg ((fFP32.grid m e false).taken rm neg) (fFP32.grid m e false).q
      (fFP32.grid m e false).inexact).1 := by
  unfold FpFmt.round
  rw [if_neg hm]
  rfl

/-- The encoding fits in its 32 bits, and where it is finite it is e / k units of 2^-149 rounded by the mode (R55). -/
def RoundsTo (rm : BitVec 2) (k e : Int) (r : Nat) : Prop := r < 2 ^ 32 ∧ ((fp32Units r).isSome = true → roundedTo rm k e r)

/-- Zero is on the grid, and keeps its sign (R46). -/
theorem sign_roundsTo_zero (rm : BitVec 2) (neg : Bool) (n : Nat) : RoundsTo rm ((2 ^ n : Nat) : Int) 0 (fFP32.sign neg) := by
  have hg : (⟨0, -149, false, 0, false⟩ : Grid).Locates n 0 0 := by
    have h := locates_exact (m := 0) (k := n) (n := n) (u := 0) (by omega) (by simp) (.inl rfl)
    simpa using h
  have htaken : (⟨0, -149, false, 0, false⟩ : Grid).taken rm neg = 0 := by simp [Grid.taken, Grid.roundsUp]
  have henc : EncodedAs (fFP32.sign neg) neg 0 0 := encodedAs_fields (e := 0) (f := 0) (by decide) (by decide) rfl rfl
  have hrounded := hg.roundedTo (rm := rm) (by rwa [htaken])
  rw [signedInt_zero] at hrounded
  exact ⟨henc.bound, fun _ => hrounded⟩

/-- A magnitude is rounded to FP32 by the mode. -/
theorem round_roundsTo (rm : BitVec 2) (neg : Bool) (m k n : Nat) : RoundsTo rm ((2 ^ n : Nat) : Int) (signedInt neg (m * 2 ^ k))
    (fFP32.round .byMode rm neg m ((k : Int) - (149 + n : Nat))).1 := by
  by_cases hm : m = 0
  · rw [FpFmt.round, if_pos hm, hm, Nat.zero_mul, signedInt_zero]
    exact sign_roundsTo_zero rm neg n
  · obtain ⟨u, hg⟩ := grid_locates hm k n
    rw [round_of_ne_zero hm, hg.spacing]
    generalize fFP32.grid m ((k : Int) - (149 + n : Nat)) false = g at hg ⊢
    rcases Nat.lt_or_ge maxUnits (g.taken rm neg * 2 ^ u) with hover | hle
    · rw [deliver_of_lt hover]
      rcases overflow_cases rm neg with ⟨hrm, henc⟩ | ⟨hnone, hbound⟩
      · refine ⟨henc.bound, fun _ => roundedTo_toward hrm henc.units ?_ fun w v hw _ => (natAbs_fp32Units hw).2⟩
        rw [g.taken_toward hrm] at hover
        refine le_trans ?_ hg.lower
        rw [pow_add, ← Nat.mul_assoc]
        exact Nat.mul_le_mul_right _ hover.le
      · refine ⟨hbound, fun h => ?_⟩
        rw [hnone] at h
        cases h
    · rw [deliver_of_le hle]
      have henc := enc_encodedAs neg (hg.taken_le rm neg) (hg.taken_normal rm neg) hle
      exact ⟨henc.bound, fun _ => hg.roundedTo henc⟩

/-- A finite number's conversion to FP32 (R60). -/
theorem Fp.HasUnits.convert {n : Nat} {x : Fp} {v : Int} (h : x.HasUnits (149 + n) v) (rm : BitVec 2) :
    RoundsTo rm (2 ^ n) v (fFP32.convert .byMode (.mode rm) x).1 := by
  obtain ⟨neg, m, k⟩ := h
  have h := round_roundsTo rm neg m k n
  rwa [Nat.cast_pow, Nat.cast_ofNat] at h

/-- The conversion of a NaN or an infinity to FP32 is not finite. -/
theorem Fp.NotFinite.convert {x : Fp} (hx : x.NotFinite) (rm : BitVec 2) :
    (fFP32.convert .byMode (.mode rm) x).1 < 2 ^ 32 ∧ fp32Units (fFP32.convert .byMode (.mode rm) x).1 = none := by
  rcases hx with rfl | ⟨neg, rfl⟩
  · change fFP32.nan < 2 ^ 32 ∧ fp32Units fFP32.nan = none
    decide
  · change fFP32.infinity neg < 2 ^ 32 ∧ fp32Units (fFP32.infinity neg) = none
    cases neg <;> decide

/-! ### The operations of FP32 (R54, R150) -/

theorem result_fst (f : FpFmt) (rm : BitVec 2) (x : Fp × Flags) : (f.result rm x).1 = (f.convert .byMode (.mode rm) x.1).1 := rfl

theorem fp32_add_roundsTo (rm : BitVec 2) {a b : Nat} {x y : Int} (ha : fp32Units a = some x) (hb : fp32Units b = some y) :
    RoundsTo rm 1 (x + y) (fFP32.add rm a b).1 :=
  ((fp32_dec_units ha).add (fp32_dec_units hb) rm).convert (n := 0) rm

theorem fp32_mul_roundsTo (rm : BitVec 2) {a b : Nat} {x y : Int} (ha : fp32Units a = some x) (hb : fp32Units b = some y) :
    RoundsTo rm (2 ^ 149) (x * y) (fFP32.mul rm a b).1 :=
  ((fp32_dec_units ha).mul (fp32_dec_units hb)).convert rm

theorem fp32_fma_roundsTo (rm : BitVec 2) {a b c : Nat} {x y z : Int} (ha : fp32Units a = some x) (hb : fp32Units b = some y)
    (hc : fp32Units c = some z) :
    RoundsTo rm (2 ^ 149) (x * y + z * 2 ^ 149) (fFP32.fma rm (fFP32.dec a) (fFP32.dec b) (fFP32.dec c)).1 := by
  have hz := fp32_dec_units hc
  have hsum := (((fp32_dec_units ha).mul (fp32_dec_units hb)).add (hz.refine 149) rm).convert rm
  generalize fFP32.dec c = w at hz hsum
  cases hz
  exact hsum

/-- A sum with a NaN or an infinity is a NaN or an infinity (R45). -/
theorem Fp.add_notFinite (rm : BitVec 2) {x y : Fp} (h : x.NotFinite ∨ y.NotFinite) : (Fp.add rm x y).1.NotFinite := by
  rcases h with (rfl | ⟨a, rfl⟩) | (rfl | ⟨b, rfl⟩)
  · exact .inl rfl
  · cases y with
    | nan => exact .inl rfl
    | inf b => by_cases h : a = b <;> simp [Fp.add, Fp.NotFinite, h]
    | fin => exact .inr ⟨a, rfl⟩
  · cases x <;> exact .inl rfl
  · cases x with
    | nan => exact .inl rfl
    | inf a => by_cases h : a = b <;> simp [Fp.add, Fp.NotFinite, h]
    | fin => exact .inr ⟨b, rfl⟩

/-- The sum of two encodings fits in 32 bits; where it is finite, so are they. -/
theorem fp32_add_spec (rm : BitVec 2) (a b : Nat) : (fFP32.add rm a b).1 < 2 ^ 32 ∧
    ((fp32Units (fFP32.add rm a b).1).isSome = true → ∃ x y, fp32Units a = some x ∧ fp32Units b = some y) := by
  have hnot : (fFP32.dec a).NotFinite ∨ (fFP32.dec b).NotFinite → (fFP32.add rm a b).1 < 2 ^ 32 ∧
      ((fp32Units (fFP32.add rm a b).1).isSome = true → ∃ x y, fp32Units a = some x ∧ fp32Units b = some y) := by
    intro h
    obtain ⟨hlt, hnone⟩ := (Fp.add_notFinite rm h).convert rm
    refine ⟨hlt, fun h => ?_⟩
    rw [FpFmt.add, result_fst, hnone] at h
    cases h
  rcases Option.eq_none_or_eq_some (fp32Units a) with ha | ⟨x, ha⟩
  · exact hnot (.inl (fp32_dec_of_none ha))
  · rcases Option.eq_none_or_eq_some (fp32Units b) with hb | ⟨y, hb⟩
    · exact hnot (.inr (fp32_dec_of_none hb))
    · exact ⟨(fp32_add_roundsTo rm ha hb).1, fun _ => ⟨x, y, ha, hb⟩⟩

end Sys2Proof.Machine
end

section
/-! PROOF. FP32 lanes of VADD, VMUL and VFMA, each the exact value rounded (R55, R149, R150). -/

namespace Sys2Proof.Machine

open Sys2Proof

/-! ### Lane-wise instructions with no stream bound (R148, R149) -/

/-- Pops of unbound registers change nothing. -/
theorem State.pops_unbound {s : State} (h : s.unbound) (l : List Nat) : s.pops l = .ok s := by
  have hpop : ∀ r, s.pop r = .ok s := by
    intro r
    unfold State.pop
    rw [h r]
  unfold State.pops
  induction distinct l with
  | nil => rfl
  | cons r rs ih => rw [State.popEach, hpop]; exact ih

/-- A result for an unbound register is written. -/
theorem State.putV_unbound {s : State} (h : s.unbound) (r : Nat) (v : Vec) : s.putV r v = .ok (s.setMy (s.my.setV r v)) := by
  unfold State.putV
  rw [h r]

/-- Raising flags binds nothing. -/
theorem State.unbound_raise {s : State} (h : s.unbound) (f : Flags) : (s.raise f).unbound := by
  intro r
  rw [State.raise, State.my_setMy, Ctx.stream]
  exact h r

theorem packElems_lt (w : Nat) (l : List Nat) : packElems w l < 2 ^ (w * l.length) := by
  induction l with
  | nil => exact Nat.two_pow_pos _
  | cons v l ih =>
    have hv := Nat.mod_lt v (Nat.two_pow_pos w)
    change v % 2 ^ w + 2 ^ w * packElems w l < 2 ^ (w * (l.length + 1))
    calc v % 2 ^ w + 2 ^ w * packElems w l < 2 ^ w * (packElems w l + 1) := by rw [Nat.mul_add]; omega
      _ ≤ 2 ^ w * 2 ^ (w * l.length) := Nat.mul_le_mul_left _ ih
      _ = 2 ^ (w * (l.length + 1)) := by rw [← pow_add, Nat.mul_add, Nat.mul_one, Nat.add_comm]

/-- An element of packed elements. -/
theorem packed_packElems (w : Nat) (l : List Nat) (k : Nat) : packed (packElems w l) w k = l.getD k 0 % 2 ^ w := by
  unfold packed
  induction l generalizing k with
  | nil => simp [packElems]
  | cons v l ih =>
    change (v % 2 ^ w + 2 ^ w * packElems w l) / 2 ^ (w * k) % 2 ^ w = _
    cases k with
    | zero => simp
    | succ k =>
      rw [List.getD_cons_succ, ← ih, Nat.mul_add, Nat.mul_one, Nat.add_comm (w * k), pow_add, ← Nat.div_div_eq_div_mul,
        Nat.add_mul_div_left _ _ (Nat.two_pow_pos w), Nat.div_eq_of_lt (Nat.mod_lt v (Nat.two_pow_pos w)), Nat.zero_add]

/-- A lane of a vector that is gathered from lanes of one width. -/
theorem laneNat_ofLanes {eb n k : Nat} (hn : 8 * eb * n ≤ 1024) (hk : k < n) (f : Nat → Nat) :
    laneNat (ofLanes eb ((List.range n).map f)) eb k = f k % 2 ^ (8 * eb) := by
  have hlt := packElems_lt (8 * eb) ((List.range n).map f)
  rw [List.length_map, List.length_range] at hlt
  change packed (BitVec.ofNat 1024 (packElems (8 * eb) ((List.range n).map f))).toNat (8 * eb) k = _
  rw [BitVec.toNat_ofNat, Nat.mod_eq_of_lt (hlt.trans_le (Nat.pow_le_pow_right (by omega) hn)), packed_packElems,
    List.getD_eq_getElem _ _ (by rwa [List.length_map, List.length_range]), List.getElem_map, List.getElem_range]

/-- What a lane-wise instruction without a lane predicate gives each lane of its destination, where no stream is bound. -/
theorem vecForm_lanes {s : State} {g : Reg3} (hg : s.guardOn g = true) (hs : s.unbound) (d : Reg5) (srcs : List Reg5) (eb len : Nat)
    (f : State → Nat → Nat × Flags) :
    ∃ t, vecForm d srcs eb none g len s f = .next t ∧ ∀ k < 128 / eb, laneNat (t.getV d) eb k = (f s k).1 % 2 ^ (8 * eb) := by
  obtain ⟨u, hput, hget⟩ : ∃ u, (s.raise (flagsOf ((s.lanes none eb).map fun i => (f s i).2))).putV d.toNat
      (s.merge none eb (s.getV d) fun i => (f s i).1) = .ok u ∧ u.getV d = s.merge none eb (s.getV d) fun i => (f s i).1 :=
    ⟨_, State.putV_unbound (State.unbound_raise hs _) _ _, by rw [State.getV, State.my_setMy, Ctx.getV_setV]⟩
  refine ⟨u.advance len, ?_, fun k hk => ?_⟩
  · unfold vecForm
    rw [State.guarded_on hg, State.pops_unbound hs]
    change s.run (State.putV _ _ _ >>= _) = _
    rw [hput]
    rfl
  · rw [State.getV_advance, hget]
    refine laneNat_ofLanes ?_ hk fun i => (f s i).1
    have := Nat.mul_div_le 128 eb
    rw [Nat.mul_assoc]
    omega

/-- An FP32 lane of such an instruction, whose rule rounds its operands' exact result. -/
theorem vecForm_rounded {s : State} {g : Reg3} (hg : s.guardOn g = true) (hs : s.unbound) {d : Reg5} {srcs : List Reg5} {len k : Nat}
    (hk : k < 32) {f : State → Nat → Nat × Flags} {rm : BitVec 2} {n e : Int} (hf : RoundsTo rm n e (f s k).1) :
    ∃ t, vecForm d srcs 4 none g len s f = .next t ∧
      ((fp32Units (laneNat (t.getV d) 4 k)).isSome = true → roundedTo rm n e (laneNat (t.getV d) 4 k)) := by
  obtain ⟨t, ht, hlane⟩ := vecForm_lanes hg hs d srcs 4 len f
  refine ⟨t, ht, ?_⟩
  rw [hlane k hk, Nat.mod_eq_of_lt hf.1]
  exact hf.2

end Sys2Proof.Machine
end

section
/-! PROOF. The cells of an MMA of BF16: run sums, each rounded once, added in order (R64, R174). -/

namespace Sys2Proof.Machine

open Sys2Proof

/-! ### Runs (R64) -/

/-- The indices below ke of run q. -/
def runIndices (ke q : Nat) : List Nat := ((List.range 16).map (16 * q + ·)).filter (· < ke)

theorem mem_runIndices {ke q m : Nat} (h : m ∈ runIndices ke q) : m < ke := of_decide_eq_true (List.mem_filter.mp h).2

theorem runIndices_succ (ke q : Nat) : runIndices (16 + ke) (q + 1) = (runIndices ke q).map (16 + ·) := by
  have hindex : (16 * (q + 1) + ·) = (16 + ·) ∘ (16 * q + ·) := by
    funext i
    simp only [Function.comp]
    omega
  have hbelow : (fun m => decide (m < 16 + ke)) ∘ (16 + ·) = fun m => decide (m < ke) := by
    funext m
    simp only [Function.comp, Nat.add_lt_add_iff_left]
  rw [runIndices, hindex, ← List.map_map, List.filter_map, hbelow]
  rfl

/-- The first run of more than 16 indices. -/
theorem runIndices_full (ke : Nat) : runIndices (16 + ke) 0 = List.range 16 := by
  unfold runIndices
  rw [List.filter_eq_self.mpr]
  · exact List.map_id'' (fun i => by omega) _
  · intro m hm
    obtain ⟨i, hi, rfl⟩ := List.mem_map.mp hm
    have := List.mem_range.mp hi
    exact decide_eq_true (by omega)

/-- A run that is the last. -/
theorem runIndices_last {ke : Nat} (h : ke ≤ 16) : runIndices ke 0 = List.range ke := by
  obtain ⟨j, hj⟩ := Nat.exists_eq_add_of_le h
  unfold runIndices
  rw [List.map_id'' (fun i => by omega), hj, List.range_add, List.filter_append, List.filter_eq_self.mpr, List.filter_eq_nil_iff.mpr,
    List.append_nil]
  · intro m hm
    obtain ⟨i, -, rfl⟩ := List.mem_map.mp hm
    simp
  · intro m hm
    exact decide_eq_true (List.mem_range.mp hm)

theorem runsOf_nil {α : Type} (n : Nat) : runsOf n ([] : List α) = [] := by cases n <;> rfl

theorem runsOf_succ {α : Type} (n : Nat) {l : List α} (h : l ≠ []) : runsOf (n + 1) l = l.take 16 :: runsOf n (l.drop 16) := by
  cases l with
  | nil => exact absurd rfl h
  | cons => rfl

/-- The runs of a list of ke elements are the elements at the runs' indices. -/
theorem runsOf_range {α : Type} (f : Nat → α) {n ke : Nat} (h : ke ≤ n) :
    runsOf n ((List.range ke).map f) = (List.range ((ke + 15) / 16)).map fun q => (runIndices ke q).map f := by
  induction n generalizing ke f with
  | zero =>
    obtain rfl : ke = 0 := by omega
    rfl
  | succ n ih =>
    rcases Nat.eq_zero_or_pos ke with rfl | hpos
    · exact runsOf_nil _
    · rw [runsOf_succ n (by simpa using hpos.ne')]
      rcases Nat.lt_or_ge 16 ke with hlong | hlast
      · obtain ⟨k, rfl⟩ := Nat.exists_eq_add_of_le hlong.le
        have hcount : (16 + k + 15) / 16 = (k + 15) / 16 + 1 := by omega
        have hlen : ((List.range 16).map f).length = 16 := rfl
        rw [hcount, List.range_succ_eq_map, List.map_cons, List.map_map, List.range_add, List.map_append, List.map_map,
          List.take_left' hlen, List.drop_left' hlen, ih _ (by omega), runIndices_full]
        congr 2
        funext q
        simp only [Function.comp, Nat.succ_eq_add_one, runIndices_succ, List.map_map]
      · have hcount : (ke + 15) / 16 = 1 := by omega
        have hlen : ((List.range ke).map f).length ≤ 16 := by rwa [List.length_map, List.length_range]
        rw [hcount, List.take_of_length_le hlen, List.drop_of_length_le hlen, runsOf_nil]
        exact congrArg (fun l => [l.map f]) (runIndices_last hlast).symm

/-- One more run of a cell. -/
def addRun (acc : Nat × Flags) (run : List (Fp × Flags)) : Nat × Flags :=
  ((fFP32.add 0 acc.1 (runSum run).1).1, (acc.2.or (runSum run).2).or (fFP32.add 0 acc.1 (runSum run).1).2)

theorem mmaCell_eq (cell : Nat) (a b : List Fp) :
    mmaCell cell a b = (runsOf a.length ((a.zip b).map fun e => Fp.mul e.1 e.2)).foldl addRun (cell, {}) := rfl

theorem Fp.HasUnits.eq_fin {n : Nat} {x : Fp} {v : Int} (h : x.HasUnits n v) : ∃ neg m e, x = .fin neg m e := by
  obtain ⟨neg, m, k⟩ := h
  exact ⟨neg, m, _, rfl⟩

/-- The sum of a run of finite products, rounded once to nearest (R64). -/
theorem runSum_roundsTo {n : Nat} {term : Nat → Fp × Flags} {units : Nat → Int} {run : List Nat}
    (h : ∀ m ∈ run, (term m).1.HasUnits (149 + n) (units m)) :
    RoundsTo 0 (2 ^ n) (run.foldl (fun e m => e + units m) 0) (runSum (run.map term)).1 := by
  have hnan : ((run.map term).map (·.1)).any (·.isNan) = false := by
    rw [List.map_map, List.any_map, List.any_eq_false]
    intro m hm
    obtain ⟨neg, k, e, heq⟩ := (h m hm).eq_fin
    simp [heq, Fp.isNan]
  have hinf : ∀ neg, ((run.map term).map (·.1)).any (· == .inf neg) = false := by
    intro neg
    rw [List.map_map, List.any_map, List.any_eq_false]
    intro m hm
    obtain ⟨s, k, e, heq⟩ := (h m hm).eq_fin
    simp [heq]
  have hsum : (runSum (run.map term)).1 = (fFP32.convert .byMode (.mode 0) (sumFinite ((run.map term).map (·.1)))).1 := by
    unfold runSum
    dsimp only
    rw [hnan, hinf, hinf]
    rfl
  rw [hsum, List.map_map]
  exact (sumFinite_units (term := fun m => (term m).1) h).convert 0

theorem foldl_addRun_lt (runs : List (List (Fp × Flags))) {acc : Nat × Flags} (h : acc.1 < 2 ^ 32) :
    (runs.foldl addRun acc).1 < 2 ^ 32 := by
  induction runs generalizing acc with
  | nil => exact h
  | cons run runs ih => exact ih (fp32_add_spec 0 acc.1 (runSum run).1).1

/-- A cell that ends finite was finite. -/
theorem finite_of_foldl_addRun (runs : List (List (Fp × Flags))) {acc : Nat × Flags}
    (h : (fp32Units (runs.foldl addRun acc).1).isSome = true) : (fp32Units acc.1).isSome = true := by
  induction runs generalizing acc with
  | nil => exact h
  | cons run runs ih =>
    obtain ⟨x, -, hx, -⟩ := (fp32_add_spec 0 acc.1 (runSum run).1).2 (ih (acc := addRun acc run) h)
    rw [hx]
    rfl

/-- The runs of finite products, added in order to a cell that ends finite (R64). -/
theorem foldl_addRun_runsAdded {n : Nat} {term : Nat → Fp × Flags} {units : Nat → Int} {runs : List (List Nat)}
    (h : ∀ run ∈ runs, ∀ m ∈ run, (term m).1.HasUnits (149 + n) (units m)) {acc : Nat × Flags}
    (hfin : (fp32Units ((runs.map (·.map term)).foldl addRun acc).1).isSome = true) :
    runsAdded (2 ^ n) acc.1 (runs.map fun run => run.foldl (fun e m => e + units m) 0) ((runs.map (·.map term)).foldl addRun acc).1 := by
  induction runs generalizing acc with
  | nil => rfl
  | cons run runs ih =>
    have hcell := finite_of_foldl_addRun (runs.map (·.map term)) hfin
    obtain ⟨x, y, hx, hy⟩ := (fp32_add_spec 0 acc.1 (runSum (run.map term)).1).2 hcell
    refine ⟨_, x, y, _, hx, hy, (runSum_roundsTo (h run List.mem_cons_self)).2 ?_, (fp32_add_roundsTo 0 hx hy).2 hcell,
      ih (fun r hr => h r (List.mem_cons_of_mem _ hr)) hfin⟩
    rw [hy]
    rfl

end Sys2Proof.Machine
end

section
/-! PROOF. The cells that an MMA of BF16 leaves in the store, and the settlement of rounded values (R55, R64, R174). -/

namespace Sys2Proof.Machine

open Sys2Proof

/-! ### The cells an MMA writes (R174) -/

/-- A row of BF16 elements. -/
theorem rowElems_bf16 {h : Shape} (hfmt : h.fmt = .bf16) (v : BitVec 32768) (r : Nat) :
    rowElems h v r = (List.range h.ke).map fun k => fBF16.dec (tileElem v .bf16 r k) := by
  unfold rowElems
  rw [hfmt]
  rfl

theorem zipIdx_map_range {α : Type} (f : Nat → α) (n : Nat) : ((List.range n).map f).zipIdx = (List.range n).map fun j => (f j, j) := by
  refine List.ext_getElem (by simp) fun j _ _ => ?_
  simp

/-- The entries of a floating-point MMA: one for each cell of its region (R174). -/
theorem mem_mmaCells {c : CoreSt} {ta tb : Nat} {ha hb : Shape} {row col : Nat} {e : (Nat × Nat) × Half} :
    e ∈ (mmaCells c ta tb ha hb .float row col).1 ↔ ∃ i < ha.rows, ∃ j < hb.rows, e = ((row + i, col + j),
      BitVec.ofNat 32 (mmaCell (c.cell (row + i) (col + j)).toNat (rowElems ha (c.tile ta) i) (rowElems hb (c.tile tb) j)).1) := by
  unfold mmaCells
  dsimp only
  rw [zipIdx_map_range]
  simp only [List.mem_map, List.mem_flatMap, List.mem_range]
  constructor
  · rintro ⟨_, ⟨i, hi, _, ⟨j, hj, rfl⟩, rfl⟩, rfl⟩
    exact ⟨i, hi, j, hj, rfl⟩
  · rintro ⟨i, hi, j, hj, rfl⟩
    exact ⟨_, ⟨i, hi, _, ⟨j, hj, rfl⟩, rfl⟩, rfl⟩

/-- A cell after writes that give it one value. -/
theorem CoreSt.cell_setCells (c : CoreSt) {l : List ((Nat × Nat) × Half)} {row col : Nat} {v : Half} (hcol : col < 128)
    (hcols : ∀ e ∈ l, e.1.2 < 128) (hmem : ((row, col), v) ∈ l) (hone : ∀ e ∈ l, e.1 = (row, col) → e.2 = v) :
    (c.setCells l).cell row col = v := by
  induction l using List.reverseRecOn with
  | nil => cases hmem
  | append_singleton l e ih =>
    have hlast : (c.setCells (l ++ [e])) = (c.setCells l).setCell e.1.1 e.1.2 e.2 := List.foldl_append
    rw [hlast, CoreSt.cell, CoreSt.setCell, tget_tset]
    have hin : e ∈ l ++ [e] := List.mem_append_right _ (List.mem_singleton.mpr rfl)
    split
    · next hkey =>
      have hec := hcols e hin
      exact hone e hin (Prod.ext (by dsimp only; omega) (by dsimp only; omega))
    · next hkey =>
      refine ih (fun e he => hcols e (List.mem_append_left _ he)) ?_ fun e he => hone e (List.mem_append_left _ he)
      refine (List.mem_append.mp hmem).resolve_right fun h => hkey ?_
      rw [← List.mem_singleton.mp h]

theorem Cells.col_of_inside {k : Cells} {height : Nat} (h : k.inside height = .ok ()) : k.col + k.nc ≤ 128 := by
  unfold Cells.inside at h
  split at h
  · cases h
  · next hnone =>
    unfold Cells.outside at hnone
    split_ifs at hnone with h1 h2
    exact Nat.le_of_not_lt h2

/-- An MMA of BF16 that its check passes: as many elements in each row, and its cells within the store (R173, R176). -/
theorem mmaCheck_bf16 {c : CoreSt} {height ta tb col : Nat} {row : Int} {ha hb : Shape} {p : Pairing}
    (h : mmaCheck c height ta tb row col = .ok (ha, hb, p)) (hfa : ha.fmt = .bf16) (hfb : hb.fmt = .bf16) :
    p = .float ∧ ha.ke = hb.ke ∧ col + hb.rows ≤ 128 := by
  unfold mmaCheck at h
  split at h
  · next ha' hb' _ _ =>
    split at h
    · cases h
    · next p' hpair =>
      obtain ⟨⟨⟩, hin, h⟩ := stop_bind_ok h
      have hshapes : ha' = ha ∧ hb' = hb ∧ p' = p := by
        split at h
        · split at h <;> cases h
          exact ⟨rfl, rfl, rfl⟩
        · cases h
          exact ⟨rfl, rfl, rfl⟩
      obtain ⟨rfl, rfl, rfl⟩ := hshapes
      unfold shapePair at hpair
      rw [hfa, hfb] at hpair
      change (if ha'.ke = hb'.ke then some Pairing.float else none) = some p' at hpair
      split at hpair
      · next hke =>
        cases hpair
        exact ⟨rfl, hke, Cells.col_of_inside hin⟩
      · cases hpair
  · cases h

/-- An MMA that its check passes, on operands without poison, writes its cells (R174, R176). -/
theorem exec_mma {s : State} {a b g : Reg3} {r : Region} {ha hb : Shape} {p : Pairing} (hg : s.guardOn g = true)
    (hcheck : mmaCheck s.me s.accHeight a.toNat b.toNat (cellsOf r s.cur.ostep).row (cellsOf r s.cur.ostep).col = .ok (ha, hb, p))
    (htile : s.me.tileBad = []) (hacc : s.me.accBad = []) :
    ∃ t c, exec (.mma a b r g) s = .next t ∧ ∀ row col, t.me.cell row col = (CoreSt.setCells c
      (mmaCells s.me a.toNat b.toNat ha hb p (cellsOf r s.cur.ostep).row.toNat (cellsOf r s.cur.ostep).col).1).cell row col := by
  have htiles : ∀ t h, s.me.tilePoison t h = .ok () := fun t h => by unfold CoreSt.tilePoison; rw [htile]
  have hcells : ∀ l, s.me.cellPoison l = .ok () := fun l => by unfold CoreSt.cellPoison; rw [hacc]
  let w := mmaCells s.me a.toNat b.toNat ha hb p (cellsOf r s.cur.ostep).row.toNat (cellsOf r s.cur.ostep).col
  refine ⟨((s.raise w.2).setMe ((s.raise w.2).me.setCells w.1)).advance 3, (s.raise w.2).me, ?_, fun row col => ?_⟩
  · change execMma a b r g s = _
    unfold execMma
    rw [State.guarded_on hg]
    dsimp only
    rw [hcheck]
    change s.run (s.me.tilePoison _ _ >>= _) = _
    rw [htiles]
    change s.run (s.me.tilePoison _ _ >>= _) = _
    rw [htiles]
    change s.run (s.me.cellPoison _ >>= _) = _
    rw [hcells]
    rfl
  · rw [State.me_advance, State.me_setMe]
    rfl

/-- The cell of an MMA of BF16 at row i and column j of its region (R64, R174). -/
theorem exec_mma_cell {s : State} {a b g : Reg3} {r : Region} {ha hb : Shape} {p : Pairing} (hg : s.guardOn g = true)
    (hcheck : mmaCheck s.me s.accHeight a.toNat b.toNat (cellsOf r s.cur.ostep).row (cellsOf r s.cur.ostep).col = .ok (ha, hb, p))
    (htile : s.me.tileBad = []) (hacc : s.me.accBad = []) (hfa : ha.fmt = .bf16) (hfb : hb.fmt = .bf16) {i j : Nat} (hi : i < ha.rows)
    (hj : j < hb.rows) : ∃ t, exec (.mma a b r g) s = .next t ∧
      t.me.cell ((cellsOf r s.cur.ostep).row.toNat + i) ((cellsOf r s.cur.ostep).col + j) = BitVec.ofNat 32
        (mmaCell (s.me.cell ((cellsOf r s.cur.ostep).row.toNat + i) ((cellsOf r s.cur.ostep).col + j)).toNat
          (rowElems ha (s.me.tile a.toNat) i) (rowElems hb (s.me.tile b.toNat) j)).1 := by
  obtain ⟨rfl, -, hcols⟩ := mmaCheck_bf16 hcheck hfa hfb
  obtain ⟨t, c, ht, hcell⟩ := exec_mma hg hcheck htile hacc
  refine ⟨t, ht, ?_⟩
  rw [hcell]
  refine CoreSt.cell_setCells c (by omega) (fun e he => ?_) (mem_mmaCells.mpr ⟨i, hi, j, hj, rfl⟩) fun e he hkey => ?_
  · obtain ⟨i', -, j', hj', rfl⟩ := mem_mmaCells.mp he
    dsimp only
    omega
  · obtain ⟨i', -, j', -, rfl⟩ := mem_mmaCells.mp he
    injection hkey with hrow hcol
    obtain rfl : i' = i := by omega
    obtain rfl : j' = j := by omega
    rfl

/-- A cell of BF16 rows of finite elements, which ends finite, is its runs added in order (R64). -/
theorem mmaCell_runsAdded {cell ke r : Nat} {va vb : Nat → Nat} {x y : Nat → Int} (hcell : cell < 2 ^ 32)
    (h : ∀ m < ke, fp32Units (va m * 2 ^ 16) = some (x m) ∧ fp32Units (vb m * 2 ^ 16) = some (y m))
    (hr : (mmaCell cell ((List.range ke).map fun m => fBF16.dec (va m)) ((List.range ke).map fun m => fBF16.dec (vb m))).1 = r) :
    r < 2 ^ 32 ∧ ((fp32Units r).isSome = true → runsAdded (2 ^ 149) cell
      ((List.range ((ke + 15) / 16)).map fun q => (runIndices ke q).foldl (fun e m => e + x m * y m) 0) r) := by
  have hprod : ∀ m < ke, (Fp.mul (fBF16.dec (va m)) (fBF16.dec (vb m))).1.HasUnits (149 + 149) (x m * y m) :=
    fun m hm => (bf16_dec_units (h m hm).1).mul (bf16_dec_units (h m hm).2)
  rw [mmaCell_eq, List.zip_map', List.map_map, List.length_map, List.length_range] at hr
  have hruns := runsOf_range ((fun e : Fp × Fp => Fp.mul e.1 e.2) ∘ fun m => (fBF16.dec (va m), fBF16.dec (vb m))) (Nat.le_refl ke)
  rw [hruns, ← Function.comp_def, ← List.map_map] at hr
  rw [← hr]
  refine ⟨foldl_addRun_lt _ hcell, fun hfin => ?_⟩
  have hadded := foldl_addRun_runsAdded (n := 149) (units := fun m => x m * y m) (fun run hrun m hm => ?_) hfin
  · rwa [List.map_map] at hadded
  · obtain ⟨q, -, rfl⟩ := List.mem_map.mp hrun
    exact hprod m (mem_runIndices hm)

/-- Settles O30: the lanes of VADD, VMUL and VFMA by the rounding of an exact value, the cells of an MMA run by run. -/
theorem roundedValues : Obligations.RoundedValues := by
  refine ⟨fun s d a b g k x y z hg hs hk hx hy => ⟨?_, ?_, fun hz => ?_⟩, fun s a b g r ha hb p i j x y hg => ?_⟩
  · exact vecForm_rounded hg hs hk (fp32_add_roundsTo s.rm hx hy)
  · exact vecForm_rounded hg hs hk (fp32_mul_roundsTo s.rm hx hy)
  · exact vecForm_rounded hg hs hk (fp32_fma_roundsTo s.rm hx hy hz)
  · intro k elem hcheck htile hacc hfa hfb hi hj hunits
    obtain ⟨-, hke, -⟩ := mmaCheck_bf16 hcheck hfa hfb
    obtain ⟨t, ht, hcell⟩ := exec_mma_cell hg hcheck htile hacc hfa hfb hi hj
    rw [rowElems_bf16 hfa, rowElems_bf16 hfb, ← hke] at hcell
    obtain ⟨hlt, hadded⟩ := mmaCell_runsAdded (s.me.cell (k.row.toNat + i) (k.col + j)).isLt hunits rfl
    refine ⟨t, ht, ?_⟩
    dsimp only
    rw [hcell, BitVec.toNat_ofNat, Nat.mod_eq_of_lt hlt]
    exact hadded

end Sys2Proof.Machine
end

section
/-! SUPPORT. The decoder's conditions, and the fields of a frame as its tables see them (R73-R81). -/

namespace Sys2Proof

/-! ### Bits of appended fields -/

theorem bit_hi {m n i : Nat} (x : BitVec m) (y : BitVec n) (h : n ≤ i) : (x ++ y).getLsbD i = x.getLsbD (i - n) := by
  rw [BitVec.getLsbD_append, if_neg (Nat.not_lt.mpr h)]
theorem bit_lo {m n i : Nat} (x : BitVec m) (y : BitVec n) (h : i < n) : (x ++ y).getLsbD i = y.getLsbD i := by
  rw [BitVec.getLsbD_append, if_pos h]
theorem bit_ofBool (b : Bool) : (BitVec.ofBool b).getLsbD 0 = b := by cases b <;> rfl

/-- The upper and the lower of two appended fields. -/
theorem ext_upper {m n : Nat} (x : BitVec m) (y : BitVec n) : (x ++ y).extractLsb' n m = x := by
  rw [ext_hi x y (Nat.le_refl n), Nat.sub_self, ext_all]
theorem ext_lower {m n : Nat} (x : BitVec m) (y : BitVec n) : (x ++ y).extractLsb' 0 n = y := by
  rw [ext_lo x y (Nat.le_of_eq (Nat.zero_add n)), ext_all]
theorem bit_upper {m : Nat} (x : BitVec m) (y : BitVec 1) {i : Nat} : (x ++ y).getLsbD (i + 1) = x.getLsbD i :=
  bit_hi x y (Nat.le_add_left 1 i)
theorem bit_lower {m : Nat} (x : BitVec m) (y : BitVec 1) : (x ++ y).getLsbD 0 = y.getLsbD 0 := bit_lo x y Nat.one_pos

/-! ### Fields of the layouts (R73, R80) -/

section Layouts

variable (op o : BitVec 3) (s c : BitVec 2) (q : BitVec 4) (n : BitVec 12) (v : BitVec 11) (w p z : BitVec 1) (r : Reg5)

@[simp] theorem spaceForm_op : ((op ++ s : BitVec 5) ++ w : BitVec 6).extractLsb' 3 3 = op := by
  simp (disch := decide) only [ext_hi, ext_all, Nat.reduceSub]
@[simp] theorem spaceForm_space : ((op ++ s : BitVec 5) ++ w : BitVec 6).extractLsb' 1 2 = s := by
  simp (disch := decide) only [ext_hi, ext_lo, ext_all, Nat.reduceSub]
@[simp] theorem spaceForm_bit : ((op ++ s : BitVec 5) ++ w : BitVec 6)[0] = w[0] := bit_lower _ w

@[simp] theorem laneForm_op : (q ++ s : BitVec 6).extractLsb' 2 4 = q := ext_upper q s
@[simp] theorem laneForm_size : (q ++ s : BitVec 6).extractLsb' 0 2 = s := ext_lower q s

@[simp] theorem pairForm_hi : (op ++ o : BitVec 6).extractLsb' 3 3 = op := ext_upper op o
@[simp] theorem pairForm_lo : (op ++ o : BitVec 6).extractLsb' 0 3 = o := ext_lower op o

@[simp] theorem atForm_op : (((q ++ o : BitVec 7) ++ w : BitVec 8) ++ p : BitVec 9).extractLsb' 5 4 = q := by
  simp (disch := decide) only [ext_hi, ext_all, Nat.reduceSub]
@[simp] theorem atForm_ord : (((q ++ o : BitVec 7) ++ w : BitVec 8) ++ p : BitVec 9).extractLsb' 2 3 = o := by
  simp (disch := decide) only [ext_hi, ext_lo, ext_all, Nat.reduceSub]
@[simp] theorem atForm_w : (((q ++ o : BitVec 7) ++ w : BitVec 8) ++ p : BitVec 9)[1] = w[0] :=
  (bit_upper _ p).trans (bit_lower _ w)
@[simp] theorem atForm_p : (((q ++ o : BitVec 7) ++ w : BitVec 8) ++ p : BitVec 9)[0] = p[0] := bit_lower _ p

@[simp] theorem geomForm_op : (((op ++ w : BitVec 4) ++ p : BitVec 5) ++ z : BitVec 6).extractLsb' 3 3 = op := by
  simp (disch := decide) only [ext_hi, ext_all, Nat.reduceSub]
@[simp] theorem geomForm_tb : (((op ++ w : BitVec 4) ++ p : BitVec 5) ++ z : BitVec 6)[2] = w[0] :=
  (bit_upper _ z).trans ((bit_upper _ p).trans (bit_lower _ w))
@[simp] theorem geomForm_nf : (((op ++ w : BitVec 4) ++ p : BitVec 5) ++ z : BitVec 6)[1] = p[0] :=
  (bit_upper _ z).trans (bit_lower _ p)
@[simp] theorem geomForm_zero : (((op ++ w : BitVec 4) ++ p : BitVec 5) ++ z : BitVec 6)[0] = z[0] := bit_lower _ z

@[simp] theorem sysForm_class : (c ++ n : BitVec 14).extractLsb' 12 2 = c := ext_upper c n
@[simp] theorem sysForm_number : (c ++ n : BitVec 14).extractLsb' 0 12 = n := ext_lower c n

@[simp] theorem cmpiForm_cc : (op ++ v : BitVec 14).extractLsb' 11 3 = op := ext_upper op v
@[simp] theorem cmpiForm_imm : (op ++ v : BitVec 14).extractLsb' 0 11 = v := ext_lower op v

@[simp] theorem gField_zero : (o ++ r : BitVec 8).extractLsb' 5 3 = o := ext_upper o r
@[simp] theorem gField_reg : (o ++ r : BitVec 8).extractLsb' 0 5 = r := ext_lower o r

@[simp] theorem countField_zero (m : BitVec 28) : (m ++ q : Half).extractLsb' 4 28 = m := ext_upper m q
@[simp] theorem countField_count (m : BitVec 28) : (m ++ q : Half).extractLsb' 0 4 = q := ext_lower m q

@[simp] theorem lengthField_zero (m : BitVec 21) : (m ++ v : Half).extractLsb' 11 21 = m := ext_upper m v
@[simp] theorem lengthField_length (m : BitVec 21) : (m ++ v : Half).extractLsb' 0 11 = v := ext_lower m v

@[simp] theorem levelField_zero : (o ++ c : Reg5).extractLsb' 2 3 = o := ext_upper o c
@[simp] theorem levelField_level : (o ++ c : Reg5).extractLsb' 0 2 = c := ext_lower o c

end Layouts

/-! ### Codes of enumerated fields (R78, R80) -/

@[simp] theorem Order.ofCode_code (o : Order) : Order.ofCode o.code.toNat = some o := by cases o <;> rfl
@[simp] theorem Scope.ofCode_code (s : Scope) : Scope.ofCode s.code.toNat = some s := by cases s <;> rfl
@[simp] theorem Space.ofCode_code (s : Space) : Space.ofCode s.code.toNat = some s := by cases s <;> rfl
@[simp] theorem Cc.ofCode_code (c : Cc) : Cc.ofCode c.code.toNat = some c := by cases c <;> rfl
@[simp] theorem AmoOp.ofCode_code (k : AmoOp) : AmoOp.ofCode k.code.toNat = some k := by cases k <;> rfl
@[simp] theorem CasFail.ofCode_code (f : CasFail) : CasFail.ofCode f.code.toNat = some f := by cases f <;> rfl
@[simp] theorem FI.ofCode_code (f : FI) : FI.ofCode f.code.toNat = some f := by rcases f with f | f <;> cases f <;> rfl
@[simp] theorem FI.ofCode_vfCode (f : VF) : FI.ofCode f.code.toNat = some (.f f) := FI.ofCode_code (.f f)
@[simp] theorem FI.ofCode_viCode (f : VI) : FI.ofCode f.code.toNat = some (.i f) := FI.ofCode_code (.i f)
@[simp] theorem ES.ofCode_code (e : ES) : ES.ofCode e.code.toNat = e := by cases e <;> rfl
@[simp] theorem Fmt.ofCode_code (f : Fmt) : Fmt.ofCode f.code.toNat = some f := by cases f <;> rfl
@[simp] theorem Act.ofCode_code (a : Act) : Act.ofCode a.code.toNat = some a := by cases a <;> rfl
@[simp] theorem Gate.ofCode_code (k : Gate) : Gate.ofCode k.code.toNat = some k := by cases k <;> rfl
@[simp] theorem Engine.ofCode_code (e : Engine) : Engine.ofCode e.code.toNat = some e := by cases e <;> rfl

/-- The operation codes of CAS are none of the other atomics' (R80). -/
@[simp] theorem AmoOp.ofCode_casCode (f : CasFail) : AmoOp.ofCode f.code.toNat = none := by cases f <;> rfl

/-! ### Steps 4 and 5 of R81 -/

@[simp] theorem firstBad_nil : firstBad [] = none := rfl
@[simp] theorem firstBad_cons_eq_none (c : Bool × Nat) (cs : List (Bool × Nat)) :
    firstBad (c :: cs) = none ↔ c.1 = false ∧ firstBad cs = none := by
  obtain ⟨b, n⟩ := c
  cases b with
  | false => simp [firstBad]
  | true =>
    simp only [firstBad, reduceCtorEq, false_and, iff_false]
    split <;> simp

/-- An instruction is decoded exactly where no condition refuses it. -/
@[simp] theorem Checked.run_eq_ok (c : Checked) (i : Instr) :
    c.run = .ok i ↔ firstBad c.ill = none ∧ firstBad c.res = none ∧ c.ins = i := by
  unfold Checked.run
  cases firstBad c.ill <;> cases firstBad c.res <;> simp

/-- The decoder of a reasoning core reads the words of a frame as an instruction, whatever words follow. -/
def Frame.readsAs (f : Frame) (i : Instr) : Prop := ∀ ws, decode false (f.words ++ ws) = .ok i

/-- A frame that passes step 2 of R81 is read as what the table of its major makes of it. -/
theorem Frame.readsAs_of_fits {f : Frame} {i : Instr} {m : BitVec 6} (table : Frame → Checked) (hd : (table f).run = .ok i)
    (hc : decodeMajor f false = table f) (hm : f.base.maj = m) (h0 : m ≠ 0) (hl : (lenMask m.toNat).getLsbD f.lenNat = true) :
    f.readsAs i := by
  subst hm
  exact fun ws => decode_frame false ws h0 hl (hc ▸ hd)

/-- The same for a frame of length n. -/
theorem Frame.readsAs_of (f : Frame) {i : Instr} (table : Frame → Checked) (m : BitVec 6) (n : Nat)
    (hd : (table f).run = .ok i) (hc : decodeMajor f false = table f := by rfl)
    (hm : f.base.maj = m := by rfl) (hn : f.lenNat = n := by rfl)
    (hl : (m != 0) = true ∧ (lenMask m.toNat).getLsbD n = true := by decide) : f.readsAs i :=
  f.readsAs_of_fits table hd hc hm (bne_iff_ne.mp hl.1) (hn ▸ hl.2)

/-- The same for a frame with or without the literal, where the major permits both. -/
theorem Frame.readsAs_of_lit (f : Frame) {i : Instr} (table : Frame → Checked) (m : BitVec 6) (hd : (table f).run = .ok i)
    (hc : decodeMajor f false = table f := by rfl) (hm : f.base.maj = m := by rfl) (he : f.ext = none := by rfl)
    (hl : (m != 0) = true ∧ (lenMask m.toNat).getLsbD 0 = true ∧ (lenMask m.toNat).getLsbD 1 = true := by decide) :
    f.readsAs i := by
  obtain ⟨h0, hplain, hlit⟩ := hl
  refine f.readsAs_of_fits table hd hc hm (bne_iff_ne.mp h0) ?_
  unfold Frame.lenNat
  rw [he]
  cases f.lit with
  | none => exact hplain
  | some v => exact hlit

/-- The same for a frame with or without extension words, where the major permits both. -/
theorem Frame.readsAs_of_ext (f : Frame) {i : Instr} (table : Frame → Checked) (m : BitVec 6) (hd : (table f).run = .ok i)
    (hc : decodeMajor f false = table f := by rfl) (hm : f.base.maj = m := by rfl) (he : f.lit = none := by rfl)
    (hl : (m != 0) = true ∧ (lenMask m.toNat).getLsbD 0 = true ∧ (lenMask m.toNat).getLsbD 2 = true := by decide) :
    f.readsAs i := by
  obtain ⟨h0, hplain, hext⟩ := hl
  refine f.readsAs_of_fits table hd hc hm (bne_iff_ne.mp h0) ?_
  unfold Frame.lenNat
  rw [he]
  cases f.ext with
  | none => exact hplain
  | some e => exact hext

/-- The same where the major permits every length. -/
theorem Frame.readsAs_of_any (f : Frame) {i : Instr} (table : Frame → Checked) (m : BitVec 6) (hd : (table f).run = .ok i)
    (hc : decodeMajor f false = table f := by rfl) (hm : f.base.maj = m := by rfl)
    (hl : (m != 0) = true ∧ lenMask m.toNat = 0b1111 := by decide) : f.readsAs i := by
  obtain ⟨h0, hmask⟩ := hl
  refine f.readsAs_of_fits table hd hc hm (bne_iff_ne.mp h0) ?_
  rw [hmask]
  unfold Frame.lenNat
  cases f.ext <;> cases f.lit <;> simp

/-! ### Views of a frame -/

section Source

variable (maj : BitVec 6) (d a : Reg5) (fn : BitVec 6) (g : Reg3) (e : Option (Half × Half))

@[simp] theorem encSrc_reg (r : Reg5) : encSrc maj d a (.reg r) fn g e = mkFrame maj d a r fn g e := rfl
@[simp] theorem encSrc_lit (v : Word) : encSrc maj d a (.lit v) fn g e = mkFrame maj d a 0 fn g e (some v) := rfl

end Source

section Views

variable (maj : BitVec 6) (d a b : Reg5) (fn : BitVec 6) (g : Reg3) (e : Option (Half × Half)) (l : Option Word)

@[simp] theorem mkFrame_base : (mkFrame maj d a b fn g e l).base = ⟨maj, d, a, b, fn, g⟩ := rfl
@[simp] theorem mkFrame_ext : (mkFrame maj d a b fn g e l).ext = e := rfl
@[simp] theorem mkFrame_lit : (mkFrame maj d a b fn g e l).lit = l := rfl
@[simp] theorem mkFrame_src_reg : (mkFrame maj d a b fn g e none).src = .reg b := rfl
@[simp] theorem mkFrame_src_lit (v : Word) : (mkFrame maj d a b fn g e (some v)).src = .lit v := rfl
@[simp] theorem mkFrame_e1 (p q : Half) : (mkFrame maj d a b fn g (some (p, q)) l).e1 = p := rfl
@[simp] theorem mkFrame_e2 (p q : Half) : (mkFrame maj d a b fn g (some (p, q)) l).e2 = q := rfl
@[simp] theorem mkFrame_vext (x : Option VExt) : (mkFrame maj d a b fn g (encV x) l).vext = x := by
  cases x <;> simp [Frame.vext, encV]
@[simp] theorem mkFrame_zm (x : Option VExt) : (mkFrame maj d a b fn g (encV x) l).zm = !zmZero x := by
  cases x with
  | none => simp [Frame.zm, encV, zmZero, Frame.e1]
  | some x => exact x.word_zm.trans (by simp [zmZero])
@[simp] theorem mkFrame_vextRes (x : Option VExt) : firstBad (mkFrame maj d a b fn g (encV x) l).vextRes = none := by
  cases x <;> simp [Frame.vextRes, encV, Frame.e1, Frame.e2]
theorem mkFrame_lpZm {x : Option VExt} (h : lpZmZero x = true) (maj : BitVec 6) (d a b : Reg5) (fn : BitVec 6) (g : Reg3)
    (l : Option Word) : (mkFrame maj d a b fn g (encV x) l).e1.extractLsb' 4 4 = 0 := by
  cases x with
  | none => simp [Frame.e1, encV]
  | some x =>
    simp only [lpZmZero, Bool.and_eq_true, Bool.not_eq_true', beq_iff_eq] at h
    obtain ⟨hzm, hlp⟩ := h
    exact x.word_lpzm hzm hlp

@[simp] theorem encI_d (i : BitVec 14) : (encI maj d a i e l).base.d = d := rfl
@[simp] theorem encI_a (i : BitVec 14) : (encI maj d a i e l).base.a = a := rfl
@[simp] theorem encI_ext (i : BitVec 14) : (encI maj d a i e l).ext = e := rfl
@[simp] theorem encI_lit (i : BitVec 14) : (encI maj d a i e l).lit = l := rfl

end Views

section Conditions

variable (x : Frame)

@[simp] theorem Frame.noLit_fst : x.noLit.1 = x.lit.isSome := rfl
@[simp] theorem Frame.noExt_fst : x.noExt.1 = x.ext.isSome := rfl
@[simp] theorem Frame.needExt_fst : x.needExt.1 = x.ext.isNone := rfl
@[simp] theorem Frame.srcRes_fst : x.srcRes.1 = (x.lit.isSome && x.base.b != 0) := rfl
@[simp] theorem Frame.accRes_eq : x.accRes = [(x.e1.extractLsb' 0 5 != 0, 1)] := rfl

end Conditions

@[simp] theorem hi2_zero : hi2 0#5 = false := rfl

end Sys2Proof
end

section
/-! PROOF. The tables of the majors 0x01 to 0x1F read back what the encoder writes (R80). -/

namespace Sys2Proof

/-! ### Majors 0x01 to 0x14 -/

theorem readsAs_alu {fn : BitVec 6} {k : Reg5 → Reg5 → Src → Reg3 → Instr} (d a : Reg5) (b : Src)
    (g : Reg3) (h : aluOf fn.toNat = some k) : (encSrc 0x01 d a b fn g).readsAs (k d a b g) := by
  cases b with
  | reg r => exact Frame.readsAs_of (mkFrame ..) decodeAlu 0x01 0 (by simp [decodeAlu, h])
  | lit v => exact Frame.readsAs_of (mkFrame _ _ _ _ _ _ _ _) decodeAlu 0x01 1 (by simp [decodeAlu, h])

theorem readsAs_bit {fn : BitVec 6} {k : Reg5 → Reg5 → Reg3 → Instr} (d a : Reg5) (g : Reg3) (h : bitOf fn.toNat = some k) :
    (mkFrame 0x02 d a 0 fn g).readsAs (k d a g) :=
  Frame.readsAs_of _ decodeBit 0x02 0 (by simp [decodeBit, h])

theorem readsAs_sel (d a : Reg5) (b : Src) (ps g : Reg3) : (Instr.sel d a b ps g).frame.readsAs (.sel d a b ps g) := by
  cases b with
  | reg r => exact Frame.readsAs_of (mkFrame ..) decodeSel 0x03 0 (by simp [decodeSel])
  | lit v => exact Frame.readsAs_of (mkFrame _ _ _ _ _ _ _ _) decodeSel 0x03 1 (by simp [decodeSel])

theorem decodeImm_encImm (m : BitVec 6) (k : Reg5 → Reg5 → Imm 14 → Instr) (d a : Reg5) (i : Imm 14) :
    (decodeImm (encImm m d a i) k).run = .ok (k d a i) := by
  cases i <;> simp [decodeImm, encImm]

theorem readsAs_cmp {fn : BitVec 6} (c : Cc) (d : Reg3) (a : Reg5) (b : Src) (g : Reg3) (h : Cc.ofCode fn.toNat = some c) :
    (encSrc 0x0A (z3 d) a b fn g).readsAs (cmpOf c d a b g) := by
  cases b with
  | reg r => exact Frame.readsAs_of (mkFrame ..) decodeCmp 0x0A 0 (by simp [decodeCmp, h])
  | lit v => exact Frame.readsAs_of (mkFrame _ _ _ _ _ _ _ _) decodeCmp 0x0A 1 (by simp [decodeCmp, h])

theorem readsAs_cmpi (c : Cc) (d : Reg3) (a : Reg5) (i : Imm 11) : (encCmpi c d a i).readsAs (cmpiOf c d a i) := by
  cases i with
  | short v => exact Frame.readsAs_of (encI ..) decodeCmpi 0x0B 0 (by simp [decodeCmpi])
  | lit v => exact Frame.readsAs_of (encI _ _ _ _ _ _) decodeCmpi 0x0B 1 (by simp [decodeCmpi])

theorem readsAs_ainc (d : Reg3) (b : Src) (g : Reg3) : (Instr.ainc d b g).frame.readsAs (.ainc d b g) := by
  cases b with
  | reg r => exact Frame.readsAs_of (mkFrame ..) decodePtr 0x0D 0 (by simp [decodePtr])
  | lit v => exact Frame.readsAs_of (mkFrame _ _ _ _ _ _ _ _) decodePtr 0x0D 1 (by simp [decodePtr])

/-- The pass count of a well-formed REP is read back: a register is not G0 (R80). -/
theorem decodeRep_count {nm1 : Reg5} {n : Count} (h : (Instr.rep nm1 n).wf = true) :
    (((countFields n).1 != 0 && (countFields n).2 != 0) = false) ∧
      (if (countFields n).1 = 0 then Count.imm (countFields n).2 else .reg (countFields n).1) = n := by
  cases n with
  | reg r =>
    have hr : r ≠ 0 := bne_iff_ne.mp h
    exact ⟨Bool.and_false _, if_neg hr⟩
  | imm v => exact ⟨rfl, rfl⟩

theorem readsAs_rep {nm1 : Reg5} {n : Count} (hn : (Instr.rep nm1 n).wf = true) :
    (Instr.rep nm1 n).frame.readsAs (.rep nm1 n) := by
  obtain ⟨hz, hc⟩ := decodeRep_count hn
  exact Frame.readsAs_of (encI _ _ _ _) decodeRep 0x13 0 (by simp only [decodeRep, encI_a, encI_d, imm14_encI, hz, hc]; simp)

theorem readsAs_repStepped {nm1 : Reg5} {n : Count} {s : RepSteps} (hn : (Instr.repStepped nm1 n s).wf = true) :
    (Instr.repStepped nm1 n s).frame.readsAs (.repStepped nm1 n s) := by
  obtain ⟨hn, hs⟩ := Bool.and_eq_true_iff.mp hn
  obtain ⟨hz, hc⟩ := decodeRep_count (nm1 := nm1) hn
  have hs := decide_eq_false (Nat.not_le.mpr (of_decide_eq_true hs))
  exact Frame.readsAs_of (encI _ _ _ _ (some _)) decodeRep 0x13 2 (by
    simp only [decodeRep, encI_a, encI_d, encI_ext, imm14_encI, hz, hc]; simp; exact hs)

/-! ### Majors 0x18 to 0x1F -/

section Load

variable (maj : BitVec 6) (d a : Reg5) (s z : BitVec 2) (v : BitVec 7) (g : Reg3) (o : Option Order) (l : Option Word)

@[simp] theorem encM_d : (encM maj d a s z v g o l).base.d = d := rfl
@[simp] theorem encM_a : (encM maj d a s z v g o l).base.a = a := rfl
@[simp] theorem encM_pg : (encM maj d a s z v g o l).base.pg = g := rfl
@[simp] theorem encM_lit : (encM maj d a s z v g o l).lit = l := rfl
@[simp] theorem encM_ext : (encM maj d a s z v g o l).ext = o.map fun o => ((0 : BitVec 29) ++ o.code, 0) := rfl
@[simp] theorem encM_ord : (encM maj d a s z v g o l).ord = o := by
  cases o with
  | none => rfl
  | some o => cases o <;> rfl
@[simp] theorem encM_ordIll : (encM maj d a s z v g o l).ordIll.1 = false := by
  cases o with
  | none => rfl
  | some o => cases o <;> rfl
theorem encM_ordRes {ok : Order → Bool} (h : ok (o.getD .rlx) = true) :
    firstBad ((encM maj d a s z v g o l).ordRes ok) = none := by
  rw [Frame.ordRes, encM_ord]
  cases o with
  | none => simpa [Frame.e1, Frame.e2] using h
  | some o =>
    have hz : ((0 : BitVec 29) ++ o.code).extractLsb' 3 29 = 0 := by
      simp (disch := decide) only [ext_hi, ext_all, Nat.reduceSub]
    simp only [encM_ext, Frame.e1, Frame.e2, Option.map_some, Option.getD_some, hz]
    simpa using h

end Load

section LoadForms

variable {plain : Reg5 → Reg5 → Bool → BitVec 2 → BitVec 7 → Reg3 → Instr}
    {ext : Reg5 → Reg5 → Bool → BitVec 2 → Imm 7 → Option Order → Reg3 → Instr}
    {ptr : Reg5 → Reg3 → BitVec 2 → BitVec 7 → Option Order → Reg3 → Instr} {ok : Order → Bool} {noD : Bool}
    {maj : BitVec 6} {d a : Reg5} {loc : Bool} {z : BitVec 2} {g : Reg3} {o : Option Order}

/-- The S field of the forms that name the global or the core-local space (R78). -/
def locSpace (loc : Bool) : BitVec 2 := (0 : BitVec 1) ++ BitVec.ofBool loc

theorem locSpace_ne (loc : Bool) : locSpace loc ≠ 2 ∧ (locSpace loc == 3) = false ∧ (locSpace loc == 1) = loc := by
  cases loc <;> decide

theorem decodeLoad_plain (v : BitVec 7) (hz : noD = true → z ≠ 3) :
    (decodeLoad (encM maj d a (locSpace loc) z v g none none) plain ext ptr ok noD).run = .ok (plain d a loc z v g) := by
  obtain ⟨h2, h3, h1⟩ := locSpace_ne loc
  simp only [decodeLoad, encM_spc, h1, h3, if_neg h2]
  simpa using hz

theorem decodeLoad_ext {i : Imm 7} (hz : noD = true → z ≠ 3) (hx : extForm i o = true) (ho : ok (o.getD .rlx) = true) :
    (decodeLoad (encMext maj d a loc z i o g) plain ext ptr ok noD).run = .ok (ext d a loc z i o g) := by
  obtain ⟨h2, h3, h1⟩ := locSpace_ne loc
  cases i with
  | lit v =>
    change (decodeLoad (encM maj d a (locSpace loc) z 0 g o (some v)) _ _ _ _ _).run = _
    simp only [decodeLoad, encM_spc, h1, h3, if_neg h2]
    simpa [encM_ordRes, ho] using hz
  | short v =>
    cases o with
    | none => cases hx
    | some o =>
      change (decodeLoad (encM maj d a (locSpace loc) z v g (some o) none) _ _ _ _ _).run = _
      have hr := encM_ordRes maj d a (locSpace loc) z v g (some o) none ho
      simp only [decodeLoad, encM_spc, h1, h3, if_neg h2]
      simpa [hr] using hz

theorem decodeLoad_ptr {a : Reg3} {v : BitVec 7} (hz : noD = true → z ≠ 3) (ho : ok (o.getD .rlx) = true) :
    (decodeLoad (encM maj d (z3 a) 2 z v g o none) plain ext ptr ok noD).run = .ok (ptr d a z v o g) := by
  simp only [decodeLoad, encM_spc, if_true]
  simpa [encM_ordRes, ho] using hz

end LoadForms

theorem hi2_of_lt {a : Reg5} (h : a.toNat < 8) : hi2 a = false := by
  revert a; decide

/-- The two checks of a vector memory form in a well-formed one (R125). -/
theorem vmemOk_checks {s : Space} {a : Reg5} {off : Option Word} (h : vmemOk s a off = true) :
    (s == .dist && off.isSome) = false ∧ (s == .dist && hi2 a) = false := by
  cases s with
  | glob => exact ⟨rfl, rfl⟩
  | loc => exact ⟨rfl, rfl⟩
  | dist =>
    obtain ⟨ho, ha⟩ := Bool.and_eq_true_iff.mp h
    cases off with
    | none => exact ⟨rfl, hi2_of_lt (of_decide_eq_true ha)⟩
    | some v => cases ho

theorem Space.beq_dist {s : Space} (h : (s != .dist) = true) : (s == .dist) = false := by cases s <;> trivial



/-- FADD has no word form (R132). -/
theorem fadd_checks {k : AmoOp} {w : Bool} (h : (k != .fadd || !w) = true) : (k == .fadd && w) = false := by
  cases w
  · exact Bool.and_false _
  · simpa using h

/-- A pointer of an AT form is A0 to A7 (R74). -/
theorem pointer_checks {p : Bool} {a : Reg5} (h : (!p || decide (a.toNat < 8)) = true) : (p && hi2 a) = false := by
  cases p
  · rfl
  · exact hi2_of_lt (of_decide_eq_true h)

section At

variable (maj : BitVec 6) (d a b : Reg5) (op : BitVec 4) (o : Order) (w p : Bool)

@[simp] theorem encAt_d : (encAt maj d a b op o w p).base.d = d := rfl
@[simp] theorem encAt_a : (encAt maj d a b op o w p).base.a = a := rfl
@[simp] theorem encAt_b : (encAt maj d a b op o w p).base.b = b := rfl

end At

theorem sbind_class (d : BitVec 2) : decide (((7 : BitVec 3) ++ d).toNat < 28) = false := by revert d; decide

/-- An order that FENCE permits, at a scope that it permits (R137). -/
theorem fence_checks {o : Order} {s : Scope} (h : (Instr.fence o s 0).wf = true) :
    o ≠ .rlx ∧ (o = .sc → s ≠ .device → s = .system) := by
  revert h; cases o <;> cases s <;> decide

end Sys2Proof
end

section
/-! PROOF. The tables of the majors 0x20 to 0x36 read back what the encoder writes (R80). -/

namespace Sys2Proof

/-! ### Majors 0x20 to 0x2A -/

section Vector

variable {fn : BitVec 6} (d a b : Reg5) (x : Option VExt) (g : Reg3)

theorem readsAs_vf2 {k : VF → Reg5 → Reg5 → Reg5 → Option VExt → Reg3 → Instr} (m : VF) (h : vf2Of fn.toNat = some k) :
    (encVf m fn d a b x g).readsAs (k m d a b x g) := by
  cases m with
  | f32 => exact Frame.readsAs_of_ext _ (decodeVf · .f32) 0x20 (by simp [decodeVf, encVf, h])
  | bf16 => exact Frame.readsAs_of_ext _ (decodeVf · .bf16) 0x21 (by simp [decodeVf, encVf, h])
  | f16 => exact Frame.readsAs_of_ext _ (decodeVf · .f16) 0x22 (by simp [decodeVf, encVf, h])

theorem readsAs_vf1 {k : VF → Reg5 → Reg5 → Option VExt → Reg3 → Instr} (m : VF) (h2 : vf2Of fn.toNat = none)
    (h : vf1Of fn.toNat = some k) : (encVf m fn d a 0 x g).readsAs (k m d a x g) := by
  cases m with
  | f32 => exact Frame.readsAs_of_ext _ (decodeVf · .f32) 0x20 (by simp [decodeVf, encVf, h2, h])
  | bf16 => exact Frame.readsAs_of_ext _ (decodeVf · .bf16) 0x21 (by simp [decodeVf, encVf, h2, h])
  | f16 => exact Frame.readsAs_of_ext _ (decodeVf · .f16) 0x22 (by simp [decodeVf, encVf, h2, h])

theorem readsAs_vi2 {k : VI → Reg5 → Reg5 → Reg5 → Option VExt → Reg3 → Instr} (m : VI) (h : vi2Of fn.toNat = some k) :
    (encVi m fn d a b x g).readsAs (k m d a b x g) := by
  cases m with
  | i32 => exact Frame.readsAs_of_ext _ (decodeVi · .i32) 0x23 (by simp [decodeVi, encVi, h])
  | i16 => exact Frame.readsAs_of_ext _ (decodeVi · .i16) 0x24 (by simp [decodeVi, encVi, h])
  | i8 => exact Frame.readsAs_of_ext _ (decodeVi · .i8) 0x25 (by simp [decodeVi, encVi, h])

theorem readsAs_vnot (m : VI) : (encVi m 11 d a 0 x g).readsAs (.vnot m d a x g) := by
  cases m with
  | i32 => exact Frame.readsAs_of_ext _ (decodeVi · .i32) 0x23 (by simp [decodeVi, encVi, vi2Of])
  | i16 => exact Frame.readsAs_of_ext _ (decodeVi · .i16) 0x24 (by simp [decodeVi, encVi, vi2Of])
  | i8 => exact Frame.readsAs_of_ext _ (decodeVi · .i8) 0x25 (by simp [decodeVi, encVi, vi2Of])

end Vector

theorem vcvtOk_ne_blk {df sf : Fmt} {sat : Bool} (h : vcvtOk df sf sat = true) : df ≠ .blk ∧ sf ≠ .blk := by
  simp only [vcvtOk, Bool.and_eq_true, bne_iff_ne] at h
  obtain ⟨⟨⟨⟨⟨-, hdf⟩, hsf⟩, -⟩, -⟩, -⟩ := h
  exact ⟨hdf, hsf⟩

section Vcvt

variable (df sf : Fmt) (sat : Bool) (x : VExt)

/-- VCVT's E1 (R156). -/
def cvtWord : Half :=
  (0 : BitVec 13) ++ df.code ++ sf.code ++ BitVec.ofBool sat ++ x.lp ++ BitVec.ofBool x.zm ++ (0 : BitVec 4)

theorem cvtWord_df : (cvtWord df sf sat x).extractLsb' 14 5 = df.code := by
  simp (disch := decide) only [cvtWord, ext_hi, ext_lo, ext_all, Nat.reduceSub]
theorem cvtWord_sf : (cvtWord df sf sat x).extractLsb' 9 5 = sf.code := by
  simp (disch := decide) only [cvtWord, ext_hi, ext_lo, ext_all, Nat.reduceSub]
theorem cvtWord_sat : (cvtWord df sf sat x).getLsbD 8 = sat := by
  simp (disch := decide) only [cvtWord, bit_hi, bit_lo, bit_ofBool, Nat.reduceSub]
theorem cvtWord_high : (cvtWord df sf sat x).extractLsb' 19 13 = 0 := by
  simp (disch := decide) only [cvtWord, ext_hi, ext_all, Nat.reduceSub]
theorem cvtWord_low : (cvtWord df sf sat x).extractLsb' 0 4 = 0 := by
  simp (disch := decide) only [cvtWord, ext_lo, ext_all]
theorem cvtWord_vext : VExt.ofWord (cvtWord df sf sat x) = x := by
  simp (disch := decide) only [VExt.ofWord, cvtWord, ext_hi, ext_lo, ext_all, bit_hi, bit_lo, bit_ofBool, Nat.reduceSub]

end Vcvt

theorem readsAs_vcvt {df sf : Fmt} {sat : Bool} (d a : Reg5) (x : VExt) (g : Reg3) (h : vcvtOk df sf sat = true) :
    (mkFrame 0x28 d a 0 0 g (some (cvtWord df sf sat x, 0))).readsAs (.vcvt df sf sat d a x g) := by
  obtain ⟨hdf, hsf⟩ := vcvtOk_ne_blk h
  refine Frame.readsAs_of _ decodeVcvt 0x28 2 ?_
  simp only [decodeVcvt, mkFrame_e1, cvtWord_df, cvtWord_sf, cvtWord_sat, cvtWord_high, cvtWord_low, cvtWord_vext,
    Fmt.ofCode_code, h]
  simp [hdf, hsf]

/-! ### Majors 0x2C to 0x36 -/

section Matrix

variable (r : Region) (act : Act) (k : Gate) (sat bias : Bool)

/-- E2 of MXEPI (R80). -/
def epiWord : Half := (0 : BitVec 23) ++ BitVec.ofBool sat ++ act.code ++ BitVec.ofBool bias ++ (0 : BitVec 3)

/-- E2 of MXGATE (R80). -/
def gateWord : Half := (0 : BitVec 26) ++ k.code ++ (0 : BitVec 4)

theorem readsAs_mxepi (d : Reg3) {a : Reg5} (g : Reg3) (h : (bias || a == 0) = true) :
    (mkFrame 0x2F (z3 d) a 0 0 g (some (r.word, epiWord act sat bias))).readsAs (.mxepi d a r act sat bias g) := by
  refine Frame.readsAs_of _ decodeMx 0x2F 2 ?_
  have ha : (!bias && a != 0) = false := by cases bias <;> simp_all
  simp (disch := decide) only [decodeMx, mkFrame_e1, mkFrame_e2, mkFrame_base, epiWord, ext_hi, ext_lo, ext_all, bit_hi, bit_lo,
    bit_ofBool, Nat.reduceSub, Act.ofCode_code, ha]
  simp

theorem readsAs_mxgate (d g : Reg3) :
    (mkFrame 0x2F (z3 d) 0 0 1 g (some (r.word, gateWord k))).readsAs (.mxgate d r k g) := by
  refine Frame.readsAs_of _ decodeMx 0x2F 2 ?_
  simp (disch := decide) only [decodeMx, mkFrame_e1, mkFrame_e2, mkFrame_base, gateWord, ext_hi, ext_lo, ext_all, Nat.reduceSub,
    Gate.ofCode_code]
  simp

theorem readsAs_mxred (int : Bool) (a : Reg5) (off : Option Word) (g : Reg3) :
    (Instr.mxred int a r off g).frame.readsAs (.mxred int a r off g) := by
  have hd : (decodeMxred (mkFrame 0x30 0 a 0 ((0 : BitVec 5) ++ BitVec.ofBool int) g (some (r.word, 0)) off)).run =
      .ok (.mxred int a r off g) := by
    simp (disch := decide) only [decodeMxred, mkFrame_base, ext_hi, ext_all, bit_lo, bit_ofBool, Nat.reduceSub]
    simp
  cases off with
  | none => exact Frame.readsAs_of _ decodeMxred 0x30 2 hd
  | some v => exact Frame.readsAs_of _ decodeMxred 0x30 3 hd

end Matrix

theorem readsAs_tldLit (op : TileOp) (d : Reg3) (a b : Reg5) {s : Space} (v : Word) (g : Reg3) (h : (s != .dist) = true) :
    (encTile op d a b s (some v) g).readsAs (.tldLit op d a b s v g) := by
  have hs := Space.beq_dist h
  cases op <;> exact Frame.readsAs_of _ decodeTile 0x2C 1 (by simp [decodeTile, encTile, TileOp.code, hs])

/-- The pointer of a tile access is A0 to A7 (R74). -/
theorem tilePointer_checks {s : Space} {a : Reg5} (h : (s != .dist || decide (a.toNat < 8)) = true) :
    (s == .dist && hi2 a) = false := by
  cases s with
  | glob => rfl
  | loc => rfl
  | dist => exact hi2_of_lt (of_decide_eq_true h)

section Spe

variable (xd xa : BitVec 8) (a : Reg5) (op : BitVec 5) (g : Reg3) (e : Option (Half × Half)) (l : Option Word)

@[simp] theorem encX_pg : (encX xd xa op g e l).base.pg = g := rfl
@[simp] theorem encX_ext : (encX xd xa op g e l).ext = e := rfl
@[simp] theorem encX_lit : (encX xd xa op g e l).lit = l := rfl
@[simp] theorem encX_e1 (p q : Half) : (encX xd xa op g (some (p, q)) l).e1 = p := rfl
@[simp] theorem encX_e2 (p q : Half) : (encX xd xa op g (some (p, q)) l).e2 = q := rfl

end Spe

/-- The shape of a message form is assigned, and with FM = 2 names no XB (R204). -/
theorem SpeExt.ok_iff {e : SpeExt} : e.ok = true ↔ e.shape.toNat < 24 ∧ (16 ≤ e.shape.toNat → e.xb = 0) := by
  simp only [SpeExt.ok, Bool.and_eq_true, Bool.or_eq_true, decide_eq_true_eq, beq_iff_eq, ← Nat.not_le, ← imp_iff_not_or]

/-- The shape of a tree is one of those with FM = 2 (R204). -/
theorem SpeExt.okTree_iff {e : SpeExt} : e.okTree = true ↔ e.shape.toNat < 24 ∧ 16 ≤ e.shape.toNat := by
  simp only [SpeExt.okTree, Bool.and_eq_true, decide_eq_true_eq, and_comm]

/-- SPLD and SPST with extension words, a literal or both (R209). -/
theorem decodeSpe_move {n : Option (BitVec 4)} {off : Option Word} (xd : BitVec 8) (a : Reg5) (g : Reg3)
    (h : (n.isSome || off.isSome) = true) : (decodeSpe (encSpMove xd a 0 n off g)).run = .ok (.spldExt xd a n off g) ∧
      (decodeSpe (encSpMove xd a 1 n off g)).run = .ok (.spstExt xd a n off g) := by
  cases n with
  | some n => simp [decodeSpe, encSpMove]
  | none =>
    cases off with
    | none => cases h
    | some v => simp [decodeSpe, encSpMove, Frame.e1, Frame.e2]

end Sys2Proof
end

section
/-! PROOF. Every well-formed instruction is read back from its words (R71-R81). -/

namespace Sys2Proof

/-! ### The checks that a system form states of its operands -/

/-- A queue port that QRD names has a read side, and the words that it gives fit the register file (R25, R231). -/
theorem qrd_checks {d : Reg5} {q g : Reg3} (h : (Instr.qrd d q g).wf = true) :
    q ≠ 1 ∧ (q = 0 → decide (30 < d.toNat) = false) ∧ (q = 2 → decide (24 < d.toNat) = false) := by
  obtain ⟨h, h2⟩ := Bool.and_eq_true_iff.mp h
  obtain ⟨h1, h0⟩ := Bool.and_eq_true_iff.mp h
  refine ⟨bne_iff_ne.mp h1, ?_, ?_⟩
  · rintro rfl; exact decide_eq_false (Nat.not_lt.mpr (of_decide_eq_true h0))
  · rintro rfl; exact decide_eq_false (Nat.not_lt.mpr (of_decide_eq_true h2))

/-- A queue port that QWR names has a write side (R25). -/
theorem qwr_checks {d a : Reg5} {q g : Reg3} (h : (Instr.qwr d a q g).wf = true) : (q ≠ 0 ∧ q ≠ 2) ∧ q ≠ 3 := by
  obtain ⟨h, h3⟩ := Bool.and_eq_true_iff.mp h
  obtain ⟨h0, h2⟩ := Bool.and_eq_true_iff.mp h
  exact ⟨⟨bne_iff_ne.mp h0, bne_iff_ne.mp h2⟩, bne_iff_ne.mp h3⟩

/-- A Mirror transfer has 1 to 1,024 bytes (R80). -/
theorem length_checks {len : BitVec 11} (h : (decide (1 ≤ len.toNat) && decide (len.toNat ≤ 1024)) = true) :
    len ≠ 0 ∧ len.toNat ≤ 1024 := by
  obtain ⟨h1, h2⟩ := Bool.and_eq_true_iff.mp h
  refine ⟨?_, of_decide_eq_true h2⟩
  rintro rfl
  exact absurd h1 (by decide)

/-- Timeline numbers 10 to 31 are unassigned (R80). -/
theorem timeline_checks {t : Reg5} (h : decide (t.toNat < 10) = true) : decide (10 ≤ t.toNat) = false :=
  decide_eq_false (Nat.not_le.mpr (of_decide_eq_true h))

/-! ### Every instruction -/

/-- The frame of a well-formed instruction is read as that instruction (R71-R81), major by major. -/
theorem Instr.readsAs_frame {i : Instr} (hw : i.wf = true) (he : i.isEvent = false) : i.frame.readsAs i := by
  cases i with
  -- majors 0x01 to 0x14
  | add d a b g | sub d a b g | mul d a b g | mulh d a b g | mulhu d a b g | div d a b g | divu d a b g | rem d a b g
  | remu d a b g | and d a b g | or d a b g | xor d a b g | andn d a b g | orn d a b g | shl d a b g | shr d a b g
  | sra d a b g | rotl d a b g | min d a b g | max d a b g | minu d a b g | maxu d a b g => exact readsAs_alu d a b g rfl
  | clz d a g | ctz d a g | popc d a g | brev d a g | bswap d a g | sextB d a g | sextH d a g | sextW d a g | zextB d a g
  | zextH d a g | zextW d a g | mov d a g => exact readsAs_bit d a g rfl
  | sel d a b ps g => exact readsAs_sel d a b ps g
  | addi d a i => cases i <;> exact Frame.readsAs_of_lit (encImm ..) (decodeImm · .addi) 0x04 (decodeImm_encImm ..)
  | andi d a i => cases i <;> exact Frame.readsAs_of_lit (encImm ..) (decodeImm · .andi) 0x05 (decodeImm_encImm ..)
  | ori d a i => cases i <;> exact Frame.readsAs_of_lit (encImm ..) (decodeImm · .ori) 0x06 (decodeImm_encImm ..)
  | xori d a i => cases i <;> exact Frame.readsAs_of_lit (encImm ..) (decodeImm · .xori) 0x07 (decodeImm_encImm ..)
  | shli d a n | shri d a n | srai d a n | rotli d a n =>
    exact Frame.readsAs_of (encI ..) decodeShiftImm 0x08 0 (by
      simp (disch := decide) only [decodeShiftImm, imm14_encI, ext_lo, ext_hi, ext_all, Nat.reduceSub]; simp)
  | movi d i => exact Frame.readsAs_of (encI ..) decodeMovi 0x09 0 (by simp [decodeMovi])
  | moviLit d v => exact Frame.readsAs_of (encI _ _ _ _ _ _) decodeMovi 0x09 1 (by simp [decodeMovi])
  | cmpEq d a b g => exact readsAs_cmp .eq d a b g rfl
  | cmpNe d a b g => exact readsAs_cmp .ne d a b g rfl
  | cmpLt d a b g => exact readsAs_cmp .lt d a b g rfl
  | cmpLe d a b g => exact readsAs_cmp .le d a b g rfl
  | cmpLtu d a b g => exact readsAs_cmp .ltu d a b g rfl
  | cmpLeu d a b g => exact readsAs_cmp .leu d a b g rfl
  | cmpiEq d a i => exact readsAs_cmpi .eq d a i
  | cmpiNe d a i => exact readsAs_cmpi .ne d a i
  | cmpiLt d a i => exact readsAs_cmpi .lt d a i
  | cmpiLe d a i => exact readsAs_cmpi .le d a i
  | cmpiLtu d a i => exact readsAs_cmpi .ltu d a i
  | cmpiLeu d a i => exact readsAs_cmpi .leu d a i
  | pand d a b g | por d a b g | pxor d a b g | pnot d a g | pmov d a g =>
    exact Frame.readsAs_of (mkFrame ..) decodePred 0x0C 0 (by simp [decodePred])
  | aput d a g | aget d a g | acfg d a b g => exact Frame.readsAs_of (mkFrame ..) decodePtr 0x0D 0 (by simp [decodePtr])
  | ainc d b g => exact readsAs_ainc d b g
  | br g v => exact Frame.readsAs_of (encB ..) (fun x => ⟨[], [], .br x.base.bpg x.base.disp21⟩) 0x10 0 (by simp)
  | bl g v => exact Frame.readsAs_of (encB ..) (fun x => ⟨[], [], .bl x.base.bpg x.base.disp21⟩) 0x11 0 (by simp)
  | jr a g | jlr a g | ret g => exact Frame.readsAs_of (mkFrame ..) decodeJump 0x12 0 (by simp [decodeJump])
  | rep nm1 n => exact readsAs_rep hw
  | repStepped nm1 n s => exact readsAs_repStepped hw
  | nop | illegal => exact fun _ => rfl
  -- majors 0x18 to 0x1F
  | ld d a loc z v g =>
    exact Frame.readsAs_of_any (encM ..) (decodeLoad · .ld .ldExt .lda Order.okLoad false) 0x18 (decodeLoad_plain v nofun)
  | st d a loc z v g =>
    exact Frame.readsAs_of_any (encM ..) (decodeLoad · .st .stExt .sta Order.okStore false) 0x1A (decodeLoad_plain v nofun)
  | ldS d a loc z v g =>
    exact Frame.readsAs_of_any (encM ..) (decodeLoad · .ldS .ldSExt .ldaS Order.okLoad true) 0x19
      (decodeLoad_plain v fun _ => bne_iff_ne.mp hw)
  | ldExt d a loc z i o g =>
    obtain ⟨hx, ho⟩ := Bool.and_eq_true_iff.mp hw
    cases i <;> exact Frame.readsAs_of_any (encMext ..) (decodeLoad · .ld .ldExt .lda Order.okLoad false) 0x18
      (decodeLoad_ext nofun hx ho)
  | stExt d a loc z i o g =>
    obtain ⟨hx, ho⟩ := Bool.and_eq_true_iff.mp hw
    cases i <;> exact Frame.readsAs_of_any (encMext ..) (decodeLoad · .st .stExt .sta Order.okStore false) 0x1A
      (decodeLoad_ext nofun hx ho)
  | ldSExt d a loc z i o g =>
    obtain ⟨hzx, ho⟩ := Bool.and_eq_true_iff.mp hw
    obtain ⟨hz, hx⟩ := Bool.and_eq_true_iff.mp hzx
    cases i <;> exact Frame.readsAs_of_any (encMext ..) (decodeLoad · .ldS .ldSExt .ldaS Order.okLoad true) 0x19
      (decodeLoad_ext (fun _ => bne_iff_ne.mp hz) hx ho)
  | lda d a z v o g =>
    exact Frame.readsAs_of_any (encM ..) (decodeLoad · .ld .ldExt .lda Order.okLoad false) 0x18 (decodeLoad_ptr nofun hw)
  | sta d a z v o g =>
    exact Frame.readsAs_of_any (encM ..) (decodeLoad · .st .stExt .sta Order.okStore false) 0x1A (decodeLoad_ptr nofun hw)
  | ldaS d a z v o g =>
    obtain ⟨hz, ho⟩ := Bool.and_eq_true_iff.mp hw
    exact Frame.readsAs_of_any (encM ..) (decodeLoad · .ldS .ldSExt .ldaS Order.okLoad true) 0x19
      (decodeLoad_ptr (fun _ => bne_iff_ne.mp hz) ho)
  | vld d a s off x g =>
    obtain ⟨hl, ha⟩ := vmemOk_checks hw
    exact Frame.readsAs_of_any (encVmem ..) decodeVmem 0x1B (by simp [decodeVmem, encVmem, hl, ha])
  | vst d a s off x g =>
    obtain ⟨hv, hz⟩ := Bool.and_eq_true_iff.mp hw
    obtain ⟨hl, ha⟩ := vmemOk_checks hv
    exact Frame.readsAs_of_any (encVmem ..) decodeVmem 0x1B (by simp [decodeVmem, encVmem, hl, ha, hz])
  | vlds d a b s w off x g | vgth d a b s w off x g =>
    have hs := Space.beq_dist hw
    exact Frame.readsAs_of_any (encVmem ..) decodeVmem 0x1B (by simp [decodeVmem, encVmem, hs])
  | vsct d a b s w off x g =>
    obtain ⟨hs, hz⟩ := Bool.and_eq_true_iff.mp hw
    have hs := Space.beq_dist hs
    exact Frame.readsAs_of_any (encVmem ..) decodeVmem 0x1B (by simp [decodeVmem, encVmem, hs, hz])
  | amo d a b op o w =>
    exact Frame.readsAs_of (encAt ..) (decodeAmo · false) 0x1C 0 (by simp [decodeAmo, fadd_checks hw])
  | cas d a b f o w =>
    have hf : f.okWith o = true := hw
    exact Frame.readsAs_of (encAt ..) (decodeAmo · false) 0x1C 0 (by simp [decodeAmo, hf])
  | amoLocal d a b op o w p =>
    obtain ⟨hk, hp⟩ := Bool.and_eq_true_iff.mp hw
    exact Frame.readsAs_of (encAt ..) (decodeAmo · true) 0x1D 0 (by simp [decodeAmo, fadd_checks hk, pointer_checks hp])
  | casLocal d a b f o w p =>
    obtain ⟨hf, hp⟩ := Bool.and_eq_true_iff.mp hw
    exact Frame.readsAs_of (encAt ..) (decodeAmo · true) 0x1D 0 (by simp [decodeAmo, hf, pointer_checks hp])
  | amof d a b op o w => exact Frame.readsAs_of (encAt ..) decodeAmof 0x1E 0 (by simp [decodeAmof, fadd_checks hw])
  | fence o s g => exact Frame.readsAs_of (mkFrame ..) decodeFence 0x1F 0 (by simpa [decodeFence] using fence_checks hw)
  | acq a g | rel a g => exact Frame.readsAs_of (mkFrame ..) decodeFence 0x1F 0 (by simp [decodeFence])
  | pref a off g | clean a off g | czero a off g =>
    exact Frame.readsAs_of_lit (mkFrame _ _ _ _ _ _ _ _) decodeFence 0x1F (by simp [decodeFence])
  | sbind d a g | sfree d g =>
    exact Frame.readsAs_of (mkFrame ..) decodeFence 0x1F 0 (by simp [decodeFence]; exact sbind_class d)
  -- majors 0x20 to 0x2A
  | vadd m d a b x g | vsub m d a b x g | vmul m d a b x g | vfma m d a b x g | vfms m d a b x g | vfnma m d a b x g
  | vmin m d a b x g | vmax m d a b x g | vdiv m d a b x g => exact readsAs_vf2 d a b x g m rfl
  | vabs m d a x g | vneg m d a x g | vsqrt m d a x g | vrcp m d a x g | vrsq m d a x g | vexp m d a x g | vlog m d a x g
  | vsig m d a x g | vtanh m d a x g => exact readsAs_vf1 d a x g m rfl rfl
  | viadd m d a b x g | visub m d a b x g | vimul m d a b x g | vimin m d a b x g | vimax m d a b x g | vshl m d a b x g
  | vshr m d a b x g | vsra m d a b x g | vand m d a b x g | vor m d a b x g | vxor m d a b x g =>
    exact readsAs_vi2 d a b x g m rfl
  | vnot m d a x g => exact readsAs_vnot d a x g m
  | vcmp c f d a b x g =>
    obtain ⟨hu, hv⟩ := Bool.and_eq_true_iff.mp hw
    exact Frame.readsAs_of_ext (mkFrame _ _ _ _ _ _ _ _) decodeVcmp 0x26
      (by simpa [decodeVcmp] using ⟨bne_iff_ne.mp hu, bne_iff_ne.mp hv⟩)
  | vicmp c f d a b x g => exact Frame.readsAs_of_ext (mkFrame _ _ _ _ _ _ _ _) decodeVcmp 0x26 (by simp [decodeVcmp])
  | vmov e d a x g | vbcast e d a x g | vcomp e d a x g | vexpd e d a x g | viota e d x g | vperm e d a b x g | vzip e d a b x g
  | vunzip e d a b x g => exact Frame.readsAs_of_any (mkFrame _ _ _ _ _ _ _ _) decodeLane 0x27 (by simp [decodeLane])
  | vsel e d a b x g =>
    have hz : zmZero x = true := hw
    exact Frame.readsAs_of_any (mkFrame _ _ _ _ _ _ _ _) decodeLane 0x27 (by simp [decodeLane, hz])
  | vslide e d a b x g =>
    cases b <;> exact Frame.readsAs_of_any (mkFrame _ _ _ _ _ _ _ _) decodeLane 0x27 (by simp [decodeLane])
  | vins e d a b x g =>
    have hz : zmZero x = true := hw
    cases b <;> exact Frame.readsAs_of_any (mkFrame _ _ _ _ _ _ _ _) decodeLane 0x27 (by simp [decodeLane, hz])
  | vext e d a b x g =>
    have hz := mkFrame_lpZm (x := x) hw
    cases b <;> exact Frame.readsAs_of_any (mkFrame _ _ _ _ _ _ _ _) decodeLane 0x27 (by simp [decodeLane, hz])
  | vcvt df sf sat d a x g => exact readsAs_vcvt d a x g hw
  | vredAdd f d a x g | vredMin f d a x g | vredMax f d a x g | vredAnd f d a x g | vredOr f d a x g | vredXor f d a x g =>
    have hz : zmZero x = true := hw
    exact Frame.readsAs_of_ext (encVred ..) decodeVred 0x29 (by simp [decodeVred, encVred, hz])
  | vbtst e d a b x g =>
    exact Frame.readsAs_of_ext (mkFrame _ _ _ _ _ _ _ _) decodeVbit 0x2A (by
      simp (disch := decide) only [decodeVbit, mkFrame_base, ext_hi, ext_lo, ext_all, bit_hi, bit_lo, Nat.reduceSub]; simp)
  | vpcnt e d a x g | vfirst e d a x g =>
    have hz : zmZero x = true := hw
    exact Frame.readsAs_of_ext (mkFrame _ _ _ _ _ _ _ _) decodeVbit 0x2A (by
      simp (disch := decide) only [decodeVbit, mkFrame_base, ext_hi, ext_lo, ext_all, bit_hi, bit_lo, Nat.reduceSub]; simp [hz])
  -- majors 0x2C to 0x36
  | tld d a b s g | tst d a b s g =>
    exact Frame.readsAs_of (encTile ..) decodeTile 0x2C 0 (by simp [decodeTile, encTile, TileOp.code, tilePointer_checks hw])
  | tldb d a b s g | tldt d a b s g =>
    exact Frame.readsAs_of (encTile ..) decodeTile 0x2C 0 (by simp [decodeTile, encTile, TileOp.code, Space.beq_dist hw])
  | tldLit op d a b s v g => exact readsAs_tldLit op d a b v g hw
  | tzero d g => exact Frame.readsAs_of (mkFrame ..) decodeAcc 0x2D 0 (by simp [decodeAcc])
  | accz r g => exact Frame.readsAs_of (mkFrame _ _ _ _ _ _ _) decodeAcc 0x2D 2 (by simp [decodeAcc])
  | accrd d r g | accwr a r g =>
    have hr : (r.nr1 == 0 && r.nc1 == 0) = true := hw
    exact Frame.readsAs_of (mkFrame _ _ _ _ _ _ _) decodeAcc 0x2D 2 (by simpa [decodeAcc] using hr)
  | accld a r off g | accst a r off g =>
    cases off with
    | none => exact Frame.readsAs_of (mkFrame _ _ _ _ _ _ _ _) decodeAcc 0x2D 2 (by simp [decodeAcc])
    | some v => exact Frame.readsAs_of (mkFrame _ _ _ _ _ _ _ _) decodeAcc 0x2D 3 (by simp [decodeAcc])
  | mma a b r g =>
    have hr : (r.nr1 == 0 && r.nc1 == 0) = true := hw
    exact Frame.readsAs_of (mkFrame _ _ _ _ _ _ _) decodeMma 0x2E 2 (by simpa [decodeMma] using hr)
  | mxepi d a r act sat bias g => exact readsAs_mxepi r act sat bias d g hw
  | mxgate d r k g => exact readsAs_mxgate r k d g
  | mxred int a r off g => exact readsAs_mxred r int a off g
  | mxsend d a b c g => exact Frame.readsAs_of (mkFrame ..) decodeMxsend 0x31 0 (by simp [decodeMxsend])
  | gori2 k d a b tb nf g | gori3 k d a b tb nf g | gincir k d a b tb nf g | ginsph k d a b tb nf g | gsegx k d a b tb nf g
  | gsegt k d a b tb nf g =>
    have h : geomOk _ a b tb = true := hw
    cases k with
    | false => exact Frame.readsAs_of (encGeom ..) (decodeGeom · false) 0x34 0 (by simp [decodeGeom, encGeom, h])
    | true => exact Frame.readsAs_of (encGeom ..) (decodeGeom · true) 0x35 0 (by simp [decodeGeom, encGeom, h])
  | spld xd a g | spst xd a g => exact Frame.readsAs_of (encX ..) decodeSpe 0x36 0 (by simp [decodeSpe, Frame.e1, Frame.e2])
  | spldExt xd a n off g => exact Frame.readsAs_of_any (encSpMove ..) decodeSpe 0x36 (decodeSpe_move xd a g hw).1
  | spstExt xd a n off g => exact Frame.readsAs_of_any (encSpMove ..) decodeSpe 0x36 (decodeSpe_move xd a g hw).2
  | spmov xd xa g | spset xd a g | spnorm xd xa g | spcvt xd xa g =>
    exact Frame.readsAs_of (encX ..) decodeSpe 0x36 0 (by simp [decodeSpe])
  | sptree xd xa e g =>
    exact Frame.readsAs_of (encSpe ..) decodeSpe 0x36 2 (by simpa [decodeSpe, encSpe] using SpeExt.okTree_iff.mp hw)
  | spup xd xa e g | spdn xd xa e g | spmax xd xa e g =>
    exact Frame.readsAs_of (encSpe ..) decodeSpe 0x36 2 (by simpa [decodeSpe, encSpe] using SpeExt.ok_iff.mp hw)
  -- majors 0x38 to 0x3E
  | bar l g | bararv a g | barwt a g | xph g =>
    exact Frame.readsAs_of (mkFrame ..) (decodeBar · false) 0x38 0 (by simp [decodeBar])
  | push d e g => exact Frame.readsAs_of (mkFrame ..) (decodePush · false) 0x39 0 (by simp [decodePush])
  | tlrd d t g | tlwt a t g =>
    exact Frame.readsAs_of (mkFrame ..) (decodePush · false) 0x39 0 (by simp [decodePush]; exact timeline_checks hw)
  | tlwtLit v t g =>
    exact Frame.readsAs_of (mkFrame _ _ _ _ _ _ _ _) (decodePush · false) 0x39 1
      (by simp [decodePush]; exact timeline_checks hw)
  | send d a b g | recv d a g | rpoll d a g =>
    exact Frame.readsAs_of (mkFrame ..) (decodeMsg · false) 0x3A 0 (by simp [decodeMsg])
  | qrd d q g => exact Frame.readsAs_of (mkFrame ..) (decodeMsg · false) 0x3A 0 (by simp [decodeMsg]; exact qrd_checks hw)
  | qwr d a q g => exact Frame.readsAs_of (mkFrame ..) (decodeMsg · false) 0x3A 0 (by simp [decodeMsg]; exact qwr_checks hw)
  | start d a b g | joinh a g | exit g | region g | ckpt a g =>
    exact Frame.readsAs_of (mkFrame ..) (decodeCtx · false) 0x3B 0 (by simp [decodeCtx])
  | mpub d a b len g | mread d a b len g =>
    exact Frame.readsAs_of (mkFrame _ _ _ _ _ _ _ _) decodeMirror 0x3C 2 (by simpa [decodeMirror] using length_checks hw)
  | mwait d a b g | time d g | sleep b g | wfe g =>
    exact Frame.readsAs_of (mkFrame ..) decodeMirror 0x3C 0 (by simp [decodeMirror])
  | sleepLit v g => exact Frame.readsAs_of (mkFrame _ _ _ _ _ _ _ _) decodeMirror 0x3C 1 (by simp [decodeMirror])
  | mfs d n | mts a n | trap n | eret | tlbfl | tlbren d a =>
    exact Frame.readsAs_of (encI ..) (decodeSys · false) 0x3D 0 (by simp [decodeSys])
  | capld a c | capclr c =>
    exact Frame.readsAs_of (encI ..) (decodeSys · false) 0x3D 0 (by
      simp (disch := decide) only [decodeSys, imm14_encI, ext_ext, Nat.zero_add, ext_hi, ext_lo, ext_all, Nat.reduceSub]; simp)
  | chsend d a b g | chrecv d a b g | chclose a g | vcid d g =>
    exact Frame.readsAs_of (mkFrame ..) decodeYil 0x3E 0 (by simp [decodeYil])
  -- events have no encoding
  | _ => cases he

/-- Decoding the words of a well-formed instruction gives the instruction back, whatever words follow (R71-R81). -/
theorem decode_encode {i : Instr} (hw : i.wf = true) (he : i.isEvent = false) (ws : List Half) :
    decode false (encode i ++ ws) = .ok i := by
  rw [encode, if_neg (Bool.eq_false_iff.mp he)]
  exact Instr.readsAs_frame hw he ws

/-- Settles O1: the decoder evaluated on the words. -/
theorem decodeWords : Obligations.DecodeWords := by
  refine ⟨?_, ?_, ?_, ?_, ?_, ?_, ?_, ?_⟩ <;> decide

/-- Settles O2: the round trip of every instruction, at the majors 0x01 to 0x14 and 0x18 to 0x1F. -/
theorem decodeEncodeScalarAndMemory : Obligations.DecodeEncodeScalarAndMemory :=
  ⟨fun _ ws hw he _ => decode_encode hw he ws, fun _ ws hw he _ _ => decode_encode hw he ws⟩

/-- Settles O3: the round trip of every instruction, at the majors 0x20 to 0x2A and 0x2C to 0x36. -/
theorem decodeEncodeVectorAndArrays : Obligations.DecodeEncodeVectorAndArrays :=
  ⟨fun _ ws hw he _ _ => decode_encode hw he ws, fun _ ws hw he _ _ => decode_encode hw he ws⟩

/-- Settles O4: the round trip of every instruction, at the majors 0x38 to 0x3E. -/
theorem decodeEncodeSystem : Obligations.DecodeEncodeSystem := fun _ ws hw he _ => decode_encode hw he ws

end Sys2Proof
end


section
/-! SUPPORT. Traps: the registers of the context that takes one, through the delivery of R338. -/

namespace Sys2Proof.Machine

open Sys2Proof

/-! ### Records leave every context as it was (R286, R345, R346) -/

/-- The issuing context is the one that it was, unchanged. -/
def State.keepsMy (s t : State) : Prop := t.cur = s.cur ∧ t.my = s.my

theorem State.keepsMy.trans {s t u : State} (h : s.keepsMy t) (h' : t.keepsMy u) : s.keepsMy u :=
  ⟨h'.1.trans h.1, h'.2.trans h.2⟩

theorem State.setBytes_keepsMy (s : State) (p : Place) (bs : List Byte) : s.keepsMy (s.setBytes p bs) :=
  ⟨s.setBytes_cur p bs, s.setBytes_my p bs⟩

theorem State.logCount_keepsMy (s : State) (k : Nat) : s.keepsMy (s.logCount k) := s.setBytes_keepsMy _ _

theorem State.setCore_keepsMy (s : State) (n : Nat) {c : CoreSt} (h : c.ctxs = (s.core n).ctxs := by rfl) :
    s.keepsMy (s.setCore n c) := by
  refine ⟨rfl, ?_⟩
  change ((s.setCore n c).core s.cur.core).ctx s.cur.ctx = (s.core s.cur.core).ctx s.cur.ctx
  rw [State.core_setCore_if]
  split
  · next hn => rw [CoreSt.ctx, CoreSt.ctx, h, hn]
  · rfl

theorem State.postQ2_keepsMy (s : State) (core : Nat) (b : List Byte) : s.keepsMy (s.postQ2 core b) := by
  unfold State.postQ2
  dsimp only
  split
  · exact s.setCore_keepsMy core
  · exact s.logCount_keepsMy 3

/-- Posting an error record writes the log and a port, and no context. -/
theorem State.report_keepsMy (s : State) (r : ErrRec) : s.keepsMy (s.report r) := by
  have hfull : ∀ m, s.keepsMy ({ s with merges := m }.logCount 2) :=
    fun m => State.keepsMy.trans (t := { s with merges := m }) ⟨rfl, rfl⟩ (State.logCount_keepsMy _ 2)
  have hlog : ∀ m p bs, s.keepsMy (({ s with merges := m }.setBytes p bs).logCount 0) := fun m p bs =>
    (State.keepsMy.trans (t := { s with merges := m }) ⟨rfl, rfl⟩ (State.setBytes_keepsMy _ p bs)).trans
      (State.logCount_keepsMy _ 0)
  unfold State.report
  dsimp only
  split
  · exact s.setBytes_keepsMy _ _
  · cases r.core with
    | none =>
      dsimp only
      split
      · exact hfull _
      · exact hlog _ _ _
    | some c =>
      dsimp only
      split
      · exact (hfull _).trans (State.postQ2_keepsMy _ _ _)
      · exact (hlog _ _ _).trans (State.postQ2_keepsMy _ _ _)

/-- Posting a fault record leaves every core. -/
theorem State.postFault_keepsMy (s : State) (core vf page kind src : Nat) : s.keepsMy (s.postFault core vf page kind src) := by
  unfold State.postFault
  dsimp only
  split
  · exact ⟨rfl, rfl⟩
  · split
    · exact ⟨rfl, rfl⟩
    · split <;> exact ⟨rfl, rfl⟩

/-! ### Reading the vector (R338) -/

theorem State.checkSegments_keepsMy {s t : State} {acc : Acc} {inf : AddrInfo} {is : List Item} {ls : List Loc}
    (h : s.checkSegments acc inf is = .ok (ls, t)) : s.keepsMy t := by
  obtain ⟨-, -, h⟩ := stop_bind_ok h
  obtain ⟨-, -, h⟩ := stop_bind_ok h
  obtain ⟨-, -, h⟩ := stop_bind_ok h
  cases h
  exact ⟨rfl, rfl⟩

theorem State.dispatchRead_keepsMy (s : State) (va : Nat) : s.keepsMy (s.dispatchRead va).2 := by
  unfold State.dispatchRead
  dsimp only
  split
  · next heq =>
    split at heq
    · exact State.checkSegments_keepsMy heq
    · exact State.checkGlobal_frame heq
  · exact ⟨rfl, rfl⟩
  · exact ⟨rfl, rfl⟩

theorem State.dispatch_keepsMy (s : State) (as : List Nat) : s.keepsMy (s.dispatch as).2.2.2 := by
  induction as generalizing s with
  | nil => exact ⟨rfl, rfl⟩
  | cons a as ih =>
    have hread := s.dispatchRead_keepsMy a
    cases as with
    | nil => exact hread
    | cons b bs =>
      rw [State.dispatch]
      · split
        · next heq =>
          rw [heq] at hread
          split
          · exact hread.trans (ih _)
          · exact hread
        · next heq =>
          rw [heq] at hread
          exact hread
      · exact List.cons_ne_nil b bs

/-! ### The delivery (R338) -/

/-- The issuing context is the one that it was, with the registers that it had. -/
def State.keepsRegs (s t : State) : Prop := t.cur = s.cur ∧ s.my.sameRegs t.my

theorem State.keepsRegs_setMy (s : State) {x : Ctx} (h : s.my.sameRegs x) : s.keepsRegs (s.setMy x) :=
  ⟨rfl, by rw [State.my_setMy]; exact h⟩

/-- A context with the register fields of another has its registers. -/
theorem Ctx.sameRegs_of_eq {x y : Ctx} (hg : y.g = x.g := by rfl) (hp : y.p = x.p := by rfl) (hv : y.v = x.v := by rfl)
    (ha : y.a = x.a := by rfl) (hsys : y.sys = x.sys := by rfl) (hstr : y.streams = x.streams := by rfl) : x.sameRegs y :=
  ⟨fun r => by rw [Ctx.getG, Ctx.getG, hg], fun r => by rw [Ctx.getP, Ctx.getP, hp], fun r => by rw [Ctx.getV, Ctx.getV, hv],
    fun r => by rw [Ctx.getA, Ctx.getA, ha], fun n => by rw [Ctx.sysr, Ctx.sysr, hsys], hstr⟩

theorem State.keepsMy.regs {s t : State} (h : s.keepsMy t) : s.keepsRegs t := by
  refine ⟨h.1, ?_⟩
  rw [h.2]
  exact Ctx.sameRegs_of_eq

theorem State.keepsRegs.trans {s t u : State} (h : s.keepsRegs t) (h' : t.keepsRegs u) : s.keepsRegs u := by
  obtain ⟨hcur, hg, hp, hv, ha, hsys, hstr⟩ := h
  obtain ⟨hcur', hg', hp', hv', ha', hsys', hstr'⟩ := h'
  exact ⟨hcur'.trans hcur, fun r => (hg' r).trans (hg r), fun r => (hp' r).trans (hp r), fun r => (hv' r).trans (hv r),
    fun r => (ha' r).trans (ha r), fun n => (hsys' n).trans (hsys n), hstr'.trans hstr⟩

theorem State.holdOn_keepsRegs (s : State) (absent : Option (Nat × Nat)) : s.keepsRegs (s.holdOn absent) := by
  have hhold : s.keepsRegs (s.setMy { s.my with run := .holding, holdPage := absent }) :=
    s.keepsRegs_setMy Ctx.sameRegs_of_eq
  cases absent with
  | none => exact hhold
  | some a => exact hhold.trans (State.keepsMy.regs (State.postFault_keepsMy (State.unannounce _) _ _ _ _ _))

/-- Wherever the dispatch leads, the registers are those of the trap state. -/
theorem State.deliverTrap_keepsRegs (s : State) (t : Trap) : s.keepsRegs (s.deliverTrap t) := by
  have hread := (s.dispatch_keepsMy (s.vectors t)).regs
  unfold State.deliverTrap
  rcases hd : s.dispatch (s.vectors t) with ⟨a, r, e, u⟩
  rw [hd] at hread
  have hset : ∀ {v : State} {x : Ctx}, s.keepsRegs v → v.my.sameRegs x → s.keepsRegs (v.setMy x) :=
    fun h hx => h.trans (State.keepsRegs_setMy _ hx)
  have hreport : ∀ {v : State} (rec : ErrRec), s.keepsRegs v → s.keepsRegs (v.report rec) :=
    fun rec h => h.trans (State.report_keepsMy _ rec).regs
  cases r with
  | fails => exact hreport _ (hset hread Ctx.sameRegs_of_eq)
  | holds absent => exact (hset hread Ctx.sameRegs_of_eq).trans (State.holdOn_keepsRegs _ absent)
  | value v =>
    have hrun := hset hread (x := { u.my with run := .running, holdPage := none, invalidAt := none, dispatching := none })
      Ctx.sameRegs_of_eq
    dsimp only
    split
    · exact hreport _ (hset hrun Ctx.sameRegs_of_eq)
    · split
      · exact hreport _ (hset hrun Ctx.sameRegs_of_eq)
      · exact hset hrun Ctx.sameRegs_of_eq

/-! ### The trap state (R337) -/

/-- Entering a trap writes system registers alone. -/
theorem Ctx.enter_general (x : Ctx) (t : Trap) :
    (x.enter t).g = x.g ∧ (x.enter t).p = x.p ∧ (x.enter t).v = x.v ∧ (x.enter t).a = x.a := by
  simp only [Ctx.enter, Ctx.setSysr_g, Ctx.setSysr_p, Ctx.setSysr_v, Ctx.setSysr_a]
  split <;> exact ⟨rfl, rfl, rfl, rfl⟩

theorem Ctx.enter_mon (x : Ctx) (t : Trap) : (x.enter t).mon = true := by
  unfold Ctx.enter Ctx.mon
  dsimp only
  rw [Ctx.sysr_setSysr, getLsbD_setBit_self _ (by decide)]

/-- A context that enters a trap and has it delivered holds its cause, its EPC, MON set and the general registers that it had. -/
theorem State.deliverTrap_enter_saves (s : State) (x : Ctx) (t : Trap) {y : Ctx}
    (hy : ((s.setMy (x.enter t)).deliverTrap t).my = y) :
    y.sysr 0x101 = BitVec.ofNat 64 ((if t.async then 256 else 0) + t.code.toNat) ∧ y.sysr 0x102 = t.epc ∧ y.mon = true ∧
      x.sameG y ∧ x.sameP y ∧ x.sameV y ∧ x.sameA y := by
  obtain ⟨hepc, -, -, -, hcause⟩ := x.enter_saves t
  obtain ⟨heg, hep, hev, hea⟩ := x.enter_general t
  obtain ⟨-, hg, hp, hv, ha, hsys, -⟩ := (s.setMy (x.enter t)).deliverTrap_keepsRegs t
  rw [hy, State.my_setMy] at hg hp hv ha hsys
  simp only [Ctx.sameG, Ctx.sameP, Ctx.sameV, Ctx.sameA, Ctx.getG, Ctx.getP, Ctx.getV, Ctx.getA, heg, hep, hev, hea]
    at hg hp hv ha ⊢
  exact ⟨(hsys _).trans hcause, (hsys _).trans hepc, (congrArg (·.getLsbD 0) (hsys 0x100)).trans (x.enter_mon t),
    hg, hp, hv, ha⟩

/-- A trap is taken with its cause, its EPC and MON set, and with every general register as it was. -/
theorem State.takeTrap_saves (s : State) (t : Trap) :
    (s.takeTrap t).my.sysr 0x101 = BitVec.ofNat 64 ((if t.async then 256 else 0) + t.code.toNat) ∧
      (s.takeTrap t).my.sysr 0x102 = t.epc ∧ (s.takeTrap t).my.mon = true ∧ s.my.sameG (s.takeTrap t).my ∧
      s.my.sameP (s.takeTrap t).my ∧ s.my.sameV (s.takeTrap t).my ∧ s.my.sameA (s.takeTrap t).my :=
  s.unannounce.deliverTrap_enter_saves
    { s.my with run := .running, holdPage := none, invalidAt := none, place := none, dispatching := none,
                asyncHeld := s.my.asyncHeld || t.async } t rfl

end Sys2Proof.Machine
end

section
/-! PROOF. Words that the decoder refuses, and the all-zero word (R79, R81, R333, R337). -/

namespace Sys2Proof

/-- A word whose LEN its major does not permit is refused at the base word. -/
theorem decode_refused {w : Half} (h0 : w ≠ 0) (hl : lenOk w = false) (reflex : Bool) (ws : List Half) :
    decode reflex (w :: ws) = .error (.illegalOpcode 0) := by
  rw [decode, if_neg h0, hl]
  rfl

end Sys2Proof

namespace Sys2Proof.Machine

/-- Settles O5: the length check comes before any table; the zero word is a trap of its own. -/
theorem refusedWords : Obligations.RefusedWords := by
  refine ⟨fun reflex w ws h0 hl => decode_refused h0 hl reflex ws, fun s => ?_⟩
  obtain ⟨hcause, hepc, hmon, hregs⟩ := s.takeTrap_saves
    { code := cIllegalOpcode, epc := s.my.pc, eaddr := 0, einfo := decodeInfo 0 false false 0, eword := s.cur.eword }
  exact ⟨_, rfl, hcause, hepc, hmon, hregs⟩

end Sys2Proof.Machine
end

section
/-! PROOF. Transfers of control (R83, R110, R111). -/

namespace Sys2Proof.Machine

open Sys2Proof

/-- A target that fails the checks of R83: beyond the address space first, then unaligned. -/
theorem targetStop_illegal {t : Word} (h : legalTarget t = false) :
    targetStop t = some (.trap (if 2 ^ 56 ≤ t.toNat then cIllegalAddress else cAlign) t 0) := by
  have hlt := t.isLt
  simp only [legalTarget, Bool.and_eq_false_iff, decide_eq_false_iff_not] at h
  unfold targetStop bits
  by_cases hfar : 2 ^ 56 ≤ t.toNat
  · rw [if_pos (by omega), if_pos hfar]
  · rw [if_neg (by omega), if_pos (by omega), if_neg hfar]

/-- The displacement of B and BL counts words. -/
theorem branchTarget_eq (pc : Word) (disp : BitVec 21) : branchTarget pc disp = pc + BitVec.ofInt 64 (4 * disp.toInt) := by
  rw [branchTarget, BitVec.signExtend, Int.mul_comm, BitVec.ofInt_mul]
  rfl

/-- A transfer is its target's checks, then the jump. -/
theorem exec_jump {i : Instr} {s : State} {t : Word} {link : Bool} (h : jumpRule s i = some (t, link))
    (hg : s.guardHolds i = true) :
    exec i s = .next (s.settle (jumpTo s t (if link then some (s.my.pc + 4) else none))) := by
  cases i with
  | br g disp | bl g disp =>
    cases h
    rw [← branchTarget_eq]
    exact State.guarded_on hg 1 _
  | jr a g | jlr a g | ret g =>
    cases h
    exact State.guarded_on hg 1 _
  | _ => cases h

/-- A jump leaves every register. -/
theorem State.jump_sameRegs (s : State) (t : Word) : s.my.sameRegs (s.jump t).my := by
  rw [State.my_jump]
  exact Ctx.sameRegs_of_eq

/-- A jump after the link: G31 alone changes. -/
theorem State.linked_onlyG (s : State) (l t : Word) : s.my.onlyG ((s.setG 31 l).jump t).my 31 := by
  rw [State.my_jump, State.setG, State.my_setMy]
  exact ⟨fun r hr => Ctx.getG_setG_ne _ _ hr, fun r => Ctx.getP_setG _ _ r _, fun r => Ctx.getV_setG _ _ r _,
    fun r => Ctx.getA_setG _ _ r _, fun n => Ctx.sysr_setG _ _ n _, by simp⟩

/-- Settles O11: the checks of R83 decide; a legal target is a jump, with the link written before it where there is one. -/
theorem transfers : Obligations.Transfers := by
  refine ⟨fun i s t link h hg hl => ?_, fun i s t link h hg hl => ?_⟩
  · rw [exec_jump h hg]
    unfold jumpTo
    rw [targetStop_legal hl]
    cases link with
    | false =>
      refine ⟨s.jump t, rfl, by rw [State.my_jump], nofun, s.jump_sameRegs t, ?_, fun p => s.byteAt_setMy _ p⟩
      rw [State.onlyMy, State.my_jump, State.jump]
    | true =>
      refine ⟨(s.setG 31 (s.my.pc + 4)).jump t, rfl, by rw [State.my_jump], fun _ => ?_, s.linked_onlyG _ t, ?_, fun p => ?_⟩
      · rw [State.getG, State.my_jump, State.setG, State.my_setMy]
        exact Ctx.getG_setG _ _ (by decide)
      · rw [State.onlyMy, State.my_jump, State.jump, State.setG, State.setMy_setMy]
      · exact (State.byteAt_setMy _ _ p).trans (s.byteAt_setG _ _ p)
  · rw [exec_jump h hg]
    unfold jumpTo
    rw [targetStop_illegal hl]
    rfl

end Sys2Proof.Machine
end

section
/-! PROOF. Turns: what a turn of a core and a turn of an event run, and the fetch of a reflex core (R2, R81, R84, R288). -/

namespace Sys2Proof.Machine

open Sys2Proof

/-! ### Turns -/

@[simp] theorem State.tick_agenda (s : State) : s.tick.agenda = s.agenda := by unfold State.tick; split <;> rfl
@[simp] theorem State.tick_booted (s : State) : s.tick.booted = s.booted := by unfold State.tick; split <;> rfl
@[simp] theorem State.tick_frozen (s : State) : s.tick.frozen = s.frozen := by unfold State.tick; split <;> rfl

/-- A turn of an event, on a device that is not frozen. -/
theorem State.takeTurn_event {s : State} {e : Instr} {agenda : List Turn} (ha : s.agenda = .event e :: agenda)
    (hf : s.frozen = false) : s.takeTurn = { s.tick with agenda := agenda }.takeEvent e := by
  unfold State.takeTurn
  rw [hf, if_neg Bool.false_ne_true]
  dsimp only
  rw [State.tick_agenda, ha]

/-- A turn of a core, on a device that is not frozen. -/
theorem State.takeTurn_core {s : State} {n : Nat} {agenda : List Turn} (ha : s.agenda = .core n :: agenda)
    (hf : s.frozen = false) : s.takeTurn = { s.tick with agenda := agenda }.issueCore n := by
  unfold State.takeTurn
  rw [hf, if_neg Bool.false_ne_true]
  dsimp only
  rw [State.tick_agenda, ha]
  dsimp only
  rw [State.tick_frozen, hf]
  rfl

/-- A core outside a lockstep pair issues from the context that it picks. -/
theorem State.issueCore_single {s : State} {n k : Nat} (hp : s.pick n = some k) (hc : (s.core n).pair = false) :
    s.issueCore n = s.issueFrom n k := by
  rw [State.issueCore, hp]
  exact if_neg (by simp [hc])

/-- A context with no trap to deliver and no cause due issues its next instruction. -/
theorem State.issue_next {s : State} (hd : s.my.dispatching = none) (ha : s.my.async = []) (hr : s.my.run ≠ .released) :
    s.issue = s.issueNext := by
  have hdue : s.my.dueAsync = none := by
    unfold Ctx.dueAsync
    rw [ha]
    split <;> rfl
  unfold State.issue
  rw [hd, hdue, ite_self]
  exact if_neg hr

/-- The turn of a context that issues is its next instruction. -/
theorem State.issues.step_eq {s t : State} {n k : Nat} {agenda : List Turn} (h : s.issues n k agenda t) :
    step s = t.issueNext := by
  obtain ⟨hagenda, hfrozen, hpick, hpair, ht, hdisp, hasync, hrun⟩ := h
  rw [← State.issue_next hdisp hasync hrun, step, State.takeTurn_core hagenda hfrozen, State.issueCore_single hpick hpair, ht]
  rfl

/-- Outside a replay and a stub, the words fetched decode to the instruction that runs or waits. -/
theorem State.issueNext_fetched {t u : State} {ws : List Half} {i : Instr} (hr : t.my.replay = none)
    (hs : t.stubAt t.my.pc.toNat = none) (hf : t.fetched = .ok (ws, u)) (hd : decode u.reflex ws = .ok i)
    (hi : featureStop i = none) :
    t.issueNext = t.runOrWait i { u with cur := { u.cur with ostep := 0, eword := ewordOf ws } } := by
  have hat : u.decodeAt ws = .ok (i, { u with cur := { u.cur with ostep := 0, eword := ewordOf ws } }) := by
    rw [State.decodeAt, hd]
    dsimp only
    rw [hi]
  have hbind : (t.fetched >>= fun r => r.2.decodeAt r.1) = u.decodeAt ws := by
    rw [hf]
    rfl
  unfold State.issueNext
  rw [hr]
  dsimp only
  rw [hs]
  dsimp only
  rw [hbind, hat]

/-- An event that the device takes is executed. -/
theorem State.takeEvent_exec {s : State} {e : Instr} (he : e.isEvent = true) (hf : s.frozen = false)
    (hb : s.booted = true ∨ needsBoot e = false) : s.takeEvent e = exec e s := by
  have hboot : ¬(!s.booted && needsBoot e) = true := by
    rcases hb with hb | hb <;> simp [hb]
  rw [State.takeEvent, if_neg (by simp [he]), if_neg (by simp [hf]), if_neg hboot]

/-! ### Fetching on a reflex core (R84, R288) -/

theorem State.setMe_setMe (s : State) (c d : CoreSt) : (s.setMe c).setMe d = s.setMe d := s.setCore_setCore _ c d

/-- The state with another content of the issuing core's instruction cache. -/
def State.withIcache (s : State) (l : List (Place × Half)) : State := s.setMe { s.me with icache := l }

@[simp] theorem State.icache_withIcache (s : State) (l : List (Place × Half)) : (s.withIcache l).me.icache = l := by
  rw [State.withIcache, State.me_setMe]

theorem State.withIcache_withIcache (s : State) (l m : List (Place × Half)) :
    (s.withIcache l).withIcache m = s.withIcache m := by
  simp only [State.withIcache, State.me_setMe, State.setMe_setMe]

theorem State.reflex_withIcache (s : State) (l : List (Place × Half)) : (s.withIcache l).reflex = s.reflex := rfl

theorem State.numAt_withIcache (s : State) (l : List (Place × Half)) (q : Place) (n : Nat) :
    (s.withIcache l).numAt q n = s.numAt q n :=
  State.numAt_congr (s.byteAt_setMe_own _) q n

/-- The segments do not depend on the instruction cache. -/
theorem State.segXlate_withIcache (s : State) (l : List (Place × Half)) (acc : Acc) (va n : Nat) :
    (s.withIcache l).segXlate acc va n = s.segXlate acc va n := by
  have hvf : ∀ m, ((s.withIcache l).core m).vf = (s.core m).vf := by
    intro m
    rw [State.withIcache, State.setMe, State.core_setCore_if]
    split
    · next h => rw [h]; rfl
    · rfl
  unfold State.segXlate
  simp only [hvf]
  rw [State.withIcache, State.me_setMe]
  rfl

/-- The places of memory behind the PCI Express window, which no instruction cache keeps (R371). -/
def Place.beyondWindow : Place → Bool
  | .host _ | .peer _ => true
  | .dram _ | .core _ _ | .sram _ | .tbuf _ _ => false

theorem State.segXlate_place {s : State} {acc : Acc} {va n : Nat} {q : Place} (h : s.segXlate acc va n = .place q) :
    q.beyondWindow = false := by
  cases hk : s.me.segment va with
  | none => rw [State.segXlate_outside hk] at h; cases h
  | some k =>
    rw [State.segXlate_inside hk] at h
    split_ifs at h <;> cases h <;> rfl

/-- A word that the cache does not hold comes from memory, and the cache keeps it. -/
theorem State.wordAt_miss {s : State} {q : Place} (hq : q.beyondWindow = false) (h : ∀ e ∈ s.me.icache, e.1 ≠ q) :
    ∃ l, s.wordAt q = (BitVec.ofNat 32 (s.numAt q 4), s.withIcache l) ∧
      ∀ e ∈ l, e ∈ s.me.icache ∨ e = (q, BitVec.ofNat 32 (s.numAt q 4)) := by
  have hfind : (s.me.icache.find? fun e => e.1 == q) = none := by
    simpa [List.find?_eq_none] using h
  refine ⟨(q, BitVec.ofNat 32 (s.numAt q 4)) :: s.me.icache.take 16383, ?_, ?_⟩
  · cases q with
    | host _ | peer _ => cases hq
    | dram _ | core _ _ | sram _ | tbuf _ _ =>
      unfold State.wordAt
      dsimp only
      rw [hfind]
      rfl
  · intro e he
    rcases List.mem_cons.mp he with rfl | he
    · exact .inr rfl
    · exact .inl (List.mem_of_mem_take he)

/-- A word that the cache holds as memory does. -/
theorem State.wordAt_hit {s : State} {q : Place} (hq : q.beyondWindow = false) {a : Place}
    (h : (s.me.icache.find? fun e => e.1 == q) = some (a, BitVec.ofNat 32 (s.numAt q 4))) :
    s.wordAt q = (BitVec.ofNat 32 (s.numAt q 4), s) := by
  cases q with
  | host _ | peer _ => cases hq
  | dram _ | core _ _ | sram _ | tbuf _ _ =>
    unfold State.wordAt
    dsimp only
    rw [h]
    exact if_pos rfl

/-- A reflex core fetches a word where a segment places it. -/
theorem State.fetchWord_segment {s : State} {va : Nat} {q : Place} (hr : s.reflex = true)
    (h : s.segXlate .fetch va 4 = .place q) :
    s.fetchWord va = .ok (s.wordAt q) := by
  unfold State.fetchWord
  rw [if_pos hr, h]

/-- Every cached word at a place of p is the one that memory holds there. -/
def State.coherent (s : State) (l : List (Place × Half)) (p : Nat → Place) : Prop :=
  ∀ e ∈ l, ∀ k, e.1 = p k → e.2 = BitVec.ofNat 32 (s.numAt (p k) 4)

/-- What one word fetched adds to the cache keeps it coherent. -/
theorem State.coherent.add {s : State} {l m : List (Place × Half)} {p : Nat → Place} (hl : s.coherent l p) {k : Nat}
    (hm : ∀ e ∈ m, e ∈ l ∨ e = (p k, BitVec.ofNat 32 (s.numAt (p k) 4))) : s.coherent m p := by
  intro e he j hj
  rcases hm e he with he | rfl
  · exact hl e he j hj
  · exact congrArg (fun q => BitVec.ofNat 32 (s.numAt q 4)) hj

/-- The instruction at va stands as ws in the places p that a segment gives its words. -/
def State.fetchable (s : State) (p : Nat → Place) (va : Nat) (ws : List Half) : Prop :=
  ∀ k < ws.length, s.segXlate .fetch (va + 4 * k) 4 = .place (p k) ∧ s.numAt (p k) 4 = (ws.getD k 0).toNat

/-- The base word and those after it. -/
theorem State.fetchable.cons {s : State} {p : Nat → Place} {va : Nat} {w : Half} {ws : List Half}
    (h : s.fetchable p va (w :: ws)) :
    (s.segXlate .fetch va 4 = .place (p 0) ∧ BitVec.ofNat 32 (s.numAt (p 0) 4) = w) ∧
      s.fetchable (fun k => p (k + 1)) (va + 4) ws := by
  obtain ⟨hplace, hw⟩ := h 0 (Nat.succ_pos _)
  refine ⟨⟨hplace, by rw [hw, List.getD_cons_zero, BitVec.ofNat_toNat, BitVec.setWidth_eq]⟩, fun k hk => ?_⟩
  obtain ⟨hplace', hw'⟩ := h (k + 1) (Nat.succ_lt_succ hk)
  exact ⟨by rw [← hplace']; congr 1; omega, hw'⟩

/-- A word fetched where the cache is coherent is the one in memory, and leaves it coherent. -/
theorem State.wordAt_coherent {s : State} {l : List (Place × Half)} {p : Nat → Place} (hl : s.coherent l p) {k : Nat}
    (hq : (p k).beyondWindow = false) :
    ∃ m, (s.withIcache l).wordAt (p k) = (BitVec.ofNat 32 (s.numAt (p k) 4), s.withIcache m) ∧ s.coherent m p := by
  cases hfind : l.find? fun e => e.1 == p k with
  | none =>
    obtain ⟨m, hw, hm⟩ := State.wordAt_miss (s := s.withIcache l) hq (by simpa [List.find?_eq_none] using hfind)
    rw [State.numAt_withIcache, State.withIcache_withIcache] at hw
    rw [State.numAt_withIcache, State.icache_withIcache] at hm
    exact ⟨m, hw, hl.add hm⟩
  | some e =>
    have hplace : e.1 = p k := by simpa using List.find?_some hfind
    have hword := hl e (List.mem_of_find?_eq_some hfind) k hplace
    refine ⟨l, ?_, hl⟩
    rw [State.wordAt_hit hq (a := e.1), State.numAt_withIcache]
    rw [State.icache_withIcache, State.numAt_withIcache, hfind, ← hword]

/-- The words after the base word are fetched through a coherent cache, which alone changes. -/
theorem State.fetchRest_reflex {s : State} (hr : s.reflex = true) (ws : List Half) {p : Nat → Place} {va : Nat}
    {l : List (Place × Half)} (hva : va + 4 * ws.length ≤ 2 ^ 56) (hp : s.fetchable p va ws) (hl : s.coherent l p) :
    ∃ m, (s.withIcache l).fetchRest va ws.length = .ok (ws, s.withIcache m) := by
  induction ws generalizing p va l with
  | nil => exact ⟨l, rfl⟩
  | cons w ws ih =>
    obtain ⟨⟨hplace, hw⟩, hrest⟩ := hp.cons
    rw [List.length_cons] at hva
    obtain ⟨m, hword, hm⟩ := State.wordAt_coherent hl (State.segXlate_place hplace)
    have hfetch : (s.withIcache l).fetchWord va = .ok (w, s.withIcache m) := by
      rw [State.fetchWord_segment (s := s.withIcache l) hr ((s.segXlate_withIcache l _ _ _).trans hplace), hword, hw]
    obtain ⟨n, hn⟩ := ih (va := va + 4) (by omega) hrest fun e he k => hm e he (k + 1)
    refine ⟨n, ?_⟩
    rw [List.length_cons, State.fetchRest, if_neg (by omega), hfetch]
    dsimp only
    rw [hn]
    rfl

/-- Where the cache holds no word of the instruction, a reflex core fetches it whole, and its cache alone changes. -/
theorem State.fetched_reflex {s : State} (hr : s.reflex = true) {w : Half} {ws : List Half} {p : Nat → Place} (h0 : w ≠ 0)
    (hlen : lenOk w = true) (hws : ws.length + 1 = wordCount w) (hva : s.my.pc.toNat + 4 * wordCount w ≤ 2 ^ 56)
    (hmiss : ∀ e ∈ s.me.icache, ∀ k, e.1 ≠ p k) (hp : s.fetchable p s.my.pc.toNat (w :: ws)) :
    ∃ m, s.fetched = .ok (w :: ws, s.withIcache m) := by
  obtain ⟨⟨hplace, hw⟩, hrest⟩ := hp.cons
  obtain ⟨l, hword, hl⟩ := State.wordAt_miss (State.segXlate_place hplace) fun e he => hmiss e he 0
  have hcoherent : s.coherent l p := State.coherent.add (fun e he k hk => absurd hk (hmiss e he k)) hl
  have hfetch : s.fetchWord s.my.pc.toNat = .ok (w, s.withIcache l) := by
    rw [State.fetchWord_segment hr hplace, hword, hw]
  obtain ⟨m, hm⟩ := State.fetchRest_reflex hr ws (va := s.my.pc.toNat + 4) (by omega) hrest
    fun e he k => hcoherent e he (k + 1)
  refine ⟨m, ?_⟩
  unfold State.fetched
  dsimp only
  rw [if_neg (by omega), hfetch]
  dsimp only
  rw [if_neg (not_or.mpr ⟨h0, by simp [hlen]⟩), ← hws, Nat.add_sub_cancel, hm]

/-- Settles O6: the turn's own tests are passed one by one; the reflex fetch by induction over the words, through a cache that
stays coherent with memory. -/
theorem stepRunsDecoded : Obligations.StepRunsDecoded := by
  refine ⟨fun s t u n k agenda ws i h hr hs hf hd hi => ?_, fun s e agenda ha he hf hb => ?_,
    fun s w ws p hr h0 hlen hws hva hmiss hp => ?_⟩
  · rw [h.step_eq, State.issueNext_fetched hr hs hf hd hi, State.runOrWait]
    exact ⟨fun hw => if_neg (by simp [hw]), fun hw => if_pos hw⟩
  · rw [step, State.takeTurn_event ha hf]
    exact State.takeEvent_exec he (s.tick_frozen.trans hf) (by rw [← s.tick_booted] at hb; exact hb)
  · obtain ⟨m, hm⟩ := State.fetched_reflex hr h0 hlen hws hva hmiss fun k hk => hp k (hws ▸ hk)
    exact ⟨s.withIcache m, hm, by rw [State.icache_withIcache]; rfl⟩

end Sys2Proof.Machine
end

section
/-! PROOF. Scalar instructions, compares and predicate operations (R99-R107): the word each operation of the model computes is the
one its rule names, and writing it is the one effect. -/

namespace Sys2Proof.Machine

open Sys2Proof

/-! ### The operations in the words of the rules (R99-R103) -/

theorem mul_eq_ofNat (a b : Word) : a * b = BitVec.ofNat 64 (a.toNat * b.toNat) := by
  rw [BitVec.ofNat_mul, BitVec.ofNat_toNat, BitVec.ofNat_toNat, BitVec.setWidth_eq, BitVec.setWidth_eq]

/-- An unsigned quotient is below 2^64, so that the model's number of it loses nothing. -/
theorem aluDivu_eq (a b : Word) : aluDivu a b = if b = 0 then -1 else a / b := by rw [BitVec.udiv_def]; rfl

theorem aluRemu_eq (a b : Word) : aluRemu a b = if b = 0 then a else a % b := by rw [BitVec.umod_def]; rfl

/-- What truncated division leaves is the remainder with the dividend's sign. -/
theorem aluRem_eq (a b : Word) : aluRem a b = if b = 0 then a else BitVec.ofInt 64 (a.toInt.tmod b.toInt) := by
  rw [Int.tmod_def]; rfl

theorem aluMin_eq (a b : Word) : aluMin a b = if a.sle b then a else b := by simp [aluMin, BitVec.sle]
theorem aluMax_eq (a b : Word) : aluMax a b = if a.sle b then b else a := by simp [aluMax, BitVec.sle]
theorem aluMinu_eq (a b : Word) : aluMinu a b = if a.ule b then a else b := by simp [aluMinu, BitVec.ule]
theorem aluMaxu_eq (a b : Word) : aluMaxu a b = if a.ule b then b else a := by simp [aluMaxu, BitVec.ule]

theorem aluSext_eq {n : Nat} (a : Word) (h : n ≤ 64) : aluSext n a = (a.extractLsb' 0 n).signExtend 64 := by
  rw [aluSext, BitVec.setWidth_eq_extractLsb' h]

/-- Zero extension from n bits is the mask of the low n. -/
theorem aluZext_eq (n : Nat) (a : Word) : aluZext n a = a &&& (BitVec.allOnes n).setWidth 64 := by
  apply BitVec.eq_of_getLsbD_eq
  intro i hi
  simp [aluZext, hi, Bool.and_comm]

/-- The amount of a shift immediate is its six bits. -/
theorem shiftAmount_setWidth (n : BitVec 6) : shiftAmount (n.setWidth 64) = n.toNat := by
  have hn := n.isLt
  rw [shiftAmount, BitVec.toNat_setWidth]
  omega

/-! ### The bit operations by their bits (R103) -/

/-- CLZ: no bit is set among the leading places counted, and the next one is. -/
theorem aluClz_bits (a : Word) :
    (aluClz a).toNat ≤ 64 ∧ (∀ k < 64, 64 - (aluClz a).toNat ≤ k → a.getLsbD k = false) ∧
      ((aluClz a).toNat < 64 → a.getLsbD (63 - (aluClz a).toNat) = true) := by
  by_cases h0 : a = 0
  · subst h0
    exact ⟨by decide, fun k _ _ => BitVec.getLsbD_zero, fun h => absurd h (by decide)⟩
  · have hne : a.toNat ≠ 0 := fun h => h0 (BitVec.eq_of_toNat_eq h)
    have hlog : a.toNat.log2 < 64 := (Nat.log2_lt hne).mpr a.isLt
    have hclz : (aluClz a).toNat = 63 - a.toNat.log2 := by
      rw [aluClz, if_neg h0, BitVec.toNat_ofNat, Nat.mod_eq_of_lt (by omega)]
    rw [hclz]
    refine ⟨by omega, fun k _ hk => ?_, fun _ => ?_⟩
    · rw [← BitVec.testBit_toNat]
      exact Nat.testBit_lt_two_pow (Nat.lt_log2_self.trans_le (Nat.pow_le_pow_right (by decide) (by omega)))
    · rw [← BitVec.testBit_toNat, show 63 - (63 - a.toNat.log2) = a.toNat.log2 by omega]
      exact Nat.testBit_log2 hne

/-- A search of n bits from i up stops at the first set bit, or past the last. -/
theorem lowestBit_bits (a n i : Nat) :
    lowestBit a n i ≤ i + n ∧ (∀ k, i ≤ k → k < lowestBit a n i → a.testBit k = false) ∧
      (lowestBit a n i < i + n → a.testBit (lowestBit a n i) = true) := by
  induction n generalizing i with
  | zero => exact ⟨Nat.le_refl i, fun k hi hk => absurd hk (Nat.not_lt.mpr hi), fun h => absurd h (Nat.lt_irrefl i)⟩
  | succ n ih =>
    rw [lowestBit]
    split
    · next hset => exact ⟨by omega, fun k hi hk => absurd hk (Nat.not_lt.mpr hi), fun _ => hset⟩
    · next hclear =>
      obtain ⟨hle, hbelow, hat⟩ := ih (i + 1)
      refine ⟨by omega, fun k hi hk => ?_, fun h => hat (by omega)⟩
      rcases Nat.eq_or_lt_of_le hi with rfl | hlt
      · exact Bool.eq_false_iff.mpr hclear
      · exact hbelow k hlt hk

/-- CTZ: no bit is set among the trailing places counted, and the next one is. -/
theorem aluCtz_bits (a : Word) :
    (aluCtz a).toNat ≤ 64 ∧ (∀ k < (aluCtz a).toNat, a.getLsbD k = false) ∧
      ((aluCtz a).toNat < 64 → a.getLsbD (aluCtz a).toNat = true) := by
  obtain ⟨hle, hbelow, hat⟩ := lowestBit_bits a.toNat 64 0
  have hctz : (aluCtz a).toNat = lowestBit a.toNat 64 0 := by
    rw [aluCtz, BitVec.toNat_ofNat, Nat.mod_eq_of_lt (by omega)]
  simp only [← BitVec.testBit_toNat, hctz]
  exact ⟨by omega, fun k hk => hbelow k (Nat.zero_le k) hk, fun h => hat (by omega)⟩

theorem countBits_eq (a n : Nat) : countBits a n = (List.range n).countP fun k => a.testBit k := by
  induction n with
  | zero => rfl
  | succ n ih => rw [countBits, ih, List.range_succ, List.countP_append, List.countP_singleton]

/-- POPC: the number of set bits. -/
theorem aluPopc_eq (a : Word) : aluPopc a = BitVec.ofNat 64 ((List.range 64).countP fun k => a.getLsbD k) := by
  simp only [aluPopc, countBits_eq, BitVec.testBit_toNat]

theorem aluBrev_bit (a : Word) {k : Nat} (hk : k < 64) : (aluBrev a).getLsbD (63 - k) = a.getLsbD k := by
  rw [aluBrev, BitVec.getLsbD_reverse, BitVec.getMsbD_eq_getLsbD, show 64 - 1 - (63 - k) = k by omega,
    decide_eq_true (show 63 - k < 64 by omega), Bool.true_and]

theorem aluBswap_byte (a : Word) {k : Nat} (hk : k < 8) :
    (aluBswap a).extractLsb' (56 - 8 * k) 8 = a.extractLsb' (8 * k) 8 := by
  interval_cases k <;> simp (disch := decide) only [aluBswap, ext_hi, ext_lo, ext_all, Nat.reduceSub, Nat.reduceMul]

/-! ### Instructions that write one G register -/

/-- An instruction that gives gd a value under a guard that holds, and completes. -/
theorem exec_setG {s : State} {i : Instr} {g : Reg3} {len : Nat} {d : Reg5} {v w : Word} (hg : s.guardOn g = true)
    (hx : exec i s = s.done g len (s.setG d w)) (hw : len = words i) (hv : w = v) :
    ∃ t, exec i s = .next t ∧ s.onlyResult t d v ∧ s.movesOn t (words i) := by
  subst hw hv
  exact ⟨_, hx.trans (State.done_on hg _), s.onlyResult_setG d _ _, s.movesOn_setG d _ _⟩

/-- Every scalar instruction writes its rule's value to gd and completes. -/
theorem exec_scalar {s : State} {i : Instr} {d : Reg5} {v : Word} (h : scalarRule s i = some (d, v))
    (hg : s.guardHolds i = true) : ∃ t, exec i s = .next t ∧ s.onlyResult t d v ∧ s.movesOn t (words i) := by
  have h0 := s.guardOn_zero
  cases i with
  | add d a b g | sub d a b g | mulh d a b g | mulhu d a b g | div d a b g | and d a b g | or d a b g | xor d a b g
  | andn d a b g | orn d a b g | shl d a b g | shr d a b g | sra d a b g | rotl d a b g | sel d a b ps g =>
    cases h
    exact exec_setG hg rfl (by cases b <;> rfl) rfl
  | mul d a b g => cases h; exact exec_setG hg rfl (by cases b <;> rfl) (mul_eq_ofNat _ _)
  | divu d a b g => cases h; exact exec_setG hg rfl (by cases b <;> rfl) (aluDivu_eq _ _)
  | rem d a b g => cases h; exact exec_setG hg rfl (by cases b <;> rfl) (aluRem_eq _ _)
  | remu d a b g => cases h; exact exec_setG hg rfl (by cases b <;> rfl) (aluRemu_eq _ _)
  | min d a b g => cases h; exact exec_setG hg rfl (by cases b <;> rfl) (aluMin_eq _ _)
  | max d a b g => cases h; exact exec_setG hg rfl (by cases b <;> rfl) (aluMax_eq _ _)
  | minu d a b g => cases h; exact exec_setG hg rfl (by cases b <;> rfl) (aluMinu_eq _ _)
  | maxu d a b g => cases h; exact exec_setG hg rfl (by cases b <;> rfl) (aluMaxu_eq _ _)
  | sextB d a g | sextH d a g | sextW d a g => cases h; exact exec_setG hg rfl rfl (aluSext_eq _ (by decide))
  | zextB d a g | zextH d a g | zextW d a g => cases h; exact exec_setG hg rfl rfl (aluZext_eq _ _)
  | mov d a g | aget d a g => cases h; exact exec_setG hg rfl rfl rfl
  | addi d a n | andi d a n | ori d a n | xori d a n => cases n <;> (cases h; exact exec_setG h0 rfl rfl rfl)
  | shli d a n | shri d a n | srai d a n | rotli d a n =>
    cases h
    exact exec_setG h0 rfl rfl (by rw [← shiftAmount_setWidth]; rfl)
  | movi d n | moviLit d n => cases h; exact exec_setG h0 rfl rfl rfl
  | _ => cases h

/-- A bit operation leaves in a register other than G0 the word that it computes, and changes nothing else. -/
theorem exec_bitOp {s : State} {i : Instr} {d a : Reg5} {g : Reg3} {op : Word → Word} (hd : d ≠ 0) (hg : s.guardOn g = true)
    (hx : exec i s = scalar1 d a g op s) (hw : 1 = words i) :
    ∃ t, exec i s = .next t ∧ s.my.onlyG t.my d.toNat ∧ s.onlyMy t ∧ s.sameBytes t ∧ s.movesOn t 1 ∧
      t.getG d = op (s.getG a) := by
  obtain ⟨t, ht, ⟨hval, hframe, hmy, hbytes⟩, hmoves⟩ := exec_setG hg hx hw rfl
  exact ⟨t, ht, hframe, hmy, hbytes, hw ▸ hmoves, hval.trans (if_neg hd)⟩

/-! ### Instructions that write one P register -/

theorem Ctx.replay_setP (x : Ctx) (r : Nat) (v : Pred) : (x.setP r v).replay = x.replay := by
  unfold Ctx.setP; split <;> rfl

/-- Only P d of the context changes, in a machine that is otherwise as before. -/
def State.onlyPredicate (s t : State) (d : Reg3) (v : Pred) : Prop :=
  t.getP d = (if d = 0 then BitVec.allOnes 128 else v) ∧ s.my.onlyP t.my d.toNat ∧ s.onlyMy t ∧ s.sameBytes t

/-- An instruction that gives Pd a value and completes changes nothing else. -/
theorem State.onlyPredicate_setP (s : State) (d : Reg3) (v : Pred) (len : Nat) :
    s.onlyPredicate ((s.setP d v).advance len) d v := by
  refine ⟨?_, ?_, s.onlyMy_advance _ _, fun p => ?_⟩
  · rw [State.getP_advance, State.getP_setP]
    by_cases hd : d = 0
    · subst hd; rfl
    · rw [if_pos ⟨rfl, hd⟩, if_neg hd]
  · rw [State.my_advance, State.setP, State.my_setMy]
    exact ⟨fun r hr => by simp [Ctx.getP_setP_ne _ _ hr], fun r => by simp [Ctx.getG], fun r => by simp [Ctx.getV],
      fun r => by simp [Ctx.getA], fun n => by simp [Ctx.sysr], by simp⟩
  · rw [State.byteAt_advance, State.setP, State.byteAt_setMy]

/-- An instruction that gives Pd a value under a guard that holds, and completes. -/
theorem exec_setP {s : State} {i : Instr} {g : Reg3} {len : Nat} {d : Reg3} {v : Pred} (hg : s.guardOn g = true)
    (hx : exec i s = s.done g len (s.setP d v)) (hw : len = words i) :
    ∃ t, exec i s = .next t ∧ s.onlyPredicate t d v ∧ s.movesOn t (words i) := by
  subst hw
  exact ⟨_, hx.trans (State.done_on hg _), s.onlyPredicate_setP d v _,
    s.movesOn_advance (x := s.my.setP d.toNat v) (s.my.setP_pc _ _) (s.my.replay_setP _ _) _⟩

/-- Every compare and predicate operation writes its rule's value to Pd and completes. -/
theorem exec_predicate {s : State} {i : Instr} {d : Reg3} {v : Pred} (h : predRule s i = some (d, v))
    (hg : s.guardHolds i = true) : ∃ t, exec i s = .next t ∧ s.onlyPredicate t d v ∧ s.movesOn t (words i) := by
  cases i with
  | cmpEq d a b g | cmpNe d a b g | cmpLt d a b g | cmpLe d a b g | cmpLtu d a b g | cmpLeu d a b g =>
    cases h
    exact exec_setP hg rfl (by cases b <;> rfl)
  | cmpiEq d a n | cmpiNe d a n | cmpiLt d a n | cmpiLe d a n | cmpiLtu d a n | cmpiLeu d a n =>
    cases h
    exact exec_setP s.guardOn_zero rfl (by cases n <;> rfl)
  | pand d a b g | por d a b g | pxor d a b g | pnot d a g | pmov d a g =>
    cases h
    exact exec_setP hg rfl rfl
  | _ => cases h

/-! ### The statements -/

/-- Settles O8: each instruction writes one register with its rule's value; the bit operations by the bits of what they compute. -/
theorem scalarResults : Obligations.ScalarResults := by
  refine ⟨fun i s d v h hg => ?_, fun s d a g hd hg => ⟨?_, ?_, ?_, ?_, ?_⟩, fun i s d v h hg => ?_⟩
  · obtain ⟨t, ht, ⟨hval, hframe, hmy, hbytes⟩, hmoves⟩ := exec_scalar h hg
    exact ⟨t, ht, hval, hframe, hmy, hbytes, hmoves⟩
  · obtain ⟨t, ht, hframe, hmy, hbytes, hmoves, hval⟩ := exec_bitOp (i := .clz d a g) hd hg rfl rfl
    exact ⟨t, ht, hframe, hmy, hbytes, hmoves, by rw [hval]; exact aluClz_bits _⟩
  · obtain ⟨t, ht, hframe, hmy, hbytes, hmoves, hval⟩ := exec_bitOp (i := .ctz d a g) hd hg rfl rfl
    exact ⟨t, ht, hframe, hmy, hbytes, hmoves, by rw [hval]; exact aluCtz_bits _⟩
  · obtain ⟨t, ht, hframe, hmy, hbytes, hmoves, hval⟩ := exec_bitOp (i := .popc d a g) hd hg rfl rfl
    exact ⟨t, ht, hframe, hmy, hbytes, hmoves, hval.trans (aluPopc_eq _)⟩
  · obtain ⟨t, ht, hframe, hmy, hbytes, hmoves, hval⟩ := exec_bitOp (i := .brev d a g) hd hg rfl rfl
    exact ⟨t, ht, hframe, hmy, hbytes, hmoves, fun k hk => by rw [hval]; exact aluBrev_bit _ hk⟩
  · obtain ⟨t, ht, hframe, hmy, hbytes, hmoves, hval⟩ := exec_bitOp (i := .bswap d a g) hd hg rfl rfl
    exact ⟨t, ht, hframe, hmy, hbytes, hmoves, fun k hk => by rw [hval]; exact aluBswap_byte _ hk⟩
  · obtain ⟨t, ht, ⟨hval, hframe, hmy, hbytes⟩, hmoves⟩ := exec_predicate h hg
    exact ⟨t, ht, hval, hframe, hmy, hbytes, hmoves⟩

/-- A scalar instruction leaves its rule's value in a register other than G0. -/
theorem exec_scalar_value {s : State} {i : Instr} {d : Reg5} {v : Word} (h : scalarRule s i = some (d, v))
    (hg : s.guardHolds i = true) (hd : d ≠ 0) : ∃ t, exec i s = .next t ∧ t.getG d = v := by
  obtain ⟨t, ht, ⟨hval, -⟩, -⟩ := exec_scalar h hg
  exact ⟨t, ht, hval.trans (if_neg hd)⟩

/-- Settles O9: the edge cases of R100 are values of the rules of DIV, DIVU, REM and REMU. -/
theorem divisionCorners : Obligations.DivisionCorners := by
  intro s d a b g hd hg
  have hvalue {i : Instr} {v w : Word} (h : scalarRule s i = some (d, v)) (hi : s.guardHolds i = true) (hv : v = w) :
      ∃ t, exec i s = .next t ∧ t.getG d = w := hv ▸ exec_scalar_value h hi hd
  refine ⟨fun hb => ⟨?_, ?_, ?_, ?_⟩, fun ha hb => ⟨?_, ?_⟩, fun hb => ⟨fun ha => ⟨?_, ?_⟩, fun ha => ?_⟩⟩
  · exact hvalue (i := .div d a b g) rfl hg (if_pos hb)
  · exact hvalue (i := .divu d a b g) rfl hg (if_pos hb)
  · exact hvalue (i := .rem d a b g) rfl hg (if_pos hb)
  · exact hvalue (i := .remu d a b g) rfl hg (if_pos hb)
  · exact hvalue (i := .div d a b g) rfl hg (by rw [ha, hb]; decide)
  · exact hvalue (i := .rem d a b g) rfl hg (by rw [ha, hb]; decide)
  · exact hvalue (i := .div d a b g) rfl hg (by rw [ha, hb]; decide)
  · exact hvalue (i := .rem d a b g) rfl hg (by rw [ha, hb]; decide)
  · exact hvalue (i := .divu d a b g) rfl hg (by rw [ha, hb]; decide)

end Sys2Proof.Machine
end

section
/-! PROOF. NOP: its one word, and its one effect (R112). -/

namespace Sys2Proof

/-- The fields of a word with NOP's major and LEN, and v below them. -/
theorem Base.ofWord_nop (v : BitVec 24) : Base.ofWord (0x14#8 ++ v) =
    ⟨0x14, v.extractLsb' 19 5, v.extractLsb' 14 5, v.extractLsb' 9 5, v.extractLsb' 3 6, v.extractLsb' 0 3⟩ := by
  simp (disch := decide) only [Base.ofWord, ext_hi, ext_lo, Nat.reduceSub, BitVec.reduceExtractLsb']
  rfl

/-- One of the five fields of a word of 24 bits is not zero exactly where the word is not. -/
theorem fields_bne_zero (v : BitVec 24) : (v.extractLsb' 19 5 != 0 || v.extractLsb' 14 5 != 0 || v.extractLsb' 9 5 != 0 ||
    v.extractLsb' 3 6 != 0 || v.extractLsb' 0 3 != 0) = (v != 0) := by
  have hlt := v.isLt
  rw [Bool.eq_iff_iff]
  simp only [Bool.or_eq_true, bne_iff_ne, ne_eq, ← BitVec.toNat_inj, BitVec.extractLsb'_toNat, Nat.shiftRight_eq_div_pow,
    BitVec.ofNat_eq_ofNat, BitVec.toNat_ofNat]
  omega

/-- A word with NOP's major and LEN is decoded by the condition that its other fields are zero. -/
theorem decode_nop_word (reflex : Bool) (ws : List Half) (v : BitVec 24) :
    decode reflex ((0x14#8 ++ v) :: ws) = if v = 0 then .ok .nop else .error (.reservedField 0) := by
  have hlen : ((0x14#8 ++ v).extractLsb' 30 2).toNat = 0 := by
    simp (disch := decide) only [ext_hi]; rfl
  have hmaj : ((0x14#8 ++ v).extractLsb' 24 6) = 0x14 := congrArg Base.maj (Base.ofWord_nop v)
  have hne : (0x14#8 ++ v : Half) ≠ 0 := fun h => by rw [h] at hmaj; exact absurd hmaj (by decide)
  have hok : lenOk (0x14#8 ++ v) = true := by rw [lenOk, hlen, hmaj]; decide
  have hframe : Frame.ofWords ((0x14#8 ++ v) :: ws) = some ⟨Base.ofWord (0x14#8 ++ v), none, none⟩ := by
    simp only [Frame.ofWords, hlen]
  simp only [decode, if_neg hne, hok, hframe, Base.ofWord_nop, Bool.not_true, Bool.false_eq_true, if_false]
  change Checked.run ⟨[], [(v.extractLsb' 19 5 != 0 || v.extractLsb' 14 5 != 0 || v.extractLsb' 9 5 != 0 ||
    v.extractLsb' 3 6 != 0 || v.extractLsb' 0 3 != 0, 0)], .nop⟩ = _
  rw [fields_bne_zero]
  by_cases h : v = 0
  · subst h; rfl
  · rw [bne_iff_ne.mpr h, if_neg h]; rfl

end Sys2Proof

namespace Sys2Proof.Machine

/-- Settles O12: NOP only completes, and its word is refused for any bit below its major. -/
theorem nopOnlyMovesOn : Obligations.NopOnlyMovesOn := by
  refine ⟨fun s => ⟨_, rfl, ?_⟩, fun reflex ws => decode_nop_word reflex ws 0, fun reflex ws v hv => ?_⟩
  · obtain ⟨hregs, hmy, hbytes⟩ := s.onlyPasses_advance 1
    exact ⟨hregs, hmy, hbytes, s.movesOn_self 1⟩
  · rw [decode_nop_word, if_neg hv]

end Sys2Proof.Machine
end

section
/-! PROOF. A captured instruction with a step, and a stepped pointer that passes A7 (R113, R114). -/

namespace Sys2Proof.Machine

open Sys2Proof

theorem issued_bind_ok {α β : Type} (a : α) (f : α → Issued β) : ((.ok a : Issued α) >>= f) = f a := rfl

/-- Words that decode to an instruction whose feature is present. -/
theorem State.decodeAt_ok {t : State} {ws : List Half} {i : Instr} (hd : decode t.reflex ws = .ok i) (hf : featureStop i = none) :
    t.decodeAt ws = .ok (i, { t with cur := { t.cur with ostep := 0, eword := ewordOf ws } }) := by
  rw [State.decodeAt, hd]
  dsimp only
  rw [hf]

/-- In a replay, a captured instruction to which a step applies is decoded again from its stepped words, and that one runs or waits. -/
theorem State.issueNext_stepped {t : State} {r : Replay} {st : RepSteps} {i j : Instr} (hr : t.my.replay = some r)
    (hcount : r.count ≠ 0) (hcaptured : r.i < r.words.length) (hw : r.words.getD r.i [] = encode i)
    (hd : decode t.reflex (encode i) = .ok i) (hf : featureStop i = none) (hfree : uncapturable i = false)
    (hs : r.steps = some st) (ha : st.apply.getLsbD r.i = true) (hg : t.guardOn (guardField i) = true)
    (hj : decode t.reflex (stepWords i (encode i) st r.p) = .ok j) :
    t.issueNext = t.runOrWait j
      { t with cur := { t.cur with ostep := BitVec.ofInt 64 (r.p * st.o.toInt), eword := ewordOf (encode i) } } := by
  have hcapture : t.capture r = .ok (encode i, t) := by rw [State.capture, if_pos hcaptured, hw]
  obtain ⟨u, hu⟩ : ∃ u, u = { t with cur := { t.cur with ostep := 0, eword := ewordOf (encode i) } } := ⟨_, rfl⟩
  have hat : t.decodeAt (encode i) = .ok (i, u) := by rw [State.decodeAt_ok hd hf, hu]
  have hguard : u.guardOn (guardField i) = true := by rw [hu]; exact hg
  have hstepped : decode u.reflex (stepWords i (encode i) st r.p) = .ok j := by rw [hu]; exact hj
  have hissue : t.issueReplay r = .ok (j, { u with cur := { u.cur with ostep := BitVec.ofInt 64 (r.p * st.o.toInt) } }) := by
    simp only [State.issueReplay, hcapture, hat, hfree, hs, ha, hguard, hstepped, issued_bind_ok, Bool.not_true, Bool.or_self,
      Bool.false_eq_true, if_false]
  unfold State.issueNext
  rw [hr]
  dsimp only
  rw [if_neg hcount, hissue, hu]

/-- The replay of a block of one VLD through A7, on the last of two passes, with a step of 2 on its pointer. -/
def pointerBlock : Replay :=
  { start := 16, n := 1, count := 2, p := 1, steps := some ⟨0, 2, 0, 0, 1⟩, words := [encode (.vld 0 7 .dist none none 0)] }

/-- Core 0 to issue from that replay, while a SEND of the context still owes G1; A1 points to the core's own memory. -/
def pointerReplay : State :=
  { State.reset with
    cores := [(0, { ctxs := [(0, { run := .running, pc := 16, a := [(1, BitVec.ofNat 64 (22 * 2 ^ 29))],
                                   replayM := some pointerBlock })] })],
    flight := [.send 0 0 1 0 [] 0], agenda := [.core 0] }

/-- The state in which it issues: the turn taken, chip time moved on and the issuing context set. -/
def pointerTurn : State :=
  let r := { pointerReplay.tick with agenda := [] }
  { r.setCore 0 { r.core 0 with last := 0 } with cur := { core := 0, ctx := 0 } }

theorem pointerReplay_issues : pointerReplay.issues 0 0 [] pointerTurn :=
  ⟨rfl, rfl, rfl, rfl, rfl, rfl, rfl, nofun⟩

/-- The pointer of the second pass is A1, which the same field numbers as the G1 that the context waits for. -/
theorem pointerReplay_waits : step pointerReplay = .next pointerTurn := by
  have hnext := State.issueNext_stepped (t := pointerTurn) (r := pointerBlock) (st := ⟨0, 2, 0, 0, 1⟩)
    (i := .vld 0 7 .dist none none 0) (j := .vld 0 1 .dist none none 0) rfl (by decide) (by decide) rfl (by decide +kernel)
    (by decide +kernel) rfl rfl (by decide) rfl (by decide +kernel)
  have hwaits : pointerTurn.waits (.vld 0 1 .dist none none 0) = true := by decide +kernel
  rw [pointerReplay_issues.step_eq, hnext, State.runOrWait, if_pos hwaits]

/-- The pc after an instruction that has a next state. -/
def pcAfter (o : Host.Outcome State Fault Refusal) : Option Word :=
  match o with
  | .next t => some t.my.pc
  | _ => none

/-- Refutes O13: the statement steps the pointer of a VLD within 32 registers, to an A9 that no word names, and has the step be its
exec; the model steps it within 8, to A1, and waits, since the field of A1 numbers the register that a SEND in flight still owes. -/
theorem not_repReplays : ¬Obligations.RepReplays := by
  rintro ⟨-, -, h, -⟩
  obtain ⟨-, -, hstepped⟩ := h pointerReplay pointerTurn 0 0 [] pointerBlock (.vld 0 7 .dist none none 0) pointerReplay_issues rfl
    (by decide) (by decide) rfl (by decide +kernel) (by decide +kernel)
  have hexec := hstepped ⟨0, 2, 0, 0, 1⟩ (.vld 0 9 .dist none none 0) rfl rfl (by decide) rfl (by decide) (by decide +kernel)
  rw [pointerReplay_waits] at hexec
  exact absurd (congrArg pcAfter hexec) (by decide +kernel)

end Sys2Proof.Machine
end

section
/-! PROOF. CLEAN of a line of the PCI Express window, whose translation marks its leaf (R140, R285). -/

namespace Sys2Proof.Machine

open Sys2Proof

set_option Elab.async false

/-- Tables of function 4 that map the address 0, readable by cluster 0, to the first GiB of the window: the root entry, a node of each
level down to 2, and a leaf at 0x18000 whose A bit is not set. -/
def windowPage : State :=
  let node (t : Tab Byte) (pa v : Nat) : Tab Byte := twrites 0 t pa (leBytes 8 v)
  { State.reset with
    dram := node (node (node (node (node [] 0x18000 0x400000081B) 0x18008 1) 0x14000 0x18001) 0x10000 0x14001) (rootOf 4) 0x10001 }

/-- The sectors that L2 holds dirty after an instruction that has a next state. -/
def sectorsAfter (o : Host.Outcome State Fault Refusal) : Option (Tab Bool) :=
  match o with
  | .next t => some t.sectors
  | _ => none

theorem windowPage_translates : (windowPage.xlateCore .load 0).1 = .place (.host 0) 1024 := by decide +kernel

/-- CLEAN walks as a load does: it sets A in the leaf (R285), and the leaf's sector is dirty. -/
theorem windowPage_clean : sectorsAfter (exec (.clean 0 none 0) windowPage) = some [(0x18000 / 128, true)] := by decide +kernel

/-- Refutes O21: the statement has a CLEAN of a page that lies in no DRAM leave the dirty sectors as they are; where the page is one of
the window and its leaf has A = 0, the walk's mark dirties the leaf's own sector. -/
theorem not_fencesAndObjects : ¬Obligations.FencesAndObjects := by
  rintro ⟨⟨-, -, hclean, -⟩, -⟩
  have haddr : (windowPage.effective 0 ((none : Option Word).getD 0)).toNat = 0 := by decide +kernel
  obtain ⟨-, hidle, -⟩ := hclean windowPage 0 none 0 (by decide +kernel) (by rw [haddr]; decide)
  rw [haddr, windowPage_translates] at hidle
  obtain ⟨t, ht, hsectors, -⟩ := hidle (.inr ⟨nofun, nofun⟩)
  have hafter := windowPage_clean
  rw [ht, sectorsAfter, hsectors] at hafter
  exact absurd hafter (by decide +kernel)

end Sys2Proof.Machine
end

section
/-! SUPPORT. Writing bytes: what it leaves of a state, and what reads back. -/

namespace Sys2Proof.Machine

open Sys2Proof

set_option Elab.async false

/-! ### What writing bytes leaves -/

/-- A core with its memories, and what is poisoned of them, replaced. -/
def CoreSt.Rewritten (c d : CoreSt) : Prop :=
  ∃ mem memBad tbuf tbufBad, d = { c with mem := mem, memBad := memBad, tbuf := tbuf, tbufBad := tbufBad }

/-- The cores and the memories of t in s. -/
def State.withMemories (s t : State) : State :=
  { s with cores := t.cores, dram := t.dram, dramBad := t.dramBad, l2Bad := t.l2Bad, sectors := t.sectors, freeRows := t.freeRows,
           host := t.host, peer := t.peer, sram := t.sram, sramBad := t.sramBad }

/-- A state after bytes were written: all but the memories is as it was. -/
structure State.Rewritten (s t : State) : Prop where
  core : ∀ n, (s.core n).Rewritten (t.core n)
  rest : t = s.withMemories t

theorem State.Rewritten.refl (s : State) : s.Rewritten s := ⟨fun _ => ⟨_, _, _, _, rfl⟩, rfl⟩

theorem State.Rewritten.trans {s t u : State} (h : s.Rewritten t) (h' : t.Rewritten u) : s.Rewritten u where
  core n := by
    obtain ⟨_, _, _, _, ht⟩ := h.core n
    obtain ⟨_, _, _, _, hu⟩ := h'.core n
    exact ⟨_, _, _, _, by rw [hu, ht]⟩
  rest := by
    have hu := h'.rest
    rw [h.rest] at hu
    exact hu

/-- A field that no memory is part of. -/
theorem State.Rewritten.field {s t : State} {α : Type} (h : s.Rewritten t) (f : State → α)
    (hf : f (s.withMemories t) = f s := by rfl) : f t = f s := by
  rw [h.rest]
  exact hf

theorem State.Rewritten.cur {s t : State} (h : s.Rewritten t) : t.cur = s.cur := h.field (·.cur)
theorem State.Rewritten.flight {s t : State} (h : s.Rewritten t) : t.flight = s.flight := h.field (·.flight)
theorem State.Rewritten.sc {s t : State} (h : s.Rewritten t) : t.sc = s.sc := h.field (·.sc)

theorem CoreSt.Rewritten.pair {c d : CoreSt} (h : c.Rewritten d) : d.pair = c.pair := by obtain ⟨_, _, _, _, rfl⟩ := h; rfl
theorem CoreSt.Rewritten.slog {c d : CoreSt} (h : c.Rewritten d) : d.slog = c.slog := by obtain ⟨_, _, _, _, rfl⟩ := h; rfl
theorem CoreSt.Rewritten.vf {c d : CoreSt} (h : c.Rewritten d) : d.vf = c.vf := by obtain ⟨_, _, _, _, rfl⟩ := h; rfl
theorem CoreSt.Rewritten.ctx {c d : CoreSt} (h : c.Rewritten d) (k : Nat) : d.ctx k = c.ctx k := by
  obtain ⟨_, _, _, _, rfl⟩ := h; rfl

theorem State.Rewritten.me {s t : State} (h : s.Rewritten t) : s.me.Rewritten t.me := by
  rw [State.me, State.me, h.cur]
  exact h.core _

theorem State.Rewritten.my {s t : State} (h : s.Rewritten t) : t.my = s.my := by
  rw [State.my, h.me.ctx, h.cur, State.my]

theorem State.rewritten_setCore (s : State) (n : Nat) {c : CoreSt} (h : (s.core n).Rewritten c) : s.Rewritten (s.setCore n c) where
  core m := by
    rw [State.core_setCore_if]
    split
    · next hm => rw [hm]; exact h
    · exact ⟨_, _, _, _, rfl⟩
  rest := rfl

theorem State.rewritten_setByte (s : State) (p : Place) (b : Byte) : s.Rewritten (s.setByte p b) := by
  cases p with
  | core n off => exact s.rewritten_setCore n ⟨_, _, _, _, rfl⟩
  | tbuf n off => exact s.rewritten_setCore n ⟨_, _, _, _, rfl⟩
  | dram _ | host _ | peer _ | sram _ => exact ⟨fun _ => ⟨_, _, _, _, rfl⟩, rfl⟩

theorem State.rewritten_setBytes (s : State) (p : Place) (bs : List Byte) : s.Rewritten (s.setBytes p bs) := by
  induction bs generalizing s p with
  | nil => exact .refl s
  | cons b bs ih => exact (s.rewritten_setByte p b).trans (ih _ _)

/-- Steps that each only write bytes only write bytes. -/
theorem State.rewritten_foldl {α : Type} {f : State → α → State} (hf : ∀ (s : State) a, s.Rewritten (f s a)) (l : List α) (s : State) :
    s.Rewritten (l.foldl f s) := by
  induction l generalizing s with
  | nil => exact .refl s
  | cons a l ih => exact (hf s a).trans (ih _)

/-! ### Blocks of bytes -/

/-- Bytes read alike one by one are read alike together. -/
theorem bytesAt_eq_of_byteAt {s t : State} {p : Place} {n : Nat} (h : ∀ i < n, t.byteAt (p.plus i) = s.byteAt (p.plus i)) :
    t.bytesAt p n = s.bytesAt p n := by
  induction n generalizing p with
  | zero => rfl
  | succ n ih =>
    have h0 := h 0 (Nat.succ_pos n)
    rw [Place.plus_zero] at h0
    rw [State.bytesAt, State.bytesAt, h0, ih fun i hi => by rw [Place.plus_plus]; exact h (1 + i) (by omega)]

theorem State.bytesAt_setBytes_leBytes (s : State) (p : Place) (n v : Nat) :
    (s.setBytes p (leBytes n v)).bytesAt p n = leBytes n v := by
  have h := s.bytesAt_setBytes p (leBytes n v)
  rwa [leBytes_length] at h

/-- A run of updates each of which changes one block, the blocks distinct: a block that is updated is so from what it held. -/
theorem foldl_block {σ α β : Type} (g : σ → α → β) {f : σ → α → σ} (hkeep : ∀ s a b, a ≠ b → g (f s b) a = g s a) {l : List α}
    (hl : l.Nodup) (s : σ) {a : α} (ha : a ∈ l) : ∃ t, g t a = g s a ∧ g (l.foldl f s) a = g (f t a) a := by
  have hout : ∀ (l : List α) s, a ∉ l → g (l.foldl f s) a = g s a := by
    intro l
    induction l with
    | nil => exact fun _ _ => rfl
    | cons b l ih =>
      intro s ha
      rw [List.mem_cons, not_or] at ha
      exact (ih (f s b) ha.2).trans (hkeep s a b ha.1)
  induction l generalizing s with
  | nil => cases ha
  | cons b l ih =>
    obtain ⟨hb, hl⟩ := List.nodup_cons.mp hl
    by_cases hab : a = b
    · subst hab
      exact ⟨s, rfl, hout l _ hb⟩
    · obtain ⟨t, ht, heq⟩ := ih hl (f s b) ((List.mem_cons.mp ha).resolve_left hab)
      exact ⟨t, ht.trans (hkeep s a b hab), heq⟩

/-- Words of m bytes at distinct multiples of m share no byte. -/
theorem Place.plus_word_ne (p : Place) {m j k i l : Nat} (hjk : j ≠ k) (hi : i < m) (hl : l < m) :
    (p.plus (m * j)).plus i ≠ (p.plus (m * k)).plus l := by
  rw [Place.plus_plus, Place.plus_plus]
  intro h
  have h := p.plus_inj h
  rcases Nat.lt_or_gt_of_ne hjk with hlt | hlt
  · have : m * (j + 1) ≤ m * k := Nat.mul_le_mul_left m hlt
    rw [Nat.mul_add] at this
    omega
  · have : m * (k + 1) ≤ m * j := Nat.mul_le_mul_left m hlt
    rw [Nat.mul_add] at this
    omega

end Sys2Proof.Machine
end

section
/-! PROOF. Streams read ahead, side-log replay, and held accesses (R130, R141-R144). -/

namespace Sys2Proof.Machine

open Sys2Proof

set_option Elab.async false

/-! ### Streams (R130) -/

/-- A read that passes its checks leaves the issuing context. -/
theorem State.readItems_keepsMy {s u : State} {sp : Space} {acc : Acc} {inf : AddrInfo} {kind : Nat} {unit : BitVec 4} {is : List Item}
    {bs : List (List Byte)} (h : s.readItems sp acc inf kind unit is = .ok (bs, u)) : s.keepsMy u := by
  obtain ⟨ls, hcheck⟩ := State.check_of_readItems h
  exact State.check_frame hcheck

theorem execStreamReadAhead_reads {s u : State} {core ctx j : Nat} {bs : List (List Byte)} {g : Stream}
    (hg : tget {} (s.ctxAt core ctx).streams j = g) (hbound : g.bound = true) (hdir : g.dir ≠ 2)
    (hcount : g.rc + g.ahead.length < g.count.toNat) (hroom : g.ahead.length < 8)
    (hread : (s.at core ctx).readItems g.space' .load (streamInfo false g) 0 0 (chunkItems (g.chunk (g.rc + g.ahead.length))) =
      .ok (bs, u)) :
    execStreamReadAhead core ctx j s = .next
      { (u.setMy { u.my with streams := tput u.my.streams j { g with ahead := g.ahead ++ [BitVec.ofNat 1024 (leNat bs.flatten)] } })
          with cur := s.cur } := by
  unfold execStreamReadAhead
  have hgo : (!g.bound || g.dir == 2 || decide (g.count.toNat ≤ g.rc + g.ahead.length) || decide (8 ≤ g.ahead.length)) = false := by
    rw [hbound, beq_eq_false_iff_ne.mpr hdir, decide_eq_false (by omega), decide_eq_false (by omega)]
    rfl
  dsimp only
  rw [State.my_at, hg, if_neg (by rw [hgo]; decide), hread]

/-! ### Side-log replay (R143, R144) -/

@[simp] theorem State.byteAt_sweepSc (s : State) (p : Place) : s.sweepSc.byteAt p = s.byteAt p := s.byteAt_of_eq p

@[simp] theorem State.byteAt_setCtxAt (s : State) (n k : Nat) (x : Ctx) (p : Place) : (s.setCtxAt n k x).byteAt p = s.byteAt p :=
  s.byteAt_setCore_own n _ p

@[simp] theorem State.ctxAt_setCtxAt (s : State) (n k : Nat) (x : Ctx) : (s.setCtxAt n k x).ctxAt n k = x := by
  simp [State.ctxAt, State.setCtxAt, CoreSt.ctx, CoreSt.setCtx]

/-- A context written leaves its core's side log. -/
@[simp] theorem State.slog_setCtxAt (s : State) (n k : Nat) (x : Ctx) (m : Nat) :
    ((s.setCtxAt n k x).core m).slog = (s.core m).slog := by
  rw [State.setCtxAt, State.core_setCore_if]
  split
  · next h => rw [h]; rfl
  · rfl

@[simp] theorem State.byteAt_dropEntry (s : State) (core n : Nat) (p : Place) : (s.dropEntry core n).byteAt p = s.byteAt p := by
  rw [State.dropEntry, State.byteAt_sweepSc]
  exact s.byteAt_setCore_own core _ p

@[simp] theorem State.core_dropEntry (s : State) (core n : Nat) :
    (s.dropEntry core n).core core = { s.core core with slog := (s.core core).slog.eraseIdx n } := s.core_setCore _ _

/-- An entry that leaves the log with a trap: the log without it, no byte changed, one more asynchronous cause pending. -/
theorem State.discard_entry (s : State) (core n ctx : Nat) (a : Async) :
    let t := (s.dropEntry core n).pendAsync core ctx a
    (t.core core).slog = (s.core core).slog.eraseIdx n ∧ s.sameBytes t ∧
      (t.ctxAt core ctx).async = (s.ctxAt core ctx).async ++ [a] := by
  refine ⟨by simp [State.pendAsync], fun p => by simp [State.pendAsync], ?_⟩
  rw [State.pendAsync, State.ctxAt_setCtxAt, State.ctxAt, State.core_dropEntry]
  rfl

/-- Entry n leaves the log with an asynchronous trap (R144). -/
def State.discardEntry (s : State) (core n : Nat) (e : LogEntry) (code : BitVec 8) (pk : BitVec 4) (m : Bool) : State :=
  (s.dropEntry core n).pendAsync core e.ctx (slogCause code e.addr pk m)

/-- What becomes of entry n by the answer of its walk, where nothing else keeps it (R143, R144, R268, R283). -/
theorem State.replayLog_eq {s u : State} {core n : Nat} {e : LogEntry} {x : Option TlbEntry} {y : Xlate}
    (he : (s.core core).slog[n]? = some e) (hfirst : ((s.core core).slog.take n).any (·.before e) = false)
    (hdue : s.scDue core e = true) (hfill : (s.at core e.ctx).noFill = false)
    (hwalk : s.xlateWalk { (s.at core e.ctx).asker with vf := e.vf } e.acc e.sector = (x, y, u)) :
    (∀ p lease, y = .place p lease → s.replayLog core n = if s.homeSkewed p.addr then s
        else if e.windowed p then u.discardEntry core n e cIllegalAddress 0 false else (u.replayEntry e p).dropEntry core n) ∧
      ∀ pk, y = .refused pk → s.replayLog core n = s.discardEntry core n e cProtection pk false := by
  have hgo : ¬(((s.core core).slog.take n).any (·.before e) || !s.scDue core e || (s.at core e.ctx).noFill) = true := by
    rw [hfirst, hdue, hfill]
    decide
  constructor <;> intros <;> subst y <;> unfold State.replayLog <;> rw [he] <;> dsimp only <;> rw [if_neg hgo, hwalk] <;> rfl

/-- Replayed bytes: the masked ones put down, the others as they were (R143). -/
theorem State.byteAt_replayEntry {s : State} {e : LogEntry} (p : Place) (hop : e.op = .write ∨ e.op = .zero) {k : Nat} (hk : k < 128) :
    (s.replayEntry e p).byteAt (p.plus k) = if e.has k then e.byte k else s.byteAt (p.plus k) := by
  have heq : s.replayEntry e p = (List.range 128).foldl (fun s i => if e.has i then s.setByte (p.plus i) (e.byte i) else s) s := by
    unfold State.replayEntry
    rcases hop with hop | hop <;> rw [hop]
  obtain ⟨t, ht, hlast⟩ := foldl_block (fun (s : State) k => s.byteAt (p.plus k))
    (f := fun s i => if e.has i then s.setByte (p.plus i) (e.byte i) else s) (fun s a b hab => by
      split
      · exact s.byteAt_setByte_ne _ fun h => hab (p.plus_inj h)
      · rfl) List.nodup_range s (List.mem_range.mpr hk)
  rw [heq, hlast]
  split
  · exact t.byteAt_setByte_self _ _
  · exact ht

/-- Replayed reductions: each word that the entry holds is the operation on what stood there (R143). -/
theorem State.bytesAt_replayEntry {s : State} {e : LogEntry} (p : Place) {op : AmoOp} {m : Nat} (hop : e.op = .amo op m) {k : Nat}
    (hk : k < 128 / m) (hhas : e.has (m * k) = true) :
    (s.replayEntry e p).bytesAt (p.plus (m * k)) m = leBytes m (amoNew op m (s.numAt (p.plus (m * k)) m)
      (leNat ((List.range m).map fun i => e.byte (m * k + i)))) := by
  unfold State.replayEntry
  rw [hop]
  obtain ⟨t, ht, hlast⟩ := foldl_block (fun (s : State) k => s.bytesAt (p.plus (m * k)) m)
    (f := fun (s : State) k => s.setBytes (p.plus (m * k)) (leBytes m (amoNew op m (s.numAt (p.plus (m * k)) m)
      (leNat ((List.range m).map fun i => e.byte (m * k + i)))))) (fun s a b hab =>
        bytesAt_eq_of_byteAt fun i hi => State.byteAt_setBytes_out _ _ _ _ fun l hl =>
          p.plus_word_ne hab hi (by simpa using hl))
    (List.nodup_range.filter fun k => e.has (m * k)) s (List.mem_filter.mpr ⟨List.mem_range.mpr hk, hhas⟩)
  refine hlast.trans ?_
  rw [show s.numAt _ m = t.numAt _ m from congrArg leNat ht.symm]
  exact t.bytesAt_setBytes_leBytes _ _ _

/-- Bytes put down: all but the memories is as it was. -/
theorem State.rewritten_replayEntry (s : State) (e : LogEntry) (p : Place) : s.Rewritten (s.replayEntry e p) := by
  unfold State.replayEntry
  cases e.op with
  | write | zero =>
    refine State.rewritten_foldl (fun s i => ?_) _ _
    split
    · exact s.rewritten_setByte _ _
    · exact .refl s
  | amo op m => exact State.rewritten_foldl (fun s _ => s.rewritten_setBytes _ _) _ _

/-! ### What O48 says of streams, of the side log and of held accesses -/

theorem execStreamReadAhead_ahead {s u : State} {core ctx j : Nat} {bs : List (List Byte)} {g : Stream}
    (hg : tget {} (s.ctxAt core ctx).streams j = g) (hbound : g.bound = true) (hdir : g.dir ≠ 2)
    (hcount : g.rc + g.ahead.length < g.count.toNat) (hroom : g.ahead.length < 8)
    (hread : (s.at core ctx).readItems g.space' .load (streamInfo false g) 0 0 (chunkItems (g.chunk (g.rc + g.ahead.length))) =
      .ok (bs, u)) :
    ∃ t, execStreamReadAhead core ctx j s = .next t ∧
      (tget {} (t.ctxAt core ctx).streams j).ahead = g.ahead ++ [BitVec.ofNat 1024 (leNat bs.flatten)] ∧
      (tget {} (t.ctxAt core ctx).streams j).rc = g.rc ∧ (t.ctxAt core ctx).pc = (s.ctxAt core ctx).pc := by
  obtain ⟨hcur, hmy⟩ := State.readItems_keepsMy hread
  have hctx : ∀ x : Ctx, (u.setMy x).ctxAt core ctx = x := by
    have hcore : u.cur.core = core ∧ u.cur.ctx = ctx := by rw [hcur]; exact ⟨rfl, rfl⟩
    intro x
    obtain ⟨rfl, rfl⟩ := hcore
    exact u.my_setMy x
  refine ⟨_, execStreamReadAhead_reads hg hbound hdir hcount hroom hread, ?_⟩
  change (tget {} ((u.setMy _).ctxAt core ctx).streams j).ahead = _ ∧ (tget {} ((u.setMy _).ctxAt core ctx).streams j).rc = _ ∧
    ((u.setMy _).ctxAt core ctx).pc = _
  rw [hctx]
  exact ⟨by rw [tget_tput_self], by rw [tget_tput_self], (congrArg Ctx.pc hmy : u.my.pc = _)⟩

theorem execSideLogReplay_answers {s u : State} {core n : Nat} {e : LogEntry} {x : Option TlbEntry} {y : Xlate}
    (he : (s.core core).slog[n]? = some e) (hfirst : ((s.core core).slog.take n).any (·.before e) = false)
    (hdue : s.scDue core e = true) (hfill : (s.at core e.ctx).noFill = false)
    (hwalk : s.xlateWalk { (s.at core e.ctx).asker with vf := e.vf } e.acc e.sector = (x, y, u)) :
     (∀ p lease, y = .place p lease → s.homeSkewed p.addr = true → execSideLogReplay core n s = .next s) ∧
     (∀ p lease, y = .place p lease → s.homeSkewed p.addr = false → e.windowed p = true →
       ∃ t a, execSideLogReplay core n s = .next t ∧ (t.core core).slog = (s.core core).slog.eraseIdx n ∧ u.sameBytes t ∧
         (t.ctxAt core e.ctx).async = (s.ctxAt core e.ctx).async ++ [a] ∧ a.code = 0x09) ∧
     (∀ p lease, y = .place p lease → s.homeSkewed p.addr = false → e.windowed p = false →
       ∃ t, execSideLogReplay core n s = .next t ∧ (t.core core).slog = (s.core core).slog.eraseIdx n ∧ (match e.op with
         | .write | .zero => ∀ k < 128, t.byteAt (p.plus k) = if e.has k then e.byte k else u.byteAt (p.plus k)
         | .amo op m => ∀ k < 128 / m, e.has (m * k) = true → t.bytesAt (p.plus (m * k)) m =
             leBytes m (amoNew op m (u.numAt (p.plus (m * k)) m) (leNat ((List.range m).map fun i => e.byte (m * k + i)))))) ∧
     (∀ pk, y = .refused pk →
       ∃ t, execSideLogReplay core n s = .next t ∧ (t.core core).slog = (s.core core).slog.eraseIdx n ∧ s.sameBytes t ∧
         ∃ a, (t.ctxAt core e.ctx).async = (s.ctxAt core e.ctx).async ++ [a] ∧ a.code = 0x07) := by
  obtain ⟨hplace, hrefused⟩ := State.replayLog_eq he hfirst hdue hfill hwalk
  have hcores : u.cores = s.cores := by
    have h := (s.xlateWalk_frame { (s.at core e.ctx).asker with vf := e.vf } e.acc e.sector).1
    rwa [hwalk] at h
  have hcore : u.core core = s.core core := by rw [State.core, hcores, State.core]
  have hctx : u.ctxAt core e.ctx = s.ctxAt core e.ctx := by rw [State.ctxAt, hcore, State.ctxAt]
  unfold execSideLogReplay
  refine ⟨fun p lease hy hskew => ?_, fun p lease hy hskew hwin => ?_, fun p lease hy hskew hwin => ?_, fun pk hy => ?_⟩
  · rw [hplace p lease hy, if_pos hskew]
  · rw [hplace p lease hy, if_neg (by rw [hskew]; decide), if_pos hwin]
    obtain ⟨hlog, hbytes, hasync⟩ := u.discard_entry core n e.ctx (slogCause cIllegalAddress e.addr 0 false)
    rw [hcore] at hlog
    rw [hctx] at hasync
    exact ⟨_, _, rfl, hlog, hbytes, hasync, rfl⟩
  · rw [hplace p lease hy, if_neg (by rw [hskew]; decide), if_neg (by rw [hwin]; decide)]
    refine ⟨_, rfl, ?_, ?_⟩
    · rw [State.core_dropEntry]
      exact congrArg (·.eraseIdx n) (((u.rewritten_replayEntry e p).core core).slog.trans (congrArg CoreSt.slog hcore))
    · split
      case h_1 hop => exact fun k hk => (State.byteAt_dropEntry _ _ _ _).trans (u.byteAt_replayEntry p (.inl hop) hk)
      case h_2 hop => exact fun k hk => (State.byteAt_dropEntry _ _ _ _).trans (u.byteAt_replayEntry p (.inr hop) hk)
      case h_3 hop =>
        exact fun k hk hhas => (State.bytesAt_congr (fun q => State.byteAt_dropEntry _ _ _ q) _ _).trans
          (u.bytesAt_replayEntry p hop hk hhas)
  · rw [hrefused pk hy]
    obtain ⟨hlog, hbytes, hasync⟩ := s.discard_entry core n e.ctx (slogCause cProtection e.addr pk false)
    exact ⟨_, rfl, hlog, hbytes, _, hasync, rfl⟩

theorem execHeldAccessResume_issues {s : State} {core ctx : Nat} (h : (s.ctxAt core ctx).run = .holding) :
    ∃ t, execHeldAccessResume core ctx s = .next t ∧ (t.ctxAt core ctx).run = .running ∧
      (t.ctxAt core ctx).pc = (s.ctxAt core ctx).pc ∧ s.sameBytes t :=
  ⟨_, State.event_on (by rw [h]; rfl), by rw [State.ctxAt_setCtxAt], by rw [State.ctxAt_setCtxAt],
    fun p => State.byteAt_setCtxAt _ _ _ _ p⟩

end Sys2Proof.Machine
end

section
/-! PROOF. The fault service: records, their answers, and those who wait for them (R286, R370). -/

namespace Sys2Proof.Machine

open Sys2Proof

set_option Elab.async false

/-! ### Records (R286) -/

/-- A record for a page that none is outstanding for, in a cluster with room: entered, with the next token. -/
theorem State.postFault_posts {s : State} {core vf page kind src : Nat}
    (hnone : ∀ k < 16, ∀ f ∈ (s.cluster k).faults, ¬(f.vf = vf ∧ f.va = page))
    (hroom : (s.cluster (clusterOf core)).faults.length < 32) :
    ∃ r, ((s.postFault core vf page kind src).cluster (clusterOf core)).faults = (s.cluster (clusterOf core)).faults ++ [r] ∧
      r.va = page ∧ r.vf = vf ∧ r.kind = kind ∧ r.core = core ∧ r.src = src ∧ r.time = s.now ∧
      s.sameBytes (s.postFault core vf page kind src) := by
  have hmerge : ¬((List.range 16).any fun k => (s.cluster k).faults.any fun f => f.vf == vf && f.va == page) = true := by
    intro h
    obtain ⟨k, hk, h⟩ := List.any_eq_true.mp h
    obtain ⟨f, hf, h⟩ := List.any_eq_true.mp h
    rw [Bool.and_eq_true, beq_iff_eq, beq_iff_eq] at h
    exact hnone k (List.mem_range.mp hk) f hf h
  unfold State.postFault
  dsimp only
  rw [if_neg hmerge, if_neg (Nat.not_le.mpr hroom)]
  refine ⟨{ va := page, vf := vf, kind := kind, core := core, src := src, time := s.now, token := Config.tokenOf s.tokens }, ?_, rfl, rfl, rfl, rfl, rfl, rfl, fun p => ?_⟩
  · split <;> simp [State.cluster, State.setCluster]
  · split <;> exact s.byteAt_of_eq p

/-- A record that is answered leaves its cluster. -/
theorem State.faults_dropRecord (s : State) (k : Nat) (f : FaultRec) :
    ((s.dropRecord k f).cluster k).faults = (s.cluster k).faults.erase f := by
  unfold State.dropRecord
  dsimp only
  split <;> simp [State.cluster, State.setCluster]

theorem State.cores_dropRecord (s : State) (k : Nat) (f : FaultRec) : (s.dropRecord k f).cores = s.cores := by
  unfold State.dropRecord
  dsimp only
  split <;> rfl

theorem State.byteAt_dropRecord (s : State) (k : Nat) (f : FaultRec) (p : Place) : (s.dropRecord k f).byteAt p = s.byteAt p := by
  unfold State.dropRecord
  dsimp only
  split <;> exact s.byteAt_of_eq p

/-! ### What the answer leaves of the contexts and of the other records -/

/-- Every context stands as it did, and every cluster has its records. -/
structure State.KeepsWaits (s t : State) : Prop where
  run : ∀ n k, (t.ctxAt n k).run = (s.ctxAt n k).run
  invalidAt : ∀ n k, (t.ctxAt n k).invalidAt = (s.ctxAt n k).invalidAt
  faults : ∀ k, (t.cluster k).faults = (s.cluster k).faults

theorem State.KeepsWaits.refl (s : State) : s.KeepsWaits s := ⟨fun _ _ => rfl, fun _ _ => rfl, fun _ => rfl⟩

theorem State.KeepsWaits.trans {s t u : State} (h : s.KeepsWaits t) (h' : t.KeepsWaits u) : s.KeepsWaits u where
  run n k := (h'.run n k).trans (h.run n k)
  invalidAt n k := (h'.invalidAt n k).trans (h.invalidAt n k)
  faults k := (h'.faults k).trans (h.faults k)

theorem State.KeepsWaits.foldl {α : Type} {f : State → α → State} (hf : ∀ (s : State) a, s.KeepsWaits (f s a)) (l : List α) (s : State) :
    s.KeepsWaits (l.foldl f s) := by
  induction l generalizing s with
  | nil => exact .refl s
  | cons a l ih => exact (hf s a).trans (ih _)

/-- Cores with the same contexts, and the same clusters. -/
theorem State.keepsWaits_of_ctxs {s t : State} (hctxs : ∀ n, (t.core n).ctxs = (s.core n).ctxs) (hclusters : t.clusters = s.clusters) :
    s.KeepsWaits t := by
  have hctx : ∀ n k, t.ctxAt n k = s.ctxAt n k := fun n k => by rw [State.ctxAt, CoreSt.ctx, hctxs, State.ctxAt, CoreSt.ctx]
  exact ⟨fun n k => by rw [hctx], fun n k => by rw [hctx], fun k => by rw [State.cluster, hclusters, State.cluster]⟩

theorem State.keepsWaits_setCore (s : State) (n : Nat) {c : CoreSt} (h : c.ctxs = (s.core n).ctxs := by rfl) :
    s.KeepsWaits (s.setCore n c) := by
  refine State.keepsWaits_of_ctxs (fun m => ?_) rfl
  rw [State.core_setCore_if]
  split
  · next hm => rw [h, hm]
  · rfl

theorem CoreSt.ctx_setCtx_if (c : CoreSt) (k j : Nat) (x : Ctx) : (c.setCtx k x).ctx j = if j = k then x else c.ctx j := by
  simp only [CoreSt.ctx, CoreSt.setCtx, tget_tput]

theorem State.ctxAt_setCtxAt_if (s : State) (n k m j : Nat) (x : Ctx) :
    (s.setCtxAt n k x).ctxAt m j = if m = n ∧ j = k then x else s.ctxAt m j := by
  rw [State.ctxAt, State.setCtxAt, State.core_setCore_if]
  by_cases hm : m = n
  · subst hm
    rw [if_pos rfl, CoreSt.ctx_setCtx_if]
    simp only [true_and]
    rfl
  · rw [if_neg hm, if_neg fun h => hm h.1, State.ctxAt]

/-- A context written that runs and reads as it did. -/
theorem State.keepsWaits_setCtxAt (s : State) (n k : Nat) {x : Ctx} (hrun : x.run = (s.ctxAt n k).run := by rfl)
    (hinv : x.invalidAt = (s.ctxAt n k).invalidAt := by rfl) : s.KeepsWaits (s.setCtxAt n k x) where
  run m j := by
    rw [State.ctxAt_setCtxAt_if]
    split
    · next h => rw [hrun, h.1, h.2]
    · rfl
  invalidAt m j := by
    rw [State.ctxAt_setCtxAt_if]
    split
    · next h => rw [hinv, h.1, h.2]
    · rfl
  faults _ := rfl

theorem State.Rewritten.keepsWaits {s t : State} (h : s.Rewritten t) : s.KeepsWaits t := by
  refine State.keepsWaits_of_ctxs (fun n => ?_) (h.field (·.clusters))
  obtain ⟨_, _, _, _, hn⟩ := h.core n
  rw [hn]

theorem State.keepsWaits_setChan (s : State) (cluster chan : Nat) (c : Channel) : s.KeepsWaits (s.setChan cluster chan c) := by
  unfold State.setChan
  split
  · refine ⟨fun _ _ => rfl, fun _ _ => rfl, fun k => ?_⟩
    rw [State.cluster, State.setCluster, tget_tput]
    split
    · next h => rw [h]
    · rfl
  · exact s.keepsWaits_setCore chan

theorem State.keepsWaits_wake (s : State) (core : Nat) : s.KeepsWaits (s.wake core) :=
  .foldl (fun s k => s.keepsWaits_setCtxAt core k) _ _

theorem State.keepsWaits_postQ0 (s : State) (core : Nat) (e : Word × Word) : s.KeepsWaits (s.postQ0 core e) := by
  unfold State.postQ0
  dsimp only
  split
  · exact (s.keepsWaits_setCore core).trans (State.keepsWaits_wake _ core)
  · exact s.keepsWaits_setCore core

theorem State.rewritten_putPieces (s : State) (ps : List (Place × Nat)) (bs : List Byte) : s.Rewritten (s.putPieces ps bs) := by
  induction ps generalizing s bs with
  | nil => exact .refl s
  | cons p ps ih => exact (s.rewritten_setBytes p.1 _).trans (ih _ _)

theorem State.keepsWaits_looseRow (s : State) (cluster chan : Nat) (cmd : Command) : s.KeepsWaits (s.looseRow cluster chan cmd) := by
  unfold State.looseRow
  dsimp only
  split
  · split
    · refine .foldl (fun s e => ?_) _ _
      exact (s.rewritten_putPieces [e] _).keepsWaits.trans (State.keepsWaits_of_ctxs (fun _ => rfl) rfl)
    · exact .refl s
  · exact .refl s

theorem State.keepsWaits_stopEngine (s : State) (cluster chan : Nat) (cmd : Command) (addr : Word) :
    s.KeepsWaits (s.stopEngine cluster chan cmd addr) :=
  (s.keepsWaits_looseRow cluster chan cmd).trans
    ((State.keepsWaits_setChan _ cluster chan _).trans (State.keepsWaits_postQ0 _ _ _))

theorem State.keepsWaits_releaseEngines (s : State) (vf page : Nat) (invalid : Bool) : s.KeepsWaits (s.releaseEngines vf page invalid) := by
  refine .foldl (fun s e => ?_) _ _
  split
  · split
    · exact .refl s
    · split
      · exact s.keepsWaits_stopEngine _ _ _ _
      · exact s.keepsWaits_setChan _ _ _
  · exact .refl s

theorem State.keepsWaits_discardLogged (s : State) (vf page : Nat) : s.KeepsWaits (s.discardLogged vf page) := by
  refine .foldl (fun s e => ?_) _ _
  refine .trans ?_ (.foldl (fun s (x : LogEntry) => s.keepsWaits_setCtxAt e.1 x.ctx) _ _)
  exact (s.keepsWaits_setCore e.1).trans (State.keepsWaits_of_ctxs (fun _ => rfl) rfl)

theorem State.keepsWaits_releaseLaunches (s : State) (vf page : Nat) : s.KeepsWaits (s.releaseLaunches vf page) := by
  unfold State.releaseLaunches
  exact State.keepsWaits_of_ctxs (fun _ => rfl) rfl

theorem State.byteAt_releaseEngines (s : State) (vf page : Nat) (p : Place) : (s.releaseEngines vf page false).byteAt p = s.byteAt p := by
  refine State.byteAt_foldl (fun s e p => ?_) _ s p
  split
  · split
    · rfl
    · exact s.byteAt_setChan _ _ _ p
  · rfl

/-! ### The contexts that wait (R286) -/

/-- A context goes on after the answer to what it waited for. -/
def Ctx.Answered (x : Ctx) (invalid : Option Nat) : Prop := x.run = .running ∧ x.invalidAt = invalid

theorem State.KeepsWaits.answered {s t : State} (h : s.KeepsWaits t) {n k : Nat} {invalid : Option Nat}
    (ha : (s.ctxAt n k).Answered invalid) : (t.ctxAt n k).Answered invalid :=
  ⟨(h.run n k).trans ha.1, (h.invalidAt n k).trans ha.2⟩

/-- What one step establishes, and every step keeps, holds in the end. -/
theorem foldl_reaches {σ α : Type} {P : σ → Prop} {f : σ → α → σ} (hkeep : ∀ s b, P s → P (f s b)) {a : α} (hown : ∀ s, P (f s a))
    {l : List α} (ha : a ∈ l) (s : σ) : P (l.foldl f s) := by
  have hrest : ∀ (l : List α) s, P s → P (l.foldl f s) := by
    intro l
    induction l with
    | nil => exact fun _ h => h
    | cons b l ih => exact fun s h => ih _ (hkeep s b h)
  induction l generalizing s with
  | nil => cases ha
  | cons b l ih =>
    rcases List.mem_cons.mp ha with rfl | ha
    · exact hrest l _ (hown s)
    · exact ih ha _

theorem tget_key_mem {α : Type} {d : α} {t : Tab α} {k : Nat} (h : tget d t k ≠ d) : (k, tget d t k) ∈ t := by
  induction t with
  | nil => exact absurd rfl h
  | cons a t ih =>
    obtain ⟨j, v⟩ := a
    rw [tget] at h ⊢
    split at h
    · next hk => rw [if_pos hk, hk]; exact List.mem_cons_self ..
    · next hk =>
      rw [if_neg hk]
      split at h
      · exact absurd rfl h
      · next hlt => rw [if_neg hlt]; exact List.mem_cons_of_mem _ (ih h)

/-- The step of `State.releaseHolders` for one context. -/
def State.answerCtx (invalid : Option Nat) (n : Nat) (s : State) (k : Nat) : State :=
  s.setCtxAt n k { s.ctxAt n k with run := .running, invalidAt := invalid }

theorem State.answerCtx_self (s : State) (invalid : Option Nat) (n k : Nat) : ((s.answerCtx invalid n k).ctxAt n k).Answered invalid := by
  rw [State.answerCtx, State.ctxAt_setCtxAt]
  exact ⟨rfl, rfl⟩

theorem State.answerCtx_keeps {s : State} {invalid : Option Nat} {n k : Nat} (m j : Nat) (h : (s.ctxAt n k).Answered invalid) :
    ((s.answerCtx invalid m j).ctxAt n k).Answered invalid := by
  rw [State.answerCtx, State.ctxAt_setCtxAt_if]
  split
  · exact ⟨rfl, rfl⟩
  · exact h

/-- Every context that waits for the page goes on, told so where the page is invalid. -/
theorem State.releaseHolders_answered {s t : State} {vf page n k : Nat} (invalid : Bool) (ht : t.cores = s.cores) (hk : k < 11)
    (hold : (s.core n).holdsOn k vf page = true) :
    ((t.releaseHolders vf page invalid).ctxAt n k).Answered (if invalid then some page else none) := by
  have hmem : (n, s.core n) ∈ t.cores := by
    rw [ht]
    refine tget_key_mem fun h => ?_
    rw [State.core, h] at hold
    cases hold
  refine foldl_reaches (P := fun s => (s.ctxAt n k).Answered (if invalid then some page else none)) (fun s e h => ?_) (fun s => ?_) hmem t
  · exact List.foldlRecOn (motive := fun s : State => (s.ctxAt n k).Answered (if invalid then some page else none)) _ _ h
      fun s h j _ => s.answerCtx_keeps e.1 j h
  · exact foldl_reaches (P := fun s : State => (s.ctxAt n k).Answered (if invalid then some page else none))
      (f := State.answerCtx (if invalid then some page else none) n) (fun s j h => s.answerCtx_keeps n j h)
      (fun s => s.answerCtx_self _ n k) (List.mem_filter.mpr ⟨List.mem_range.mpr hk, hold⟩) s

theorem State.byteAt_releaseHolders (s : State) (vf page : Nat) (invalid : Bool) (p : Place) :
    (s.releaseHolders vf page invalid).byteAt p = s.byteAt p :=
  State.byteAt_foldl (fun s _ p => State.byteAt_foldl (fun s _ p => s.byteAt_setCtxAt _ _ _ p) _ s p) _ s p

theorem State.clusters_releaseHolders (s : State) (vf page : Nat) (invalid : Bool) :
    (s.releaseHolders vf page invalid).clusters = s.clusters := by
  refine foldl_field State.clusters (fun s e => ?_) _ s
  refine foldl_field State.clusters (fun s k => ?_) _ s
  rfl

/-! ### The answers (R286, R370) -/

theorem State.answerMapped_eq {s : State} {token : Word} {k : Nat} {f : FaultRec} (h : s.recordOf token = some (k, f)) :
    s.answerMapped token = ((s.dropRecord k f).releaseHolders f.vf f.va false).releaseEngines f.vf f.va false := by
  unfold State.answerMapped
  rw [h]

theorem State.answerInvalid_eq {s : State} {token : Word} {k : Nat} {f : FaultRec} (h : s.recordOf token = some (k, f)) :
    s.answerInvalid token = ((((s.dropRecord k f).releaseHolders f.vf f.va true).discardLogged f.vf f.va).releaseEngines f.vf f.va
      true).releaseLaunches f.vf f.va := by
  unfold State.answerInvalid
  rw [h]

theorem execFaultAnswerMapped_answers {s : State} {token : Word} {k : Nat} {f : FaultRec} (h : s.recordOf token = some (k, f)) :
    ∃ t, execFaultAnswerMapped token s = .next t ∧ (t.cluster k).faults = (s.cluster k).faults.erase f ∧ s.sameBytes t ∧
      ∀ core ctx, ctx < 11 → (s.core core).holdsOn ctx f.vf f.va = true →
        (t.ctxAt core ctx).run = .running ∧ (t.ctxAt core ctx).invalidAt = none := by
  refine ⟨_, congrArg Host.Outcome.next (State.answerMapped_eq h), ?_, fun p => ?_, fun core ctx hctx hold => ?_⟩
  · rw [(State.keepsWaits_releaseEngines _ f.vf f.va false).faults, State.cluster, State.clusters_releaseHolders]
    exact s.faults_dropRecord k f
  · rw [State.byteAt_releaseEngines, State.byteAt_releaseHolders, State.byteAt_dropRecord]
  · exact (State.keepsWaits_releaseEngines _ f.vf f.va false).answered
      (State.releaseHolders_answered false (s.cores_dropRecord k f) hctx hold)

theorem execFaultAnswerInvalid_answers {s : State} {token : Word} {k : Nat} {f : FaultRec} (h : s.recordOf token = some (k, f)) :
    ∃ t, execFaultAnswerInvalid token s = .next t ∧ (t.cluster k).faults = (s.cluster k).faults.erase f ∧
      ∀ core ctx, ctx < 11 → (s.core core).holdsOn ctx f.vf f.va = true →
        (t.ctxAt core ctx).run = .running ∧ (t.ctxAt core ctx).invalidAt = some f.va := by
  have hkeeps : ∀ t : State, t.KeepsWaits (((t.discardLogged f.vf f.va).releaseEngines f.vf f.va true).releaseLaunches f.vf f.va) :=
    fun t => (t.keepsWaits_discardLogged f.vf f.va).trans ((State.keepsWaits_releaseEngines _ f.vf f.va true).trans
      (State.keepsWaits_releaseLaunches _ f.vf f.va))
  refine ⟨_, congrArg Host.Outcome.next (State.answerInvalid_eq h), ?_, fun core ctx hctx hold => ?_⟩
  · rw [(hkeeps _).faults, State.cluster, State.clusters_releaseHolders]
    exact s.faults_dropRecord k f
  · exact (hkeeps _).answered (State.releaseHolders_answered true (s.cores_dropRecord k f) hctx hold)

theorem execFaultRecordPost_posts {s : State} {cluster n core vf page kind src : Nat}
    (hwait : (s.clusterWaits cluster)[n]? = some (core, vf, page, kind, src)) (habsent : s.walk vf page = .absent)
    (hnone : ∀ k < 16, ∀ f ∈ (s.cluster k).faults, ¬(f.vf = vf ∧ f.va = page))
    (hroom : (s.cluster (clusterOf core)).faults.length < 32) :
    ∃ t r, execFaultRecordPost cluster n s = .next t ∧
      (t.cluster (clusterOf core)).faults = (s.cluster (clusterOf core)).faults ++ [r] ∧ r.va = page ∧ r.vf = vf ∧ r.kind = kind ∧
      r.core = core ∧ r.src = src ∧ r.time = s.now ∧ s.sameBytes t := by
  obtain ⟨r, hr⟩ := State.postFault_posts (kind := kind) (src := src) hnone hroom
  refine ⟨_, r, ?_, hr⟩
  unfold execFaultRecordPost
  rw [hwait]
  exact congrArg Host.Outcome.next (if_pos habsent)

/-- Settles O48: streams, the side log and held accesses by the answer of their read or walk; a record's answer by what each of its
steps leaves of the contexts that wait. -/
theorem streamsAndFaults : Obligations.StreamsAndFaults := by
  refine ⟨⟨?_, ?_, ?_⟩, ?_, ?_⟩
  · exact fun s u core ctx j bs hbound hdir hcount hroom hread => execStreamReadAhead_ahead rfl hbound hdir hcount hroom hread
  · exact fun s u core n e x y he hfirst hdue hfill hwalk => execSideLogReplay_answers he hfirst hdue hfill hwalk
  · exact fun s core ctx h => execHeldAccessResume_issues h
  · exact fun s cluster n core vf page kind src hwait habsent hnone hroom => execFaultRecordPost_posts hwait habsent hnone hroom
  · refine fun s token k f h => ⟨execFaultAnswerMapped_answers h, execFaultAnswerInvalid_answers h, fun v hreach htoken => ?_⟩
    subst htoken
    exact ⟨⟨_, rfl, congrArg Host.Outcome.next (if_pos hreach).symm⟩, ⟨_, rfl, congrArg Host.Outcome.next (if_pos hreach).symm⟩⟩

end Sys2Proof.Machine
end

section
/-! SUPPORT. Accesses: what their checks, their order and the send of their instruction leave, and where a checked piece lies. -/

namespace Sys2Proof.Machine

open Sys2Proof

set_option Elab.async false

/-! ### An instruction under way -/

/-- A context at its instruction, with the registers that it had. -/
structure Ctx.Same (x y : Ctx) : Prop where
  g : y.g = x.g
  p : y.p = x.p
  v : y.v = x.v
  a : y.a = x.a
  sys : y.sys = x.sys
  pc : y.pc = x.pc
  replay : y.replay = x.replay

/-- A state on the way of the issuing context's instruction, before it completes. -/
structure State.Along (s t : State) : Prop where
  cur : t.cur = s.cur
  my : s.my.Same t.my

theorem Ctx.Same.refl (x : Ctx) : x.Same x := ⟨rfl, rfl, rfl, rfl, rfl, rfl, rfl⟩

theorem Ctx.Same.trans {x y z : Ctx} (h : x.Same y) (h' : y.Same z) : x.Same z :=
  ⟨h'.g.trans h.g, h'.p.trans h.p, h'.v.trans h.v, h'.a.trans h.a, h'.sys.trans h.sys, h'.pc.trans h.pc, h'.replay.trans h.replay⟩

theorem State.Along.refl (s : State) : s.Along s := ⟨rfl, .refl _⟩

theorem State.Along.trans {s t u : State} (h : s.Along t) (h' : t.Along u) : s.Along u := ⟨h'.cur.trans h.cur, h.my.trans h'.my⟩

theorem State.keepsMy.along {s t : State} (h : s.keepsMy t) : s.Along t := ⟨h.1, by rw [h.2]; exact .refl _⟩

theorem State.Rewritten.along {s t : State} (h : s.Rewritten t) : s.Along t := State.keepsMy.along ⟨h.cur, h.my⟩

theorem State.Along.getG {s t : State} (h : s.Along t) (r : Reg5) : t.getG r = s.getG r := by
  simp only [State.getG, Ctx.getG, h.my.g]
theorem State.Along.getP {s t : State} (h : s.Along t) (r : Reg3) : t.getP r = s.getP r := by
  simp only [State.getP, Ctx.getP, h.my.p]
theorem State.Along.getV {s t : State} (h : s.Along t) (r : Reg5) : t.getV r = s.getV r := by
  simp only [State.getV, Ctx.getV, h.my.v]
theorem State.Along.getA {s t : State} (h : s.Along t) (r : Reg3) : t.getA r = s.getA r := by
  simp only [State.getA, Ctx.getA, h.my.a]
theorem State.Along.sysr {s t : State} (h : s.Along t) (n : Nat) : t.my.sysr n = s.my.sysr n := by
  simp only [Ctx.sysr, h.my.sys]

/-- The registers of a context whose instruction completes, or that waits. -/
theorem State.along_setMy (s : State) {x : Ctx} (h : s.my.Same x) : s.Along (s.setMy x) := ⟨rfl, by rw [State.my_setMy]; exact h⟩

theorem State.along_discardAhead (s : State) : s.Along s.discardAhead := by
  rcases s.discardAhead_cases with ⟨-, h⟩ | h <;> rw [h]
  · exact .refl s
  · exact s.along_setMy ⟨rfl, rfl, rfl, rfl, rfl, rfl, rfl⟩

theorem State.along_acquired (s : State) (o : Order) : s.Along (s.acquired o) := by
  unfold State.acquired
  split
  · exact s.along_discardAhead
  · exact .refl s

theorem State.along_fly (s : State) (l : List Flight) : s.Along (s.fly l) := ⟨rfl, .refl _⟩

theorem State.along_newSc (s : State) (act : ScAct) : s.Along (s.newSc act) := by
  unfold State.newSc
  dsimp only
  split <;> exact ⟨rfl, .refl _⟩

theorem State.along_holdOn_none (s : State) : s.Along (s.holdOn none) := s.along_setMy ⟨rfl, rfl, rfl, rfl, rfl, rfl, rfl⟩

/-! ### What acquires and holds leave of memory and flight -/

@[simp] theorem State.byteAt_discardAhead (s : State) (p : Place) : s.discardAhead.byteAt p = s.byteAt p := by
  rcases s.discardAhead_cases with ⟨-, h⟩ | h <;> rw [h]
  exact s.byteAt_setMy _ p

@[simp] theorem State.flight_discardAhead (s : State) : s.discardAhead.flight = s.flight := by
  rcases s.discardAhead_cases with ⟨-, h⟩ | h <;> rw [h]
  rfl

@[simp] theorem State.byteAt_acquired (s : State) (o : Order) (p : Place) : (s.acquired o).byteAt p = s.byteAt p := by
  unfold State.acquired
  split
  · exact s.byteAt_discardAhead p
  · rfl

@[simp] theorem State.byteAt_setA (s : State) (r : Reg3) (v : Word) (p : Place) : (s.setA r v).byteAt p = s.byteAt p :=
  s.byteAt_setMy _ p

@[simp] theorem State.byteAt_fly (s : State) (l : List Flight) (p : Place) : (s.fly l).byteAt p = s.byteAt p := s.byteAt_of_eq p

@[simp] theorem State.byteAt_holdOn_none (s : State) (p : Place) : (s.holdOn none).byteAt p = s.byteAt p := s.byteAt_setMy _ p

@[simp] theorem State.byteAt_newSc (s : State) (act : ScAct) (p : Place) : (s.newSc act).byteAt p = s.byteAt p := by
  unfold State.newSc
  dsimp only
  split <;> exact s.byteAt_of_eq p

@[simp] theorem State.flight_newSc (s : State) (act : ScAct) : (s.newSc act).flight = s.flight := by
  unfold State.newSc
  dsimp only
  split <;> rfl

/-! ### Completing -/

theorem State.movesOn_advance_of {s w : State} (hpc : w.my.pc = s.my.pc) (hreplay : w.my.replay = s.my.replay) (len : Nat) :
    s.movesOn (w.advance len) len := State.movesOn_of_pc (x := w.my) (by rw [State.my_advance]) hpc hreplay

theorem State.movesOn_sent_of {s w : State} (hpc : w.my.pc = s.my.pc) (hreplay : w.my.replay = s.my.replay) (len : Nat) :
    s.movesOn (w.sent len) len := State.movesOn_of_pc (x := w.my) (w.pc_sent len) hpc hreplay

@[simp] theorem State.my_setG (s : State) (r : Reg5) (v : Word) : (s.setG r v).my = s.my.setG r.toNat v := State.my_setMy _ _
@[simp] theorem State.my_setA (s : State) (r : Reg3) (v : Word) : (s.setA r v).my = s.my.setA r.toNat v := State.my_setMy _ _

theorem State.Along.movesOn_advance {s w : State} (h : s.Along w) (len : Nat) : s.movesOn (w.advance len) len :=
  State.movesOn_advance_of h.my.pc h.my.replay len

theorem State.Along.movesOn_sent {s w : State} (h : s.Along w) (len : Nat) : s.movesOn (w.sent len) len :=
  State.movesOn_sent_of h.my.pc h.my.replay len

theorem State.getP_sent (s : State) (len : Nat) (r : Reg3) : (s.sent len).getP r = s.getP r := by
  rw [State.getP, State.sent_eq, State.my_setMy]
  exact Ctx.getP_next _ len _
theorem State.getV_sent (s : State) (len : Nat) (r : Reg5) : (s.sent len).getV r = s.getV r := by
  rw [State.getV, State.sent_eq, State.my_setMy]
  exact Ctx.getV_next _ len _
theorem State.getA_sent (s : State) (len : Nat) (r : Reg3) : (s.sent len).getA r = s.getA r := by
  rw [State.getA, State.sent_eq, State.my_setMy]
  exact Ctx.getA_next _ len _

/-- The send closes the region: REGIONPC and STATUS change, and no other register of the context's status. -/
theorem State.sysr_sent (s : State) (len : Nat) {n : Nat} (h : ¬(n = 0x030 ∨ n = 0x100)) : (s.sent len).my.sysr n = s.my.sysr n := by
  rw [not_or] at h
  rw [State.sent_eq, State.my_setMy]
  change (((s.my.awake.next len).setSysr 0x030 _).setReg false).sysr n = _
  rw [Ctx.setReg, Ctx.sysr_setSysr_ne _ _ h.2, Ctx.sysr_setSysr_ne _ _ h.1, Ctx.sysr_next, Ctx.sysr_awake]

@[simp] theorem State.flight_sent (s : State) (len : Nat) : (s.sent len).flight = s.flight := by rw [State.sent_eq]; rfl
@[simp] theorem State.sc_sent (s : State) (len : Nat) : (s.sent len).sc = s.sc := by rw [State.sent_eq]; rfl

/-! ### The order of an access (R122, R253, R257) -/

/-- What an order asks before an access leaves all but chip time and S. -/
theorem State.gate_eq {s v : State} {o : Order} (h : s.gate o = .ok v) : v = { s with now := v.now, sc := v.sc } := by
  have hgate : s.gate o = .ok s ∨ s.gate o = s.scGate ∨ ∃ e, s.gate o = .error e := by
    unfold State.gate
    cases o with
    | rlx | acq => exact .inl rfl
    | rel | ar =>
      dsimp only
      split
      · exact .inl rfl
      · exact .inr (.inr ⟨_, rfl⟩)
    | sc =>
      dsimp only
      split
      · exact .inr (.inl rfl)
      · split <;> exact .inr (.inr ⟨_, rfl⟩)
  rcases hgate with hg | hg | ⟨e, hg⟩ <;> rw [hg] at h
  · cases h; rfl
  · unfold State.scGate at h
    split at h
    · split at h
      · cases h; rfl
      · cases h
    · split at h
      · cases h
      · split at h
        · cases h; rfl
        · cases h
  · cases h

/-- An access that is no SC operation is let through as it is, or stops. -/
theorem State.gate_same {s v : State} {o : Order} (h : s.gate o = .ok v) (ho : o ≠ .sc) : v = s := by
  cases o with
  | rlx | acq => cases h; rfl
  | rel | ar =>
    unfold State.gate at h
    dsimp only at h
    split at h
    · cases h; rfl
    · cases h
  | sc => exact absurd rfl ho

/-- A field that neither chip time nor S is part of. -/
theorem State.gate_field {s v : State} {o : Order} {α : Type} (h : s.gate o = .ok v) (f : State → α)
    (hf : f { s with now := v.now, sc := v.sc } = f s := by rfl) : f v = f s := by
  rw [State.gate_eq h]
  exact hf

end Sys2Proof.Machine
end

section
/-! SUPPORT. What a passed check says of every piece of an access (R17, R120, R121, R278, R288). -/

namespace Sys2Proof.Machine

open Sys2Proof

set_option Elab.async false

theorem firstBad_ok {α : Type} {l : List α} {bad : α → Option Stop} {x : Unit} (h : firstBad l bad = .ok x) : ∀ a ∈ l, bad a = none := by
  unfold firstBad at h
  cases hf : l.findSome? bad with
  | some e => rw [hf] at h; cases h
  | none => exact List.findSome?_eq_none_iff.mp hf

theorem firstBad_ok_if {α : Type} {l : List α} {c : α → Prop} [DecidablePred c] {e : α → Stop} {x : Unit}
    (h : (firstBad l fun a => if c a then some (e a) else none) = .ok x) : ∀ a ∈ l, ¬c a := by
  intro a ha hc
  have hnone := firstBad_ok h a ha
  rw [if_pos hc] at hnone
  cases hnone

/-! ### Core-local accesses and pointers -/

theorem State.check_loc_ok {s u : State} {acc : Acc} {inf : AddrInfo} {is : List Item} {ls : List Loc}
    (h : s.check .loc acc inf is = .ok (ls, u)) : u = s ∧ ls = is.map fun i => ⟨i, some (.core s.cur.core i.va.toNat), 0⟩ := by
  obtain ⟨-, -, h⟩ := stop_bind_ok (f := _) h
  obtain ⟨-, -, h⟩ := stop_bind_ok h
  cases h
  exact ⟨rfl, rfl⟩

theorem State.checkDist_ok {s u : State} {inf : AddrInfo} {is : List Item} {exempt : Bool} {ls : List Loc}
    (h : s.checkDist inf is exempt = .ok (ls, u)) :
    u = s ∧ ls = is.map fun i => ⟨i, some (.core (s.namedCore i.va) (ptrOff i.va)), 0⟩ := by
  obtain ⟨-, -, h⟩ := stop_bind_ok h
  obtain ⟨-, -, h⟩ := stop_bind_ok h
  obtain ⟨-, -, h⟩ := stop_bind_ok h
  cases h
  exact ⟨rfl, rfl⟩

theorem State.check_dist_ok {s u : State} {acc : Acc} {inf : AddrInfo} {is : List Item} {ls : List Loc}
    (h : s.check .dist acc inf is = .ok (ls, u)) :
    u = s ∧ ls = is.map fun i => ⟨i, some (.core (s.namedCore i.va) (ptrOff i.va)), 0⟩ := State.checkDist_ok h

/-! ### Global accesses -/

theorem placeOf_travels (pa : Nat) : (placeOf pa).travels = true := by
  unfold placeOf
  split
  · rfl
  · split <;> rfl

/-- A walk leads to global memory. -/
theorem State.xlateWalk_travels {s : State} {who : Asker} {acc : Acc} {va : Nat} {p : Place} {e : Nat}
    (h : (s.xlateWalk who acc va).2.1 = .place p e) : p.travels = true := by
  unfold State.xlateWalk at h
  cases hw : s.walk who.vf va with
  | leaf l =>
    rw [hw] at h
    dsimp only at h
    cases hr : l.refusal who acc with
    | some k => rw [hr] at h; cases h
    | none => rw [hr] at h; cases h; exact placeOf_travels _
  | absent | invalid | noRoot | malformed => rw [hw] at h; cases h

theorem State.xlateSecond_travels {s : State} {who : Asker} {acc : Acc} {va : Nat} {p : Place} {e : Nat}
    (h : (s.xlateSecond who acc va).2.1 = .place p e) : p.travels = true := by
  unfold State.xlateSecond at h
  dsimp only at h
  split at h
  · cases h; exact placeOf_travels _
  · exact State.xlateWalk_travels h

theorem State.fillCore_fst (s : State) (who : Asker) (acc : Acc) (r : Option TlbEntry × Xlate × State) :
    (s.fillCore who acc r).1 = r.2.1 := by
  obtain ⟨o, x, t⟩ := r
  cases o <;> rfl

/-- A translation for a core leads to global memory. -/
theorem State.xlateCore_travels {s : State} {acc : Acc} {va : Nat} {p : Place} {e : Nat}
    (h : (s.xlateCore acc va).1 = .place p e) : p.travels = true := by
  unfold State.xlateCore State.xlateFor at h
  dsimp only at h
  split at h
  · split at h
    · cases h; exact placeOf_travels _
    split at h
    · cases h
    · rw [State.fillCore_fst] at h
      exact State.xlateWalk_travels h
  · split at h
    · cases h
    · rw [State.fillCore_fst] at h
      exact State.xlateSecond_travels h

theorem State.rewritten_markLeaf (s : State) (l : Leaf) (acc : Acc) : s.Rewritten (s.markLeaf l acc) := by
  unfold State.markLeaf
  split
  · exact .refl s
  · exact s.rewritten_setBytes _ _

/-- What a translation leaves of the state's own fields. -/
theorem State.xlateWalk_eager (s : State) (who : Asker) (acc : Acc) (va : Nat) : (s.xlateWalk who acc va).2.2.eager = s.eager := by
  have hmark : ∀ l : Leaf, (s.markLeaf l acc).eager = s.eager := fun l => (s.rewritten_markLeaf l acc).field State.eager
  unfold State.xlateWalk
  cases s.walk who.vf va with
  | leaf l =>
    dsimp only
    cases l.refusal who acc with
    | some k => rfl
    | none => cases who.cluster <;> exact hmark l
  | absent | invalid | noRoot | malformed => rfl

theorem State.fillCore_eager (s : State) (who : Asker) (acc : Acc) (r : Option TlbEntry × Xlate × State) :
    (s.fillCore who acc r).2.eager = r.2.2.eager := by
  obtain ⟨o, x, t⟩ := r
  cases o with
  | none => rfl
  | some e =>
    unfold State.fillCore
    dsimp only
    split <;> rfl

theorem State.xlateCore_eager (s : State) (acc : Acc) (va : Nat) : (s.xlateCore acc va).2.eager = s.eager := by
  unfold State.xlateCore State.xlateFor
  dsimp only
  split
  · split
    · rfl
    split
    · rfl
    · rw [State.fillCore_eager, State.xlateWalk_eager]
  · split
    · rfl
    · rw [State.fillCore_eager]
      rcases s.xlateSecond_cases s.asker acc va with ⟨e, p, h⟩ | h
      · rw [(h s.my).1]
      · rw [(h s.my).1, State.xlateWalk_eager]

theorem State.xlateAll_eager (s : State) (acc : Acc) (is : List Item) : (s.xlateAll acc is).2.eager = s.eager := by
  induction is generalizing s with
  | nil => rfl
  | cons i is ih => exact (ih _).trans (s.xlateCore_eager acc i.va.toNat)

theorem State.xlateAll_items (s : State) (acc : Acc) (is : List Item) : (s.xlateAll acc is).1.map (·.1) = is := by
  induction is generalizing s with
  | nil => rfl
  | cons i is ih => exact congrArg (i :: ·) (ih _)

theorem State.xlateAll_travels {s : State} {acc : Acc} {is : List Item} {i : Item} {p : Place} {e : Nat}
    (h : (i, .place p e) ∈ (s.xlateAll acc is).1) : p.travels = true := by
  induction is generalizing s with
  | nil => cases h
  | cons j is ih =>
    rcases List.mem_cons.mp h with h | h
    · obtain ⟨rfl, hx⟩ := Prod.mk.inj h
      exact State.xlateCore_travels hx.symm
    · exact ih h

theorem locsOf_items (xs : List (Item × Xlate)) : (locsOf xs).map (·.item) = xs.map (·.1) := by
  induction xs with
  | nil => rfl
  | cons x xs ih =>
    obtain ⟨i, x⟩ := x
    cases x <;> exact congrArg (i :: ·) ih

theorem locsOf_place {xs : List (Item × Xlate)} {l : Loc} {p : Place} (hl : l ∈ locsOf xs) (hp : l.place = some p) :
    ∃ i e, (i, .place p e) ∈ xs := by
  induction xs with
  | nil => cases hl
  | cons x xs ih =>
    have hrest : l ∈ locsOf xs → ∃ i e, (i, Xlate.place p e) ∈ x :: xs := fun h => by
      obtain ⟨i, e, hmem⟩ := ih h
      exact ⟨i, e, List.mem_cons_of_mem _ hmem⟩
    obtain ⟨i, x⟩ := x
    cases x with
    | place q e =>
      rcases List.mem_cons.mp hl with rfl | hl
      · cases hp; exact ⟨i, e, List.mem_cons_self ..⟩
      · exact hrest hl
    | absent | invalid | malformed | refused _ | noRoot | skewed =>
      rcases List.mem_cons.mp hl with rfl | hl
      · cases hp
      · exact hrest hl

/-- A passed check of global accesses: each piece aligned and within the address space; on a reasoning core it lies in global memory or
on an absent page, on a reflex core it lies in no memory that requests travel to. -/
structure State.GlobalChecked (s : State) (is : List Item) (ls : List Loc) (u : State) : Prop where
  items : ls.map (·.item) = is
  eager : u.eager = s.eager
  aligned : ∀ i ∈ is, i.va.toNat + i.n ≤ 2 ^ 56 ∧ i.al ≠ 0 ∧ i.va.toNat % i.al = 0
  travels : ∀ l ∈ ls, ∀ p, l.place = some p → p.travels = !s.reflex
  reflex : s.reflex = true → u = s ∧ placed ls

theorem State.checkGlobal_ok {s u : State} {acc : Acc} {inf : AddrInfo} {is : List Item} {ls : List Loc} (hr : s.reflex = false)
    (h : s.checkGlobal acc inf is = .ok (ls, u)) : s.GlobalChecked is ls u := by
  obtain ⟨_, hrange, h⟩ := stop_bind_ok h
  obtain ⟨_, halign, h⟩ := stop_bind_ok h
  obtain ⟨-, -, h⟩ := stop_bind_ok h
  obtain ⟨-, -, h⟩ := stop_bind_ok h
  obtain ⟨-, -, h⟩ := stop_bind_ok h
  cases h
  refine ⟨?_, s.xlateAll_eager acc is, fun i hi => ?_, fun l hl p hp => ?_, fun h => ?_⟩
  · rw [locsOf_items, State.xlateAll_items]
  · have hin := firstBad_ok_if hrange i hi
    have hal := firstBad_ok_if halign i hi
    rw [not_or, not_not] at hal
    exact ⟨Nat.not_lt.mp hin, hal.1, hal.2⟩
  · obtain ⟨i, e, hmem⟩ := locsOf_place hl hp
    rw [hr]
    exact State.xlateAll_travels hmem
  · rw [hr] at h; cases h

theorem SegRes.place_of_ite {c : Prop} [Decidable c] {a b : SegRes} {p : Place} (h : (if c then a else b) = .place p)
    (ha : a ≠ .place p) : b = .place p := by
  split at h
  · exact absurd h ha
  · exact h

/-- A segment leads to SRAM or to a core's memory (R288). -/
theorem State.segXlate_travels {s : State} {acc : Acc} {v n : Nat} {p : Place} (h : s.segXlate acc v n = .place p) : p.travels = false := by
  unfold State.segXlate at h
  dsimp only at h
  cases hk : s.me.segment v with
  | none => rw [hk] at h; cases h
  | some k =>
    rw [hk] at h
    have hplace := SegRes.place_of_ite (SegRes.place_of_ite (SegRes.place_of_ite (SegRes.place_of_ite h nofun) nofun) nofun) nofun
    obtain rfl := SegRes.place.inj hplace
    split <;> rfl

theorem State.checkSegments_ok {s u : State} {acc : Acc} {inf : AddrInfo} {is : List Item} {ls : List Loc} (hr : s.reflex = true)
    (h : s.checkSegments acc inf is = .ok (ls, u)) : s.GlobalChecked is ls u := by
  obtain ⟨_, hrange, h⟩ := stop_bind_ok h
  obtain ⟨_, halign, h⟩ := stop_bind_ok h
  obtain ⟨_, hperm, h⟩ := stop_bind_ok h
  cases h
  have hplace : ∀ i ∈ is, ∃ p, s.segXlate acc i.va.toNat i.n = .place p := by
    intro i hi
    have hill := firstBad_ok_if hrange i hi
    have href := firstBad_ok hperm i hi
    cases hx : s.segXlate acc i.va.toNat i.n with
    | place p => exact ⟨p, rfl⟩
    | illegal => exact absurd (.inr (.inl hx)) hill
    | refused k => rw [hx] at href; cases href
  refine ⟨?_, rfl, fun i hi => ?_, fun l hl p hp => ?_, fun _ => ⟨rfl, fun l hl => ?_⟩⟩
  · rw [List.map_map]
    exact List.map_id _
  · have hin := firstBad_ok_if hrange i hi
    have hal := firstBad_ok_if halign i hi
    rw [not_or] at hin
    rw [not_or, not_not] at hal
    exact ⟨Nat.not_lt.mp hin.1, hal.1, hal.2⟩
  · obtain ⟨i, hi, rfl⟩ := List.mem_map.mp hl
    obtain ⟨q, hq⟩ := hplace i hi
    dsimp only at hp
    rw [hq] at hp
    cases hp
    rw [hr]
    exact State.segXlate_travels hq
  · obtain ⟨i, hi, rfl⟩ := List.mem_map.mp hl
    obtain ⟨q, hq⟩ := hplace i hi
    dsimp only
    rw [hq]
    rfl

theorem State.check_glob_ok {s u : State} {acc : Acc} {inf : AddrInfo} {is : List Item} {ls : List Loc}
    (h : s.check .glob acc inf is = .ok (ls, u)) : s.GlobalChecked is ls u := by
  unfold State.check at h
  cases hr : s.reflex with
  | true =>
    dsimp only at h
    rw [if_pos hr] at h
    exact State.checkSegments_ok hr h
  | false =>
    dsimp only at h
    rw [if_neg (by rw [hr]; decide)] at h
    obtain ⟨⟨ls', t⟩, hglob, h⟩ := stop_bind_ok h
    obtain ⟨-, -, h⟩ := stop_bind_ok h
    cases h
    exact State.checkGlobal_ok hr hglob

/-! ### Every space -/

/-- A passed check leaves the issuing context, the model's own choices, and, but in global memory, the whole state. -/
theorem State.check_eager {s u : State} {sp : Space} {acc : Acc} {inf : AddrInfo} {is : List Item} {ls : List Loc}
    (h : s.check sp acc inf is = .ok (ls, u)) : u.eager = s.eager := by
  cases sp with
  | glob => exact (State.check_glob_ok h).eager
  | loc => rw [(State.check_loc_ok h).1]
  | dist => rw [(State.check_dist_ok h).1]

theorem State.check_items {s u : State} {sp : Space} {acc : Acc} {inf : AddrInfo} {is : List Item} {ls : List Loc}
    (h : s.check sp acc inf is = .ok (ls, u)) : ls.map (·.item) = is := by
  have hid : ∀ f : Item → Loc, (∀ i, (f i).item = i) → (is.map f).map (·.item) = is := by
    intro f hf
    rw [List.map_map]
    exact (List.map_congr_left fun i _ => hf i).trans (List.map_id' is)
  cases sp with
  | glob => exact (State.check_glob_ok h).items
  | loc =>
    rw [(State.check_loc_ok h).2]
    exact hid _ fun _ => rfl
  | dist =>
    rw [(State.check_dist_ok h).2]
    exact hid _ fun _ => rfl

end Sys2Proof.Machine
end

section
/-! SUPPORT. Bytes put at a place, in every copy of it, and sequentially consistent operations that take their place in S (R124, R257,
R312). -/

namespace Sys2Proof.Machine

open Sys2Proof

set_option Elab.async false

/-! ### Bytes in every copy of a place -/

theorem State.rewritten_putLoc (s : State) (p : Place) (bs : List Byte) : s.Rewritten (s.putLoc p bs) := by
  rw [State.putLoc_eq]
  exact State.rewritten_foldl (fun s q => s.rewritten_setBytes q bs) _ _

theorem State.rewritten_putCore (s : State) (core off : Nat) (bs : List Byte) : s.Rewritten (s.putCore core off bs) :=
  State.rewritten_foldl (fun s _ => s.rewritten_setBytes _ bs) _ _

/-- A byte outside every block written is as it was. -/
theorem State.byteAt_putAll_out {s : State} {ps : List Place} {bs : List Byte} {q : Place}
    (h : ∀ p ∈ ps, ∀ k < bs.length, q ≠ p.plus k) : (ps.foldl (fun (s : State) p => s.setBytes p bs) s).byteAt q = s.byteAt q := by
  induction ps generalizing s with
  | nil => rfl
  | cons p ps ih =>
    exact (ih fun r hr => h r (List.mem_cons_of_mem _ hr)).trans (s.byteAt_setBytes_out p q bs (h p (List.mem_cons_self ..)))

theorem State.pairCores_nodup (s : State) (core : Nat) : (s.pairCores core).Nodup := by
  unfold State.pairCores
  split <;> simp

/-- Places of different cores share no byte. -/
theorem Place.core_plus_ne {m n : Nat} (h : m ≠ n) (a b i k : Nat) : (Place.core m a).plus i ≠ (Place.core n b).plus k :=
  fun he => h (Place.core.inj he).1

/-- Each memory that a write to a core's memory reaches has the bytes (R312). -/
theorem State.bytesAt_putCore (s : State) (core off : Nat) (bs : List Byte) {c : Nat} (hc : c ∈ s.pairCores core) :
    (s.putCore core off bs).bytesAt (.core c off) bs.length = bs := by
  obtain ⟨t, -, hlast⟩ := foldl_block (fun (s : State) c => s.bytesAt (.core c off) bs.length)
    (f := fun (s : State) c => s.setBytes (.core c off) bs) (fun s a b hab =>
      bytesAt_eq_of_byteAt fun i _ => State.byteAt_setBytes_out _ _ _ _ fun k _ => Place.core_plus_ne hab off off i k)
    (s.pairCores_nodup core) s hc
  exact hlast.trans (t.bytesAt_setBytes _ bs)

theorem State.byteAt_putCore_out (s : State) {core off : Nat} {bs : List Byte} {q : Place}
    (h : ∀ c ∈ s.pairCores core, ∀ k < bs.length, q ≠ .core c (off + k)) : (s.putCore core off bs).byteAt q = s.byteAt q := by
  have hfold := State.byteAt_putAll_out (s := s) (ps := (s.pairCores core).map fun c => .core c off) (bs := bs) (q := q) (fun p hp k hk => by
    obtain ⟨c, hc, rfl⟩ := List.mem_map.mp hp
    exact h c hc k hk)
  rw [List.foldl_map] at hfold
  exact hfold

/-- Every copy of the place has the bytes, and no other byte changes. -/
theorem State.bytesAt_putLoc (s : State) (p : Place) (bs : List Byte) {q : Place} (hq : q ∈ s.copies p) :
    (s.putLoc p bs).bytesAt q bs.length = bs := by
  cases p with
  | core n off =>
    unfold State.copies at hq
    unfold State.putLoc
    dsimp only at hq ⊢
    split at hq
    · next h =>
      obtain rfl := List.mem_singleton.mp hq
      rw [if_pos h]
      exact s.bytesAt_setBytes _ bs
    · next h =>
      obtain ⟨c, hc, rfl⟩ := List.mem_map.mp hq
      rw [if_neg h]
      exact s.bytesAt_putCore n off bs hc
  | dram _ | host _ | peer _ | sram _ | tbuf _ _ =>
    obtain rfl := List.mem_singleton.mp hq
    exact s.bytesAt_setBytes _ bs

theorem State.sameBytesOff_putLoc (s : State) (p : Place) (bs : List Byte) : s.sameBytesOff (s.putLoc p bs) (s.copies p) bs.length := by
  intro q hq
  rw [State.putLoc_eq]
  exact State.byteAt_putAll_out hq

/-! ### Located writes of a context with nothing under way -/

/-- A store whose pieces all have their places is performed, or sets out (R126, log 26). -/
theorem State.storeLocs_placed {s : State} {ws : List (Loc × List Byte)} (hcalm : s.calm) (hplaced : ∀ w ∈ ws, w.1.place.isSome = true) :
    s.storeLocs ws = .ok (if s.eager || s.reflex then s.writeLocs ws else s.flyLocs ws) := by
  unfold State.storeLocs
  rw [State.clearOf_calm hcalm, logWrites_placed hplaced]
  change Except.ok (if s.eager || false || false || s.reflex then _ else _) = _
  rw [Bool.or_false, Bool.or_false]

/-! ### Operations in S (R257) -/

/-- The operation that takes its place in S, or learns there what it does. -/
theorem State.newSc_mem (s : State) (act : ScAct) :
    ∃ o ∈ (s.newSc act).sc, o.core = s.cur.core ∧ o.ctx = s.cur.ctx ∧ o.act = act ∧ o.ready = false := by
  unfold State.newSc
  dsimp only
  split
  · next h =>
    obtain ⟨o, ho, hmine⟩ := List.any_eq_true.mp h
    have hown := hmine
    rw [Bool.and_eq_true, beq_iff_eq, beq_iff_eq] at hown
    refine ⟨{ o with act := act, ready := false }, ?_, hown.1, hown.2, rfl, rfl⟩
    exact List.mem_map.mpr ⟨o, ho, if_pos hmine⟩
  · exact ⟨_, List.mem_append_right _ (List.mem_singleton_self _), rfl, rfl, rfl, rfl⟩

section
variable (s : State) (act : ScAct) (len : Nat)

/-- A sent operation of the issuing context stands in S, and its context waits past the instruction, whose region is closed (R134). -/
theorem State.sendSc_mem : ∃ o ∈ (s.sendSc act len).sc, o.core = s.cur.core ∧ o.ctx = s.cur.ctx ∧ o.act = act ∧ o.ready = false := by
  have hsc : (s.sendSc act len).sc = (s.newSc act).sc := State.sc_sent _ len
  rw [hsc]
  exact s.newSc_mem act

theorem State.sendSc_run : (s.sendSc act len).my.run = .holding := by rw [State.sendSc, State.holdOn_none_my]

theorem State.sendSc_along : ((s.newSc act).sent len).Along (s.sendSc act len) := State.along_holdOn_none _

theorem State.sendSc_movesOn : s.movesOn (s.sendSc act len) len := by
  have hmoves := (s.along_newSc act).movesOn_sent len
  intro h
  rw [(s.sendSc_along act len).my.pc]
  exact hmoves h

theorem State.sendSc_regionpc : (s.sendSc act len).my.sysr 0x030 = (s.sendSc act len).my.pc := by
  rw [(s.sendSc_along act len).sysr, (s.sendSc_along act len).my.pc]
  exact State.regionpc_sent _ _

theorem State.sendSc_getG (r : Reg5) : (s.sendSc act len).getG r = s.getG r := by
  rw [(s.sendSc_along act len).getG, State.getG_sent, (s.along_newSc act).getG]

theorem State.sendSc_getA (r : Reg3) : (s.sendSc act len).getA r = s.getA r := by
  rw [(s.sendSc_along act len).getA, State.getA_sent, (s.along_newSc act).getA]

@[simp] theorem State.byteAt_sendSc (p : Place) : (s.sendSc act len).byteAt p = s.byteAt p := by
  rw [State.sendSc, State.byteAt_holdOn_none, State.byteAt_sent, State.byteAt_newSc]

theorem State.flight_sendSc : (s.sendSc act len).flight = s.flight := by
  rw [State.sendSc]
  exact (State.flight_sent _ len).trans (s.flight_newSc act)

end

end Sys2Proof.Machine
end

section
/-! SUPPORT. The side log: what an entry holds, and what entering it leaves (R143, R286). -/

namespace Sys2Proof.Machine

open Sys2Proof

set_option Elab.async false

/-! ### Bytes of numbers (R5) -/

/-- Byte k of the number that bytes hold. -/
theorem ofNat_leNat_div (bs : List Byte) (k : Nat) : BitVec.ofNat 8 (leNat bs / 256 ^ k) = bs.getD k 0 := by
  induction bs generalizing k with
  | nil => simp [leNat]
  | cons b bs ih =>
    cases k with
    | zero =>
      rw [Nat.pow_zero, Nat.div_one, List.getD_cons_zero, leNat]
      apply BitVec.eq_of_toNat_eq
      rw [BitVec.toNat_ofNat]
      omega
    | succ k =>
      rw [List.getD_cons_succ, ← ih, leNat, Nat.pow_succ, Nat.mul_comm (256 ^ k), ← Nat.div_div_eq_div_mul]
      congr 2
      have := b.isLt
      omega

/-- Byte k of a number's bytes. -/
theorem getD_leBytes (n v : Nat) {k : Nat} (h : k < n) : (leBytes n v).getD k 0 = BitVec.ofNat 8 (v / 256 ^ k) := by
  induction n generalizing v k with
  | zero => omega
  | succ n ih =>
    cases k with
    | zero => simp [leBytes]
    | succ k =>
      rw [leBytes, List.getD_cons_succ, ih _ (by omega), Nat.div_div_eq_div_mul, Nat.pow_succ, Nat.mul_comm]

theorem ofNat_div_eq_extract (x : Word) (k : Nat) : BitVec.ofNat 8 (x.toNat / 256 ^ k) = x.extractLsb' (8 * k) 8 := by
  apply BitVec.eq_of_toNat_eq
  rw [BitVec.toNat_ofNat, BitVec.extractLsb'_toNat, Nat.shiftRight_eq_div_pow, Nat.pow_mul]

/-- Byte m + k of a number shifted by m bytes is its byte k. -/
theorem extract_shifted {w m k : Nat} (x : Nat) (h : 8 * (m + k) + 8 ≤ w) :
    (BitVec.ofNat w (x * 2 ^ (8 * m))).extractLsb' (8 * (m + k)) 8 = BitVec.ofNat 8 (x / 256 ^ k) := by
  have hw : (2 : Nat) ^ w = 2 ^ (8 * (m + k)) * 2 ^ (w - 8 * (m + k)) := by rw [← Nat.pow_add, Nat.add_sub_cancel' (by omega)]
  have hshift : (2 : Nat) ^ (8 * (m + k)) = 2 ^ (8 * m) * 256 ^ k := by rw [Nat.mul_add, Nat.pow_add, Nat.pow_mul 2 8 k]
  have hdvd : (2 : Nat) ^ 8 ∣ 2 ^ (w - 8 * (m + k)) := Nat.pow_dvd_pow 2 (by omega)
  apply BitVec.eq_of_toNat_eq
  rw [BitVec.extractLsb'_toNat, BitVec.toNat_ofNat, BitVec.toNat_ofNat, Nat.shiftRight_eq_div_pow, hw, Nat.mod_mul_right_div_self,
    Nat.mod_mod_of_dvd _ hdvd, hshift, ← Nat.div_div_eq_div_mul, Nat.mul_div_cancel _ (by positivity)]

/-! ### One entry -/

section
variable {va : Nat} {bs : List Byte} (op : LogOp) (vf ctx : Nat) (gen : Option Nat)

/-- The bytes of a piece within one sector, in its entry: masked, each at its place. -/
theorem logEntryOf_mask {j : Nat} (hj : j < 128) :
    (logEntryOf va bs op vf ctx gen).mask.getLsbD j = decide (va % 128 ≤ j ∧ j < va % 128 + bs.length) := by
  unfold logEntryOf
  dsimp only
  rw [BitVec.getLsbD_ofNat, decide_eq_true hj, Bool.true_and, Nat.testBit_mul_two_pow, Nat.testBit_two_pow_sub_one,
    ← Bool.decide_and, decide_eq_decide]
  omega

theorem logEntryOf_byte {k : Nat} (hk : va % 128 + k < 128) :
    (logEntryOf va bs op vf ctx gen).byte (va % 128 + k) = bs.getD k 0 := by
  rw [← ofNat_leNat_div]
  exact extract_shifted _ (by omega)

end

/-! ### Entering the log -/

/-- A fault record posted leaves every core, the flight and the memories. -/
theorem State.postFault_frame (s : State) (core vf page kind src : Nat) :
    let t := s.postFault core vf page kind src
    t.cores = s.cores ∧ t.cur = s.cur ∧ t.flight = s.flight ∧ t.eager = s.eager ∧ s.sameBytes t := by
  unfold State.postFault
  dsimp only
  split
  · exact ⟨rfl, rfl, rfl, rfl, fun _ => rfl⟩
  · split
    · exact ⟨rfl, rfl, rfl, rfl, fun _ => rfl⟩
    · split <;> exact ⟨rfl, rfl, rfl, rfl, fun p => s.byteAt_of_eq p⟩

/-- A state whose issuing core has these entries last in its side log, and records outstanding for their pages. -/
structure State.Entered (s t : State) (es : List LogEntry) : Prop where
  my : s.keepsMy t
  slog : t.me.slog = s.me.slog ++ es
  pair : ∀ n, (t.core n).pair = (s.core n).pair
  flight : t.flight = s.flight
  eager : t.eager = s.eager
  bytes : s.sameBytes t

theorem State.Entered.refl (s : State) : s.Entered s [] := ⟨⟨rfl, rfl⟩, (List.append_nil _).symm, fun _ => rfl, rfl, rfl, fun _ => rfl⟩

theorem State.Entered.alike {s t : State} {es : List LogEntry} (h : s.Entered t es) : s.Alike t := ⟨h.bytes, h.my.1, h.pair⟩

/-- The records of an instruction's entries, posted for the issuing context. -/
def State.recordPages (s : State) (es : List LogEntry) : State :=
  es.foldl (fun s e => s.postFault s.cur.core e.vf (e.sector / 65536 * 65536) 1 s.cur.ctx) s

theorem State.recordPages_frame (s : State) (es : List LogEntry) :
    let t := s.recordPages es
    t.cores = s.cores ∧ t.cur = s.cur ∧ t.flight = s.flight ∧ t.eager = s.eager ∧ s.sameBytes t := by
  induction es generalizing s with
  | nil => exact ⟨rfl, rfl, rfl, rfl, fun _ => rfl⟩
  | cons e es ih =>
    obtain ⟨hcores, hcur, hflight, heager, hbytes⟩ := s.postFault_frame s.cur.core e.vf (e.sector / 65536 * 65536) 1 s.cur.ctx
    obtain ⟨hcores', hcur', hflight', heager', hbytes'⟩ := ih (s.postFault s.cur.core e.vf (e.sector / 65536 * 65536) 1 s.cur.ctx)
    exact ⟨hcores'.trans hcores, hcur'.trans hcur, hflight'.trans hflight, heager'.trans heager, hbytes.trans hbytes'⟩

theorem State.entered_recordPages (s : State) (es : List LogEntry) :
    s.Entered ((s.setMe { s.me with slog := s.me.slog ++ es }).recordPages es) es := by
  obtain ⟨hcores, hcur, hflight, heager, hbytes⟩ := (s.setMe { s.me with slog := s.me.slog ++ es }).recordPages_frame es
  have hcore : ∀ n, ((s.setMe { s.me with slog := s.me.slog ++ es }).recordPages es).core n =
      (s.setMe { s.me with slog := s.me.slog ++ es }).core n := fun n => congrArg (fun c => tget ({} : CoreSt) c n) hcores
  refine ⟨⟨hcur, ?_⟩, ?_, fun n => ?_, hflight, heager, fun p => (hbytes p).trans (s.byteAt_setMe_own _ p)⟩
  · rw [State.my, State.me, hcore, hcur]
    exact s.my_setMe_own _
  · rw [State.me, hcore, hcur]
    exact congrArg CoreSt.slog (s.me_setMe _)
  · rw [hcore, State.setMe, State.core_setCore_if]
    split
    · next h => rw [h]; rfl
    · rfl

/-- Entries enter a log with room for them. -/
theorem State.enterLog_ok {s : State} {es : List LogEntry} (hroom : s.me.slog.length + es.length ≤ 64) :
    ∃ t, s.enterLog es = .ok t ∧ s.Entered t es := by
  unfold State.enterLog
  by_cases hnil : es.isEmpty = true
  · rw [if_pos hnil]
    obtain rfl := List.isEmpty_iff.mp hnil
    exact ⟨s, rfl, .refl s⟩
  · rw [if_neg hnil, if_neg (by omega), if_neg (by omega)]
    exact ⟨_, rfl, s.entered_recordPages es⟩

end Sys2Proof.Machine
end

section
/-! PROOF. Scalar loads (R122, R123, R141, R342). -/

namespace Sys2Proof.Machine

open Sys2Proof

set_option Elab.async false

/-! ### What the forms of a load have in common -/

/-- The pointer that LDA or STA moves, moved in t as it stands in s (R123). -/
def State.postMoved (s : State) (i : Instr) (t : State) : State :=
  match postRule i with
  | some (a, k) => t.setA a (s.pointerAfter a k)
  | none => t

/-- The pointers after an instruction that moves one past its access. -/
def State.pointers (v : State) (i : Instr) (r : Reg3) : Word :=
  match postRule i with
  | some (a, k) => if r = a then v.pointerAfter a k else v.getA r
  | none => v.getA r

theorem BitVec.toInt_eq_zero_iff {w : Nat} {i : BitVec w} : i.toInt = 0 ↔ i = 0 :=
  ⟨fun h => BitVec.eq_of_toInt_eq (by rw [h]; exact BitVec.toInt_zero.symm), fun h => by rw [h]; exact BitVec.toInt_zero⟩

/-- A pointer after R108's increment. -/
theorem State.pointerAfter_eq (s : State) (a : Reg3) (k : Int) :
    s.pointerAfter a k = if k = 0 then s.getA a else ptrInc s.rect (s.getA a) k := by
  unfold State.pointerAfter ptrInc
  rw [setBit_top]

/-- The post-increment of LDA and STA is that of R108. -/
theorem postInc_eq (s : State) (a : Reg3) (z : BitVec 2) (i : BitVec 7) :
    postInc s a z i = s.pointerAfter a (i.toInt * (2 ^ z.toNat : Nat)) := by
  have hzero : i.toInt * (2 ^ z.toNat : Nat) = 0 ↔ i = 0 := by
    rw [Int.mul_eq_zero, BitVec.toInt_eq_zero_iff]
    exact or_iff_left (by positivity)
  rw [State.pointerAfter_eq]
  unfold postInc
  by_cases hi : i = 0
  · rw [if_pos hi, if_pos (hzero.mpr hi)]
  · rw [if_neg hi, if_neg fun h => hi (hzero.mp h)]
    rfl

theorem exec_load_of {s : State} {i : Instr} {c : ScalarAcc} {d : Reg5} {sg : Bool} {g : Reg3} {len : Nat} (hg : s.guardOn g = true)
    (hx : exec i s = s.guarded g len (loadAt s c.sp c.va c.n sg d c.o >>= fun t => .ok ((s.postMoved i t).advance len)))
    (hlen : len = words i) :
    exec i s = s.run (loadAt s c.sp c.va c.n sg d c.o >>= fun t => .ok ((s.postMoved i t).advance (words i))) := by
  rw [hx, State.guarded_on hg, hlen]
  rfl

theorem exec_load {s : State} {i : Instr} {c : ScalarAcc} {d : Reg5} {sg : Bool} (h : loadRule s i = some (c, d, sg))
    (hg : s.guardHolds i = true) :
    exec i s = s.run (loadAt s c.sp c.va c.n sg d c.o >>= fun t => .ok ((s.postMoved i t).advance (words i))) := by
  cases i with
  | ld d a loc z i g | ldS d a loc z i g => cases h; exact exec_load_of hg rfl rfl
  | ldExt d a loc z i o g | ldSExt d a loc z i o g => cases h; exact exec_load_of hg rfl (by cases i <;> cases o <;> rfl)
  | lda d a z i o g | ldaS d a z i o g =>
    cases h
    refine exec_load_of hg ?_ (len := 1 + extWords o) (by cases o <;> rfl)
    simp only [State.postMoved, postRule, ← postInc_eq]
    rfl
  | _ => cases h

section
variable (s t : State) (i : Instr)

@[simp] theorem State.getG_postMoved (r : Reg5) : (s.postMoved i t).getG r = t.getG r := by
  unfold State.postMoved
  split
  · rw [State.getG, State.my_setA, State.getG]; rfl
  · rfl
@[simp] theorem State.getP_postMoved (r : Reg3) : (s.postMoved i t).getP r = t.getP r := by
  unfold State.postMoved
  split
  · rw [State.getP, State.my_setA, State.getP]; rfl
  · rfl
@[simp] theorem State.getV_postMoved (r : Reg5) : (s.postMoved i t).getV r = t.getV r := by
  unfold State.postMoved
  split
  · rw [State.getV, State.my_setA, State.getV]; rfl
  · rfl
theorem State.getA_postMoved_none (h : postRule i = none) (r : Reg3) : (s.postMoved i t).getA r = t.getA r := by
  rw [State.postMoved, h]
theorem State.getA_postMoved_some {a : Reg3} {k : Int} (h : postRule i = some (a, k)) (r : Reg3) :
    (s.postMoved i t).getA r = if r = a then s.pointerAfter a k else t.getA r := by
  rw [State.postMoved, h]
  exact t.getA_setA a r _
@[simp] theorem State.sysr_postMoved (n : Nat) : (s.postMoved i t).my.sysr n = t.my.sysr n := by
  unfold State.postMoved
  split
  · rw [State.my_setA]; rfl
  · rfl
@[simp] theorem State.pc_postMoved : (s.postMoved i t).my.pc = t.my.pc := by
  unfold State.postMoved
  split
  · rw [State.my_setA]; rfl
  · rfl
@[simp] theorem State.replay_postMoved : (s.postMoved i t).my.replay = t.my.replay := by
  unfold State.postMoved
  split
  · rw [State.my_setA]; rfl
  · rfl
@[simp] theorem State.byteAt_postMoved (p : Place) : (s.postMoved i t).byteAt p = t.byteAt p := by
  unfold State.postMoved
  split
  · exact t.byteAt_setA _ _ p
  · rfl
@[simp] theorem State.flight_postMoved : (s.postMoved i t).flight = t.flight := by
  unfold State.postMoved
  split <;> rfl

end

/-- A context that holds: waiting, for the page named. -/
theorem State.holdOn_my (s : State) (absent : Option (Nat × Nat)) :
    (s.holdOn absent).my = { s.my with run := .holding, holdPage := absent } := by
  cases absent with
  | none => exact s.holdOn_none_my
  | some a => exact (State.postFault_keepsMy _ _ _ _ _ _).2.trans (State.my_setMy _ _)

/-! ### What a load at an address comes to -/

/-- A stop of a body that translates its items first comes to the same on the issuing context (R285). -/
theorem State.keeping_stopped {α : Type} {s : State} {sp : Space} {acc : Acc} {is : List Item} {b : Except Stop α} {e : Stop}
    (hb : b = .error e) : ∃ e' w, s.keeping sp acc is b = .error e' ∧ s.stopped e' = w.stopped e ∧ s.keepsMy w := by
  subst hb
  unfold State.keeping
  dsimp only
  split
  · refine ⟨_, s.translated acc is, rfl, rfl, ?_⟩
    unfold State.translated
    split
    · exact ⟨rfl, rfl⟩
    · exact s.xlateAll_frame acc is
  · exact ⟨_, s, rfl, rfl, rfl, rfl⟩

theorem consume_good {s : State} {l : Loc} {p : Place} (unit : BitVec 4) (hp : l.place = some p) (h : s.poisonedIn p l.item.n = false) :
    s.consume unit [l] = .ok () := by
  unfold State.consume
  rw [firstBad_one, hp]
  dsimp only
  rw [if_neg (by rw [h]; decide)]

theorem consume_bad {s : State} {l : Loc} {p : Place} (unit : BitVec 4) (hp : l.place = some p) (h : s.poisonedIn p l.item.n = true) :
    ∃ store addr va, s.consume unit [l] = .error (.poison store addr unit va) := by
  unfold State.consume
  rw [firstBad_one, hp]
  dsimp only
  rw [if_pos h]
  exact ⟨_, _, _, rfl⟩

section
variable {s u v : State} {sp : Space} {va : Word} {n : Nat} {sg : Bool} {d : Reg5} {o : Order} {p : Place}

/-- The body of a load whose place is known and whose order lets it be performed. -/
theorem loadAt_reach (hreach : s.reach sp .load {} va n p u) (hgate : u.gate o = .ok v) (hcalm : v.calm) :
    ∃ e, loadAt s sp va n sg d o = s.keeping sp .load (oneItem va n) ((v.consume 0 [⟨⟨0, va, va, n, n⟩, some p, e⟩]) >>= fun _ =>
      if v.defers sp o then .ok (v.fly [.mem v.cur.core v.cur.ctx va.toNat p.addr e (.load d.toNat n sg) .travelling
        ⟨v.me.vf, v.my.pc, v.my.replay⟩])
      else .ok ((v.acquired o).setG d (extend sg n (v.numAt p n)))) := by
  obtain ⟨e, hcheck⟩ := hreach
  refine ⟨e, ?_⟩
  unfold loadAt
  rw [hcheck]
  change s.keeping sp .load (oneItem va n) (u.gate o >>= fun v => _) = _
  rw [hgate]
  change s.keeping sp .load (oneItem va n) (v.clearOf _ >>= fun _ => _) = _
  rw [State.clearOf_calm hcalm]
  simp only [List.map_cons, List.map_nil, List.flatten_cons, List.flatten_nil, List.append_nil]
  rfl

theorem loadAt_performed (hreach : s.reach sp .load {} va n p u) (hgate : u.gate o = .ok v) (hcalm : v.calm)
    (hgood : v.poisonedIn p n = false) (hnow : v.defers sp o = false) :
    loadAt s sp va n sg d o = .ok ((v.acquired o).setG d (extend sg n (v.numAt p n))) := by
  obtain ⟨e, h⟩ := loadAt_reach (sg := sg) (d := d) hreach hgate hcalm
  rw [h, consume_good 0 rfl hgood, hnow]
  rfl

theorem loadAt_deferred (hreach : s.reach sp .load {} va n p u) (hgate : u.gate o = .ok v) (hcalm : v.calm)
    (hgood : v.poisonedIn p n = false) (hlater : v.defers sp o = true) :
    ∃ e, loadAt s sp va n sg d o = .ok (v.fly [.mem v.cur.core v.cur.ctx va.toNat p.addr e (.load d.toNat n sg) .travelling
        ⟨v.me.vf, v.my.pc, v.my.replay⟩]) := by
  obtain ⟨e, h⟩ := loadAt_reach (sg := sg) (d := d) hreach hgate hcalm
  refine ⟨e, ?_⟩
  rw [h, consume_good 0 rfl hgood, hlater]
  rfl

theorem loadAt_poisoned (hreach : s.reach sp .load {} va n p u) (hgate : u.gate o = .ok v) (hcalm : v.calm)
    (hbad : v.poisonedIn p n = true) :
    ∃ e store addr ea w, loadAt s sp va n sg d o = .error e ∧ s.stopped e = w.stopped (.poison store addr 0 ea) ∧ s.keepsMy w := by
  obtain ⟨e, h⟩ := loadAt_reach (sg := sg) (d := d) hreach hgate hcalm
  obtain ⟨store, addr, ea, hconsume⟩ := consume_bad (l := ⟨⟨0, va, va, n, n⟩, some p, e⟩) 0 rfl hbad
  rw [h, hconsume]
  obtain ⟨e', w, hkeep, hstop, hw⟩ := State.keeping_stopped (s := s) (sp := sp) (acc := .load) (is := oneItem va n) (α := State) rfl
  exact ⟨e', store, addr, ea, w, hkeep, hstop, hw⟩

/-- A load of an absent page holds there (R141). -/
theorem loadAt_absent {x : Item} {e : Nat} (hcheck : s.check .glob .load {} (oneItem va n) = .ok ([⟨x, none, e⟩], u)) :
    ∃ e w, loadAt s .glob va n sg d o = .error e ∧ s.stopped e = w.holdOn (some (va.toNat / 65536 * 65536, 0)) ∧ s.keepsMy w := by
  obtain rfl : x = ⟨0, va, va, n, n⟩ := (List.cons.inj (State.check_items hcheck)).1
  unfold loadAt
  rw [hcheck]
  obtain ⟨e', w, hkeep, hstop, hw⟩ := State.keeping_stopped (s := s) (sp := .glob) (acc := .load) (is := oneItem va n) (α := State) rfl
  exact ⟨e', w, hkeep, hstop, hw⟩

end

/-! ### What O14 says of loads -/

theorem exec_load_ok {s w : State} {i : Instr} {c : ScalarAcc} {d : Reg5} {sg : Bool} (h : loadRule s i = some (c, d, sg))
    (hg : s.guardHolds i = true) (hat : loadAt s c.sp c.va c.n sg d c.o = .ok w) :
    exec i s = .next ((s.postMoved i w).advance (words i)) := by
  rw [exec_load h hg, hat]
  rfl

theorem exec_load_error {s : State} {i : Instr} {c : ScalarAcc} {d : Reg5} {sg : Bool} {e : Stop} (h : loadRule s i = some (c, d, sg))
    (hg : s.guardHolds i = true) (hat : loadAt s c.sp c.va c.n sg d c.o = .error e) : exec i s = .next (s.stopped e) := by
  rw [exec_load h hg, hat]
  rfl

/-- Only the accesses through a pointer move it. -/
theorem postRule_load {s : State} {i : Instr} {c : ScalarAcc} {d : Reg5} {sg : Bool} (h : loadRule s i = some (c, d, sg)) :
    postRule i = none ∨ c.sp = .dist := by
  cases i with
  | ld d a loc z i g | ldS d a loc z i g | ldExt d a loc z i o g | ldSExt d a loc z i o g => exact .inl rfl
  | lda d a z i o g | ldaS d a z i o g => cases h; exact .inr rfl
  | _ => cases h

/-- The pointers after an access through one, whose check leaves the state and whose order changes chip time and S alone. -/
theorem State.getA_moved {i : Instr} {s u v w : State} {sp : Space} {acc : Acc} {inf : AddrInfo} {is : List Item} {ls : List Loc}
    {o : Order} (hpost : postRule i = none ∨ sp = .dist) (hcheck : s.check sp acc inf is = .ok (ls, u)) (hgate : u.gate o = .ok v)
    (hA : ∀ r, w.getA r = v.getA r) (r : Reg3) : (s.postMoved i w).getA r = v.pointers i r := by
  unfold State.pointers
  cases hp : postRule i with
  | none => rw [State.getA_postMoved_none _ _ _ hp, hA]
  | some x =>
    obtain ⟨a, k⟩ := x
    rcases hpost with hnone | rfl
    · rw [hp] at hnone; cases hnone
    · have hptr : v.pointerAfter a k = s.pointerAfter a k := by
        rw [← (State.check_dist_ok hcheck).1]
        exact State.gate_field hgate fun s => s.pointerAfter a k
      rw [State.getA_postMoved_some _ _ _ hp, hA, ← hptr]

section
variable {i : Instr} {s u v : State} {c : ScalarAcc} {d : Reg5} {sg : Bool} {p : Place}

theorem exec_load_performed (h : loadRule s i = some (c, d, sg)) (hg : s.guardHolds i = true)
    (hreach : s.reach c.sp .load {} c.va c.n p u) (hgate : u.gate c.o = .ok v) (hcalm : v.calm) (hgood : v.poisonedIn p c.n = false)
    (hnow : v.defers c.sp c.o = false) :
    ∃ t, exec i s = .next t ∧ t.getG d = (if d = 0 then 0 else extend sg c.n (v.numAt p c.n)) ∧
      (∀ r : Reg5, r ≠ d → t.getG r = v.getG r) ∧ (∀ r, t.getP r = v.getP r) ∧ (∀ r, t.getV r = v.getV r) ∧
      (∀ r, t.getA r = v.pointers i r) ∧
      v.my.sameSys t.my ∧ v.sameBytes t ∧ v.movesOn t (words i) := by
  have hw := v.along_acquired c.o
  refine ⟨_, exec_load_ok h hg (loadAt_performed hreach hgate hcalm hgood hnow), ?_, fun r hr => ?_, fun r => ?_, fun r => ?_,
    fun r => ?_, fun n => ?_, fun q => ?_, ?_⟩
  · rw [State.getG_advance, State.getG_postMoved, State.getG_setG]
    by_cases hd : d = 0
    · rw [if_neg fun hh => hh.2 hd, if_pos hd, hd]; rfl
    · rw [if_pos ⟨rfl, hd⟩, if_neg hd]
  · rw [State.getG_advance, State.getG_postMoved, State.getG_setG, if_neg fun hh => hr hh.1, hw.getG]
  · rw [State.getP_advance, State.getP_postMoved, State.getP, State.my_setG, Ctx.getP_setG]
    exact hw.getP r
  · rw [State.getV_advance, State.getV_postMoved, State.getV, State.my_setG, Ctx.getV_setG]
    exact hw.getV r
  · rw [State.getA_advance]
    obtain ⟨e, hcheck⟩ := hreach
    refine State.getA_moved (postRule_load h) hcheck hgate (fun r => ?_) r
    rw [State.getA, State.my_setG, Ctx.getA_setG]
    exact hw.getA r
  · rw [State.my_advance, Ctx.sysr_next, Ctx.sysr_awake, State.sysr_postMoved, State.my_setG, Ctx.sysr_setG]
    exact hw.sysr n
  · rw [State.byteAt_advance, State.byteAt_postMoved, State.byteAt_setG, State.byteAt_acquired]
  · exact State.movesOn_advance_of (by rw [State.pc_postMoved, State.my_setG, Ctx.setG_pc, hw.my.pc])
      (by rw [State.replay_postMoved, State.my_setG, Ctx.replay_setG, hw.my.replay]) _

theorem exec_load_deferred (h : loadRule s i = some (c, d, sg)) (hg : s.guardHolds i = true)
    (hreach : s.reach c.sp .load {} c.va c.n p u) (hgate : u.gate c.o = .ok v) (hcalm : v.calm) (hgood : v.poisonedIn p c.n = false)
    (hlater : v.defers c.sp c.o = true) :
    ∃ t e, exec i s = .next t ∧ t.flight = v.flight ++ [.mem v.cur.core v.cur.ctx c.va.toNat p.addr e (.load d.toNat c.n sg) .travelling
      ⟨v.me.vf, v.my.pc, v.my.replay⟩] ∧ v.my.sameRegs t.my ∧ v.sameBytes t ∧ v.movesOn t (words i) := by
  obtain ⟨e, hat⟩ := loadAt_deferred (sg := sg) (d := d) hreach hgate hcalm hgood hlater
  have hpost : postRule i = none := (postRule_load h).resolve_right fun hdist => by
    rw [State.defers, hdist] at hlater
    simp at hlater
  have hmoved : ∀ w, s.postMoved i w = w := fun w => by rw [State.postMoved, hpost]
  refine ⟨_, e, exec_load_ok h hg hat, ?_⟩
  rw [hmoved]
  obtain ⟨⟨hregs, -, hbytes⟩, hmoves⟩ := And.intro (State.onlyPasses_advance (v.fly _) (words i)) (State.movesOn_self (v.fly _) (words i))
  exact ⟨rfl, hregs, fun q => (hbytes q).trans (v.byteAt_fly _ q), hmoves⟩

theorem exec_load_absent (h : loadRule s i = some (c, d, sg)) (hg : s.guardHolds i = true) {x : Item} {e : Nat} (hsp : c.sp = .glob)
    (hcheck : s.check .glob .load {} (oneItem c.va c.n) = .ok ([⟨x, none, e⟩], u)) :
    ∃ t, exec i s = .next t ∧ t.my.run = .holding ∧ t.my.holdPage = some (c.va.toNat / 65536 * 65536, 0) ∧ t.my.pc = s.my.pc ∧
      s.my.sameRegs t.my := by
  obtain ⟨e, w, hat, hstop, hcur, hmy⟩ := loadAt_absent (sg := sg) (d := d) (o := c.o) hcheck
  rw [← hsp] at hat
  refine ⟨_, (exec_load_error h hg hat).trans (congrArg Host.Outcome.next hstop), ?_⟩
  rw [State.holdOn_my, hmy]
  exact ⟨rfl, rfl, rfl, Ctx.sameRegs_of_eq⟩

end

end Sys2Proof.Machine
end

section
/-! PROOF. Poison that a load consumes: the return of its context to its restart point (R342). -/

namespace Sys2Proof.Machine

open Sys2Proof

set_option Elab.async false

/-- The context after a return to its restart point, where no replay was recorded there (R117, R341). -/
structure Ctx.Returned (x y : Ctx) : Prop where
  pc : y.pc = x.sysr 0x030
  g : y.g = x.restart.g
  p : y.p = x.restart.p
  v : y.v = x.restart.v
  a : y.a = x.restart.a
  restart : y.restart = x.restart

theorem Ctx.Returned.setReplay {x y : Ctx} (h : x.Returned y) (r : Option Replay) : x.Returned (y.setReplay r) := by
  unfold Ctx.setReplay
  split <;> exact ⟨h.pc, h.g, h.p, h.v, h.a, h.restart⟩

theorem State.dropSc_keepsMy (s : State) (core : Nat) (k : Nat → Bool) : s.keepsMy (s.dropSc core k) := by
  have hcur : (s.dropSc core k).cur = s.cur := by
    unfold State.dropSc
    dsimp only
    split <;> rfl
  refine ⟨hcur, ?_⟩
  rw [State.my, State.me, hcur]
  exact State.dropSc_core (fun c => c.ctx s.cur.ctx) (fun _ _ => rfl) s core k s.cur.core

/-- A return to a restart point restores what was recorded there. -/
theorem State.restorePoint_returned {s : State} (h : s.my.restart.replay = none) :
    s.restorePoint.cur = s.cur ∧ s.my.Returned s.restorePoint.my := by
  have hset : ∀ {x : Ctx} {t : State}, s.my.Returned x → (s.setMy x).keepsMy t → t.cur = s.cur ∧ s.my.Returned t.my := by
    intro x t hx ht
    rw [ht.2, State.my_setMy]
    exact ⟨ht.1, hx⟩
  unfold State.restorePoint
  dsimp only
  rw [h]
  dsimp only
  refine hset (Ctx.Returned.setReplay ?_ none) (.trans (State.dropSc_keepsMy _ _ _) (State.setCore_keepsMy _ _))
  exact ⟨rfl, rfl, rfl, rfl, rfl, rfl⟩

/-- Poison consumed once since the restart point, within the count: the context goes back to it (R340, R342). -/
theorem State.consumePoison_returns {s : State} (store : Nat) (addr : Word) (va : Option Word) (hfirst : s.my.restart.poisoned = false)
    (hcount : s.my.restart.returns < 3) (hckpt : s.my.restart.ckpt = false) (hreplay : s.my.restart.replay = none) :
    let t := s.stopped (.poison store addr 0 va)
    t.my.pc = s.my.sysr 0x030 ∧ t.my.g = s.my.restart.g ∧ t.my.p = s.my.restart.p ∧ t.my.v = s.my.restart.v ∧
      t.my.a = s.my.restart.a ∧ t.my.restart.poisoned = true ∧ t.my.restart.returns = s.my.restart.returns + 1 := by
  have hagain : ([s.cur.ctx].any fun k => (s.ctxAt s.cur.core k).restart.poisoned) = false := by
    rw [List.any_cons, List.any_nil, Bool.or_false]
    exact hfirst
  rw [State.stopped, State.unitOf, if_pos rfl]
  unfold State.consumePoison
  dsimp only
  rw [hagain]
  simp only [Bool.false_eq_true, if_false, List.foldl_cons, List.foldl_nil]
  generalize hrec : s.report _ = w
  have hw : s.keepsMy w := hrec ▸ s.report_keepsMy _
  obtain ⟨hcur, hmy⟩ := hw
  have hat : w.at s.cur.core s.cur.ctx = w := by rw [← hcur]; rfl
  have hrestore : w.restore = w.restorePoint := by
    unfold State.restore
    rw [hmy, hckpt]
    rfl
  obtain ⟨hcur', hret⟩ := State.restorePoint_returned (s := w) (by rw [hmy]; exact hreplay)
  rw [hmy] at hret
  have hreturns : (w.restorePoint.countReturn true).my.restart.returns < 4 := by
    rw [State.countReturn, State.my_setMy, hret.restart]
    exact Nat.succ_lt_succ hcount
  rw [hat, hrestore, if_pos hreturns, State.my_at, ← hcur, ← hcur']
  change (w.restorePoint.countReturn true).my.pc = _ ∧ (w.restorePoint.countReturn true).my.g = _ ∧
    (w.restorePoint.countReturn true).my.p = _ ∧ (w.restorePoint.countReturn true).my.v = _ ∧
    (w.restorePoint.countReturn true).my.a = _ ∧ (w.restorePoint.countReturn true).my.restart.poisoned = _ ∧
    (w.restorePoint.countReturn true).my.restart.returns = _
  rw [State.countReturn, State.my_setMy]
  exact ⟨hret.pc, hret.g, hret.p, hret.v, hret.a, Bool.or_true _, congrArg (·.returns + 1) hret.restart⟩

section
variable {i : Instr} {s u v : State} {c : ScalarAcc} {d : Reg5} {sg : Bool} {p : Place}

theorem exec_load_poisoned (h : loadRule s i = some (c, d, sg)) (hg : s.guardHolds i = true)
    (hreach : s.reach c.sp .load {} c.va c.n p u) (hgate : u.gate c.o = .ok v) (hcalm : v.calm) (hbad : v.poisonedIn p c.n = true)
    (hfirst : s.my.restart.poisoned = false) (hcount : s.my.restart.returns < 3) (hckpt : s.my.restart.ckpt = false)
    (hreplay : s.my.restart.replay = none) :
    ∃ t, exec i s = .next t ∧ t.my.pc = s.my.sysr 0x030 ∧ t.my.g = s.my.restart.g ∧ t.my.p = s.my.restart.p ∧
      t.my.v = s.my.restart.v ∧ t.my.a = s.my.restart.a ∧ t.my.restart.poisoned = true ∧
      t.my.restart.returns = s.my.restart.returns + 1 := by
  obtain ⟨e, store, addr, ea, w, hat, hstop, -, hmy⟩ := loadAt_poisoned (sg := sg) (d := d) hreach hgate hcalm hbad
  rw [← hmy] at hfirst hcount hckpt hreplay ⊢
  exact ⟨_, (exec_load_error h hg hat).trans (congrArg Host.Outcome.next hstop),
    State.consumePoison_returns store addr ea hfirst hcount hckpt hreplay⟩

end

end Sys2Proof.Machine
end

section
/-! PROOF. Scalar stores (R122-R124, R312). -/

namespace Sys2Proof.Machine

open Sys2Proof

set_option Elab.async false

/-! ### The forms -/

theorem exec_st_of {s : State} {i : Instr} {c : ScalarAcc} {d : Reg5} {g : Reg3} {len : Nat} (hg : s.guardOn g = true)
    (hx : exec i s = s.guarded g len (storeAt s c.sp c.va c.n (s.getG d) c.o >>= fun t => .ok ((t.advance len).awaitSc)))
    (hlen : len = words i) :
    exec i s = s.run (storeAt s c.sp c.va c.n (s.getG d) c.o >>= fun t => .ok ((t.advance (words i)).awaitSc)) := by
  rw [hx, State.guarded_on hg, hlen]
  rfl

/-- ST: a store that moves no pointer, in global memory or its own core's. -/
theorem exec_st {s : State} {i : Instr} {c : ScalarAcc} {d : Reg5} (h : storeRule s i = some (c, d)) (hg : s.guardHolds i = true)
    (hsp : c.sp ≠ .dist) : postRule i = none ∧
      exec i s = s.run (storeAt s c.sp c.va c.n (s.getG d) c.o >>= fun t => .ok ((t.advance (words i)).awaitSc)) := by
  cases i with
  | st d a loc z i g => cases h; exact ⟨rfl, exec_st_of hg rfl rfl⟩
  | stExt d a loc z i o g => cases h; exact ⟨rfl, exec_st_of hg rfl (by cases i <;> cases o <;> rfl)⟩
  | sta d a z i o g => cases h; exact absurd rfl hsp
  | _ => cases h

/-- The body of a store through a pointer (R123, R124). -/
def State.storeThrough (s : State) (i : Instr) (c : ScalarAcc) (bs : List Byte) : Except Stop State := do
  let (locs, t) ← s.check .dist .store { write := true } (oneItem c.va c.n)
  let away := s.namedCore c.va != s.cur.core
  if away && t.sendsSc c.o then do
    t.clearOf locs
    .ok ((s.postMoved i t.discardAhead).sendSc (.store (s.namedCore c.va) (ptrOff c.va) bs) (words i))
  else do
    let t ← t.gate c.o
    t.clearOf locs
    let t := locs.foldl (fun t l => t.sendBytes l bs (decide (c.o = .sc))) t
    let t := s.postMoved i (if c.o = .sc then t.discardAhead else t)
    .ok (if away then t.sent (words i) else t.advance (words i))

/-- STA: a store through a pointer. -/
theorem exec_sta {s : State} {i : Instr} {c : ScalarAcc} {d : Reg5} (h : storeRule s i = some (c, d)) (hg : s.guardHolds i = true)
    (hsp : c.sp = .dist) : exec i s = s.run (s.storeThrough i c (leBytes c.n (s.getG d).toNat)) := by
  cases i with
  | st d a loc z i g | stExt d a loc z i o g =>
    cases h
    cases loc <;> cases hsp
  | sta d a z i o g =>
    cases h
    have hlen : 1 + extWords o = words (.sta d a z i o g) := by cases o <;> rfl
    have hnow : (o == some .sc) = decide (o.getD .rlx = .sc) := by cases o with
      | none => rfl
      | some o => cases o <;> rfl
    have hbody : s.guardOn g = true := hg
    change storePtr d a z i o g s = _
    unfold storePtr
    dsimp only
    rw [State.guarded_on hbody, hlen, hnow]
    unfold State.storeThrough State.postMoved
    simp only [postRule, ← postInc_eq]
    rfl
  | _ => cases h

/-! ### What a store at an address comes to -/

/-- A store of bytes to a place, on its way or performed: w is v with the bytes put down, or with what brings them in flight. -/
structure State.Stores (v w : State) (sp : Space) (o : Order) (p : Place) (bs : List Byte) : Prop where
  along : v.Along w
  later : o ≠ .sc → v.later sp p = true → v.sameBytes w ∧ ∃ f, w.flight = v.flight ++ [f] ∧ f.brings p bs
  now : ¬(o ≠ .sc ∧ v.later sp p = true) →
    (∀ q ∈ v.copies p, w.bytesAt q bs.length = bs) ∧ v.sameBytesOff w (v.copies p) bs.length ∧ w.flight = v.flight

theorem State.stores_putLoc {v : State} {sp : Space} {o : Order} {p : Place} {bs : List Byte}
    (h : ¬(o ≠ .sc ∧ v.later sp p = true)) : v.Stores (v.putLoc p bs) sp o p bs where
  along := (v.rewritten_putLoc p bs).along
  later ho hl := absurd ⟨ho, hl⟩ h
  now _ := ⟨fun _ hq => v.bytesAt_putLoc p bs hq, v.sameBytesOff_putLoc p bs, (v.rewritten_putLoc p bs).flight⟩

theorem State.stores_later {v w : State} {sp : Space} {o : Order} {p : Place} {bs : List Byte} {f : Flight} (h : v.Along w)
    (ho : o ≠ .sc) (hl : v.later sp p = true) (hbytes : v.sameBytes w) (hf : w.flight = v.flight ++ [f]) (hbrings : f.brings p bs) :
    v.Stores w sp o p bs where
  along := h
  later _ _ := ⟨hbytes, f, hf, hbrings⟩
  now hn := absurd ⟨ho, hl⟩ hn

/-- What follows the store in its instruction leaves bytes and flight. -/
theorem State.Stores.then {v w x : State} {sp : Space} {o : Order} {p : Place} {bs : List Byte} (h : v.Stores w sp o p bs)
    (hx : w.Along x) (hbytes : w.sameBytes x) (hflight : x.flight = w.flight) : v.Stores x sp o p bs where
  along := h.along.trans hx
  later ho hl := by
    obtain ⟨hb, f, hf, hbrings⟩ := h.later ho hl
    exact ⟨hb.trans hbytes, f, hflight.trans hf, hbrings⟩
  now hn := by
    obtain ⟨hin, hoff, hf⟩ := h.now hn
    exact ⟨fun q hq => (State.bytesAt_congr hbytes q _).trans (hin q hq), fun q hq => (hbytes q).trans (hoff q hq), hflight.trans hf⟩

section
variable {s u v : State} {sp : Space} {va : Word} {n : Nat} {x : Word} {o : Order} {p : Place}

/-- Where an access but one through a pointer lies: its requests travel on a reasoning core alone, and what does not travel is in the
core's own memory, or reached through a reflex core's segments. -/
theorem reach_travels (hreach : s.reach sp .store { write := true } va n p u) (hsp : sp ≠ .dist) :
    u.reflex = s.reflex ∧ (p.travels = true → s.reflex = false) ∧
      (p.travels = false → s.reflex = true ∨ ∃ off, p = .core s.cur.core off) := by
  obtain ⟨e, hcheck⟩ := hreach
  have hcur : u.reflex = s.reflex := congrArg (fun c : Cur => Config.isReflex c.core) (State.check_frame hcheck).1
  refine ⟨hcur, ?_⟩
  cases sp with
  | dist => exact absurd rfl hsp
  | loc =>
    obtain ⟨-, hls⟩ := State.check_loc_ok hcheck
    obtain ⟨-, hp, -⟩ := Loc.mk.inj (List.cons.inj hls).1
    obtain rfl := Option.some.inj hp
    exact ⟨nofun, fun _ => .inr ⟨_, rfl⟩⟩
  | glob =>
    have htravels := (State.check_glob_ok hcheck).travels _ (List.mem_singleton_self _) p rfl
    rw [htravels]
    cases s.reflex <;> simp

/-- A store in global or in its own core's memory. -/
theorem storeAt_stores (hreach : s.reach sp .store { write := true } va n p u) (hsp : sp ≠ .dist) (hgate : u.gate o = .ok v)
    (hcalm : v.calm) : ∃ w, storeAt s sp va n x o = .ok w ∧ v.Stores w sp o p (leBytes n x.toNat) := by
  obtain ⟨hreflex, htravel, hstay⟩ := reach_travels hreach hsp
  have hvreflex : v.reflex = s.reflex := (State.gate_field hgate State.reflex).trans hreflex
  have hcore : v.cur.core = s.cur.core := by
    obtain ⟨e, hcheck⟩ := hreach
    rw [State.gate_field hgate State.cur, (State.check_frame hcheck).1]
  have hlater : v.later sp p = (!v.eager && p.travels) := by
    have htravels : (p.travels && !v.reflex) = p.travels := by
      rw [hvreflex]
      cases ht : p.travels with
      | false => rfl
      | true => rw [htravel ht]; rfl
    rw [← htravels]
    unfold State.later
    cases sp with
    | dist => exact absurd rfl hsp
    | glob | loc => rfl
  obtain ⟨e, hcheck⟩ := hreach
  have hat : storeAt s sp va n x o = s.keeping sp .store (oneItem va n)
      (if o = .sc then .ok (v.putLoc p (leBytes n x.toNat)).discardAhead
      else if !v.eager && p.travels then .ok (v.fly [.mem v.cur.core v.cur.ctx va.toNat p.addr e (.store n x) .travelling
        ⟨v.me.vf, v.my.pc, v.my.replay⟩])
      else v.storeLocs [(⟨⟨0, va, va, n, n⟩, some p, e⟩, leBytes n x.toNat)]) := by
    unfold storeAt
    rw [hcheck]
    change s.keeping sp .store (oneItem va n) (if o = .sc ∧ false = true then _ else u.gate o >>= fun v => _) = _
    rw [if_neg (by simp), hgate]
    change s.keeping sp .store (oneItem va n) (v.clearOf _ >>= fun _ => _) = _
    rw [State.clearOf_calm hcalm]
    change s.keeping sp .store (oneItem va n) (if o = .sc then _ else if !v.eager && (p.travels && true) then _ else _) = _
    rw [Bool.and_true]
    rfl
  rw [hat]
  by_cases ho : o = .sc
  · rw [if_pos ho]
    exact ⟨_, rfl, (State.stores_putLoc fun h => h.1 ho).then (State.along_discardAhead _) (fun q => State.byteAt_discardAhead _ q)
      (State.flight_discardAhead _)⟩
  · rw [if_neg ho, ← hlater]
    by_cases hl : v.later sp p = true
    · rw [if_pos hl]
      exact ⟨_, rfl, State.stores_later (v.along_fly _) ho hl (fun q => v.byteAt_fly _ q) rfl
        (.inr ⟨_, _, _, _, _, _, _, rfl, rfl⟩)⟩
    · rw [if_neg hl]
      refine ⟨v.putLoc p (leBytes n x.toNat), ?_, State.stores_putLoc fun h => hl h.2⟩
      rw [State.storeLocs_placed hcalm fun w hw => by obtain rfl := List.mem_singleton.mp hw; rfl]
      refine congrArg Except.ok ?_
      split
      · rfl
      · next hfly =>
        rw [Bool.or_eq_true, not_or, Bool.not_eq_true, Bool.not_eq_true, hvreflex] at hfly
        rw [hlater, hfly.1, Bool.not_false, Bool.true_and] at hl
        obtain ⟨off, rfl⟩ := (hstay (by simpa using hl)).resolve_left (by rw [hfly.2]; decide)
        rw [State.putLoc, if_pos hcore.symm]
        rfl

/-- A store's bytes at a checked place in core memory: performed, or on their way to another core (R124). -/
theorem State.sendBytes_stores {m off : Nat} (hp : p = .core m off) {l : Loc} (hl : l.place = some p) (bs : List Byte) :
    v.Stores (v.sendBytes l bs (decide (o = .sc))) .dist o p bs := by
  subst hp
  have hlater : v.later .dist (.core m off) = (!v.eager && m != v.cur.core) := rfl
  unfold State.sendBytes
  rw [hl]
  dsimp only
  by_cases hm : m = v.cur.core
  · rw [if_pos hm]
    have hput : v.putLoc (.core m off) bs = v.setBytes (.core m off) bs := if_pos hm
    rw [← hput]
    exact State.stores_putLoc fun h => by rw [hlater, bne_eq_false_iff_eq.mpr hm, Bool.and_false] at h; exact Bool.false_ne_true h.2
  · rw [if_neg hm]
    have hput : v.putLoc (.core m off) bs = v.putCore m off bs := if_neg hm
    by_cases hnow : (v.eager || decide (o = .sc)) = true
    · rw [if_pos hnow, ← hput]
      refine State.stores_putLoc fun h => ?_
      rw [decide_eq_false h.1, Bool.or_false] at hnow
      rw [hlater, hnow] at h
      exact Bool.false_ne_true h.2
    · rw [if_neg hnow]
      rw [Bool.or_eq_true, not_or, Bool.not_eq_true, decide_eq_true_eq] at hnow
      refine State.stores_later (v.along_fly _) hnow.2 ?_ (fun q => v.byteAt_fly _ q) rfl (.inl ⟨_, _, _, _, rfl, rfl⟩)
      rw [hlater, hnow.1, bne_iff_ne.mpr hm]
      rfl

end

/-! ### Completing a store -/

/-- A store's instruction is over: sent, where it closes its region, or complete, where its context may wait for S (R124, R259). -/
def State.Completes (w t : State) (len : Nat) (far : Prop) : Prop :=
  (far ∧ t = w.sent len) ∨ (¬far ∧ (t = w.advance len ∨ t = (w.advance len).holdOn none))

theorem State.awaitSc_completes (w : State) (len : Nat) {far : Prop} (h : ¬far) : w.Completes (w.advance len).awaitSc len far := by
  refine .inr ⟨h, ?_⟩
  unfold State.awaitSc
  split
  · exact .inr rfl
  · exact .inl rfl

section
variable {s w t : State} {len : Nat} {far : Prop} (h : w.Completes t len far)
include h

theorem State.Completes.getG (r : Reg5) : t.getG r = w.getG r := by
  rcases h with ⟨-, rfl⟩ | ⟨-, rfl | rfl⟩
  · exact w.getG_sent len r
  · exact w.getG_advance len r
  · rw [(State.along_holdOn_none _).getG, State.getG_advance]

theorem State.Completes.getP (r : Reg3) : t.getP r = w.getP r := by
  rcases h with ⟨-, rfl⟩ | ⟨-, rfl | rfl⟩
  · exact w.getP_sent len r
  · exact w.getP_advance len r
  · rw [(State.along_holdOn_none _).getP, State.getP_advance]

theorem State.Completes.getV (r : Reg5) : t.getV r = w.getV r := by
  rcases h with ⟨-, rfl⟩ | ⟨-, rfl | rfl⟩
  · exact w.getV_sent len r
  · exact w.getV_advance len r
  · rw [(State.along_holdOn_none _).getV, State.getV_advance]

theorem State.Completes.getA (r : Reg3) : t.getA r = w.getA r := by
  rcases h with ⟨-, rfl⟩ | ⟨-, rfl | rfl⟩
  · exact w.getA_sent len r
  · exact w.getA_advance len r
  · rw [(State.along_holdOn_none _).getA, State.getA_advance]

theorem State.Completes.sysr {n : Nat} (hn : ¬(far ∧ (n = 0x030 ∨ n = 0x100))) : t.my.sysr n = w.my.sysr n := by
  rcases h with ⟨hfar, rfl⟩ | ⟨-, rfl | rfl⟩
  · exact w.sysr_sent len fun hn' => hn ⟨hfar, hn'⟩
  · rw [State.my_advance, Ctx.sysr_next, Ctx.sysr_awake]
  · rw [(State.along_holdOn_none _).sysr, State.my_advance, Ctx.sysr_next, Ctx.sysr_awake]

theorem State.Completes.regionpc (hfar : far) : t.my.sysr 0x030 = t.my.pc := by
  rcases h with ⟨-, rfl⟩ | ⟨hnear, -⟩
  · exact w.regionpc_sent len
  · exact absurd hfar hnear

theorem State.Completes.sameBytes : w.sameBytes t := by
  rcases h with ⟨-, rfl⟩ | ⟨-, rfl | rfl⟩ <;> intro q <;> simp

theorem State.Completes.flight : t.flight = w.flight := by
  rcases h with ⟨-, rfl⟩ | ⟨-, rfl | rfl⟩
  · exact w.flight_sent len
  · rfl
  · rfl

theorem State.Completes.movesOn (hpc : w.my.pc = s.my.pc) (hreplay : w.my.replay = s.my.replay) : s.movesOn t len := by
  rcases h with ⟨-, rfl⟩ | ⟨-, rfl | rfl⟩
  · exact State.movesOn_sent_of hpc hreplay len
  · exact State.movesOn_advance_of hpc hreplay len
  · intro hr
    rw [(State.along_holdOn_none _).my.pc]
    exact State.movesOn_advance_of hpc hreplay len hr

end

/-! ### What O14 says of stores -/

theorem postRule_store {s : State} {i : Instr} {c : ScalarAcc} {d : Reg5} (h : storeRule s i = some (c, d)) :
    postRule i = none ∨ c.sp = .dist := by
  cases i with
  | st d a loc z i g | stExt d a loc z i o g => exact .inl rfl
  | sta d a z i o g => cases h; exact .inr rfl
  | _ => cases h

section
variable {i : Instr} {s u v : State} {c : ScalarAcc} {d : Reg5} {p : Place}

/-- Where a store through a pointer reaches, and when that is another core (R17, R124). -/
theorem reach_dist {sp : Space} (hreach : s.reach sp .store { write := true } c.va c.n p u) (hsp : sp = .dist) :
    u = s ∧ p = .core (s.namedCore c.va) (ptrOff c.va) ∧ (s.far sp p ↔ (s.namedCore c.va != s.cur.core) = true) := by
  subst hsp
  obtain ⟨e, hcheck⟩ := hreach
  obtain ⟨hu, hls⟩ := State.check_dist_ok hcheck
  obtain ⟨-, hp, -⟩ := Loc.mk.inj (List.cons.inj hls).1
  obtain rfl : p = .core (s.namedCore c.va) (ptrOff c.va) := Option.some.inj hp
  refine ⟨hu, rfl, ?_⟩
  rw [bne_iff_ne]
  exact ⟨fun ⟨n, off, _, he, hn⟩ => by rw [← (Place.core.inj he).1] at hn; exact hn, fun hn => ⟨_, _, rfl, rfl, hn⟩⟩

theorem storeThrough_stores {bs : List Byte} (hreach : s.reach .dist .store { write := true } c.va c.n p u)
    (hfree : ¬(s.far .dist p ∧ u.sendsSc c.o = true)) (hgate : u.gate c.o = .ok v) (hcalm : v.calm) :
    ∃ w t, s.storeThrough i c bs = .ok t ∧ v.Stores w .dist c.o p bs ∧
      (s.postMoved i w).Completes t (words i) (s.far .dist p) := by
  obtain ⟨-, hp, hfar⟩ := reach_dist hreach rfl
  obtain ⟨e, hcheck⟩ := hreach
  have hsend : ¬(s.namedCore c.va != s.cur.core && u.sendsSc c.o) = true := by rwa [Bool.and_eq_true, ← hfar]
  let x := v.sendBytes ⟨⟨0, c.va, c.va, c.n, c.n⟩, some p, e⟩ bs (decide (c.o = .sc))
  have hx : v.Stores x .dist c.o p bs := State.sendBytes_stores hp rfl bs
  have hat : s.storeThrough i c bs = .ok (if s.namedCore c.va != s.cur.core
      then (s.postMoved i (if c.o = .sc then x.discardAhead else x)).sent (words i)
      else (s.postMoved i (if c.o = .sc then x.discardAhead else x)).advance (words i)) := by
    unfold State.storeThrough
    rw [hcheck]
    change (if (s.namedCore c.va != s.cur.core && u.sendsSc c.o) = true then _ else u.gate c.o >>= fun v => _) = _
    rw [if_neg hsend, hgate]
    change (v.clearOf _ >>= fun _ => _) = _
    rw [State.clearOf_calm hcalm]
    rfl
  refine ⟨if c.o = .sc then x.discardAhead else x, _, hat, ?_, ?_⟩
  · split
    · exact hx.then (State.along_discardAhead _) (fun q => State.byteAt_discardAhead _ q) (State.flight_discardAhead _)
    · exact hx
  · by_cases haway : (s.namedCore c.va != s.cur.core) = true
    · rw [if_pos haway]
      exact .inl ⟨hfar.mpr haway, rfl⟩
    · rw [if_neg haway]
      exact .inr ⟨fun h => haway (hfar.mp h), .inl rfl⟩

/-- A store that is not sent as an SC operation: its bytes put down or on their way, then its instruction's end. -/
theorem exec_store_stores (h : storeRule s i = some (c, d)) (hg : s.guardHolds i = true)
    (hreach : s.reach c.sp .store { write := true } c.va c.n p u) (hfree : ¬(s.far c.sp p ∧ u.sendsSc c.o = true))
    (hgate : u.gate c.o = .ok v) (hcalm : v.calm) :
    ∃ w t, exec i s = .next t ∧ v.Stores w c.sp c.o p (leBytes c.n (s.getG d).toNat) ∧
      (s.postMoved i w).Completes t (words i) (s.far c.sp p) := by
  by_cases hsp : c.sp = .dist
  · rw [exec_sta h hg hsp]
    rw [hsp] at hreach hfree ⊢
    obtain ⟨w, t, hat, hw⟩ := storeThrough_stores (i := i) (bs := leBytes c.n (s.getG d).toNat) hreach hfree hgate hcalm
    rw [hat]
    exact ⟨w, t, rfl, hw⟩
  · obtain ⟨hpost, hexec⟩ := exec_st h hg hsp
    obtain ⟨w, hat, hstores⟩ := storeAt_stores (x := s.getG d) hreach hsp hgate hcalm
    have hmoved : s.postMoved i w = w := by rw [State.postMoved, hpost]
    rw [hexec, hat]
    refine ⟨w, _, rfl, hstores, ?_⟩
    rw [hmoved]
    exact w.awaitSc_completes _ fun ⟨_, _, hd, _⟩ => hsp hd

theorem exec_store_performed (h : storeRule s i = some (c, d)) (hg : s.guardHolds i = true)
    (hreach : s.reach c.sp .store { write := true } c.va c.n p u) (hfree : ¬(s.far c.sp p ∧ u.sendsSc c.o = true))
    (hgate : u.gate c.o = .ok v) (hcalm : v.calm) :
    ∃ t, exec i s = .next t ∧
      (if c.o ≠ .sc ∧ v.later c.sp p = true then
          v.sameBytes t ∧ ∃ f, t.flight = v.flight ++ [f] ∧ f.brings p (leBytes c.n (s.getG d).toNat)
        else (∀ q ∈ v.copies p, t.bytesAt q c.n = leBytes c.n (s.getG d).toNat) ∧ v.sameBytesOff t (v.copies p) c.n ∧
          t.flight = v.flight) ∧
      (∀ r, t.getG r = v.getG r) ∧ (∀ r, t.getP r = v.getP r) ∧ (∀ r, t.getV r = v.getV r) ∧ (∀ r, t.getA r = v.pointers i r) ∧
      (s.far c.sp p → t.my.sysr 0x030 = t.my.pc) ∧
      (∀ n, ¬(s.far c.sp p ∧ (n = 0x030 ∨ n = 0x100)) → t.my.sysr n = v.my.sysr n) ∧ v.movesOn t (words i) := by
  obtain ⟨w, t, hexec, hw, ht⟩ := exec_store_stores h hg hreach hfree hgate hcalm
  have hbytes : w.sameBytes t := State.sameBytes.trans (fun q => s.byteAt_postMoved w i q) ht.sameBytes
  have hflight : t.flight = w.flight := ht.flight.trans (s.flight_postMoved w i)
  refine ⟨t, hexec, ?_, fun r => ?_, fun r => ?_, fun r => ?_, fun r => ?_, ht.regionpc, fun n hn => ?_, ?_⟩
  · split
    · next hl =>
      obtain ⟨hb, f, hf, hbrings⟩ := hw.later hl.1 hl.2
      exact ⟨hb.trans hbytes, f, hflight.trans hf, hbrings⟩
    · next hn =>
      obtain ⟨hin, hoff, hf⟩ := hw.now hn
      rw [leBytes_length] at hin hoff
      exact ⟨fun q hq => (State.bytesAt_congr hbytes q _).trans (hin q hq), fun q hq => (hbytes q).trans (hoff q hq), hflight.trans hf⟩
  · rw [ht.getG, State.getG_postMoved, hw.along.getG]
  · rw [ht.getP, State.getP_postMoved, hw.along.getP]
  · rw [ht.getV, State.getV_postMoved, hw.along.getV]
  · obtain ⟨e, hcheck⟩ := hreach
    rw [ht.getA]
    exact State.getA_moved (postRule_store h) hcheck hgate hw.along.getA r
  · rw [ht.sysr hn, State.sysr_postMoved, hw.along.sysr]
  · exact ht.movesOn (by rw [State.pc_postMoved, hw.along.my.pc]) (by rw [State.replay_postMoved, hw.along.my.replay])

/-- An SC store to another core's memory that is not performed at issue takes its place in S with its bytes (R134). -/
theorem exec_store_sent (h : storeRule s i = some (c, d)) (hg : s.guardHolds i = true)
    (hreach : s.reach c.sp .store { write := true } c.va c.n p u) {m off : Nat} (hp : p = .core m off) (hfar : s.far c.sp p)
    (hsend : u.sendsSc c.o = true) (hcalm : u.calm) :
    ∃ t o, exec i s = .next t ∧ o ∈ t.sc ∧ o.core = s.cur.core ∧ o.ctx = s.cur.ctx ∧
      o.act = .store m off (leBytes c.n (s.getG d).toNat) ∧ o.ready = false ∧ t.my.run = .holding ∧ (∀ r, t.getA r = u.pointers i r) ∧
      u.sameBytes t ∧ t.my.sysr 0x030 = t.my.pc ∧ u.movesOn t (words i) := by
  have hsp : c.sp = .dist := by obtain ⟨_, _, hd, _⟩ := hfar; exact hd
  obtain ⟨hu, hplace, hiff⟩ := reach_dist hreach hsp
  obtain ⟨hm, hoff⟩ := Place.core.inj (hp.symm.trans hplace)
  obtain ⟨e, hcheck⟩ := hreach
  have hcheck' := hcheck
  rw [hsp] at hcheck'
  have hat : s.storeThrough i c (leBytes c.n (s.getG d).toNat) =
      .ok ((s.postMoved i u.discardAhead).sendSc (.store m off (leBytes c.n (s.getG d).toNat)) (words i)) := by
    unfold State.storeThrough
    rw [hcheck', hm, hoff]
    change (if (s.namedCore c.va != s.cur.core && u.sendsSc c.o) = true then u.clearOf _ >>= fun _ => _ else _) = _
    rw [if_pos (by rw [hsend, hiff.mp hfar]; rfl), State.clearOf_calm hcalm]
    rfl
  have hmine : (s.postMoved i u.discardAhead).cur = s.cur := by
    have hcur : (s.postMoved i u.discardAhead).cur = u.discardAhead.cur := by
      unfold State.postMoved
      split <;> rfl
    rw [hcur, u.along_discardAhead.cur, hu]
  obtain ⟨o, ho, hcore, hctx, hact, hready⟩ :=
    State.sendSc_mem (s.postMoved i u.discardAhead) (.store m off (leBytes c.n (s.getG d).toNat)) (words i)
  rw [exec_sta h hg hsp, hat, State.run_ok]
  refine ⟨_, o, rfl, ho, hcore.trans (congrArg Cur.core hmine), hctx.trans (congrArg Cur.ctx hmine), hact, hready,
    State.sendSc_run _ _ _, fun r => ?_, fun q => ?_, State.sendSc_regionpc _ _ _, fun hr => ?_⟩
  · rw [State.sendSc_getA]
    exact State.getA_moved (v := u) (o := .rlx) (postRule_store h) hcheck rfl u.along_discardAhead.getA r
  · rw [State.byteAt_sendSc, State.byteAt_postMoved, State.byteAt_discardAhead]
  · have hpc : (s.postMoved i u.discardAhead).my.pc = u.my.pc := by rw [State.pc_postMoved, u.along_discardAhead.my.pc]
    have hreplay : (s.postMoved i u.discardAhead).my.replay = u.my.replay := by
      rw [State.replay_postMoved, u.along_discardAhead.my.replay]
    rw [← hpc]
    exact State.sendSc_movesOn _ _ _ (hreplay.trans hr)

end

end Sys2Proof.Machine
end

section
/-! PROOF. Stores on absent pages, and the whole of O14 (R122-R126, R140, R143). -/

namespace Sys2Proof.Machine

open Sys2Proof

set_option Elab.async false

/-! ### A store on an absent page (R143) -/

/-- A context that waits for S has the side log that it had. -/
theorem State.slog_setMy (s : State) (x : Ctx) : (s.setMy x).me.slog = s.me.slog := by rw [State.me_setMy]; rfl

theorem State.Completes.slog {w t : State} {len : Nat} {far : Prop} (h : w.Completes t len far) : t.me.slog = w.me.slog := by
  rcases h with ⟨-, rfl⟩ | ⟨-, rfl | rfl⟩
  · rw [State.sent_eq]
    exact w.slog_setMy _
  · exact w.slog_setMy _
  · exact (State.slog_setMy _ _).trans (w.slog_setMy _)

/-- An instruction that leaves the issuing context as it was and completes, outside another core's memory. -/
theorem State.Completes.sameRegs {s w t : State} {len : Nat} {far : Prop} (h : w.Completes t len far) (hnear : ¬far) (hmy : s.keepsMy w) :
    s.my.sameRegs t.my ∧ s.movesOn t len := by
  refine ⟨(hmy.regs.trans ?_).2, h.movesOn (congrArg Ctx.pc hmy.2) (congrArg Ctx.replay hmy.2)⟩
  have hadvance : w.keepsRegs (w.advance len) := ⟨rfl, (w.onlyPasses_advance len).1⟩
  rcases h with ⟨hfar, -⟩ | ⟨-, rfl | rfl⟩
  · exact absurd hfar hnear
  · exact hadvance
  · exact hadvance.trans (State.holdOn_keepsRegs _ none)

theorem storeAt_absent {s u : State} {va : Word} {n e : Nat} {x : Word} {it : Item}
    (hcheck : s.check .glob .store { write := true } (oneItem va n) = .ok ([⟨it, none, e⟩], u)) (hcalm : u.calm)
    (hroom : u.me.slog.length < 64) :
    ∃ t, storeAt s .glob va n x .rlx = .ok t ∧
      u.Entered t [logEntryOf va.toNat (leBytes n x.toNat) .write u.me.vf u.cur.ctx] := by
  obtain rfl : it = ⟨0, va, va, n, n⟩ := (List.cons.inj (State.check_items hcheck)).1
  obtain ⟨t, hlog, ht⟩ := State.enterLog_ok (s := u) (es := [logEntryOf va.toNat (leBytes n x.toNat) .write u.me.vf u.cur.ctx]) hroom
  refine ⟨t, ?_, ht⟩
  unfold storeAt
  rw [hcheck]
  change s.keeping .glob .store (oneItem va n) (u.clearOf _ >>= fun _ => if !u.eager && false then _ else _) = _
  rw [State.clearOf_calm hcalm, Bool.and_false]
  change s.keeping .glob .store (oneItem va n) (u.storeLocs [(⟨⟨0, va, va, n, n⟩, none, e⟩, leBytes n x.toNat)]) = _
  unfold State.storeLocs
  rw [State.clearOf_calm hcalm]
  change s.keeping .glob .store (oneItem va n) (u.enterLog [logEntryOf va.toNat (leBytes n x.toNat) .write u.me.vf u.cur.ctx] >>= fun _ => _) = _
  rw [hlog]
  change Except.ok (if _ then _ else _) = _
  split
  · rfl
  · rfl

/-- The bytes of a scalar access lie in one sector (R121, R143). -/
theorem sector_of_aligned {va n z : Nat} (hn : n = 2 ^ z) (hz : z < 4) (hal : va % n = 0) : va % 128 + n ≤ 128 := by
  have hdvd : n ∣ 128 := hn ▸ Nat.pow_dvd_pow 2 (by omega : z ≤ 7)
  obtain ⟨m, hm⟩ := hdvd
  have hmod : va % 128 % n = 0 := by rw [Nat.mod_mod_of_dvd _ ⟨m, hm⟩]; exact hal
  obtain ⟨q, hq⟩ := Nat.dvd_of_mod_eq_zero hmod
  have hlt : n * q < n * m := by rw [← hq, ← hm]; exact Nat.mod_lt _ (by omega)
  have hqm : q + 1 ≤ m := Nat.lt_of_mul_lt_mul_left hlt
  calc va % 128 + n = n * (q + 1) := by rw [hq, Nat.mul_succ]
    _ ≤ n * m := Nat.mul_le_mul_left n hqm
    _ = 128 := hm.symm

theorem storeRule_size {s : State} {i : Instr} {c : ScalarAcc} {d : Reg5} (h : storeRule s i = some (c, d)) : ∃ z < 4, c.n = 2 ^ z := by
  cases i with
  | st d a loc z i g | stExt d a loc z i o g | sta d a z i o g => cases h; exact ⟨z.toNat, z.isLt, rfl⟩
  | _ => cases h

theorem exec_store_logged {i : Instr} {s u : State} {c : ScalarAcc} {d : Reg5} {x : Item} {e : Nat}
    (h : storeRule s i = some (c, d)) (hg : s.guardHolds i = true) (hsp : c.sp = .glob) (ho : c.o = .rlx)
    (hcheck : s.check .glob .store { write := true } (oneItem c.va c.n) = .ok ([⟨x, none, e⟩], u)) (hcalm : u.calm)
    (hroom : u.me.slog.length < 64) :
    ∃ t g, exec i s = .next t ∧ t.me.slog = u.me.slog ++ [g] ∧ g.sector = c.va.toNat / 128 * 128 ∧ g.op = .write ∧
      g.vf = u.me.vf ∧ g.ctx = u.cur.ctx ∧
      (∀ k < c.n, g.mask.getLsbD (c.va.toNat % 128 + k) = true ∧
        g.byte (c.va.toNat % 128 + k) = (s.getG d).extractLsb' (8 * k) 8) ∧ u.sameBytes t ∧ u.my.sameRegs t.my ∧
      u.movesOn t (words i) := by
  obtain ⟨w, hat, hw⟩ := storeAt_absent (x := s.getG d) hcheck hcalm hroom
  obtain ⟨-, hexec⟩ := exec_st h hg (by rw [hsp]; nofun)
  have hend := w.awaitSc_completes (words i) not_false
  have hsector : c.va.toNat % 128 + c.n ≤ 128 := by
    obtain ⟨z, hz, hn⟩ := storeRule_size h
    obtain ⟨-, -, hal⟩ := (State.check_glob_ok hcheck).aligned _ (List.mem_singleton_self _)
    exact sector_of_aligned hn hz hal
  rw [hexec, hsp, ho, hat]
  refine ⟨_, _, rfl, hend.slog.trans hw.slog, rfl, rfl, rfl, rfl, fun k hk => ?_, hw.bytes.trans hend.sameBytes,
    hend.sameRegs not_false hw.my⟩
  rw [logEntryOf_mask _ _ _ _ (by omega), logEntryOf_byte _ _ _ _ (by omega), leBytes_length, getD_leBytes _ _ hk, ofNat_div_eq_extract]
  exact ⟨decide_eq_true (by omega), rfl⟩

/-! ### CZERO of absent pages (R140, R143) -/

/-- The entry of a sector cleared. -/
def LogEntry.cleared (sector vf ctx : Nat) : LogEntry :=
  { sector := sector, data := 0, mask := BitVec.allOnes 128, op := .zero, vf := vf, ctx := ctx }

theorem logEntryOf_zeros {va : Nat} (hva : va % 128 = 0) (vf ctx : Nat) :
    logEntryOf va (List.replicate 128 0) .zero vf ctx = .cleared va vf ctx := by
  have hsector : va / 128 * 128 = va := by omega
  unfold logEntryOf
  rw [hva, hsector, leNat_zeroes, List.length_replicate]
  rfl

/-- The two sectors of a line on absent pages. -/
def absentLine (va : Word) (e f : Nat) : List Loc := [⟨⟨0, va, va, 128, 1⟩, none, e⟩, ⟨⟨0, va, va + 128, 128, 1⟩, none, f⟩]

theorem lineOf_sectors (x : Word) : (lineOf x).toNat % 256 = 0 ∧ (lineOf x + 128).toNat = (lineOf x).toNat + 128 := by
  have hx := x.isLt
  have hline : (lineOf x).toNat = x.toNat / 256 * 256 := by
    unfold lineOf
    rw [BitVec.toNat_ofNat, Nat.mod_eq_of_lt (by omega)]
  refine ⟨by omega, ?_⟩
  rw [BitVec.toNat_add, hline]
  exact Nat.mod_eq_of_lt (by change x.toNat / 256 * 256 + 128 < 2 ^ 64; omega)

theorem logWrites_absentLine {va : Word} (hva : va.toNat % 256 = 0) (hnext : (va + 128).toNat = va.toNat + 128) (vf ctx e f : Nat) :
    logWrites vf ctx none .zero ((absentLine va e f).map fun l => (l, List.replicate 128 0)) =
      [.cleared va.toNat vf ctx, .cleared (va.toNat + 128) vf ctx] := by
  change addEntry (addEntry [] (logEntryOf va.toNat _ _ _ _ _)) (logEntryOf (va + 128).toNat _ _ _ _ _) = _
  rw [logEntryOf_zeros (by omega), hnext, logEntryOf_zeros (by omega)]
  exact if_neg (by change va.toNat ≠ va.toNat + 128; omega)

theorem storeLocs_absentLine {u : State} {va : Word} (hva : va.toNat % 256 = 0) (hnext : (va + 128).toNat = va.toNat + 128) (e f : Nat)
    (hcalm : u.calm) (hroom : u.me.slog.length + 2 ≤ 64) :
    ∃ w, u.storeLocs ((absentLine va e f).map fun l => (l, List.replicate 128 0)) none .zero = .ok w ∧
      u.Entered w [.cleared va.toNat u.me.vf u.cur.ctx, .cleared (va.toNat + 128) u.me.vf u.cur.ctx] := by
  obtain ⟨w, henter, hw⟩ := State.enterLog_ok hroom
    (es := [.cleared va.toNat u.me.vf u.cur.ctx, .cleared (va.toNat + 128) u.me.vf u.cur.ctx])
  refine ⟨w, ?_, hw⟩
  unfold State.storeLocs
  rw [State.clearOf_calm hcalm, logWrites_absentLine hva hnext]
  change (u.enterLog _ >>= fun _ => _) = _
  rw [henter]
  change Except.ok (if _ then _ else _) = _
  split
  · rfl
  · rfl

theorem exec_czero_logged {s u : State} {a : Reg5} {off : Option Word} {g : Reg3} {va : Word} {e f : Nat} (hg : s.guardOn g = true)
    (hline : lineOf (s.effective a (off.getD 0)) = va)
    (hcheck : s.check .glob .store { write := true } [⟨0, va, va, 128, 1⟩, ⟨0, va, va + 128, 128, 1⟩] = .ok (absentLine va e f, u))
    (hcalm : u.calm) (hroom : u.me.slog.length + 2 ≤ 64) :
    ∃ t m n, exec (.czero a off g) s = .next t ∧ t.me.slog = u.me.slog ++ [m, n] ∧ m.sector = va.toNat ∧
      n.sector = va.toNat + 128 ∧ m.mask = BitVec.allOnes 128 ∧ n.mask = BitVec.allOnes 128 ∧ m.data = 0 ∧ n.data = 0 ∧
      u.sameBytes t ∧ u.my.sameRegs t.my ∧ u.movesOn t (if off.isSome then 3 else 1) := by
  obtain ⟨hva, hnext⟩ := lineOf_sectors (s.effective a (off.getD 0))
  rw [hline] at hva hnext
  obtain ⟨w, hstore, hw⟩ := storeLocs_absentLine hva hnext e f hcalm hroom
  have hexec : exec (.czero a off g) s = .next (w.advance (1 + litWords off)) := by
    refine (State.guarded_on hg (1 + litWords off) _).trans ?_
    rw [hline, hcheck]
    change s.run (s.keeping .glob .store _ (u.storeLocs ((absentLine va e f).map _) none .zero >>= fun t => _)) = _
    rw [hstore]
    rfl
  have hlen : (if off.isSome then 3 else 1) = 1 + litWords off := by cases off <;> rfl
  have hend : w.Completes (w.advance (1 + litWords off)) (1 + litWords off) False := .inr ⟨not_false, .inl rfl⟩
  rw [hlen, hexec]
  exact ⟨_, _, _, rfl, hend.slog.trans hw.slog, rfl, rfl, rfl, rfl, rfl, rfl, hw.bytes.trans hend.sameBytes, hend.sameRegs not_false hw.my⟩

/-! ### The statement -/

/-- Settles O14: each access's checks give its place, and what it then does to registers, memory, flight and log is its clause. -/
theorem scalarAccesses : Obligations.ScalarAccesses := by
  unfold Obligations.ScalarAccesses
  refine ⟨?_, ?_, ⟨?_, ?_⟩, ?_⟩
  · intro i s u v c d sg p h hg hreach hgate hcalm hgood
    exact ⟨exec_load_performed h hg hreach hgate hcalm hgood, exec_load_deferred h hg hreach hgate hcalm hgood⟩
  · intro i s u c d p h hg hreach
    refine ⟨fun v hsends hgate hcalm => exec_store_performed h hg hreach hsends hgate hcalm, fun m off hp hfar hsends hcalm => ?_⟩
    exact exec_store_sent h hg hreach hp hfar hsends hcalm
  · intro i s u c d x e h hg hsp ho hcheck hcalm hroom
    exact exec_store_logged h hg hsp ho hcheck hcalm hroom
  · intro s u a off g e f hg va x y hcheck hcalm hroom
    exact exec_czero_logged hg rfl hcheck hcalm hroom
  · intro i s u c d sg h hg
    refine ⟨fun x e hsp hcheck => exec_load_absent h hg hsp hcheck, fun v p hreach hgate hcalm hbad hfirst hcount hckpt hreplay => ?_⟩
    exact exec_load_poisoned h hg hreach hgate hcalm hbad hfirst hcount hckpt hreplay

end Sys2Proof.Machine
end

section
/-! PROOF. AMO and CAS (R132-R134, R312). -/

namespace Sys2Proof.Machine

open Sys2Proof

set_option Elab.async false

/-! ### An atomic on its checked word -/

/-- The word after an atomic: written, or left by a CAS that fails. -/
def State.replaced (s : State) (p : Place) (n : Nat) (f : Nat → Option Nat) : State :=
  match f (s.numAt p n) with
  | some x => s.putLoc p (leBytes n x)
  | none => s

/-- An atomic whose word lies at p: sent as act, set out as out, or performed. -/
def State.atomic (u : State) (p : Place) (n : Nat) (d : Reg5) (o : Order) (act : ScAct) (out : Option Flight) (f : Nat → Option Nat) :
    Except Stop State :=
  if u.sendsSc o then .ok (u.discardAhead.sendSc act 1)
  else u.gate o >>= fun v => match out with
    | some fl => .ok ((v.fly [fl]).sent 1)
    | none => .ok ((((v.replaced p n f).acquired o).setG d (BitVec.ofNat 64 (v.numAt p n))).sent 1)

section
variable {u v : State} {p : Place} {n : Nat} {d : Reg5} {o : Order} {act : ScAct} {out : Option Flight} {f : Nat → Option Nat}

theorem State.atomic_sent (h : u.sendsSc o = true) : u.atomic p n d o act out f = .ok (u.discardAhead.sendSc act 1) := if_pos h

theorem State.atomic_out {fl : Flight} (h : u.sendsSc o = false) (hgate : u.gate o = .ok v) :
    u.atomic p n d o act (some fl) f = .ok ((v.fly [fl]).sent 1) := by
  rw [State.atomic, h, hgate]
  rfl

theorem State.atomic_performed (h : u.sendsSc o = false) (hgate : u.gate o = .ok v) :
    u.atomic p n d o act none f = .ok ((((v.replaced p n f).acquired o).setG d (BitVec.ofNat 64 (v.numAt p n))).sent 1) := by
  rw [State.atomic, h, hgate]
  rfl

theorem State.along_replaced (s : State) : s.Along (s.replaced p n f) := by
  unfold State.replaced
  split
  · exact (s.rewritten_putLoc p _).along
  · exact .refl s

theorem State.replaced_bytes (s : State) (b : State) (hb : ∀ q, b.byteAt q = (s.replaced p n f).byteAt q) : match f (s.numAt p n) with
    | some x => (∀ q ∈ s.copies p, b.bytesAt q n = leBytes n x) ∧ s.sameBytesOff b (s.copies p) n
    | none => s.sameBytes b := by
  unfold State.replaced at hb
  cases hf : f (s.numAt p n) with
  | none =>
    rw [hf] at hb
    exact hb
  | some x =>
    rw [hf] at hb
    have hput := s.sameBytesOff_putLoc p (leBytes n x)
    have hcopy : ∀ q ∈ s.copies p, (s.putLoc p (leBytes n x)).bytesAt q (leBytes n x).length = leBytes n x :=
      fun q hq => s.bytesAt_putLoc p (leBytes n x) hq
    rw [leBytes_length] at hput hcopy
    refine ⟨fun q hq => ?_, fun q hq => (hb q).trans (hput q hq)⟩
    rw [State.bytesAt_congr hb]
    exact hcopy q hq

end

/-! ### The two instructions -/

section
variable {s u : State} {sp : Space} {va : Word} {d b : Reg5} {o : Order} {w : Bool} {p : Place}

theorem State.reflex_check {acc : Acc} {inf : AddrInfo} {is : List Item} {ls : List Loc} (h : s.check sp acc inf is = .ok (ls, u)) :
    u.reflex = s.reflex := by
  rw [State.reflex, (State.check_frame h).1]
  rfl

theorem State.defers_check {acc : Acc} {inf : AddrInfo} {is : List Item} {ls : List Loc} (h : s.check sp acc inf is = .ok (ls, u)) :
    u.defers sp o = s.defers sp o := by
  rw [State.defers, State.check_eager h, State.reflex_check h]
  rfl

theorem noWindow_ok {inf : AddrInfo} {l : Loc} (hp : l.place = some p) (h : ∀ a, p ≠ .host a ∧ p ≠ .peer a) :
    noWindow inf [l] = .ok () := by
  unfold noWindow
  rw [firstBad_one, hp]
  cases p with
  | host a => exact absurd rfl (h a).1
  | peer a => exact absurd rfl (h a).2
  | core _ _ | dram _ | sram _ | tbuf _ _ => rfl

theorem atomicCheck_reach {n e : Nat} (hcheck : s.check sp .rmw { write := true } (oneItem va n) = .ok ([⟨⟨0, va, va, n, n⟩, some p, e⟩], u))
    (hcalm : u.calm) (hwin : ∀ a, p ≠ .host a ∧ p ≠ .peer a) :
    atomicCheck s sp va n = .ok ([⟨⟨0, va, va, n, n⟩, some p, e⟩], u) := by
  unfold atomicCheck
  rw [hcheck]
  change (noWindow { write := true } [⟨⟨0, va, va, n, n⟩, some p, e⟩] >>= fun _ => u.clearOf _ >>= fun _ => _) = _
  rw [noWindow_ok rfl hwin, State.clearOf_calm hcalm]
  rfl

/-- The request of a reduction that is performed later. -/
def State.reduction (u : State) (va : Word) (p : Place) (e : Nat) (op : AmoOp) (n bv : Nat) : Flight :=
  .mem u.cur.core u.cur.ctx va.toNat p.addr e (.amo op n (BitVec.ofNat 64 bv)) .travelling ⟨u.me.vf, u.my.pc, u.my.replay⟩

/-- A reduction that the model performs later (log 26). -/
theorem isReduction_defers (s : State) (sp : Space) (d : Reg5) (o : Order) :
    (isReduction d.toNat o && s.defers sp o) = (s.defers sp o && d == 0) := by
  have hd : (d.toNat == 0) = (d == 0) := by
    rw [Bool.eq_iff_iff, beq_iff_eq, beq_iff_eq]
    exact ⟨fun h => BitVec.eq_of_toNat_eq h, fun h => by rw [h]; rfl⟩
  rw [isReduction, hd, State.defers]
  cases d == 0 <;> cases o == .rlx <;> simp

theorem State.order_of_defers (h : s.defers sp o = true) : o = .rlx := by
  simp only [State.defers, Bool.and_eq_true, beq_iff_eq] at h
  exact h.1.2

theorem State.sendAtomic_reach (u : State) (o : Order) (it : Item) (p : Place) (e : Nat) (act : Place → Nat → ScAct)
    (perform : Except Stop State) : u.sendAtomic o [⟨it, some p, e⟩] act perform =
      if u.sendsSc o then .ok (u.discardAhead.sendSc (act p e) 1) else perform := by
  unfold State.sendAtomic
  cases u.sendsSc o <;> rfl

theorem State.locBytes_word (u : State) (va : Word) (n e : Nat) (p : Place) :
    leNat (([⟨⟨0, va, va, n, n⟩, some p, e⟩] : List Loc).map u.locBytes).flatten = u.numAt p n :=
  congrArg leNat (List.append_nil (u.bytesAt p n))

theorem amoAt_reach (op : AmoOp) (hreach : s.reach sp .rmw { write := true } va (atomicBytes w) p u) (hcalm : u.calm)
    (hwin : ∀ a, p ≠ .host a ∧ p ≠ .peer a) (hgood : u.poisonedIn p (atomicBytes w) = false) :
    let n := atomicBytes w
    let bv := lowBits (s.getG b) n
    ∃ e, amoAt s sp va d b op o w = s.keeping sp .rmw (oneItem va n) (u.atomic p n d o (.amo va p e op n d.toNat bv)
      (if u.defers sp o && d == 0 then some (u.reduction va p e op n bv) else none) fun old => some (amoNew op n old bv)) := by
  obtain ⟨e, hcheck⟩ := hreach
  refine ⟨e, ?_⟩
  unfold amoAt
  dsimp only
  rw [atomicCheck_reach hcheck hcalm hwin]
  change s.keeping sp .rmw _ (if isReduction d.toNat o && false then _ else _) = _
  rw [Bool.and_false]
  change s.keeping sp .rmw _ (u.consume 0 _ >>= fun _ => u.sendAtomic o _ _ _) = _
  rw [consume_good 0 rfl hgood]
  congr 1
  change u.sendAtomic o _ _ _ = _
  rw [State.sendAtomic_reach, isReduction_defers, ← State.defers_check hcheck, State.atomic]
  by_cases hlater : (u.defers sp o && d == 0) = true
  · obtain rfl : o = .rlx := State.order_of_defers (Bool.and_eq_true_iff.mp hlater).1
    simp only [if_pos hlater]
    rfl
  · simp only [if_neg hlater, State.locBytes_word]
    rfl

/-- What a CAS does to a word: compared with x, replaced by y. -/
def casNext (x y old : Nat) : Option Nat := if old = x then some y else none

theorem casNext_isSome (x y old : Nat) : (casNext x y old).isSome = (old == x) := by
  unfold casNext
  split
  · next h => rw [beq_iff_eq.mpr h]; rfl
  · next h => rw [beq_eq_false_iff_ne.mpr h]; rfl

theorem State.replaced_cas (v : State) (n x y : Nat) :
    v.replaced p n (casNext x y) = if v.numAt p n == x then v.putLoc p (leBytes n y) else v := by
  unfold State.replaced casNext
  by_cases h : v.numAt p n = x
  · rw [if_pos h, if_pos (beq_iff_eq.mpr h)]
  · rw [if_neg h, if_neg (by rwa [beq_iff_eq])]

theorem casRead_reach {n e : Nat} (hcheck : s.check sp .rmw { write := true } (oneItem va n) = .ok ([⟨⟨0, va, va, n, n⟩, some p, e⟩], u))
    (hcalm : u.calm) (hwin : ∀ a, p ≠ .host a ∧ p ≠ .peer a) (hgood : u.poisonedIn p n = false) :
    casRead s sp va n = .ok (u.numAt p n, [⟨⟨0, va, va, n, n⟩, some p, e⟩], u) := by
  unfold casRead
  rw [atomicCheck_reach hcheck hcalm hwin]
  change (u.consume 0 _ >>= fun _ => _) = _
  rw [consume_good 0 rfl hgood]
  exact congrArg (fun k => Except.ok (k, _)) (State.locBytes_word ..)

theorem State.gate_sameBytes {s v : State} {o : Order} (h : s.gate o = .ok v) : s.sameBytes v := fun q => by
  rw [State.gate_eq h]
  exact s.byteAt_of_eq q

theorem casAt_reach (f : CasFail) (hreach : s.reach sp .rmw { write := true } va (atomicBytes w) p u) (hcalm : u.calm)
    (hwin : ∀ a, p ≠ .host a ∧ p ≠ .peer a) (hgood : u.poisonedIn p (atomicBytes w) = false) :
    let n := atomicBytes w
    let next := casNext (lowBits (s.getG d) n) (lowBits (s.getG b) n)
    ∃ e, casAt s sp va d b f o w = s.keeping sp .rmw (oneItem va n) (u.atomic p n d (casOrder f o (next (u.numAt p n)).isSome)
      (.cas va p e n d.toNat (lowBits (s.getG d) n) (lowBits (s.getG b) n)) none next) := by
  obtain ⟨e, hcheck⟩ := hreach
  refine ⟨e, ?_⟩
  unfold casAt
  dsimp only
  rw [casRead_reach hcheck hcalm hwin hgood, casNext_isSome]
  generalize atomicBytes w = n at *
  congr 1
  change u.sendAtomic (casOrder f o (u.numAt p n == lowBits (s.getG d) n)) _ _ _ = _
  rw [State.sendAtomic_reach, State.atomic]
  cases hgate : u.gate (casOrder f o (u.numAt p n == lowBits (s.getG d) n)) with
  | error x =>
    rfl
  | ok v =>
    have hsame : v.numAt p n = u.numAt p n := State.numAt_congr (State.gate_sameBytes hgate) p n
    change (if _ then _ else Except.ok _) = if _ then _ else Except.ok _
    rw [State.replaced_cas, hsame]
    rfl

end

end Sys2Proof.Machine
end

section
/-! PROOF. What AMO and CAS leave (R132-R134, R257, R312). -/

namespace Sys2Proof.Machine

open Sys2Proof

set_option Elab.async false

/-- The SC operation that an atomic is sent as. -/
def State.atomicAct (s : State) (i : Instr) (c : ScalarAcc) (d : Reg5) (p : Place) (e : Nat) : ScAct :=
  match i with
  | .amo _ _ b op _ _ | .amoLocal _ _ b op _ _ _ => .amo c.va p e op c.n d.toNat ((s.getG b).toNat % 2 ^ (8 * c.n))
  | .cas _ _ b _ _ _ | .casLocal _ _ b _ _ _ _ =>
    .cas c.va p e c.n d.toNat ((s.getG d).toNat % 2 ^ (8 * c.n)) ((s.getG b).toNat % 2 ^ (8 * c.n))
  | _ => .issue

/-- The request that an atomic sets out as, where the model performs it later (log 26). -/
def State.atomicOut (s u : State) (i : Instr) (c : ScalarAcc) (d : Reg5) (p : Place) (e : Nat) : Option Flight :=
  match amoOf i with
  | some (op, b) => if u.defers c.sp c.o && d == 0 then some (u.reduction c.va p e op c.n ((s.getG b).toNat % 2 ^ (8 * c.n))) else none
  | none => none

section
variable {i : Instr} {s u : State} {c : ScalarAcc} {d : Reg5} {f : Nat → Option Nat} {p : Place}

theorem State.run_keeping_ok {s t : State} {sp : Space} {acc : Acc} {is : List Item} {r b : Except Stop State}
    (hr : r = s.keeping sp acc is b) (hb : b = .ok t) : s.run r = .next t := by
  rw [hr, hb]
  rfl

theorem exec_atomic (h : atomicRule s i = some (c, d, f)) (hreach : s.reach c.sp .rmw { write := true } c.va c.n p u) (hcalm : u.calm)
    (hwin : ∀ a, p ≠ .host a ∧ p ≠ .peer a) (hgood : u.poisonedIn p c.n = false) :
    ∃ e, ∀ t, u.atomic p c.n d (atomicOrder i c.o (f (u.numAt p c.n)).isSome) (s.atomicAct i c d p e) (s.atomicOut u i c d p e) f = .ok t →
      exec i s = .next t := by
  cases i with
  | amo d' a b op o w =>
    cases h
    obtain ⟨e, hat⟩ := amoAt_reach (d := d) (b := b) (o := o) op hreach hcalm hwin hgood
    exact ⟨e, fun t ht => State.run_keeping_ok hat ht⟩
  | amoLocal d' a b op o w ptr =>
    cases ptr <;> cases h
    all_goals
      obtain ⟨e, hat⟩ := amoAt_reach (d := d) (b := b) (o := o) op hreach hcalm hwin hgood
      exact ⟨e, fun t ht => State.run_keeping_ok hat ht⟩
  | cas d' a b fail o w =>
    cases h
    obtain ⟨e, hat⟩ := casAt_reach (d := d) (b := b) (o := o) fail hreach hcalm hwin hgood
    exact ⟨e, fun t ht => State.run_keeping_ok hat ht⟩
  | casLocal d' a b fail o w ptr =>
    cases ptr <;> cases h
    all_goals
      obtain ⟨e, hat⟩ := casAt_reach (d := d) (b := b) (o := o) fail hreach hcalm hwin hgood
      exact ⟨e, fun t ht => State.run_keeping_ok hat ht⟩
  | _ => cases h

theorem State.movesOn_of_along {s w t : State} {len : Nat} (h : s.Along w) (hw : w.movesOn t len) : s.movesOn t len := by
  intro hr
  rw [hw (h.my.replay.trans hr), h.my.pc]

variable (h : atomicRule s i = some (c, d, f)) (hreach : s.reach c.sp .rmw { write := true } c.va c.n p u) (hcalm : u.calm)
  (hwin : ∀ a, p ≠ .host a ∧ p ≠ .peer a) (hgood : u.poisonedIn p c.n = false)
include h hreach hcalm hwin hgood

theorem exec_atomic_performed {v : State} (hsends : u.sendsSc (atomicOrder i c.o (f (u.numAt p c.n)).isSome) = false)
    (hgate : u.gate (atomicOrder i c.o (f (u.numAt p c.n)).isSome) = .ok v)
    (hnow : (u.defers c.sp c.o && d == 0 && (amoOf i).isSome) = false) :
    ∃ t, exec i s = .next t ∧ t.getG d = (if d = 0 then 0 else BitVec.ofNat 64 (v.numAt p c.n)) ∧
      (match f (v.numAt p c.n) with
        | some x => (∀ q ∈ v.copies p, t.bytesAt q c.n = leBytes c.n x) ∧ v.sameBytesOff t (v.copies p) c.n
        | none => v.sameBytes t) ∧
      (∀ r : Reg5, r ≠ d → t.getG r = v.getG r) ∧ (∀ r, t.getP r = v.getP r) ∧
      (∀ r, t.getV r = v.getV r) ∧ (∀ r, t.getA r = v.getA r) ∧ v.movesOn t 1 ∧ t.my.sysr 0x030 = t.my.pc := by
  obtain ⟨e, hexec⟩ := exec_atomic h hreach hcalm hwin hgood
  have hout : s.atomicOut u i c d p e = none := by
    unfold State.atomicOut
    cases hop : amoOf i with
    | none => rfl
    | some x =>
      rw [hop, Option.isSome_some, Bool.and_true] at hnow
      exact if_neg (by rw [hnow]; decide)
  rw [hout] at hexec
  have hexec := hexec _ (State.atomic_performed hsends hgate)
  generalize atomicOrder i c.o (f (u.numAt p c.n)).isSome = o at hexec
  have hw : v.Along ((v.replaced p c.n f).acquired o) := (v.along_replaced).trans (State.along_acquired _ o)
  refine ⟨_, hexec, ?_, ?_, fun r hr => ?_, fun r => ?_, fun r => ?_, fun r => ?_, ?_, State.regionpc_sent _ 1⟩
  · rw [State.getG_sent, State.getG_setG]
    by_cases hd : d = 0
    · rw [if_neg fun hh => hh.2 hd, if_pos hd, hd]; rfl
    · rw [if_pos ⟨rfl, hd⟩, if_neg hd]
  · refine v.replaced_bytes _ fun q => ?_
    rw [State.byteAt_sent, State.byteAt_setG, State.byteAt_acquired]
  · rw [State.getG_sent, State.getG_setG, if_neg fun hh => hr hh.1, hw.getG]
  · rw [State.getP_sent, State.getP, State.my_setG, Ctx.getP_setG]
    exact hw.getP r
  · rw [State.getV_sent, State.getV, State.my_setG, Ctx.getV_setG]
    exact hw.getV r
  · rw [State.getA_sent, State.getA, State.my_setG, Ctx.getA_setG]
    exact hw.getA r
  · exact State.movesOn_sent_of (by rw [State.my_setG, Ctx.setG_pc, hw.my.pc]) (by rw [State.my_setG, Ctx.replay_setG, hw.my.replay]) 1

theorem exec_atomic_deferred {op : AmoOp} {b : Reg5} (hsends : u.sendsSc (atomicOrder i c.o (f (u.numAt p c.n)).isSome) = false)
    (hlater : (u.defers c.sp c.o && d == 0 && (amoOf i).isSome) = true) (hop : amoOf i = some (op, b)) :
    ∃ t e, exec i s = .next t ∧ t.flight = u.flight ++ [.mem u.cur.core u.cur.ctx c.va.toNat p.addr e
        (.amo op c.n (BitVec.ofNat 64 ((s.getG b).toNat % 2 ^ (8 * c.n)))) .travelling ⟨u.me.vf, u.my.pc, u.my.replay⟩] ∧
      u.sameBytes t ∧ (∀ r, t.getG r = u.getG r) ∧ u.movesOn t 1 ∧ t.my.sysr 0x030 = t.my.pc := by
  obtain ⟨e, hexec⟩ := exec_atomic h hreach hcalm hwin hgood
  rw [hop, Option.isSome_some, Bool.and_true] at hlater
  have hout : s.atomicOut u i c d p e = some (u.reduction c.va p e op c.n ((s.getG b).toNat % 2 ^ (8 * c.n))) := by
    unfold State.atomicOut
    rw [hop]
    exact if_pos hlater
  have horder : atomicOrder i c.o (f (u.numAt p c.n)).isSome = .rlx := by
    have ho := State.order_of_defers (Bool.and_eq_true_iff.mp hlater).1
    cases i with
    | amo | amoLocal => exact ho
    | _ => cases hop
  rw [hout] at hexec
  have hexec := hexec _ (State.atomic_out hsends (by rw [horder]; rfl))
  have hw := u.along_fly [u.reduction c.va p e op c.n ((s.getG b).toNat % 2 ^ (8 * c.n))]
  refine ⟨_, e, hexec, State.flight_sent _ 1, fun q => ?_, fun r => ?_, hw.movesOn_sent 1, State.regionpc_sent _ 1⟩
  · rw [State.byteAt_sent, State.byteAt_fly]
  · rw [State.getG_sent, hw.getG]

theorem exec_atomic_sent (hsends : u.sendsSc (atomicOrder i c.o (f (u.numAt p c.n)).isSome) = true) :
    ∃ t o e, exec i s = .next t ∧ o ∈ t.sc ∧ o.core = s.cur.core ∧ o.ctx = s.cur.ctx ∧ o.ready = false ∧ t.my.run = .holding ∧
      u.sameBytes t ∧ (∀ r, t.getG r = u.getG r) ∧ u.movesOn t 1 ∧ t.my.sysr 0x030 = t.my.pc ∧ o.act = s.atomicAct i c d p e := by
  obtain ⟨e, hexec⟩ := exec_atomic h hreach hcalm hwin hgood
  obtain ⟨_, hcheck⟩ := hreach
  have hcur : u.discardAhead.cur = s.cur := u.along_discardAhead.cur.trans (State.check_frame hcheck).1
  have hexec := hexec _ (State.atomic_sent hsends)
  obtain ⟨o, ho, hcore, hctx, hact, hready⟩ := u.discardAhead.sendSc_mem (s.atomicAct i c d p e) 1
  rw [hcur] at hcore hctx
  refine ⟨_, o, e, hexec, ho, hcore, hctx, hready, State.sendSc_run _ _ 1, fun q => ?_, fun r => ?_, ?_, State.sendSc_regionpc _ _ 1, hact⟩
  · rw [State.byteAt_sendSc, State.byteAt_discardAhead]
  · rw [State.sendSc_getG, u.along_discardAhead.getG]
  · exact State.movesOn_of_along u.along_discardAhead (State.sendSc_movesOn _ _ 1)

end

end Sys2Proof.Machine
end

section
/-! PROOF. AMOF: the word, its old value in the cell, and the arrival (R134, R135, R312). -/

namespace Sys2Proof.Machine

open Sys2Proof

set_option Elab.async false

/-! ### Bytes of core memory apart from those written -/

/-- A run of bytes of a core's memory that a write to another run, or another core, leaves. -/
theorem State.bytesAt_putCore_out (s : State) {core off m a k : Nat} {bs : List Byte}
    (h : m ∉ s.pairCores core ∨ off + bs.length ≤ a ∨ a + k ≤ off) :
    (s.putCore core off bs).bytesAt (.core m a) k = s.bytesAt (.core m a) k := by
  refine bytesAt_eq_of_byteAt fun i hi => s.byteAt_putCore_out fun c hc j hj he => ?_
  obtain ⟨rfl, hoff⟩ := Place.core.inj he
  rcases h with h | h | h
  · exact h hc
  · omega
  · omega

theorem State.Rewritten.pairCores {s t : State} (h : s.Rewritten t) (n : Nat) : t.pairCores n = s.pairCores n := by
  rw [State.pairCores, (h.core n).pair, State.pairCores]

theorem State.Rewritten.pairHead {s t : State} (h : s.Rewritten t) (n : Nat) : t.pairHead n = s.pairHead n := by
  rw [State.pairHead, (h.core n).pair, State.pairHead]

theorem State.pairHead_mem (s : State) (n : Nat) : s.pairHead n ∈ s.pairCores n := by
  unfold State.pairHead State.pairCores
  split
  · exact List.mem_cons_self ..
  · exact List.mem_singleton_self _

theorem State.Alike.pairCores {s t : State} (h : s.Alike t) (n : Nat) : t.pairCores n = s.pairCores n := by
  rw [State.pairCores, h.pair, State.pairCores]

theorem State.Alike.pairHead {s t : State} (h : s.Alike t) (n : Nat) : t.pairHead n = s.pairHead n := by
  rw [State.pairHead, h.pair, State.pairHead]

/-! ### The operation performed -/

/-- The word and the cell of an AMOF share no byte. -/
def State.amofApart (s : State) (c off n dc doff : Nat) : Prop :=
  (∀ q ∈ s.pairCores c, q ∉ s.pairCores dc) ∨ off + n ≤ doff ∨ doff + 16 ≤ off

section
variable (s : State) (c off : Nat) (op : AmoOp) (n x dc doff : Nat)

theorem State.rewritten_amofPerform : s.Rewritten (s.amofPerform c off op n x dc doff) :=
  ((s.rewritten_putCore c off _).trans (State.rewritten_putCore _ dc doff _)).trans (State.rewritten_putCore _ dc (doff + 8) _)

/-- The writes of an AMOF, one by one. -/
theorem State.amofPerform_eq : ∃ a b k, a = s.putCore c off (leBytes n (amoNew op n (s.numAt (.core (s.pairHead c) off) n) x)) ∧
    b = a.putCore dc doff (leBytes 8 (s.numAt (.core (s.pairHead c) off) n)) ∧ k = b.numAt (.core (s.pairHead dc) (doff + 8)) 8 + 1 ∧
    s.amofPerform c off op n x dc doff = b.putCore dc (doff + 8) (leBytes 8 k) ∧
    (∀ m, a.pairCores m = s.pairCores m) ∧ ∀ m, b.pairCores m = s.pairCores m := by
  have ha := s.rewritten_putCore c off (leBytes n (amoNew op n (s.numAt (.core (s.pairHead c) off) n) x))
  have hb := ha.trans (State.rewritten_putCore _ dc doff (leBytes 8 (s.numAt (.core (s.pairHead c) off) n)))
  refine ⟨_, _, _, rfl, rfl, rfl, ?_, ha.pairCores, hb.pairCores⟩
  rw [← hb.pairHead dc]
  rfl

variable {s c off op n x dc doff}

theorem State.amofPerform_word (hapart : s.amofApart c off n dc doff) {q : Nat} (hq : q ∈ s.pairCores c) :
    (s.amofPerform c off op n x dc doff).bytesAt (.core q off) n = leBytes n (amoNew op n (s.numAt (.core (s.pairHead c) off) n) x) := by
  obtain ⟨a, b, k, ha, hb, -, ht, hcores, hcores'⟩ := s.amofPerform_eq c off op n x dc doff
  have hout : ∀ d l, (d = doff ∧ l = 8 ∨ d = doff + 8 ∧ l = 8) → q ∉ s.pairCores dc ∨ d + l ≤ off ∨ off + n ≤ d := by
    intro d l hd
    rcases hapart with h | h | h
    · exact .inl (h q hq)
    · exact .inr (.inr (by omega))
    · exact .inr (.inl (by omega))
  have hcell := hout doff 8 (.inl ⟨rfl, rfl⟩)
  have hcount := hout (doff + 8) 8 (.inr ⟨rfl, rfl⟩)
  rw [ht, State.bytesAt_putCore_out b (by rw [hcores', leBytes_length]; exact hcount), hb,
    State.bytesAt_putCore_out a (by rw [hcores, leBytes_length]; exact hcell), ha]
  have hword := s.bytesAt_putCore c off (leBytes n (amoNew op n (s.numAt (.core (s.pairHead c) off) n) x)) hq
  rwa [leBytes_length] at hword

theorem State.amofPerform_old (hn : n ≤ 8) {q : Nat} (hq : q ∈ s.pairCores dc) :
    (s.amofPerform c off op n x dc doff).numAt (.core q doff) 8 = s.numAt (.core (s.pairHead c) off) n := by
  obtain ⟨a, b, k, ha, hb, -, ht, hcores, -⟩ := s.amofPerform_eq c off op n x dc doff
  have hlt : s.numAt (.core (s.pairHead c) off) n < 256 ^ 8 := Nat.lt_of_lt_of_le (s.numAt_lt _ n) (Nat.pow_le_pow_right (by omega) hn)
  have hput := a.bytesAt_putCore dc doff (leBytes 8 (s.numAt (.core (s.pairHead c) off) n)) (hcores dc ▸ hq)
  rw [leBytes_length, ← hb] at hput
  rw [State.numAt, ht, State.bytesAt_putCore_out b (.inr (.inr (Nat.le_refl _))), hput, leNat_leBytes, Nat.mod_eq_of_lt hlt]

theorem State.amofPerform_count (hapart : s.amofApart c off n dc doff) {q : Nat} (hq : q ∈ s.pairCores dc) :
    (s.amofPerform c off op n x dc doff).numAt (.core q (doff + 8)) 8 =
      (s.numAt (.core (s.pairHead dc) (doff + 8)) 8 + 1) % 2 ^ 64 := by
  obtain ⟨a, b, k, ha, hb, hk, ht, hcores, hcores'⟩ := s.amofPerform_eq c off op n x dc doff
  have hput := b.bytesAt_putCore dc (doff + 8) (leBytes 8 k) (hcores' dc ▸ hq)
  rw [leBytes_length] at hput
  have hword : s.pairHead dc ∉ s.pairCores c ∨ off + n ≤ doff + 8 ∨ doff + 8 + 8 ≤ off := by
    rcases hapart with h | h | h
    · exact .inl fun hc => h _ hc (s.pairHead_mem dc)
    · exact .inr (.inl (by omega))
    · exact .inr (.inr (by omega))
  have hkept : b.numAt (.core (s.pairHead dc) (doff + 8)) 8 = s.numAt (.core (s.pairHead dc) (doff + 8)) 8 := by
    rw [State.numAt, hb, State.bytesAt_putCore_out a (.inr (.inl (by rw [leBytes_length]))), ha,
      State.bytesAt_putCore_out s (by rw [leBytes_length]; exact hword), State.numAt]
  rw [State.numAt, ht, hput, leNat_leBytes, hk, hkept]
  rfl

theorem State.amofPerform_byte {q : Place} (hword : ∀ m ∈ s.pairCores c, ∀ k < n, q ≠ .core m (off + k))
    (hcell : ∀ m ∈ s.pairCores dc, ∀ k < 16, q ≠ .core m (doff + k)) :
    (s.amofPerform c off op n x dc doff).byteAt q = s.byteAt q := by
  obtain ⟨a, b, k, ha, hb, -, ht, hcores, hcores'⟩ := s.amofPerform_eq c off op n x dc doff
  have hcount : ∀ m ∈ b.pairCores dc, ∀ j < (leBytes 8 k).length, q ≠ .core m (doff + 8 + j) := by
    intro m hm j hj
    rw [leBytes_length] at hj
    rw [Nat.add_assoc]
    exact hcell m (hcores' dc ▸ hm) (8 + j) (by omega)
  have hold : ∀ m ∈ a.pairCores dc, ∀ j < (leBytes 8 (s.numAt (.core (s.pairHead c) off) n)).length, q ≠ .core m (doff + j) := by
    intro m hm j hj
    rw [leBytes_length] at hj
    exact hcell m (hcores dc ▸ hm) j (by omega)
  rw [ht, b.byteAt_putCore_out hcount, hb, a.byteAt_putCore_out hold, ha, s.byteAt_putCore_out (by rw [leBytes_length]; exact hword)]

end

end Sys2Proof.Machine
end

section
/-! PROOF. AMOF at its issue, and the whole of O16 (R132-R135). -/

namespace Sys2Proof.Machine

open Sys2Proof

set_option Elab.async false

theorem firstBad_none {α : Type} {l : List α} {bad : α → Option Stop} (h : ∀ a ∈ l, bad a = none) : firstBad l bad = .ok () := by
  unfold firstBad
  rw [List.findSome?_eq_none_iff.mpr h]

/-- A word or a cell through a valid pointer passes the checks of an AMOF, in any phase (R135). -/
theorem State.checkDist_exempt {s : State} {inf : AddrInfo} {is : List Item} (hr : s.reflex = false)
    (h : ∀ i ∈ is, ptrOk s.rect i.va i.n = true ∧ i.al ≠ 0 ∧ ptrOff i.va % i.al = 0) :
    s.checkDist inf is true = .ok (is.map fun i => ⟨i, some (.core (s.namedCore i.va) (ptrOff i.va)), 0⟩, s) := by
  unfold State.checkDist
  dsimp only
  rw [firstBad_none fun i hi => if_neg ?_]
  · change (firstBad is _ >>= fun _ => firstBad is _ >>= fun _ => _) = _
    rw [firstBad_none fun i hi => if_neg ?_]
    · change (firstBad is _ >>= fun _ => _) = _
      rw [firstBad_none fun i _ => if_neg ?_]
      · rfl
      · exact Bool.false_ne_true
    · obtain ⟨-, hal, hoff⟩ := h i hi
      rw [not_or, not_not]
      exact ⟨hal, hoff⟩
  · rw [hr, (h i hi).1]
    decide

section
variable {s : State} {d a : Reg3} {b : Reg5} {op : AmoOp} {o : Order} {w : Bool}

/-- The request of an AMOF that sets out (log 26). -/
def State.amofRequest (s : State) (d a : Reg3) (op : AmoOp) (n x : Nat) (o : Order) : Flight :=
  .amof s.cur.core s.cur.ctx (s.namedCore (s.getA a)) (ptrOff (s.getA a)) op n (BitVec.ofNat 64 x) (s.namedCore (s.getA d))
    (ptrOff (s.getA d)) (Order.acquires o)

/-- An AMOF past its gate: performed, or set out (log 26). -/
def State.amofIssued (s v : State) (d a : Reg3) (op : AmoOp) (n x : Nat) (o : Order) : State :=
  if (s.eager ∧ s.performed) ∨ o = .sc
  then (v.acquired o).amofPerform (s.namedCore (s.getA a)) (ptrOff (s.getA a)) op n x (s.namedCore (s.getA d)) (ptrOff (s.getA d))
  else v.fly [s.amofRequest d a op n x o]

theorem exec_amof (hr : s.reflex = false) (hword : ptrOk s.rect (s.getA a) (atomicBytes w) = true)
    (hal : ptrOff (s.getA a) % atomicBytes w = 0) (hcell : ptrOk s.rect (s.getA d) 16 = true) (hcal : ptrOff (s.getA d) % 16 = 0)
    (hgood : s.poisonedIn (.core (s.pairHead (s.namedCore (s.getA a))) (ptrOff (s.getA a))) (atomicBytes w) = false) :
    let n := atomicBytes w
    let x := lowBits (s.getG b) n
    exec (.amof d a b op o w) s = s.run (if s.sendsSc o then .ok (s.discardAhead.sendSc
        (.amof (s.namedCore (s.getA a)) (ptrOff (s.getA a)) op n x (s.namedCore (s.getA d)) (ptrOff (s.getA d))) 1)
      else s.gate o >>= fun v => .ok ((s.amofIssued v d a op n x o).sent 1)) := by
  have hn : atomicBytes w ≠ 0 := by cases w <;> decide
  have hcheck := s.checkDist_exempt (inf := { write := true }) hr
    (is := [⟨0, s.getA a, s.getA a, atomicBytes w, atomicBytes w⟩, ⟨0, s.getA d, s.getA d, 16, 16⟩])
    (List.forall_mem_cons.mpr ⟨⟨hword, hn, hal⟩, List.forall_mem_singleton.mpr ⟨hcell, Nat.succ_ne_zero 15, hcal⟩⟩)
  change execAmof d a b op o w s = _
  unfold execAmof
  dsimp only
  rw [hcheck]
  change s.run (s.consume 0 _ >>= fun _ => _) = _
  rw [consume_good 0 rfl hgood]
  rfl

theorem State.alike_acquired (s : State) (o : Order) : s.Alike (s.acquired o) := by
  have hrefl : s.Alike s := ⟨fun _ => rfl, rfl, fun _ => rfl⟩
  unfold State.acquired
  split
  · rcases s.discardAhead_cases with ⟨-, h⟩ | h <;> rw [h]
    · exact hrefl
    · exact s.alike_setMy _
  · exact hrefl

theorem State.Alike.trans {s t u : State} (h : s.Alike t) (h' : t.Alike u) : s.Alike u :=
  ⟨fun q => (h'.bytes q).trans (h.bytes q), h'.cur.trans h.cur, fun n => (h'.pair n).trans (h.pair n)⟩

theorem State.gate_alike {v : State} (h : s.gate o = .ok v) : s.Alike v :=
  ⟨State.gate_sameBytes h, State.gate_field h State.cur, fun n => State.gate_field h fun s => (s.core n).pair⟩

theorem State.gate_along {v : State} (h : s.gate o = .ok v) : s.Along v :=
  State.keepsMy.along ⟨State.gate_field h State.cur, State.gate_field h State.my⟩

theorem State.along_amofIssued {v : State} (h : s.gate o = .ok v) (n x : Nat) : s.Along (s.amofIssued v d a op n x o) := by
  unfold State.amofIssued
  split
  · exact (State.gate_along h).trans ((v.along_acquired o).trans (State.rewritten_amofPerform ..).along)
  · exact (State.gate_along h).trans (v.along_fly _)

/-- An AMOF that is performed, in a state alike, changes the word, the cell and no other byte. -/
theorem amofPerform_effect {v t : State} {c off n x dc doff : Nat} (hv : s.Alike v) (hn : n ≤ 8)
    (ht : ∀ q, t.byteAt q = (v.amofPerform c off op n x dc doff).byteAt q) :
    let old := s.numAt (.core (s.pairHead c) off) n
    (s.amofApart c off n dc doff →
      (∀ q ∈ s.pairCores c, t.bytesAt (.core q off) n = leBytes n (amoNew op n old x)) ∧
      (∀ q ∈ s.pairCores dc, t.numAt (.core q doff) 8 = old ∧
        t.numAt (.core q (doff + 8)) 8 = (s.numAt (.core (s.pairHead dc) (doff + 8)) 8 + 1) % 2 ^ 64) ∧
      (∀ q, (∀ m ∈ s.pairCores c, ∀ k < n, q ≠ .core m (off + k)) → (∀ m ∈ s.pairCores dc, ∀ k < 16, q ≠ .core m (doff + k)) →
        t.byteAt q = s.byteAt q)) := by
  dsimp only
  intro hapart
  have hcores := hv.pairCores
  have hnum : ∀ m k l, v.numAt (.core (v.pairHead m) k) l = s.numAt (.core (s.pairHead m) k) l := fun m k l => by
    rw [hv.pairHead, State.numAt_congr hv.bytes]
  have hvapart : v.amofApart c off n dc doff := by
    unfold State.amofApart
    rw [hcores, hcores]
    exact hapart
  rw [← hcores c, ← hcores dc, ← hnum c off n, ← hnum dc (doff + 8) 8]
  refine ⟨fun q hq => ?_, fun q hq => ⟨?_, ?_⟩, fun q hword hcell => ?_⟩
  · rw [State.bytesAt_congr ht, State.amofPerform_word hvapart hq]
  · rw [State.numAt_congr ht, State.amofPerform_old hn hq]
  · rw [State.numAt_congr ht, State.amofPerform_count hvapart hq]
  · rw [ht, State.amofPerform_byte hword hcell, hv.bytes]

end

/-- Settles O16: the checked word makes each atomic a send, a request or a performed operation, and each is its clause. -/
theorem atomics : Obligations.Atomics := by
  unfold Obligations.Atomics
  refine ⟨?_, ?_⟩
  · intro i s u c d f p h hreach hcalm hwin hgood
    refine ⟨fun v hsends hgate _ hnow => ?_, fun op b hsends hlater hop => ?_, fun hsends => ?_⟩
    · exact exec_atomic_performed h hreach hcalm hwin hgood hsends hgate hnow
    · exact exec_atomic_deferred h hreach hcalm hwin hgood hsends hlater hop
    · obtain ⟨t, o, e, hexec, ho, hcore, hctx, hready, hrun, hbytes, hg, hmoves, hregion, hact⟩ :=
        exec_atomic_sent h hreach hcalm hwin hgood hsends
      refine ⟨t, o, hexec, ho, hcore, hctx, hready, hrun, hbytes, hg, hmoves, hregion, e, ?_⟩
      cases i with
      | amo | amoLocal | cas | casLocal => exact hact
      | _ => trivial
  · intro s d a b op o w hr n c off dc doff old x keeps hword hal hcell hcal hgood
    have hn : n ≤ 8 := by
      cases w <;> decide
    have hexec := exec_amof (b := b) (op := op) (o := o) hr hword hal hcell hcal hgood
    refine ⟨fun v hsends hgate => ?_, fun hsends => ?_⟩
    · have hw := State.along_amofIssued (d := d) (a := a) (op := op) hgate n x
      refine ⟨(s.amofIssued v d a op n x o).sent 1, hexec.trans (by rw [hsends, hgate]; rfl),
        ⟨fun r => by rw [State.getG_sent, hw.getG], State.regionpc_sent _ 1, hw.movesOn_sent 1⟩, fun hperf => ?_, fun hlate ho => ?_⟩
      · refine amofPerform_effect ((State.gate_alike hgate).trans (v.alike_acquired o)) hn fun q => ?_
        rw [State.byteAt_sent, State.amofIssued, if_pos hperf]
      · have hnot : ¬((s.eager ∧ s.performed) ∨ o = .sc) := fun h => h.elim (fun h => by simp [h.1, h.2] at hlate) ho
        have hflown : s.amofIssued v d a op n x o = v.fly [s.amofRequest d a op n x o] := if_neg hnot
        obtain rfl := State.gate_same hgate ho
        rw [hflown]
        refine ⟨?_, fun q => ?_⟩
        · rw [State.flight_sent]
          cases o with
          | sc => exact absurd rfl ho
          | rlx | acq | rel | ar => rfl
        · rw [State.byteAt_sent, State.byteAt_fly]
    · obtain ⟨q, hq, hcore, hctx, hact, hready⟩ := s.discardAhead.sendSc_mem (.amof c off op n x dc doff) 1
      rw [s.along_discardAhead.cur] at hcore hctx
      refine ⟨s.discardAhead.sendSc (.amof c off op n x dc doff) 1, q, hexec.trans (by rw [hsends]; rfl),
        ⟨fun r => ?_, State.sendSc_regionpc _ _ 1, ?_⟩, fun r => ?_, ?_, State.sendSc_run _ _ 1, hq, hcore, hctx, hready, hact⟩
      · rw [State.sendSc_getG, s.along_discardAhead.getG]
      · exact State.movesOn_of_along s.along_discardAhead (State.sendSc_movesOn _ _ 1)
      · rw [State.byteAt_sendSc, State.byteAt_discardAhead]
      · rw [State.flight_sendSc, State.flight_discardAhead]

end Sys2Proof.Machine
end

section
/-! PROOF. Vector loads, where no stream is bound (R125). -/

namespace Sys2Proof.Machine

open Sys2Proof

set_option Elab.async false

/-! ### The lanes' accesses (R120, R125) -/

theorem State.laneAddr_eq (s : State) (sp : Space) (a : Reg5) (off : Option Word) (k : Int) : s.laneAddr sp a off k = s.laneAt sp a off k := by
  cases sp with
  | dist => exact (s.pointerAfter_eq _ k).symm
  | glob | loc => rfl

theorem State.laneItems_eq (s : State) (sp : Space) (a : Reg5) (off : Option Word) (x : Option VExt) (eb : Nat) (dist : Nat → Int) :
    s.laneItems sp a off x eb dist = s.laneAccesses eb x fun i => s.laneAt sp a off (dist i) := by
  unfold State.laneItems State.laneAccesses
  simp only [State.laneAddr_eq]

/-- The lanes of the pieces that a check has located. -/
theorem lanes_of_check {s u : State} {sp : Space} {acc : Acc} {inf : AddrInfo} {eb : Nat} {x : Option VExt} {addr : Nat → Word}
    {locs : List Loc} (h : s.check sp acc inf (s.laneAccesses eb x addr) = .ok (locs, u)) :
    locs.map (·.item.lane) = s.lanes x eb ∧ ∀ l ∈ locs, l.item.n = eb ∧ l.item.al = eb := by
  have hitems := State.check_items h
  refine ⟨?_, fun l hl => ?_⟩
  · have hlanes := congrArg (List.map Item.lane) hitems
    rw [State.laneAccesses, List.map_map, List.map_map] at hlanes
    exact hlanes.trans (List.map_id _)
  · have hmem : l.item ∈ s.laneAccesses eb x addr := hitems ▸ List.mem_map_of_mem hl
    obtain ⟨i, -, hi⟩ := List.mem_map.mp hmem
    rw [← hi]
    exact ⟨rfl, rfl⟩

theorem State.lanes_nodup (s : State) (x : Option VExt) (eb : Nat) : (s.lanes x eb).Nodup := List.nodup_range.filter _

theorem State.mem_lanes {s : State} {x : Option VExt} {eb k : Nat} : k ∈ s.lanes x eb ↔ k < 128 / eb ∧ s.laneOn x k = true := by
  rw [State.lanes, List.mem_filter, List.mem_range]

/-! ### The values that the lanes receive -/

/-- A lane receives the number of its piece's bytes. -/
theorem laneValue_of_mem {locs : List Loc} (hnodup : (locs.map (·.item.lane)).Nodup) (f : Loc → List Byte) {l : Loc} (hl : l ∈ locs) :
    laneValue (locs.map (·.item.lane)) (locs.map f) l.item.lane = leNat (f l) := by
  have hfind : ((locs.map (·.item.lane)).zip (locs.map f)).find? (fun e => e.1 == l.item.lane) = some (l.item.lane, f l) := by
    induction locs with
    | nil => cases hl
    | cons m locs ih =>
      rw [List.map_cons, List.nodup_cons] at hnodup
      rw [List.map_cons, List.map_cons, List.zip_cons_cons, List.find?_cons]
      rcases List.mem_cons.mp hl with rfl | hl
      · rw [beq_self_eq_true]
      · have hne : m.item.lane ≠ l.item.lane := fun h => hnodup.1 (h ▸ List.mem_map_of_mem hl)
        rw [beq_eq_false_iff_ne.mpr hne]
        exact ih hnodup.2 hl
  unfold laneValue
  rw [hfind]

theorem State.laneNat_merge (s : State) (x : Option VExt) (eb : Nat) (old : Vec) (f : Nat → Nat) {k : Nat} (hk : k < 128 / eb) :
    laneNat (s.merge x eb old f) eb k =
      (if s.laneOn x k then f k else if zeroing x then 0 else laneNat old eb k) % 2 ^ (8 * eb) := by
  refine laneNat_ofLanes ?_ hk _
  have := Nat.mul_div_le 128 eb
  rw [Nat.mul_assoc]
  omega

theorem State.readItems_ok {s u : State} {sp : Space} {acc : Acc} {inf : AddrInfo} {is : List Item} {locs : List Loc} (kind : Nat)
    (unit : BitVec 4) (hcheck : s.check sp acc inf is = .ok (locs, u)) (hcalm : u.calm)
    (hgood : ∀ l ∈ locs, ∃ p, l.place = some p ∧ u.poisonedIn p l.item.n = false) :
    s.readItems sp acc inf kind unit is = .ok (locs.map u.locBytes, u) := by
  have hplaced : placed locs := fun l hl => by
    obtain ⟨p, hp, -⟩ := hgood l hl
    rw [hp]
    rfl
  have hconsume : u.consume unit locs = .ok () := by
    unfold State.consume firstBad
    rw [List.findSome?_eq_none_iff.mpr]
    intro l hl
    obtain ⟨p, hp, hgood⟩ := hgood l hl
    rw [hp]
    exact if_neg (by rw [hgood]; decide)
  unfold State.readItems
  rw [hcheck]
  change s.keeping sp acc is (holdIfAbsent kind locs >>= fun _ => u.clearOf locs >>= fun _ => u.consume unit locs >>= fun _ => _) = _
  rw [holdIfAbsent_placed hplaced, State.clearOf_calm hcalm, hconsume]
  rfl

theorem State.onlyV_setV (s : State) (d : Nat) (v : Vec) (len : Nat) :
    s.my.onlyV ((s.setMy (s.my.setV d v)).advance len).my d := by
  rw [State.my_advance, State.my_setMy]
  exact ⟨fun r hr => by simp [Ctx.getV_setV_ne _ _ hr], fun r => by simp [Ctx.getG], fun r => by simp [Ctx.getP],
    fun r => by simp [Ctx.getA], fun n _ => by simp [Ctx.sysr], by simp⟩

/-! ### The instructions -/

section
variable {i : Instr} {s u : State} {d : Reg5} {sp : Space} {eb : Nat} {x : Option VExt} {addr : Nat → Word} {locs : List Loc}

/-- What a vector load does with its lanes' bytes. -/
def State.loadLanes (s : State) (d : Reg5) (eb : Nat) (x : Option VExt) (len : Nat) (r : List (List Byte) × State) : Except Stop State :=
  r.2.putV d.toNat (r.2.merge x eb (r.2.getV d) (laneValue (s.lanes x eb) r.1)) >>= fun t => .ok (t.advance len)

theorem vloadForm_unbound {a : Reg5} {dist : State → Nat → Int} {srcs : List Nat} {off : Option Word} {g : Reg3} {len : Nat}
    (hg : s.guardOn g = true) (hs : s.unbound) (hlen : 1 + extWords x + litWords off = len) :
    vloadForm d a sp eb dist srcs off x g s =
      s.run (s.readItems sp .load {} 0 0 (s.laneAccesses eb x fun i => s.laneAt sp a off (dist s i)) >>= s.loadLanes d eb x len) := by
  unfold vloadForm
  rw [State.guarded_on hg, State.pops_unbound hs, hlen]
  change s.run (s.readItems sp .load {} 0 0 (s.laneItems sp a off x eb (dist s)) >>= fun _ => _) = _
  rw [State.laneItems_eq]
  rfl

theorem exec_vload (h : vectorMemRule s i = some (d, false, sp, eb, x, addr)) (hg : s.guardHolds i = true) (hs : s.unbound) :
    exec i s = s.run (s.readItems sp .load {} 0 0 (s.laneAccesses eb x addr) >>= s.loadLanes d eb x (words i)) := by
  cases i with
  | vld d' a sp' off x' g =>
    cases h
    exact vloadForm_unbound hg hs (by cases off <;> cases x <;> rfl)
  | vlds d' a b sp' w off x' g =>
    cases h
    exact vloadForm_unbound hg hs (by cases off <;> cases x <;> rfl)
  | vgth d' a b sp' w off x' g =>
    cases h
    cases w
    all_goals exact vloadForm_unbound hg hs (by cases off <;> cases x <;> rfl)
  | _ => cases h

/-- The element sizes of vector memory instructions (R125). -/
theorem vectorMem_size {st : Bool} (h : vectorMemRule s i = some (d, st, sp, eb, x, addr)) : eb = 2 ∨ eb = 4 := by
  cases i with
  | vld | vst => cases h; exact .inr rfl
  | vlds d' a b sp' w off x' g | vgth d' a b sp' w off x' g | vsct d' a b sp' w off x' g =>
    cases h
    cases w
    · exact .inr rfl
    · exact .inl rfl
  | _ => cases h

theorem exec_vload_lanes (h : vectorMemRule s i = some (d, false, sp, eb, x, addr)) (hg : s.guardHolds i = true) (hs : s.unbound)
    (hcheck : s.check sp .load {} (s.laneAccesses eb x addr) = .ok (locs, u)) (hcalm : u.calm)
    (hgood : ∀ l ∈ locs, ∃ p, l.place = some p ∧ u.poisonedIn p eb = false) :
    ∃ t, exec i s = .next t ∧
      (∀ l ∈ locs, ∀ p, l.place = some p → laneNat (t.getV d) eb l.item.lane = u.numAt p eb) ∧
      (∀ k < 128 / eb, s.laneOn x k = false → laneNat (t.getV d) eb k = if zeroing x then 0 else laneNat (s.getV d) eb k) ∧
      u.my.onlyV t.my d.toNat ∧ u.sameBytes t ∧ u.movesOn t (words i) := by
  obtain ⟨hlanes, hsize⟩ := lanes_of_check hcheck
  obtain ⟨hcur, hmy⟩ := State.check_frame hcheck
  have hread := State.readItems_ok 0 0 hcheck hcalm fun l hl => by rw [(hsize l hl).1]; exact hgood l hl
  have hunbound : u.unbound := fun r => by rw [hmy]; exact hs r
  have hon : ∀ k, u.laneOn x k = s.laneOn x k := fun k => by
    cases x with
    | none => rfl
    | some x => rw [State.laneOn, State.getP, hmy]; rfl
  have hV : u.getV d = s.getV d := by rw [State.getV, hmy]; rfl
  generalize hv : u.merge x eb (u.getV d) (laneValue (s.lanes x eb) (locs.map u.locBytes)) = v
  have hexec : exec i s = .next ((u.setMy (u.my.setV d.toNat v)).advance (words i)) := by
    rw [exec_vload h hg hs, hread]
    change s.run (u.putV d.toNat _ >>= fun t => _) = _
    rw [hv, State.putV_unbound hunbound]
    rfl
  have hget : ((u.setMy (u.my.setV d.toNat v)).advance (words i)).getV d = v := by
    rw [State.getV_advance, State.getV, State.my_setMy, Ctx.getV_setV]
  refine ⟨_, hexec, fun l hl p hp => ?_, fun k hk hoff => ?_, ?_, fun q => ?_, ?_⟩
  · have hlane : l.item.lane ∈ s.lanes x eb := hlanes ▸ List.mem_map_of_mem hl
    obtain ⟨hk, hactive⟩ := State.mem_lanes.mp hlane
    have hlt : u.numAt p eb < 2 ^ (8 * eb) := by
      rw [Nat.pow_mul]
      exact u.numAt_lt p eb
    have hvalue := laneValue_of_mem (hlanes ▸ s.lanes_nodup x eb) u.locBytes hl
    rw [hget, ← hv, State.laneNat_merge _ _ _ _ _ hk, if_pos (by rw [hon, hactive]), ← hlanes, hvalue, State.locBytes, hp, (hsize l hl).1]
    exact Nat.mod_eq_of_lt hlt
  · have hlt : laneNat (s.getV d) eb k < 2 ^ (8 * eb) := Nat.mod_lt _ (by positivity)
    rw [hget, ← hv, State.laneNat_merge _ _ _ _ _ hk, if_neg (by rw [hon, hoff]; decide), hV]
    split
    · exact Nat.zero_mod _
    · exact Nat.mod_eq_of_lt hlt
  · exact u.onlyV_setV d.toNat v _
  · rw [State.byteAt_advance, State.byteAt_setMy]
  · exact u.movesOn_advance (x := u.my.setV d.toNat v) rfl rfl _

end

end Sys2Proof.Machine
end

section
/-! SUPPORT. The pieces of a store, one after the other: performed, or on their way (R124-R126, R249). -/

namespace Sys2Proof.Machine

open Sys2Proof

set_option Elab.async false

/-! ### What pieces may be -/

theorem State.rewritten_written (s : State) (ws : List (Loc × List Byte)) : s.Rewritten (s.written ws) := by
  induction ws generalizing s with
  | nil => exact .refl s
  | cons w ws ih =>
    obtain ⟨l, bs⟩ := w
    rw [State.written]
    refine State.Rewritten.trans ?_ (ih _)
    cases l.place with
    | none => exact .refl s
    | some p => exact State.rewritten_foldl (fun s q => s.rewritten_setBytes q bs) _ _

theorem State.written_one (s : State) {l : Loc} {p : Place} (hp : l.place = some p) (bs : List Byte) : s.written [(l, bs)] = s.putLoc p bs := by
  rw [State.putLoc_eq, State.written, hp]
  rfl

theorem State.sentOut_mono {t t' : State} {sp : Space} {w : Loc × List Byte} (h : t.sentOut sp w) (hsub : ∀ f ∈ t.flight, f ∈ t'.flight) :
    t'.sentOut sp w := by
  obtain ⟨p, hp, h⟩ := h
  refine ⟨p, hp, ?_⟩
  by_cases hsp : sp = .dist
  · rw [if_pos hsp] at h ⊢
    obtain ⟨f, hf, hbrings⟩ := h
    exact ⟨f, hsub f hf, hbrings⟩
  · rw [if_neg hsp] at h ⊢
    intro k hk
    obtain ⟨f, hf, hbrings⟩ := h k hk
    exact ⟨f, hsub f hf, hbrings⟩

/-- Two states in which the same pieces are performed later. -/
theorem State.away_of_eq {s t : State} (hcur : t.cur = s.cur) (heager : t.eager = s.eager) (sp : Space) (l : Loc) :
    t.away sp l = s.away sp l := by
  simp only [State.away, State.later, State.reflex, hcur, heager]

/-- A piece moved: what is performed at once is written, what is not sets out (log 26). -/
def State.Moved (s t : State) (sp : Space) (w : Loc × List Byte) : Prop :=
  (s.away sp w.1 = false ∧ t = s.written [w]) ∨ (s.away sp w.1 = true ∧ ∃ fs, t = s.fly fs ∧ t.sentOut sp w)

/-- A run of pieces moved, each after the one before it. -/
structure State.MovedAll (s t : State) (sp : Space) (ws : List (Loc × List Byte)) : Prop where
  my : s.keepsMy t
  slog : t.me.slog = s.me.slog
  eager : t.eager = s.eager
  flight : ∀ f ∈ s.flight, f ∈ t.flight
  bytes : ∀ q, t.byteAt q = (s.written (ws.filter fun w => !s.away sp w.1)).byteAt q
  out : ∀ w ∈ ws, s.away sp w.1 = true → t.sentOut sp w

theorem State.alike_fly (s : State) (fs : List Flight) : s.Alike (s.fly fs) := ⟨fun q => s.byteAt_fly fs q, rfl, fun _ => rfl⟩

/-- The first piece of a run moved. -/
theorem State.Moved.then {s t u : State} {sp : Space} {w : Loc × List Byte} {ws : List (Loc × List Byte)} (h : s.Moved t sp w)
    (hws : t.MovedAll u sp ws) : s.MovedAll u sp (w :: ws) := by
  rcases h with ⟨hnow, rfl⟩ | ⟨haway, fs, rfl, hout⟩
  · have hw := s.rewritten_written [w]
    have heager : (s.written [w]).eager = s.eager := hw.field State.eager
    have hsame := State.away_of_eq hw.cur heager sp
    refine ⟨State.keepsMy.trans ⟨hw.cur, hw.my⟩ hws.my, hws.slog.trans hw.me.slog, hws.eager.trans heager,
      fun f hf => hws.flight f (hw.flight ▸ hf), fun q => ?_, fun x hx hax => ?_⟩
    · rw [hws.bytes, List.filter_cons_of_pos (by rw [hnow]; rfl)]
      simp only [hsame]
      rfl
    · rcases List.mem_cons.mp hx with rfl | hx
      · rw [hnow] at hax
        cases hax
      · exact hws.out x hx (by rw [hsame, hax])
  · refine ⟨hws.my, hws.slog, hws.eager, fun f hf => hws.flight f (List.mem_append_left _ hf), fun q => ?_, fun x hx hax => ?_⟩
    · rw [hws.bytes, List.filter_cons_of_neg (by rw [haway]; decide)]
      exact ((s.alike_fly fs).written _).bytes q
    · rcases List.mem_cons.mp hx with rfl | hx
      · exact State.sentOut_mono hout hws.flight
      · exact hws.out x hx hax

/-- A run of pieces that a function moves one after the other, whatever state it comes to with the same choices. -/
theorem State.movedAll_foldl {s : State} {sp : Space} {f : State → Loc × List Byte → State} {ws : List (Loc × List Byte)}
    (hf : ∀ w ∈ ws, ∀ v : State, v.cur = s.cur → v.eager = s.eager → v.Moved (f v w) sp w) : s.MovedAll (ws.foldl f s) sp ws := by
  induction ws generalizing s with
  | nil => exact ⟨⟨rfl, rfl⟩, rfl, rfl, fun _ h => h, fun _ => rfl, nofun⟩
  | cons w ws ih =>
    have hw := hf w (List.mem_cons_self ..) s rfl rfl
    have hsame : (f s w).cur = s.cur ∧ (f s w).eager = s.eager := by
      rcases hw with ⟨-, h⟩ | ⟨-, fs, h, -⟩ <;> rw [h]
      · exact ⟨(s.rewritten_written [w]).cur, (s.rewritten_written [w]).field State.eager⟩
      · exact ⟨rfl, rfl⟩
    refine hw.then (ih fun x hx v hcur heager => ?_)
    exact hf x (List.mem_cons_of_mem _ hx) v (hcur.trans hsame.1) (heager.trans hsame.2)

/-! ### Through a pointer (R124) -/

theorem State.moved_sendBytes (s : State) {l : Loc} {n off : Nat} (hp : l.place = some (.core n off)) (bs : List Byte) :
    s.Moved (s.sendBytes l bs) .dist (l, bs) := by
  have haway : s.away .dist l = (!s.eager && n != s.cur.core) := by
    unfold State.away
    rw [hp]
    rfl
  unfold State.sendBytes
  rw [hp]
  dsimp only
  by_cases hn : n = s.cur.core
  · rw [if_pos hn]
    refine .inl ⟨by rw [haway, bne_eq_false_iff_eq.mpr hn, Bool.and_false], ?_⟩
    rw [s.written_one hp]
    exact (if_pos hn).symm
  · rw [if_neg hn, Bool.or_false]
    by_cases heager : s.eager = true
    · rw [if_pos heager]
      refine .inl ⟨by rw [haway, heager]; rfl, ?_⟩
      rw [s.written_one hp]
      exact (if_neg hn).symm
    · rw [if_neg heager]
      rw [Bool.not_eq_true] at heager
      refine .inr ⟨by rw [haway, heager, bne_iff_ne.mpr hn]; rfl, [.remote s.cur.core s.cur.ctx n off bs], rfl, ?_⟩
      exact ⟨_, hp, .remote s.cur.core s.cur.ctx n off bs, List.mem_append_right _ (List.mem_singleton_self _), .inl ⟨_, _, _, _, rfl, rfl⟩⟩

/-! ### To core memory, SRAM and global memory (R126, R249) -/

theorem leBytes_leNat (bs : List Byte) : leBytes bs.length (leNat bs) = bs := by
  induction bs with
  | nil => rfl
  | cons b bs ih =>
    have hb := b.isLt
    have hlow : BitVec.ofNat 8 (b.toNat + 256 * leNat bs) = b := BitVec.eq_of_toNat_eq (by rw [BitVec.toNat_ofNat]; omega)
    have hhigh : (b.toNat + 256 * leNat bs) / 256 = leNat bs := by omega
    rw [List.length_cons, leNat, leBytes, hlow, hhigh, ih]

/-- A piece of at most a word sets out as one request. -/
theorem wordsOf_one (va : Word) {bs : List Byte} (hpos : 0 < bs.length) (hword : bs.length ≤ 4) : wordsOf va bs.length bs = [(va, bs)] := by
  obtain ⟨n, hn⟩ := Nat.exists_eq_succ_of_ne_zero (Nat.ne_of_gt hpos)
  obtain ⟨b, t, rfl⟩ := List.exists_cons_of_ne_nil (List.ne_nil_of_length_pos hpos)
  rw [hn, wordsOf, List.take_of_length_le hword, List.drop_of_length_le hword]
  · cases n <;> rfl
  · nofun

theorem State.moved_fly (s : State) {sp : Space} {l : Loc} {p : Place} {bs : List Byte} (hp : l.place = some p) (hsp : sp ≠ .dist)
    (haway : s.away sp l = true) (hpos : 0 < bs.length) (hword : bs.length ≤ 4) :
    s.Moved (s.fly (s.wordRequests l (fun n v => .store n (BitVec.ofNat 64 v)) bs)) sp (l, bs) := by
  refine .inr ⟨haway, _, rfl, p, hp, ?_⟩
  rw [if_neg hsp]
  intro k hk
  obtain rfl : k = 0 := by dsimp only at hk; omega
  have hreq : s.wordRequests l (fun n v => .store n (BitVec.ofNat 64 v)) bs = [.mem s.cur.core s.cur.ctx l.item.va.toNat (p.plus 0).addr l.expiry
      (.store bs.length (BitVec.ofNat 64 (leNat bs))) .travelling ⟨s.me.vf, s.my.pc, s.my.replay⟩] := by
    unfold State.wordRequests
    rw [wordsOf_one _ hpos hword, hp, List.filterMap_cons, Option.map_some, sub_self]
    rfl
  have hlt : leNat bs < 2 ^ 64 :=
    (leNat_lt bs).trans_le ((Nat.pow_le_pow_right (by decide) hword).trans (by decide))
  rw [hreq]
  refine ⟨_, List.mem_append_right _ (List.mem_singleton_self _), .inr ⟨_, _, _, _, _, _, _, rfl, ?_⟩⟩
  rw [BitVec.toNat_ofNat, Nat.mod_eq_of_lt hlt, List.take_of_length_le (by dsimp only [List.drop]; omega)]
  exact leBytes_leNat bs

/-- The pieces of a store that is not performed at issue, one step. -/
def State.flyLoc (s : State) (w : Loc × List Byte) : State :=
  match w.1.place with
  | some p => if p.travels then s.fly (s.wordRequests w.1 (fun n v => .store n (BitVec.ofNat 64 v)) w.2) else s.setBytes p w.2
  | none => s

theorem State.flyLocs_eq (s : State) (ws : List (Loc × List Byte)) : s.flyLocs ws = ws.foldl State.flyLoc s := by
  induction ws generalizing s with
  | nil => rfl
  | cons w ws ih => exact ih _

/-- Where the pieces of a checked access that names no pointer lie: on absent pages, in global memory on a reasoning core, in memories
that no request travels to on a reflex core, or in the core's own memory. -/
def State.stays (s : State) (p : Place) : Prop := p.travels = (!s.reflex) ∨ ∃ off, p = .core s.cur.core off

theorem State.away_near (s : State) {sp : Space} (hsp : sp ≠ .dist) {l : Loc} {p : Place} (hp : l.place = some p) :
    s.away sp l = (!s.eager && (p.travels && !s.reflex)) := by
  unfold State.away
  rw [hp]
  cases sp with
  | dist => exact absurd rfl hsp
  | glob | loc => rfl

theorem State.away_absent (s : State) (sp : Space) {l : Loc} (hp : l.place = none) : s.away sp l = false := by
  unfold State.away
  rw [hp]

theorem State.moved_flyLoc (s : State) {sp : Space} (hsp : sp ≠ .dist) {w : Loc × List Byte} (heager : s.eager = false)
    (hreflex : s.reflex = false) (hstays : ∀ p, w.1.place = some p → s.stays p) (hpos : 0 < w.2.length) (hword : w.2.length ≤ 4) :
    s.Moved (s.flyLoc w) sp w := by
  obtain ⟨l, bs⟩ := w
  unfold State.flyLoc
  cases hp : l.place with
  | none =>
    refine .inl ⟨s.away_absent sp hp, ?_⟩
    rw [State.written, hp]
    rfl
  | some p =>
    have haway := s.away_near hsp hp
    rw [heager, hreflex, Bool.not_false, Bool.true_and, Bool.and_true] at haway
    dsimp only
    by_cases htravels : p.travels = true
    · rw [if_pos htravels]
      exact s.moved_fly hp hsp (haway.trans htravels) hpos hword
    · rw [if_neg htravels]
      rw [Bool.not_eq_true] at htravels
      refine .inl ⟨haway.trans htravels, ?_⟩
      obtain ⟨off, rfl⟩ := (hstays p hp).resolve_left (by rw [htravels, hreflex]; decide)
      rw [s.written_one hp]
      exact (if_pos rfl).symm

theorem State.written_eq_foldl (s : State) (ws : List (Loc × List Byte)) : s.written ws = ws.foldl (fun s w => s.written [w]) s := by
  induction ws generalizing s with
  | nil => rfl
  | cons w ws ih => exact ih _

/-- The pieces of a store in a space that is no other core's memory, past the side log. -/
theorem State.movedAll_put (s : State) {sp : Space} (hsp : sp ≠ .dist) {ws : List (Loc × List Byte)}
    (hstays : ∀ w ∈ ws, ∀ p, w.1.place = some p → s.stays p) (hsize : ∀ w ∈ ws, 0 < w.2.length ∧ w.2.length ≤ 4) :
    s.MovedAll (if s.eager || s.reflex then s.writeLocs ws else s.flyLocs ws) sp ws := by
  have hreflex : ∀ v : State, v.cur = s.cur → v.reflex = s.reflex := fun v h => by rw [State.reflex, State.reflex, h]
  split
  · next hnow =>
    rw [State.writeLocs_eq, State.written_eq_foldl]
    refine State.movedAll_foldl fun w hw v hcur heager => .inl ⟨?_, rfl⟩
    cases hp : w.1.place with
    | none => exact v.away_absent sp hp
    | some p =>
      rw [v.away_near hsp hp, heager, hreflex v hcur]
      cases he : s.eager with
      | true => rfl
      | false =>
        rw [he, Bool.false_or] at hnow
        rw [hnow, Bool.not_true, Bool.and_false, Bool.and_false]
  · next hlater =>
    rw [Bool.or_eq_true, not_or, Bool.not_eq_true, Bool.not_eq_true] at hlater
    rw [State.flyLocs_eq]
    refine State.movedAll_foldl fun w hw v hcur heager => ?_
    refine v.moved_flyLoc hsp (heager.trans hlater.1) ((hreflex v hcur).trans hlater.2) (fun p hp => ?_) (hsize w hw).1 (hsize w hw).2
    rw [State.stays, hreflex v hcur, hcur]
    exact hstays w hw p hp

/-- Every place of a check that names no pointer stays. -/
theorem State.check_stays {s u : State} {sp : Space} {acc : Acc} {inf : AddrInfo} {is : List Item} {locs : List Loc} (hsp : sp ≠ .dist)
    (hcheck : s.check sp acc inf is = .ok (locs, u)) : ∀ l ∈ locs, ∀ p, l.place = some p → u.stays p := by
  intro l hl p hp
  cases sp with
  | dist => exact absurd rfl hsp
  | glob =>
    left
    rw [State.reflex_check hcheck]
    exact (State.check_glob_ok hcheck).travels l hl p hp
  | loc =>
    obtain ⟨rfl, rfl⟩ := State.check_loc_ok hcheck
    obtain ⟨i, -, rfl⟩ := List.mem_map.mp hl
    cases hp
    exact .inr ⟨_, rfl⟩

end Sys2Proof.Machine
end

section
/-! SUPPORT. The entries of one instruction in the side log: each piece's bytes are in the entry of its sector (R126, R143). -/

namespace Sys2Proof.Machine

open Sys2Proof

set_option Elab.async false

/-! ### Entries that merge -/

theorem mergeEntry_mask (a b : LogEntry) (j : Nat) : (mergeEntry a b).mask.getLsbD j = (a.mask.getLsbD j || b.mask.getLsbD j) :=
  BitVec.getLsbD_or

/-- The bytes of the later entry stand over those of the earlier. -/
theorem mergeEntry_byte (a b : LogEntry) {j : Nat} (hj : j < 128) :
    (mergeEntry a b).byte j = if b.mask.getLsbD j then b.byte j else a.byte j := by
  have h := extract_shifted (w := 1024) (m := 0) (k := j)
    (leNat ((List.range 128).map fun i => if b.mask.getLsbD i then b.byte i else a.byte i)) (by omega)
  rw [ofNat_leNat_div, Nat.mul_zero, pow_zero, mul_one, Nat.zero_add] at h
  refine h.trans ?_
  rw [List.getD_eq_getElem _ _ (by rwa [List.length_map, List.length_range]), List.getElem_map, List.getElem_range]

/-- The rest of an entry that takes another's bytes is its own. -/
theorem mergeEntry_rest (a b : LogEntry) : (mergeEntry a b).op = a.op ∧ (mergeEntry a b).vf = a.vf ∧ (mergeEntry a b).ctx = a.ctx ∧
    (mergeEntry a b).sector = a.sector := by
  unfold mergeEntry
  exact ⟨rfl, rfl, rfl, rfl⟩

/-- An entry that writes, for a function and a context. -/
structure LogEntry.Writes (g : LogEntry) (vf ctx : Nat) : Prop where
  op : g.op = .write
  vf : g.vf = vf
  ctx : g.ctx = ctx

/-- An entry has a piece: its sector, and its bytes under the mask. -/
structure LogEntry.Has (g : LogEntry) (vf ctx va : Nat) (bs : List Byte) : Prop extends g.Writes vf ctx where
  sector : g.sector = va / 128 * 128
  bytes : ∀ k < bs.length, g.mask.getLsbD (va % 128 + k) = true ∧ g.byte (va % 128 + k) = bs.getD k 0

section
variable {vf ctx va : Nat} {bs : List Byte}

theorem logEntryOf_writes : (logEntryOf va bs .write vf ctx).Writes vf ctx := ⟨rfl, rfl, rfl⟩

theorem logEntryOf_has (hin : va % 128 + bs.length ≤ 128) : (logEntryOf va bs .write vf ctx).Has vf ctx va bs where
  toWrites := logEntryOf_writes
  sector := rfl
  bytes k hk := by
    rw [logEntryOf_mask _ _ _ _ (by omega), logEntryOf_byte _ _ _ _ (by omega)]
    exact ⟨decide_eq_true (by omega), rfl⟩

theorem LogEntry.Writes.merge {a : LogEntry} (h : a.Writes vf ctx) (b : LogEntry) : (mergeEntry a b).Writes vf ctx := by
  obtain ⟨hop, hvf, hctx, -⟩ := mergeEntry_rest a b
  exact ⟨hop.trans h.op, hvf.trans h.vf, hctx.trans h.ctx⟩

/-- An entry that takes a piece's bytes has them. -/
theorem mergeEntry_has {a b : LogEntry} (ha : a.Writes vf ctx) (hsector : a.sector = b.sector) (hb : b.Has vf ctx va bs)
    (hin : va % 128 + bs.length ≤ 128) : (mergeEntry a b).Has vf ctx va bs where
  toWrites := ha.merge b
  sector := ((mergeEntry_rest a b).2.2.2.trans hsector).trans hb.sector
  bytes k hk := by
    obtain ⟨hmask, hbyte⟩ := hb.bytes k hk
    rw [mergeEntry_mask, mergeEntry_byte _ _ (by omega), hmask, Bool.or_true, if_pos rfl]
    exact ⟨rfl, hbyte⟩

/-- An entry keeps a piece when it takes another that shares no byte with it. -/
theorem LogEntry.Has.merge {a : LogEntry} {va' : Nat} {bs' : List Byte} (h : a.Has vf ctx va bs) (hin : va % 128 + bs.length ≤ 128)
    (hsector : a.sector = va' / 128 * 128) (hapart : va' + bs'.length ≤ va ∨ va + bs.length ≤ va') :
    (mergeEntry a (logEntryOf va' bs' .write vf ctx)).Has vf ctx va bs where
  toWrites := h.toWrites.merge _
  sector := (mergeEntry_rest a _).2.2.2.trans h.sector
  bytes k hk := by
    obtain ⟨hmask, hbyte⟩ := h.bytes k hk
    have hsame : va / 128 * 128 = va' / 128 * 128 := h.sector.symm.trans hsector
    have hother : (logEntryOf va' bs' .write vf ctx).mask.getLsbD (va % 128 + k) = false := by
      rw [logEntryOf_mask _ _ _ _ (by omega)]
      exact decide_eq_false (by omega)
    rw [mergeEntry_mask, mergeEntry_byte _ _ (by omega), hmask, hother, Bool.true_or, if_neg Bool.false_ne_true]
    exact ⟨rfl, hbyte⟩

/-! ### The entries of a run of pieces -/

theorem addEntry_length (es : List LogEntry) (e : LogEntry) : (addEntry es e).length ≤ es.length + 1 := by
  induction es with
  | nil => exact Nat.le_refl _
  | cons a es ih =>
    unfold addEntry
    split
    · rw [List.length_cons, List.length_cons]
      omega
    · rw [List.length_cons, List.length_cons]
      omega

theorem addEntry_writes {es : List LogEntry} {e : LogEntry} (hes : ∀ g ∈ es, g.Writes vf ctx) (he : e.Writes vf ctx) :
    ∀ g ∈ addEntry es e, g.Writes vf ctx := by
  induction es with
  | nil =>
    intro g hg
    obtain rfl := List.mem_singleton.mp hg
    exact he
  | cons a es ih =>
    have ha := hes a (List.mem_cons_self ..)
    have hrest := fun g hg => hes g (List.mem_cons_of_mem _ hg)
    unfold addEntry
    split
    · exact List.forall_mem_cons.mpr ⟨ha.merge e, hrest⟩
    · exact List.forall_mem_cons.mpr ⟨ha, ih hrest⟩

/-- The piece that comes is in one of the entries. -/
theorem addEntry_has_new {es : List LogEntry} (hes : ∀ g ∈ es, g.Writes vf ctx) (hin : va % 128 + bs.length ≤ 128) :
    ∃ g ∈ addEntry es (logEntryOf va bs .write vf ctx), g.Has vf ctx va bs := by
  induction es with
  | nil => exact ⟨_, List.mem_singleton_self _, logEntryOf_has hin⟩
  | cons a es ih =>
    unfold addEntry
    split
    · next hsector => exact ⟨_, List.mem_cons_self .., mergeEntry_has (hes a (List.mem_cons_self ..)) hsector (logEntryOf_has hin) hin⟩
    · obtain ⟨g, hg, hhas⟩ := ih fun g hg => hes g (List.mem_cons_of_mem _ hg)
      exact ⟨g, List.mem_cons_of_mem _ hg, hhas⟩

/-- A piece that was in one of the entries stays in one. -/
theorem addEntry_has_kept {es : List LogEntry} {va' : Nat} {bs' : List Byte} (h : ∃ g ∈ es, g.Has vf ctx va bs)
    (hin : va % 128 + bs.length ≤ 128) (hapart : va' + bs'.length ≤ va ∨ va + bs.length ≤ va') :
    ∃ g ∈ addEntry es (logEntryOf va' bs' .write vf ctx), g.Has vf ctx va bs := by
  obtain ⟨g, hg, hhas⟩ := h
  induction es with
  | nil => cases hg
  | cons a es ih =>
    unfold addEntry
    split
    · next hsector =>
      rcases List.mem_cons.mp hg with rfl | hg
      · exact ⟨_, List.mem_cons_self .., hhas.merge hin hsector hapart⟩
      · exact ⟨g, List.mem_cons_of_mem _ hg, hhas⟩
    · rcases List.mem_cons.mp hg with rfl | hg
      · exact ⟨g, List.mem_cons_self .., hhas⟩
      · obtain ⟨g', hg', hhas'⟩ := ih hg
        exact ⟨g', List.mem_cons_of_mem _ hg', hhas'⟩

end

/-! ### The entries of an instruction's writes -/

/-- The entries of pieces on absent pages, one piece after the other. -/
def addPieces (vf ctx : Nat) (es : List LogEntry) (ws : List (Loc × List Byte)) : List LogEntry :=
  ws.foldl (fun es w => addEntry es (logEntryOf w.1.item.va.toNat w.2 .write vf ctx)) es

theorem logWrites_eq (vf ctx : Nat) (ws : List (Loc × List Byte)) :
    logWrites vf ctx none .write ws = addPieces vf ctx [] (ws.filter fun w => w.1.place.isNone) := by
  cases ws with
  | nil => rfl
  | cons w ws => rfl

section
variable {vf ctx : Nat}

theorem addPieces_length (es : List LogEntry) (ws : List (Loc × List Byte)) : (addPieces vf ctx es ws).length ≤ es.length + ws.length := by
  induction ws generalizing es with
  | nil => exact Nat.le_refl _
  | cons w ws ih =>
    have hadd := addEntry_length es (logEntryOf w.1.item.va.toNat w.2 .write vf ctx)
    have hrest := ih (addEntry es (logEntryOf w.1.item.va.toNat w.2 .write vf ctx))
    change (addPieces vf ctx (addEntry es _) ws).length ≤ _
    rw [List.length_cons]
    omega

theorem addPieces_writes {es : List LogEntry} (hes : ∀ g ∈ es, g.Writes vf ctx) (ws : List (Loc × List Byte)) :
    ∀ g ∈ addPieces vf ctx es ws, g.Writes vf ctx := by
  induction ws generalizing es with
  | nil => exact hes
  | cons w ws ih => exact ih (addEntry_writes hes logEntryOf_writes)

theorem addPieces_kept {es : List LogEntry} {ws : List (Loc × List Byte)} {va : Nat} {bs : List Byte} (h : ∃ g ∈ es, g.Has vf ctx va bs)
    (hin : va % 128 + bs.length ≤ 128)
    (hapart : ∀ w ∈ ws, w.1.item.va.toNat + w.2.length ≤ va ∨ va + bs.length ≤ w.1.item.va.toNat) :
    ∃ g ∈ addPieces vf ctx es ws, g.Has vf ctx va bs := by
  induction ws generalizing es with
  | nil => exact h
  | cons w ws ih =>
    exact ih (addEntry_has_kept h hin (hapart w (List.mem_cons_self ..))) fun x hx => hapart x (List.mem_cons_of_mem _ hx)

/-- A piece on an absent page that shares no byte with a later one is in one of the instruction's entries. -/
theorem logWrites_has {ws rest : List (Loc × List Byte)} {w : Loc × List Byte} (habsent : w.1.place = none)
    (hin : w.1.item.va.toNat % 128 + w.2.length ≤ 128)
    (hapart : ∀ x ∈ rest, x.1.item.va.toNat + x.2.length ≤ w.1.item.va.toNat ∨ w.1.item.va.toNat + w.2.length ≤ x.1.item.va.toNat) :
    ∃ g ∈ logWrites vf ctx none .write (ws ++ w :: rest), g.Has vf ctx w.1.item.va.toNat w.2 := by
  rw [logWrites_eq, List.filter_append, List.filter_cons_of_pos (by rw [habsent]; rfl), addPieces, List.foldl_append, List.foldl_cons]
  have hwrites := addPieces_writes (vf := vf) (ctx := ctx) (es := []) (List.forall_mem_nil _) (ws.filter fun w => w.1.place.isNone)
  have hnew := addEntry_has_new hwrites hin
  exact addPieces_kept hnew hin fun x hx => hapart x (List.mem_filter.mp hx).1

theorem logWrites_length (ws : List (Loc × List Byte)) : (logWrites vf ctx none .write ws).length ≤ ws.length := by
  rw [logWrites_eq]
  have hpieces := addPieces_length (vf := vf) (ctx := ctx) [] (ws.filter fun w => w.1.place.isNone)
  have hfilter := List.length_filter_le (fun w : Loc × List Byte => w.1.place.isNone) ws
  rw [List.length_nil, Nat.zero_add] at hpieces
  exact hpieces.trans hfilter

end

end Sys2Proof.Machine
end

section
/-! PROOF. Vector stores, where no stream is bound, and the whole of O19 (R124-R126, R143). -/

namespace Sys2Proof.Machine

open Sys2Proof

set_option Elab.async false

/-- The lanes' bytes with their pieces. -/
def State.laneWrites (s : State) (d : Reg5) (eb : Nat) (locs : List Loc) : List (Loc × List Byte) :=
  locs.map fun l => (l, leBytes eb (laneNat (s.getV d) eb l.item.lane))

/-- What a vector store does with its located lanes. -/
def State.storeLanes (s u : State) (sp : Space) (locs : List Loc) (ws : List (Loc × List Byte)) (len : Nat) : Except Stop State :=
  if sp = .dist then
    .ok (if s.anyRemote locs then (ws.foldl (fun t w => t.sendBytes w.1 w.2) u).sent len
      else (ws.foldl (fun t w => t.sendBytes w.1 w.2) u).advance len)
  else u.storeLocs ws >>= fun t => .ok (t.advance len)

section
variable {i : Instr} {s u : State} {d : Reg5} {sp : Space} {eb : Nat} {x : Option VExt} {addr : Nat → Word} {locs : List Loc}

theorem vstoreForm_unbound {a : Reg5} {dist : State → Nat → Int} {srcs : List Nat} {off : Option Word} {g : Reg3} {len : Nat}
    (hg : s.guardOn g = true) (hs : s.unbound) (hlen : 1 + extWords x + litWords off = len)
    (hcheck : s.check sp .store { write := true } (s.laneAccesses eb x fun i => s.laneAt sp a off (dist s i)) = .ok (locs, u))
    (hcalm : u.calm) : vstoreForm d a sp eb dist srcs off x g s =
      s.run (s.keeping sp .store (s.laneAccesses eb x fun i => s.laneAt sp a off (dist s i))
        (s.storeLanes u sp locs (s.laneWrites d eb locs) len)) := by
  unfold vstoreForm
  rw [State.guarded_on hg, State.pops_unbound hs, hlen]
  change s.run (s.keeping sp .store (s.laneItems sp a off x eb (dist s))
    (s.check sp .store { write := true } (s.laneItems sp a off x eb (dist s)) >>= fun _ => _)) = _
  rw [State.laneItems_eq, hcheck]
  change s.run (s.keeping sp .store _ (u.clearOf locs >>= fun _ => _)) = _
  rw [State.clearOf_calm hcalm]
  rfl

theorem exec_vstore (h : vectorMemRule s i = some (d, true, sp, eb, x, addr)) (hg : s.guardHolds i = true) (hs : s.unbound)
    (hcheck : s.check sp .store { write := true } (s.laneAccesses eb x addr) = .ok (locs, u)) (hcalm : u.calm) :
    exec i s = s.run (s.keeping sp .store (s.laneAccesses eb x addr)
      (s.storeLanes u sp locs (s.laneWrites d eb locs) (words i))) := by
  cases i with
  | vst d' a sp' off x' g =>
    cases h
    exact vstoreForm_unbound hg hs (by cases off <;> cases x <;> rfl) hcheck hcalm
  | vsct d' a b sp' w off x' g =>
    cases h
    cases w
    all_goals exact vstoreForm_unbound hg hs (by cases off <;> cases x <;> rfl) hcheck hcalm
  | _ => cases h

theorem mem_laneWrites {w : Loc × List Byte} (h : w ∈ s.laneWrites d eb locs) : w.1 ∈ locs ∧ w.2.length = eb := by
  obtain ⟨l, hl, rfl⟩ := List.mem_map.mp h
  exact ⟨hl, leBytes_length _ _⟩

theorem logWrites_lanes_placed (h : placed locs) : logWrites u.me.vf u.cur.ctx none .write (s.laneWrites d eb locs) = [] :=
  logWrites_placed (fun _ hw => h _ (mem_laneWrites hw).1) _ _ _

/-- What a store of located lanes leaves before its instruction is over: entries for the absent ones, the others moved. -/
def State.StoresLanes (s u w : State) (sp : Space) (d : Reg5) (eb : Nat) (locs : List Loc) : Prop :=
  ∃ v, u.Entered v (logWrites u.me.vf u.cur.ctx none .write (s.laneWrites d eb locs)) ∧ v.MovedAll w sp (s.laneWrites d eb locs)

theorem storeLanes_dist (hcheck : s.check .dist .store { write := true } (s.laneAccesses eb x addr) = .ok (locs, u)) (len : Nat) :
    ∃ w t far, s.storeLanes u .dist locs (s.laneWrites d eb locs) len = .ok t ∧ s.StoresLanes u w .dist d eb locs ∧ w.Completes t len far := by
  obtain ⟨rfl, hlocs⟩ := State.check_dist_ok hcheck
  have hcore : ∀ l ∈ locs, ∃ n off, l.place = some (.core n off) := fun l hl => by
    rw [hlocs] at hl
    obtain ⟨i, -, rfl⟩ := List.mem_map.mp hl
    exact ⟨_, _, rfl⟩
  have hentered : u.Entered u (logWrites u.me.vf u.cur.ctx none .write (u.laneWrites d eb locs)) := by
    rw [logWrites_lanes_placed fun l hl => by obtain ⟨n, off, hp⟩ := hcore l hl; rw [hp]; rfl]
    exact .refl u
  have hmoved : u.MovedAll ((u.laneWrites d eb locs).foldl (fun t w => t.sendBytes w.1 w.2) u) .dist (u.laneWrites d eb locs) :=
    State.movedAll_foldl fun w hw v _ _ => by
      obtain ⟨n, off, hp⟩ := hcore _ (mem_laneWrites hw).1
      exact v.moved_sendBytes hp w.2
  refine ⟨_, _, u.anyRemote locs = true, if_pos rfl, ⟨u, hentered, hmoved⟩, ?_⟩
  split
  · next hfar => exact .inl ⟨hfar, rfl⟩
  · next hnear => exact .inr ⟨hnear, .inl rfl⟩

theorem storeLanes_near (hsp : sp ≠ .dist) (hsize : eb = 2 ∨ eb = 4)
    (hcheck : s.check sp .store { write := true } (s.laneAccesses eb x addr) = .ok (locs, u)) (hcalm : u.calm)
    (hroom : placed locs ∨ u.me.slog.length + locs.length ≤ 64) (len : Nat) :
    ∃ w t far, s.storeLanes u sp locs (s.laneWrites d eb locs) len = .ok t ∧ s.StoresLanes u w sp d eb locs ∧ w.Completes t len far := by
  obtain ⟨v, henter, hv⟩ : ∃ v, u.enterLog (logWrites u.me.vf u.cur.ctx none .write (s.laneWrites d eb locs)) = .ok v ∧
      u.Entered v (logWrites u.me.vf u.cur.ctx none .write (s.laneWrites d eb locs)) := by
    rcases hroom with hp | hroom
    · rw [logWrites_lanes_placed hp]
      exact ⟨u, rfl, .refl u⟩
    · have hlength := logWrites_length (vf := u.me.vf) (ctx := u.cur.ctx) (s.laneWrites d eb locs)
      have hlanes : (s.laneWrites d eb locs).length = locs.length := List.length_map _
      exact State.enterLog_ok (by omega)
  have hstays : ∀ w ∈ s.laneWrites d eb locs, ∀ p, w.1.place = some p → v.stays p := by
    intro w hw p hp
    have hu := State.check_stays hsp hcheck _ (mem_laneWrites hw).1 p hp
    rwa [State.stays, State.reflex, hv.my.1]
  have hmoved := v.movedAll_put hsp hstays fun w hw => by
    rw [(mem_laneWrites hw).2]
    omega
  have hstore : u.storeLocs (s.laneWrites d eb locs) =
      .ok (if v.eager || v.reflex then v.writeLocs (s.laneWrites d eb locs) else v.flyLocs (s.laneWrites d eb locs)) := by
    unfold State.storeLocs
    rw [State.clearOf_calm hcalm]
    change (u.enterLog _ >>= fun _ => _) = _
    rw [henter]
    change Except.ok (if v.eager || false || false || v.reflex then _ else _) = _
    rw [Bool.or_false, Bool.or_false]
  exact ⟨_, _, False, (if_neg hsp).trans (by rw [hstore]; rfl), ⟨v, hv, hmoved⟩, .inr ⟨not_false, .inl rfl⟩⟩

/-- A lane on an absent page is an aligned element within one sector. -/
theorem laneWrites_sector (hsize : eb = 2 ∨ eb = 4)
    (hcheck : s.check sp .store { write := true } (s.laneAccesses eb x addr) = .ok (locs, u)) {w : Loc × List Byte}
    (hw : w ∈ s.laneWrites d eb locs) (habsent : w.1.place = none) : w.1.item.va.toNat % 128 + w.2.length ≤ 128 := by
  obtain ⟨hl, hlen⟩ := mem_laneWrites hw
  have hglob : sp = .glob := by
    cases sp with
    | glob => rfl
    | loc =>
      rw [(State.check_loc_ok hcheck).2] at hl
      obtain ⟨i, -, hi⟩ := List.mem_map.mp hl
      rw [← hi] at habsent
      cases habsent
    | dist =>
      rw [(State.check_dist_ok hcheck).2] at hl
      obtain ⟨i, -, hi⟩ := List.mem_map.mp hl
      rw [← hi] at habsent
      cases habsent
  subst hglob
  have hmem : w.1.item ∈ s.laneAccesses eb x addr := State.check_items hcheck ▸ List.mem_map_of_mem hl
  obtain ⟨-, -, hal⟩ := (State.check_glob_ok hcheck).aligned _ hmem
  rw [((lanes_of_check hcheck).2 _ hl).2] at hal
  rw [hlen]
  rcases hsize with rfl | rfl
  · exact sector_of_aligned (z := 1) rfl (by decide) hal
  · exact sector_of_aligned (z := 2) rfl (by decide) hal

/-- The entries of a vector store are what R143 asks of its log. -/
theorem logged_of_slog {t : State} (hsize : eb = 2 ∨ eb = 4)
    (hcheck : s.check sp .store { write := true } (s.laneAccesses eb x addr) = .ok (locs, u))
    (hslog : t.me.slog = u.me.slog ++ logWrites u.me.vf u.cur.ctx none .write (s.laneWrites d eb locs)) :
    t.logged u (s.laneWrites d eb locs) := by
  intro n w hn habsent hapart
  obtain ⟨hlt, hget⟩ := List.getElem?_eq_some_iff.mp hn
  have hw : w ∈ s.laneWrites d eb locs := hget ▸ List.getElem_mem hlt
  have hsplit : s.laneWrites d eb locs = (s.laneWrites d eb locs).take n ++ w :: (s.laneWrites d eb locs).drop (n + 1) := by
    rw [← hget, List.getElem_cons_drop, List.take_append_drop]
  have hbytes : ∀ y ∈ s.laneWrites d eb locs, y.1.item.n = y.2.length := fun y hy => by
    rw [((lanes_of_check hcheck).2 _ (mem_laneWrites hy).1).1, (mem_laneWrites hy).2]
  have hlater : ∀ y ∈ (s.laneWrites d eb locs).drop (n + 1), y.1.item.va.toNat + y.2.length ≤ w.1.item.va.toNat ∨
      w.1.item.va.toNat + w.2.length ≤ y.1.item.va.toNat := by
    intro y hy
    obtain ⟨m, hm⟩ := List.mem_iff_getElem?.mp hy
    rw [List.getElem?_drop] at hm
    have h := hapart (n + 1 + m) y (by omega) hm
    rwa [hbytes y (List.mem_of_mem_drop hy), hbytes w hw] at h
  have hhas := logWrites_has (vf := u.me.vf) (ctx := u.cur.ctx) (ws := (s.laneWrites d eb locs).take n) habsent
    (laneWrites_sector hsize hcheck hw habsent) hlater
  rw [← hsplit] at hhas
  obtain ⟨g, hg, hgw⟩ := hhas
  refine ⟨g, ?_, hgw.sector, hgw.op, hgw.vf, hgw.ctx, hgw.bytes⟩
  rw [hslog]
  exact List.mem_append_right _ hg

theorem exec_vstore_lanes (h : vectorMemRule s i = some (d, true, sp, eb, x, addr)) (hg : s.guardHolds i = true) (hs : s.unbound)
    (hcheck : s.check sp .store { write := true } (s.laneAccesses eb x addr) = .ok (locs, u)) (hcalm : u.calm)
    (hroom : placed locs ∨ u.me.slog.length + locs.length ≤ 64) :
    let ws := s.laneWrites d eb locs
    ∃ t, exec i s = .next t ∧ (∀ q, t.byteAt q = (u.written (ws.filter fun w => !u.away sp w.1)).byteAt q) ∧
      (∀ w ∈ ws, u.away sp w.1 = true → t.sentOut sp w) ∧ t.logged u ws ∧
      (∀ r, t.getG r = s.getG r) ∧ (∀ r, t.getP r = s.getP r) ∧ (∀ r, t.getV r = s.getV r) ∧ (∀ r, t.getA r = s.getA r) ∧
      u.movesOn t (words i) := by
  have hsize := vectorMem_size h
  obtain ⟨w, t, far, hat, ⟨v, hv, hw⟩, hend⟩ : ∃ w t far, s.storeLanes u sp locs (s.laneWrites d eb locs) (words i) = .ok t ∧
      s.StoresLanes u w sp d eb locs ∧ w.Completes t (words i) far := by
    by_cases hsp : sp = .dist
    · subst hsp
      exact storeLanes_dist hcheck _
    · exact storeLanes_near hsp hsize hcheck hcalm hroom _
  have hs' : s.keepsMy u := State.check_frame hcheck
  have hall : s.Along w := ((hs'.trans hv.my).trans hw.my).along
  have haway := State.away_of_eq hv.my.1 hv.eager sp
  refine ⟨t, (exec_vstore h hg hs hcheck hcalm).trans (by rw [hat]; rfl), fun q => ?_, fun y hy hay => ?_, ?_, fun r => ?_, fun r => ?_,
    fun r => ?_, fun r => ?_, ?_⟩
  · rw [hend.sameBytes, hw.bytes]
    simp only [haway]
    exact (hv.alike.written _).bytes q
  · refine State.sentOut_mono (hw.out y hy (by rw [haway, hay])) fun f hf => ?_
    rw [hend.flight]
    exact hf
  · exact logged_of_slog hsize hcheck (hend.slog.trans (hw.slog.trans hv.slog))
  · rw [hend.getG, hall.getG]
  · rw [hend.getP, hall.getP]
  · rw [hend.getV, hall.getV]
  · rw [hend.getA, hall.getA]
  · have hu := hv.my.trans hw.my
    exact hend.movesOn (congrArg Ctx.pc hu.2) (congrArg Ctx.replay hu.2)

end

/-- Settles O19: a load merges the bytes of its located lanes; a store enters its absent lanes in the log and moves the others. -/
theorem vectorAccesses : Obligations.VectorAccesses := by
  unfold Obligations.VectorAccesses
  refine ⟨?_, ?_⟩
  · intro i s u d sp eb x addr locs h hg hs hcheck hcalm hgood
    exact exec_vload_lanes h hg hs hcheck hcalm hgood
  · intro i s u d sp eb x addr locs h hg hs hcheck hcalm hroom
    exact exec_vstore_lanes h hg hs hcheck hcalm hroom

end Sys2Proof.Machine
end
